-- ==== Sys2Proof/Word.lean ====
section
/-! DEFINITION. The word types of the K25 model. -/

namespace Sys2Proof

/-- A byte, the smallest addressable unit of every memory of the part (R14). -/
abbrev Byte := BitVec 8

/-- A 32-bit register word (R16). -/
abbrev Word32 := BitVec 32

/-- A 64-bit word: scalar registers, time counters, doorbells. -/
abbrev Word64 := BitVec 64

end Sys2Proof
end

