-- ==== Sys2Proof/Machine/Tab.lean ====
section
/-! DEFINITION. Sparse tables: a list of key and value pairs in one canonical form (keys strictly
rising, no entry equal to the default), so that equal tables are equal data. -/

namespace Sys2Proof.Machine

/-- A sparse table from numbers to `α`; an unlisted key reads as the table's default. -/
abbrev Tab (α : Type) := List (Nat × α)

variable {α : Type}

/-- The value at key `k`, the default `d` where none is listed. -/
def tget (d : α) : Tab α → Nat → α
  | [], _ => d
  | (j, v) :: t, k => if j = k then v else tget d t k

/-- The table without an entry at key `k`. -/
def tdel : Tab α → Nat → Tab α
  | [], _ => []
  | (j, v) :: t, k => if j = k then tdel t k else (j, v) :: tdel t k

/-- The table with `v` listed at key `k`, kept in rising order. -/
def tins : Tab α → Nat → α → Tab α
  | [], k, v => [(k, v)]
  | (j, w) :: t, k, v =>
    if j = k then (k, v) :: t else if k < j then (k, v) :: (j, w) :: t else (j, w) :: tins t k v

/-- The table with the value `v` at key `k`: a value equal to the default is not listed. -/
def tput [DecidableEq α] (d : α) (t : Tab α) (k : Nat) (v : α) : Tab α :=
  if v = d then tdel t k else tins t k v

/-- The table with the value at key `k` changed by `f`. -/
def tmod [DecidableEq α] (d : α) (t : Tab α) (k : Nat) (f : α → α) : Tab α :=
  tput d t k (f (tget d t k))

/-- Whether the keys of `t` rise strictly and all exceed `lo`. -/
def risingFrom : Nat → Tab α → Bool
  | _, [] => true
  | lo, (k, _) :: t => decide (lo ≤ k) && risingFrom (k + 1) t

/-- The canonical form: keys strictly rising, no entry equal to the default. -/
def tabWf [DecidableEq α] (d : α) (t : Tab α) : Bool :=
  risingFrom 0 t && t.all (fun e => decide (e.2 ≠ d))

/-- The entries whose keys and values pass `p`. -/
def tfilter (p : Nat → α → Bool) (t : Tab α) : Tab α := t.filter (fun e => p e.1 e.2)

/-- Whether some listed entry passes `p`. -/
def tany (p : Nat → α → Bool) (t : Tab α) : Bool := t.any (fun e => p e.1 e.2)

/-- How many listed entries pass `p`. -/
def tcount (p : Nat → α → Bool) (t : Tab α) : Nat := (t.filter (fun e => p e.1 e.2)).length

/-- The first listed key whose entry passes `p`. -/
def tfind (p : Nat → α → Bool) (t : Tab α) : Option Nat := (t.find? (fun e => p e.1 e.2)).map (·.1)

/-- Apply `f` to every listed value, dropping values that become the default. -/
def tmap [DecidableEq α] (d : α) (f : Nat → α → α) (t : Tab α) : Tab α :=
  (t.map (fun e => (e.1, f e.1 e.2))).filter (fun e => decide (e.2 ≠ d))

/-- Element `k` of a list, `d` beyond its end. -/
def lget (d : α) (l : List α) (k : Nat) : α := (l[k]?).getD d

/-- The list with element `k` replaced, unchanged when `k` is beyond its end. -/
def lset (l : List α) (k : Nat) (v : α) : List α := l.set k v

/-- `n` bytes of a sparse byte table from address `a`, the default read as zero. -/
def tbytes : Tab Byte → Nat → Nat → List Byte
  | _, _, 0 => []
  | t, a, n + 1 => tget 0 t a :: tbytes t (a + 1) n

/-- A sparse byte table with the bytes `bs` written from address `a`. -/
def tputBytes : Tab Byte → Nat → List Byte → Tab Byte
  | t, _, [] => t
  | t, a, b :: bs => tputBytes (tput 0 t a b) (a + 1) bs

end Sys2Proof.Machine
end

