-- ==== Sys2Proof/Machine/BankTypes.lean ====
section
/-! DEFINITION. What a parser program bank is made of (R65, R96, R103, R300): Clave instructions without their parser, header
edits, flow profiles, encoding tables and the bank as LOAD_TABLE delivers it. -/

namespace Sys2Proof.Machine

/-- A Clave instruction of a program bank (Table 2.8). -/
inductive ClaveOp where
  | ldb (gd off : Nat)
  | ldh (gd off : Nat)
  | ldw (gd off : Nat)
  | ldbf (gd off pos len : Nat)
  | adv (imm : Nat)
  | advr (gs sh : Nat)
  | setc (gs : Nat)
  | getc (gd : Nat)
  | movi (gd : Nat) (imm : BitVec 16)
  | movhi (gd : Nat) (imm : BitVec 16)
  | mov (gd gs : Nat)
  | add (gd ga gb : Nat)
  | sub (gd ga gb : Nat)
  | addi (gd gs : Nat) (imm : BitVec 16)
  | and (gd ga gb : Nat)
  | or (gd ga gb : Nat)
  | xor (gd ga gb : Nat)
  | andi (gd gs : Nat) (imm : BitVec 16)
  | ori (gd gs : Nat) (imm : BitVec 16)
  | shl (gd gs imm5 : Nat)
  | shr (gd gs imm5 : Nat)
  | beq (gs : Nat) (imm : BitVec 16) (target : Nat)
  | bne (gs : Nat) (imm : BitVec 16) (target : Nat)
  | blt (gs : Nat) (imm : BitVec 16) (target : Nat)
  | bge (gs : Nat) (imm : BitVec 16) (target : Nat)
  | beqr (ga gb target : Nat)
  | bner (ga gb target : Nat)
  | jmp (target : Nat)
  | switch (gs : Nat) (targets : List Nat)
  | call (target : Nat)
  | ret
  | hdr (type : Nat)
  | keyb (gs bits : Nat)
  | keyf (off len : Nat)
  | fld (fn gs : Nat)
  | fldp (fn off len : Nat)
  | crc (gd off len : Nat)
  | csum (gd off len : Nat)
  | tbl (gd gs t : Nat)
  | enc (fn gs e : Nat)
  | metaSel (gd sel : Nat)
  | setm (sel gs : Nat)
  | done
  | fail (code : Nat)
  | slow (code : Nat)
  | nop
  deriving DecidableEq, Repr

/-- A header-edit operation (Table 3.4). -/
inductive EditOp where
  | set (hdr off len : Nat) (const : Option (List Byte))
  | push (hdr len : Nat) (const : List Byte)
  | pop (hdr len : Nat)
  | decTtl (hdr : Nat)
  | csum (hdr : Nat)
  deriving DecidableEq, Repr

/-- A flow profile (Table 3.7); `flagA` and `flagB` are field slots, `none` where the profile names none. -/
structure FlowProfile where
  valid : Bool := false
  keyMask : Nat := 0
  gen : Nat := 0
  edges : List Nat := []
  k : Nat := 0
  flagA : Option Nat := none
  flagB : Option Nat := none
  idleTimeout : Nat := 0
  copyUntracked : Bool := false
  deriving DecidableEq, Repr

/-- A feature encoding table (Table 9.4): kind, lowest code or default, code of a NaN, and its entries: cut points with 0,
or category keys with their codes. -/
structure EncTable where
  kind : Nat := 0
  base : Nat := 0
  missing : Nat := 0
  entries : List (Nat × Nat) := []
  deriving DecidableEq, Repr

/-- A parser program bank as LOAD_TABLE delivers it (R65): its instructions in index order, the entries of its constant tables
(table, index, value), its encoding area (R300), and its numbered header-edit programs and flow profiles. The toolchain's layout
of the delivered bytes is open, so that the command carries what they spell. -/
structure BankImage where
  prog : List ClaveOp := []
  consts : List (Nat × Nat × Word32) := []
  encArea : List Byte := []
  edits : List (Nat × List EditOp) := []
  profiles : List (Nat × FlowProfile) := []
  deriving DecidableEq, Repr

end Sys2Proof.Machine
end

