-- ==== Sys2Proof/Syntax.lean ====
section
/-! DEFINITION. The commands of the block: one constructor of `Instr` per row of spec/opcode_table.json,
with the operands the row's rule gives it. Identifiers are numbers: breakout port `bp` = 4 × package port + s
(0–127), parser `pa` = 80 × pipeline + p with pipeline = 4 × edge die + p (0–1279), function `fn` = 64 × PCIe port + f
(0–127), ring pair `q` = 64 × fn + pair, core 0–767 = 48 × die + 8 × cluster + core, cluster 0–95 = 6 × die + k. -/

namespace Sys2Proof

/-- An operand in scratchpad (R231): a handle, a row offset in it and a byte offset in that row. -/
structure Ref where
  h : Nat
  row : Nat := 0
  off : Nat := 0
  deriving DecidableEq, Repr

/-- An operand moved on by `n` bytes. -/
def Ref.plus (r : Ref) (n : Nat) : Ref := { h := r.h, row := r.row + (r.off + n) / 512, off := (r.off + n) % 512 }

/-- Where e_dst comes from (Table 8.4). -/
inductive DstExp where
  | fixed (e : Int)
  | tensor (r : Ref)
  | track (stream : Nat) (r : Ref)
  deriving DecidableEq, Repr

/-- What an invocation serves (R205, R212): nothing, the ring command with a ticket, or an inference request. -/
inductive Serve where
  | none
  | cmd (t : Nat)
  | req (die r : Nat)
  deriving DecidableEq, Repr

/-- An MM or MM.G4 (R194, R198, R202, R203): formats, weight tiles (one per array), input rows of `aStride` bytes, M, zero
points, and the destination, accumulator rows from `accBase` or partial-sum rows (one operand per array). -/
structure MmOp where
  arr : Nat
  wFmt : Nat
  aFmt : Nat
  w : List Ref
  a : Ref
  aStride : Nat
  m : Nat
  za : Nat := 0
  zw : List Ref := []
  ps : List Ref := []
  first : Bool := false
  accBase : Nat := 0
  tok : Option Nat := none
  deriving DecidableEq, Repr

/-- An AS or ASLD (R202): B activation vectors held as the columns of the array, N weight rows of `wStride` bytes. -/
structure AsOp where
  arr : Nat
  wFmt : Nat
  aFmt : Nat
  b : Nat
  act : Ref
  n : Nat := 1
  w : Ref := ⟨0, 0, 0⟩
  wStride : Nat := 16
  za : Nat := 0
  zw : Option Ref := none
  ps : Option Ref := none
  first : Bool := false
  accBase : Nat := 0
  tok : Option Nat := none
  deriving DecidableEq, Repr

/-- An OP (R202): T pairs of 16-vectors. -/
structure OpOp where
  arr : Nat
  wFmt : Nat
  aFmt : Nat
  t : Nat
  x : Ref
  xStride : Nat
  g : Ref
  gStride : Nat
  za : Nat := 0
  zw : Option Ref := none
  accBase : Nat := 0
  tok : Option Nat := none
  deriving DecidableEq, Repr

/-- The requantiser's operands (R275, Table 8.4). -/
structure RqOp where
  dstFmt : Nat
  mult : Nat := 1
  s0 : Nat := 0
  zo : Nat := 0
  eA : Option Ref := none
  eW : Option Ref := none
  dst : DstExp := .fixed 0
  stoch : Bool := false
  srStream : Nat := 0
  rowBase : Nat := 0
  colBase : Nat := 0
  deriving DecidableEq, Repr

/-- An ACC.OUT (R199): `n` accumulator rows from `accBase` as FP32 or INT32, to rows of `stride` bytes of a handle or to
vector registers from `vreg`, raw or through the requantiser. -/
structure AccOut where
  arr : Nat
  accBase : Nat
  n : Nat
  fp : Bool
  dst : Ref := ⟨0, 0, 0⟩
  stride : Nat := 64
  vreg : Option Nat := none
  rq : Option RqOp := none
  tok : Option Nat := none
  deriving DecidableEq, Repr

/-- A VCVT or VRQ over `rows` rows of `cols` elements (R267, R275). For VRQ the source is INT32. -/
structure CvtOp where
  srcFmt : Nat
  zSrc : Nat := 0
  src : Ref
  srcStride : Nat
  dst : Ref
  dstStride : Nat
  rows : Nat
  cols : Nat
  rq : RqOp
  tok : Option Nat := none
  deriving DecidableEq, Repr

/-- A PEAL.EVAL (R304): the share's ranges in the stores, the vectors and the results; mode 0 FINAL, 1 PARTIAL, 2 LINK_ONLY. -/
structure PealOp where
  share : Nat
  treeBase : Nat := 0
  nodeBase : Nat := 0
  leafBase : Nat := 0
  nTrees : Nat := 1
  nFeatures : Nat
  v : Nat
  vec : Ref
  res : Ref
  mode : Nat
  tok : Option Nat := none
  deriving DecidableEq, Repr

/-- A DMA.IN or DMA.OUT (R230, R266): `n` rows of a local handle against the die pool (`sh`, a SHARED handle), HBM or the
host at `addr`; `scale` names the exponents' address or shared row and their handle. -/
structure DmaOp where
  space : Nat
  addr : Nat := 0
  sh : Ref := ⟨0, 0, 0⟩
  loc : Ref
  n : Nat
  scale : Option (Nat × Ref) := none
  tok : Option Nat := none
  deriving DecidableEq, Repr

/-- The element-wise and movement operations of the vector unit (Table 6.7). -/
inductive VecOp where
  | add | sub | min | max | cmpEq | cmpLt | cmpLe | select | shl | shr | sar | and | or | xor | mul | fma
  | exp | log | rcp | rsqrt | logistic | tanh
  deriving DecidableEq, Repr

/-- A condition of BR on the last CMP. -/
inductive Cond where
  | eq | ne | lt | ge | le | gt | ltu | geu | leu | gtu
  deriving DecidableEq, Repr

/-- A GATHER (R381, R384): `n` elements of the table in slot `slot`; the indices stand in `keys`, or keys of `keyLen` bytes
that the keyed table in slot `keyed` turns into indices, `dflt` for a key it lacks. -/
structure GatherOp where
  slot : Nat
  keys : Ref
  n : Nat
  dst : Ref
  keyed : Option Nat := none
  keyLen : Nat := 4
  dflt : Nat := 0xFFFFFFFF
  tok : Option Nat := none
  deriving DecidableEq, Repr

/-- Who sends queries to an attention unit (R343): a step of this package and its sequence, or another package's step over its
shard here, named by partition and descriptor. -/
inductive AttnSrc where
  | step (t b : Nat)
  | shard (part desc : Nat)
  deriving DecidableEq, Repr

/-- A command of the block: a row of the table of operations and events. -/
inductive Instr where
  -- ports, receive and Clave parsing (02_ports_parsing)
  | frameReceive (bp total : Nat) (bytes : List Byte)
  | frameBytesArrive (bp : Nat) (bytes : List Byte)
  | frameEnd (bp : Nat) (bytes : List Byte) (fcsBad fecBad fecCorrected : Bool)
  | macControlFrameReceive (bp : Nat) (bytes : List Byte)
  | pauseExpire (bp queue : Nat)
  | parserDispatch (pa : Nat)
  | claveLdb (pa gd off : Nat)
  | claveLdh (pa gd off : Nat)
  | claveLdw (pa gd off : Nat)
  | claveLdbf (pa gd off pos len : Nat)
  | claveAdv (pa imm : Nat)
  | claveAdvr (pa gs sh : Nat)
  | claveSetc (pa gs : Nat)
  | claveGetc (pa gd : Nat)
  | claveMovi (pa gd : Nat) (imm : BitVec 16)
  | claveMovhi (pa gd : Nat) (imm : BitVec 16)
  | claveMov (pa gd gs : Nat)
  | claveAdd (pa gd ga gb : Nat)
  | claveSub (pa gd ga gb : Nat)
  | claveAddi (pa gd gs : Nat) (imm : BitVec 16)
  | claveAnd (pa gd ga gb : Nat)
  | claveOr (pa gd ga gb : Nat)
  | claveXor (pa gd ga gb : Nat)
  | claveAndi (pa gd gs : Nat) (imm : BitVec 16)
  | claveOri (pa gd gs : Nat) (imm : BitVec 16)
  | claveShl (pa gd gs imm5 : Nat)
  | claveShr (pa gd gs imm5 : Nat)
  | claveBeq (pa gs : Nat) (imm : BitVec 16) (target : Nat)
  | claveBne (pa gs : Nat) (imm : BitVec 16) (target : Nat)
  | claveBlt (pa gs : Nat) (imm : BitVec 16) (target : Nat)
  | claveBge (pa gs : Nat) (imm : BitVec 16) (target : Nat)
  | claveBeqr (pa ga gb target : Nat)
  | claveBner (pa ga gb target : Nat)
  | claveJmp (pa target : Nat)
  | claveSwitch (pa gs : Nat) (targets : List Nat)
  | claveCall (pa target : Nat)
  | claveRet (pa : Nat)
  | claveHdr (pa type : Nat)
  | claveKeyb (pa gs bits : Nat)
  | claveKeyf (pa off len : Nat)
  | claveFld (pa fn gs : Nat)
  | claveFldp (pa fn off len : Nat)
  | claveCrc (pa gd off len : Nat)
  | claveCsum (pa gd off len : Nat)
  | claveTbl (pa gd gs t : Nat)
  | claveEnc (pa fn gs e : Nat)
  | claveMeta (pa gd sel : Nat)
  | claveSetm (pa sel gs : Nat)
  | claveDone (pa : Nat)
  | claveFail (pa code : Nat)
  | claveSlow (pa code : Nat)
  | claveNop (pa : Nat)
  | parseBudget (pa : Nat)
  | matchRelease (bp : Nat)
  | pfcRefresh (bp prio : Nat)
  -- rules and flows (03_rules_flow_tables)
  | flowMissAnswer (die : Nat)
  | flowLookupOrInsert (die : Nat)
  | flowWriteback (die : Nat)
  | flowCacheFlush (die : Nat)
  | flowAgingScan (die : Nat)
  | flowAgingCandidate (die : Nat)
  | flowAgingConfirm (die : Nat)
  | stashReinsert (die : Nat)
  | ruleSweepDone (die : Nat)
  -- deep verdicts (04_verdict_path)
  | deepRequestIssue (die : Nat)
  | deepDeadline (die req : Nat)
  | inferenceResult (die req status verdict score : Nat) (outputs : List Word32)
  | inferenceRequest (die req : Nat)
  -- egress (05_egress_scheduling)
  | txSelect (bp : Nat)
  | txDone (bp : Nat)
  | gateEdge (bp : Nat)
  | gateListSwap (bp : Nat)
  | gateSwapArm (bp val : Nat)
  | samplePeriodEnd (bp : Nat)
  | bufferCfgWrite (addr val : Nat)
  | interDieFrameArrive (src dst : Nat)
  -- ports
  | portCfgWrite (p val : Nat)
  | portForceRecal (p : Nat)
  | portMacWrite (p s val : Nat) (fw : Bool)
  | ruleSeedWrite (die val : Nat)
  | flowSeedWrite (die val : Nat)
  | laneLockLoss (p lane : Nat)
  | calibrationDone (p : Nat)
  | linkUp (bp : Nat)
  | txHoldIdlesDone (bp : Nat)
  | txHoldTimeout (bp : Nat)
  | linkDown (bp : Nat)
  | egressDiscardDone (bp : Nat)
  | txRefLost (die ref : Nat)
  | txRefReturn (die ref : Nat)
  -- Tabla cores (06_tabla_core, 07_scratchpad, 08_number_formats, 09_peal_trees)
  | invocationLaunch (cluster mask ctx tag : Nat) (serve : Serve) (handles : List (List Nat)) (programs : List Nat)
  | engineStart (core e : Nat)
  | engineComplete (core e : Nat)
  | scalarAdd (core rd ra rb : Nat)
  | scalarSub (core rd ra rb : Nat)
  | scalarAnd (core rd ra rb : Nat)
  | scalarOr (core rd ra rb : Nat)
  | scalarXor (core rd ra rb : Nat)
  | scalarShl (core rd ra rb : Nat)
  | scalarShr (core rd ra rb : Nat)
  | sar (core rd ra rb : Nat)
  | cmp (core ra rb : Nat)
  | li (core rd : Nat) (imm : Word64)
  | mul (core rd ra rb : Nat)
  | br (core : Nat) (cond : Cond) (target : Nat)
  | scalarJmp (core target : Nat)
  | scalarCall (core target : Nat)
  | scalarRet (core : Nat)
  | loop (core count body : Nat)
  | halt (core : Nat)
  | mm (core : Nat) (x : MmOp) (hw : Nat)
  | mmG4 (core : Nat) (x : MmOp) (hw : Nat)
  | as (core : Nat) (x : AsOp)
  | asld (core : Nat) (x : AsOp)
  | op (core : Nat) (x : OpOp)
  | accOut (core : Nat) (x : AccOut)
  | accClr (core arr base n : Nat) (tok : Option Nat)
  | vld (core vd : Nat) (src : Ref) (hw : Nat) (tok : Option Nat)
  | vst (core vs : Nat) (dst : Ref) (tok : Option Nat)
  | vectorElementwise (core : Nat) (o : VecOp) (fmt vd va vb vc : Nat) (tok : Option Nat)
  | vred (core : Nat) (kind fmt vd va : Nat) (tok : Option Nat)
  | vcvt (core : Nat) (x : CvtOp)
  | vrq (core : Nat) (x : CvtOp)
  | vlut (core vd va : Nat) (tab : Ref) (tok : Option Nat)
  | vectorPermute (core kind w vd va vb n : Nat) (tok : Option Nat)
  | pealLoad (core store : Nat) (src : Ref) (n dst : Nat) (tok : Option Nat)
  | pealEval (core : Nat) (x : PealOp) (hw : Nat)
  | dmaIn (core : Nat) (x : DmaOp)
  | dmaOut (core : Nat) (x : DmaOp)
  | dmaComplete (core : Nat)
  | gather (core : Nat) (x : GatherOp)
  | gatherComplete (core : Nat)
  | winRd (core pkg target win row n : Nat) (dst : Ref) (tok : Option Nat)
  | winWr (core pkg target win row n : Nat) (src : Ref) (tok : Option Nat)
  | sld (core rd : Nat) (src : Ref) (width hw : Nat) (tok : Option Nat)
  | sst (core rs : Nat) (dst : Ref) (width : Nat) (tok : Option Nat)
  | fill (core : Nat) (dst : Ref) (n : Nat) (pattern : Word32) (tok : Option Nat)
  | copy (core : Nat) (src dst : Ref) (arr n : Nat) (tok : Option Nat)
  | tcopy (core : Nat) (src dst : Ref) (w : Nat) (tok : Option Nat)
  | sread (core : Nat) (src dst : Ref) (n w start stride : Nat) (tok : Option Nat)
  | tokWait (core k n : Nat)
  | bar (core b : Nat)
  | sig (core s n : Nat)
  | sigR (core cluster s n : Nat)
  | swait (core s n : Nat)
  | mark (core layer operator : Nat)
  | remoteSignalArrive (cluster : Nat)
  | barrierControllerArrive (cluster b : Nat)
  | barrierMaskWrite (cluster b mask : Nat)
  | icacheLineFill (core : Nat)
  | windowOpen (q t : Nat)
  | windowClose (q t : Nat)
  | windowCloseDrained (q t : Nat)
  | windowAccessArrive (core hw : Nat)
  | winRdReply (core : Nat)
  | winWrAck (core : Nat)
  | winFaultNotice (core : Nat)
  | clusterZeroDone (cluster : Nat)
  | residentReload (cluster ctx tag : Nat) (rows : List (Nat × Nat × List Byte))
  | pealPatrol (core share err : Nat)
  | pealScrubReload (core ctx tag share treeBase nodeBase leafBase : Nat)
  -- rings (14_host_rings)
  | sqDoorbell (q : Nat) (val : Word64)
  | cqDoorbell (q : Nat) (val : Word64)
  | rqDoorbell (fn r : Nat) (val : Word64)
  | sqFetch (q : Nat)
  | fence (q t : Nat)
  | run (q t : Nat)
  | runTrees (q t : Nat)
  | txFrame (q t : Nat)
  | txFrameEnqueue (q t : Nat)
  | remoteCopy (q t : Nat)
  | commandDeadline (q t : Nat)
  | recordDeliver (fn r : Nat)
  | irqDelayExpire (fn ring : Nat)
  | msixUnmask (fn vec : Nat)
  | ringEnable (fn ring val : Nat)
  | ringDisable (fn ring val : Nat)
  | accessFault (fn bar off len : Nat)
  | pcieCompletionTimeout (fn read : Nat)
  -- store dies (12_store_memory)
  | hbmAccess (owner addr kind : Nat) (data : List Byte) (err : Nat)
  | stackTempReport (stack temp : Nat)
  | coalescerServe (die stack pch bank : Nat)
  | coalescerMaxWait (die stack pch bank : Nat)
  | sramPatrol (die region idx err : Nat)
  | hbmScrub (die addr err : Nat)
  | rowmodeWrite (r val : Nat)
  | frameZeroDone (die : Nat)
  | directoryRequest (die line l2 kind val : Nat)
  | directoryWriteback (die line l2 : Nat)
  | snoopResponse (die line l2 : Nat)
  -- epochs, tables and images (03_rules_flow_tables, 13_model_epochs)
  | ruleWrite (q t : Nat)
  | ruleDelete (q t : Nat)
  | flipEpoch (q t : Nat)
  | epochHoldEnd
  | epochHoldTimeout
  | epochSwitch (die : Nat)
  | epochSwitchAck
  | retireWait (q t : Nat)
  | retireWaitTimeout (q t : Nat)
  | retireForce (q t : Nat)
  | retireAbandon (q t : Nat)
  | epochRetire
  | stagingOpen
  | loadTable (q t : Nat) (bank : Machine.BankImage)
  | loadImage (q t : Nat) (fits : Bool)
  | bulkCommit (q t : Nat)
  | contextCreate (q t : Nat)
  | contextDestroy (q t : Nat)
  -- partitions (15_partitions_qos, 19_power_clocks)
  | partCreate (port part : Nat)
  | partResize (port part : Nat)
  | partDestroy (port part : Nat)
  | partDescFetchDone (err : Bool) (held : Nat)
  | fnReset (fn : Nat)
  | flr (fn : Nat)
  | vfRemoval (port n : Nat)
  | vfEnable (port n : Nat)
  | partitionReset (part : Nat)
  | partitionResetDone (part : Nat)
  | clusterReset (cluster : Nat)
  -- the Jodon fabric and time (16_jodon_fabric_time)
  | jodonEnableWrite (link : Nat) (en fw : Bool)
  | jodonRetrain (link : Nat)
  | jodonForceRecal (link : Nat)
  | jodonTrainingPhaseEnd (link : Nat) (ok signal : Bool)
  | jodonIdent (link pkg plink tag : Nat) (same : Bool)
  | jodonRetryTimer (link : Nat)
  | jodonBlockReceive (link fec : Nat) (bytes : List Byte)
  | jodonLinkFail (link : Nat)
  | jodonWrite (link : Nat)
  | jodonWriteAck (link : Nat)
  | jodonFaultNotice (link : Nat)
  | jodonReadReq (link hw : Nat)
  | jodonReadData (link : Nat)
  | jodonReadErr (link : Nat)
  | jodonTimeout (tag : Nat)
  | jodonPinHoldExpire (link : Nat)
  | beatSyncSend (link : Nat)
  | beatSync (link : Nat)
  | beatAlone
  | beatRead
  | todRead
  | ppsInEdge
  | ppsInLost
  | ref10mLost
  | ref10mValid
  | swRefTimeout
  | todAdj (val : Word32)
  | todSetGo (val : Nat)
  | todStepApply
  | todSlewDone
  | ppsOutEdge
  | ppsOutPulseEnd
  -- pins (21_package_pins)
  | mfioCfgWrite (n val : Nat) (fw : Bool)
  | mfioParkEnd (n : Nat)
  | tachWindow (n : Nat)
  | fanTachEdge (n : Nat)
  | strapCheck (straps : Nat)
  -- the island, power, resets, boot and the life cycle (17_firmware_management, 19_power_clocks, 20_reset_boot_lifecycle)
  | controlCoreTimeout (cls i : Nat)
  | controlCoreTrap (cls i : Nat)
  | islandLockstep
  | controlCoreFrame (cls bp q : Nat) (bytes : List Byte)
  | sensorSample (temps : List Int) (volts : List Nat)
  | vrmTelemetry (w : Nat)
  | eventLogPersist
  | troublePersist
  | alertAck (m : Nat)
  | requestUpdate (m : Nat)
  | firmwareData (m off : Nat) (bytes : List Byte)
  | verifyComplete (m : Nat)
  | activateFirmware (m : Nat)
  | cancelUpdate (m : Nat)
  | rollbackCommit (m sess : Nat)
  | troubleClear (m sess mask : Nat)
  | statusMsg (m : Nat)
  | logRead (m first n : Nat)
  | troubleRead (m : Nat)
  | maint (m sess act obj pch bank row : Nat)
  | mctpControl (m cmd arg : Nat)
  | pldmMonitoring (m kind arg : Nat)
  | spdmMessage (m kind arg : Nat) (auth : Bool)
  | maintGrant
  | maintWaitExpire
  | maintActivityDone (act obj outcome : Nat)
  | clusterIdleEntry (cl : Nat)
  | clusterRetainEntry (cl : Nat)
  | clusterOffEntry (cl : Nat)
  | thawWakeRequest (dom : Nat)
  | wakeStart (dom : Nat)
  | wakeDone (dom : Nat)
  | domainFailed (dom : Nat)
  | idleExit (cl : Nat)
  | clockStepWrite (cl val : Nat)
  | clockRaise (cl : Nat)
  | powerEstimateUpdate (w : Nat)
  | powerCap
  | powerLimitWrite (val : Nat) (fw : Bool)
  | thermalTrip (sensor : Nat)
  | queueReset (kind unit : Nat) (tkts pairs rings : List Nat)
  | coldReset (straps : Nat) (temps : List Int)
  | sysRstNAssert
  | sysRstNRelease
  | resetHeld
  | portReset (port : Nat) (perst : Bool)
  | perstDeassert (port : Nat)
  | pcieConfigReady (port : Nat)
  | trstN
  | jtagInstruction (k : Nat)
  | thermalHoldCheck (temps : List Int)
  | railPowerGood
  | railFailed
  | bootStepDone (bad : Nat) (clean : Bool)
  | mailboxGo (port : Nat)
  | cfgWrite (ok : Bool)
  | lcOwn
  | lcReturn
  | lcVoid
  | debugToken
  | nonceDraw
  | controlCoreRestarted (cls i : Nat)
  | islandRestarted
  | pcieLinkUp (port : Nat)
  | maintRequest (q t : Nat)
  -- bridges, rails, references and slow clusters (01_architecture, 21_package_pins to 23_worked_examples)
  | bridgeReplay (a b : Nat) (again : Bool)
  | bridgeFailed (a b : Nat) (training : Bool)
  | railFault (rail : Nat)
  | vddAonLoss
  | sysrefLost
  | smbusSclLowTimeout
  | stragglerEval (cl ctx : Nat)
  -- generation (10_generation)
  | decodeStep (q t : Nat)
  | attnQuery (die : Nat) (src : AttnSrc) (layer : Nat) (qs kv : List (List Nat)) (hw : Bool)
  | attnPartialArrive (k b layer kind shard : Nat) (ps : List (Nat × Nat × List Nat × Bool))
  | attnCfgWrite (die val : Nat)
  -- training (11_in_service_training)
  | trainStep (q t : Nat) (fits : Bool) (init : List (List (Option Int × List Nat)))
  | trainCommit (q t : Nat) (grads : List (List (Int × List Nat))) (hw : Bool)
  -- counters, the Gong, dumps and register writes (18_observability, 00_scope)
  | countersRead (q t : Nat)
  | gong (q t : Nat)
  | tensorDumpArm (q t : Nat)
  | registerWrite (fn off val : Nat) (fw : Bool)
  | jodonGong (link : Nat)
  | gongLatch
  | tensorDumpWrite (t : Nat)
  | watchdogFire (core : Nat)
  | rimeDumpDone (p : Nat)
  deriving DecidableEq, Repr

end Sys2Proof
end

