-- ==== Sys2Proof/Decode.lean ====
section
/-! DEFINITION. Reading a command from a word. The table of operations and events gives bits to none of its rows. -/

namespace Sys2Proof

/-- The command that a word of `nbits` bits spells: none, as no row of the table has an encoding. -/
def decodeTableWord (_nbits _w : Nat) : Option Instr := none

end Sys2Proof
end

