-- ==== Sys2Proof/Machine/Crc.lean ====
section
/-! DEFINITION. The CRCs of rule hashing, flow tags and the Clave CRC instruction (R68, R83, R102), with no final inversion,
and the ones'-complement sums of CSUM and of IPv4 headers. -/

namespace Sys2Proof.Machine

/-- `n` shift steps of a bit-reflected CRC with reflected polynomial `p`. -/
def crcReflSteps (p : Nat) : Nat → Nat → Nat
  | 0, c => c
  | n + 1, c => crcReflSteps p n (if c % 2 = 1 then (c / 2) ^^^ p else c / 2)

/-- A bit-reflected CRC of a byte string from the register value `init`. -/
def crcRefl (p init : Nat) (bs : List Byte) : Nat := bs.foldl (fun c b => crcReflSteps p 8 (c ^^^ b.toNat)) init

/-- CRC-32C (polynomial 0x1EDC_6F41, reflected) from register value `init`. -/
def crc32c (init : Nat) (bs : List Byte) : Nat := crcRefl 0x82F63B78 init bs

/-- CRC-32 (polynomial 0x04C1_1DB7, reflected) from register value `init`. -/
def crc32 (init : Nat) (bs : List Byte) : Nat := crcRefl 0xEDB88320 init bs

/-- `n` shift steps of the unreflected CRC-64 of R102. -/
def crc64Steps : Nat → Nat → Nat
  | 0, c => c
  | n + 1, c =>
    crc64Steps n (if 2 ^ 63 ≤ c then ((c * 2) % 2 ^ 64) ^^^ 0x42F0E1EBA9EA3693 else c * 2)

/-- CRC-64 (ECMA-182 polynomial, unreflected) of a byte string from 0. -/
def crc64 (bs : List Byte) : Nat := bs.foldl (fun c b => crc64Steps 8 (c ^^^ (b.toNat * 2 ^ 56))) 0

/-- End-around-carry folding of a sum to 16 bits. -/
def fold16 : Nat → Nat → Nat
  | 0, v => v
  | n + 1, v => if v < 65536 then v else fold16 n (v % 65536 + v / 65536)

/-- The big-endian 16-bit words of a byte string summed. -/
def sum16 : List Byte → Nat
  | a :: b :: t => a.toNat * 256 + b.toNat + sum16 t
  | [a] => a.toNat * 256
  | [] => 0

end Sys2Proof.Machine
end

