-- ==== Sys2Proof/Config.lean ====
section
/-! DEFINITION. The values the spec leaves open. Each is a constant with no body, so that no proof can lean on a value
of it: a statement that holds, holds for every value. -/

namespace Sys2Proof.Config

/-- The bits of a transcendental function (R204: within 2 ulp of the exact result, the same on every K25) for an input
with no exact result in Table 6.12: function code, then the FP32 input. Assumption 20. -/
opaque transcendental : Nat → BitVec 32 → BitVec 32

/-- A fresh free value: the counter of the state that names it, a purpose code and an argument. -/
opaque freeValue : Nat → Nat → Nat → Nat

/-- The SHA-384 digest of a byte string, 48 bytes (FIPS 180-4, R429). -/
opaque sha384 : List (BitVec 8) → List (BitVec 8)

/-- Whether an ECDSA P-384 signature (r ∥ s) over a digest verifies under an uncompressed public key (FIPS 186-5, R429):
key, digest, signature. -/
opaque ecdsaP384 : List (BitVec 8) → List (BitVec 8) → List (BitVec 8) → Bool

end Sys2Proof.Config
end

