-- ==== Sys2Proof/Machine/Counters.lean ====
section
/-! DEFINITION. The names of the 64-bit counters (R79, R553). -/

namespace Sys2Proof.Machine

/-- A counter; its table key also carries what it is kept per (breakout port, die, core, code, …). -/
inductive Ctr where
  -- Table 2.11, per breakout port or per edge die and cause code
  | rxRunt | rxOversize | rxFcsError | rxFecCorrected | rxFecUncorrectable | rxMacCtrl | txStomped | dropTxHold
  | dropLinkDown | dropParseBusy | parseFail | slowCause
  -- Table 3.11
  | ruleHitPkts | ruleHitBytes | ruleMiss | meterDrop | mirrorDrop | editFail | flowLearned | flowAged | flowUntracked
  | flowMissOverflow | flowProfileAbsent | slowSent | slowDrop
  -- Table 4.13
  | verdictDrop | expressAbsent | deepSent | deepApplied | deepDefault | deepLate | deepOrphan | deepAbandoned
  | expressMaskEmpty | expressSumSat | shimSkip | verdictFrames
  -- R183
  | dropQueueFull | dropHeadroom | dropGateOversize | gateOverrun | sampleLost
  -- R217, R257, R286, R318, per core, or per cluster for sem_remote_reject
  | accSatEvents | semOverflowEvents | semRemoteReject | arrayStall | icacheMiss | spadParity | handleEccCorrected | winRefused
  | clipEvents | nanZeroed | scaleReservedRows | driftEvents | pealEccCorrected | pealMaskEmpty | pealSumSat
  | pealStreamInvocations | pealStreamBytes
  -- R396
  | hbmCe | hbmUe | hbmOndieCe | hbmOndieUe | sramCe | sramUe | hbmDenied | gatherOob | gatherMerged | gatherBursts
  | gatherCacheHit | gatherCacheMiss
  -- R433, R467, R489
  | epochFlips | flipRefused | retireForced | abandons | stagingStale | imageRefused | rqDrop | eventLost | cqWritten
  | sqFetched | accessFaults | partResets | partOpRefused | zeroBytes
  -- R526, R552, R554, R555, R569, R571, R27
  | jodonBlocksTx | jodonBlocksRx | jodonReplays | jodonFecCorrected | jodonFecUncorrectable | jodonDropLinkdown
  | faultOverflow | beatMerges | beatLoads | todSteps | ppsInMissing | guardDrop | guardMacDrop | fwBound | fwCoreFault
  | maintGranted | maintRefused | logEntries | rxFrames | rxBytes | txFrames | txBytes | opbufBytes | spadBytes | poolBytes
  | hbmBytes | windowOutBytes | windowInBytes | poolRdBytes | poolWrBytes | hbmRdBytes | hbmWrBytes | partHbmRd | partHbmWr
  | jodonTxBytes | jodonRxBytes | pcieRdBytes | pcieWrBytes | fnPcieRd | fnPcieWr | coreCycles | arrayBusy | vectorBusy | pealBusy
  | invocations | trainTorn | rimeDumps | gongs | bridgeReplays
  -- R349, per store die; R371, per context
  | attnUnitsRead | attnUnitsSkipped | attnBytes | kvCommits | kvDataError
  | trainSteps | trainExamples | trainLrRefused | trainNormRefused | trainNonfinite | fbAppended | fbDropped
  deriving DecidableEq, Repr

/-- The number of a counter. -/
def Ctr.code (c : Ctr) : Nat := c.ctorIdx

/-- The key of counter `c` kept per `i` and `j`. -/
def ctrKey (c : Ctr) (i j : Nat) : Nat := c.code * 2 ^ 48 + i * 2 ^ 24 + j

end Sys2Proof.Machine
end

