-- ==== Sys2Proof/Machine/RegMap.lean ====
section
/-! DEFINITION. The register map of PF BAR0: for each offset the writable, write-one-to-clear and write-only bits, the reset
value and the lowest reset level that restores it. Function pages of PCIe port 1 lie at an added 2^32. -/

namespace Sys2Proof.Machine

/-- A register (R16, R18): `rw` bits take what is written, `w1c` bits clear and `w1s` bits set where a one is written, `wo` bits
act and read 0.
`level` is the lowest reset that restores it: 0 cold, 1 warm, 2 partition, 3 cluster. -/
structure RegSpec where
  rw    : Nat := 0
  w1c   : Nat := 0
  w1s   : Nat := 0
  wo    : Nat := 0
  reset : Nat := 0
  level : Nat := 1

/-- All 32 bits. -/
def m32 : Nat := 0xFFFFFFFF

/-- The base of edge die i's EDG_ block (R50). -/
def edgBase (i : Nat) : Nat := 0x1000000 + i * 0x400000

/-- A register of package port `p` (Table 2.2). -/
def portReg (p off : Nat) : Nat := edgBase (p / 8) + 0x10000 + p % 8 * 0x100 + off
/-- EDG_PORT_CFG of package port p. -/
def rPortCfg (p : Nat) : Nat := portReg p 0
/-- EDG_PORT_STATUS. -/
def rPortStatus (p : Nat) : Nat := portReg p 4
/-- EDG_PORT_MAXFRM. -/
def rPortMaxfrm (p : Nat) : Nat := portReg p 8
/-- EDG_PORT_TXHOLD. -/
def rPortTxhold (p : Nat) : Nat := portReg p 0xC
/-- EDG_PORT_ENTRY. -/
def rPortEntry (p : Nat) : Nat := portReg p 0x10
/-- EDG_PORT_MAC_LO_s. -/
def rMacLo (p s : Nat) : Nat := portReg p (0x20 + 8 * s)
/-- EDG_PORT_MAC_HI_s. -/
def rMacHi (p s : Nat) : Nat := portReg p (0x24 + 8 * s)
/-- EDG_RULE_SEED. -/
def rRuleSeed (i : Nat) : Nat := edgBase i + 0x20000
/-- EDG_FLOW_SEED. -/
def rFlowSeed (i : Nat) : Nat := edgBase i + 0x20004
/-- EDG_SLOW_CLASS_c. -/
def rSlowClass (i c : Nat) : Nat := edgBase i + 0x20100 + 4 * c
/-- EDG_SLOW_LIMIT. -/
def rSlowLimit (i : Nat) : Nat := edgBase i + 0x20140
/-- EDG_RULE_STATUS. -/
def rRuleStatus (i : Nat) : Nat := edgBase i + 0x20180
/-- EDG_FLOW_STATUS. -/
def rFlowStatus (i : Nat) : Nat := edgBase i + 0x20184
/-- EDG_VERDICT_SHIM. -/
def rShim (i : Nat) : Nat := edgBase i + 0x30000
/-- EDG_VERDICT_DL_LOOK. -/
def rDlLook (i : Nat) : Nat := edgBase i + 0x30004
/-- EDG_VERDICT_DL_INLINE. -/
def rDlInline (i : Nat) : Nat := edgBase i + 0x30008
/-- EDG_VERDICT_HOLD. -/
def rHold (i : Nat) : Nat := edgBase i + 0x3000C
/-- EDG_LOOKASIDE_CFG. -/
def rLookaside (i : Nat) : Nat := edgBase i + 0x30010
/-- EDG_VERDICT_STATUS. -/
def rVerdictStatus (i : Nat) : Nat := edgBase i + 0x30014
/-- A per-port egress register of breakout port bp (R178). -/
def egReg (bp off : Nat) : Nat := edgBase (bp / 32) + 0x40000 + bp % 32 * 0x400 + off
/-- EDG_Q_CFG of queue q. -/
def rQCfg (bp q : Nat) : Nat := egReg bp (0x10 * q)
/-- EDG_Q_SHAPE. -/
def rQShape (bp q : Nat) : Nat := egReg bp (0x10 * q + 4)
/-- EDG_Q_BUF. -/
def rQBuf (bp q : Nat) : Nat := egReg bp (0x10 * q + 8)
/-- EDG_Q_STATUS. -/
def rQStatus (bp q : Nat) : Nat := egReg bp (0x10 * q + 0xC)
/-- EDG_PRIO_MAP. -/
def rPrioMap (bp : Nat) : Nat := egReg bp 0x100
/-- EDG_PFC_THRESH. -/
def rPfcThresh (bp : Nat) : Nat := egReg bp 0x104
/-- EDG_PFC_HEADROOM. -/
def rPfcHeadroom (bp : Nat) : Nat := egReg bp 0x108
/-- EDG_PORT_SHAPE. -/
def rPortShape (bp : Nat) : Nat := egReg bp 0x10C
/-- EDG_SAMPLE_CFG. -/
def rSampleCfg (bp : Nat) : Nat := egReg bp 0x110
/-- EDG_GATE_CTRL. -/
def rGateCtrl (bp : Nat) : Nat := egReg bp 0x114
/-- EDG_GATE_CYCLE. -/
def rGateCycle (bp : Nat) : Nat := egReg bp 0x118
/-- EDG_GATE_BASE_LO. -/
def rGateBaseLo (bp : Nat) : Nat := egReg bp 0x120
/-- EDG_GATE_BASE_HI. -/
def rGateBaseHi (bp : Nat) : Nat := egReg bp 0x124
/-- EDG_BUF_STATUS. -/
def rBufStatus (i : Nat) : Nat := edgBase i + 0x48000
/-- EDG_GCL_GATES of entry e of the inactive bank. -/
def rGclGates (bp e : Nat) : Nat := edgBase (bp / 32) + 0x80000 + bp % 32 * 0x800 + 8 * e
/-- EDG_GCL_INTERVAL of entry e of the inactive bank. -/
def rGclInterval (bp e : Nat) : Nat := rGclGates bp e + 4

/-- EDG_JODON_CFG of link n (0–19); EDG_JODON_STATUS follows (R524). -/
def rJodonCfg (n : Nat) : Nat := edgBase (n / 5) + 0xA0000 + n % 5 * 0x10

/-- Port registers at offset `r` of a port's page (Tables 2.2 to 2.5, 2.12). -/
def portSpec (r : Nat) : Option RegSpec :=
  if r = 0x00 then some { rw := 0xF7FFFF, wo := 0x1000000, reset := 0x60000 }
  else if r = 0x04 then some { w1c := 0x38000 }
  else if r = 0x08 then some { rw := 0x3FFF, reset := 9216 }
  else if r = 0x0C then some { rw := 0xFFFF1FFF, reset := 0x640100 }
  else if r = 0x10 then some { rw := m32 }
  else if 0x20 ≤ r ∧ r < 0x40 ∧ r % 8 = 0 then some { rw := m32 }
  else if 0x20 ≤ r ∧ r < 0x40 ∧ r % 8 = 4 then some { rw := 0xFFFF }
  else none

/-- Egress registers at offset `r` of a breakout port's block (Table 5.1). -/
def egressSpec (r : Nat) : Option RegSpec :=
  if r < 0x100 then
    if r % 16 = 0 then some { rw := 0xFFFF001F, reset := r / 16 % 8 * 2 + 24 * 65536 }
    else if r % 16 = 4 then some { rw := m32, reset := 800000 + 16 * 2 ^ 24 }
    else if r % 16 = 8 then some { rw := 0xFFF7FFFF, reset := 2 * 65536 + 4095 * 2 ^ 20 }
    else if r % 16 = 12 then some {}
    else none
  else if r = 0x100 then some { rw := m32, reset := 0x76543210 }
  else if r = 0x104 then some { rw := m32, reset := 256 + 128 * 65536 }
  else if r = 0x108 then some { rw := 0xFFFFFF }
  else if r = 0x10C then some { rw := m32, reset := 800000 + 16 * 2 ^ 24 }
  else if r = 0x110 then some { rw := m32, reset := 0xFFFF0000 }
  else if r = 0x114 then some { rw := 0x3FE1, w1c := 0x10, wo := 2, reset := 0x20 }
  else if r = 0x118 then some { rw := 0x3FFFFFFF, reset := 1000000 }
  else if r = 0x120 ∨ r = 0x124 then some { rw := m32 }
  else none

/-- Registers of an EDG_ block at offset `o` (Tables 2.2, 3.9, 4.11 and R178). -/
def edgSpec (o : Nat) : Option RegSpec :=
  if 0x10000 ≤ o ∧ o < 0x10800 then portSpec (o % 0x100)
  else if o = 0x20000 ∨ o = 0x20004 then some { rw := m32 }
  else if 0x20100 ≤ o ∧ o < 0x20120 ∧ o % 4 = 0 then some { rw := 0x7FFFFFFF, reset := 1000 + 64 * 2 ^ 20 }
  else if o = 0x20140 then some { rw := m32, reset := 1000 + 2500 * 65536 }
  else if o = 0x20180 then some { w1c := 0x2000000 }
  else if o = 0x20184 then some { w1c := 0x10000000 }
  else if o = 0x30000 then some { rw := m32 }
  else if o = 0x30004 then some { rw := 0xFFFFF, reset := 2000 }
  else if o = 0x30008 then some { rw := 0xFFFFF, reset := 50000 }
  else if o = 0x3000C then some { rw := 0x7F, reset := 32 }
  else if o = 0x30010 then some { rw := 0x3FFF, reset := 0x3E00 }
  else if o = 0x30014 then some {}
  else if 0x40000 ≤ o ∧ o < 0x48000 then egressSpec (o % 0x400)
  else if 0xA0000 ≤ o ∧ o < 0xA0050 ∧ o % 4 = 0 ∧ o % 16 < 8 then
    if o % 16 = 0 then some { rw := 1, wo := 6, reset := 1 } else some {}
  else if o = 0x48000 then some { w1c := 0x20000 }
  else if 0x80000 ≤ o ∧ o < 0x90000 then
    if o % 8 = 0 then some { rw := 0xFFFF, reset := 0xFFFF }
    else if o % 8 = 4 then some { rw := 0x3FFFFFFF } else none
  else none

/-- The base of compute die nn's CMP_ block (R214). -/
def cmpBase (n : Nat) : Nat := 0x3000000 + n * 0x100000
/-- CMP_DIE_STATUS of compute die n. -/
def rDieStatus (n : Nat) : Nat := cmpBase n
/-- CMP_ARRAY_MAP_w. -/
def rArrayMap (n w : Nat) : Nat := cmpBase n + 0x100 + 4 * w
/-- CMP_CLUSTER_STATUS of cluster cl (0–95). -/
def rClusterStatus (cl : Nat) : Nat := cmpBase (cl / 6) + 0x200 + 4 * (cl % 6)
/-- CMP_CORE_FAULT of core c (0–767). -/
def rCoreFault (c : Nat) : Nat := cmpBase (c / 48) + 0x300 + 4 * (c % 48)
/-- CMP_SPAD_CFG of cluster cl. -/
def rSpadCfg (cl : Nat) : Nat := cmpBase (cl / 6) + 0x400 + 4 * (cl % 6)
/-- CMP_WIN_FAULT of core c. -/
def rWinFault (c : Nat) : Nat := cmpBase (c / 48) + 0x500 + 4 * (c % 48)
/-- CMP_QSTAT of core c. -/
def rQstat (c : Nat) : Nat := cmpBase (c / 48) + 0x600 + 4 * (c % 48)
/-- CMP_PEAL of core c. -/
def rPeal (c : Nat) : Nat := cmpBase (c / 48) + 0x700 + 4 * (c % 48)

/-- CMP_CLK_CFG of cluster cl (R598). -/
def rClkCfg (cl : Nat) : Nat := cmpBase (cl / 6) + 0x800 + 4 * (cl % 6)
/-- CMP_PWR_POLICY of cluster cl (R598). -/
def rPwrPolicy (cl : Nat) : Nat := cmpBase (cl / 6) + 0x840 + 4 * (cl % 6)

/-- Registers of a CMP_ block at offset `o` (Tables 6.9, 7.5, 8.8, 9.8, 19.9). -/
def cmpSpec (o : Nat) : Option RegSpec :=
  if o = 0 then some { level := 0 }
  else if 0x100 ≤ o ∧ o < 0x130 ∧ o % 4 = 0 then some { level := 0 }
  else if 0x200 ≤ o ∧ o < 0x218 ∧ o % 4 = 0 then some { w1c := 0x1C00, level := 3 }
  else if 0x300 ≤ o ∧ o < 0x3C0 ∧ o % 4 = 0 then some { w1c := 0x10, level := 3 }
  else if 0x400 ≤ o ∧ o < 0x418 ∧ o % 4 = 0 then some { level := 0 }
  else if 0x500 ≤ o ∧ o < 0x5C0 ∧ o % 4 = 0 then some { w1c := 0x10, level := 3 }
  else if 0x600 ≤ o ∧ o < 0x6C0 ∧ o % 4 = 0 then some { w1c := 0x10F, level := 3 }
  else if 0x700 ≤ o ∧ o < 0x7C0 ∧ o % 4 = 0 then some { w1c := 0x3C, level := 3 }
  else if 0x800 ≤ o ∧ o < 0x818 ∧ o % 4 = 0 then some { rw := 0x7F, reset := 50 }
  else if 0x840 ≤ o ∧ o < 0x858 ∧ o % 4 = 0 then some { rw := m32, reset := 4000 + 1000 * 65536 }
  else none

/-- The base of store die i's STO_ block. -/
def stoBase (i : Nat) : Nat := 0x2000000 + i * 0x200000
/-- STO_HBM_STATUS of stack m (0–11). -/
def rHbmStatus (m : Nat) : Nat := stoBase (m / 3) + 0x10 + 4 * (m % 3)
/-- STO_COAL_CFG. -/
def rCoalCfg (i : Nat) : Nat := stoBase i + 0x100
/-- STO_SCRUB_CFG. -/
def rScrubCfg (i : Nat) : Nat := stoBase i + 0x104
/-- STO_ERR_STATUS. -/
def rErrStatus (i : Nat) : Nat := stoBase i + 0x108
/-- STO_POISON_ADDR_LO. -/
def rPoisonLo (i : Nat) : Nat := stoBase i + 0x110
/-- STO_POISON_ADDR_HI. -/
def rPoisonHi (i : Nat) : Nat := stoBase i + 0x114
/-- STO_HBM_ROWMODE of row r. -/
def rRowmode (r : Nat) : Nat := stoBase 0 + 0x1000 + 4 * r

/-- STO_ATTN_CFG of store die i (R347); STO_ATTN_STATUS follows. -/
def rAttnCfg (i : Nat) : Nat := stoBase i + 0x18000

/-- STO_ATTN_STATUS. -/
def rAttnStatus (i : Nat) : Nat := rAttnCfg i + 4

/-- Registers of store die `i`'s block at offset `o` (Tables 10.13, 12.6 to 12.8). -/
def stoSpec (i o : Nat) : Option RegSpec :=
  if 0x10 ≤ o ∧ o < 0x1C ∧ o % 4 = 0 then some { w1c := 0x6000 }
  else if o = 0x100 then some { rw := 0xFFFFFF, reset := 1000 + 64 * 65536 }
  else if o = 0x104 then some { rw := 0xFFFF01, reset := 1 + 1000 * 256 }
  else if o = 0x108 then some { w1c := 0x1F }
  else if o = 0x110 ∨ o = 0x114 then some {}
  else if o = 0x18000 then some { rw := 0x1FF, reset := 64 }
  else if o = 0x18004 then some { w1c := 6 }
  else if 0x1000 ≤ o ∧ o < 0x10C0 ∧ o % 4 = 0 then if i = 0 then some { rw := 3, w1c := 8, level := 0 } else some {}
  else none

/-- The FN_ page of function `fn` = 64 × PCIe port + f (R437). -/
def fnPage (fn : Nat) : Nat := 0x200000 + fn % 64 * 0x1000 + fn / 64 * 2 ^ 32
/-- FN_STATUS. -/
def rFnStatus (fn : Nat) : Nat := fnPage fn
/-- FN_CTRL. -/
def rFnCtrl (fn : Nat) : Nat := fnPage fn + 4
/-- FN_RQ_BASE_LO of record ring r; the HI word is 4 higher. -/
def rRqBase (fn r : Nat) : Nat := fnPage fn + 0x100 + 16 * r
/-- FN_RQ_CFG. -/
def rRqCfg (fn r : Nat) : Nat := rRqBase fn r + 8
/-- FN_SQ_BASE_LO of ring pair q = 64 × fn + p. -/
def rSqBase (q : Nat) : Nat := fnPage (q / 64) + 0x800 + 32 * (q % 64)
/-- FN_CQ_BASE_LO. -/
def rCqBase (q : Nat) : Nat := rSqBase q + 8
/-- FN_RING_CFG. -/
def rRingCfg (q : Nat) : Nat := rSqBase q + 0x10
/-- FN_RING_IRQ. -/
def rRingIrq (q : Nat) : Nat := rSqBase q + 0x14

/-- Registers of an FN_ page at offset `o` (Table 14.15); `pf` tells a PF's page. -/
def fnSpec (o : Nat) (pf : Bool) : Option RegSpec :=
  if o = 0 then some { w1c := 0x8000000, level := 2 }
  else if o = 4 then some { rw := 0xFFE, wo := 1, level := 2 }
  else if 0x100 ≤ o ∧ o < (if pf then 0x230 else 0x210) ∧ o % 4 = 0 then
    if o % 16 < 8 then some { rw := m32, level := 2 }
    else if o % 16 = 8 then some { rw := 0x7FFFFFFF, reset := 2 ^ 19, level := 2 }
    else some { w1c := 0x20000, level := 2 }
  else if 0x800 ≤ o ∧ o < 0x1000 ∧ o % 4 = 0 then
    if o % 32 < 0x10 then some { rw := m32, level := 2 }
    else if o % 32 = 0x10 then some { rw := 0xFFFFF, level := 2 }
    else if o % 32 = 0x14 then some { rw := 0x1FFFFFF, reset := 1, level := 2 }
    else if o % 32 = 0x18 then some { level := 2 }
    else some { w1c := 0xC, level := 2 }
  else none

/-- HUB_ACCESS_FAULT. -/
def rAccessFault : Nat := 0x10
/-- HUB_ACCESS_ADDR. -/
def rAccessAddr : Nat := 0x14
/-- HUB_EPOCH_STATE; its held bit is sig_required. -/
def rEpochState : Nat := 0x2004
/-- HUB_EPOCH_CFG. -/
def rEpochCfg : Nat := 0x200C
/-- HUB_PART_DESC_LO. -/
def rPartDescLo : Nat := 0x3000
/-- HUB_PART_DESC_HI. -/
def rPartDescHi : Nat := 0x3004
/-- HUB_PART_CMD. -/
def rPartCmd : Nat := 0x3008
/-- HUB_PART_STATUS. -/
def rPartStatus : Nat := 0x300C
/-- HUB_DMA_WIN_BASE_LO of entry e; HI, SIZE and CTRL follow. -/
def rDmaWin (e : Nat) : Nat := 0x4000 + 16 * e

/-- HUB_POD_CFG. -/
def rPodCfg : Nat := 0x6000
/-- HUB_BEAT_STATUS. -/
def rBeatStatus : Nat := 0x600C
/-- HUB_TOD_CTRL. -/
def rTodCtrl : Nat := 0x601C
/-- HUB_TOD_STATUS. -/
def rTodStatus : Nat := 0x6020
/-- HUB_TOD_ADJ. -/
def rTodAdj : Nat := 0x6024
/-- HUB_TOD_FREQ. -/
def rTodFreq : Nat := 0x6028
/-- HUB_TOD_SET_LO. -/
def rTodSetLo : Nat := 0x602C
/-- HUB_TOD_SET_HI. -/
def rTodSetHi : Nat := 0x6030
/-- HUB_GONG_STATUS. -/
def rGongStatus : Nat := 0x7000
/-- HUB_SYNC_CFG. -/
def rSyncCfg : Nat := 0x700C
/-- HUB_WDOG of partition p; HUB_RIME_BASE_LO, HI and HUB_RIME_STATUS follow. -/
def rWdog (p : Nat) : Nat := 0x7100 + 16 * p
/-- HUB_RIME_STATUS of partition p. -/
def rRimeStatus (p : Nat) : Nat := 0x710C + 16 * p
/-- HUB_PWR_LIMIT. -/
def rPwrLimit : Nat := 0x8000
/-- HUB_PWR_STATUS. -/
def rPwrStatus : Nat := 0x8004
/-- HUB_THERM_CFG. -/
def rThermCfg : Nat := 0x8008
/-- HUB_THERM_STATUS. -/
def rThermStatus : Nat := 0x800C
/-- HUB_THAW_STATUS. -/
def rThawStatus : Nat := 0x8010
/-- AON_FW_STATUS. -/
def rFwStatus : Nat := 0x100000
/-- AON_ALERT. -/
def rAlert : Nat := 0x10000C
/-- AON_MAINT_STATUS. -/
def rMaintStatus : Nat := 0x100010
/-- AON_TROUBLE_k. -/
def rTrouble (k : Nat) : Nat := 0x100100 + 4 * k
/-- AON_MBOX_ADDR_LO; HI, LEN, CMD, STATUS, NONCE_LO and NONCE_HI follow. -/
def rMboxAddr : Nat := 0x100200
/-- AON_MBOX_LEN. -/
def rMboxLen : Nat := 0x100208
/-- AON_MBOX_CMD. -/
def rMboxCmd : Nat := 0x10020C
/-- AON_MBOX_STATUS. -/
def rMboxStatus : Nat := 0x100210
/-- AON_RESET_CAUSE. -/
def rResetCause : Nat := 0x100300
/-- AON_BOOT_STATUS. -/
def rBootStatus : Nat := 0x100304
/-- AON_LC_STATE. -/
def rLcState : Nat := 0x100308
/-- AON_OTP_STATUS. -/
def rOtpStatus : Nat := 0x10030C
/-- AON_MFIO_CFG of pin n. -/
def rMfioCfg (n : Nat) : Nat := 0x100400 + 4 * n
/-- AON_MFIO_STAT of pin n. -/
def rMfioStat (n : Nat) : Nat := 0x100480 + 4 * n
/-- AON_MFIO_PARK. -/
def rMfioPark : Nat := 0x100500
/-- AON_STRAPS. -/
def rStraps : Nat := 0x100504
/-- AON_CLK_STATUS. -/
def rClkStatus : Nat := 0x100508

/-- Pod and time registers (Table 16.12). -/
def hubTimeSpec (o : Nat) : Option RegSpec :=
  if o = 0x6000 then some { rw := 0xFFFFFF00, level := 0 }
  else if o = 0x600C then some { w1c := 0x200, level := 0 }
  else if o = 0x601C then some { rw := 0xFFFFFFF7, w1s := 8, reset := 100000 * 32 + 4 * 2 ^ 25, level := 0 }
  else if o = 0x6020 then some { w1c := 0x180, level := 0 }
  else if o = 0x6024 then some { wo := m32, level := 0 }
  else if o = 0x6028 ∨ o = 0x602C then some { rw := m32, level := 0 }
  else if o = 0x6030 then some { rw := 0xFFFF, wo := 0x80000000, level := 0 }
  else if o ≤ 0x6040 ∧ o % 4 = 0 then some { level := 0 }
  else none

/-- Observability registers (Table 18.9). -/
def hubObsSpec (o : Nat) : Option RegSpec :=
  if o = 0x7000 then some { w1c := 0x20000 }
  else if o = 0x7004 ∨ o = 0x7008 then some {}
  else if o = 0x700C then some { rw := 0xFFFF, reset := 64 }
  else if 0x7100 ≤ o ∧ o < 0x7500 ∧ o % 4 = 0 then
    if o % 16 = 0 then some { rw := 0x3FFF7FFF, reset := 100 + 100 * 65536 + 2 ^ 28 }
    else if o % 16 = 4 then some { rw := 0xFFFFF000 }
    else if o % 16 = 8 then some { rw := m32 }
    else some { rw := 0xFFF, w1c := 0x6000 }
  else none

/-- Power registers of the hub (Table 19.9). -/
def hubPwrSpec (o : Nat) : Option RegSpec :=
  if o = 0x8000 then some { rw := 0xFFF, reset := 2400 }
  else if o = 0x8004 then some { w1c := 0x40000 }
  else if o = 0x8008 then some { rw := 0xFFFF, reset := 105 + 100 * 256 }
  else if o = 0x800C then some { w1c := 0x4000 }
  else if o = 0x8010 then some {}
  else none

/-- Registers of the AON_ block at offset `o` (Tables 17.11, 20.12, 21.11). -/
def aonSpec (o : Nat) : Option RegSpec :=
  if o < 0xC ∧ o % 4 = 0 then some { level := 0 }
  else if o = 0xC then some { wo := 2, level := 0 }
  else if o = 0x10 then some { w1c := 0x400, level := 0 }
  else if 0x100 ≤ o ∧ o < 0x140 ∧ o % 4 = 0 then some { level := 0 }
  else if o = 0x200 then some { rw := 0xFFFFFFC0, level := 0 }
  else if o = 0x204 then some { rw := m32, level := 0 }
  else if o = 0x208 then some { rw := 0x1FFFF, level := 0 }
  else if o = 0x20C then some { wo := 1, level := 0 }
  else if o = 0x210 then some { w1c := 0x10, level := 0 }
  else if o = 0x214 ∨ o = 0x218 then some { level := 0 }
  else if o = 0x300 then some { w1c := 4, level := 0 }
  else if o = 0x304 ∨ o = 0x308 ∨ o = 0x30C then some { level := 0 }
  else if 0x400 ≤ o ∧ o < 0x480 ∧ o % 4 = 0 then
    let n := (o - 0x400) / 4
    if n ≤ 10 then some { rw := 0x10, reset := 6, level := 0 }
    else some { rw := 0x1F, reset := if n = 11 then 11 else 8, level := 0 }
  else if 0x480 ≤ o ∧ o < 0x500 ∧ o % 4 = 0 then some { w1c := 4, level := 0 }
  else if o = 0x500 then some { rw := 0x1F, reset := 2, level := 0 }
  else if o = 0x504 then some { w1c := 0x40, level := 0 }
  else if o = 0x508 then some { w1c := 2, level := 0 }
  else none

/-- Hub registers (Tables 13.10, 14.5, 15.8, 16.12, 18.9, 19.9). -/
def hubSpecA (o : Nat) : Option RegSpec :=
  if o = 0 then some { reset := 0x4B25 }
  else if o = 4 then some { reset := 0xB0 }
  else if o = 8 then some {}
  else if o = 0x10 then some { w1c := 1 }
  else if o = 0x14 then some {}
  else if o = 0x2000 then some {}
  else if o = 0x2004 then some { w1s := 0x100 }
  else if o = 0x2008 then some {}
  else if o = 0x200C then some { rw := 0x3FF, reset := 20 }
  else if o = 0x2010 then some {}
  else if o = 0x3000 then some { rw := 0xFFFFFFC0 }
  else if o = 0x3004 then some { rw := m32 }
  else if o = 0x3008 then some { wo := 0xFF }
  else if o = 0x300C then some { w1c := 0x2000 }
  else if 0x3100 ≤ o ∧ o < 0x3200 ∧ o % 4 = 0 then some {}
  else if 0x4000 ≤ o ∧ o < 0x6000 ∧ o % 4 = 0 then
    if o % 16 = 0 then some { rw := 0xFFFFF000 }
    else if o % 16 = 4 then some { rw := m32 }
    else if o % 16 = 8 then some { rw := m32 }
    else some { rw := 0x3FF }
  else if 0x6000 ≤ o ∧ o < 0x6100 then hubTimeSpec o
  else if 0x7000 ≤ o ∧ o < 0x7500 then hubObsSpec o
  else if 0x8000 ≤ o ∧ o < 0x8100 then hubPwrSpec o
  else none

/-- The register at offset `a` of PF BAR0, if there is one. -/
def regSpec (a : Nat) : Option RegSpec :=
  if a < 0x100000 then hubSpecA a
  else if a < 0x200000 then aonSpec (a - 0x100000)
  else if 0x200000 ≤ a % 2 ^ 32 ∧ a % 2 ^ 32 < 0x240000 ∧ a < 2 ^ 33 then fnSpec (a % 0x1000) (decide (a % 0x40000 < 0x1000))
  else if 0x1000000 ≤ a ∧ a < 0x2000000 then edgSpec (a % 0x400000)
  else if 0x2000000 ≤ a ∧ a < 0x2800000 then stoSpec ((a - 0x2000000) / 0x200000) (a % 0x200000)
  else if 0x3000000 ≤ a ∧ a < 0x4000000 then cmpSpec (a % 0x100000)
  else none

/-- The reset value of the register at `a`, 0 where there is none. -/
def regResetOf (a : Nat) : Nat := match regSpec a with | some r => r.reset | none => 0

end Sys2Proof.Machine
end

