-- ==== Sys2Proof/Machine/ComputeTypes.lean ====
section
/-! DEFINITION. The state of the compute dies: Tabla cores, their engines, scratchpads, windows, trackers and Peal stores,
clusters with their barriers and semaphores, and the invocations that run on them. -/

namespace Sys2Proof.Machine

/-- The state of a scale-tracker stream (R278, R281, R282). `hist` and `last` are keyed by position; an exponent e is held as
e + 64. -/
structure Stream where
  steps : Nat := 0
  pos : Nat := 0
  hist : Tab (List Nat) := []
  last : Tab Nat := []
  sat : Nat := 0
  win : Nat := 0
  winSteps : Nat := 0
  posted : Bool := false
  deriving DecidableEq, Repr

/-- An instruction at an engine, with the layer and operator IDs in force at its issue (R561). -/
structure EngOp where
  instr : Instr
  layer : Nat
  op : Nat
  deriving DecidableEq, Repr

/-- An engine (R186): its queue of up to 8 instructions and the ones it has started and not completed, oldest first. -/
structure Engine where
  queue : List EngOp := []
  run : List EngOp := []
  deriving DecidableEq, Repr

/-- A window (R242). -/
structure Window where
  isOpen : Bool := false
  base : Nat := 0
  rows : Nat := 0
  rd : Bool := false
  wr : Bool := false
  pod : Bool := false
  part : Nat := 0
  deriving DecidableEq, Repr

/-- The activation set an AS left in an array (R202): what it was loaded from and its codes. -/
structure ASet where
  src : AsOp
  codes : List Nat
  deriving DecidableEq, Repr

/-- The regions of one share in a core's Peal stores (R307, R311): of the version `vid` of a
context; `st` is 1 loading, 2 resident and verified, 3 recovery. -/
structure PRegion where
  ctx : Nat
  vid : Nat
  share : Nat
  st : Nat := 1
  nTrees : Nat := 0
  nNodes : Nat := 0
  nLeaves : Nat := 0
  treeBase : Nat := 0
  nodeBase : Nat := 0
  leafBase : Nat := 0
  deriving DecidableEq, Repr

/-- A window access or answer in flight (R244, R248): the initiator, the target, the window rows, the rows carried and where
the initiator keeps them. -/
structure WinMsg where
  src : Nat
  dst : Nat
  pkg : Nat := 0
  win : Nat
  row : Nat
  n : Nat
  write : Bool
  part : Nat := 0
  data : List Byte := []
  loc : Ref := ⟨0, 0, 0⟩
  tok : Option Nat := none
  cause : Nat := 0
  late : Bool := false
  layer : Nat := 0
  op : Nat := 0
  deriving DecidableEq, Repr

/-- A Tabla core (R184, R186, R187, R190, R195, R231, R242, R249, R276, R287). Bytes of `spad` are keyed 512 × physical row
+ byte, of `vregs` 128 × register + byte; `resRows` gives the context + 1 that keeps a physical row resident (R233); `acc` is keyed 1024 × array + 16 × row + column; a scalar or token not listed is 0. -/
structure Core where
  inv : Nat := 0
  prog : Nat := 0
  pc : Nat := 0
  regs : Tab Nat := []
  flags : Nat := 0
  loops : List (Nat × Nat × Nat) := []
  calls : List Nat := []
  tokens : Tab Nat := []
  engines : Tab Engine := []
  stall : Option Instr := none
  fetchMiss : Bool := false
  layer : Nat := 0
  operator : Nat := 0
  icache : Tab (List Nat) := []
  handles : Tab Nat := []
  spad : Tab Byte := []
  vregs : Tab Byte := []
  acc : Tab Nat := []
  asSets : Tab (Option ASet) := []
  windows : Tab Window := []
  winLog : List (Nat × Nat × Nat × Nat) := []
  winLate : List (Option Nat) := []
  streams : Tab Stream := []
  descs : List Nat := []
  persistOf : Nat := 0
  nodes : Tab Nat := []
  trees : Tab Nat := []
  leaves : Tab Nat := []
  resRows : Tab Nat := []
  pregs : List PRegion := []
  streamed : Bool := false
  since : Nat := 0                      -- Beat of the last issue (R566, R570)
  deriving DecidableEq, Repr

/-- An invocation (R205, R234): its cluster, the cores launched and those still running, what it runs and serves. -/
structure Inv where
  cluster : Nat := 0
  mask : Nat := 0
  running : Nat := 0
  ctx : Nat := 0
  tag : Nat := 0
  serve : Serve := .none
  seed : Nat := 0
  train : Bool := false
  since : Nat := 0
  written : Nat := 0
  step : Nat := 0                       -- the launch's step number (R569)
  wait : Nat := 0                       -- time that does not count as active (R662)
  waitFrom : Option Nat := none
  deriving DecidableEq, Repr

/-- A barrier (R206). -/
structure Barrier where
  mask : Nat := 0
  arrived : Nat := 0
  ctlSince : Nat := 0
  deriving DecidableEq, Repr

/-- A semaphore (R207): its value and the waiter granted most recently (8 is the controller). -/
structure Sema where
  value : Nat := 0
  last : Nat := 8
  deriving DecidableEq, Repr

/-- A SIG.R in flight (R208): the sending core, the semaphore, n and the sender's partition. -/
structure SigMsg where
  src : Nat
  sem : Nat
  n : Nat
  part : Nat
  deriving DecidableEq, Repr

/-- A cluster: its power state (0 RUN, 1 IDLE, 2 RETAIN, 3 OFF, Table 19.3) and when it entered it, its barriers and semaphores, signals on their way to it, and whether its cores are being zeroed (R253), and
the context versions whose resident rows firmware has yet to load (R254). -/
structure Cluster where
  bars : Tab Barrier := []
  sems : Tab Sema := []
  sigIn : List SigMsg := []
  zeroing : Bool := false
  reload : List Nat := []
  power : Nat := 3
  idleFrom : Nat := 0
  deriving DecidableEq, Repr

/-- The compute dies. -/
structure Compute where
  cores : Tab Core := []
  clusters : Tab Cluster := []
  invs : Tab Inv := []
  nextInv : Nat := 1
  winIn : List WinMsg := []
  winBack : List WinMsg := []
  closing : Tab Nat := []
  pool : Tab Byte := []
  deriving DecidableEq, Repr

end Sys2Proof.Machine
end

