-- ==== Sys2Proof/Machine/PealTypes.lean ====
section
/-! DEFINITION. The data of tree ensembles (09_peal_trees): nodes, tree entries, a model's parameters and an edge model
with its band map. -/

namespace Sys2Proof.Machine

/-- A node (Table 9.1). -/
structure PealNode where
  feature : Nat := 0
  threshold : Nat := 0
  first : Bool := false
  last : Bool := false
  mask : Nat := 0
  deriving DecidableEq, Repr

/-- A tree entry (Table 9.2). -/
structure PealTree where
  firstNode : Nat := 0
  nNodes : Nat := 0
  leafBase : Nat := 0
  deriving DecidableEq, Repr

/-- The parameters of a model (Table 9.6): FP32 codes for the base of FP16 leaves and for the piecewise-linear table. -/
structure PealParams where
  leafFmt : Nat := 11
  nOut : Nat := 1
  link : Nat := 0
  leafScale : Int := 0
  nFeatures : Nat := 1
  base : List Nat := []
  pwl : List (Nat × Nat × Nat) := []
  deriving DecidableEq, Repr

/-- One band of a band map (R131). -/
structure Band where
  action : Nat := 0
  queueSet : Bool := false
  queue : Nat := 0
  deriving DecidableEq, Repr

/-- An express model of an edge Peal bank (R129, R131): parameters, trees, nodes and leaves with indices of its own, the
thresholds in the model's output format and four bands. -/
structure EdgeModel where
  present : Bool := false
  par : PealParams := {}
  trees : List PealTree := []
  nodes : List PealNode := []
  leaves : List Nat := []
  t1 : Nat := 0
  t2 : Nat := 0
  t3 : Nat := 0
  bands : List Band := []
  deriving DecidableEq, Repr

end Sys2Proof.Machine
end

