-- ==== Sys2Proof/Machine/EdgeTypes.lean ====
section
/-! DEFINITION. The state of the edge dies: ports, frames, Clave parsers, program banks, rule and flow tables, meters,
mirror sessions, slow-path buckets, deep requests, egress queues and gates. -/

namespace Sys2Proof.Machine

/-- A token bucket: `lvl` is its level in scaled tokens at Beat `last`; `none` is a bucket never drawn from, which is
full (R99, R114, R139, R166: every bucket starts full). -/
structure Bucket where
  lvl  : Option Int := none
  last : Nat := 0
  deriving DecidableEq, Repr

/-- A parser program bank (R65, R96, R103): what LOAD_TABLE delivered of it. `prog` holds the delivered instructions in
index order, each a Clave constructor of `Instr` with parser 0; a slot beyond them reads as FAIL 0x7F. -/
structure ParserBank where
  prog : List Instr := []
  consts : Tab Word32 := []
  encs : Tab EncTable := []
  edits : Tab (List EditOp) := []
  profiles : Tab FlowProfile := []
  deriving DecidableEq, Repr

/-- Where a received frame stands (Table 1.7). -/
inductive Stage where
  | waiting | parsing | parsed | flowWait | deepWait | slowWait | queued
  deriving DecidableEq, Repr

/-- The flow state of a frame at feature 148 (Table 4.5). -/
inductive FlowUse where
  | tracked | learnedHere | untracked | noLearn
  deriving DecidableEq, Repr

/-- A flow entry (Table 3.6). -/
structure FlowEntry where
  valid : Bool := false
  tag : Nat := 0
  profile : Nat := 0
  gen : Nat := 0
  firstSeen : Nat := 0
  lastSeen : Nat := 0
  packets : Nat := 0
  bytes : Nat := 0
  hist : List Nat := []
  iatEwma : Nat := 0
  iatDev : Nat := 0
  flags : Nat := 0
  deriving DecidableEq, Repr

/-- Which rule slot settled a frame: the slot's index on its die, or the miss entry of a table. -/
inductive RuleRef where
  | none | slot (i : Nat) | miss (table : Nat)
  deriving DecidableEq, Repr

/-- A record or copy that a frame delivers to the slow path once its last byte is known good (R63): the class, its cause
code, whether it goes to a host ring and which function's, and its truncation. Class 8 stands for the FRAME record of an
adapter port (R458). -/
structure SlowItem where
  cls : Nat
  cause : Nat
  toHost : Bool
  fn : Nat := 0
  ring : Nat := 17
  trunc : Nat := 0
  verdict : List Byte := []
  outputs : List Nat := []
  deriving DecidableEq, Repr

/-- A frame in the package, from its first byte until its last use (R35, R63, R69). `bytes` holds the bytes that have
arrived, without the FCS; `len` is the received length with the FCS. -/
structure Frame where
  bp : Nat := 0
  bytes : List Byte := []
  len : Nat := 0
  ended : Bool := false
  bad : Bool := false
  oversize : Bool := false
  epoch : Nat := 0
  tag : Nat := 0
  entry : Nat := 0
  depth : Nat := 0
  maxFrame : Nat := 9216
  mode : Nat := 0
  rxBeat : Nat := 0
  rxTod : Nat := 0
  vcfg : List Nat := []
  stage : Stage := .waiting
  -- the parse result (R71, R665, R666)
  key : List Bool := []
  fields : Tab (Option Word32) := []
  hdrs : List (Nat × Nat) := []
  cursor : Nat := 0
  hint : Option Nat := none
  prioHint : Option Nat := none
  -- the match result (R82, R95)
  ref : RuleRef := .none
  action : Nat := 0
  exceed : Option Nat := none
  flowUse : FlowUse := .noLearn
  flowTag : Nat := 0
  flowT : Nat := 0
  flow : FlowEntry := {}
  flowIat : Nat := 0
  flowPend : Bool := false
  flowDone : Bool := false
  edited : List Byte := []
  -- verdict (R119, R130-R132, R137)
  source : Nat := 0
  score : Nat := 0
  exprOut : Nat := 0
  vqueue : Option Nat := none
  outputs : List Nat := []
  resolveBeat : Nat := 0
  deepReq : Option Nat := none
  slow : List SlowItem := []
  deriving DecidableEq, Repr

/-- A Clave parser (R65 ff.): 16 registers, cursor, header stack, key bit string, field slots with valid bits, call stack,
its program index, the packet cycles it has used and, while it stalls, the stalled access and the Beat of the stall. -/
structure Parser where
  frame : Option Nat := none
  pc : Nat := 0
  cycles : Nat := 0
  g : Tab Word32 := []
  cursor : Nat := 0
  hdrs : List (Nat × Nat) := []
  key : List Bool := []
  fields : Tab (Option Word32) := []
  calls : List Nat := []
  hint : Option Nat := none
  prio : Option Nat := none
  stall : Option Instr := none
  stallFrom : Nat := 0
  deriving DecidableEq, Repr

/-- The transmit side of a breakout port: TX_HOLD and its timers, the pause end of each queue, the scheduler state. -/
structure Bp where
  cfg : Nat := 0
  link : Bool := false
  txHold : Bool := false
  holdFrom : Nat := 0
  calibrated : Bool := false
  idleFrom : Option Nat := none
  discarding : Bool := false
  disabled : Bool := false
  rx : Option Nat := none
  order : List Nat := []
  pauseEnd : Tab Nat := []
  ptr : Nat := 0
  fresh : Bool := false
  deficit : Tab Nat := []
  bucket : Bucket := {}
  qBuckets : Tab Bucket := []
  deriving DecidableEq, Repr

/-- A physical port: lane locks, calibration, the temperature of its last calibration, and a forced recalibration. -/
structure PhysPort where
  laneLock : Nat := 0
  calBusy : Bool := false
  recalDue : Bool := false
  everCal : Bool := false
  calTemp : Int := 0
  mustRecal : Bool := false
  refLost : Bool := false
  refUse : Nat := 0
  deriving DecidableEq, Repr

/-- The region of the packet buffer a frame's cells came from (R158, R159). -/
inductive Region where
  | reserved | shared | headroom
  deriving DecidableEq, Repr

/-- A frame in an egress queue: `bytes` as it leaves without FCS, `len` its transmitted length, its cells and their
region, and for a frame still arriving (`whole = false`) the received frame it follows. -/
structure EItem where
  src : Option Nat := none
  bytes : List Byte := []
  len : Nat := 64
  cells : Nat := 1
  region : Region := .shared
  inBp : Nat := 0
  prio : Nat := 0
  enq : Nat := 0
  whole : Bool := true
  storeFwd : Bool := false
  stomp : Bool := false
  epoch : Nat := 0
  mirror : Nat := 0
  cut : Nat := 0
  shim : List Byte := []
  rest : Nat := 0
  deriving DecidableEq, Repr

/-- An egress queue with the counts of its sampling period (R181). -/
structure EQueue where
  items : List EItem := []
  depthMax : Nat := 0
  sojournMax : Nat := 0
  dequeued : Nat := 0
  dropped : Nat := 0
  touched : Bool := false
  deriving DecidableEq, Repr

/-- The gates of a breakout port: the list in force (entries are mask and interval as written, by index), its length, cycle
and base, the bank in use, an armed swap with the instant it is due, and the mask in force (R171, R174). -/
structure Gates where
  raw : Tab (Nat × Nat) := []
  len : Nat := 1
  cycle : Nat := 1000000
  base : Nat := 0
  bank : Bool := false
  pending : Bool := false
  due : Nat := 0
  mask : Nat := 0xFFFF
  deriving DecidableEq, Repr

/-- A rule-SRAM slot (R80): its key, action word and version metadata; `second` marks the upper half of a slot pair. -/
structure RuleSlot where
  used : Bool := false
  second : Bool := false
  wide : Bool := false
  table : Nat := 0
  key : List Byte := []
  action : Nat := 0
  birth : Nat := 0
  death : Nat := 0
  opn : Bool := false
  deriving DecidableEq, Repr

/-- A version of a table's miss entry (R91). -/
structure MissVer where
  action : Nat
  birth : Nat
  death : Nat := 0
  opn : Bool := true
  deriving DecidableEq, Repr

/-- A meter (R98, R99). -/
structure Meter where
  configured : Bool := false
  unit : Nat := 0
  exceed : Nat := 0
  exceedQueue : Nat := 0
  rate : Nat := 0
  burst : Nat := 0
  bucket : Bucket := {}
  deriving DecidableEq, Repr

/-- A mirror session (R98, R100). -/
structure Mirror where
  configured : Bool := false
  dest : Nat := 0
  port : Nat := 0
  queue : Nat := 0
  trunc : Nat := 0
  deriving DecidableEq, Repr

/-- A flow-cache way (R106): the entry, whether it is dirty, how many frames pin it, and its recency. -/
structure FlowWay where
  entry : FlowEntry := {}
  dirty : Bool := false
  pins : Nat := 0
  stamp : Nat := 0
  deriving DecidableEq, Repr

/-- An outstanding flow miss (R108): the tag and profile, and the frames waiting on it in arrival order. -/
structure FlowMiss where
  tag : Nat := 0
  profile : Nat := 0
  gen : Nat := 0
  frames : List Nat := []
  deriving DecidableEq, Repr

/-- A message from an edge die to its store die, in the order of class VERDICT (R26, R107): a lookup-or-insert request with
the time it was made, a write-back, or the confirmation of an aging candidate (R111). -/
inductive FlowMsg where
  | lookup (tag profile gen time : Nat)
  | writeback (e : FlowEntry)
  | confirm (tag idx : Nat)
  deriving DecidableEq, Repr

/-- A message from a store die to its edge die: the answer to a request (R109), or an aging candidate (R111). -/
inductive FlowBack where
  | answer (tag : Nat) (entry : Option FlowEntry) (learned : Bool)
  | candidate (tag idx lastSeen : Nat)
  deriving DecidableEq, Repr

/-- A request-table entry of an edge die (R141-R145). -/
structure DeepReq where
  used : Bool := false
  frame : Option Nat := none
  context : Nat := 0
  epoch : Nat := 0
  tag : Nat := 0
  deadline : Nat := 0
  defaultAct : Nat := 0
  issued : Bool := false
  cluster : Nat := 0
  settled : Bool := false
  held : Nat := 0
  ans : Option (Nat × Nat × Nat × List Nat) := none
  block : Option (Nat × Nat) := none
  feats : List Nat := []
  needBytes : Nat := 0
  flowTag : Nat := 0
  exprOut : Nat := 0
  userTag : Nat := 0
  rxTime : Nat := 0
  label : Nat := 0
  launched : Option Nat := none
  arrived : Bool := false              -- its cluster has received it (R146)
  deriving DecidableEq, Repr

/-- The state of the four edge dies and of their flow tables on the store dies. Tables are keyed as their comments say. -/
structure Edge where
  bps : Tab Bp := []                     -- breakout port
  phys : Tab PhysPort := []              -- package port
  macs : Tab (Option Nat) := []          -- breakout port: a configured address written since reset (R664)
  macLo : Tab (Option Nat) := []         -- breakout port: the held mac_lo written since reset (R664)
  frames : Tab Frame := []               -- frame id
  nextFrame : Nat := 1
  pipes : Tab (List Nat) := []           -- pipeline: dispatch queue (R76)
  parsers : Tab Parser := []             -- parser
  banks : Tab ParserBank := []           -- 3 * die + epoch tag
  rules : Tab RuleSlot := []             -- 2^20 * die + slot; stash slot i at 2^19 + i
  missEnts : Tab (List MissVer) := []    -- 16 * die + table
  sweepBusy : Tab Bool := []             -- die
  peal : Tab (Tab EdgeModel) := []       -- 3 * die + epoch tag: express models (R129)
  meters : Tab Meter := []               -- 4096 * die + id
  mirrors : Tab Mirror := []             -- 64 * die + id
  slowBk : Tab Bucket := []              -- 16 * die + class; 8 edge-controller, 9 host aggregate
  fcache : Tab FlowWay := []             -- 65536 * die + 16 * set + way
  fclock : Nat := 0
  misses : Tab FlowMiss := []            -- 4096 * die + i
  flowOut : Tab (List FlowMsg) := []     -- die: Ei to Si, oldest first
  flowIn : Tab (List FlowBack) := []     -- die: Si to Ei, oldest first
  flowTab : Tab FlowEntry := []          -- 2^23 * die + 4 * bucket + slot; stash at 2^22 + i
  deep : Tab DeepReq := []               -- 65536 * die + request id
  deepFifo : Tab (List Nat) := []        -- die: request ids in the dispatch FIFO (R141)
  deepBk : Tab Bucket := []              -- die: issue bucket (R139)
  credits : Tab Nat := []                -- 4 * cluster + die: credits in use of 64 (R140)
  queues : Tab EQueue := []              -- 16 * bp + queue
  txNow : Tab (Option EItem) := []       -- bp: the frame being transmitted
  txQueue : Tab Nat := []                -- bp: the queue it came from
  gates : Tab Gates := []                -- bp
  pfcX : Tab Bool := []                  -- 16 * bp + prio (8: PAUSE): XOFF sent and not yet XON (R169)
  interDie : List (Nat × Nat × Nat × EItem) := []  -- (source die, breakout port, queue, frame) in class FRAME
  sampleCnt : Tab (Nat × Nat) := []      -- die: Beat second and records emitted in it (R182)
  refLost : Tab Bool := []               -- 2 * die + reference
  tsTxEn : Tab Bool := []                -- package port: ts_tx_en (R519)
  oneStepEn : Tab Bool := []             -- package port: one_step_en (R519)
  deriving DecidableEq, Repr

end Sys2Proof.Machine
end

