-- ==== Sys2Proof/Machine/HubTypes.lean ====
section
/-! DEFINITION. The state of the hub: outputs, records, epochs, contexts, partitions, ring pairs, record rings and the
commands they have fetched. -/

namespace Sys2Proof.Machine

/-- What leaves the block, in the order it leaves. -/
inductive Out where
  | frame (bp : Nat) (bytes : List Byte) (stomped : Bool)      -- a frame handed to a port's transmit PCS
  | pause (bp : Nat) (prio : Nat) (xoff : Bool)                -- a PAUSE (prio 8) or PFC frame sent (R169)
  | edgeController (die : Nat) (cause : Nat) (bytes : List Byte) -- a slow-path frame to the edge controllers (R38)
  | msix (fn : Nat) (vec : Nat)                                -- an MSI-X message (R461)
  | jodon (link : Nat) (msg : List Byte)                        -- a message or block handed to a Jodon link
  | jodonNak (link : Nat) (ack : Nat)                          -- a NAK and the last block received in order (R499)
  | mgmt (medium : Nat) (bytes : List Byte)                    -- a management response (R544)
  | ibi (code : Nat)                                           -- an I3C in-band interrupt for ALERT (R535)
  | platformEvent (receiver : Nat) (code : Nat)                -- a PLDM PlatformEventMessage (R535)
  | readData (addr value : Nat)                                -- what a register read returns
  deriving DecidableEq, Repr

/-- A record on its way to a record ring (R458, R459): a frame slot without its phase bit, an event, or a sample. -/
inductive Rec where
  | frame (hdr parse frame : List Byte)
  | event (code time : Nat) (payload : List Byte)
  | sample (bytes : List Byte)
  deriving DecidableEq, Repr

/-- A request plan (R135): MAP indices into the verdict feature space, or a BLOCK of n words from byte o. -/
structure ReqPlan where
  block : Bool := false
  n : Nat := 1
  o : Nat := 0
  idx : List Nat := []
  deriving DecidableEq, Repr

/-- The feedback section of a feedback context (R366, R427). -/
structure FbSpec where
  target : Nat := 0
  labelIdx : Nat := 0
  labelKind : Nat := 0
  capacity : Nat := 1024
  verdict : Nat := 0
  deriving DecidableEq, Repr

/-- One share of a tree ensemble (R306, R309). -/
structure Share where
  trees : List PealTree := []
  nodes : List PealNode := []
  leaves : List Nat := []
  deriving DecidableEq, Repr

/-- The train section of an image (R350): the bytes of the section and what a vector of it takes. -/
structure TrainSpec where
  nFeatures : Nat := 0
  bytes : List Byte := []
  deriving DecidableEq, Repr

/-- The state of a trainable tensor (R351): codes of its weights row by row with each row's exponent (none where it has no scale
tensor), its BF16 master copy, and its moments with their exponents. -/
structure TState where
  w : List (List Nat) := []
  wExp : List Int := []
  master : List (List Nat) := []
  m1 : List (List Nat) := []
  m1Exp : List Int := []
  m2 : List (List Nat) := []
  m2Exp : List Int := []
  deriving DecidableEq, Repr

/-- A version of a model context in one epoch (R419, R421): what its image holds. `vid` names the version itself: versions
shared between epochs have one `vid`. -/
structure CtxVersion where
  present : Bool := false
  vid : Nat := 0
  image : List Byte := []
  progs : List Nat := []               -- n_instr of each core program (R426)
  cached : Bool := false               -- ICACHE_CACHED (R190)
  streams : List Nat := []             -- stream descriptors (Table 8.6)
  shares : List Share := []
  par : PealParams := {}
  hasRes : Bool := false               -- it carries a RESIDENT section
  plan : Option ReqPlan := none
  fb : Option FbSpec := none
  hasTrain : Bool := false
  train : TrainSpec := {}
  decode : Option (Nat × Nat × Nat × Nat) := none
  tstate : List TState := []           -- trained state by tensor, empty until its first step (R351, R355)
  step : Nat := 0                      -- committed training steps
  torn : Bool := false                 -- R370
  deriving DecidableEq, Repr

/-- A feedback buffer (R366, R367): its records, oldest first. -/
structure FbBuf where
  recs : List (List Byte) := []
  deriving DecidableEq, Repr

/-- A model context (R419): its owner, its clusters in bound order, and its version for each epoch tag. -/
structure Context where
  exist : Bool := false
  owner : Nat := 0
  feedback : Bool := false
  clusters : List Nat := []
  destroying : Bool := false
  versions : Tab CtxVersion := []
  work : CtxVersion := {}              -- what a LOAD_IMAGE or TRAIN_STEP prepares until its commit
  buf : FbBuf := {}
  deriving DecidableEq, Repr

/-- A version of a table slot (R415). -/
structure TabVer where
  kind : Nat := 0
  base : Nat := 0
  rowLen : Nat := 32
  nRows : Nat := 0
  cacheable : Bool := false
  deriving DecidableEq, Repr

/-- An entry of a keyed table (R418): slot, key and value with their version metadata. -/
structure KeyedEntry where
  part : Nat := 0
  slot : Nat := 0
  key : List Byte := []
  value : List Byte := []
  birth : Nat := 0
  death : Nat := 0
  opn : Bool := false
  poison : Bool := false
  deriving DecidableEq, Repr

/-- A flip or abandon under way (R405, R406, R413): its command, which of the two, when its hold began, whether it switches
and which edge dies have switched. -/
structure Flip where
  tkt : Nat
  abandon : Bool
  since : Nat
  held : Bool := false                 -- the arbiter has admitted it and it holds (R405, R547)
  switching : Bool := false
  dies : Nat := 0
  deriving DecidableEq, Repr

/-- A request at the maintenance arbiter (R546 to R548): its activity, its object, where it came from, the command it serves,
whether it is granted, the Beat at which its wait limit passes, and its other operands. -/
structure MaintReq where
  act : Nat
  obj : Nat
  src : Nat
  tkt : Nat := 0
  granted : Bool := false
  limit : Nat := 0
  args : List Nat := []
  deriving DecidableEq, Repr

/-- The epochs (R397 to R399). -/
structure Epochs where
  cur : Nat := 1
  curTag : Nat := 0
  stage : Option (Nat × Nat) := some (2, 1)
  drain : Option (Nat × Nat) := none
  drainReady : Bool := false           -- its switch has completed on every pipeline (R409)
  flip : Option Flip := none
  retiring : Bool := false
  opening : Option Nat := none         -- an ABANDON's command that waits for the new STAGING (R413)
  deriving DecidableEq, Repr

/-- The grants of a partition (R469, R471) and where it stands. `pages` are its die-pool pages, 64 × die + page, in granted
order. -/
structure Part where
  exist : Bool := false
  hier : Nat := 0
  fn : Nat := 0
  pairs : Nat := 64
  vectors : Nat := 64
  ctxQuota : Nat := 4096
  hbmWeight : Nat := 16
  netCredits : Nat := 16
  txPorts : Nat := 0
  txQueues : Nat := 0xFFFF
  txRate : Nat := 6400000
  clusters : Nat := 0
  frames : Nat := 0
  pages : List Nat := []
  sram : List Nat := []
  ruleSlots : List Nat := []
  ruleTables : List Nat := []
  resetting : Bool := false
  zeroing : Bool := false
  destroying : Bool := false
  resetAgain : Bool := false
  dueClear : Nat := 0
  deriving DecidableEq, Repr

/-- The partition of a port's PF after reset (R475): flat, without clusters, frames or tables, every port in tx_ports. -/
def pfPart (port : Nat) : Part := { exist := true, fn := 64 * port, txPorts := 0xFFFFFFFF }

/-- A partition operation under way (R472): `desc` is its descriptor once the checks have passed and new frames are being
zeroed. -/
structure PartOp where
  part : Nat
  op : Nat
  port : Nat
  addr : Nat
  desc : List Byte := []
  deriving DecidableEq, Repr

/-- A ring pair (R444, R445, R455, R461). -/
structure Pair where
  enabled : Bool := false
  error : Bool := false
  cfgErr : Bool := false
  dbErr : Bool := false
  sqHead : Nat := 0
  sqTail : Nat := 0
  cqTail : Nat := 0
  cqHead : Nat := 0
  phase : Bool := true
  unann : Nat := 0
  unannFrom : Nat := 0
  deriving DecidableEq, Repr

/-- A record ring (R458, R460, R461). -/
structure RRing where
  enabled : Bool := false
  error : Bool := false
  cfgErr : Bool := false
  dbErr : Bool := false
  tail : Nat := 0
  head : Nat := 0
  phase : Bool := true
  unann : Nat := 0
  unannFrom : Nat := 0
  seq : Nat := 0
  lost : Nat := 0
  deriving DecidableEq, Repr

/-- A command the ring engine has fetched (R446, R451): its pair, the 64 bytes of its entry, the Beat of its fetch and the
epoch it is stamped with. `st` is 0 while it waits, 1 while it runs, 2 while it commits; `aux` holds what its opcode keeps. -/
structure Cmd where
  q : Nat := 0
  bytes : List Byte := []
  fetched : Nat := 0
  tag : Nat := 0
  st : Nat := 0
  aux : List Nat := []
  launched : Option Nat := none        -- the step of its launch (R569)
  deriving DecidableEq, Repr

end Sys2Proof.Machine
end

