-- ==== Sys2Proof/Machine/StoreTypes.lean ====
section
/-! DEFINITION. The state of the store dies and of the control-core directories (12_store_memory). -/

namespace Sys2Proof.Machine

/-- A burst request pending in a coalescer (R382): its HBM address, the core that asked, when it came, and the requests merged
with it. -/
structure Burst where
  addr : Nat
  stack : Nat
  sa : Nat
  since : Nat
  cores : List Nat := []
  deriving DecidableEq, Repr

/-- The open DRAM row of a bank and how many bursts in a row it has served (R382). -/
structure BankRow where
  row : Option Nat := none
  served : Nat := 0
  deriving DecidableEq, Repr

/-- A GATHER in progress (R381): the instruction, the elements' addresses (none is an index beyond the table), the bursts
still missing and those that have come, whether a burst was uncorrectable. -/
structure GatherRun where
  op : GatherOp
  rowLen : Nat := 32
  elems : List (Option Nat) := []
  missing : List Nat := []
  got : Tab (List Byte) := []
  bad : Bool := false
  deriving DecidableEq, Repr

/-- A piece of work of a zeroing engine (R480): the operation (partition, or 64 + partition for frames being granted) and its
frame. -/
structure ZeroJob where
  part : Nat
  frame : Nat
  deriving DecidableEq, Repr

/-- A directory line (R391): state 0 Invalid, 1 Shared, 2 Modified, its presence bits, the transactions held behind the one in
progress, and the owner's writeback buffer. -/
structure DirLine where
  state : Nat := 0
  present : Nat := 0
  busy : Option (Nat × Nat × Nat) := none -- requester, kind and value of the transaction in progress
  snoops : Nat := 0                       -- L2s whose snoop answer is awaited
  expectWb : Bool := false
  held : List (Nat × Nat × Nat) := []
  data : Nat := 0                         -- the line's value in the firmware RAM
  deriving DecidableEq, Repr

/-- A copy of a line in an L2 (R391, R393): its state and value, and whether it sits in the writeback buffer. -/
structure L2Line where
  state : Nat := 0
  data : Nat := 0
  wb : Bool := false
  deriving DecidableEq, Repr

/-- A stack: temperature, and whether it is trained or failed; corrected errors of the current 24 h window. -/
structure Stack where
  temp : Nat := 0
  trained : Bool := false
  failed : Bool := false
  level : Nat := 0                        -- of Table 12.2: 0 below 85 °C, 1 from 85, 2 from 95, 3 from 100
  ceWindow : List Nat := []
  deriving DecidableEq, Repr

/-- A partial of a query head (R333): the running maximum, the sum of weights and the weighted sums, FP32 codes, and whether a NaN
logit or value was met. -/
structure AttnPart where
  m : Nat := 0xFF800000
  l : Nat := 0
  o : List Nat := []
  nan : Bool := false
  deriving DecidableEq, Repr

/-- A sequence in a decode step (R328 to R330): its shard's descriptor as it was read, and what the step has so far. `kv` holds per
layer the new token's codes and exponent of each KV head; `parts` is keyed 8 × layer + store die (4 is the current token), `far`
8 × layer + shard; a partial list has one entry per query head. -/
structure SeqRun where
  part : Nat := 0
  desc : Nat := 0
  fmt : Nat := 2
  tail : Bool := false
  nKv : Nat := 1
  nLayers : Nat := 1
  hd : Nat := 16
  qPer : Nat := 1
  length : Nat := 0
  posBase : Nat := 0
  cap : Nat := 1
  tau : Nat := 0
  scale : Nat := 0
  shard : Nat := 0
  nShards : Nat := 1
  bases : List Nat := []
  skip : Nat := 0                         -- store dies on which the step may skip (R338), as a mask
  kv : Tab (Option (List (List Nat × Int))) := []
  parts : Tab (Option (List AttnPart)) := []
  far : Tab (Option (List AttnPart)) := []
  outs : Tab (Option (List (List Nat))) := []
  unitsRead : Nat := 0
  unitsSkipped : Nat := 0
  deriving DecidableEq, Repr

/-- A decode step under way (R319), or the work of a shard of another package's step (R343). -/
structure DecStep where
  seqs : List SeqRun := []
  deriving DecidableEq, Repr

/-- The store dies. `hbm` is keyed by HBM address, `poison` by address / 64, `coal` by store die, `rows` by
1024 × stack + 16 × pseudo-channel + bank, `gcache` by compute die (addresses of cached bursts), `gathers` by core. -/
structure Store where
  hbm : Tab Byte := []
  poison : Tab Bool := []
  stackTab : Tab Stack := []
  coal : Tab (List Burst) := []
  rows : Tab BankRow := []
  gcache : Tab (Tab (List Byte)) := []
  gathers : Tab (Option GatherRun) := []
  zeroQ : Tab (List ZeroJob) := []
  dir : Tab DirLine := []
  l2 : Tab L2Line := []
  dec : Tab DecStep := []                 -- by ticket; 2^40 + descriptor / 256 for another package's step
  deriving DecidableEq, Repr

end Sys2Proof.Machine
end

