-- ==== Sys2Proof/Machine/SystemTypes.lean ====
section
/-! DEFINITION. The state of the fabric, the clocks, the Tynas island, OTP, boot, power and pins (16_jodon_fabric_time to
21_package_pins). -/

namespace Sys2Proof.Machine

/-- A Jodon message (Table 16.6): its header fields, `extra` for bytes 24–63 of a GONG or BEAT_SYNC, and its rows. -/
structure JMsg where
  type : Nat
  src : Nat := 0
  dst : Nat := 0
  part : Nat := 0
  win : Nat := 0
  rows : Nat := 1
  core : Nat := 0
  row : Nat := 0
  agent : Nat := 0
  tag : Nat := 0
  beat : Nat := 0
  cause : Nat := 0
  extra : List Byte := []
  data : List Byte := []
  deriving DecidableEq, Repr

/-- A Jodon link (R493 to R500): its state and training phase, its partner, its blocks and credits, messages that wait for
credits, flits of a message still arriving, and whole messages not yet passed into the package network. -/
structure Link where
  state : Nat := 1
  phase : Nat := 1
  since : Nat := 0
  partner : Nat := 0
  partnerLink : Nat := 0
  cause : Nat := 0
  downs : Nat := 0
  recalDue : Bool := false
  forced : Bool := false
  calibrated : Bool := false
  calTemp : Int := 0
  logged : List Nat := []
  rxNext : Nat := 0
  acked : Nat := 65535
  replayOf : Nat := 0
  replays : Nat := 0
  credC : Nat := 256
  credQ : Nat := 4096
  credP : Nat := 4096
  tx : List JMsg := []
  flits : List Byte := []
  rx : List JMsg := []
  deriving DecidableEq, Repr

/-- An access that its initiator sees as outstanding (R508): its key, the link it is pinned to, when it was sent, and what
waits for it: a core's window instruction, or row `off` of the REMOTE_COPY with a ticket. -/
structure JOut where
  agent : Nat
  tag : Nat
  pkg : Nat
  core : Nat
  win : Nat
  row : Nat
  n : Nat
  write : Bool
  link : Nat
  sent : Nat
  part : Nat := 0
  msg : Option WinMsg := none
  tkt : Nat := 0
  off : Nat := 0
  deriving DecidableEq, Repr

/-- A pin (R504, R508): agent, destination package, core and window, the link, and since when that link has failed. -/
structure Pin where
  agent : Nat
  pkg : Nat
  core : Nat
  win : Nat
  link : Nat
  dead : Option Nat := none
  deriving DecidableEq, Repr

/-- The asynchronous fault queue of a function (R507): destination package, target core and window of each key. -/
structure FaultQ where
  keys : List (Nat × Nat × Nat) := []
  overflow : Bool := false
  deriving DecidableEq, Repr

/-- What a package has heard on a link (R512, R513): the neighbour's root and hops, its package, the t1 of its last BEAT_SYNC,
when that came, and the t1 of the last one sent. -/
structure Neighbour where
  root : Nat := 0
  hops : Nat := 0
  pkg : Nat := 0
  t1 : Nat := 0
  t2 : Nat := 0
  sent : Nat := 0
  heard : Bool := false
  deriving DecidableEq, Repr

/-- The Jodon fabric. -/
structure Fabric where
  links : Tab Link := []
  outs : List JOut := []
  pins : List Pin := []
  faultQ : Tab FaultQ := []
  nextTag : Nat := 0
  deriving DecidableEq, Repr

/-- The package clocks (R510 to R523). `todNs` counts nanoseconds from 0 s of the scale; `root` is none while the package is its
own root; `steer` and `slew` steer the Beat (parts per 10^9) and the ToD (nanoseconds still to remove), `bacc`, `tacc` and `sacc` hold
the parts of a nanosecond they have gathered; `lockSecs` lists the corrections in ns of the last 16 s of LOCKED, `lockSum` and `lockNs` the
second under way (R521); the other fields are the latches, the validity of the references and what awaits
a step boundary (an offset in ns, or a number of seconds). -/
structure Time where
  beat : Nat := 0
  bacc : Int := 0
  todNs : Nat := 0
  tacc : Int := 0
  sacc : Int := 0
  root : Option Nat := none
  hops : Nat := 0
  bstate : Nat := 0
  offset : Int := 0
  inSync : Nat := 0
  upLink : Option Nat := none
  steer : Int := 0
  noLinkSince : Nat := 0
  nbrs : Tab Neighbour := []
  beatHi : Nat := 0
  todSec : Nat := 0
  snap : Nat := 0
  tstate : Nat := 0
  slew : Int := 0
  slewing : Bool := false
  stepPend : Option Int := none
  stepSec : Option Nat := none
  ppsValid : Bool := false
  refValid : Bool := false
  swValid : Bool := false
  refSeen : Bool := false
  swLast : Nat := 0
  ppsLast : Option Nat := none
  ppsGood : Nat := 0
  ppsNs : Nat := 0
  outRise : Option Nat := none
  outHigh : Bool := false
  outWidth : Nat := 0
  lockNs : Nat := 0
  lockSum : Int := 0
  lockSecs : List Int := []
  deriving DecidableEq, Repr

/-- An entry of the event log (Table 17.4). -/
structure LogEntry where
  time : Nat
  code : Nat
  severity : Nat
  unsync : Bool := false
  seq : Nat
  site : Nat
  unit : Nat
  payload : List Byte := []
  deriving DecidableEq, Repr

/-- A firmware update under way (R542). -/
structure FwUpdate where
  medium : Nat
  granted : Bool := false
  verified : Bool := false
  deriving DecidableEq, Repr

/-- An SPDM session (R544, R545): the medium it runs over, whether it is secured, and whether its requester authenticated with
a certificate that chains to the owner root key. -/
structure Session where
  medium : Nat
  auth : Bool := false
  deriving DecidableEq, Repr

/-- The Tynas island (R529 to R545, R624): the retained log and the NOR log (oldest first), how many of the newest entries await
their NOR write, the trouble counters and their copy in NOR, the firmware slots and their state, sensors, failed control cores,
management sessions and the mailbox. -/
structure Island where
  log : List LogEntry := []
  seq : Nat := 0
  nor : List LogEntry := []
  unsaved : List LogEntry := []
  trouble : Tab Nat := []
  troubleNor : Tab Nat := []
  troubleSince : Option Nat := none
  alert : Bool := false
  slotA : Tab Byte := []
  slotB : Tab Byte := []
  active : Nat := 0
  fwPending : Bool := false
  attempts : Nat := 0
  running : Option Nat := none
  runSv : Nat := 0
  build : Nat := 0
  update : Option FwUpdate := none
  restarting : Bool := false
  down : Tab Bool := []                 -- control cores being restarted: 96 + die, 112 + edge controller
  boundAt : Tab Nat := []               -- kind of bound → 1 + Beat of its last FW_BOUND entry
  temps : Tab Int := []                 -- thermal sensors, quarters of a degree
  volts : Tab Nat := []
  powerW : Nat := 0
  capBeat : Option Nat := none          -- since when the duty has been below 16/16
  capLogged : Bool := false
  eid : Nat := 0
  i3cAddr : Nat := 0
  receiver : Option Nat := none
  sessions : List Session := []
  nonce : Option Nat := none
  nonceHi : Nat := 0
  mbox : Option (Nat × List Byte) := none -- an accepted mailbox request: its cmd and payload (R620)
  guardP : Tab Bucket := []             -- breakout port (R532)
  guardE : Tab Bucket := []             -- edge die
  holdFrom : Option Nat := none         -- SYS_RST_N asserted since (R604)
  heldLogged : Bool := false
  smbusBusy : Bool := false
  deriving DecidableEq, Repr

/-- The fields of a configuration block (Table 20.7). -/
structure OtpCfg where
  sigRequired : Bool := false
  x1 : Bool := true
  powerW : Nat := 2400
  portOff : Nat := 0
  jodonOff : Nat := 0
  vfCap0 : Nat := 63
  vfCap1 : Nat := 63
  macBase : Nat := 0
  macLog : Nat := 16
  keys : List (List Byte) := []
  deriving DecidableEq, Repr

/-- A configuration generation of OTP (R615 to R617): its valid bit, whether its slot is consumed, and its fields. -/
structure OtpGen where
  valid : Bool := false
  used : Bool := false
  cfg : OtpCfg := {}
  deriving DecidableEq, Repr

/-- OTP (Table 20.6). `life` is the three copies of the life-cycle thermometer, bit k for its k-th bit; `fuses` counts the
anti-rollback thermometer; `maps` gives a core's disabled arrays. -/
structure Otp where
  serial : Nat := 0
  fwKeys : List (List Byte) := []
  fwRevoked : Nat := 0
  plynhar : List Byte := []
  ownerRoot : List Byte := []
  gens : Tab OtpGen := [(0, { valid := true, used := true })]
  arrays : Nat := 8
  maps : Tab Nat := []
  fuses : Nat := 0
  life : List Nat := [1, 1, 1]
  wipeDone : Bool := false
  deriving DecidableEq, Repr

/-- The boot (R600 to R614): its step (0 before its start), the generation in force, the hold, its failure, when it began, how
many rails are on, the reset it follows, and whether SYS_RST_N holds the device. -/
structure Boot where
  step : Nat := 0
  ready : Bool := false
  gen : Option Nat := some 0
  hold : Bool := false
  failed : Bool := false
  failCause : Nat := 0
  begun : Nat := 0
  held : Nat := 0
  bootMs : Nat := 0
  rails : Nat := 0
  railsGood : Nat := 0
  cause : Nat := 0
  inReset : Bool := false
  tripped : Bool := false
  afterTrip : Bool := false
  token : Bool := false
  fault : Bool := false
  stackDead : Bool := false
  aonLost : Bool := false
  wiping : Bool := false
  deferred : List Nat := []             -- FLRs accepted before device_ready (R613)
  deriving DecidableEq, Repr

/-- A wake at the Thaw sequencer (R585, R586): its domain, and when it started. -/
structure Wake where
  dom : Nat
  started : Option Nat := none
  deriving DecidableEq, Repr

/-- Power and clocks (R578 to R594). Domains are numbered 0–95 the clusters, 96–111 DIE, 112 PIPE, 116 ETH, 120 JOD, 124 STORE,
128 ATTN of each die, 132–143 the stacks, 144 HUB, 145 X0, 146 X1. `on` lists powered domains other than clusters; `queue` the
IDLE exits and clock raises that wait (cluster, and whether it is a raise); `charges` the charges of the last 10 µs (group,
Beat, and 1/28 A); `steps` how far a cluster's clock lies below step 50; `raiseDue` and `lastStart` hold a Beat + 1; `est` holds
the estimates of the last 8 µs. -/
structure Power where
  wakes : List Wake := []
  lastStart : Tab Nat := []
  on : Tab Bool := []
  dead : Tab Bool := []
  queue : List (Nat × Bool) := []
  charges : List (Nat × Nat × Nat) := []
  steps : Tab Nat := []
  raiseDue : Tab Nat := []
  est : List Nat := []
  duty : Nat := 16
  lastDuty : Nat := 0
  calmFrom : Option Nat := none
  thermDuty : Nat := 16
  lastTherm : Nat := 0
  warnOn : Bool := false
  throtOn : Bool := false
  deriving DecidableEq, Repr

/-- A multi-function pin (R637 to R642): the function that drives it, the one it parks towards, when the park ends (none: it
awaits the end of a pulse), the last level of its input, and the tachometer's count, window and last edge. -/
structure Mfio where
  func : Nat := 0
  next : Option Nat := none
  parkEnd : Option Nat := none
  level : Bool := true
  tach : Nat := 0
  winFrom : Nat := 0
  lastEdge : Option Nat := none
  skipPulse : Bool := false
  deriving DecidableEq, Repr

/-- The PCIe port of a host (R601, R613): its link, and whether its configuration space is built. -/
structure PciePort where
  perst : Bool := true
  linkUp : Bool := false
  built : Bool := false
  deriving DecidableEq, Repr

/-- The pins: MFIO pins that differ from their reset, the straps as sampled, whether SYSREF is lost, and the JTAG controller. -/
structure Pins where
  mfio : Tab (Option Mfio) := []
  straps : Nat := 0
  sysrefLost : Bool := false
  jtag : Nat := 0
  deriving DecidableEq, Repr

/-- A freeze that is scheduled (R564, R565). -/
structure Gong where
  at_ : Nat
  origin : Nat
  seq : Nat
  late : Bool := false
  deriving DecidableEq, Repr

/-- A named-tensor dump that is armed (R567): its command, context, handle and step, and the invocation it awaits. -/
structure Arm where
  tkt : Nat
  ctx : Nat
  handle : Nat
  step : Nat
  cores : List (Nat × Nat × List Byte) := []   -- core, Beat of its end, the handle's rows
  level : Nat := 0
  image : List Byte := []
  faulted : Bool := false
  done : Bool := false
  beat : Nat := 0
  deriving DecidableEq, Repr

/-- A wait that reached its grant (Table 18.4). -/
structure SyncRec where
  kind : Nat
  obj : Nat
  waiter : Nat
  flags : Nat
  signaller : Nat
  n : Nat
  time : Nat
  wait : Nat
  layer : Nat
  operator : Nat
  ctx : Nat
  cluster : Nat
  seq : Nat
  deriving DecidableEq, Repr

/-- An entry of a cluster's tag table (R562): its key and its nine counts. -/
structure TagEnt where
  ctx : Nat
  layer : Nat
  operator : Nat
  counts : List Nat := []
  deriving DecidableEq, Repr

/-- A partition that a watchdog has frozen (R571): the trigger and what the dump will report. -/
structure Frozen where
  cause : Nat
  core : Nat
  ctx : Nat
  layer : Nat
  operator : Nat
  pc : Nat
  fire : Nat
  dumped : Bool := false
  deriving DecidableEq, Repr

/-- Observability (R563 to R572): the scheduled freeze, the pairs seen, the freezes latched, the freeze last latched, frozen tag
tables and stream counts, traces by cluster, tag tables, arms and frozen partitions. -/
structure Observe where
  gong : Option Gong := none
  seen : List (Nat × Nat) := []
  nextSeq : Nat := 0
  latched : Nat := 0
  lastT : Nat := 0
  lastOrigin : Nat := 0
  lastLate : Bool := false
  lastSeq : Nat := 0
  trace : Tab (List SyncRec) := []
  traceSeq : Tab Nat := []
  tags : Tab (List TagEnt) := []
  tagsOver : Tab (List Nat) := []
  frozenTags : Tab (List TagEnt) := []
  frozenOver : Tab (List Nat) := []
  frozenSat : Tab (List Nat) := []       -- 65536 × core + context: sat_count of its streams
  hasFrozen : Bool := false              -- a freeze has taken place
  arms : List Arm := []
  frozen : Tab (Option Frozen) := []
  evals : Tab (List Nat) := []           -- active times of the last 1,000 invocations, 4096 × cluster + context (R662)
  evalN : Tab Nat := []                  -- how many there were
  slow : Tab Bool := []                  -- flagged clusters
  deriving DecidableEq, Repr

end Sys2Proof.Machine
end

