-- ==== Sys2Proof/Machine/State.lean ====
section
/-! DEFINITION. The state of the block as plain data: the device and the queue of the commands that wait. -/

namespace Sys2Proof.Machine

/-- The device: every register, table, buffer, counter, mode and pin the spec gives it. `regs` is keyed by the register's
offset in PF BAR0 and lists only registers that differ from their reset value; `ctr` is keyed by counter, index and
sub-index; `hostMem` is the host memory the device reads and writes, keyed 2^64 × PCIe port + address. -/
structure Dev where
  time    : Time := {}
  regs    : Tab Nat := []
  ctr     : Tab Nat := []
  frozen  : Tab Nat := []
  hostMem : Tab Byte := []
  edge    : Edge := {}
  out     : List Out := []
  ctxs    : Tab Context := []            -- context number
  recPend : Tab (List Rec) := []         -- 32 × function + ring: records on their way
  comp    : Compute := {}
  store   : Store := {}
  ep      : Epochs := {}
  parts   : Tab Part := [(0, pfPart 0), (1, pfPart 1)] -- partition number; only the PFs' exist after reset (R475)
  partOp  : Option PartOp := none
  pairs   : Tab Pair := []               -- ring pair
  rrings  : Tab RRing := []              -- 32 × function + ring
  cmds    : Tab Cmd := []                -- ticket
  nextTkt : Nat := 1
  msixOn  : Tab Bool := []               -- 4096 × function + vector: unmasked
  msixPba : Tab Bool := []               -- 4096 × function + vector: pending
  errUp   : Tab Bool := []               -- 2 × function + kind: err_vec raised and not re-armed (R462)
  tabVers : Tab TabVer := []             -- (256 × partition + slot) × 4 + tag
  maint   : List MaintReq := []          -- in order of arrival
  keyed   : List KeyedEntry := []
  txBk    : Tab Bucket := []             -- 4 × partition + edge die: transmit bucket (R486)
  numVfs  : Tab Nat := []                -- PCIe port: VFs that exist (R476)
  pcie    : Tab PciePort := []           -- PCIe port
  fab     : Fabric := {}
  isl     : Island := {}
  otp     : Otp := {}
  boot    : Boot := {}
  pwr     : Power := {}
  pins    : Pins := {}
  obs     : Observe := {}
  bridges : Tab Nat := []                -- bridge: replays in a row of one flit (R27, R28)
  free    : Nat := 0
  deriving DecidableEq, Repr

/-- The state: the device, and the commands that wait, first in first out. -/
structure State where
  dev     : Dev := {}
  pending : List Instr := []
  deriving DecidableEq, Repr

/-- Why the machine stops. -/
inductive Fault where
  /-- Raised by every meaning for a command that is not well-formed: it names a unit, register or index the part does not
  have. Safe: the model stops where the part has nothing to act on. -/
  | illFormed
  deriving DecidableEq, Repr

/-- Why a command has no meaning in the model. -/
inductive Refusal where
  /-- A command whose meaning is not written; raised by Dispatch alone. Safe. -/
  | notModelled (mnemonic : String)
  deriving DecidableEq, Repr

/-- The block right after cold reset: every field at the value the spec gives, the queue empty. -/
def State.reset : State := {}

end Sys2Proof.Machine
end

