-- ==== Sys2Proof/WellFormed.lean ====
section
/-! DEFINITION. Well-formed commands: every unit, register and index an operand names exists in the part, and every
operand field holds a value that the field can hold. -/

namespace Sys2Proof

/-- Whether each number lies below its bound. -/
def within (l : List (Nat × Nat)) : Bool := l.all (fun p => decide (p.1 < p.2))

/-- A scratchpad operand: one of 64 handles and a byte of a 512-byte row (R231). -/
def refWf (r : Ref) : Bool := decide (r.h < 64 ∧ r.off < 512)

/-- A token operand names one of 32 tokens (R187). -/
def tokWf (t : Option Nat) : Bool := t.all (· < 32)

/-- The scratchpad operands of an MM or MM.G4. -/
def mmWf (x : MmOp) : Bool := within [(x.arr, 8), (x.wFmt, 16), (x.aFmt, 16)] && refWf x.a && (x.w ++ x.zw ++ x.ps).all refWf && tokWf x.tok

/-- The operands of an AS or ASLD. -/
def asWf (x : AsOp) : Bool :=
  within [(x.arr, 8), (x.wFmt, 16), (x.aFmt, 16)] && refWf x.act && refWf x.w && x.zw.all refWf && x.ps.all refWf && tokWf x.tok

/-- The operands of an OP. -/
def opWf (x : OpOp) : Bool :=
  within [(x.arr, 8), (x.wFmt, 16), (x.aFmt, 16)] && refWf x.x && refWf x.g && x.zw.all refWf && tokWf x.tok

/-- The requantiser's operands. -/
def rqWf (x : RqOp) : Bool :=
  within [(x.dstFmt, 16), (x.mult, 65536), (x.s0, 48), (x.srStream, 256)] && x.eA.all refWf && x.eW.all refWf
    && (match x.dst with | .fixed e => decide (-64 ≤ e ∧ e ≤ 63) | .tensor r => refWf r | .track k r => decide (k < 16) && refWf r)

/-- The operands of an ACC.OUT. -/
def accWf (x : AccOut) : Bool :=
  within [(x.arr, 8)] && refWf x.dst && x.vreg.all (· < 32) && x.rq.all rqWf && tokWf x.tok

/-- The operands of a VCVT or VRQ. -/
def cvtWf (x : CvtOp) : Bool := within [(x.srcFmt, 16)] && refWf x.src && refWf x.dst && rqWf x.rq && tokWf x.tok

/-- The operands of a DMA transfer: memory 0 the die pool, 1 HBM, 2 the host. -/
def dmaWf (x : DmaOp) : Bool := within [(x.space, 3)] && refWf x.sh && refWf x.loc && x.scale.all (fun p => refWf p.2) && tokWf x.tok

/-- The operands of a GATHER. -/
def gatherWf (x : GatherOp) : Bool :=
  within [(x.slot, 256), (x.dflt, 0x100000000)] && refWf x.keys && refWf x.dst && x.keyed.all (· < 256) && tokWf x.tok

/-- Whether every operand of a command lies in the range the part gives it. -/
def wellFormed : Instr → Bool
  | .frameReceive bp _ _ => within [(bp, 128)]
  | .frameBytesArrive bp _ => within [(bp, 128)]
  | .frameEnd bp _ _ _ _ => within [(bp, 128)]
  | .macControlFrameReceive bp _ => within [(bp, 128)]
  | .pauseExpire bp queue => within [(bp, 128), (queue, 16)]
  | .parserDispatch pa => within [(pa, 1280)]
  | .claveLdb pa gd off => within [(pa, 1280), (gd, 16), (off, 512)]
  | .claveLdh pa gd off => within [(pa, 1280), (gd, 16), (off, 512)]
  | .claveLdw pa gd off => within [(pa, 1280), (gd, 16), (off, 512)]
  | .claveLdbf pa gd off pos len => within [(pa, 1280), (gd, 16), (off, 512)] && decide (1 ≤ len ∧ pos + len ≤ 32)
  | .claveAdv pa imm => within [(pa, 1280), (imm, 512)]
  | .claveAdvr pa gs sh => within [(pa, 1280), (gs, 16), (sh, 4)]
  | .claveSetc pa gs => within [(pa, 1280), (gs, 16)]
  | .claveGetc pa gd => within [(pa, 1280), (gd, 16)]
  | .claveMovi pa gd _ => within [(pa, 1280), (gd, 16)]
  | .claveMovhi pa gd _ => within [(pa, 1280), (gd, 16)]
  | .claveMov pa gd gs => within [(pa, 1280), (gd, 16), (gs, 16)]
  | .claveAdd pa gd ga gb => within [(pa, 1280), (gd, 16), (ga, 16), (gb, 16)]
  | .claveSub pa gd ga gb => within [(pa, 1280), (gd, 16), (ga, 16), (gb, 16)]
  | .claveAddi pa gd gs _ => within [(pa, 1280), (gd, 16), (gs, 16)]
  | .claveAnd pa gd ga gb => within [(pa, 1280), (gd, 16), (ga, 16), (gb, 16)]
  | .claveOr pa gd ga gb => within [(pa, 1280), (gd, 16), (ga, 16), (gb, 16)]
  | .claveXor pa gd ga gb => within [(pa, 1280), (gd, 16), (ga, 16), (gb, 16)]
  | .claveAndi pa gd gs _ => within [(pa, 1280), (gd, 16), (gs, 16)]
  | .claveOri pa gd gs _ => within [(pa, 1280), (gd, 16), (gs, 16)]
  | .claveShl pa gd gs imm5 => within [(pa, 1280), (gd, 16), (gs, 16), (imm5, 32)]
  | .claveShr pa gd gs imm5 => within [(pa, 1280), (gd, 16), (gs, 16), (imm5, 32)]
  | .claveBeq pa gs _ target => within [(pa, 1280), (gs, 16), (target, 16384)]
  | .claveBne pa gs _ target => within [(pa, 1280), (gs, 16), (target, 16384)]
  | .claveBlt pa gs _ target => within [(pa, 1280), (gs, 16), (target, 16384)]
  | .claveBge pa gs _ target => within [(pa, 1280), (gs, 16), (target, 16384)]
  | .claveBeqr pa ga gb target => within [(pa, 1280), (ga, 16), (gb, 16), (target, 16384)]
  | .claveBner pa ga gb target => within [(pa, 1280), (ga, 16), (gb, 16), (target, 16384)]
  | .claveJmp pa target => within [(pa, 1280), (target, 16384)]
  | .claveSwitch pa gs targets => within [(pa, 1280), (gs, 16)] && targets.length == 16 && targets.all (fun t => decide (t < 16384))
  | .claveCall pa target => within [(pa, 1280), (target, 16384)]
  | .claveRet pa => within [(pa, 1280)]
  | .claveHdr pa type => within [(pa, 1280), (type, 64)]
  | .claveKeyb pa gs bits => within [(pa, 1280), (gs, 16)] && decide (1 ≤ bits ∧ bits ≤ 32)
  | .claveKeyf pa off len => within [(pa, 1280), (off, 512)] && decide (1 ≤ len ∧ len ≤ 16)
  | .claveFld pa fn gs => within [(pa, 1280), (fn, 64), (gs, 16)]
  | .claveFldp pa fn off len => within [(pa, 1280), (fn, 64), (off, 512)] && decide (1 ≤ len ∧ len ≤ 4)
  | .claveCrc pa gd off len => within [(pa, 1280), (gd, 16), (off, 512)] && decide (1 ≤ len ∧ len ≤ 64)
  | .claveCsum pa gd off len => within [(pa, 1280), (gd, 16), (off, 512)] && decide (2 ≤ len ∧ len ≤ 64 ∧ len % 2 = 0)
  | .claveTbl pa gd gs t => within [(pa, 1280), (gd, 16), (gs, 16), (t, 16)]
  | .claveEnc pa fn gs e => within [(pa, 1280), (fn, 64), (gs, 16), (e, 256)]
  | .claveMeta pa gd sel => within [(pa, 1280), (gd, 16), (sel, 5)]
  | .claveSetm pa sel gs => within [(pa, 1280), (sel, 2), (gs, 16)]
  | .claveDone pa => within [(pa, 1280)]
  | .claveFail pa code => within [(pa, 1280), (code, 0x80)] && decide (0x40 ≤ code)
  | .claveSlow pa code => within [(pa, 1280), (code, 0x100)] && decide (0x80 ≤ code)
  | .claveNop pa => within [(pa, 1280)]
  | .parseBudget pa => within [(pa, 1280)]
  | .matchRelease bp => within [(bp, 128)]
  | .pfcRefresh bp prio => within [(bp, 128), (prio, 9)]
  | .flowMissAnswer die => within [(die, 4)]
  | .flowLookupOrInsert die => within [(die, 4)]
  | .flowWriteback die => within [(die, 4)]
  | .flowCacheFlush die => within [(die, 4)]
  | .flowAgingScan die => within [(die, 4)]
  | .flowAgingCandidate die => within [(die, 4)]
  | .flowAgingConfirm die => within [(die, 4)]
  | .stashReinsert die => within [(die, 4)]
  | .ruleSweepDone die => within [(die, 4)]
  | .deepRequestIssue die => within [(die, 4)]
  | .deepDeadline die req => within [(die, 4), (req, 0x10000)]
  | .inferenceResult die req status verdict score _ =>
    within [(die, 4), (req, 65536), (status, 65536), (verdict, 65536), (score, 65536)]
  | .inferenceRequest die req => within [(die, 4), (req, 65536)]
  | .txSelect bp => within [(bp, 128)]
  | .txDone bp => within [(bp, 128)]
  | .gateEdge bp => within [(bp, 128)]
  | .gateListSwap bp => within [(bp, 128)]
  | .gateSwapArm bp val => within [(bp, 128), (val, 0x100000000)]
  | .samplePeriodEnd bp => within [(bp, 128)]
  | .bufferCfgWrite addr val => within [(addr, 0x2000000), (val, 0x100000000)] && decide (0x1000000 ≤ addr ∧ addr % 4 = 0)
  | .interDieFrameArrive src dst => within [(src, 4), (dst, 4)]
  | .portCfgWrite p val => within [(p, 32), (val, 0x100000000)]
  | .portForceRecal p => within [(p, 32)]
  | .portMacWrite p sem val _ => within [(p, 32), (sem, 4), (val, 0x100000000)]
  | .ruleSeedWrite die val => within [(die, 4), (val, 0x100000000)]
  | .flowSeedWrite die val => within [(die, 4), (val, 0x100000000)]
  | .laneLockLoss p lane => within [(p, 32), (lane, 4)]
  | .calibrationDone p => within [(p, 32)]
  | .linkUp bp => within [(bp, 128)]
  | .txHoldIdlesDone bp => within [(bp, 128)]
  | .txHoldTimeout bp => within [(bp, 128)]
  | .linkDown bp => within [(bp, 128)]
  | .egressDiscardDone bp => within [(bp, 128)]
  | .txRefLost die ref => within [(die, 4), (ref, 2)]
  | .txRefReturn die ref => within [(die, 4), (ref, 2)]
  | .invocationLaunch cluster mask ctx tag _ _ _ => within [(cluster, 96), (mask, 256), (ctx, 4096), (tag, 3)] && decide (1 ≤ mask)
  | .engineStart core e => within [(core, 768), (e, 12)]
  | .engineComplete core e => within [(core, 768), (e, 12)]
  | .scalarAdd core rd ra rb => within [(core, 768), (rd, 32), (ra, 32), (rb, 32)]
  | .scalarSub core rd ra rb => within [(core, 768), (rd, 32), (ra, 32), (rb, 32)]
  | .scalarAnd core rd ra rb => within [(core, 768), (rd, 32), (ra, 32), (rb, 32)]
  | .scalarOr core rd ra rb => within [(core, 768), (rd, 32), (ra, 32), (rb, 32)]
  | .scalarXor core rd ra rb => within [(core, 768), (rd, 32), (ra, 32), (rb, 32)]
  | .scalarShl core rd ra rb => within [(core, 768), (rd, 32), (ra, 32), (rb, 32)]
  | .scalarShr core rd ra rb => within [(core, 768), (rd, 32), (ra, 32), (rb, 32)]
  | .sar core rd ra rb => within [(core, 768), (rd, 32), (ra, 32), (rb, 32)]
  | .cmp core ra rb => within [(core, 768), (ra, 32), (rb, 32)]
  | .li core rd _ => within [(core, 768), (rd, 32)]
  | .mul core rd ra rb => within [(core, 768), (rd, 32), (ra, 32), (rb, 32)]
  | .br core _ _ => within [(core, 768)]
  | .scalarJmp core _ => within [(core, 768)]
  | .scalarCall core _ => within [(core, 768)]
  | .scalarRet core => within [(core, 768)]
  | .loop core _ _ => within [(core, 768)]
  | .halt core => within [(core, 768)]
  | .mm core x hw => within [(core, 768), (hw, 5)] && mmWf x
  | .mmG4 core x hw => within [(core, 768), (hw, 5)] && mmWf x
  | .as core x => within [(core, 768)] && asWf x
  | .asld core x => within [(core, 768)] && asWf x
  | .op core x => within [(core, 768)] && opWf x
  | .accOut core x => within [(core, 768)] && accWf x
  | .accClr core arr _ _ tok => within [(core, 768), (arr, 8)] && tokWf tok
  | .vld core vd src hw tok => within [(core, 768), (vd, 32), (hw, 5)] && refWf src && tokWf tok
  | .vst core vs dst tok => within [(core, 768), (vs, 32)] && refWf dst && tokWf tok
  | .vectorElementwise core _ fmt vd va vb vc tok =>
    within [(core, 768), (fmt, 16), (vd, 32), (va, 32), (vb, 32), (vc, 32)] && tokWf tok
  | .vred core kind fmt vd va tok => within [(core, 768), (kind, 4), (fmt, 16), (vd, 32), (va, 32)] && tokWf tok
  | .vcvt core x => within [(core, 768)] && cvtWf x
  | .vrq core x => within [(core, 768)] && cvtWf x
  | .vlut core vd va tab tok => within [(core, 768), (vd, 32), (va, 32)] && refWf tab && tokWf tok
  | .vectorPermute core kind w vd va vb n tok =>
    within [(core, 768), (kind, 3), (vd, 32), (va, 32), (vb, 32), (n, 128 / w)] && (w == 1 || w == 2 || w == 4) && tokWf tok
  | .pealLoad core store src _ _ tok => within [(core, 768), (store, 3)] && refWf src && tokWf tok
  | .pealEval core x hw => within [(core, 768), (hw, 5)] && refWf x.vec && refWf x.res && tokWf x.tok
  | .dmaIn core x => within [(core, 768)] && dmaWf x
  | .dmaOut core x => within [(core, 768)] && dmaWf x
  | .dmaComplete core => within [(core, 768)]
  | .gather core x => within [(core, 768)] && gatherWf x
  | .gatherComplete core => within [(core, 768)]
  | .winRd core pkg target win _ _ dst tok => within [(core, 768), (pkg, 8), (target, 768), (win, 8)] && refWf dst && tokWf tok
  | .winWr core pkg target win _ _ src tok => within [(core, 768), (pkg, 8), (target, 768), (win, 8)] && refWf src && tokWf tok
  | .sld core rd src width hw tok =>
    within [(core, 768), (rd, 32), (hw, 5)] && refWf src && (width == 1 || width == 2 || width == 4 || width == 8) && tokWf tok
  | .sst core rs dst width tok =>
    within [(core, 768), (rs, 32)] && refWf dst && (width == 1 || width == 2 || width == 4 || width == 8) && tokWf tok
  | .fill core dst _ _ tok => within [(core, 768)] && refWf dst && tokWf tok
  | .copy core src dst arr _ tok => within [(core, 768), (arr, 8)] && refWf src && refWf dst && tokWf tok
  | .tcopy core src dst _ tok => within [(core, 768)] && refWf src && refWf dst && tokWf tok
  | .sread core src dst _ _ _ _ tok => within [(core, 768)] && refWf src && refWf dst && tokWf tok
  | .tokWait core k n => within [(core, 768), (k, 32), (n, 256)]
  | .bar core b => within [(core, 768), (b, 4)]
  | .sig core sem n => within [(core, 768), (sem, 16), (n, 256)] && decide (1 ≤ n)
  | .sigR core cluster sem n => within [(core, 768), (cluster, 96), (sem, 16), (n, 256)] && decide (1 ≤ n)
  | .swait core sem n => within [(core, 768), (sem, 16), (n, 65536)]
  | .mark core layer operator => within [(core, 768), (layer, 0x10000), (operator, 0x10000)]
  | .remoteSignalArrive cluster => within [(cluster, 96)]
  | .barrierControllerArrive cluster b => within [(cluster, 96), (b, 4)]
  | .barrierMaskWrite cluster b mask => within [(cluster, 96), (b, 4), (mask, 512)]
  | .icacheLineFill core => within [(core, 768)]
  | .windowOpen q _ => within [(q, 8192)]
  | .windowClose q _ => within [(q, 8192)]
  | .windowCloseDrained q _ => within [(q, 8192)]
  | .windowAccessArrive core hw => within [(core, 768), (hw, 5)]
  | .winRdReply core => within [(core, 768)]
  | .winWrAck core => within [(core, 768)]
  | .winFaultNotice core => within [(core, 768)]
  | .clusterZeroDone cluster => within [(cluster, 96)]
  | .residentReload cluster ctx tag _ => within [(cluster, 96), (ctx, 4096), (tag, 3)]
  | .pealPatrol core _ err => within [(core, 768), (err, 3)]
  | .pealScrubReload core ctx tag _ _ _ _ => within [(core, 768), (ctx, 4096), (tag, 3)]
  | .sqDoorbell q _ => within [(q, 8192)]
  | .cqDoorbell q _ => within [(q, 8192)]
  | .rqDoorbell fn r _ => within [(fn, 128), (r, 19)]
  | .sqFetch q => within [(q, 8192)]
  | .fence q _ => within [(q, 8192)]
  | .run q _ => within [(q, 8192)]
  | .runTrees q _ => within [(q, 8192)]
  | .txFrame q _ => within [(q, 8192)]
  | .txFrameEnqueue q _ => within [(q, 8192)]
  | .remoteCopy q _ => within [(q, 8192)]
  | .commandDeadline q _ => within [(q, 8192)]
  | .recordDeliver fn r => within [(fn, 128), (r, 19)]
  | .irqDelayExpire fn ring => within [(fn, 128), (ring, 83)]
  | .msixUnmask fn vec => within [(fn, 128), (vec, 2048)]
  | .ringEnable fn ring val => within [(fn, 128), (ring, 83), (val, 0x100000000)]
  | .ringDisable fn ring val => within [(fn, 128), (ring, 83), (val, 0x100000000)]
  | .accessFault fn bar _ len => within [(fn, 128), (bar, 2), (len, 4097)]
  | .pcieCompletionTimeout fn read => within [(fn, 128), (read, 65)]
  | .hbmAccess owner _ kind _ err => within [(owner, 65), (kind, 2), (err, 5)]
  | .stackTempReport stack temp => within [(stack, 12), (temp, 256)]
  | .coalescerServe die stack pch bank => within [(die, 4), (stack, 3), (pch, 64), (bank, 16)]
  | .coalescerMaxWait die stack pch bank => within [(die, 4), (stack, 3), (pch, 64), (bank, 16)]
  | .sramPatrol die region _ err => within [(die, 4), (region, 4), (err, 3)]
  | .hbmScrub die _ err => within [(die, 4), (err, 5)]
  | .rowmodeWrite r val => within [(r, 48), (val, 0x100000000)]
  | .frameZeroDone die => within [(die, 4)]
  | .directoryRequest die line l2 kind _ => within [(die, 16), (line, 32768), (l2, 8), (kind, 2)]
  | .directoryWriteback die line l2 => within [(die, 16), (line, 32768), (l2, 8)]
  | .snoopResponse die line l2 => within [(die, 16), (line, 32768), (l2, 8)]
  | .ruleWrite q _ => within [(q, 8192)]
  | .ruleDelete q _ => within [(q, 8192)]
  | .flipEpoch q _ => within [(q, 8192)]
  | .epochHoldEnd => true
  | .epochHoldTimeout => true
  | .epochSwitch die => within [(die, 4)]
  | .epochSwitchAck => true
  | .retireWait q _ => within [(q, 8192)]
  | .retireWaitTimeout q _ => within [(q, 8192)]
  | .retireForce q _ => within [(q, 8192)]
  | .retireAbandon q _ => within [(q, 8192)]
  | .epochRetire => true
  | .stagingOpen => true
  | .loadTable q _ _ => within [(q, 8192)]
  | .loadImage q _ _ => within [(q, 8192)]
  | .bulkCommit q _ => within [(q, 8192)]
  | .contextCreate q _ => within [(q, 8192)]
  | .contextDestroy q _ => within [(q, 8192)]
  | .partCreate port part => within [(port, 2), (part, 64)]
  | .partResize port part => within [(port, 2), (part, 64)]
  | .partDestroy port part => within [(port, 2), (part, 64)]
  | .partDescFetchDone _ _ => true
  | .fnReset fn => within [(fn, 128)]
  | .flr fn => within [(fn, 128)]
  | .vfRemoval port n => within [(port, 2), (n, 64)]
  | .vfEnable port n => within [(port, 2), (n, 64)]
  | .partitionReset part => within [(part, 64)]
  | .partitionResetDone part => within [(part, 64)]
  | .clusterReset cluster => within [(cluster, 96)]
  | .jodonEnableWrite link _ _ => within [(link, 20)]
  | .jodonRetrain link => within [(link, 20)]
  | .jodonForceRecal link => within [(link, 20)]
  | .jodonTrainingPhaseEnd link _ _ => within [(link, 20)]
  | .jodonIdent link pkg plink tag _ => within [(link, 20), (pkg, 8), (plink, 20), (tag, 0x1000000)]
  | .jodonRetryTimer link => within [(link, 20)]
  | .jodonBlockReceive link fec bytes => within [(link, 20), (fec, 3)] && bytes.length == 5140
  | .jodonLinkFail link => within [(link, 20)]
  | .jodonWrite link => within [(link, 20)]
  | .jodonWriteAck link => within [(link, 20)]
  | .jodonFaultNotice link => within [(link, 20)]
  | .jodonReadReq link _ => within [(link, 20)]
  | .jodonReadData link => within [(link, 20)]
  | .jodonReadErr link => within [(link, 20)]
  | .jodonTimeout tag => within [(tag, 0x100000000)]
  | .jodonPinHoldExpire link => within [(link, 20)]
  | .beatSyncSend link => within [(link, 20)]
  | .beatSync link => within [(link, 20)]
  | .beatAlone => true
  | .beatRead => true
  | .todRead => true
  | .ppsInEdge => true
  | .ppsInLost => true
  | .ref10mLost => true
  | .ref10mValid => true
  | .swRefTimeout => true
  | .todAdj _ => true
  | .todSetGo val => within [(val, 0x100000000)]
  | .todStepApply => true
  | .todSlewDone => true
  | .ppsOutEdge => true
  | .ppsOutPulseEnd => true
  | .mfioCfgWrite n val _ => within [(n, 32), (val, 0x100000000)]
  | .mfioParkEnd n => within [(n, 32)]
  | .tachWindow n => within [(n, 32)]
  | .fanTachEdge n => within [(n, 32)]
  | .strapCheck straps => within [(straps, 64)]
  | .controlCoreTimeout cls i => within [(cls, 4), (i, Machine.lget 0 [96, 16, 8, 16] cls)]
  | .controlCoreTrap cls i => within [(cls, 4), (i, Machine.lget 0 [96, 16, 8, 16] cls)]
  | .islandLockstep => true
  | .controlCoreFrame cls bp q bytes => within [(cls, 4), (bp, 128), (q, 8)] && decide (60 ≤ bytes.length ∧ bytes.length ≤ 9596)
  | .sensorSample temps _ => temps.length == 112
  | .vrmTelemetry w => within [(w, 65536)]
  | .eventLogPersist => true
  | .troublePersist => true
  | .alertAck m => within [(m, 16)]
  | .requestUpdate m => within [(m, 16)]
  | .firmwareData m off _ => within [(m, 16), (off, 0x100000000)]
  | .verifyComplete m => within [(m, 16)]
  | .activateFirmware m => within [(m, 16)]
  | .cancelUpdate m => within [(m, 16)]
  | .rollbackCommit m _ => within [(m, 16)]
  | .troubleClear m _ mask => within [(m, 16), (mask, 0x100000000)]
  | .statusMsg m => within [(m, 16)]
  | .logRead m first n => within [(m, 16), (first, 0x100000000), (n, 0x10000)]
  | .troubleRead m => within [(m, 16)]
  | .maint m _ act obj pch bank row => within [(m, 16), (act, 0x10000), (obj, 0x10000), (pch, 256), (bank, 256), (row, 0x10000)]
  | .mctpControl m cmd arg => within [(m, 16), (cmd, 256), (arg, 256)]
  | .pldmMonitoring m kind arg => within [(m, 16), (kind, 4), (arg, 0x10000)]
  | .spdmMessage m kind _ _ => within [(m, 16), (kind, 3)]
  | .maintGrant => true
  | .maintWaitExpire => true
  | .maintActivityDone act obj outcome => within [(act, 0x103), (obj, 0x10000), (outcome, 3)]
  | .clusterIdleEntry cl => within [(cl, 96)]
  | .clusterRetainEntry cl => within [(cl, 96)]
  | .clusterOffEntry cl => within [(cl, 96)]
  | .thawWakeRequest dom => within [(dom, 147)]
  | .wakeStart dom => within [(dom, 147)]
  | .wakeDone dom => within [(dom, 147)]
  | .domainFailed dom => within [(dom, 147)]
  | .idleExit cl => within [(cl, 96)]
  | .clockStepWrite cl val => within [(cl, 96), (val, 0x100000000)]
  | .clockRaise cl => within [(cl, 96)]
  | .powerEstimateUpdate w => within [(w, 65536)]
  | .powerCap => true
  | .powerLimitWrite val _ => within [(val, 0x100000000)]
  | .thermalTrip sensor => within [(sensor, 112)]
  | .queueReset kind unit _ pairs rings =>
    within [(kind, 10), (unit, Machine.lget 0 [768, 96, 2, 16, 4, 12, 2048, 16, 64, 20] kind)] && pairs.all (fun q => decide (q < 8192)) && rings.all (fun r => decide (r < 4096))
  | .coldReset straps temps => within [(straps, 64)] && temps.length == 112
  | .sysRstNAssert => true
  | .sysRstNRelease => true
  | .resetHeld => true
  | .portReset port _ => within [(port, 2)]
  | .perstDeassert port => within [(port, 2)]
  | .pcieConfigReady port => within [(port, 2)]
  | .trstN => true
  | .jtagInstruction k => within [(k, 8)]
  | .thermalHoldCheck temps => temps.length == 112
  | .railPowerGood => true
  | .railFailed => true
  | .bootStepDone bad _ => within [(bad, 0x1000)]
  | .mailboxGo port => within [(port, 2)]
  | .cfgWrite _ => true
  | .lcOwn => true
  | .lcReturn => true
  | .lcVoid => true
  | .debugToken => true
  | .nonceDraw => true
  | .controlCoreRestarted cls i => decide (cls = 1 ∧ i < 16 ∨ cls = 2 ∧ i < 8)
  | .islandRestarted => true
  | .pcieLinkUp port => within [(port, 2)]
  | .maintRequest q _ => within [(q, 8192)]
  | .bridgeReplay a b _ => decide (a < 25 ∧ b < 25 ∧ ((a / 5 = b / 5 ∧ (a + 1 = b ∨ b + 1 = a)) ∨ a + 5 = b ∨ b + 5 = a))
  | .bridgeFailed a b _ => decide (a < 25 ∧ b < 25 ∧ ((a / 5 = b / 5 ∧ (a + 1 = b ∨ b + 1 = a)) ∨ a + 5 = b ∨ b + 5 = a))
  | .railFault rail => within [(rail, 12)]
  | .vddAonLoss => true
  | .sysrefLost => true
  | .smbusSclLowTimeout => true
  | .stragglerEval cl ctx => within [(cl, 96), (ctx, 4096)]
  | .decodeStep q _ => within [(q, 8192)]
  | .attnQuery die src layer qs kv _ =>
    within [(die, 4), (layer, 128)] && (match src with | .step _ b => decide (b < 16) | .shard p x => within [(p, 64), (x, 2 ^ 40)]) && (qs ++ kv).all (·.all (fun c => decide (c < 2 ^ 32)))
  | .attnPartialArrive _ b layer kind shard ps =>
    within [(b, 16), (layer, 128), (kind, 5), (shard, 8)] && ps.all (fun p => within [(p.1, 2 ^ 32), (p.2.1, 2 ^ 32)] && p.2.2.1.all (fun c => decide (c < 2 ^ 32)))
  | .attnCfgWrite die val => within [(die, 4), (val, 2 ^ 32)]
  | .trainStep q _ _ init =>
    within [(q, 8192)] && init.all (·.all (fun r => (match r.1 with | some e => decide (-64 ≤ e ∧ e ≤ 63) | none => true) && r.2.all (fun c => decide (c < 65536))))
  | .trainCommit q _ grads _ =>
    within [(q, 8192)] && grads.all (·.all (fun r => decide (-64 ≤ r.1 ∧ r.1 ≤ 63) && r.2.all (fun c => decide (c < 256))))
  | .countersRead q _ => within [(q, 8192)]
  | .gong q _ => within [(q, 8192)]
  | .tensorDumpArm q _ => within [(q, 8192)]
  | .registerWrite fn off val _ => within [(fn, 128), (off, if fn % 64 = 0 then 2 ^ 26 else 4096), (val, 2 ^ 32)] && off % 4 == 0
  | .jodonGong link => within [(link, 20)]
  | .gongLatch => true
  | .tensorDumpWrite _ => true
  | .watchdogFire core => within [(core, 768)]
  | .rimeDumpDone p => within [(p, 64)]

end Sys2Proof
end

