-- ==== Sys2Proof/Machine/Ops.lean ====
section
/-! DEFINITION. The named operations over the state that every family shares: running a command's effect, registers,
counters, outputs, host memory and token buckets. -/

namespace Sys2Proof.Machine

/-- The outcome of a command whose operands are in range exactly where `ok` holds: its effect on the device, the queue left as it
is; a command that is not well-formed faults. -/
def runIf (ok : Bool) (f : Dev → Dev) (s : State) : Host.Outcome State Fault Refusal :=
  if ok then .next { s with dev := f s.dev } else .fault .illFormed

/-- The outcome of a command. -/
def run (i : Instr) (f : Dev → Dev) (s : State) : Host.Outcome State Fault Refusal := runIf (wellFormed i) f s

/-- The value of the register at offset `a`. -/
def regVal (d : Dev) (a : Nat) : Nat := tget (regResetOf a) d.regs a

/-- Bits `[lo + w - 1 : lo]` of the register at `a`. -/
def regFld (d : Dev) (a lo w : Nat) : Nat := bitsOf (regVal d a) lo w

/-- The device with the register at `a` holding `v`. -/
def setReg (a v : Nat) (d : Dev) : Dev := { d with regs := tput (regResetOf a) d.regs a v }

/-- The device with a field of the register at `a` holding `x`. -/
def setFld (a lo w x : Nat) (d : Dev) : Dev := setReg a (setBits (regVal d a) lo w x) d

/-- What a plain write of `v` leaves in a register (R16): RW bits take the value, RW1C bits clear and RW1S bits set where a one
is written. -/
def plainWrite (sp : RegSpec) (old v : Nat) : Nat :=
  ((old &&& (m32 - sp.rw - sp.w1c)) ||| (v &&& sp.w1s)) + (v &&& sp.rw) + (old &&& sp.w1c &&& (m32 - v % 2 ^ 32))

/-- A counter's value. -/
def ctrVal (d : Dev) (c : Ctr) (i j : Nat) : Nat := tget 0 d.ctr (ctrKey c i j)

/-- The device with counter `c` of `i`, `j` raised by `n`. -/
def bumpN (c : Ctr) (i j n : Nat) (d : Dev) : Dev := { d with ctr := tmod 0 d.ctr (ctrKey c i j) (· + n) }

/-- The device with counter `c` of `i`, `j` raised by one. -/
def bump (c : Ctr) (i j : Nat) (d : Dev) : Dev := bumpN c i j 1 d

/-- The counters in `cs` whose first index passes `p` are cleared. -/
def clearCtrs (cs : List Ctr) (p : Nat → Bool) (t : Tab Nat) : Tab Nat :=
  t.filter (fun e => !((cs.map Ctr.code).contains (e.1 / 2 ^ 48) && p (e.1 / 2 ^ 24 % 2 ^ 24)))

/-- The device with `o` sent out. -/
def emit (o : Out) (d : Dev) : Dev := { d with out := d.out ++ [o] }

/-- The device with its edge part changed. -/
def onEdge (f : Edge → Edge) (d : Dev) : Dev := { d with edge := f d.edge }

/-- The Beat now (R34). -/
def beat (d : Dev) : Nat := d.time.beat

/-- A fresh free value for a purpose; the counter advances by `freshStep`. -/
def fresh (d : Dev) (purpose arg : Nat) : Nat := Config.freeValue d.free purpose arg

/-- The device after a fresh value was drawn. -/
def freshStep (d : Dev) : Dev := { d with free := d.free + 1 }

/-- The key of a host address: the PCIe port and the 64-bit address. -/
def hostKey (port a : Nat) : Nat := port * 2 ^ 64 + a % 2 ^ 64

/-- `n` bytes of host memory behind a PCIe port from address `a`. -/
def hostRead (d : Dev) (port a n : Nat) : List Byte := tbytes d.hostMem (hostKey port a) n

/-- A function's read of `n` bytes of host memory is counted (R554). -/
def pcieRead (fn n : Nat) (d : Dev) : Dev := bumpN .fnPcieRd fn 0 n (bumpN .pcieRdBytes (fn / 64) 0 n d)

/-- The device with `bs` written by function `fn` to host memory from address `a`, and counted (R554). -/
def hostWrite (fn a : Nat) (bs : List Byte) (d : Dev) : Dev :=
  bumpN .fnPcieWr fn 0 bs.length (bumpN .pcieWrBytes (fn / 64) 0 bs.length
    { d with hostMem := tputBytes d.hostMem (hostKey (fn / 64) a) bs })

/-- Apply `f` for every element in turn. -/
def forEach {α : Type} (l : List α) (f : α → Dev → Dev) (d : Dev) : Dev := l.foldl (fun d x => f x d) d

/-- Apply `f` when `b` holds. -/
def when (b : Bool) (f : Dev → Dev) (d : Dev) : Dev := if b then f d else d

/-- The level of a bucket of depth `cap` refilled at `rate` scaled tokens per ns, at Beat `now`. -/
def bkLevel (cap rate : Int) (now : Nat) (b : Bucket) : Int :=
  match b.lvl with
  | none => cap
  | some x => min cap (x + rate * ((now - b.last : Nat) : Int))

/-- The bucket after `n` scaled tokens were taken at Beat `now`. -/
def bkTake (cap rate : Int) (now : Nat) (n : Int) (b : Bucket) : Bucket :=
  { lvl := some (bkLevel cap rate now b - n), last := now }

/-- The function a partition is bound to (R476). -/
def partFn (d : Dev) (p : Nat) : Option Nat := if (tget {} d.parts p).exist then some (tget {} d.parts p).fn else none

/-- The device with a record queued for record ring `r` of function `fn` (R458). -/
def postRec (fn r : Nat) (x : Rec) (d : Dev) : Dev := { d with recPend := tmod [] d.recPend (32 * fn + r) (· ++ [x]) }

/-- Post an event to a function's event queue (R459, R460). -/
def postEvent (fn code : Nat) (payload : List Byte) (d : Dev) : Dev := postRec fn 16 (.event code (beat d) payload) d

/-- A partition. -/
def partOf (d : Dev) (p : Nat) : Part := tget {} d.parts p

/-- The partition that owns a cluster. -/
def clusterOwner (d : Dev) (cl : Nat) : Option Nat := tfind (fun _ x => x.exist && bitOf x.clusters cl) d.parts

/-- Whether a watchdog has frozen a partition (R571). -/
def frozenPart (d : Dev) (p : Nat) : Bool := (tget none d.obs.frozen p).isSome

/-- Whether a cluster's partition is frozen. -/
def frozenCluster (d : Dev) (cl : Nat) : Bool := match clusterOwner d cl with | some p => frozenPart d p | none => false

/-- The number and tag of the CURRENT epoch (R398, R399). -/
def curEpoch (d : Dev) : Nat × Nat := (d.ep.cur, d.ep.curTag)

/-- The number and tag that an edge die stamps on frames (R35, R406): the new CURRENT once its pipelines have switched. -/
def stampEpoch (d : Dev) (die : Nat) : Nat × Nat :=
  match d.ep.flip, d.ep.drain with
  | some f, some o => if f.switching ∧ ¬ bitOf f.dies die then o else curEpoch d
  | _, _ => curEpoch d

/-- The partition that owns a logical table of an edge die (R81). -/
def tableOwner (d : Dev) (die table : Nat) : Option Nat :=
  tfind (fun _ p => p.exist && !p.resetting && bitOf (lget 0 p.ruleTables die) table) d.parts

/-- Whether a logical table's partition is in a partition reset: it answers with the never-written miss entry (Table 15.4). -/
def tableAway (d : Dev) (die table : Nat) : Bool :=
  d.parts.any (fun e => e.2.exist && e.2.resetting && bitOf (lget 0 e.2.ruleTables die) table)

/-- The quota of slots of a logical table of an edge die (R81). -/
def tableQuota (d : Dev) (die table : Nat) : Nat :=
  match tableOwner d die table with
  | some p => lget 0 (tget {} d.parts p).ruleSlots die
  | none => 0

/-- A model context. -/
def ctxOf (d : Dev) (c : Nat) : Context := tget {} d.ctxs c

/-- The version of a context for an epoch tag. -/
def ctxVer (d : Dev) (c tag : Nat) : CtxVersion := tget {} (ctxOf d c).versions tag

/-- Whether the block of a die answers (R613): the boot step that brings its dies up has ended. -/
def blockUp (d : Dev) (a : Nat) : Bool :=
  if 0x1000000 ≤ a ∧ a < 0x2000000 then decide (5 ≤ d.boot.step)
  else if 0x2000000 ≤ a ∧ a < 0x3000000 then decide (4 ≤ d.boot.step)
  else if 0x3000000 ≤ a ∧ a < 0x4000000 then decide (d.boot.step = 6)
  else true

/-! ## OTP and straps -/

/-- The configuration in force (R617): nothing is enabled where no generation is. -/
def otpCfg (d : Dev) : OtpCfg :=
  match d.boot.gen with
  | some g => (tget {} d.otp.gens g).cfg
  | none => { x1 := false, vfCap0 := 0, vfCap1 := 0, powerW := 1200, macLog := 0 }

/-- Logical arrays enabled in every core: 8 for grade A8, 6 for grade A6 (Table 6.10). -/
def arraysPerCore (d : Dev) : Nat := d.otp.arrays

/-- The fused-off arrays of a core, bit p for physical array Ap (R210). -/
def arrayMap (d : Dev) (core : Nat) : Nat := tget 0 d.otp.maps core

/-- This package's ID (R488, Table 21.6). -/
def ownPkg (d : Dev) : Nat := d.pins.straps % 8

/-- The OTP source-MAC block: its base and the log2 of its size (Table 20.7, R533). -/
def otpMac (d : Dev) : Nat × Nat := ((otpCfg d).macBase, (otpCfg d).macLog)

/-- The image-key digest of an OTP key slot (R429, Table 20.7). -/
def otpImageKey (d : Dev) (slot : Nat) : List Byte := lget [] (otpCfg d).keys slot

/-- Whether package port `p` is disabled in OTP (R52). -/
def otpPortOff (d : Dev) (p : Nat) : Bool := bitOf (otpCfg d).portOff p

/-- TotalVFs of a PCIe port (R531, Table 20.7). -/
def vfCap (d : Dev) (port : Nat) : Nat := if port = 0 then (otpCfg d).vfCap0 else (otpCfg d).vfCap1

/-! ## The Tynas island: sensors, the event log, trouble counters, ALERT -/

/-- The die sites as 5 × row + column (Table 1.1): edge, compute and store dies; the hub is 12. -/
def edgeSite (i : Nat) : Nat := lget 255 [0, 4, 20, 24] i
/-- The site of a compute die. -/
def compSite (n : Nat) : Nat := lget 255 [1, 3, 5, 6, 7, 8, 9, 11, 13, 15, 16, 17, 18, 19, 21, 23] n
/-- The site of a store die. -/
def storeSite (i : Nat) : Nat := lget 255 [2, 10, 14, 22] i

/-- Thermal sensors (R534): 5n to 5n + 4 on compute die n, 80 + 4i on edge die i, 96 + 3i on store die i, 108 to 111 on the hub;
readings are in quarters of a degree. -/
def tempQ (d : Dev) (k : Nat) : Int := tget 0 d.isl.temps k

/-- The temperature of an edge die in degrees (R61, R534): its hottest sensor. -/
def edgeTemp (d : Dev) (die : Nat) : Int :=
  ((List.range 4).foldl (fun a k => max a (tempQ d (80 + 4 * die + k))) (tempQ d (80 + 4 * die))) / 4

/-- The device with its island changed. -/
def onIsl (f : Island → Island) (d : Dev) : Dev := { d with isl := f d.isl }

/-- The severity, trouble counter and ALERT of an event code (Table 17.5 and the chapters that assign codes). -/
def eventKind (code : Nat) : Nat × Option Nat × Bool :=
  match code with
  | 0x0101 => (2, some 0, true) | 0x0102 => (3, some 1, true) | 0x0103 => (3, some 2, true) | 0x0104 => (2, some 3, false)
  | 0x0105 => (1, some 4, false) | 0x0106 => (2, some 5, false) | 0x0107 => (1, some 6, true) | 0x0108 => (3, some 7, true)
  | 0x0109 => (1, some 8, false) | 0x010A => (2, some 9, true) | 0x010B => (2, some 10, true) | 0x010C => (2, some 11, false)
  | 0x010D => (2, some 12, true) | 0x010E => (2, some 13, false) | 0x010F => (1, some 14, false) | 0x0110 => (2, some 15, false)
  | 0x0111 => (2, some 16, false) | 0x0112 => (1, none, false) | 0x0113 => (0, none, false) | 0x0114 => (0, none, false)
  | 0x0115 => (0, none, false) | 0x0116 => (0, none, false) | 0x0117 => (2, none, false) | 0x0118 => (1, none, true)
  | 0x0119 => (2, none, true) | 0x011A => (3, none, true) | 0x011B => (3, none, true)
  | _ => (0, none, false)

/-- An event enters the log (R536): the 4,096 most recent entries stay, and it awaits its NOR write. -/
def logOnly (code sev site unit : Nat) (payload : List Byte) (d : Dev) : Dev :=
  let e : LogEntry := { time := beat d, code, severity := sev, seq := d.isl.seq, site, unit, payload := (payload ++ List.replicate (14 - payload.length) 0).take 14 }
  let log := d.isl.log ++ [e]
  bump .logEntries 0 0 (onIsl (fun x => { x with
    log := log.drop (log.length - 4096), seq := (x.seq + 1) % 2 ^ 32, unsaved := x.unsaved ++ [e] }) d)

/-- A trouble counter goes up, saturating at 65,535 (R538); its change awaits its NOR write. -/
def troubleUp (k : Nat) (d : Dev) : Dev :=
  onIsl (fun x => { x with
    trouble := tmod 0 x.trouble k (fun v => min 65535 (v + 1))
    troubleSince := match x.troubleSince with | some b => some b | none => some (beat d) }) d

/-- ALERT is asserted (R535): the pin, an I3C in-band interrupt and a PLDM event to the configured receiver. -/
def alertOn (code : Nat) (d : Dev) : Dev :=
  let d := emit (.ibi code) (onIsl (fun x => { x with alert := true }) d)
  match d.isl.receiver with
  | some r => emit (.platformEvent r code) d
  | none => d

/-- The island logs an event with all that its code brings (R535 to R538). -/
def islandLog (code site unit : Nat) (payload : List Byte) (d : Dev) : Dev :=
  let k := eventKind code
  let d := logOnly code k.1 site unit payload d
  let d := match k.2.1 with | some t => troubleUp t d | none => d
  if k.2.2 then alertOn code d else d

/-- An attempt of a control core beyond a bound (R531): counted for its class (0 cluster, 1 die, 2 edge controller, 3 hub) and
in trouble counter 11, and logged at most once per 10 s for each kind. -/
def fwBound (cls kind : Nat) (d : Dev) : Dev :=
  let d := troubleUp 11 (bump .fwBound cls 0 d)
  let last := tget 0 d.isl.boundAt kind
  if last ≠ 0 ∧ beat d < last - 1 + 10000000000 then d
  else logOnly 0x010C 2 0xFF 0xFF [BitVec.ofNat 8 kind, BitVec.ofNat 8 cls]
    (onIsl (fun x => { x with boundAt := tput 0 x.boundAt kind (beat d + 1) }) d)

/-! ## Cluster power and wakes -/

/-- The power state of a cluster: 0 RUN, 1 IDLE, 2 RETAIN, 3 OFF (Table 19.3). -/
def clusterPower (d : Dev) (cl : Nat) : Nat := (tget {} d.comp.clusters cl).power

/-- The clock step in force at a cluster. -/
def curStep (d : Dev) (cl : Nat) : Nat := 50 - tget 0 d.pwr.steps cl

/-- A cluster's core clock in MHz (R588). -/
def clockMHz (d : Dev) (cl : Nat) : Nat := 500 + 25 * curStep d cl

/-- The compute duty in force (R593). -/
def dutyNow (d : Dev) : Nat := min d.pwr.duty d.pwr.thermDuty

/-- Whether a domain failed its wake or was excluded at boot (R210, R587). -/
def domainDead (d : Dev) (dom : Nat) : Bool := tget false d.pwr.dead dom

/-- A wake of a domain is queued in its Thaw group; a domain already pending is not queued twice (R585). -/
def queueWake (dom : Nat) (d : Dev) : Dev :=
  if domainDead d dom ∨ d.pwr.wakes.any (fun w => w.dom == dom) then d
  else { d with pwr := { d.pwr with wakes := d.pwr.wakes ++ [{ dom }] } }

/-- A cluster is asked for (R582, R583): an IDLE one queues its IDLE exit, one in RETAIN or OFF its wake. -/
def wakeRequest (cl : Nat) (d : Dev) : Dev :=
  match clusterPower d cl with
  | 0 => d
  | 1 => if d.pwr.queue.any (fun x => x.1 == cl) then d else { d with pwr := { d.pwr with queue := d.pwr.queue ++ [(cl, false)] } }
  | _ => queueWake cl d

/-- A package fault (R28): device-ready is cleared, and commands in flight are neither completed nor aborted. -/
def packageFault (d : Dev) : Dev := { d with boot := { d.boot with fault := true, ready := false } }

/-- The configured MAC address of a breakout port (R664): as last written, or its value from OTP. -/
def macOf (d : Dev) (bp : Nat) : Nat :=
  match tget none d.edge.macs bp with
  | some m => m
  | none => (otpMac d).1 + bp % 2 ^ (otpMac d).2

/-- The held mac_lo of a breakout port (R664): as last written, or the address's low half. -/
def macLoOf (d : Dev) (bp : Nat) : Nat :=
  match tget none d.edge.macLo bp with
  | some v => v
  | none => ((otpMac d).1 + bp % 2 ^ (otpMac d).2) % 2 ^ 32

/-- Whether a MAC address lies in the OTP source-MAC block. -/
def macInBlock (d : Dev) (m : Nat) : Bool := decide ((otpMac d).1 ≤ m ∧ m < (otpMac d).1 + 2 ^ (otpMac d).2)

end Sys2Proof.Machine
end

