-- ==== Sys2Proof/Machine/EdgeOps.lean ====
section
/-! DEFINITION. Shared operations of the edge dies: port configuration, the packet buffer and its admission (R157 to R160),
priority flow control (R169), the slow path (R113, R114) and the end of a frame's life. -/

namespace Sys2Proof.Machine

/-- The breakout port's state. -/
def bpOf (d : Dev) (bp : Nat) : Bp := tget {} d.edge.bps bp

/-- The device with breakout port `bp` changed by `f`. -/
def modBp (bp : Nat) (f : Bp → Bp) : Dev → Dev := onEdge (fun e => { e with bps := tmod {} e.bps bp f })

/-- The physical port's state. -/
def physOf (d : Dev) (p : Nat) : PhysPort := tget {} d.edge.phys p

/-- The device with package port `p` changed by `f`. -/
def modPhys (p : Nat) (f : PhysPort → PhysPort) : Dev → Dev := onEdge (fun e => { e with phys := tmod {} e.phys p f })

/-- A frame by its id. -/
def frameOf (d : Dev) (fid : Nat) : Frame := tget {} d.edge.frames fid

/-- The device with frame `fid` changed by `f`. -/
def modFrame (fid : Nat) (f : Frame → Frame) : Dev → Dev := onEdge (fun e => { e with frames := tmod {} e.frames fid f })

/-- The breakout in force on a breakout port (R51, R53): 0, 1 or 2. -/
def breakoutOf (d : Dev) (bp : Nat) : Nat := bitsOf (bpOf d bp).cfg 0 2

/-- Whether the current breakout provides breakout port `bp` (R46, R51). -/
def provided (d : Dev) (bp : Nat) : Bool :=
  match breakoutOf d bp with
  | 0 => bp % 4 == 0
  | 1 => decide (bp % 4 < 2)
  | _ => true

/-- Mode of a breakout port: 0 inline, 1 lookaside, 2 adapter (Table 2.3). -/
def modeOf (d : Dev) (bp : Nat) : Nat := bitsOf (bpOf d bp).cfg (4 + 2 * (bp % 4)) 2

/-- pause_mode in force on a breakout port (R49). -/
def pauseModeOf (d : Dev) (bp : Nat) : Nat := bitsOf (bpOf d bp).cfg 14 2

/-- The parse depth for the next frame of a breakout port, in bytes (Table 2.3: 7 acts as 6). -/
def parseDepth (d : Dev) (bp : Nat) : Nat := 64 * (min (regFld d (rPortCfg (bp / 4)) 16 3) 6 + 2)

/-- max_frame of a package port: 64 to 9,216 (Table 2.5). -/
def maxFrameOf (d : Dev) (p : Nat) : Nat := max 64 (min (regFld d (rPortMaxfrm p) 0 14) 9216)

/-- The rate of a breakout port in bits per ns (R46). -/
def rateOf (d : Dev) (bp : Nat) : Nat :=
  match breakoutOf d bp with
  | 0 => 800
  | 1 => 400
  | _ => 200

/-- Whether breakout port `bp` is enabled: its enable bit, a breakout that provides it, no reserved value (R52, R53). -/
def bpEnabled (d : Dev) (bp : Nat) : Bool :=
  bitOf (regVal d (rPortCfg (bp / 4))) (20 + bp % 4) && provided d bp && !(bpOf d bp).disabled
    && !otpPortOff d (bp / 4)

/-- The queue `q` of breakout port `bp`. -/
def queueOf (d : Dev) (bp q : Nat) : EQueue := tget {} d.edge.queues (16 * bp + q)

/-- The device with queue `q` of `bp` changed by `f`. -/
def modQueue (bp q : Nat) (f : EQueue → EQueue) : Dev → Dev :=
  onEdge (fun e => { e with queues := tmod {} e.queues (16 * bp + q) f })

/-- The frame that breakout port `bp` is transmitting. -/
def txOf (d : Dev) (bp : Nat) : Option EItem := tget none d.edge.txNow bp

/-- Cells of 256 bytes that a frame of `len` bytes occupies (R157). -/
def cellsOf (len : Nat) : Nat := ceilDiv len 256

/-- Sum of cells over the items that pass `p`. -/
def itemCells (p : EItem → Bool) (l : List EItem) : Nat := ((l.filter p).map (·.cells)).sum

/-- Cells held on egress die `die` by the items that pass `p`, the frames being transmitted included. -/
def dieCells (d : Dev) (die : Nat) (p : EItem → Bool) : Nat :=
  ((d.edge.queues.filter (fun e => e.1 / 512 == die)).map (fun e => itemCells p e.2.items)).sum
    + ((d.edge.txNow.filter (fun e => e.1 / 32 == die)).map (fun e => itemCells p e.2.toList)).sum

/-- Cells held by one queue, the frame being transmitted from it included. -/
def queueCells (d : Dev) (bp q : Nat) (p : EItem → Bool) : Nat :=
  itemCells p (queueOf d bp q).items + (if tget 0 d.edge.txQueue bp = q then itemCells p (txOf d bp).toList else 0)

/-- Number of one bits among the low `n` bits of `v`. -/
def popcount (v : Nat) : Nat → Nat
  | 0 => 0
  | n + 1 => b2n (bitOf v n) + popcount v n

/-- Cells set aside on edge die `die` by the hold area, the reserved cells of every queue of every breakout position and
the headroom of every one (R158). -/
def setAside (d : Dev) (die : Nat) : Nat :=
  min (regFld d (rHold die) 0 7) 64 * 4096
    + ((List.range 32).map (fun k =>
        let bp := 32 * die + k
        ((List.range 16).map (fun q => 4 * regFld d (rQBuf bp q) 0 16)).sum
          + 4 * regFld d (rPfcHeadroom bp) 0 16 * popcount (regFld d (rPfcHeadroom bp) 16 8) 8)).sum

/-- Whether the shared region of a die keeps at least 8 MiB (R158). -/
def sharedOk (d : Dev) (die : Nat) : Bool := decide (setAside d die + 32768 ≤ 393216)

/-- Free cells of the shared region of a die. -/
def freeShared (d : Dev) (die : Nat) : Nat := 393216 - setAside d die - dieCells d die (fun i => i.region == .shared)

/-- The region that admits `c` cells to queue `q` of `bp` (R159), `none` for a tail drop. `near` says that the ingress
port lies on the egress die, without which the headroom step does not apply (R170). -/
def admitTo (d : Dev) (bp q c inBp prio : Nat) (near : Bool) : Option Region :=
  let die := bp / 32
  let res := queueCells d bp q (fun i => i.region == .reserved)
  let sh := queueCells d bp q (fun i => i.region == .shared)
  let free := freeShared d die
  let lim := min (max 1 (regFld d (rQBuf bp q) 20 12) * 256) (free / 2 ^ regFld d (rQBuf bp q) 16 3)
  let pfcOn := pauseModeOf d inBp == 2 && bitOf (regFld d (rPfcHeadroom inBp) 16 8) prio
  let hused := dieCells d die (fun i => i.region == .headroom && i.inBp == inBp && i.prio == prio)
  if res + c ≤ 4 * regFld d (rQBuf bp q) 0 16 then some .reserved
  else if c ≤ free ∧ sh + c ≤ lim then some .shared
  else if near ∧ pfcOn ∧ hused + c ≤ 4 * regFld d (rPfcHeadroom inBp) 0 16 then some .headroom
  else none

/-- Whether the headroom step could apply to a frame (R159, R170). -/
def headroomApplies (d : Dev) (inBp prio : Nat) (near : Bool) : Bool :=
  near && pauseModeOf d inBp == 2 && bitOf (regFld d (rPfcHeadroom inBp) 16 8) prio

/-- Bytes in the TX_HOLD queue of a breakout port, in whole cells (R57, R176). -/
def heldBytes (d : Dev) (bp : Nat) : Nat :=
  256 * ((List.range 16).map (fun q => itemCells (fun _ => true) (queueOf d bp q).items)).sum

/-- hold_limit of a package port in bytes (Table 2.5). -/
def holdLimit (d : Dev) (p : Nat) : Nat := 1024 * min (regFld d (rPortTxhold p) 0 13) 4096

/-- What became of a frame offered to an egress queue. -/
inductive Enq where
  | done | linkDown | holdFull | queueFull | headroomFull
  deriving DecidableEq, Repr

/-- A frame's priority (R162): the hint, or the PCP of its outer tag, or 0. -/
def prioOf (f : Frame) : Nat :=
  match f.prioHint with
  | some p => p
  | none =>
    let et := beNat ((f.bytes.drop 12).take 2)
    if et = 0x8100 ∨ et = 0x88A8 then (lget 0 f.bytes 14).toNat / 32 else 0

/-- Cells that ingress breakout port `bp` holds with priority `prio` in its die's buffer: its egress queues there and the
hold area (R169); `prio = 8` sums all priorities. -/
def pfcCount (d : Dev) (bp prio : Nat) : Nat :=
  dieCells d (bp / 32) (fun i => i.inBp == bp && i.src.isSome && (prio == 8 || i.prio == prio))
    + ((d.edge.deep.filter (fun e => e.2.used && e.1 / 65536 == bp / 32 &&
        (match e.2.frame with
          | some f => (frameOf d f).bp == bp && (prio == 8 || prioOf (frameOf d f) == prio)
          | none => false))).map (fun e => cellsOf e.2.held)).sum

/-- The XOFF or XON that the counts of one ingress breakout port and priority call for (R169). -/
def pfcCheck (bp prio : Nat) (d : Dev) : Dev :=
  let n := pfcCount d bp prio
  let xoff := 4 * regFld d (rPfcThresh bp) 0 16
  let xon := min (4 * regFld d (rPfcThresh bp) 16 16) xoff
  let key := 16 * bp + prio
  let sent := tget false d.edge.pfcX key
  if !sent && decide (xoff < n) then
    emit (.pause bp prio true) (onEdge (fun e => { e with pfcX := tput false e.pfcX key true }) d)
  else if sent && decide (n ≤ xon) then
    emit (.pause bp prio false) (onEdge (fun e => { e with pfcX := tput false e.pfcX key false }) d)
  else d

/-- PFC (pause_mode 2) or PAUSE (pause_mode 1) generation for an ingress breakout port after its counts changed (R169). -/
def pfcCheckBp (bp : Nat) (d : Dev) : Dev :=
  if pauseModeOf d bp = 2 then
    forEach (List.range 8) (fun p d => if bitOf (regFld d (rPfcHeadroom bp) 16 8) p then pfcCheck bp p d else d) d
  else if pauseModeOf d bp = 1 then pfcCheck bp 8 d else d

/-- Offer a frame to queue `q` of breakout port `bp` (R57, R58, R94, R159): the outcome and the device after it. Counters of
a refusal are the caller's. -/
def enqueue (bp q : Nat) (it : EItem) (near : Bool) (d : Dev) : Enq × Dev :=
  let b := bpOf d bp
  if !provided d bp then (.linkDown, d)
  else if b.txHold ∧ holdLimit d (bp / 4) ≤ heldBytes d bp then (.holdFull, d)
  else if ¬ b.txHold ∧ ¬ b.link then (.linkDown, d)
  else
    match admitTo d bp q it.cells it.inBp it.prio near with
    | some r =>
      let d := modQueue bp q (fun e => { e with items := e.items ++ [{ it with region := r, enq := beat d }], touched := true }) d
      let depth := 256 * queueCells d bp q (fun _ => true)
      let d := modQueue bp q (fun e => { e with depthMax := max e.depthMax depth }) d
      (.done, pfcCheckBp it.inBp d)
    | none =>
      let d := modQueue bp q (fun e => { e with dropped := e.dropped + 1, touched := true }) d
      (if headroomApplies d it.inBp it.prio near then .headroomFull else .queueFull, d)

/-- The counter of a refused forwarded frame (R57, R58, R159, R170). -/
def countRefused (r : Enq) (bp q : Nat) (d : Dev) : Dev :=
  match r with
  | .done => d
  | .linkDown => bump .dropLinkDown bp 0 d
  | .holdFull => bump .dropTxHold bp 0 d
  | .queueFull => bump .dropQueueFull bp q d
  | .headroomFull => bump .dropHeadroom bp q d

/-- Whether anything still refers to frame `fid`: an egress queue, a transmission, a message to another die, a request. -/
def frameInUse (d : Dev) (fid : Nat) : Bool :=
  d.edge.queues.any (fun e => e.2.items.any (fun i => i.src == some fid))
    || d.edge.txNow.any (fun e => e.2.any (fun i => i.src == some fid))
    || d.edge.interDie.any (fun e => e.2.2.2.src == some fid)

/-- Remove a frame that has ended and that nothing refers to any more. -/
def gcFrame (fid : Nat) (d : Dev) : Dev :=
  let f := frameOf d fid
  if f.ended && f.slow.isEmpty && f.stage == .queued && !f.flowPend && !frameInUse d fid then
    onEdge (fun e => { e with frames := tdel e.frames fid }) d
  else d

/-- Remove a frame outright. -/
def dropFrame (fid : Nat) (d : Dev) : Dev :=
  let bp := (frameOf d fid).bp
  let d := modBp bp (fun b => { b with order := b.order.erase fid }) d
  onEdge (fun e => { e with frames := tdel e.frames fid }) d

/-- A frame's received length (R63). -/
def lenOf (f : Frame) : Nat := if f.ended then min (f.bytes.length + 4) (f.maxFrame + 1) else f.len

/-- Class of a slow-path cause (Table 3.8). -/
def slowClass (cause : Nat) : Nat :=
  if (1 ≤ cause ∧ cause ≤ 6) ∨ (0x40 ≤ cause ∧ cause < 0x80) then 0
  else if cause = 0x80 then 1
  else if 0x80 < cause then 2
  else if cause = 0x10 then 3
  else if 0x20 ≤ cause ∧ cause < 0x40 then 4
  else if cause = 0x11 then 5
  else if cause = 0x12 then 6
  else 7

/-- Scaled tokens of one frame in the slow-path buckets: a rate of 1 kpps is 1 scaled token per ns. -/
def slowTok : Int := 1000000

/-- Depth of the class bucket (Table 3.10). -/
def slowCap (d : Dev) (die cls : Nat) : Int := max 1 (regFld d (rSlowClass die cls) 20 10) * 16 * slowTok

/-- Rate of a destination's aggregate bucket: host_share or ec_limit (Table 3.10). -/
def slowAggRate (d : Dev) (die : Nat) (toHost : Bool) : Nat :=
  if toHost then min (regFld d (rSlowLimit die) 16 16) 10000 else min (regFld d (rSlowLimit die) 0 16) 4000

/-- Whether a slow-path frame of class `cls` goes to a host ring: class 7 always, others by their dest field (R114). -/
def slowToHost (d : Dev) (die cls : Nat) : Bool := cls == 7 || bitOf (regVal d (rSlowClass die cls)) 30

/-- The two token buckets of R114 at once: whether the frame passes, and the device after it, with its counter. -/
def slowAdmit (die cls : Nat) (d : Dev) : Bool × Dev :=
  let host := slowToHost d die cls
  let ck := 16 * die + cls
  let ak := 16 * die + (if host then 9 else 8)
  let cb := tget {} d.edge.slowBk ck
  let ab := tget {} d.edge.slowBk ak
  let crate : Int := regFld d (rSlowClass die cls) 0 20
  let arate : Int := slowAggRate d die host
  let acap : Int := 1024 * slowTok
  let now := beat d
  if slowTok ≤ bkLevel (slowCap d die cls) crate now cb ∧ slowTok ≤ bkLevel acap arate now ab then
    let cb' := bkTake (slowCap d die cls) crate now slowTok cb
    let ab' := bkTake acap arate now slowTok ab
    let d := onEdge (fun e => { e with slowBk := tput {} (tput {} e.slowBk ck cb') ak ab' }) d
    (true, bump .slowSent die cls d)
  else (false, bump .slowDrop die cls d)

end Sys2Proof.Machine
end

