-- ==== Sys2Proof/Machine/RingOps.lean ====
section
/-! DEFINITION. The operations of the ring engine that every command family shares: functions and partitions, the DMA window
check, interrupts, completions, records and the start of a fetched command (14_host_rings). -/

namespace Sys2Proof.Machine

/-- Completion statuses (Table 14.17). -/
inductive Status where
  | ok | aborted | invalidOpcode | invalidField | noContext | tooLarge | noSpace | deadlineMissed | windowFault | linkDown
  | epochStale | epochBusy | maintBusy | accessDenied | dataError | queueReset | portNotReady
  deriving DecidableEq, Repr

/-- The code of a status. -/
def Status.code : Status → Nat
  | .ok => 0 | .aborted => 0x10 | .invalidOpcode => 0x20 | .invalidField => 0x21 | .noContext => 0x30 | .tooLarge => 0x31
  | .noSpace => 0x32 | .deadlineMissed => 0x40 | .windowFault => 0x50 | .linkDown => 0x51 | .epochStale => 0x60
  | .epochBusy => 0x61 | .maintBusy => 0x70 | .accessDenied => 0x80 | .dataError => 0x90 | .queueReset => 0x91
  | .portNotReady => 0xA0

/-- The device with a partition changed. -/
def modPart (p : Nat) (f : Part → Part) (d : Dev) : Dev := { d with parts := tmod {} d.parts p f }

/-- The partition bound to a function (R468). -/
def partOfFn (d : Dev) (fn : Nat) : Option Nat := tfind (fun _ x => x.exist && x.fn == fn) d.parts

/-- Whether a function reads ready (Table 14.15, Table 20.4): boot is complete and it is bound to a partition that is not in a
partition reset. -/
def fnReady (d : Dev) (fn : Nat) : Bool :=
  decide (d.boot.step = 6) && (match partOfFn d fn with | some p => !(partOf d p).resetting | none => false)

/-- Whether a cluster belongs to a partition. -/
def ownsCluster (d : Dev) (p cl : Nat) : Bool := (partOf d p).exist && bitOf (partOf d p).clusters cl

/-- Whether one DMA window entry admits a request of a function over `n` bytes from address `a` (R443). -/
def dmaOk (d : Dev) (fn a n : Nat) (wr : Bool) : Bool :=
  d.regs.any (fun r =>
    decide (0x4000 ≤ r.1 ∧ r.1 < 0x6000 ∧ r.1 % 16 = 12) && bitOf r.2 0 && bitOf r.2 (if wr then 2 else 1)
      && bitsOf r.2 3 1 == fn / 64 && bitsOf r.2 4 6 == fn % 64
      && (let base := regVal d (r.1 - 12) + regVal d (r.1 - 8) * 2 ^ 32
          let size := regVal d (r.1 - 4) * 4096
          decide (0 < size ∧ base ≤ a ∧ a + n ≤ base + size)))

/-- A ring pair. -/
def pairOf (d : Dev) (q : Nat) : Pair := tget {} d.pairs q
/-- The device with a ring pair changed. -/
def modPair (q : Nat) (f : Pair → Pair) (d : Dev) : Dev := { d with pairs := tmod {} d.pairs q f }
/-- A record ring, keyed 32 × function + ring. -/
def rringOf (d : Dev) (k : Nat) : RRing := tget {} d.rrings k
/-- The device with a record ring changed. -/
def modRRing (k : Nat) (f : RRing → RRing) (d : Dev) : Dev := { d with rrings := tmod {} d.rrings k f }

/-- Raise MSI-X vector `vec` of a function (R461, R463): nothing while its partition resets, the pending bit while masked. -/
def raiseVec (fn vec : Nat) (d : Dev) : Dev :=
  if ¬ fnReady d fn then d
  else if tget false d.msixOn (4096 * fn + vec) then emit (.msix fn vec) d
  else { d with msixPba := tput false d.msixPba (4096 * fn + vec) true }

/-- Raise a function's err_vec for a fault kind (0 access fault, 1 RING_ERROR), once until its cause is cleared (R462). -/
def raiseErr (fn kind : Nat) (d : Dev) : Dev :=
  if tget false d.errUp (2 * fn + kind) then d
  else raiseVec fn (regFld d (rFnCtrl fn) 1 11) { d with errUp := tput false d.errUp (2 * fn + kind) true }

/-- RING_ERROR (R451, R459): a ring of a function enters ERROR; payload: ring and cause (1 doorbell, 2 fetch, 3 write). -/
def ringError (fn ring cause : Nat) (d : Dev) : Dev :=
  raiseErr fn 1 (postEvent fn 2 [BitVec.ofNat 8 ring, BitVec.ofNat 8 cause] d)

/-- A pair enters ERROR (R451). -/
def pairError (q cause : Nat) (d : Dev) : Dev :=
  if (pairOf d q).error then d
  else ringError (q / 64) (q % 64) cause (modPair q (fun p => { p with error := true, dbErr := p.dbErr || cause == 1 }) d)

/-- A record ring enters ERROR (R458). -/
def rringError (k cause : Nat) (d : Dev) : Dev :=
  if (rringOf d k).error then d
  else ringError (k / 32) (64 + k % 32) cause (modRRing k (fun p => { p with error := true, dbErr := p.dbErr || cause == 1 }) d)

/-- The depth of a pair's SQ and of its CQ (Table 14.15). -/
def sqDepth (d : Dev) (q : Nat) : Nat := 16 * 2 ^ regFld d (rRingCfg q) 1 4
/-- The depth of a pair's CQ. -/
def cqDepth (d : Dev) (q : Nat) : Nat := 16 * 2 ^ regFld d (rRingCfg q) 5 4
/-- The depth of a record ring. -/
def rqDepth (d : Dev) (k : Nat) : Nat := 16 * 2 ^ regFld d (rRqCfg (k / 32) (k % 32)) 1 4
/-- The slot size of a record ring (Table 14.12): 64 bytes for rings 16 and 18. -/
def rqSlot (d : Dev) (k : Nat) : Nat :=
  if k % 32 = 16 ∨ k % 32 = 18 then 64 else 1024 * 2 ^ regFld d (rRqCfg (k / 32) (k % 32)) 5 3

/-- The 64-bit base that a LO/HI pair of registers holds. -/
def base64 (d : Dev) (a : Nat) : Nat := regVal d a + regVal d (a + 4) * 2 ^ 32

/-- A pair's vector is raised when the entries not yet announced reach irq_count (R461). -/
def pairIrq (q : Nat) (d : Dev) : Dev :=
  let p := pairOf d q
  let irq := regVal d (rRingIrq q)
  if p.unann = 0 ∨ bitOf irq 24 ∨ p.unann < max 1 (bitsOf irq 0 8) then d
  else raiseVec (q / 64) (regFld d (rRingCfg q) 9 11) (modPair q (fun p => { p with unann := 0 }) d)

/-- A record ring's vector is raised when its unannounced slots reach irq_count (R461). -/
def rringIrq (k : Nat) (d : Dev) : Dev :=
  let p := rringOf d k
  let cfg := regVal d (rRqCfg (k / 32) (k % 32))
  if p.unann = 0 ∨ p.unann < max 1 (bitsOf cfg 19 8) then d
  else raiseVec (k / 32) (bitsOf cfg 8 11) (modRRing k (fun p => { p with unann := 0 }) d)

/-- A fetched command. -/
def cmdOf (d : Dev) (t : Nat) : Cmd := tget {} d.cmds t
/-- The device with a command changed. -/
def modCmd (t : Nat) (f : Cmd → Cmd) (d : Dev) : Dev := { d with cmds := tmod {} d.cmds t f }
/-- Whether a ticket names a command fetched and not completed. -/
def cmdLive (d : Dev) (t : Nat) : Bool := !(cmdOf d t).bytes.isEmpty
/-- A little-endian field of a command's SQ entry (Table 14.6). -/
def cmdFld (c : Cmd) (off n : Nat) : Nat := leNat ((c.bytes.drop off).take n)
/-- The opcode of a command. -/
def opcodeOf (c : Cmd) : Nat := cmdFld c 0 1
/-- The function that issued a command. -/
def cmdFn (c : Cmd) : Nat := c.q / 64
/-- The partition a command belongs to. -/
def cmdPart (d : Dev) (c : Cmd) : Nat := (partOfFn d (cmdFn c)).getD 0
/-- How many commands of a pair are outstanding (R445). -/
def outstanding (d : Dev) (q : Nat) : Nat := tcount (fun _ c => c.q == q) d.cmds

/-- The bytes of a CQ entry (Table 14.9). -/
def cqBytes (cid status pair sqHead result beat : Nat) (phase : Bool) : List Byte :=
  toLe 2 cid ++ toLe 2 status ++ toLe 2 pair ++ toLe 2 sqHead ++ toLe 8 result ++ toLe 8 beat ++ zeroBytes 7 ++ toLe 1 (b2n phase)

/-- CQ_WRITE (R455): the CQ entry of a command of pair `q` is written and announced, or its pair goes to ERROR. -/
def cqWrite (c : Cmd) (status result : Nat) (d : Dev) : Dev :=
  let q := c.q
  let p := pairOf d q
  let a := base64 d (rCqBase q) + 32 * p.cqTail
  if dmaOk d (q / 64) a 32 true then
    let n := (p.cqTail + 1) % cqDepth d q
    let quiet := bitOf (cmdFld c 1 1) 0
    let d := hostWrite (q / 64) a (cqBytes (cmdFld c 2 2) status (q % 64) p.sqHead result (beat d) p.phase) d
    let d := bump .cqWritten q 0 d
    pairIrq q (modPair q (fun p => { p with
      cqTail := n, phase := if n = 0 then !p.phase else p.phase
      unannFrom := if p.unann = 0 ∧ ¬ quiet then beat d else p.unannFrom
      unann := if quiet ∧ p.unann = 0 then 0 else p.unann + 1 }) d)
  else pairError q 3 d

/-- Complete one command: its CQ entry is written and it is outstanding no more (R451, R455). After a package fault no command
is completed (R28), and none of a frozen partition (R571). -/
def finish (t : Nat) (status : Status) (result : Nat) (d : Dev) : Dev :=
  if cmdLive d t ∧ ¬ d.boot.fault ∧ ¬ frozenPart d (cmdPart d (cmdOf d t)) then
    cqWrite (cmdOf d t) status.code result { d with
      cmds := tdel d.cmds t, store := { d.store with dec := tdel d.store.dec t }
      obs := { d.obs with arms := d.obs.arms.filter (fun a => a.tkt != t) } }
  else d

/-- Complete every waiting FENCE of scope SQ whose earlier entries have completed (R452), in ring order. -/
def settleFences (q : Nat) (d : Dev) : Dev :=
  let ts := (d.cmds.filter (fun e => e.2.q == q && opcodeOf e.2 == 2 && e.2.st == 1 && cmdFld e.2 24 1 == 0)).map (·.1)
  ts.foldl (fun d t => if d.cmds.any (fun e => e.2.q == q && decide (e.1 < t)) then d else finish t .ok 0 d) d

/-- Complete a command with a status and an inline result. -/
def complete (t : Nat) (status : Status) (result : Nat) (d : Dev) : Dev :=
  let q := (cmdOf d t).q
  if cmdLive d t then settleFences q (finish t status result d) else d

/-- Whether an opcode is a control opcode (R452, Table 14.16). -/
def isControl (op : Nat) : Bool :=
  decide (0x10 ≤ op ∧ op ≤ 0x13) || op == 0x31 || op == 0x32 || op == 0x40 || op == 0x41 || op == 0x60 || op == 0x61 || op == 0x70

/-- Whether an opcode heeds its deadline before it starts (R453). -/
def heedsDeadline (op : Nat) : Bool := decide (0x20 ≤ op ∧ op ≤ 0x23) || op == 0x30

/-- Record `k` of a RULE_WRITE's or RULE_DELETE's buffer (Table 3.2). -/
def ruleRecord (d : Dev) (c : Cmd) (k : Nat) : List Byte := hostRead d (c.q / 4096) (cmdFld c 32 8 + 128 * k) 128

/-- Whether a command is a staging command (R411); RULE_WRITE and RULE_DELETE are, unless every record carries LIVE. -/
def isStaging (d : Dev) (c : Cmd) : Bool :=
  let op := opcodeOf c
  op == 0x10 || op == 0x11 || (op == 0x61 && bitOf (cmdFld c 24 1) 0)
    || ((op == 0x31 || op == 0x32)
        && (List.range (cmdFld c 28 4)).any (fun k => !bitOf (leNat ((ruleRecord d c k).drop 3 |>.take 1)) 0))

/-- Whether a fetched command may start now (R405, R422, R452). -/
def startable (d : Dev) (t : Nat) : Bool :=
  let c := cmdOf d t
  let op := opcodeOf c
  cmdLive d t && c.st == 0 && !frozenPart d (cmdPart d c)
    && !(bitOf (cmdFld c 1 1) 1 && d.cmds.any (fun e => e.2.q == c.q && decide (e.1 < t)))
    && !(isControl op && d.cmds.any (fun e => e.2.q == c.q && decide (e.1 < t) && isControl (opcodeOf e.2)))
    && !((d.ep.flip.any (fun f => f.held) || d.ep.opening.isSome) && isStaging d c)
    && !((op == 0x10 || op == 0x23 || op == 0x61) && d.cmds.any (fun e => decide (e.1 < t)
          && (opcodeOf e.2 == 0x10 || opcodeOf e.2 == 0x23 || opcodeOf e.2 == 0x61) && cmdFld e.2 8 2 == cmdFld c 8 2
          && cmdPart d e.2 == cmdPart d c))

/-- The deadline instant of a command, if it has one (R453). -/
def cmdDeadline (c : Cmd) : Option Nat :=
  if cmdFld c 16 4 = 0 then none else some (c.fetched + cmdFld c 16 4 * 1000)

/-- Whether a command's deadline has passed. -/
def cmdLate (d : Dev) (c : Cmd) : Bool :=
  heedsDeadline (opcodeOf c) && (match cmdDeadline c with | some x => decide (x < beat d) | none => false)

/-- Start a fetched command of opcode `op` on pair `q`: `f` is its work; one that may not start yet waits (R452, R453). -/
def startCmd (op q t : Nat) (f : Cmd → Dev → Dev) (d : Dev) : Dev :=
  let c := cmdOf d t
  if c.q = q ∧ opcodeOf c = op ∧ startable d t then
    if cmdLate d c then complete t .deadlineMissed 0 d else f c d
  else d

end Sys2Proof.Machine
end

