-- ==== Sys2Proof/Machine/Arbiter.lean ====
section
/-! DEFINITION. The maintenance arbiter (R547, R548): conflicts between requests, and their admission. -/

namespace Sys2Proof.Machine

/-- What kind of object an activity names: 1 a port, 2 a Jodon link, 3 a cluster, 4 a stack, 0 none (Table 17.8). -/
def maintKind : Nat → Nat
  | 1 => 1
  | 2 => 2
  | 3 => 3
  | 4 => 3
  | 5 => 4
  | 6 => 4
  | _ => 0

/-- The edge die of a calibration: port p lies on die p / 8, link 5i + j on die i. -/
def calDie (r : MaintReq) : Nat := if r.act = 1 then r.obj / 8 else r.obj / 5

/-- Whether an activity is a calibration. -/
def isCal (r : MaintReq) : Bool := r.act == 1 || r.act == 2

/-- Whether two requests conflict (Table 17.9), the limit of two calibrations on an edge die aside. -/
def maintConflict (d : Dev) (a b : MaintReq) : Bool :=
  let pair (x y : Nat) : Bool := (a.act == x && b.act == y) || (a.act == y && b.act == x)
  (maintKind a.act != 0 && maintKind a.act == maintKind b.act && a.obj == b.obj)
    || pair 3 0x100 || pair 3 0x101
    || (pair 3 0x102 && (let t := if a.act = 3 then b else a
                         let s := if a.act = 3 then a else b
                         (ctxOf d t.obj).clusters.contains s.obj))
    || ((pair 6 5 || pair 6 6) && a.obj / 3 == b.obj / 3)
    || ((a.act == 7 || a.act == 8) && (b.act == 7 || b.act == 8))

/-- Whether a request is a calibration that joins one already running on its port or link (Table 17.9). -/
def maintJoins (d : Dev) (r : MaintReq) : Bool :=
  isCal r && (d.maint.any (fun x => x.act == r.act && x.obj == r.obj && x.granted)
    || (if r.act = 1 then (physOf d r.obj).calBusy
        else (tget {} d.fab.links r.obj).state == 1 && (tget {} d.fab.links r.obj).phase == 2))

/-- The ports and links of an edge die on which a granted calibration runs. -/
def calsOn (d : Dev) (die : Nat) : Nat :=
  ((d.maint.filter (fun x => isCal x && x.granted && calDie x == die)).map (fun x => (x.act, x.obj))).eraseDups.length

/-- Whether a request must wait behind the earlier ones (R548); two calibrations run at once on an edge die. -/
def maintBlocked (d : Dev) (earlier : List MaintReq) (r : MaintReq) : Bool :=
  earlier.any (fun x => maintConflict d r x && !(isCal r && x.act == r.act && x.obj == r.obj && x.granted))
    || (isCal r && !maintJoins d r && decide (2 ≤ calsOn d (calDie r)))

/-- A request reaches the arbiter (R548): granted at once, and counted, when nothing earlier conflicts with it. -/
def maintAsk (r : MaintReq) (d : Dev) : Dev :=
  let ok := !maintBlocked d d.maint r
  when ok (bump .maintGranted r.act 0) { d with maint := d.maint ++ [{ r with granted := ok }] }

/-- Whether the request of a command is granted. -/
def maintGranted (d : Dev) (t : Nat) : Bool := d.maint.any (fun r => r.tkt == t && r.granted)

/-- The request of a command leaves the arbiter. -/
def maintEnd (t : Nat) (d : Dev) : Dev := { d with maint := d.maint.filter (fun r => !(r.tkt == t && t != 0)) }

/-- A request refused at its wait limit is counted, shown in AON_MAINT_STATUS and logged with its activity, object and source
(R548). -/
def maintRefused (r : MaintReq) (d : Dev) : Dev :=
  islandLog 0x0115 0xFF 0xFF (toLe 2 r.act ++ toLe 2 r.obj ++ toLe 1 r.src)
    (setFld rMaintStatus 10 1 1 (bump .maintRefused r.act 0 d))

end Sys2Proof.Machine
end

