-- ==== Sys2Proof/Machine/Fmt.lean ====
section
/-! DEFINITION. Number formats (08_number_formats): the values of the 16 format codes, exact conversion with rounding and
clipping, IEEE arithmetic with ties away from zero, requantisation, the stochastic draw and the transcendental functions.
Every computation is exact on dyadic numbers and is narrowed once. -/

namespace Sys2Proof.Machine

/-- The value of a code: NaN, an infinity, or (−1)^neg × m × 2^e exactly (R261); a zero keeps its sign. -/
inductive FVal where
  | nan
  | inf (neg : Bool)
  | fin (neg : Bool) (m : Nat) (e : Int)
  deriving DecidableEq, Repr

/-- What a format code names (Tables 8.1 to 8.3): `ebits = 0` marks an integer format. -/
structure FmtInfo where
  bits : Nat
  ebits : Nat := 0
  mbits : Nat := 0
  bias : Nat := 0
  qmin : Int := 0
  qmax : Int := 0
  signed : Bool := true
  zeroPoint : Bool := false
  maxCode : Nat := 0
  nanCode : Option Nat := none
  hasInf : Bool := false

/-- Table 8.1: the sixteen format codes. -/
def fmtInfo : Nat → FmtInfo
  | 0 => { bits := 2, qmin := -1, qmax := 1 }
  | 1 => { bits := 2, qmin := -2, qmax := 1 }
  | 2 => { bits := 4, qmin := -8, qmax := 7, zeroPoint := true }
  | 3 => { bits := 4, qmin := 0, qmax := 15, signed := false, zeroPoint := true }
  | 4 => { bits := 4, ebits := 2, mbits := 1, bias := 1, maxCode := 0x7 }
  | 5 => { bits := 6, ebits := 2, mbits := 3, bias := 1, maxCode := 0x1F }
  | 6 => { bits := 6, ebits := 3, mbits := 2, bias := 3, maxCode := 0x1F }
  | 7 => { bits := 8, qmin := -128, qmax := 127, zeroPoint := true }
  | 8 => { bits := 8, qmin := 0, qmax := 255, signed := false, zeroPoint := true }
  | 9 => { bits := 8, ebits := 4, mbits := 3, bias := 7, maxCode := 0x7E, nanCode := some 0x7F }
  | 10 => { bits := 8, ebits := 5, mbits := 2, bias := 15, maxCode := 0x7B, nanCode := some 0x7E, hasInf := true }
  | 11 => { bits := 16, qmin := -32768, qmax := 32767 }
  | 12 => { bits := 16, ebits := 5, mbits := 10, bias := 15, maxCode := 0x7BFF, nanCode := some 0x7E00, hasInf := true }
  | 13 => { bits := 16, ebits := 8, mbits := 7, bias := 127, maxCode := 0x7F7F, nanCode := some 0x7FC0, hasInf := true }
  | 14 => { bits := 32, qmin := -2147483648, qmax := 2147483647 }
  | _ => { bits := 32, ebits := 8, mbits := 23, bias := 127, maxCode := 0x7F7FFFFF, nanCode := some 0x7FC00000,
           hasInf := true }

/-- Whether a format code is an integer format. -/
def fmtIsInt (f : Nat) : Bool := (fmtInfo f).ebits == 0

/-- Bits an element takes in a row: a 6-bit code takes its own byte (R258). -/
def fmtStride (f : Nat) : Nat := if (fmtInfo f).bits = 6 then 8 else (fmtInfo f).bits

/-- The integer a code of an integer format stands for, before its zero point; TRIT 0b10 reads as 0 (R259, R260). -/
def intOfCode (f c : Nat) : Int :=
  if f = 0 then (if c % 4 = 1 then 1 else if c % 4 = 3 then -1 else 0)
  else if (fmtInfo f).signed then signedOf (fmtInfo f).bits c else ((c % 2 ^ (fmtInfo f).bits : Nat) : Int)

/-- The value of a code `c` of format `f` with zero point `z` (R259, R261, R262). -/
def fmtVal (f c : Nat) (z : Int) : FVal :=
  let i := fmtInfo f
  if i.ebits = 0 then
    let v := intOfCode f c - (if i.zeroPoint then z else 0)
    .fin (decide (v < 0)) v.natAbs 0
  else
    let c := c % 2 ^ i.bits
    let neg := bitOf c (i.ebits + i.mbits)
    let body := c % 2 ^ (i.ebits + i.mbits)
    let ex := body / 2 ^ i.mbits
    let m := body % 2 ^ i.mbits
    if f = 9 ∧ body = 0x7F then .nan
    else if i.hasInf ∧ ex = 2 ^ i.ebits - 1 then (if m = 0 then .inf neg else .nan)
    else if ex = 0 then .fin neg m (1 - (i.bias : Int) - i.mbits)
    else .fin neg (2 ^ i.mbits + m) ((ex : Int) - i.bias - i.mbits)

/-- The exponent of the grid spacing at magnitude m × 2^e, m ≠ 0 (R268). -/
def ulpExp (f m : Nat) (e : Int) : Int :=
  let i := fmtInfo f
  if i.ebits = 0 then 0 else max ((m.log2 : Int) + e) (1 - (i.bias : Int)) - i.mbits

/-- m × 2^e divided by 2^u and rounded: quotient and whether it was moved up, by NEAR (R269) or by the draw `r` (R270). -/
def roundMag (m : Nat) (e u : Int) (stoch : Option Nat) : Nat :=
  if u ≤ e then m * 2 ^ (e - u).toNat
  else
    let sh := (u - e).toNat
    let q := m / 2 ^ sh
    let rem := m % 2 ^ sh
    let up := match stoch with
      | some r => decide (r * 2 ^ sh < rem * 65536)
      | none => decide (2 ^ sh ≤ 2 * rem)
    if up then q + 1 else q

/-- Whether a × 2^ea ≤ b × 2^eb, exactly. -/
def magLe (a : Nat) (ea : Int) (b : Nat) (eb : Int) : Bool :=
  if ea ≤ eb then decide (a ≤ b * 2 ^ (eb - ea).toNat) else decide (a * 2 ^ (ea - eb).toNat ≤ b)

/-- The largest finite magnitude of a floating-point format. -/
def fmtMax (f : Nat) : Nat × Int :=
  match fmtVal f (fmtInfo f).maxCode 0 with
  | .fin _ m e => (m, e)
  | _ => (0, 0)

/-- The code of the grid value (−1)^neg × q × 2^u of floating-point format `f`, which lies within its range. -/
def packFp (f : Nat) (neg : Bool) (q : Nat) (u : Int) : Nat :=
  let i := fmtInfo f
  let s := b2n neg * 2 ^ (i.ebits + i.mbits)
  if q = 0 then s
  else
    let fl := (q.log2 : Int) + u
    if fl < 1 - (i.bias : Int) then s + q
    else
      let t := fl - i.mbits
      let mant := if t ≤ u then q * 2 ^ (u - t).toNat else q / 2 ^ (t - u).toNat
      s + (fl + i.bias).toNat * 2 ^ i.mbits + (mant - 2 ^ i.mbits)

/-- The canonical NaN of a format (R263). -/
def canonNan (f : Nat) : Nat := ((fmtInfo f).nanCode).getD 0

/-- The code of an infinity of a format that has one. -/
def infCode (f : Nat) (neg : Bool) : Nat :=
  let i := fmtInfo f
  b2n neg * 2 ^ (i.ebits + i.mbits) + (2 ^ i.ebits - 1) * 2 ^ i.mbits

/-- The code of an integer with the zero point added, clipped to the format (R268, R272), and whether it clipped. -/
def packInt (f : Nat) (v : Int) : Nat × Bool :=
  let i := fmtInfo f
  let w := if v < i.qmin then i.qmin else if v > i.qmax then i.qmax else v
  (wrapInt i.bits w, decide (v < i.qmin ∨ i.qmax < v))

/-- What a conversion produced: the code, whether it clipped (R272), and whether a NaN became zero (R273). -/
structure Conv where
  code : Nat
  clip : Bool := false
  nanZero : Bool := false
  deriving DecidableEq, Repr

/-- Whether a destination keeps NaN and infinities in a conversion: FP16, BF16 and FP32 (Table 8.5). -/
def keepsInf (f : Nat) : Bool := f == 12 || f == 13 || f == 15

/-- Conversion of a value, scaled by 2^sh, to format `f` with zero point `z` (R268 to R273). -/
def convert (f : Nat) (z : Int) (v : FVal) (sh : Int) (stoch : Option Nat) : Conv :=
  let i := fmtInfo f
  let zp := if i.zeroPoint then z else 0
  match v with
  | .nan =>
    if i.ebits = 0 then { code := wrapInt i.bits zp, nanZero := true }
    else if f = 4 ∨ f = 5 ∨ f = 6 then { code := 0, nanZero := true }
    else { code := canonNan f }
  | .inf neg =>
    if i.ebits = 0 then { code := wrapInt i.bits (if neg then i.qmin else i.qmax), clip := true }
    else if keepsInf f then { code := infCode f neg }
    else { code := b2n neg * 2 ^ (i.ebits + i.mbits) + i.maxCode, clip := true }
  | .fin neg m e0 =>
    let e := e0 + sh
    if i.ebits = 0 then
      let q := roundMag m e 0 stoch
      let r := packInt f ((if neg then -(q : Int) else q) + zp)
      { code := r.1, clip := r.2 }
    else if m = 0 then { code := packFp f neg 0 0 }
    else
      let u := ulpExp f m e
      let q := roundMag m e u stoch
      let mx := fmtMax f
      if magLe q u mx.1 mx.2 then { code := packFp f neg q u }
      else { code := b2n neg * 2 ^ (i.ebits + i.mbits) + i.maxCode, clip := true }

/-- The arithmetic result `v` in format 12, 13 or 15: one rounding, ties away, overflow to infinity (R274). -/
def fpRound (f : Nat) : FVal → Nat
  | .nan => canonNan f
  | .inf neg => infCode f neg
  | .fin neg m e =>
    if m = 0 then packFp f neg 0 0
    else
      let u := ulpExp f m e
      let q := roundMag m e u none
      let mx := fmtMax f
      if magLe q u mx.1 mx.2 then packFp f neg q u else infCode f neg

/-- The integer mantissa of a finite value at exponent `e`, which is at most its own. -/
def atExp (neg : Bool) (m : Nat) (e0 e : Int) : Int :=
  let a : Int := m * 2 ^ (e0 - e).toNat
  if neg then -a else a

/-- The exact sum of two values (R274): ∞ − ∞ is NaN; an exact zero is −0 only when both operands are. -/
def vAdd : FVal → FVal → FVal
  | .nan, _ => .nan
  | _, .nan => .nan
  | .inf a, .inf b => if a = b then .inf a else .nan
  | .inf a, _ => .inf a
  | _, .inf b => .inf b
  | .fin n1 m1 e1, .fin n2 m2 e2 =>
    let e := min e1 e2
    let t := atExp n1 m1 e1 e + atExp n2 m2 e2 e
    if t = 0 then .fin (n1 && n2) 0 e else .fin (decide (t < 0)) t.natAbs e

/-- The exact product of two values (R274): 0 × ∞ is NaN. -/
def vMul : FVal → FVal → FVal
  | .nan, _ => .nan
  | _, .nan => .nan
  | .inf a, .inf b => .inf (xor a b)
  | .inf a, .fin b m _ => if m = 0 then .nan else .inf (xor a b)
  | .fin a m _, .inf b => if m = 0 then .nan else .inf (xor a b)
  | .fin a m e, .fin b n f => .fin (xor a b) (m * n) (e + f)

/-- The negation of a value. -/
def vNeg : FVal → FVal
  | .nan => .nan
  | .inf a => .inf (!a)
  | .fin a m e => .fin (!a) m e

/-- Whether `a < b`; NaN compares with nothing and −0 equals +0. -/
def vLt : FVal → FVal → Bool
  | .nan, _ => false
  | _, .nan => false
  | .inf a, .inf b => a && !b
  | .inf a, .fin _ _ _ => a
  | .fin _ _ _, .inf b => !b
  | .fin n1 m1 e1, .fin n2 m2 e2 =>
    let e := min e1 e2
    decide (atExp n1 m1 e1 e < atExp n2 m2 e2 e)

/-- Whether two values are equal as numbers. -/
def vEq (a b : FVal) : Bool :=
  match a, b with
  | .nan, _ => false
  | _, .nan => false
  | _, _ => !vLt a b && !vLt b a

/-- Whether a value has its sign set. -/
def vSign : FVal → Bool
  | .nan => false
  | .inf a => a
  | .fin a _ _ => a

/-- IEEE minimum: NaN if either is NaN; −0 below +0 (R274). -/
def vMin (a b : FVal) : FVal :=
  match a, b with
  | .nan, _ => .nan
  | _, .nan => .nan
  | _, _ => if vLt a b then a else if vLt b a then b else if vSign a then a else b

/-- IEEE maximum: NaN if either is NaN; +0 above −0 (R274). -/
def vMax (a b : FVal) : FVal :=
  match a, b with
  | .nan, _ => .nan
  | _, .nan => .nan
  | _, _ => if vLt a b then b else if vLt b a then a else if vSign a then b else a

/-- Addition in format 12, 13 or 15 (R274). -/
def fpAdd (f a b : Nat) : Nat := fpRound f (vAdd (fmtVal f a 0) (fmtVal f b 0))

/-- Multiplication in format 12, 13 or 15 (R274). -/
def fpMul (f a b : Nat) : Nat := fpRound f (vMul (fmtVal f a 0) (fmtVal f b 0))

/-- Fused multiply-add, rounded once (R274). -/
def fpFma (f a b c : Nat) : Nat :=
  fpRound f (vAdd (vMul (fmtVal f a 0) (fmtVal f b 0)) (fmtVal f c 0))

/-- The FP32 code of an integer scaled by 2^e, rounded as R274. -/
def fp32OfInt (v : Int) (e : Int) : Nat := fpRound 15 (.fin (decide (v < 0)) v.natAbs e)

/-- Requantisation of an INT32 accumulator (R275): code value and whether it clipped. -/
def requant (acc : Int) (mult : Nat) (s : Int) (zo qmin qmax : Int) (stoch : Option Nat) : Int × Bool :=
  let p := acc * mult
  let a := p.natAbs
  let v : Int :=
    if 47 < s then 0
    else if 0 < s then
      let sh := s.toNat
      let q := a / 2 ^ sh
      let rem := a % 2 ^ sh
      let up := match stoch with
        | some r => decide (r * 2 ^ sh < rem * 65536)
        | none => decide (2 ^ (sh - 1) ≤ rem)
      let q := if up then q + 1 else q
      if p < 0 then -(q : Int) else q
    else if s = 0 then p
    else if p = 0 then 0
    else if s ≤ -16 then (if p < 0 then -4611686018427387904 else 4611686018427387903)
    else p * 2 ^ (-s).toNat
  let c := v + zo
  (if c < qmin then qmin else if qmax < c then qmax else c, decide (c < qmin ∨ qmax < c))

/-- The 16-bit draw of mode STOCH (R270). -/
def srDraw (seed : Word32) (stream : Nat) (row col : Nat) : Nat :=
  let x : Word32 := seed ^^^ (BitVec.ofNat 32 stream * 0x9E3779B9#32) ^^^ (BitVec.ofNat 32 row * 0x85EBCA6B#32)
    ^^^ (BitVec.ofNat 32 col * 0xC2B2AE35#32)
  let x := x ^^^ (x >>> 16)
  let x := x * 0x7FEB352D#32
  let x := x ^^^ (x >>> 15)
  let x := x * 0x846CA68B#32
  let x := x ^^^ (x >>> 16)
  (x >>> 16).toNat

/-- The need of a row (R277): the smallest exponent in −64…63 that fits every finite value; `pos` and `neg` are the
largest magnitudes of each sign, 0 where there is none. -/
def needOf (f : Nat) (zero : Int) (pos neg : Nat × Int) : Int :=
  let i := fmtInfo f
  let lims : (Nat × Int) × (Nat × Int) :=
    if i.ebits = 0 then (((i.qmax - zero).toNat, 0), ((zero - i.qmin).toNat, 0)) else (fmtMax f, fmtMax f)
  let ok (x lim : Nat × Int) (e : Int) : Bool := x.1 = 0 || lim.1 = 0 || magLe x.1 x.2 lim.1 (lim.2 + e)
  if pos.1 = 0 ∧ neg.1 = 0 then -64
  else
    match (List.range 128).find? (fun (k : Nat) => ok pos lims.1 ((k : Int) - 64) && ok neg lims.2 ((k : Int) - 64)) with
    | some k => (k : Int) - 64
    | none => 63

/-- The larger of two magnitudes. -/
def magMax (a b : Nat × Int) : Nat × Int := if magLe a.1 a.2 b.1 b.2 then b else a

/-- Transcendental functions of the vector unit (Table 6.7). -/
inductive Trans where
  | exp | log | rcp | rsqrt | logistic | tanh
  deriving DecidableEq, Repr

/-- The function code given to the open value. -/
def Trans.code : Trans → Nat
  | .exp => 0 | .log => 1 | .rcp => 2 | .rsqrt => 3 | .logistic => 4 | .tanh => 5

/-- FP32 +∞. -/
def fp32Inf : Nat := 0x7F800000

/-- FP32 1.0. -/
def fp32One : Nat := 0x3F800000

/-- The open value of a function at an input, with the sign `neg` forced and NaN and values beyond `top` replaced by
`top`, an FP32 magnitude code (R204: the result has y's sign and lies in the function's range). -/
def transOpen (t : Trans) (c : Nat) (neg : Bool) (top : Nat) : Nat :=
  let v := (Config.transcendental t.code (BitVec.ofNat 32 c)).toNat % 2 ^ 31
  b2n neg * 2 ^ 31 + min v top

/-- log2 of a power of two m × 2^e, if it is one. -/
def pow2Exp (m : Nat) (e : Int) : Option Int := if m = 2 ^ m.log2 then some ((m.log2 : Int) + e) else none

/-- A transcendental function on an FP32 code: the exact results of Table 6.12, and otherwise the open value within the
function's sign and range (R204). -/
def transFn (t : Trans) (c : Nat) : Nat :=
  match t, fmtVal 15 c 0 with
  | _, .nan => canonNan 15
  | .exp, .inf neg => if neg then 0 else fp32Inf
  | .exp, .fin _ m _ => if m = 0 then fp32One else transOpen t c false fp32Inf
  | .log, .inf neg => if neg then canonNan 15 else fp32Inf
  | .log, .fin neg m e =>
    if m = 0 then infCode 15 true
    else if neg then canonNan 15
    else if pow2Exp m e = some 0 then 0
    else transOpen t c (!magLe 1 0 m e) fp32Inf
  | .rcp, .inf neg => b2n neg * 2 ^ 31
  | .rcp, .fin neg m e =>
    if m = 0 then infCode 15 neg
    else match pow2Exp m e with
      | some k => if -149 ≤ -k ∧ -k ≤ 127 then fpRound 15 (.fin neg 1 (-k)) else transOpen t c neg fp32Inf
      | none => transOpen t c neg fp32Inf
  | .rsqrt, .inf neg => if neg then canonNan 15 else 0
  | .rsqrt, .fin neg m e =>
    if m = 0 then infCode 15 neg
    else if neg then canonNan 15
    else match pow2Exp m e with
      | some k => if k % 2 = 0 then fpRound 15 (.fin false 1 (-(k / 2))) else transOpen t c false fp32Inf
      | none => transOpen t c false fp32Inf
  | .logistic, .inf neg => if neg then 0 else fp32One
  | .logistic, .fin _ m _ => if m = 0 then 0x3F000000 else transOpen t c false fp32One
  | .tanh, .inf neg => b2n neg * 2 ^ 31 + fp32One
  | .tanh, .fin neg m _ => if m = 0 then b2n neg * 2 ^ 31 else transOpen t c neg fp32One

/-- Addition of a whole list in the fixed pairwise tree (R204): neighbours first, then pairs of pairs; `fuel` bounds the
number of levels. -/
def pairwise (add : Nat → Nat → Nat) : Nat → List Nat → List Nat
  | 0, l => l
  | fuel + 1, l =>
    let rec level : List Nat → List Nat
      | a :: b :: t => add a b :: level t
      | l => l
    if l.length ≤ 1 then l else pairwise add fuel (level l)

/-- The signed 32-bit reading of a word. -/
def s32 (v : Nat) : Int := signedOf 32 v

/-- Saturation to the INT32 range and whether it acted. -/
def sat32 (v : Int) : Int × Bool :=
  if v < -2147483648 then (-2147483648, true) else if 2147483647 < v then (2147483647, true) else (v, false)

end Sys2Proof.Machine
end

