-- ==== Sys2Proof/Machine/Slow.lean ====
section
/-! DEFINITION. Slow-path and host records of frames (R38, R71, R113, R114, Tables 4.9 and 14.13). -/

namespace Sys2Proof.Machine

/-- The bytes of a bit string cut from its start, the last byte padded with zeros (R666). -/
def keyBytes : List Bool → List Byte
  | [] => []
  | b0 :: bs =>
    let rec go (acc : Nat) (n : Nat) : List Bool → List Byte
      | [] => [BitVec.ofNat 8 (acc * 2 ^ (8 - n))]
      | b :: t => if n = 8 then BitVec.ofNat 8 acc :: go (b2n b) 1 t else go (acc * 2 + b2n b) (n + 1) t
    go (b2n b0) 1 bs

/-- `l` cut or padded with zeros to `n` bytes. -/
def padTo (n : Nat) (l : List Byte) : List Byte := l.take n ++ zeroBytes (n - l.length)

/-- The 384-byte parse block of a slow-path record (Table 14.13). -/
def parseBlock (f : Frame) : List Byte :=
  let kb := keyBytes f.key
  let valid := (f.fields.filter (fun e => e.2.isSome)).foldl (fun a e => a ||| 2 ^ e.1) 0
  toLe 2 f.cursor ++ toLe 1 f.hdrs.length ++ toLe 1 kb.length
    ++ padTo 24 (f.hdrs.flatMap (fun h => toLe 2 (h.2 % 512 + h.1 % 64 * 512))) ++ zeroBytes 4
    ++ padTo 64 kb ++ toLe 8 valid
    ++ (List.range 64).flatMap (fun k => toLe 4 (match tget none f.fields k with | some v => v.toNat | none => 0))
    ++ zeroBytes 24

/-- Bytes 2 to 15 of Table 4.9 for a frame: source, queue and flags, score, epoch, user tag, elapsed time. -/
def verdictBytes (f : Frame) (queue : Nat) : List Byte :=
  toBe 1 (0x10 + f.source) ++ toBe 1 (queue % 16 * 16 + b2n (f.flowUse == .untracked) + 2 * b2n f.exceed.isSome
      + 4 * b2n (f.flowUse == .learnedHere))
    ++ toBe 2 f.score ++ toBe 1 f.tag ++ [0] ++ toBe 3 (bitsOf f.action 104 24) ++ [0]
    ++ toBe 4 (min (f.resolveBeat - f.rxBeat) (2 ^ 32 - 1))

/-- The 128-byte header of a frame record, without its phase bit (Table 14.13). -/
def recHeader (type cause stored : Nat) (trunc : Bool) (f : Frame) (verdict : List Byte) (outputs : List Nat) : List Byte :=
  toLe 1 type ++ toLe 1 cause ++ toLe 2 stored ++ toLe 2 (lenOf f) ++ toLe 1 (f.bp / 4 + f.bp % 4 * 32)
    ++ toLe 1 (b2n trunc + 2 * b2n (!outputs.isEmpty)) ++ toLe 8 f.rxBeat ++ padTo 14 verdict ++ zeroBytes 2
    ++ padTo 32 (outputs.flatMap (toLe 4)) ++ zeroBytes 64

/-- Deliver one slow-path item of a frame whose last byte is good: to the edge controllers or to the host ring (R38). -/
def slowDeliver (f : Frame) (i : SlowItem) (d : Dev) : Dev :=
  if i.toHost then
    let type := if i.cls = 8 then 0x41 else if i.cls = 7 then 0x43 else 0x42
    let bytes := if i.trunc = 0 then f.bytes else f.bytes.take (i.trunc - 4)
    postRec i.fn i.ring (.frame (recHeader type i.cause bytes.length false f i.verdict i.outputs)
      (if type = 0x42 then parseBlock f else []) bytes) d
  else emit (.edgeController (f.bp / 32) i.cause f.bytes) d

/-- Deliver an item of a frame now, or hold it until the frame's last byte is known good (Table 2.7). -/
def deliverOrHold (fid : Nat) (i : SlowItem) (d : Dev) : Dev :=
  let f := frameOf d fid
  if f.ended then (if f.bad then d else slowDeliver f i d) else modFrame fid (fun f => { f with slow := f.slow ++ [i] }) d

/-- Whether an edge controller of a die is being restarted (Table 17.2). -/
def edgeCtlDown (d : Dev) (die : Nat) : Bool := tget false d.isl.down (112 + 2 * die) || tget false d.isl.down (113 + 2 * die)

/-- Send a frame, or a copy of it, to the slow path under `cause` when its buckets pass (R114); a frame that has not ended
waits for its last byte (R63, Table 2.7). Frames for edge controllers that are being restarted are dropped (Table 17.2). -/
def slowSend (fid cause : Nat) (verdict : List Byte) (outputs : List Nat) (trunc : Nat) (d : Dev) : Dev :=
  let f := frameOf d fid
  let die := f.bp / 32
  let cls := slowClass cause
  let r := slowAdmit die cls d
  if ¬ slowToHost d die cls ∧ edgeCtlDown d die then bump .slowDrop die cls d
  else if r.1 then
    deliverOrHold fid { cls, cause, toHost := slowToHost d die cls, trunc, verdict, outputs } r.2
  else r.2

/-- A frame leaves the pipeline for the slow path: it is queued nowhere, and is removed when its last byte is known. -/
def toSlowPath (fid cause : Nat) (verdict : List Byte) (outputs : List Nat) (d : Dev) : Dev :=
  let bp := (frameOf d fid).bp
  let d := modBp bp (fun b => { b with order := b.order.erase fid }) d
  let d := modFrame fid (fun f => { f with stage := .queued }) (slowSend fid cause verdict outputs 0 d)
  gcFrame fid d

end Sys2Proof.Machine
end

