-- ==== Sys2Proof/Machine/Clave.lean ====
section
/-! DEFINITION. The Clave parsers: the effect of every instruction of Table 2.8, the header window (R69), the cycle cap (R73)
and the ways a program ends (R71, R72). A parser runs the program of its frame's epoch: the command names the instruction that
the bank holds at the parser's program index, and does nothing on a parser that is stalled or stands at another one. -/

namespace Sys2Proof.Machine

/-- A parser. -/
def parserOf (d : Dev) (pa : Nat) : Parser := tget {} d.edge.parsers pa

/-- The device with parser `pa` being `p`. -/
def setParser (pa : Nat) (p : Parser) : Dev → Dev := onEdge (fun e => { e with parsers := tput {} e.parsers pa p })

/-- The program bank of an edge die for an epoch tag (R65). -/
def bankOf (d : Dev) (die tag : Nat) : ParserBank := tget {} d.edge.banks (3 * die + tag)

/-- The instruction at index `pc` of a bank: `none` for a slot beyond those delivered or beyond the bank, which acts as
FAIL 0x7F (R65, R66, R399). -/
def slotAt (b : ParserBank) (pc : Nat) : Option Instr := if pc < 16384 then b.prog[pc]? else none

/-- A general register. -/
def greg (p : Parser) (i : Nat) : Word32 := tget 0 p.g i

/-- The parser with register `i` holding `v`. -/
def setG (p : Parser) (i : Nat) (v : Word32) : Parser := { p with g := tput 0 p.g i v }

/-- What an instruction does: go on with a changed parser at a cost in packet cycles, end the program with a cause, end it
with DONE, or stall on bytes that have not arrived. -/
inductive CRes where
  | ok (p : Parser) (cost : Nat)
  | ends (cause cost : Nat)
  | done
  | stall

/-- The parse result handed to the frame when its program ends (R71). -/
def withParse (p : Parser) (f : Frame) : Frame :=
  { f with key := p.key, fields := p.fields, hdrs := p.hdrs, cursor := p.cursor, hint := p.hint, prioHint := p.prio }

/-- The program of parser `pa` ends with a failure or slow cause: the cause is counted (R72) and the frame goes to the slow
path (R71), or is dropped when its last byte is already known bad (Table 2.7). -/
def endProgram (pa cause : Nat) (d : Dev) : Dev :=
  let p := parserOf d pa
  match p.frame with
  | none => d
  | some fid =>
    let die := (frameOf d fid).bp / 32
    let d := modFrame fid (withParse p) (setParser pa {} d)
    let d := bump (if 0x80 ≤ cause then .slowCause else .parseFail) die cause d
    if (frameOf d fid).ended && (frameOf d fid).bad then dropFrame fid d else toSlowPath fid cause [] [] d

/-- The program of parser `pa` ends with DONE: the frame waits for its release to match (R77). -/
def endDone (pa : Nat) (d : Dev) : Dev :=
  let p := parserOf d pa
  match p.frame with
  | none => d
  | some fid => modFrame fid (fun f => { withParse p f with stage := .parsed }) (setParser pa {} d)

/-- Apply what an instruction does under the cycle cap: one that would complete after cycle 512 has no effect and the program
ends with BUDGET (R73). -/
def claveApply (pa : Nat) (i : Instr) (r : CRes) (d : Dev) : Dev :=
  let p := parserOf d pa
  match r with
  | .ok p' cost => if p.cycles + cost ≤ 512 then setParser pa { p' with cycles := p.cycles + cost } d else endProgram pa 1 d
  | .ends c cost => if p.cycles + cost ≤ 512 then endProgram pa c d else endProgram pa 1 d
  | .done => if p.cycles + 1 ≤ 512 then endDone pa d else endProgram pa 1 d
  | .stall => setParser pa { p with stall := some i, stallFrom := beat d } d

/-- One instruction of a parser: `i` is the instruction as the bank holds it. -/
def claveStep (pa : Nat) (i : Instr) (eff : Dev → Frame → Parser → CRes) (d : Dev) : Dev :=
  let p := parserOf d pa
  match p.frame with
  | none => d
  | some fid =>
    let f := frameOf d fid
    if p.stall.isSome then d
    else match slotAt (bankOf d (f.bp / 32) f.tag) p.pc with
      | none => claveApply pa i (.ends 0x7F 1) d
      | some j => if j = i then claveApply pa i (eff d f p) d else d

/-- The parser past its instruction. -/
def nextPc (p : Parser) : Parser := { p with pc := p.pc + 1 }

/-- An instruction that only changes the parser, in `cost` packet cycles. -/
def simple (cost : Nat) (f : Parser → Parser) : Dev → Frame → Parser → CRes :=
  fun _ _ p => .ok (nextPc (f p)) cost

/-- A branch: 2 packet cycles when taken, 1 when not (R68). -/
def branch (c : Parser → Bool) (target : Nat) : Dev → Frame → Parser → CRes :=
  fun _ _ p => if c p then .ok { p with pc := target } 2 else .ok (nextPc p) 1

/-- A change of the cursor; beyond 511 the program ends with BEYOND_DEPTH (Table 2.9). -/
def moveCursor (c : Parser → Nat) : Dev → Frame → Parser → CRes :=
  fun _ _ p => if c p ≤ 511 then .ok (nextPc { p with cursor := c p }) 1 else .ends 3 1

/-- What an access to `n` bytes from `a` meets (R69, R71). -/
inductive Access where
  | bytes (b : List Byte)
  | stall
  | fails (cause : Nat)

/-- An access of the parser to `n` bytes of the frame from byte `a`: its lowest byte outside the header window decides. -/
def access (f : Frame) (a n : Nat) : Access :=
  let have_ := min f.depth f.bytes.length
  if a + n ≤ have_ then .bytes ((f.bytes.drop a).take n)
  else if f.ended ∨ f.depth ≤ f.bytes.length then (if max a have_ < f.depth then .fails 4 else .fails 3)
  else if f.depth ≤ a then .fails 3
  else .stall

/-- An instruction that reads `n` frame bytes at cursor + off. -/
def reading (off n cost : Nat) (k : Parser → List Byte → CRes) : Dev → Frame → Parser → CRes :=
  fun _ f p =>
    match access f (p.cursor + off) n with
    | .bytes b => k p b
    | .stall => .stall
    | .fails c => .ends c cost

/-- A load of `n` bytes in network order, with a function on the value. -/
def loading (gd off n : Nat) (g : Nat → Nat) : Dev → Frame → Parser → CRes :=
  reading off n 1 (fun p b => .ok (nextPc (setG p gd (BitVec.ofNat 32 (g (beNat b))))) 1)

/-- The low `n` bits of `v`, the most significant first. -/
def msbBits (v : Nat) : Nat → List Bool
  | 0 => []
  | n + 1 => bitOf v n :: msbBits v n

/-- Append bits to the key; beyond 512 the program ends with KEY_OVERFLOW (R666). -/
def appendKey (p : Parser) (bits : List Bool) : CRes :=
  if p.key.length + bits.length ≤ 512 then .ok (nextPc { p with key := p.key ++ bits }) 1 else .ends 5 1

/-- The parser with field slot `fn` holding `v` and valid. -/
def setField (p : Parser) (fn : Nat) (v : Word32) : Parser := { p with fields := tput none p.fields fn (some v) }

/-- Packet cycles of CRC and CSUM over `len` bytes (Table 2.8). -/
def sumCost (len : Nat) : Nat := max 1 (ceilDiv len 16)

/-- The ones'-complement sum of CSUM (Table 2.8). -/
def csumOf (gd : Nat) (b : List Byte) : Nat := fold16 8 (sum16 b + gd % 65536 + gd / 65536)

/-- Whether cut point `c` of an encoding table lies below `x` (R301). -/
def cutBelow (kind c x : Nat) : Bool :=
  match kind with
  | 0 => decide (c < x)
  | 1 => decide (signedOf 32 c < signedOf 32 x)
  | _ => vLt (fmtVal 15 c 0) (fmtVal 15 x 0)

/-- The ordinal code of `x` by an encoding table (R301). -/
def encCode (t : EncTable) (x : Nat) : Nat :=
  if t.kind = 3 then
    match t.entries.find? (fun e => e.1 == x) with
    | some e => e.2
    | none => t.base
  else if t.kind = 2 ∧ fmtVal 15 x 0 = .nan then t.missing
  else t.base + (t.entries.filter (fun e => cutBelow t.kind e.1 x)).length

/-- The bank that the frame of a parser uses. -/
def bankFor (d : Dev) (f : Frame) : ParserBank := bankOf d (f.bp / 32) f.tag

/-- LDB, LDH, LDW. -/
def effLdb (gd off : Nat) := loading gd off 1 id
/-- LDH. -/
def effLdh (gd off : Nat) := loading gd off 2 id
/-- LDW. -/
def effLdw (gd off : Nat) := loading gd off 4 id
/-- LDBF: bits [pos + len − 1 : pos] of the 32 bits at cursor + off. -/
def effLdbf (gd off pos len : Nat) := loading gd off 4 (fun v => bitsOf v pos len)
/-- KEYF. -/
def effKeyf (off len : Nat) := reading off len 1 (fun p b => appendKey p (b.flatMap (fun x => msbBits x.toNat 8)))
/-- FLDP: len bytes, right-aligned; the slot becomes valid. -/
def effFldp (fn off len : Nat) := reading off len 1 (fun p b => .ok (nextPc (setField p fn (BitVec.ofNat 32 (beNat b)))) 1)
/-- CRC. -/
def effCrc (gd off len : Nat) := reading off len (sumCost len)
  (fun p b => .ok (nextPc (setG p gd (BitVec.ofNat 32 (crc32c (greg p gd).toNat b)))) (sumCost len))
/-- CSUM. -/
def effCsum (gd off len : Nat) := reading off len (sumCost len)
  (fun p b => .ok (nextPc (setG p gd (BitVec.ofNat 32 (csumOf (greg p gd).toNat b)))) (sumCost len))
/-- META (Table 2.13): selector 0 stalls until the last byte. -/
def effMeta (gd sel : Nat) : Dev → Frame → Parser → CRes := fun d f p =>
  let put (v : Nat) : CRes := .ok (nextPc (setG p gd (BitVec.ofNat 32 v))) 1
  match sel with
  | 0 => if f.ended then put (lenOf f) else .stall
  | 1 => put f.bp
  | 2 => put f.tag
  | 3 => put f.rxTod
  | _ => put (b2n f.ended + 2 * b2n (decide (f.depth < f.bytes.length)) + 4 * b2n f.oversize + 8 * modeOf d f.bp)

/-- What a stalled instruction does when it resumes (R69): the instructions that can stall. -/
def stallEff : Instr → Dev → Frame → Parser → CRes
  | .claveLdb _ gd off => effLdb gd off
  | .claveLdh _ gd off => effLdh gd off
  | .claveLdw _ gd off => effLdw gd off
  | .claveLdbf _ gd off pos len => effLdbf gd off pos len
  | .claveKeyf _ off len => effKeyf off len
  | .claveFldp _ fn off len => effFldp fn off len
  | .claveCrc _ gd off len => effCrc gd off len
  | .claveCsum _ gd off len => effCsum gd off len
  | .claveMeta _ gd sel => effMeta gd sel
  | _ => fun _ _ _ => .stall

/-- Packet cycles of a stall that began at Beat `t` (R70): one and a half per ns, rounded up. -/
def stallCycles (d : Dev) (t : Nat) : Nat := ceilDiv (3 * (beat d - t)) 2

/-- A stalled parser tries its access again after bytes of its frame arrived (R69, R70). -/
def claveResume (pa : Nat) (d : Dev) : Dev :=
  let p := parserOf d pa
  match p.stall, p.frame with
  | some i, some fid =>
    let p' := { p with stall := none, cycles := p.cycles + stallCycles d p.stallFrom }
    match stallEff i d (frameOf d fid) p' with
    | .stall => if 512 < p'.cycles then endProgram pa 1 d else d
    | r => claveApply pa i r (setParser pa p' d)
  | _, _ => d

/-- Every parser that stalls on frame `fid` resumes. -/
def resumeFrame (fid : Nat) (d : Dev) : Dev :=
  match tfind (fun _ p => p.frame == some fid && p.stall.isSome) d.edge.parsers with
  | some pa => claveResume pa d
  | none => d

/-! The meanings of the Clave rows. -/

/-- LDB (R68, R69, R71). -/
def execClaveLdb (pa gd off : Nat) (s : State) := run (.claveLdb pa gd off) (claveStep pa (.claveLdb 0 gd off) (effLdb gd off)) s
/-- LDH (R68). -/
def execClaveLdh (pa gd off : Nat) (s : State) := run (.claveLdh pa gd off) (claveStep pa (.claveLdh 0 gd off) (effLdh gd off)) s
/-- LDW (R68). -/
def execClaveLdw (pa gd off : Nat) (s : State) := run (.claveLdw pa gd off) (claveStep pa (.claveLdw 0 gd off) (effLdw gd off)) s
/-- LDBF (R68). -/
def execClaveLdbf (pa gd off pos len : Nat) (s : State) :=
  run (.claveLdbf pa gd off pos len) (claveStep pa (.claveLdbf 0 gd off pos len) (effLdbf gd off pos len)) s
/-- ADV (R68): the cursor may not exceed 511 (Table 2.9). -/
def execClaveAdv (pa imm : Nat) (s : State) :=
  run (.claveAdv pa imm) (claveStep pa (.claveAdv 0 imm) (moveCursor (fun p => p.cursor + imm))) s
/-- ADVR (R68). -/
def execClaveAdvr (pa gs sh : Nat) (s : State) :=
  run (.claveAdvr pa gs sh) (claveStep pa (.claveAdvr 0 gs sh) (moveCursor (fun p => p.cursor + (greg p gs).toNat * 2 ^ sh))) s
/-- SETC (R68). -/
def execClaveSetc (pa gs : Nat) (s : State) :=
  run (.claveSetc pa gs) (claveStep pa (.claveSetc 0 gs) (moveCursor (fun p => (greg p gs).toNat))) s
/-- GETC (R68). -/
def execClaveGetc (pa gd : Nat) (s : State) :=
  run (.claveGetc pa gd) (claveStep pa (.claveGetc 0 gd) (simple 1 (fun p => setG p gd (BitVec.ofNat 32 p.cursor)))) s
/-- MOVI (R68). -/
def execClaveMovi (pa gd : Nat) (imm : BitVec 16) (s : State) :=
  run (.claveMovi pa gd imm) (claveStep pa (.claveMovi 0 gd imm) (simple 1 (fun p => setG p gd (imm.zeroExtend 32)))) s
/-- MOVHI (R68). -/
def execClaveMovhi (pa gd : Nat) (imm : BitVec 16) (s : State) :=
  run (.claveMovhi pa gd imm) (claveStep pa (.claveMovhi 0 gd imm)
    (simple 1 (fun p => setG p gd (imm ++ (greg p gd).extractLsb' 0 16)))) s
/-- MOV (R68). -/
def execClaveMov (pa gd gs : Nat) (s : State) :=
  run (.claveMov pa gd gs) (claveStep pa (.claveMov 0 gd gs) (simple 1 (fun p => setG p gd (greg p gs)))) s
/-- ADD (R68). -/
def execClaveAdd (pa gd ga gb : Nat) (s : State) :=
  run (.claveAdd pa gd ga gb) (claveStep pa (.claveAdd 0 gd ga gb) (simple 1 (fun p => setG p gd (greg p ga + greg p gb)))) s
/-- SUB (R68). -/
def execClaveSub (pa gd ga gb : Nat) (s : State) :=
  run (.claveSub pa gd ga gb) (claveStep pa (.claveSub 0 gd ga gb) (simple 1 (fun p => setG p gd (greg p ga - greg p gb)))) s
/-- ADDI (R68). -/
def execClaveAddi (pa gd gs : Nat) (imm : BitVec 16) (s : State) :=
  run (.claveAddi pa gd gs imm) (claveStep pa (.claveAddi 0 gd gs imm)
    (simple 1 (fun p => setG p gd (greg p gs + imm.zeroExtend 32)))) s
/-- AND (R68). -/
def execClaveAnd (pa gd ga gb : Nat) (s : State) :=
  run (.claveAnd pa gd ga gb) (claveStep pa (.claveAnd 0 gd ga gb) (simple 1 (fun p => setG p gd (greg p ga &&& greg p gb)))) s
/-- OR (R68). -/
def execClaveOr (pa gd ga gb : Nat) (s : State) :=
  run (.claveOr pa gd ga gb) (claveStep pa (.claveOr 0 gd ga gb) (simple 1 (fun p => setG p gd (greg p ga ||| greg p gb)))) s
/-- XOR (R68). -/
def execClaveXor (pa gd ga gb : Nat) (s : State) :=
  run (.claveXor pa gd ga gb) (claveStep pa (.claveXor 0 gd ga gb) (simple 1 (fun p => setG p gd (greg p ga ^^^ greg p gb)))) s
/-- ANDI (R68). -/
def execClaveAndi (pa gd gs : Nat) (imm : BitVec 16) (s : State) :=
  run (.claveAndi pa gd gs imm) (claveStep pa (.claveAndi 0 gd gs imm)
    (simple 1 (fun p => setG p gd (greg p gs &&& imm.zeroExtend 32)))) s
/-- ORI (R68). -/
def execClaveOri (pa gd gs : Nat) (imm : BitVec 16) (s : State) :=
  run (.claveOri pa gd gs imm) (claveStep pa (.claveOri 0 gd gs imm)
    (simple 1 (fun p => setG p gd (greg p gs ||| imm.zeroExtend 32)))) s
/-- SHL (R68). -/
def execClaveShl (pa gd gs imm5 : Nat) (s : State) :=
  run (.claveShl pa gd gs imm5) (claveStep pa (.claveShl 0 gd gs imm5) (simple 1 (fun p => setG p gd (greg p gs <<< imm5)))) s
/-- SHR (R68). -/
def execClaveShr (pa gd gs imm5 : Nat) (s : State) :=
  run (.claveShr pa gd gs imm5) (claveStep pa (.claveShr 0 gd gs imm5) (simple 1 (fun p => setG p gd (greg p gs >>> imm5)))) s
/-- BEQ (R68). -/
def execClaveBeq (pa gs : Nat) (imm : BitVec 16) (target : Nat) (s : State) :=
  run (.claveBeq pa gs imm target) (claveStep pa (.claveBeq 0 gs imm target)
    (branch (fun p => greg p gs == imm.zeroExtend 32) target)) s
/-- BNE (R68). -/
def execClaveBne (pa gs : Nat) (imm : BitVec 16) (target : Nat) (s : State) :=
  run (.claveBne pa gs imm target) (claveStep pa (.claveBne 0 gs imm target)
    (branch (fun p => greg p gs != imm.zeroExtend 32) target)) s
/-- BLT, unsigned (R68). -/
def execClaveBlt (pa gs : Nat) (imm : BitVec 16) (target : Nat) (s : State) :=
  run (.claveBlt pa gs imm target) (claveStep pa (.claveBlt 0 gs imm target)
    (branch (fun p => decide ((greg p gs).toNat < imm.toNat)) target)) s
/-- BGE, unsigned (R68). -/
def execClaveBge (pa gs : Nat) (imm : BitVec 16) (target : Nat) (s : State) :=
  run (.claveBge pa gs imm target) (claveStep pa (.claveBge 0 gs imm target)
    (branch (fun p => decide (imm.toNat ≤ (greg p gs).toNat)) target)) s
/-- BEQR (R68). -/
def execClaveBeqr (pa ga gb target : Nat) (s : State) :=
  run (.claveBeqr pa ga gb target) (claveStep pa (.claveBeqr 0 ga gb target) (branch (fun p => greg p ga == greg p gb) target)) s
/-- BNER (R68). -/
def execClaveBner (pa ga gb target : Nat) (s : State) :=
  run (.claveBner pa ga gb target) (claveStep pa (.claveBner 0 ga gb target) (branch (fun p => greg p ga != greg p gb) target)) s
/-- JMP (R68). -/
def execClaveJmp (pa target : Nat) (s : State) :=
  run (.claveJmp pa target) (claveStep pa (.claveJmp 0 target) (branch (fun _ => true) target)) s
/-- SWITCH: entry gs[3:0], entry 15 for gs ≥ 16 (R68). -/
def execClaveSwitch (pa gs : Nat) (targets : List Nat) (s : State) :=
  run (.claveSwitch pa gs targets) (claveStep pa (.claveSwitch 0 gs targets)
    (fun _ _ p => .ok { p with pc := lget 0 targets (min (greg p gs).toNat 15) } 2)) s
/-- CALL: a fifth nested call ends the program with CALL_DEPTH (Table 2.9). -/
def execClaveCall (pa target : Nat) (s : State) :=
  run (.claveCall pa target) (claveStep pa (.claveCall 0 target)
    (fun _ _ p => if p.calls.length < 4 then .ok { p with pc := target, calls := (p.pc + 1) :: p.calls } 2 else .ends 6 2)) s
/-- RET: with an empty call stack the program ends with CALL_DEPTH (Table 2.9). -/
def execClaveRet (pa : Nat) (s : State) :=
  run (.claveRet pa) (claveStep pa (.claveRet 0)
    (fun _ _ p => match p.calls with | t :: ts => .ok { p with pc := t, calls := ts } 2 | [] => .ends 6 2)) s
/-- HDR: a thirteenth entry ends the program with HDR_DEPTH (Table 2.9). -/
def execClaveHdr (pa type : Nat) (s : State) :=
  run (.claveHdr pa type) (claveStep pa (.claveHdr 0 type)
    (fun _ _ p => if p.hdrs.length < 12 then .ok (nextPc { p with hdrs := p.hdrs ++ [(type, p.cursor)] }) 1 else .ends 2 1)) s
/-- KEYB (R666). -/
def execClaveKeyb (pa gs bits : Nat) (s : State) :=
  run (.claveKeyb pa gs bits) (claveStep pa (.claveKeyb 0 gs bits) (fun _ _ p => appendKey p (msbBits (greg p gs).toNat bits))) s
/-- KEYF (R666, R69). -/
def execClaveKeyf (pa off len : Nat) (s : State) :=
  run (.claveKeyf pa off len) (claveStep pa (.claveKeyf 0 off len) (effKeyf off len)) s
/-- FLD (R68). -/
def execClaveFld (pa fn gs : Nat) (s : State) :=
  run (.claveFld pa fn gs) (claveStep pa (.claveFld 0 fn gs) (simple 1 (fun p => setField p fn (greg p gs)))) s
/-- FLDP (R68, R69). -/
def execClaveFldp (pa fn off len : Nat) (s : State) :=
  run (.claveFldp pa fn off len) (claveStep pa (.claveFldp 0 fn off len) (effFldp fn off len)) s
/-- CRC (R68). -/
def execClaveCrc (pa gd off len : Nat) (s : State) :=
  run (.claveCrc pa gd off len) (claveStep pa (.claveCrc 0 gd off len) (effCrc gd off len)) s
/-- CSUM (R68). -/
def execClaveCsum (pa gd off len : Nat) (s : State) :=
  run (.claveCsum pa gd off len) (claveStep pa (.claveCsum 0 gd off len) (effCsum gd off len)) s
/-- TBL: 3 packet cycles (R68). -/
def execClaveTbl (pa gd gs t : Nat) (s : State) :=
  run (.claveTbl pa gd gs t) (claveStep pa (.claveTbl 0 gd gs t)
    (fun d f p => .ok (nextPc (setG p gd (tget 0 (bankFor d f).consts (256 * t + (greg p gs).toNat % 256)))) 3)) s
/-- ENC: 4 packet cycles (R301). -/
def execClaveEnc (pa fn gs e : Nat) (s : State) :=
  run (.claveEnc pa fn gs e) (claveStep pa (.claveEnc 0 fn gs e)
    (fun d f p => .ok (nextPc (setField p fn (BitVec.ofNat 32 (encCode (tget {} (bankFor d f).encs e) (greg p gs).toNat)))) 4)) s
/-- META (R665). -/
def execClaveMeta (pa gd sel : Nat) (s : State) :=
  run (.claveMeta pa gd sel) (claveStep pa (.claveMeta 0 gd sel) (effMeta gd sel)) s
/-- SETM (R665): selector 0 the table hint, selector 1 the priority. -/
def execClaveSetm (pa sel gs : Nat) (s : State) :=
  run (.claveSetm pa sel gs) (claveStep pa (.claveSetm 0 sel gs)
    (simple 1 (fun p => if sel = 0 then { p with hint := some ((greg p gs).toNat % 16) }
      else { p with prio := some ((greg p gs).toNat % 8) }))) s
/-- DONE (R68, R77). -/
def execClaveDone (pa : Nat) (s : State) := run (.claveDone pa) (claveStep pa (.claveDone 0) (fun _ _ _ => .done)) s
/-- FAIL (R71, R72). -/
def execClaveFail (pa code : Nat) (s : State) :=
  run (.claveFail pa code) (claveStep pa (.claveFail 0 code) (fun _ _ _ => .ends code 1)) s
/-- SLOW (R71, R72, R75). -/
def execClaveSlow (pa code : Nat) (s : State) :=
  run (.claveSlow pa code) (claveStep pa (.claveSlow 0 code) (fun _ _ _ => .ends code 1)) s
/-- NOP (R68). -/
def execClaveNop (pa : Nat) (s : State) := run (.claveNop pa) (claveStep pa (.claveNop 0) (simple 1 id)) s
/-- PARSE_BUDGET: the cap of 512 packet cycles expires and the program ends with BUDGET (R73). -/
def execParseBudget (pa : Nat) (s : State) := run (.parseBudget pa) (endProgram pa 1) s

end Sys2Proof.Machine
end

