-- ==== Sys2Proof/Machine/Rules.lean ====
section
/-! DEFINITION. Rule tables (R80 to R93): hashing, lookup, insertion with relocation, epoch versions, miss entries, sweeps
and stash reinsertion; meters and mirror sessions (R98 to R100); header edits (R96, R97). -/

namespace Sys2Proof.Machine

/-! ## Relocation shared by the rule SRAM and the flow table (R85, R110) -/

/-- How a two-choice table looks to the relocation search: `occ b i` is `none` for a free slot, and otherwise the other
candidate bucket of its occupant and whether it takes an aligned pair (the upper half of a pair gives its lower half's). -/
structure Cuckoo where
  occ : Nat → Nat → Option (Nat × Bool)

/-- The first free slot, or free aligned pair, of a bucket of four. -/
def Cuckoo.room (c : Cuckoo) (b : Nat) (wide : Bool) : Option Nat :=
  if wide then [0, 2].find? (fun i => (c.occ b i).isNone && (c.occ b (i + 1)).isNone)
  else [0, 1, 2, 3].find? (fun i => (c.occ b i).isNone)

/-- The occupants of bucket `b` whose move alone makes room for an entry of the given width: slot, width, other bucket. -/
def Cuckoo.movable (c : Cuckoo) (b : Nat) (wide : Bool) : List (Nat × Bool × Nat) :=
  [0, 1, 2, 3].filterMap (fun i =>
    match c.occ b i with
    | none => none
    | some (alt, w) =>
      if w then (if i % 2 = 0 then some (i, true, alt) else none)
      else if wide then (if (c.occ b (i + 1 - 2 * (i % 2))).isNone then some (i, false, alt) else none)
      else some (i, false, alt))

/-- One move of a relocation path: bucket, slot, width and destination bucket. -/
structure Move where
  b : Nat
  i : Nat
  wide : Bool
  dest : Nat
  deriving DecidableEq, Repr

/-- Breadth-first search for a relocation path of at most `fuel` moves: each path on the frontier lists its moves, the last
first, and ends at a bucket and a width that need room. `seen` holds the buckets already reached for a width. -/
def Cuckoo.search (c : Cuckoo) : Nat → List (List Move × Nat × Bool) → List (Nat × Bool) → Option (List Move)
  | 0, fr, _ => (fr.find? (fun p => (c.room p.2.1 p.2.2).isSome)).map (·.1)
  | fuel + 1, fr, seen =>
    match fr.find? (fun p => (c.room p.2.1 p.2.2).isSome) with
    | some p => some p.1
    | none =>
      let next := fr.flatMap (fun p => (c.movable p.2.1 p.2.2).map (fun m =>
        (({ b := p.2.1, i := m.1, wide := m.2.1, dest := m.2.2 } : Move) :: p.1, m.2.2, m.2.1)))
      let step (a : List (List Move × Nat × Bool) × List (Nat × Bool)) (p : List Move × Nat × Bool) :=
        if a.2.contains (p.2.1, p.2.2) then a else (a.1 ++ [p], (p.2.1, p.2.2) :: a.2)
      let r := next.foldl step ([], seen)
      if r.1.isEmpty then none else c.search fuel r.1 r.2

/-- A relocation path of at most 32 moves that frees room for an entry in `b1` or `b2` (R85), the free end first. -/
def Cuckoo.path (c : Cuckoo) (b1 b2 : Nat) (wide : Bool) : Option (List Move) :=
  c.search 32 [([], b1, wide), ([], b2, wide)] [(b1, wide), (b2, wide)]

/-! ## Rule SRAM -/

/-- The byte string that rule hashes run over (R83). -/
def ruleString (table : Nat) (key : List Byte) : List Byte := [BitVec.ofNat 8 table, BitVec.ofNat 8 key.length] ++ key

/-- The candidate buckets of a rule on a die (R83). -/
def ruleBuckets (d : Dev) (die table : Nat) (key : List Byte) : Nat × Nat :=
  let seed := regVal d (rRuleSeed die)
  let b1 := crc32c seed (ruleString table key) % 2 ^ 17
  let b2 := crc32 (seed ^^^ 0x5A5A5A5A) (ruleString table key) % 2 ^ 17
  (b1, if b2 = b1 then b1 ^^^ 1 else b2)

/-- The table key of slot `i` of bucket `b` on a die. -/
def slotKey (die b i : Nat) : Nat := 2 ^ 20 * die + 4 * b + i

/-- The table key of stash slot `i` of a die (R80, R560; log 89: DEDUCED, one stash of 16 slots per edge die). -/
def stashKey (die i : Nat) : Nat := 2 ^ 20 * die + 2 ^ 19 + i

/-- A rule slot. -/
def ruleAt (d : Dev) (k : Nat) : RuleSlot := tget {} d.edge.rules k

/-- The device with rule slot `k` being `r`. -/
def setRule (k : Nat) (r : RuleSlot) : Dev → Dev := onEdge (fun e => { e with rules := tput {} e.rules k r })

/-- The slot keys a lookup reads: both buckets and the stash, in that order (R84). -/
def lookupKeys (d : Dev) (die table : Nat) (key : List Byte) : List Nat :=
  let b := ruleBuckets d die table key
  (List.range 4).map (slotKey die b.1) ++ (List.range 4).map (slotKey die b.2)
    ++ (List.range 16).map (stashKey die)

/-- Whether a version is visible in epoch number `e` (R87). -/
def visible (birth death : Nat) (opn : Bool) (e : Nat) : Bool :=
  decide ((e + 256 - birth % 256) % 256 < 128) &&
    (opn || (decide (1 ≤ (death + 256 - e % 256) % 256) && decide ((death + 256 - e % 256) % 256 ≤ 127)))

/-- Whether a slot holds the entry of `key` in `table`. -/
def holdsKey (r : RuleSlot) (table : Nat) (key : List Byte) : Bool := r.used && !r.second && r.table == table && r.key == key

/-- The slot of the entry of `key` visible in epoch `e` on a die (R82). -/
def ruleFind (d : Dev) (die table : Nat) (key : List Byte) (e : Nat) : Option Nat :=
  (lookupKeys d die table key).find? (fun k =>
    let r := ruleAt d k
    holdsKey r table key && visible r.birth r.death r.opn e)

/-- The rule SRAM of a die as the relocation search sees it. -/
def ruleCuckoo (d : Dev) (die : Nat) : Cuckoo where
  occ b i :=
    let r0 := ruleAt d (slotKey die b i)
    if !r0.used then none
    else
      let r := if r0.second then ruleAt d (slotKey die b (i - 1)) else r0
      let bs := ruleBuckets d die r.table r.key
      some (if bs.1 = b then bs.2 else bs.1, r.wide)

/-- The device with the hit counters of a slot holding `p` packets and `b` bytes. -/
def setHits (k p b : Nat) (d : Dev) : Dev :=
  { d with ctr := tput 0 (tput 0 d.ctr (ctrKey .ruleHitPkts k 0) p) (ctrKey .ruleHitBytes k 0) b }

/-- Put an entry into slot `k`, with the upper half of a pair where it is wide; the slot's hit counters start again
(Table 18.1). -/
def placeRule (k : Nat) (r : RuleSlot) (d : Dev) : Dev :=
  let d := setHits k 0 0 (setRule k r d)
  if r.wide then setRule (k + 1) { used := true, second := true } d else d

/-- Free slot `k`, with the upper half of a pair. -/
def freeRule (k : Nat) (d : Dev) : Dev :=
  let w := (ruleAt d k).wide
  let d := setRule k {} d
  if w then setRule (k + 1) {} d else d

/-- Carry out one move: the destination is written before the source is cleared (R85); the rule keeps its hit counts. -/
def moveRule (die : Nat) (m : Move) (d : Dev) : Dev :=
  match (ruleCuckoo d die).room m.dest m.wide with
  | some i =>
    let k := slotKey die m.b m.i
    let dst := slotKey die m.dest i
    freeRule k (setHits dst (ctrVal d .ruleHitPkts k 0) (ctrVal d .ruleHitBytes k 0) (placeRule dst (ruleAt d k) d))
  | none => d

/-- Insert an entry, with the hit counts it has so far, into its buckets: the first free place in b1 then b2, or after a
relocation path (R85). -/
def insertBuckets (die : Nat) (r : RuleSlot) (hits : Nat × Nat) (d : Dev) : Option Dev :=
  let bs := ruleBuckets d die r.table r.key
  match (ruleCuckoo d die).path bs.1 bs.2 r.wide with
  | none => none
  | some ms =>
    let d := ms.foldl (fun d m => moveRule die m d) d
    match (ruleCuckoo d die).room bs.1 r.wide with
    | some i => some (setHits (slotKey die bs.1 i) hits.1 hits.2 (placeRule (slotKey die bs.1 i) r d))
    | none =>
      match (ruleCuckoo d die).room bs.2 r.wide with
      | some i => some (setHits (slotKey die bs.2 i) hits.1 hits.2 (placeRule (slotKey die bs.2 i) r d))
      | none => none

/-- A free place in the stash of a die: one slot, or two neighbouring slots for a wide rule. -/
def stashRoom (d : Dev) (die : Nat) (wide : Bool) : Option Nat :=
  let free (i : Nat) : Bool := !(ruleAt d (stashKey die i)).used
  (List.range 16).find? (fun i => free i && (!wide || (decide (i < 15) && free (i + 1))))

/-- Insert an entry: buckets, then stash; `none` where both refuse it (R85). -/
def insertRule (die : Nat) (r : RuleSlot) (d : Dev) : Option Dev :=
  match insertBuckets die r (0, 0) d with
  | some d' => some d'
  | none => (stashRoom d die r.wide).map (fun i => placeRule (stashKey die i) r d)

/-- Reinsertion of the stash of a die into the buckets; entries that find no path stay (R86), and each keeps its hit
counts. -/
def reinsertStash (die : Nat) (d : Dev) : Dev :=
  (List.range 16).foldl (fun d i =>
    let k := stashKey die i
    let r := ruleAt d k
    if r.used && !r.second then
      match insertBuckets die r (ctrVal d .ruleHitPkts k 0, ctrVal d .ruleHitBytes k 0) d with
      | some d' => freeRule k d'
      | none => d
    else d) d

/-- Slots of a die that logical table `table` holds, the stash included. -/
def tableSlots (d : Dev) (die table : Nat) : Nat :=
  (d.edge.rules.map (fun e =>
    if e.1 / 2 ^ 20 = die ∧ e.2.used ∧ ¬ e.2.second ∧ e.2.table = table then (if e.2.wide then 2 else 1) else 0)).sum

/-- Free every entry of a die that passes `p` and clear its hit counters. -/
def freeRules (die : Nat) (p : RuleSlot → Bool) (d : Dev) : Dev :=
  ((d.edge.rules.filter (fun e => e.1 / 2 ^ 20 == die && e.2.used && !e.2.second && p e.2)).map (·.1)).foldl
    (fun d k => freeRule k d) d

/-! ## Miss entries (R91) -/

/-- The versions of a table's miss entry. -/
def missOf (d : Dev) (die table : Nat) : List MissVer := tget [] d.edge.missEnts (16 * die + table)

/-- The action word of a table's miss entry in epoch `e`: never written, it is SLOW. -/
def missAction (d : Dev) (die table e : Nat) : Nat :=
  match (missOf d die table).find? (fun m => visible m.birth m.death m.opn e) with
  | some m => m.action
  | none => 2

/-- The device with a table's miss versions changed. -/
def setMiss (die table : Nat) (ms : List MissVer) : Dev → Dev :=
  onEdge (fun e => { e with missEnts := tput [] e.missEnts (16 * die + table) ms })

/-- Write of a miss entry (R91 with Table 3.1): `st` is the STAGING number, `c` the CURRENT number. -/
def writeMiss (ms : List MissVer) (action st c : Nat) (live : Bool) : List MissVer :=
  if live then
    if ms.any (fun m => visible m.birth m.death m.opn c) then
      ms.map (fun m => if visible m.birth m.death m.opn c then { m with action := action } else m)
    else
      let own := ms.any (fun m => m.birth % 256 == st % 256 && m.opn)
      { action, birth := c % 256, death := if own then st % 256 else 0, opn := !own } :: ms
  else
    match ms.find? (fun m => visible m.birth m.death m.opn st) with
    | some v =>
      if v.birth = st % 256 then ms.map (fun m => if m = v then { m with action := action } else m)
      else { action, birth := st % 256 } :: ms.map (fun m => if m = v then { m with death := st % 256, opn := false } else m)
    | none => { action, birth := st % 256 } :: ms

/-- Delete of a miss entry (R91 with Table 3.1). -/
def deleteMiss (ms : List MissVer) (st c : Nat) (live : Bool) : List MissVer :=
  let e := if live then c else st
  match ms.find? (fun m => visible m.birth m.death m.opn e) with
  | some v =>
    if !live && v.birth == st % 256 then ms.filter (fun m => m ≠ v)
    else ms.map (fun m => if m = v then { m with death := e % 256, opn := false } else m)
  | none => ms

/-! ## Versions of rules (R88) -/

/-- What applying a rule record on one die gives: a new device, or that there is no room or no match (NO_SPACE). -/
inductive RuleRes where
  | ok (d : Dev)
  | noSpace

/-- Whether one more entry of `n` slots fits the table's quota and the rule SRAM (R93). -/
def quotaOk (d : Dev) (die table n : Nat) : Bool :=
  let own := tableOwner d die table
  let held := ((List.range 16).filter (fun t => t == table || tableOwner d die t == own)).map (tableSlots d die)
  decide (held.sum + n ≤ tableQuota d die table)

/-- A RULE_WRITE of one record on one die (Table 3.1): `st` STAGING, `c` CURRENT; `repl` REPLACE_ONLY, `create`
CREATE_ONLY. -/
def writeRule (die table : Nat) (key : List Byte) (action st c : Nat) (live repl create : Bool) (d : Dev) : RuleRes :=
  let wide := decide (32 < key.length)
  let n := if wide then 2 else 1
  let mk (birth death : Nat) (opn : Bool) : RuleSlot := { used := true, wide, table, key, action, birth, death, opn }
  let fresh (r : RuleSlot) (d : Dev) : RuleRes :=
    if quotaOk d die table n then
      match insertRule die r d with
      | some d' => .ok d'
      | none => .noSpace
    else .noSpace
  match ruleFind d die table key (if live then c else st) with
  | some k =>
    if create then .noSpace
    else
      let r := ruleAt d k
      if live ∨ r.birth = st % 256 then .ok (setRule k { r with action := action } d)
      else fresh (mk (st % 256) 0 true) (setRule k { r with death := st % 256, opn := false } d)
  | none =>
    if repl then .noSpace
    else if live then
      let own := (lookupKeys d die table key).any (fun k => holdsKey (ruleAt d k) table key
        && (ruleAt d k).birth == st % 256 && visible (ruleAt d k).birth (ruleAt d k).death (ruleAt d k).opn st)
      fresh (mk (c % 256) (if own then st % 256 else 0) (!own)) d
    else fresh (mk (st % 256) 0 true) d

/-- A RULE_DELETE of one record on one die (Table 3.1); an absent key has no effect. -/
def deleteRule (die table : Nat) (key : List Byte) (st c : Nat) (live : Bool) (d : Dev) : Dev :=
  match ruleFind d die table key (if live then c else st) with
  | some k =>
    let r := ruleAt d k
    if !live && r.birth == st % 256 then freeRule k d
    else setRule k { r with death := (if live then c else st) % 256, opn := false } d
  | none => d

/-- The sweep of a die after a retirement (R90): every slot visible in none of the live epochs is freed. -/
def sweepRetire (die : Nat) (live : List Nat) (d : Dev) : Dev :=
  let d := freeRules die (fun r => !live.any (visible r.birth r.death r.opn)) d
  (List.range 16).foldl (fun d t =>
    setMiss die t ((missOf d die t).filter (fun m => live.any (visible m.birth m.death m.opn))) d) d

/-- The sweep of a die after an abandoned STAGING epoch `e` (R90): its births are freed, its deaths reopened. -/
def sweepAbandon (die e : Nat) (d : Dev) : Dev :=
  let b := e % 256
  let d := freeRules die (fun r => r.birth == b) d
  let d := onEdge (fun g => { g with rules := tmap {} (fun k r =>
    if k / 2 ^ 20 = die ∧ r.used ∧ ¬ r.opn ∧ ¬ r.second ∧ r.death = b then { r with death := 0, opn := true } else r) g.rules }) d
  (List.range 16).foldl (fun d t =>
    setMiss die t (((missOf d die t).filter (fun m => m.birth ≠ b)).map (fun m =>
      if !m.opn && m.death == b then { m with death := 0, opn := true } else m)) d) d

/-! ## Meters and mirror sessions -/

/-- A meter. -/
def meterOf (d : Dev) (die id : Nat) : Meter := tget {} d.edge.meters (4096 * die + id)

/-- Scaled tokens of one unit of a meter: bit·ns for bytes, frame·ns for frames. -/
def meterUnit (m : Meter) : Int := if m.unit = 0 then 8000000000 else 1000000000

/-- What a meter does with a frame (R99): passes it, drops it, or moves it to its exceed queue. -/
inductive MeterRes where
  | pass | drop | moved (q : Nat)

/-- A frame of length `len` meets meter `id` of a die (R99). -/
def meterFrame (die id len : Nat) (d : Dev) : MeterRes × Dev :=
  let m := meterOf d die id
  if id = 0 ∨ ¬ m.configured ∨ m.rate = 0 then (.pass, d)
  else
    let need : Int := (if m.unit = 0 then (len : Int) else 1) * meterUnit m
    let cap : Int := m.burst * meterUnit m
    if need ≤ bkLevel cap m.rate (beat d) m.bucket then
      let m' := { m with bucket := bkTake cap m.rate (beat d) need m.bucket }
      (.pass, onEdge (fun e => { e with meters := tput {} e.meters (4096 * die + id) m' }) d)
    else if m.exceed = 1 then (.moved m.exceedQueue, d)
    else (.drop, bump .meterDrop (4096 * die + id) 0 d)

/-- Configure a meter (R98, R99): the bucket starts full when the meter becomes configured or its unit changes, and
otherwise keeps its tokens, capped at the new burst. -/
def configMeter (die id unit exceed exceedQueue rate burst : Nat) (d : Dev) : Dev :=
  let m := meterOf d die id
  let m' : Meter := { configured := true, unit, exceed, exceedQueue, rate := min rate 800000000000, burst }
  let keep := m.configured && m.unit == unit
  let lvl := min (bkLevel (m.burst * meterUnit m) m.rate (beat d) m.bucket) (burst * meterUnit m')
  let bucket : Bucket := if keep then { lvl := some lvl, last := beat d } else {}
  onEdge (fun e => { e with meters := tput {} e.meters (4096 * die + id) { m' with bucket } }) d

/-! ## Header edits (R96, R97) -/

/-- A frame under edit: its bytes, its header offsets (`none` once a POP removed the header), its parse depth and the net
bytes inserted. -/
structure Edit where
  bytes : List Byte
  hdrs : List (Option Nat)
  depth : Nat
  net : Int := 0

/-- The offset of header-stack entry `h`. -/
def Edit.hdr (e : Edit) (h : Nat) : Option Nat := (e.hdrs[h]?).getD none

/-- The end of the bytes an edit may touch: the frame's end or the parse depth. -/
def Edit.limit (e : Edit) : Nat := min e.bytes.length e.depth

/-- The bytes with `bs` written over offset `a`. -/
def overwrite (l : List Byte) (a : Nat) (bs : List Byte) : List Byte := l.take a ++ bs ++ l.drop (a + bs.length)

/-- The IPv4 header checksum of a header of `n` bytes at offset `a`, its checksum field taken as 0. -/
def ipv4Sum (l : List Byte) (a n : Nat) : Nat :=
  65535 - fold16 8 (sum16 (overwrite ((l.drop a).take n) 10 [0, 0]))

/-- The incremental update of an IPv4 checksum when the 16-bit word `m` becomes `m'`: ~(~HC + ~m + m'). -/
def incSum (hc m m' : Nat) : Nat := 65535 - fold16 8 ((65535 - hc) + (65535 - m) + m')

/-- A big-endian 16-bit word of the frame. -/
def word16 (l : List Byte) (a : Nat) : Nat := beNat ((l.drop a).take 2)

/-- One edit operation (Table 3.4); `none` where it fails (R97). -/
def editStep (param : Nat) (e : Edit) : EditOp → Option Edit
  | .set h off len const =>
    match e.hdr h with
    | none => none
    | some a =>
      let bs := match const with | some c => c.take len | none => toBe len (param % 2 ^ (8 * len))
      if a + off + len ≤ e.limit then some { e with bytes := overwrite e.bytes (a + off) bs } else none
  | .push h len const =>
    match e.hdr h with
    | none => none
    | some a =>
      if a ≤ e.limit then
        some { e with
          bytes := e.bytes.take a ++ const.take len ++ e.bytes.drop a
          hdrs := e.hdrs.map (fun o => o.map (fun x => if a ≤ x then x + len else x))
          depth := e.depth + len
          net := e.net + len }
      else none
  | .pop h len =>
    match e.hdr h with
    | none => none
    | some a =>
      if a + len ≤ e.limit then
        some { e with
          bytes := e.bytes.take a ++ e.bytes.drop (a + len)
          hdrs := e.hdrs.map (fun o => match o with
            | none => none
            | some x => if x < a then some x else if x < a + len then none else some (x - len))
          depth := e.depth - len
          net := e.net - len }
      else none
  | .decTtl h =>
    match e.hdr h with
    | none => none
    | some a =>
      if a < e.limit then
        let v := (lget 0 e.bytes a).toNat / 16
        let t := if v = 4 then a + 8 else a + 7
        let ttl := (lget 0 e.bytes t).toNat
        if (v = 4 ∧ a + 12 ≤ e.limit ∨ v = 6 ∧ t < e.limit) ∧ ttl ≠ 0 then
          let b1 := overwrite e.bytes t [BitVec.ofNat 8 (ttl - 1)]
          let b2 := if v = 4 then
              overwrite b1 (a + 10) (toBe 2 (incSum (word16 e.bytes (a + 10)) (word16 e.bytes (a + 8)) (word16 b1 (a + 8))))
            else b1
          some { e with bytes := b2 }
        else none
      else none
  | .csum h =>
    match e.hdr h with
    | none => none
    | some a =>
      if a < e.limit then
        let b0 := (lget 0 e.bytes a).toNat
        let n := b0 % 16 * 4
        if b0 / 16 = 4 ∧ 5 ≤ b0 % 16 ∧ a + n ≤ e.limit then
          some { e with bytes := overwrite e.bytes (a + 10) (toBe 2 (ipv4Sum e.bytes a n)) }
        else none
      else none

/-- An edit program applied to a frame's bytes (R97): `none` where it fails. `len` is the frame's length and `maxFrame` the
limit of the egress port. -/
def applyEdits (prog : List EditOp) (param : Nat) (hdrs : List (Nat × Nat)) (depth len maxFrame : Nat) (bytes : List Byte) :
    Option (List Byte) :=
  let e0 : Edit := { bytes, hdrs := hdrs.map (fun h => some h.2), depth }
  match prog.foldl (fun e op => e.bind (fun e => editStep param e op)) (some e0) with
  | none => none
  | some e => if e.net ≤ 64 ∧ (len : Int) + e.net ≤ maxFrame then some e.bytes else none

/-! ## Table maintenance rows -/

/-- STASH_REINSERT (R86): the stash of an edge die is tried again after slots were freed. -/
def execStashReinsert (die : Nat) (s : State) := run (.stashReinsert die) (reinsertStash die) s

end Sys2Proof.Machine
end

