-- ==== Sys2Proof/Machine/Flow.lean ====
section
/-! DEFINITION. Flow state (R101 to R112): flow tags, the update of an entry, the flow cache and its misses on the edge
die, the flow table on the store die, and aging. -/

namespace Sys2Proof.Machine

/-- The flow key of a profile over a frame's key bytes (R102). -/
def flowKey (idx : Nat) (p : FlowProfile) (key : List Byte) : List Byte :=
  BitVec.ofNat 8 idx :: ((List.range 64).filter (bitOf p.keyMask)).map (fun k => lget 0 key k)

/-- The flow tag (R102). -/
def flowTagOf (d : Dev) (die idx : Nat) (p : FlowProfile) (key : List Byte) : Nat :=
  let k := flowKey idx p key
  let seed := regVal d (rFlowSeed die)
  crc32c seed k + crc32 seed k * 2 ^ 32 + crc64 k * 2 ^ 64

/-- The two buckets of a tag (R102). -/
def flowBuckets (tag : Nat) : Nat × Nat :=
  let b1 := bitsOf tag 0 20
  let b2 := bitsOf tag 32 20
  (b1, if b2 = b1 then b1 ^^^ 1 else b2)

/-- Time in units of 256 ns, truncated to 32 bits (R104). -/
def flowTime (d : Dev) : Nat := beat d / 256 % 2 ^ 32

/-- The low 8 bits of a field slot, 0 where the slot is absent or the profile names none (R104). -/
def fieldLo8 (fields : Tab (Option Word32)) : Option Nat → Nat
  | none => 0
  | some k => match tget none fields k with | some v => v.toNat % 256 | none => 0

/-- The saturating raise of histogram bin `j`. -/
def histBump : Nat → List Nat → List Nat
  | 0, [] => [1]
  | 0, h :: t => min (h + 1) 255 :: t
  | n + 1, [] => 0 :: histBump n []
  | n + 1, h :: t => h :: histBump n t

/-- The update of a flow entry by a committed frame (R104), with the frame's inter-arrival time of feature 142. -/
def flowUpdate (e : FlowEntry) (t len : Nat) (isNew : Bool) (idx : Nat) (p : FlowProfile)
    (fields : Tab (Option Word32)) : FlowEntry × Nat :=
  let reinit := isNew || e.gen != p.gen
  let d := (t + 2 ^ 32 - e.lastSeen) % 2 ^ 32
  let iat := min d 65535
  let e1 : FlowEntry :=
    if reinit then { valid := true, tag := e.tag, profile := idx, gen := p.gen, firstSeen := t, lastSeen := t }
    else if e.packets = 1 then { e with iatEwma := iat, iatDev := 0, lastSeen := t }
    else
      let err : Int := iat - e.iatEwma
      { e with
        iatEwma := wrapInt 16 ((e.iatEwma : Int) + err / 2 ^ p.k)
        iatDev := wrapInt 16 ((e.iatDev : Int) + ((err.natAbs : Int) - e.iatDev) / 2 ^ p.k)
        lastSeen := t }
  let bin := (p.edges.filter (fun x => x < len)).length
  ({ e1 with
      packets := min (e1.packets + 1) (2 ^ 32 - 1)
      bytes := min (e1.bytes + len) (2 ^ 40 - 1)
      hist := histBump bin e1.hist
      flags := e1.flags ||| (fieldLo8 fields p.flagA + 256 * fieldLo8 fields p.flagB) },
   if reinit then 0 else iat)

/-! ## The flow cache of the edge die -/

/-- The first way key of a tag's set on a die (R106). -/
def setBase (die tag : Nat) : Nat := 65536 * die + 16 * bitsOf tag 64 12

/-- The ways of a tag's set. -/
def setWays (die tag : Nat) : List Nat := (List.range 16).map (setBase die tag + ·)

/-- A way of the flow cache. -/
def wayOf (d : Dev) (k : Nat) : FlowWay := tget {} d.edge.fcache k

/-- The device with a way of the flow cache being `w`. -/
def setWay (k : Nat) (w : FlowWay) : Dev → Dev := onEdge (fun e => { e with fcache := tput {} e.fcache k w })

/-- The way that holds a tag. -/
def cacheFind (d : Dev) (die tag : Nat) : Option Nat :=
  (setWays die tag).find? (fun k => (wayOf d k).entry.valid && (wayOf d k).entry.tag == tag)

/-- The outstanding miss of a tag on a die (R108). -/
def missFind (d : Dev) (die tag : Nat) : Option Nat :=
  tfind (fun k m => k / 4096 == die && !m.frames.isEmpty && m.tag == tag) d.edge.misses

/-- Whether every way of a tag's set is pinned, counting the ways that outstanding misses of the set will take (R106). -/
def setPinned (d : Dev) (die tag : Nat) : Bool :=
  decide (16 ≤ ((setWays die tag).filter (fun k => decide (0 < (wayOf d k).pins))).length
    + tcount (fun k m => k / 4096 == die && !m.frames.isEmpty && bitsOf m.tag 64 12 == bitsOf tag 64 12) d.edge.misses)

/-- The way a new entry of a set takes: a free one, or the least recently used that is not pinned (R106). -/
def victimWay (d : Dev) (die tag : Nat) : Option Nat :=
  let ways := (setWays die tag).filter (fun k => (wayOf d k).pins == 0)
  match ways.find? (fun k => !(wayOf d k).entry.valid) with
  | some k => some k
  | none => ways.foldl (fun a k => match a with
      | none => some k
      | some b => if (wayOf d k).stamp < (wayOf d b).stamp then some k else some b) none

/-- The device with a message queued from edge die `die` to its store die. -/
def sendFlow (die : Nat) (m : FlowMsg) : Dev → Dev := onEdge (fun e => { e with flowOut := tmod [] e.flowOut die (· ++ [m]) })

/-- The device with a message queued from store die `die` to its edge die. -/
def sendBack (die : Nat) (m : FlowBack) : Dev → Dev := onEdge (fun e => { e with flowIn := tmod [] e.flowIn die (· ++ [m]) })

/-- The flow profile a frame's rule names, in the bank of the frame's epoch (R103). -/
def profileOf (d : Dev) (f : Frame) : FlowProfile := tget {} (bankFor d f).profiles (bitsOf f.action 15 3)

/-- The frames of a flow that have read the entry and not committed, before frame `fid`, in id order. -/
def pendingBefore (d : Dev) (die tag fid : Nat) : List (Nat × Frame) :=
  d.edge.frames.filter (fun e => e.1 < fid && e.2.flowPend && e.2.bp / 32 == die && e.2.flowTag == tag)

/-- A frame's own update of an entry, by its profile. -/
def frameUpdate (d : Dev) (f : Frame) (e : FlowEntry) : FlowEntry × Nat :=
  flowUpdate e f.flowT (lenOf f) (f.flowUse == .learnedHere || e.packets == 0) (bitsOf f.action 15 3) (profileOf d f) f.fields

/-- A frame reads its flow entry in way `k`: the way is pinned, and the frame is offered the entry as its own update and
those of earlier uncommitted frames of the flow leave it (R104, R106, R133). -/
def flowRead (fid k : Nat) (learned : Bool) (d : Dev) : Dev :=
  let f := { frameOf d fid with flowUse := if learned then .learnedHere else .tracked, flowT := flowTime d, flowPend := true }
  let w := wayOf d k
  let e := (pendingBefore d (f.bp / 32) f.flowTag fid).foldl (fun e x => (frameUpdate d x.2 e).1) w.entry
  let r := frameUpdate d f e
  let d := onEdge (fun g => { g with fclock := g.fclock + 1 }) d
  let d := setWay k { w with pins := w.pins + 1, stamp := d.edge.fclock } d
  modFrame fid (fun _ => { f with flow := r.1, flowIat := r.2 }) d

/-- The committed updates of the frames of a flow, oldest first, are applied to way `k` up to the first frame that has not
ended (R104, R108); `own` is removed by its caller. -/
def flowSettle (k own : Nat) : List Nat → Dev → Dev
  | [], d => d
  | fid :: t, d =>
    let f := frameOf d fid
    if f.flowDone then
      let w := wayOf d k
      let d := setWay k { w with entry := (frameUpdate d f w.entry).1, dirty := true, pins := w.pins - 1 } d
      let d := modFrame fid (fun f => { f with flowPend := false }) d
      flowSettle k own t (if fid = own then d else gcFrame fid d)
    else d

/-- A frame whose last byte is good commits its update (R64, R104), which the entry takes in arrival order (R108); a bad frame
only gives up its pin (R106). -/
def flowCommit (fid : Nat) (good : Bool) (d : Dev) : Dev :=
  let f := frameOf d fid
  if f.flowPend && !f.flowDone then
    match cacheFind d (f.bp / 32) f.flowTag with
    | some k =>
      let d := if good then modFrame fid (fun f => { f with flowDone := true }) d
        else modFrame fid (fun f => { f with flowPend := false }) (setWay k { wayOf d k with pins := (wayOf d k).pins - 1 } d)
      flowSettle k fid ((pendingBefore d (f.bp / 32) f.flowTag d.edge.nextFrame).map (·.1)) d
    | none => modFrame fid (fun f => { f with flowPend := false }) d
  else d

/-- A frame is processed UNTRACKED: zero flow fields, and a copy to the slow path where its profile asks for one
(R105, R108, R110). `c` is the counter the case names. -/
def flowUntrack (fid : Nat) (c : Ctr) (d : Dev) : Dev :=
  let die := (frameOf d fid).bp / 32
  let d := bump c die 0 (modFrame fid (fun f => { f with flowUse := .untracked, flowTag := 0 }) d)
  if (profileOf d (frameOf d fid)).copyUntracked then slowSend fid 0x12 [] [] 0 d else d

/-- What the flow stage leaves a frame with. -/
inductive FlowRes where
  | goOn | waits

/-- The flow stage of a frame (R103 to R108): a hit is read, a miss asks Si and waits, an overflow is UNTRACKED. -/
def flowStage (fid : Nat) (d : Dev) : FlowRes × Dev :=
  let f := frameOf d fid
  let die := f.bp / 32
  if !bitOf f.action 14 then (.goOn, d)
  else
    let p := profileOf d f
    if !p.valid then (.goOn, bump .flowProfileAbsent die 0 d)
    else
      let tag := flowTagOf d die (bitsOf f.action 15 3) p (keyBytes f.key)
      let d := modFrame fid (fun f => { f with flowTag := tag }) d
      match cacheFind d die tag with
      | some k => (.goOn, flowRead fid k false d)
      | none =>
        match missFind d die tag with
        | some k =>
          (.waits, onEdge (fun e => { e with misses := tmod {} e.misses k (fun m => { m with frames := m.frames ++ [fid] }) }) d)
        | none =>
          if setPinned d die tag then (.goOn, flowUntrack fid .flowMissOverflow d)
          else
            match (List.range 4096).find? (fun i => (tget {} d.edge.misses (4096 * die + i)).frames.isEmpty) with
            | none => (.goOn, flowUntrack fid .flowMissOverflow d)
            | some i =>
              let m : FlowMiss := { tag, profile := bitsOf f.action 15 3, gen := p.gen, frames := [fid] }
              let d := onEdge (fun e => { e with misses := tput {} e.misses (4096 * die + i) m }) d
              (.waits, sendFlow die (.lookup tag (bitsOf f.action 15 3) p.gen (flowTime d)) d)

/-! ## The flow table of the store die -/

/-- Key of slot `i` of bucket `b` of a flow table. -/
def ftKey (die b i : Nat) : Nat := 2 ^ 23 * die + 4 * b + i

/-- Key of stash slot `i` of a flow table. -/
def ftStash (die i : Nat) : Nat := 2 ^ 23 * die + 2 ^ 22 + i

/-- An entry of the flow tables. -/
def ftAt (d : Dev) (k : Nat) : FlowEntry := tget {} d.edge.flowTab k

/-- The device with flow-table entry `k` being `e`. -/
def setFt (k : Nat) (e : FlowEntry) : Dev → Dev := onEdge (fun g => { g with flowTab := tput {} g.flowTab k e })

/-- Learned flows of a die, the stash included (R110). -/
def flowCount (d : Dev) (die : Nat) : Nat := tcount (fun k e => k / 2 ^ 23 == die && e.valid) d.edge.flowTab

/-- Where a store die holds a tag. -/
def ftFind (d : Dev) (die tag : Nat) : Option Nat :=
  let b := flowBuckets tag
  (((List.range 4).map (ftKey die b.1)) ++ ((List.range 4).map (ftKey die b.2)) ++ ((List.range 16).map (ftStash die))).find?
    (fun k => (ftAt d k).valid && (ftAt d k).tag == tag)

/-- The flow table of a die as the relocation search sees it. -/
def flowCuckoo (d : Dev) (die : Nat) : Cuckoo where
  occ b i :=
    let e := ftAt d (ftKey die b i)
    if !e.valid then none
    else
      let bs := flowBuckets e.tag
      some (if bs.1 = b then bs.2 else bs.1, false)

/-- One move of a flow entry (R85, R110). -/
def moveFlow (die : Nat) (m : Move) (d : Dev) : Dev :=
  match (flowCuckoo d die).room m.dest false with
  | some i =>
    let k := ftKey die m.b m.i
    setFt k {} (setFt (ftKey die m.dest i) (ftAt d k) d)
  | none => d

/-- Insert a flow entry: buckets, relocation path, stash; `none` refuses it and moves nothing (R110). -/
def insertFlow (die : Nat) (e : FlowEntry) (d : Dev) : Option Dev :=
  let bs := flowBuckets e.tag
  let stash : Option Dev :=
    ((List.range 16).find? (fun i => !(ftAt d (ftStash die i)).valid)).map (fun i => setFt (ftStash die i) e d)
  match (flowCuckoo d die).path bs.1 bs.2 false with
  | none => stash
  | some ms =>
    let d' := ms.foldl (fun d m => moveFlow die m d) d
    match (flowCuckoo d' die).room bs.1 false with
    | some i => some (setFt (ftKey die bs.1 i) e d')
    | none =>
      match (flowCuckoo d' die).room bs.2 false with
      | some i => some (setFt (ftKey die bs.2 i) e d')
      | none => stash

/-- The head of the messages from an edge die to its store die. -/
def flowHead (d : Dev) (die : Nat) : Option FlowMsg := (tget [] d.edge.flowOut die).head?

/-- The device without the head of those messages. -/
def flowPop (die : Nat) : Dev → Dev := onEdge (fun e => { e with flowOut := tmod [] e.flowOut die List.tail })

/-- The head of the messages from a store die to its edge die. -/
def backHead (d : Dev) (die : Nat) : Option FlowBack := (tget [] d.edge.flowIn die).head?

/-- The device without the head of those messages. -/
def backPop (die : Nat) : Dev → Dev := onEdge (fun e => { e with flowIn := tmod [] e.flowIn die List.tail })

/-- Whether the aging of a tag is in progress: a candidate or its confirmation is on its way (R111, R112). -/
def agingNow (d : Dev) (die tag : Nat) : Bool :=
  (tget [] d.edge.flowIn die).any (fun m => match m with | .candidate t _ _ => t == tag | _ => false)
    || (tget [] d.edge.flowOut die).any (fun m => match m with | .confirm t _ => t == tag | _ => false)

/-- FLOW_LOOKUP_OR_INSERT (R109, R110): Si serves the request at the head of its messages; one for a flow whose aging is in
progress waits behind the messages that settle it (R112). -/
def flowServe (die : Nat) (d : Dev) : Dev :=
  match flowHead d die with
  | some (.lookup tag profile gen time) =>
    let d0 := flowPop die d
    if agingNow d die tag then sendFlow die (.lookup tag profile gen time) d0
    else
    let d := d0
    match ftFind d die tag with
    | some k => sendBack die (.answer tag (some (ftAt d k)) false) d
    | none =>
      let e : FlowEntry := { valid := true, tag, profile, gen, firstSeen := time, lastSeen := time }
      if flowCount d die < 4194304 then
        match insertFlow die e d with
        | some d' => sendBack die (.answer tag (some e) true) (bump .flowLearned die 0 d')
        | none => sendBack die (.answer tag none false) d
      else sendBack die (.answer tag none false) d
  | _ => d

/-- FLOW_WRITEBACK (R107, R111): applied where Si still holds the flow, else discarded. -/
def flowApplyWb (die : Nat) (d : Dev) : Dev :=
  match flowHead d die with
  | some (.writeback e) =>
    let d := flowPop die d
    match ftFind d die e.tag with
    | some k => setFt k e d
    | none => d
  | _ => d

/-- FLOW_CACHE_FLUSH (R107): every dirty entry of the die's cache is written back. -/
def flowFlush (die : Nat) (d : Dev) : Dev :=
  ((d.edge.fcache.filter (fun e => e.1 / 65536 == die && e.2.dirty)).map (·.1)).foldl
    (fun d k => sendFlow die (.writeback (wayOf d k).entry) (setWay k { wayOf d k with dirty := false } d)) d

/-- The aging limit of an entry in 256 ns units (R111): the timeout of its profile number in the CURRENT bank, 600 s where
that is undefined. -/
def agingLimit (d : Dev) (die : Nat) (e : FlowEntry) : Nat :=
  let p := tget {} (bankOf d die (curEpoch d).2).profiles e.profile
  (if p.valid then p.idleTimeout else 600) * 1000000000 / 256

/-- Whether an entry has been idle for longer than its timeout. -/
def isIdle (d : Dev) (die : Nat) (e : FlowEntry) : Bool :=
  decide (agingLimit d die e < (flowTime d + 2 ^ 32 - e.lastSeen) % 2 ^ 32)

/-- FLOW_AGING_SCAN (R111): idle entries become candidates, sent to the edge die. -/
def flowScan (die : Nat) (d : Dev) : Dev :=
  (d.edge.flowTab.filter (fun x => x.1 / 2 ^ 23 == die && x.2.valid && isIdle d die x.2)).foldl
    (fun d x => sendBack die (.candidate x.2.tag x.1 x.2.lastSeen) d) d

/-- Whether time `a` is later than `b`, both in 32-bit units (R111: no live entry lies half the range away). -/
def later32 (a b : Nat) : Bool := let x := (a + 2 ^ 32 - b) % 2 ^ 32; decide (0 < x ∧ x < 2 ^ 31)

/-- FLOW_AGING_CANDIDATE (R111): Ei writes a newer entry back, and otherwise removes its own and confirms. -/
def flowCandidate (die : Nat) (d : Dev) : Dev :=
  match backHead d die with
  | some (.candidate tag idx last) =>
    let d := backPop die d
    match cacheFind d die tag with
    | some k =>
      let w := wayOf d k
      if later32 w.entry.lastSeen last ∨ 0 < w.pins then sendFlow die (.writeback w.entry) (setWay k { w with dirty := false } d)
      else sendFlow die (.confirm tag idx) (setWay k {} d)
    | none => sendFlow die (.confirm tag idx) d
  | _ => d

/-- FLOW_AGING_CONFIRM (R111): Si frees the entry unless a write-back has revived it. -/
def flowConfirm (die : Nat) (d : Dev) : Dev :=
  match flowHead d die with
  | some (.confirm tag _) =>
    let d := flowPop die d
    match ftFind d die tag with
    | some k => if isIdle d die (ftAt d k) then bump .flowAged die 0 (setFt k {} d) else d
    | none => d
  | _ => d

/-- FLOW_LOOKUP_OR_INSERT (R109). -/
def execFlowLookupOrInsert (die : Nat) (s : State) := run (.flowLookupOrInsert die) (flowServe die) s
/-- FLOW_WRITEBACK (R107). -/
def execFlowWriteback (die : Nat) (s : State) := run (.flowWriteback die) (flowApplyWb die) s
/-- FLOW_CACHE_FLUSH (R107). -/
def execFlowCacheFlush (die : Nat) (s : State) := run (.flowCacheFlush die) (flowFlush die) s
/-- FLOW_AGING_SCAN (R111). -/
def execFlowAgingScan (die : Nat) (s : State) := run (.flowAgingScan die) (flowScan die) s
/-- FLOW_AGING_CANDIDATE (R111). -/
def execFlowAgingCandidate (die : Nat) (s : State) := run (.flowAgingCandidate die) (flowCandidate die) s
/-- FLOW_AGING_CONFIRM (R111). -/
def execFlowAgingConfirm (die : Nat) (s : State) := run (.flowAgingConfirm die) (flowConfirm die) s

end Sys2Proof.Machine
end

