-- ==== Sys2Proof/Machine/Peal.lean ====
section
/-! DEFINITION. Evaluation of tree ensembles (R289 to R297), shared by the Peal engines of the cores and the edge units. -/

namespace Sys2Proof.Machine

/-- Index of the lowest set bit of `v` among `n` bits from `i`, `d` where none is set. -/
def lowestBit (v d : Nat) : Nat → Nat → Nat
  | _, 0 => d
  | i, n + 1 => if bitOf v i then i else lowestBit v d (i + 1) n

/-- The exit leaf of a tree (R293) and whether no bit was left: every internal node takes part. -/
def exitLeaf (nodes : List PealNode) (code : Nat → Nat) : Nat × Bool :=
  let n := nodes.length
  let v := nodes.foldl (fun v nd => if nd.threshold < code nd.feature then v &&& nd.mask else v) (2 ^ (n + 1) - 1)
  if v = 0 then (n, true) else (lowestBit v n 0 64, false)

/-- The exit-leaf values of output `o` over a list of trees, and how many trees gave an empty mask. -/
def leafPicks (par : PealParams) (nodes : List PealNode) (leaves : List Nat) (code : Nat → Nat) (o : Nat) :
    List PealTree → List Nat × Nat
  | [] => ([], 0)
  | t :: ts =>
    let r := exitLeaf ((nodes.drop t.firstNode).take t.nNodes) code
    let rest := leafPicks par nodes leaves code o ts
    (lget 0 leaves (t.leafBase + r.1 * par.nOut + o) :: rest.1, rest.2 + b2n r.2)

/-- Groups of 32 of a list, the last padded with `pad` (R294); `fuel` bounds the number of groups. -/
def groups32 (pad : Nat) : Nat → List Nat → List (List Nat)
  | 0, _ => []
  | fuel + 1, l =>
    if l.isEmpty then []
    else (l.take 32 ++ List.replicate (32 - l.length) pad) :: groups32 pad fuel (l.drop 32)

/-- The group sum of 32 exit-leaf values (R294): exact integers, or FP32 additions in the pairwise tree. -/
def groupSum (isInt : Bool) (g : List Nat) : Int :=
  if isInt then g.foldl (fun a v => a + signedOf 16 v) 0
  else ((pairwise (fpAdd 15) 6 (g.map (fun v => if v = 2 ^ 32 then 0x80000000 else fpRound 15 (fmtVal 12 v 0)))).headD 0 : Nat)

/-- The sum of one output of a share from a starting accumulator word, with the number of saturating additions (R294). -/
def shareSum (par : PealParams) (start : Nat) (picks : List Nat) : Nat × Nat :=
  let isInt := par.leafFmt == 11
  let gs := groups32 (if isInt then 0 else 2 ^ 32) (picks.length + 1) picks
  gs.foldl (fun a g =>
    if isInt then
      let r := sat32 (s32 a.1 + groupSum true g)
      (wrapInt 32 r.1, a.2 + b2n r.2)
    else (fpAdd 15 a.1 (groupSum false g).toNat, a.2)) (start, 0)

/-- The zero of the shares other than share 0 (R294): INT32 0 or FP32 −0. -/
def shareZero (par : PealParams) : Nat := if par.leafFmt = 11 then 0 else 0x80000000

/-- All output sums of one share, with the counts of empty masks and of saturating additions. -/
def shareSums (par : PealParams) (first : Bool) (trees : List PealTree) (nodes : List PealNode) (leaves : List Nat)
    (code : Nat → Nat) : List Nat × Nat × Nat :=
  let outs := (List.range par.nOut).map (fun o =>
    shareSum par (if first then lget 0 par.base o else shareZero par) (leafPicks par nodes leaves code o trees).1)
  (outs.map (·.1), (leafPicks par nodes leaves code 0 trees).2, (outs.map (·.2)).sum)

/-- The real input of a link function (R296). -/
def linkInput (par : PealParams) (sum : Nat) : Nat :=
  if par.leafFmt = 11 then fp32OfInt (s32 sum) par.leafScale else sum

/-- Whether an FP32 code is NaN. -/
def isNan32 (c : Nat) : Bool := fmtVal 15 c 0 == .nan

/-- The softmax of Table 9.3 over FP32 codes. -/
def softmax (x : List Nat) : List Nat :=
  if x.any isNan32 then x.map (fun _ => canonNan 15)
  else
    let m := x.foldl (fun m v => if vLt (fmtVal 15 m 0) (fmtVal 15 v 0) then v else m) (x.headD 0)
    let neg (c : Nat) : Nat := fpRound 15 (vNeg (fmtVal 15 c 0))
    let e := x.map (fun v => transFn .exp (fpAdd 15 v (neg m)))
    let s := e.tail.foldl (fpAdd 15) (e.headD 0)
    let r := transFn .rcp s
    e.map (fun v => fpMul 15 v r)

/-- The piecewise-linear link (R297): the segment is the number of breakpoints b_1 … that are at most x. -/
def pwlLink (tab : List (Nat × Nat × Nat)) (x : Nat) : Nat :=
  if isNan32 x then canonNan 15
  else
    let k := (tab.tail.filter (fun b => !vLt (fmtVal 15 x 0) (fmtVal 15 b.1 0))).length
    let s := lget (0, 0, 0) tab k
    fpFma 15 s.2.1 x s.2.2

/-- The link function applied to a model's sums (R296). -/
def linkOut (par : PealParams) (sums : List Nat) : List Nat :=
  match par.link with
  | 0 => sums
  | 1 => sums.map (fun v => transFn .logistic (linkInput par v))
  | 2 => softmax (sums.map (linkInput par))
  | 3 => sums.map (fun v => transFn .exp (linkInput par v))
  | _ => sums.map (fun v => pwlLink par.pwl (linkInput par v))

/-- Whether the outputs of a model are INT32 (Table 9.3). -/
def intOutputs (par : PealParams) : Bool := par.leafFmt == 11 && par.link == 0

/-- Whether output word `y` is below threshold `t` in the model's output format; a NaN is below nothing (R131). -/
def outBelow (par : PealParams) (y t : Nat) : Bool :=
  if intOutputs par then decide (s32 y < s32 t) else vLt (fmtVal 15 y 0) (fmtVal 15 t 0)

/-- The band of output 0 (R131). -/
def bandOf (m : EdgeModel) (y : Nat) : Nat :=
  if !intOutputs m.par && isNan32 y then 3
  else if outBelow m.par y m.t1 then 0 else if outBelow m.par y m.t2 then 1 else if outBelow m.par y m.t3 then 2 else 3

/-- The 16-bit score of an express model (R132). -/
def scoreOf (par : PealParams) (y : Nat) : Nat :=
  if intOutputs par then (packInt 11 (s32 y)).1 else (convert 13 0 (fmtVal 15 y 0) 0 none).code

/-- What an edge Peal unit gives for a frame: band action and queue, score, output 0, and the events it counts. -/
structure Express where
  band : Band := {}
  score : Nat := 0
  out : Nat := 0
  absent : Bool := false
  empties : Nat := 0
  sats : Nat := 0
  deriving DecidableEq, Repr

/-- Evaluation of an express model on a frame's feature codes (R128 to R132). -/
def expressEval (m : EdgeModel) (code : Nat → Nat) : Express :=
  if m.present then
    let r := shareSums m.par true m.trees m.nodes m.leaves code
    let y := (linkOut m.par r.1).headD 0
    { band := lget {} m.bands (bandOf m y), score := scoreOf m.par y, out := y, empties := r.2.1, sats := r.2.2 }
  else { absent := true }

end Sys2Proof.Machine
end

