-- ==== Sys2Proof/Machine/Verdict.lean ====
section
/-! DEFINITION. The verdict path (04_verdict_path): match and release, the feature space, express and deep verdicts, their
precedence, shims, verdict frames and host records, deadlines and results. -/

namespace Sys2Proof.Machine

/-- A field of a frame's action word (Table 3.3). -/
def act (f : Frame) (lo w : Nat) : Nat := bitsOf f.action lo w

/-- The order-preserving code of a count (R134). -/
def lg16 (x : Nat) : Nat :=
  if x = 0 then 0
  else
    let p := x.log2
    let m := if 10 ≤ p then x / 2 ^ (p - 10) % 1024 else x * 2 ^ (10 - p) % 1024
    (p + 1) * 1024 + m

/-- Two bytes of a list as a big-endian word, bytes beyond it reading 0. -/
def wordAt (l : List Byte) (a : Nat) : Nat := (lget 0 l a).toNat * 256 + (lget 0 l (a + 1)).toNat

/-- The verdict feature space (Table 4.5). -/
def feature (f : Frame) (k : Nat) : Nat :=
  let fld (i : Nat) : Nat := match tget none f.fields i with | some v => v.toNat | none => 0
  let tracked := f.flowUse == .tracked || f.flowUse == .learnedHere
  let fl (v : Nat) : Nat := if tracked then v else 0
  if k < 64 then fld k % 65536
  else if k < 128 then fld (k - 64) / 65536
  else if k = 128 then fl (lg16 f.flow.packets)
  else if k = 129 then fl (lg16 f.flow.bytes)
  else if k < 138 then fl (lget 0 f.flow.hist (k - 130))
  else if k = 138 then fl f.flow.iatEwma
  else if k = 139 then fl f.flow.iatDev
  else if k = 140 then fl f.flow.flags
  else if k = 141 then fl (lg16 ((f.flow.lastSeen + 2 ^ 32 - f.flow.firstSeen) % 2 ^ 32))
  else if k = 142 then fl f.flowIat
  else if k = 144 then lenOf f % 65536
  else if k = 145 then f.bp
  else if k = 146 then act f 104 16
  else if k = 147 then act f 120 8
  else if k = 148 then (match f.flowUse with | .tracked => 0 | .learnedHere => 1 | .untracked => 2 | .noLearn => 3)
  else if k = 149 then b2n f.exceed.isSome
  else if k = 150 then f.tag
  else if 152 ≤ k ∧ k < 184 then wordAt (keyBytes f.key) (2 * (k - 152))
  else if 184 ≤ k ∧ k < 440 then wordAt (f.bytes.take f.depth) (2 * (k - 184))
  else 0

/-! ## Leaving the pipeline -/

/-- The queue of a frame at egress port `e` (R161). -/
def chooseQueue (d : Dev) (f : Frame) (e : Nat) : Nat :=
  match f.vqueue with
  | some q => q
  | none =>
    if act f 13 1 = 1 then act f 9 4
    else match f.exceed with
      | some q => q
      | none => regFld d (rPrioMap e) (4 * prioOf f) 4

/-- The breakout port a rule names for egress. -/
def egressOf (f : Frame) : Nat := 4 * act f 2 5 + act f 7 2

/-- The verdict shim (Table 4.9). -/
def shimBytes (f : Frame) (q : Nat) : List Byte := toBe 2 0x88B6 ++ verdictBytes f q

/-- Whether shim_en, as stamped, is set for egress breakout port `e` (R148, R154). -/
def shimOn (f : Frame) (e : Nat) : Bool := bitOf (lget 0 f.vcfg (e / 32)) (e % 32)

/-- Offer an item to an egress queue of the frame's own die, or send it to the egress die in class FRAME (R36, R170). -/
def sendEgress (fromDie e q : Nat) (it : EItem) (d : Dev) : Dev :=
  if e / 32 = fromDie then
    let r := enqueue e q it true d
    countRefused r.1 e q r.2
  else onEdge (fun g => { g with interDie := g.interDie ++ [(fromDie, e, q, it)] }) d

/-- Forward a frame to the port its rule names (R97, R126, R148, R149, R160). -/
def forwardFrame (fid : Nat) (held : Bool) (d : Dev) : Dev :=
  let f := frameOf d fid
  let e := egressOf f
  let q := chooseQueue d f e
  let base := if f.edited.isEmpty then f.bytes else f.edited
  let grown : Nat := base.length + 4 + (if f.ended then 0 else f.len - 4 - f.bytes.length)
  let want := shimOn f e
  let shim := want && decide (grown + 16 ≤ maxFrameOf d (e / 4))
  let d := when (want && !shim) (bump .shimSkip e 0) d
  let bytes := if shim then base.take 12 ++ shimBytes f q ++ base.drop 12 else base
  let it : EItem := {
    src := some fid, bytes, len := if f.ended then bytes.length + 4 else 0
    cells := if f.ended then cellsOf (bytes.length + 4) else cellsOf (maxFrameOf d (f.bp / 4))
    inBp := f.bp, prio := prioOf f, whole := f.ended
    storeFwd := held || decide (rateOf d f.bp < rateOf d e), epoch := f.epoch, rest := f.bytes.length }
  let d := modFrame fid (fun f => { f with stage := .queued }) d
  gcFrame fid (sendEgress (f.bp / 32) e q it d)

/-- The verdict frame of a lookaside frame (Table 4.10). -/
def verdictFrame (d : Dev) (f : Frame) (disp q : Nat) : List Byte :=
  let off := min (lget 0 f.vcfg 7 % 512) 504
  padTo 6 (f.bytes.drop 6) ++ toBe 6 (macOf d f.bp) ++ toBe 2 0x88B5
    ++ toBe 1 (0x10 + f.source) ++ toBe 1 disp ++ toBe 1 (q % 16)
    ++ toBe 1 (b2n (f.flowUse == .untracked) + 2 * b2n f.exceed.isSome + 4 * b2n (f.flowUse == .learnedHere))
    ++ toBe 2 f.score ++ toBe 3 (act f 104 24) ++ toBe 1 f.tag ++ padTo 8 ((f.bytes.drop off).take 8)
    ++ toBe 8 f.rxBeat ++ toBe 4 (min (f.resolveBeat - f.rxBeat) (2 ^ 32 - 1)) ++ zeroBytes 16

/-- Send the verdict frame of a lookaside frame from its own breakout port (R150). -/
def sendVerdictFrame (fid disp : Nat) (d : Dev) : Dev :=
  let f := frameOf d fid
  let vq := bitsOf (lget 0 f.vcfg 7) 9 4
  let q := chooseQueue d f (egressOf f)
  let it : EItem := { bytes := verdictFrame d f disp q, len := 64, cells := 1, inBp := f.bp, epoch := f.epoch }
  let r := enqueue f.bp vq it false (bump .verdictFrames f.bp 0 d)
  countRefused r.1 f.bp vq r.2

/-- The cause of a SLOW verdict of any source (R91, R121). -/
def slowCauseOf (f : Frame) : Nat :=
  match f.ref with
  | .miss _ => 0x10
  | _ =>
    let c := act f 96 8
    if 0x20 ≤ c ∧ c ≤ 0x3F then c else 0x20

/-- The partition whose rule settled the frame: the owner of its logical table. -/
def framePart (d : Dev) (f : Frame) : Option Nat := tableOwner d (f.bp / 32) (f.hint.getD 0)

/-- The frame's outcome takes effect (R119, R121, R148 to R152): disposition 0 FORWARD, 1 DROP, 2 SLOW, with its source and,
for FORWARD, whether the frame was held for a deep verdict; `echo` allows a verdict frame. -/
def decide_ (fid disp source : Nat) (vq : Option Nat) (score : Nat) (outputs : List Nat) (held echo : Bool) (d : Dev) : Dev :=
  let d := modFrame fid (fun f => { f with source, vqueue := vq, score, outputs, resolveBeat := beat d }) d
  let f := frameOf d fid
  let look := modeOf d f.bp == 1
  let q := chooseQueue d f (egressOf f)
  let d := when (look && echo) (sendVerdictFrame fid disp) d
  if disp = 2 then toSlowPath fid (slowCauseOf f) (verdictBytes f q) outputs d
  else if disp = 1 then
    gcFrame fid (modFrame fid (fun f => { f with stage := .queued }) (bump .verdictDrop (f.bp / 32) source d))
  else if look then gcFrame fid (modFrame fid (fun f => { f with stage := .queued }) d)
  else if modeOf d f.bp = 2 then
    let fn := ((framePart d f).bind (partFn d)).getD 0
    let i : SlowItem := { cls := 8, cause := 0, toHost := true, fn, ring := q, verdict := verdictBytes f q, outputs }
    gcFrame fid (modFrame fid (fun f => { f with stage := .queued }) (deliverOrHold fid i d))
  else forwardFrame fid held d

/-! ## Deep requests -/

/-- A request-table entry. -/
def deepOf (d : Dev) (die r : Nat) : DeepReq := tget {} d.edge.deep (65536 * die + r)

/-- The device with a request-table entry changed. -/
def modDeep (die r : Nat) (f : DeepReq → DeepReq) : Dev → Dev :=
  onEdge (fun e => { e with deep := tmod {} e.deep (65536 * die + r) f })

/-- The requests waiting in a die's dispatch FIFO, oldest first. -/
def fifoOf (d : Dev) (die : Nat) : List Nat := tget [] d.edge.deepFifo die

/-- The device with a die's dispatch FIFO changed. -/
def modFifo (die : Nat) (f : List Nat → List Nat) : Dev → Dev :=
  onEdge (fun e => { e with deepFifo := tmod [] e.deepFifo die f })

/-- Bytes held on a die for deep verdicts (R141). -/
def heldDeep (d : Dev) (die : Nat) : Nat :=
  ((d.edge.deep.filter (fun e => e.1 / 65536 == die && e.2.used)).map (fun e => e.2.held)).sum

/-- The causes of Table 4.8 and R144 as sub-indices of deep_default. -/
inductive DeepCause where
  | noContext | tableFull | holdFull | fifoFull | deadline | result
  deriving DecidableEq, Repr

/-- The sub-index of a cause. -/
def DeepCause.code : DeepCause → Nat
  | .noContext => 0 | .tableFull => 1 | .holdFull => 2 | .fifoFull => 3 | .deadline => 4 | .result => 5

/-- A frame receives its rule's deadline_action, counted in one cause of deep_default (R141 to R144, R151). -/
def deepDefault (fid : Nat) (c : DeepCause) (held : Bool) (d : Dev) : Dev :=
  let f := frameOf d fid
  let echo := c != .deadline || bitOf (lget 0 f.vcfg 7) 13
  decide_ fid (act f 20 2) 3 none 0 [] held echo (bump .deepDefault (f.bp / 32) c.code d)

/-- The lowest free request-table entry of a die. -/
def freeReq (d : Dev) (die : Nat) : Option Nat :=
  if 65536 ≤ tcount (fun k r => k / 65536 == die && r.used) d.edge.deep then none
  else (List.range 65536).find? (fun r => !(deepOf d die r).used)

/-- The deadline instant of a frame (R143). -/
def deadlineOf (f : Frame) (mode : Nat) : Nat :=
  let ns := act f 76 20
  f.rxBeat + (if ns ≠ 0 then ns else if mode = 1 then lget 0 f.vcfg 4 else lget 0 f.vcfg 5)

/-- The label code of a feedback context, MAP or BLOCK (R366). -/
def labelOf (f : Frame) (p : ReqPlan) (fb : Option FbSpec) : Nat :=
  match fb with
  | none => 0
  | some s => if p.block then wordAt f.bytes s.labelIdx else feature f s.labelIdx

/-- The features of a request plan for a frame (R135): a BLOCK word is read from the frame's bytes. -/
def planFeats (f : Frame) (p : ReqPlan) : List Nat :=
  if p.block then (List.range p.n).map (fun k => wordAt f.bytes (p.o + 2 * k)) else p.idx.map (feature f)

/-- Frame bytes that must have arrived before a request is issued (R135, R366). -/
def planNeeds (p : ReqPlan) (fb : Option FbSpec) : Nat :=
  if p.block then max (p.o + 2 * p.n) (match fb with | some s => s.labelIdx + 2 | none => 0) else 0

/-- Dispatch of a deep request for a frame (R120, R135, R141): refused at once, or placed in the request table and FIFO. -/
def deepRequest (fid : Nat) (exprOut : Nat) (d : Dev) : Dev :=
  let f := frameOf d fid
  let die := f.bp / 32
  let look := modeOf d f.bp == 1
  let c := act f 64 12
  let cx := ctxOf d c
  let v := ctxVer d c f.tag
  let held := if look then 0 else lenOf f
  match v.plan with
  | none => deepDefault fid .noContext false d
  | some p =>
    if ¬ cx.exist ∨ cx.destroying ∨ ¬ v.present ∨ framePart d f ≠ some cx.owner then deepDefault fid .noContext false d
    else match freeReq d die with
      | none => deepDefault fid .tableFull false d
      | some r =>
        if ¬ look ∧ min (lget 0 f.vcfg 6) 64 * 1048576 < heldDeep d die + held then deepDefault fid .holdFull false d
        else if 1024 ≤ (fifoOf d die).length then deepDefault fid .fifoFull false d
        else
          let q : DeepReq := {
            used := true, frame := some fid, context := c, epoch := f.epoch, tag := f.tag
            deadline := deadlineOf f (modeOf d f.bp), defaultAct := act f 20 2, held
            feats := if p.block then [] else planFeats f p, needBytes := planNeeds p v.fb
            flowTag := f.flowTag, exprOut, userTag := act f 104 24, rxTime := f.rxBeat, label := labelOf f p v.fb }
          let d := modDeep die r (fun _ => q) (modFifo die (· ++ [r]) d)
          modFrame fid (fun f => { f with stage := .deepWait, deepReq := some r }) d

/-! ## Resolution -/

/-- Verdict resolution of a frame after its flow stage (Table 4.1, rows 3 to 6). -/
def resolveFrame (fid : Nat) (d : Dev) : Dev :=
  let f := frameOf d fid
  let die := f.bp / 32
  if f.ended ∧ f.bad then dropFrame fid d
  else if act f 0 2 ≠ 0 then decide_ fid (act f 0 2) 0 none 0 [] false true d
  else if act f 18 1 = 1 then
    let x := expressEval (tget {} (tget [] d.edge.peal (3 * die + f.tag)) (act f 52 8)) (feature f)
    let d := when x.absent (bump .expressAbsent die 0) d
    let d := bumpN .expressSumSat die 0 x.sats (bumpN .expressMaskEmpty die 0 x.empties d)
    if x.band.action = 4 ∧ act f 19 1 = 1 then deepRequest fid x.out d
    else if 1 ≤ x.band.action ∧ x.band.action ≤ 3 then
      decide_ fid (x.band.action - 1) 1 (if x.band.queueSet then some x.band.queue else none) x.score [] false true d
    else decide_ fid 0 0 none 0 [] false true d
  else if act f 19 1 = 1 then deepRequest fid 0 d
  else decide_ fid 0 0 none 0 [] false true d

/-- The hit counters of a committed frame (R118). -/
def countHit (f : Frame) (d : Dev) : Dev :=
  match f.ref with
  | .slot k => bumpN .ruleHitBytes k 0 (lenOf f) (bump .ruleHitPkts k 0 d)
  | _ => d

/-- A frame that has read its flow state goes on to resolution, committing first where its last byte is already good. -/
def afterFlow (fid : Nat) (d : Dev) : Dev :=
  let f := frameOf d fid
  let d := when (f.ended && !f.bad) (flowCommit fid true) d
  resolveFrame fid d

/-- Mirror copies of a frame as received (R95, R100). -/
def mirrorFrame (fid : Nat) (d : Dev) : Dev :=
  let f := frameOf d fid
  let die := f.bp / 32
  let id := act f 22 6
  let m := tget {} d.edge.mirrors (64 * die + id)
  if id = 0 ∨ ¬ m.configured then d
  else if m.dest = 1 then slowSend fid 0x13 [] [] m.trunc d
  else
    let e := 4 * (m.port % 32) + m.port / 32 % 4
    let cut (l : List Byte) : List Byte := if m.trunc ≠ 0 ∧ m.trunc < lenOf f then l.take (m.trunc - 4) else l
    let whole := f.ended || (m.trunc != 0 && decide (m.trunc < lenOf f) && decide (m.trunc - 4 ≤ f.bytes.length))
    let it : EItem := {
      src := some fid, bytes := cut f.bytes, len := if whole then (cut f.bytes).length + 4 else 0
      cells := if whole then cellsOf ((cut f.bytes).length + 4) else cellsOf (maxFrameOf d (f.bp / 4))
      inBp := f.bp, prio := prioOf f, whole, storeFwd := decide (rateOf d f.bp < rateOf d e)
      epoch := f.epoch, mirror := 64 * die + id, rest := f.bytes.length, cut := m.trunc }
    if e / 32 = die then
      let r := enqueue e m.queue it true d
      if r.1 = .done then r.2 else bump .mirrorDrop (64 * die + id) 0 (countRefused r.1 e m.queue r.2)
    else onEdge (fun g => { g with interDie := g.interDie ++ [(die, e, m.queue, it)] }) d

/-- The match stage of a released frame: rule lookup, meter, mirror, header edits, flow stage (R82, R91, R95, R97). -/
def matchFrame (fid : Nat) (d : Dev) : Dev :=
  let f0 := frameOf d fid
  let die := f0.bp / 32
  let table := f0.hint.getD 0
  let key := keyBytes f0.key
  let away := tableAway d die table
  let hit := if away then none else ruleFind d die table key f0.epoch
  let ref := match hit with | some k => RuleRef.slot k | none => RuleRef.miss table
  let action := match hit with | some k => (ruleAt d k).action | none => if away then 2 else missAction d die table f0.epoch
  let d := modFrame fid (fun f => { f with ref, action }) d
  let d := when hit.isNone (bump .ruleMiss (16 * die + table) 0) d
  let f := frameOf d fid
  let d := when (f.ended && !f.bad) (countHit f) d
  let m := meterFrame die (act f 28 12) (lenOf f) d
  match m.1 with
  | .drop => gcFrame fid (modFrame fid (fun f => { f with stage := .queued }) m.2)
  | r =>
    let d := modFrame fid (fun f => { f with exceed := match r with | .moved q => some q | _ => none }) m.2
    let d := mirrorFrame fid d
    let f := frameOf d fid
    let eid := act f 40 12
    let edited : Option (List Byte) :=
      if eid = 0 ∨ modeOf d f.bp = 1 then some []
      else match tget [] (bankFor d f).edits eid with
        | [] => none
        | prog => applyEdits prog (act f 128 64) f.hdrs f.depth (lenOf f) (maxFrameOf d (egressOf f / 4)) f.bytes
    match edited with
    | none => toSlowPath fid 0x11 (verdictBytes f 0) [] (bump .editFail die 0 d)
    | some bs =>
      let d := modFrame fid (fun f => { f with edited := bs }) d
      match flowStage fid d with
      | (.waits, d) => modFrame fid (fun f => { f with stage := .flowWait }) d
      | (.goOn, d) => afterFlow fid d

/-- MATCH_RELEASE (R77): the oldest frame of a breakout port, once parsed and its header window full, goes to match; a frame
already known bad is dropped. -/
def matchRelease (bp : Nat) (d : Dev) : Dev :=
  match (bpOf d bp).order with
  | [] => d
  | fid :: _ =>
    let f := frameOf d fid
    if f.stage = .parsed ∧ (f.ended ∨ min f.depth (f.len - 4) ≤ f.bytes.length) then
      if f.ended ∧ f.bad then dropFrame fid d
      else matchFrame fid (modBp bp (fun b => { b with order := b.order.erase fid }) d)
    else d

/-! ## Answers, results and deadlines -/

/-- The frames of a returned miss read the entry in arrival order and go on (R108, R109). -/
def missFrames (k : Option Nat) : List Nat → Bool → Dev → Dev
  | [], _, d => d
  | fid :: t, first, d =>
    let f := frameOf d fid
    let d :=
      if f.stage ≠ .flowWait then d
      else match k with
        | some w => afterFlow fid (flowRead fid w first d)
        | none => afterFlow fid (flowUntrack fid .flowUntracked d)
    missFrames k t false d

/-- FLOW_MISS_ANSWER (R106 to R110): the answer at the head of Si's messages returns. -/
def flowAnswer (die : Nat) (d : Dev) : Dev :=
  match backHead d die with
  | some (.answer tag entry learned) =>
    let d := backPop die d
    match missFind d die tag with
    | none => d
    | some mk =>
      let frames := (tget {} d.edge.misses mk).frames
      let d := onEdge (fun e => { e with misses := tput {} e.misses mk {} }) d
      match entry with
      | none => missFrames none frames false d
      | some e =>
        match victimWay d die tag with
        | none => missFrames none frames false d
        | some w =>
          let old := wayOf d w
          let d := when (old.entry.valid && old.dirty) (sendFlow die (.writeback old.entry)) d
          let d := onEdge (fun g => { g with fclock := g.fclock + 1 }) d
          missFrames (some w) frames learned (setWay w { entry := e, stamp := d.edge.fclock } d)
  | _ => d

/-- The hops from an edge die to a compute die (Table 1.1, R22). -/
def edgeHops (die comp : Nat) : Nat :=
  let e : Nat × Nat := lget (0, 0) [(0, 0), (0, 4), (4, 0), (4, 4)] die
  let c : Nat × Nat := lget (0, 0) [(0, 1), (0, 3), (1, 0), (1, 1), (1, 2), (1, 3), (1, 4), (2, 1), (2, 3), (3, 0), (3, 1),
    (3, 2), (3, 3), (3, 4), (4, 1), (4, 3)] comp
  (max e.1 c.1 - min e.1 c.1) + (max e.2 c.2 - min e.2 c.2)

/-- Credits of an edge die in use at a cluster (R140). -/
def creditsUsed (d : Dev) (die cl : Nat) : Nat := tget 0 d.edge.credits (4 * cl + die)

/-- Whether cluster `a` is chosen before `b` (R140): fewer hops, then lower compute-die index, then lower cluster. -/
def clusterBefore (die a b : Nat) : Bool :=
  decide (edgeHops die (a / 6) < edgeHops die (b / 6)) || (edgeHops die (a / 6) == edgeHops die (b / 6) && decide (a < b))

/-- The cluster a request of a die goes to (R140): the first by hops and index with a free credit. -/
def pickCluster (d : Dev) (die : Nat) (cls : List Nat) : Option Nat :=
  (cls.filter (fun c => decide (creditsUsed d die c < 64) && !frozenCluster d c)).foldl (fun a c => match a with
    | none => some c
    | some b => if clusterBefore die c b then some c else some b) none

/-- Scaled tokens of one request in the issue bucket: 250 M/s is one token in 4 ns (R139). -/
def issueTok : Int := 4

/-- DEEP_REQUEST_ISSUE (R139, R140, R142): the head of the dispatch FIFO is sent once its bytes are there and it holds a
token and a credit; a head whose deadline has passed is removed unsent. -/
def deepIssue (die : Nat) (d : Dev) : Dev :=
  match fifoOf d die with
  | [] => d
  | r :: rest =>
    let q := deepOf d die r
    if q.deadline < beat d then
      let d := modDeep die r (fun _ => {}) (modFifo die (fun _ => rest) d)
      match q.frame with
      | some fid => deepDefault fid .deadline true d
      | none => d
    else
      let b := tget {} d.edge.deepBk die
      let cap : Int := 256 * issueTok
      let ready : Bool := match q.frame with
        | some fid => (frameOf d fid).ended || decide (q.needBytes ≤ (frameOf d fid).bytes.length)
        | none => true
      match pickCluster d die (ctxOf d q.context).clusters with
      | none => d
      | some cl =>
        if ready = true ∧ issueTok ≤ bkLevel cap 1 (beat d) b then
          let feats := match (ctxVer d q.context q.tag).plan, q.frame with
            | some p, some fid => if p.block then planFeats (frameOf d fid) p else q.feats
            | _, _ => q.feats
          let label := match (ctxVer d q.context q.tag).plan, q.frame with
            | some p, some fid => labelOf (frameOf d fid) p (ctxVer d q.context q.tag).fb
            | _, _ => q.label
          let d := modDeep die r (fun q => { q with issued := true, cluster := cl, feats, label }) (modFifo die (fun _ => rest) d)
          let d := onEdge (fun e => { e with
            deepBk := tput {} e.deepBk die (bkTake cap 1 (beat d) issueTok b)
            credits := tmod 0 e.credits (4 * cl + die) (· + 1) }) d
          bump .deepSent die 0 d
        else d

/-- DEEP_DEADLINE (R142, R144, R151): the deadline of a request has passed with no timely OK result. -/
def deepDeadline (die r : Nat) (d : Dev) : Dev :=
  let q := deepOf d die r
  if q.used ∧ ¬ q.settled ∧ q.deadline < beat d then
    let gone := !q.issued
    let d := if gone then modDeep die r (fun _ => {}) (modFifo die (·.erase r) d)
      else modDeep die r (fun q => { q with settled := true, frame := none, held := 0 }) d
    match q.frame with
    | some fid => deepDefault fid .deadline true d
    | none => d
  else d

/-- A credit of a die returns from a cluster (R140). -/
def returnCredit (die cl : Nat) : Dev → Dev := onEdge (fun e => { e with credits := tmod 0 e.credits (4 * cl + die) (· - 1) })

/-- INFERENCE_RESULT (R137, R138, R140, R144, R145): the result of an issued request arrives. A result that the cluster
itself determined (EXPIRED, ERROR, feedback) stands in the request; otherwise the operands carry it. -/
def inferenceResult (die r status verdict score : Nat) (outputs : List Word32) (d : Dev) : Dev :=
  let q := deepOf d die r
  if ¬ q.used ∨ ¬ q.issued ∨ ¬ q.arrived then d
  else
    let a := match q.ans with | some a => a | none => (status, verdict, score, outputs.map BitVec.toNat)
    let d := returnCredit die q.cluster (modDeep die r (fun _ => {}) d)
    let v := a.2.1 % 8
    match q.frame with
    | none => bump (if q.settled then .deepLate else .deepOrphan) die 0 d
    | some fid =>
      if q.deadline < beat d then deepDefault fid .deadline true (bump .deepLate die 0 d)
      else if a.1 = 0 ∧ v ≤ 3 then
        let vq := if bitOf a.2.1 3 then some (bitsOf a.2.1 4 4) else none
        decide_ fid (v - 1) 2 vq a.2.2.1 ((a.2.2.2 ++ List.replicate 8 0).take 8) true true (bump .deepApplied die 0 d)
      else deepDefault fid .result true d

/-- RULE_SWEEP_DONE is in the epoch family; the meanings of the verdict rows follow. -/
def execMatchRelease (bp : Nat) (s : State) := run (.matchRelease bp) (matchRelease bp) s
/-- FLOW_MISS_ANSWER (R108). -/
def execFlowMissAnswer (die : Nat) (s : State) := run (.flowMissAnswer die) (flowAnswer die) s
/-- DEEP_REQUEST_ISSUE (R142). -/
def execDeepRequestIssue (die : Nat) (s : State) := run (.deepRequestIssue die) (deepIssue die) s
/-- DEEP_DEADLINE (R144). -/
def execDeepDeadline (die req : Nat) (s : State) := run (.deepDeadline die req) (deepDeadline die req) s
/-- INFERENCE_RESULT (R144, R145). -/
def execInferenceResult (die req status verdict score : Nat) (outputs : List Word32) (s : State) :=
  run (.inferenceResult die req status verdict score outputs) (inferenceResult die req status verdict score outputs) s

end Sys2Proof.Machine
end

