-- ==== Sys2Proof/Machine/Egress.lean ====
section
/-! DEFINITION. Egress (05_egress_scheduling): shapers, gates, the scheduler, transmission, sampling, and frames from other
edge dies. -/

namespace Sys2Proof.Machine

/-! ## Gates (R171 to R174) -/

/-- The gates of a breakout port. -/
def gatesOf (d : Dev) (bp : Nat) : Gates := tget {} d.edge.gates bp

/-- The device with the gates of `bp` changed. -/
def modGates (bp : Nat) (f : Gates → Gates) : Dev → Dev := onEdge (fun e => { e with gates := tmod {} e.gates bp f })

/-- The entries of a list with the durations they have in a cycle: cut at its end, the last extended to it (R171). -/
def cutEntries : Nat → List (Nat × Nat) → List (Nat × Nat)
  | _, [] => []
  | left, [(m, _)] => if left = 0 then [] else [(m, left)]
  | left, (m, i) :: t => if left = 0 then [] else (m, min i left) :: cutEntries (left - min i left) t

/-- The list in force as (mask, duration) pairs that fill its cycle. -/
def gateEntries (g : Gates) : List (Nat × Nat) :=
  cutEntries g.cycle ((List.range g.len).map (fun e =>
    let x := tget (0xFFFF, 0) g.raw e
    (x.1, max 1 x.2)))

/-- The position of time `t` in the cycle. -/
def gatePos (g : Gates) (t : Nat) : Nat := (((t : Int) - g.base) % (g.cycle : Int)).toNat

/-- The entries from position `pos` on: what remains of the current one, then the following ones. -/
def dropTime : Nat → List (Nat × Nat) → List (Nat × Nat)
  | _, [] => []
  | pos, (m, i) :: t => if pos < i then (m, i - pos) :: t else dropTime (pos - i) t

/-- Time for which queue `q` stays open from the head of a list. -/
def openRun (q : Nat) : List (Nat × Nat) → Nat
  | [] => 0
  | (m, i) :: t => if bitOf m q then i + openRun q t else 0

/-- The mask in force at time `t`. -/
def maskAt (g : Gates) (t : Nat) : Nat := ((dropTime (gatePos g t) (gateEntries g)).headD (0xFFFF, 0)).1

/-- Whether queue `q` is open in every entry. -/
def alwaysOpen (g : Gates) (q : Nat) : Bool := (gateEntries g).all (fun e => bitOf e.1 q)

/-- The time remaining at `t` before queue `q` closes, across the cycle's end; `none` where it never closes (R172). -/
def openLeft (g : Gates) (q t : Nat) : Option Nat :=
  if alwaysOpen g q then none
  else some (openRun q (dropTime (gatePos g t) (gateEntries g) ++ gateEntries g))

/-- The longest contiguous open time of a queue (R173): `none` where it never closes. -/
def longestOpen (g : Gates) (q : Nat) : Option Nat :=
  if alwaysOpen g q then none
  else
    let es := gateEntries g
    some ((List.range es.length).foldl (fun a k => max a (openRun q (es.drop k ++ es))) 0)

/-- Whether the gates of a port are in force. -/
def gateEn (d : Dev) (bp : Nat) : Bool := bitOf (regVal d (rGateCtrl bp)) 0

/-- Whether the gate of queue `q` is open now. -/
def gateOpen (d : Dev) (bp q : Nat) : Bool := !gateEn d bp || bitOf (gatesOf d bp).mask q

/-! ## Shapers (R166) -/

/-- Scaled tokens per byte in the shapers: 1 Mb/s is one scaled token per ns. -/
def shapeTok : Int := 8000

/-- Rate of a shaper register in scaled tokens per ns. -/
def shapeRate (v : Nat) : Int := ((max 1 (min (bitsOf v 0 24) 800000) : Nat) : Int)

/-- Depth of a shaper register in scaled tokens. -/
def shapeCap (v : Nat) : Int := ((max 1 (bitsOf v 24 8) * 1024 : Nat) : Int) * shapeTok

/-- Level of a queue's shaper. -/
def qShapeLevel (d : Dev) (bp q : Nat) : Int :=
  let v := regVal d (rQShape bp q)
  bkLevel (shapeCap v) (shapeRate v) (beat d) (tget {} (bpOf d bp).qBuckets q)

/-- Level of a port's shaper. -/
def pShapeLevel (d : Dev) (bp : Nat) : Int :=
  let v := regVal d (rPortShape bp)
  bkLevel (shapeCap v) (shapeRate v) (beat d) (bpOf d bp).bucket

/-- Whether the queue has a shaper. -/
def shaperEn (d : Dev) (bp q : Nat) : Bool := bitOf (regVal d (rQCfg bp q)) 4

/-- Whether both shapers of a queue hold at least 0 tokens. -/
def shaperOk (d : Dev) (bp q : Nat) : Bool :=
  decide (0 ≤ pShapeLevel d bp) && (!shaperEn d bp q || decide (0 ≤ qShapeLevel d bp q))

/-- Selecting a frame of `n` bytes takes them from the port's bucket and, where it has one, the queue's. -/
def shapeCharge (bp q n : Nat) (d : Dev) : Dev :=
  let qv := regVal d (rQShape bp q)
  let pv := regVal d (rPortShape bp)
  let now := beat d
  let en := shaperEn d bp q
  modBp bp (fun b => { b with
    bucket := bkTake (shapeCap pv) (shapeRate pv) now (n * shapeTok) b.bucket
    qBuckets := if en then tput {} b.qBuckets q (bkTake (shapeCap qv) (shapeRate qv) now (n * shapeTok) (tget {} b.qBuckets q))
      else b.qBuckets }) d

/-! ## Scheduler (R163, R164) -/

/-- The transmitted length of an item: its own once known, and the received frame's announced one before. -/
def itemLen (d : Dev) (i : EItem) : Nat :=
  if i.whole then i.len
  else match i.src with
    | some fid => (frameOf d fid).len + i.bytes.length - i.rest
    | none => i.len

/-- Whether queue `q` is paused (R168). -/
def paused (d : Dev) (bp q : Nat) : Bool := decide (beat d < tget 0 (bpOf d bp).pauseEnd q)

/-- Whether the head of queue `q` fits in its gate window (R172); a frame of unknown length is tested as max_frame. -/
def gateFits (d : Dev) (bp q : Nat) (i : EItem) : Bool :=
  if !gateEn d bp then true
  else
    let n := (if i.whole then i.len else maxFrameOf d (bp / 4)) + 20
    match openLeft (gatesOf d bp) q d.time.todNs with
    | none => true
    | some left => decide (n * 8 ≤ left * rateOf d bp)

/-- Whether queue `q` of breakout port `bp` is eligible (R126, R163). -/
def eligible (d : Dev) (bp q : Nat) : Bool :=
  match (queueOf d bp q).items with
  | [] => false
  | i :: _ => (i.whole || !i.storeFwd) && !paused d bp q && shaperOk d bp q && gateOpen d bp q && gateFits d bp q i

/-- Whether a queue is strict. -/
def isStrict (d : Dev) (bp q : Nat) : Bool := bitOf (regVal d (rQCfg bp q)) 0

/-- len(q): the transmitted length of the head plus 20 (R164). -/
def headLen (d : Dev) (bp q : Nat) : Nat :=
  match (queueOf d bp q).items with
  | [] => 0
  | i :: _ => itemLen d i + 20

/-- The DWRR pick (R164): the queue and the scheduler state after it; `fuel` bounds the rounds. -/
def dwrr (d : Dev) (bp : Nat) : Nat → Bp → Option Nat × Bp
  | 0, b => (none, b)
  | fuel + 1, b =>
    let q := b.ptr
    let next (b : Bp) : Bp := { b with ptr := (q + 1) % 16, fresh := true }
    if eligible d bp q && !isStrict d bp q then
      let b := if b.fresh then
          { b with deficit := tmod 0 b.deficit q (· + max 1 (regFld d (rQCfg bp q) 16 16) * 64), fresh := false }
        else b
      if headLen d bp q ≤ tget 0 b.deficit q then
        (some q, { b with deficit := tmod 0 b.deficit q (· - headLen d bp q) })
      else dwrr d bp fuel (next b)
    else if (queueOf d bp q).items.isEmpty then dwrr d bp fuel (next { b with deficit := tput 0 b.deficit q 0 })
    else dwrr d bp fuel (next b)

/-- A head frame that can never fit its queue's window is dropped and counted (R173); `fuel` bounds the frames tried. -/
def dropOversize (bp q : Nat) : Nat → Dev → Dev
  | 0, d => d
  | fuel + 1, d =>
    match (queueOf d bp q).items with
    | [] => d
    | i :: rest =>
      match (if gateEn d bp && i.whole then longestOpen (gatesOf d bp) q else none) with
      | none => d
      | some most =>
        if 0 < most ∧ most * rateOf d bp < (i.len + 20) * 8 then
          let d := modQueue bp q (fun e => { e with items := rest, dropped := e.dropped + 1, touched := true }) d
          let d := bump .dropGateOversize bp q d
          let d := match i.src with | some fid => gcFrame fid d | none => d
          dropOversize bp q fuel (pfcCheckBp i.inBp d)
        else d

/-! ## PTP transmit timestamps (R518, R519) -/

/-- The offset of the EtherType after at most two VLAN tags. -/
def etherAt (l : List Byte) : Nat :=
  let tag (a : Nat) : Bool := word16 l a == 0x8100 || word16 l a == 0x88A8
  if tag 12 then (if tag 16 then 20 else 16) else 12

/-- Where a frame carries a PTP event message: its offset, and the offset of the UDP checksum where it rides on UDP, with
whether that is over IPv4 (Table 16.8). -/
def ptpAt (l : List Byte) : Option (Nat × Option (Nat × Bool)) :=
  let o := etherAt l
  let t := word16 l o
  let at_ : Option (Nat × Option (Nat × Bool)) :=
    if t = 0x88F7 then some (o + 2, none)
    else if t = 0x0800 ∧ (lget 0 l (o + 2)).toNat = 0x45 ∧ (lget 0 l (o + 11)).toNat = 17 ∧ word16 l (o + 24) = 319 then
      some (o + 30, some (o + 28, true))
    else if t = 0x86DD ∧ (lget 0 l (o + 8)).toNat = 17 ∧ word16 l (o + 44) = 319 then some (o + 50, some (o + 48, false))
    else none
  match at_ with
  | some (a, c) => if a + 34 ≤ l.length ∧ (lget 0 l a).toNat % 16 ≤ 3 then some (a, c) else none
  | none => none

/-- The payload of PTP_TX_TIMESTAMP (R519). -/
def ptpPayload (d : Dev) (bp a : Nat) (l : List Byte) : List Byte :=
  toLe 1 (bp / 4 + bp % 4 * 32) ++ toLe 1 ((lget 0 l a).toNat % 16) ++ toLe 1 (lget 0 l (a + 4)).toNat ++ zeroBytes 1
    ++ toLe 2 (word16 l (a + 30)) ++ zeroBytes 2 ++ toLe 6 (d.time.todNs / 1000000000) ++ zeroBytes 2
    ++ toLe 4 (d.time.todNs % 1000000000) ++ toLe 8 (beat d) ++ zeroBytes 4

/-- The sum of the changes of the five words of the originTimestamp, for the incremental UDP checksum. -/
def stampSum (old new : List Byte) (hc : Nat) : Nat :=
  (List.range 5).foldl (fun h k => incSum h (word16 old (2 * k)) (word16 new (2 * k))) hc

/-- A Sync message rewritten one-step: its originTimestamp and UDP checksum (Table 16.8; an IPv4 checksum of 0 stays 0). -/
def oneStep (d : Dev) (l : List Byte) (a : Nat) (c : Option (Nat × Bool)) : List Byte :=
  let ts := toBe 6 (d.time.todNs / 1000000000) ++ toBe 4 (d.time.todNs % 1000000000)
  let old := (l.drop (a + 34)).take 10
  let l' := overwrite l (a + 34) ts
  match c with
  | none => l'
  | some (k, v4) =>
    let hc := word16 l k
    if v4 ∧ hc = 0 then l' else overwrite l' k (toBe 2 (stampSum old ts hc))

/-- The PTP handling of a frame whose transmission starts (R519). -/
def ptpTransmit (bp : Nat) (i : EItem) (d : Dev) : Dev :=
  match ptpAt i.bytes with
  | none => d
  | some (a, c) =>
    if tget false d.edge.oneStepEn (bp / 4) && (lget 0 i.bytes a).toNat % 16 == 0 then
      onEdge (fun e => { e with txNow := tput none e.txNow bp (some { i with bytes := oneStep d i.bytes a c }) }) d
    else if tget false d.edge.tsTxEn (bp / 4) then postEvent ((partFn d 0).getD 0) 0x10 (ptpPayload d bp a i.bytes) d
    else d

/-- Take the head of queue `q` into transmission (R166, R181). -/
def startTx (bp q : Nat) (d : Dev) : Dev :=
  match (queueOf d bp q).items with
  | [] => d
  | i :: rest =>
    let n := itemLen d i + 20
    let d := shapeCharge bp q n d
    let d := modQueue bp q (fun e => { e with items := rest, dequeued := e.dequeued + 1, touched := true
                                              sojournMax := max e.sojournMax (beat d - i.enq) }) d
    let d := onEdge (fun e => { e with txNow := tput none e.txNow bp (some i), txQueue := tput 0 e.txQueue bp q }) d
    ptpTransmit bp i d

/-- TX_SELECT (R163): when the port is up, idle and out of TX_HOLD, the strict queue with the highest number, or the DWRR
pick, starts transmission. -/
def txSelect (bp : Nat) (d : Dev) : Dev :=
  let b := bpOf d bp
  if ¬ b.link ∨ b.txHold ∨ ¬ bpEnabled d bp ∨ (txOf d bp).isSome then d
  else
    let d := (List.range 16).foldl (fun d q => dropOversize bp q ((queueOf d bp q).items.length + 1) d) d
    match ((List.range 16).filter (fun q => eligible d bp q && isStrict d bp q)).getLast? with
    | some q => startTx bp q d
    | none =>
      if (List.range 16).any (fun q => eligible d bp q) then
        match dwrr d bp 4096 (bpOf d bp) with
        | (some q, b) => startTx bp q (modBp bp (fun _ => b) d)
        | (none, _) => d
      else d

/-- TX_DONE (R159): the last byte of the frame in transmission leaves and its cells return to their region. A cut-through
frame cannot end before its own last byte has arrived. -/
def txDone (bp : Nat) (d : Dev) : Dev :=
  match txOf d bp with
  | none => d
  | some i =>
    if i.whole ∨ i.stomp then
      let d := emit (.frame bp i.bytes i.stomp) (onEdge (fun e => { e with txNow := tput none e.txNow bp none, txQueue := tput 0 e.txQueue bp 0 }) d)
      let d := bumpN .txBytes bp 0 i.len (bump .txFrames bp 0 d)
      let d := match i.src with | some fid => gcFrame fid d | none => d
      pfcCheckBp i.inBp d
    else d

/-- GATE_EDGE (R171): the gates take the mask of the list's position now. -/
def gateEdge (bp : Nat) (d : Dev) : Dev := modGates bp (fun g => { g with mask := maskAt g d.time.todNs }) d

/-- The gates take the position of a stepped time at once; a frame in transmission whose window has closed completes and is counted
(R175). -/
def gatesJump (d : Dev) : Dev :=
  ((List.range 128).filter (gateEn d)).foldl (fun d bp =>
    let d := gateEdge bp d
    when ((txOf d bp).isSome && !gateOpen d bp (tget 0 d.edge.txQueue bp)) (bump .gateOverrun bp 0) d) d

/-- A write of EDG_GATE_CTRL (R174): swap = 1 arms the inactive bank; while a swap is pending, list_len and swap are discarded
and swap_reject is set. -/
def gateCtrlWrite (bp val : Nat) (d : Dev) : Dev :=
  let old := regVal d (rGateCtrl bp)
  let g := gatesOf d bp
  let rej := if bitOf val 4 then 0 else bitsOf old 4 1
  if g.pending then
    let want := bitOf val 1 || bitsOf val 5 9 != bitsOf old 5 9
    setReg (rGateCtrl bp) (setBits (setBits old 0 1 (bitsOf val 0 1)) 4 1 (if want then 1 else rej)) d
  else
    let d := setReg (rGateCtrl bp) (setBits (setBits (setBits old 0 1 (bitsOf val 0 1)) 5 9 (bitsOf val 5 9)) 4 1 rej) d
    if bitOf val 1 then
      let base := regVal d (rGateBaseLo bp) + 2 ^ 32 * regVal d (rGateBaseHi bp)
      let cyc := max 1 (min (regFld d (rGateCycle bp) 0 30) 1000000000)
      let now := d.time.todNs
      modGates bp (fun g => { g with pending := true, due := if now ≤ base then base else base + ceilDiv (now - base) cyc * cyc }) d
    else d

/-- GATE_LIST_SWAP (R174): the armed bank becomes active at its instant, and the bank it replaces becomes the inactive one. -/
def gateListSwap (bp : Nat) (d : Dev) : Dev :=
  let g := gatesOf d bp
  if g.pending ∧ g.due ≤ d.time.todNs then
    let len := max 1 (min (regFld d (rGateCtrl bp) 5 9) 256)
    let raw := (List.range 256).foldl (fun t e =>
      tput (0xFFFF, 0) t e (regVal d (rGclGates bp e), regVal d (rGclInterval bp e))) []
    let g' : Gates := {
      raw, len, cycle := max 1 (min (regFld d (rGateCycle bp) 0 30) 1000000000)
      base := regVal d (rGateBaseLo bp) + 2 ^ 32 * regVal d (rGateBaseHi bp), bank := !g.bank }
    let d := (List.range 256).foldl (fun d e =>
      let x := tget (0xFFFF, 0) g.raw e
      setReg (rGclInterval bp e) x.2 (setReg (rGclGates bp e) x.1 d)) d
    let d := setReg (rGateCycle bp) g.cycle (setReg (rGateBaseLo bp) (g.base % 2 ^ 32) (setReg (rGateBaseHi bp) (g.base / 2 ^ 32) d))
    let d := setFld (rGateCtrl bp) 5 9 g.len d
    gateEdge bp (modGates bp (fun _ => g') d)
  else d

/-! ## Sampling (R181, R182) -/

/-- A sample record (Table 5.2). -/
def sampleRec (d : Dev) (bp q : Nat) : List Byte :=
  let e := queueOf d bp q
  let depth := 256 * queueCells d bp q (fun _ => true)
  toLe 1 0x31 ++ toLe 1 (bp / 4 + bp % 4 * 32) ++ toLe 1 q
    ++ toLe 1 (b2n (paused d bp q) + 2 * b2n (gateOpen d bp q) + 4 * b2n (shaperOk d bp q) + 8 * b2n (bpOf d bp).txHold)
    ++ toLe 8 (beat d) ++ toLe 4 depth ++ toLe 4 (max e.depthMax depth) ++ toLe 4 (min e.sojournMax (2 ^ 32 - 1))
    ++ toLe 4 (min e.dequeued (2 ^ 32 - 1)) ++ toLe 4 (min e.dropped (2 ^ 32 - 1))

/-- One queue's sample at the end of a period; a record beyond the die's rate is lost (R182). -/
def sampleQueue (bp q : Nat) (d : Dev) : Dev :=
  let e := queueOf d bp q
  let die := bp / 32
  if bitOf (regFld d (rSampleCfg bp) 16 16) q && (e.touched || !e.items.isEmpty) then
    let sec := beat d / 1000000000
    let c := tget (0, 0) d.edge.sampleCnt die
    let n := if c.1 = sec then c.2 else 0
    let rec_ := sampleRec d bp q
    let d := modQueue bp q (fun e => { items := e.items }) d
    if n < 16000000 then
      postRec 0 18 (.sample rec_) (onEdge (fun e => { e with sampleCnt := tput (0, 0) e.sampleCnt die (sec, n + 1) }) d)
    else bump .sampleLost die 0 d
  else modQueue bp q (fun e => { items := e.items }) d

/-- SAMPLE_PERIOD_END (R181): one record for every sampled queue that was active in the period. -/
def samplePeriodEnd (bp : Nat) (d : Dev) : Dev :=
  if regFld d (rSampleCfg bp) 0 16 = 0 then d else (List.range 16).foldl (fun d q => sampleQueue bp q d) d

/-! ## Frames from other edge dies and pause refresh -/

/-- INTER_DIE_FRAME_ARRIVE (R170): the oldest frame from one edge die to another is admitted by the first two steps of R159. -/
def interDieArrive (src dst : Nat) (d : Dev) : Dev :=
  match d.edge.interDie.find? (fun x => x.1 == src && x.2.1 / 32 == dst) with
  | none => d
  | some x =>
    let d := onEdge (fun e => { e with interDie := e.interDie.erase x }) d
    let r := enqueue x.2.1 x.2.2.1 x.2.2.2 false d
    let d := countRefused r.1 x.2.1 x.2.2.1 r.2
    let d := when (r.1 != .done && x.2.2.2.mirror != 0) (bump .mirrorDrop x.2.2.2.mirror 0) d
    match x.2.2.2.src with
    | some fid => gcFrame fid d
    | none => d

/-- PFC_REFRESH (R169): a sent XOFF is repeated while the count stays above xon. -/
def pfcRefresh (bp prio : Nat) (d : Dev) : Dev :=
  let xon := min (4 * regFld d (rPfcThresh bp) 16 16) (4 * regFld d (rPfcThresh bp) 0 16)
  if tget false d.edge.pfcX (16 * bp + prio) && decide (xon < pfcCount d bp prio) then emit (.pause bp prio true) d else d

/-- TX_SELECT (R163). -/
def execTxSelect (bp : Nat) (s : State) := run (.txSelect bp) (txSelect bp) s
/-- TX_DONE (R159). -/
def execTxDone (bp : Nat) (s : State) := run (.txDone bp) (txDone bp) s
/-- GATE_EDGE (R171). -/
def execGateEdge (bp : Nat) (s : State) := run (.gateEdge bp) (gateEdge bp) s
/-- GATE_LIST_SWAP (R174). -/
def execGateListSwap (bp : Nat) (s : State) := run (.gateListSwap bp) (gateListSwap bp) s
/-- SAMPLE_PERIOD_END (R181). -/
def execSamplePeriodEnd (bp : Nat) (s : State) := run (.samplePeriodEnd bp) (samplePeriodEnd bp) s
/-- INTER_DIE_FRAME_ARRIVE (R170). -/
def execInterDieFrameArrive (src dst : Nat) (s : State) := run (.interDieFrameArrive src dst) (interDieArrive src dst) s
/-- PFC_REFRESH (R169). -/
def execPfcRefresh (bp prio : Nat) (s : State) := run (.pfcRefresh bp prio) (pfcRefresh bp prio) s

end Sys2Proof.Machine
end

