-- ==== Sys2Proof/Machine/StoreOps.lean ====
section
/-! DEFINITION. Access to HBM: the address map, the frame table, reads and writes with poison (R374 to R379, R387). -/

namespace Sys2Proof.Machine

/-- The device with its store part changed. -/
def onStore (f : Store → Store) (d : Dev) : Dev := { d with store := f d.store }

/-- The mode of an HBM row (R376). -/
def rowMode (d : Dev) (r : Nat) : Nat := regFld d (rRowmode r) 0 2

/-- The stack and the stack address of HBM address `x` (R376). -/
def hbmMap (d : Dev) (x : Nat) : Nat × Nat :=
  let f := x / 2 ^ 30
  let r := f / 12
  let a := x - 12 * r * 2 ^ 30
  match rowMode d r with
  | 0 => (a / 4096 % 12, r * 2 ^ 30 + a / 4096 / 12 * 4096 + a % 4096)
  | 1 =>
    let i := a / 2 ^ 30 / 3
    let b := a - 3 * i * 2 ^ 30
    (3 * i + b / 4096 % 3, r * 2 ^ 30 + b / 4096 / 3 * 4096 + b % 4096)
  | _ => (a / 2 ^ 30, r * 2 ^ 30 + a % 2 ^ 30)

/-- The store die that serves an HBM address. -/
def hbmDie (d : Dev) (x : Nat) : Nat := (hbmMap d x).1 / 3

/-- Whether every byte of an access lies in frames of the partition (R378). -/
def frameOk (d : Dev) (p x n : Nat) : Bool :=
  decide (x + n ≤ 576 * 2 ^ 30) && (partOf d p).exist
    && (List.range ((x + n - 1) / 2 ^ 30 + 1 - x / 2 ^ 30)).all (fun k => bitOf (partOf d p).frames (x / 2 ^ 30 + k))

/-- Whether some byte of an access lies in the region of a CACHEABLE table version (R383, R417). -/
def inCacheable (d : Dev) (x n : Nat) : Bool :=
  tany (fun _ v => v.kind == 1 && v.cacheable && decide (x < v.base + v.rowLen * v.nRows ∧ v.base < x + n)) d.tabVers

/-- An access refused by the frame table is counted (R378). -/
def hbmDeny (x : Nat) (d : Dev) : Dev :=
  let i := hbmDie d x
  bump .hbmDenied i 0 (setFld (rErrStatus i) 4 1 1 d)

/-- `n` bytes of HBM from address `x`. -/
def hbmBytes (d : Dev) (x n : Nat) : List Byte := tbytes d.store.hbm x n

/-- Whether a read of `n` bytes meets a poisoned burst (R387, R388). -/
def hbmBad (d : Dev) (x n : Nat) : Bool :=
  (List.range ((x + n - 1) / 64 + 1 - x / 64)).any (fun k => tget false d.store.poison (x / 64 + k))

/-- The bursts of `n` bytes from address `x` are counted for their stacks and for partition `p`, if it is one (R554). -/
def hbmCount (wr : Bool) (p x n : Nat) (d : Dev) : Dev :=
  if n = 0 then d
  else
    let k := (x + n - 1) / 64 + 1 - x / 64
    let d := (List.range k).foldl (fun d j =>
      bumpN (if wr then .hbmWrBytes else .hbmRdBytes) (hbmMap d (64 * (x / 64 + j))).1 0 64 d) d
    when (decide (p < 64)) (bumpN (if wr then .partHbmWr else .partHbmRd) p 0 (64 * k)) d

/-- HBM with `bs` written from address `x` for partition `p` (64 is firmware); a burst written whole loses its poison (R387). -/
def hbmPut (p x : Nat) (bs : List Byte) (d : Dev) : Dev :=
  let n := bs.length
  hbmCount true p x n <| onStore (fun s => { s with
    hbm := tputBytes s.hbm x bs
    poison := s.poison.filter (fun e => !decide (x ≤ e.1 * 64 ∧ e.1 * 64 + 64 ≤ x + n)) }) d

/-- What an HBM access of a partition comes to. -/
inductive HbmRes (α : Type) where
  | ok (a : α)
  | denied
  | bad

/-- A read of `n` bytes for a partition: refused outside its frames, an uncorrectable error on a poisoned burst. -/
def hbmRead (d : Dev) (p x n : Nat) : HbmRes (List Byte) :=
  if ¬ frameOk d p x n then .denied else if hbmBad d x n then .bad else .ok (hbmBytes d x n)

/-- Whether a write of `n` bytes for a partition is admitted: in its frames and in no read-only region (R378, R383). -/
def hbmWriteOk (d : Dev) (p x n : Nat) : Bool := frameOk d p x n && !inCacheable d x n

end Sys2Proof.Machine
end

