-- ==== Sys2Proof/Machine/Spad.lean ====
section
/-! DEFINITION. Scratchpads: cores, handles, the rows an access reaches and the shared memory of a tiered partition
(R218 to R235). -/

namespace Sys2Proof.Machine

/-- The device with its compute part changed. -/
def onComp (f : Compute → Compute) (d : Dev) : Dev := { d with comp := f d.comp }
/-- A core. -/
def coreOf (d : Dev) (c : Nat) : Core := tget {} d.comp.cores c
/-- The device with a core changed. -/
def modCore (c : Nat) (f : Core → Core) : Dev → Dev := onComp (fun x => { x with cores := tmod {} x.cores c f })
/-- A cluster. -/
def clusterOf (d : Dev) (cl : Nat) : Cluster := tget {} d.comp.clusters cl
/-- The device with a cluster changed. -/
def modCluster (cl : Nat) (f : Cluster → Cluster) : Dev → Dev := onComp (fun x => { x with clusters := tmod {} x.clusters cl f })
/-- An invocation. -/
def invOf (d : Dev) (i : Nat) : Inv := tget {} d.comp.invs i
/-- The device with an invocation changed. -/
def modInv (i : Nat) (f : Inv → Inv) : Dev → Dev := onComp (fun x => { x with invs := tmod {} x.invs i f })
/-- The invocation a core runs. -/
def coreInv (d : Dev) (c : Nat) : Inv := invOf d (coreOf d c).inv
/-- The partition that owns a core's cluster. -/
def corePart (d : Dev) (c : Nat) : Option Nat := clusterOwner d (c / 8)
/-- The hierarchy mode of a core's partition (R225). -/
def tiered (d : Dev) (c : Nat) : Bool := match corePart d c with | some p => (partOf d p).hier == 1 | none => false
/-- W of R232: banks of the local memory. -/
def bankW (d : Dev) (c : Nat) : Nat := if tiered d c then 10 else 12
/-- The physical row of a local row (R226, R227). -/
def physRow (d : Dev) (c q : Nat) : Nat := if tiered d c then 12 * (q / 10) + q % 10 else q

/-- A handle entry's fields (Table 7.1). -/
structure HEnt where
  valid : Bool
  resident : Bool
  readOnly : Bool
  level : Nat
  nb : Nat
  base : Nat
  rows : Nat

/-- The fields of a 64-bit handle entry. -/
def hEnt (e : Nat) : HEnt :=
  { valid := bitOf e 0, resident := bitOf e 1, readOnly := bitOf e 2, level := bitsOf e 3 2, nb := bitsOf e 5 4
    base := bitsOf e 12 21, rows := bitsOf e 33 22 }

/-- The local row of row `i` of a LOCAL handle (R232). -/
def localRow (base nb i w : Nat) : Nat := base + w * (i / nb) + i % nb

/-- Whether an entry meets the conditions of R232 on a core; others are written with valid = 0. -/
def entryOk (d : Dev) (c e : Nat) : Bool :=
  let h := hEnt e
  let w := bankW d c
  h.valid && bitsOf e 9 3 == 0 && bitsOf e 55 9 == 0 && decide (1 ≤ h.rows)
    && (if h.level = 0 then
          decide (1 ≤ h.nb ∧ h.base % w + h.nb ≤ w ∧ localRow h.base h.nb (h.rows - 1) w < 64 * w)
        else if h.level = 1 then tiered d c && decide (h.base + h.rows ≤ 16)
        else if h.level = 2 then tiered d c
          && decide (h.base + h.rows ≤ 2048 * (match corePart d c with | some p => (partOf d p).pages.length | none => 0))
        else false)

end Sys2Proof.Machine
end

