-- ==== Sys2Proof/Machine/Operands.lean ====
section
/-! DEFINITION. Scratchpad operands: the rows that a handle and an offset name for each kind of access, their bytes, and the
elements packed in them (R230 to R237, R258). -/

namespace Sys2Proof.Machine

/-- What makes an access (Table 7.2): an array with its physical number, the vector unit, the Peal engine, the DMA engine, the
sequencer port, or COPY with the physical array whose operand buffer it may reach. -/
inductive Use where
  | arr (p : Nat)
  | vec
  | peal
  | dma
  | seq
  | copy (p : Nat)
  deriving DecidableEq, Repr

/-- The physical row of the operand buffer of physical array `p` (R227). -/
def operandRow (p i : Nat) : Nat := 12 * (16 * (p % 4) + i) + (if p < 4 then 10 else 11)

/-- The physical row that row `i` of handle `h` names for an access, or none for a HANDLE_FAULT (R232, R235). -/
def rowOf (d : Dev) (c : Nat) (u : Use) (h i : Nat) (wr : Bool) : Option Nat :=
  let e := hEnt (tget 0 (coreOf d c).handles h)
  if ¬ e.valid ∨ e.rows ≤ i ∨ (wr ∧ e.readOnly) then none
  else if e.level = 0 then some (physRow d c (localRow e.base e.nb i (bankW d c)))
  else if e.level = 1 then
    match u with
    | .arr p => some (operandRow p (e.base + i))
    | .copy p => some (operandRow p (e.base + i))
    | _ => none
  else none

/-- The physical rows of the `n` bytes at an operand, or none for a HANDLE_FAULT. -/
def refRows (d : Dev) (c : Nat) (u : Use) (r : Ref) (n : Nat) (wr : Bool) : Option (List Nat) :=
  if n = 0 then some []
  else (List.range ((r.off + n - 1) / 512 + 1)).mapM (fun k => rowOf d c u r.h (r.row + k) wr)

/-- Whether the `n` bytes at an operand may be accessed. -/
def refOk (d : Dev) (c : Nat) (u : Use) (r : Ref) (n : Nat) (wr : Bool) : Bool := (refRows d c u r n wr).isSome

/-- The `n` bytes at an operand, zeros where it may not be read. -/
def refRead (d : Dev) (c : Nat) (u : Use) (r : Ref) (n : Nat) : List Byte :=
  match refRows d c u r n false with
  | some rows => ((rows.flatMap (fun p => tbytes (coreOf d c).spad (512 * p) 512)).drop r.off).take n
  | none => zeroBytes n

/-- A scratchpad with `bs` written over rows `rows` from byte `off`. -/
def writeRows (m : Tab Byte) : List Nat → Nat → List Byte → Tab Byte
  | [], _, _ => m
  | p :: ps, off, bs => writeRows (tputBytes m (512 * p + off) (bs.take (512 - off))) ps 0 (bs.drop (512 - off))

/-- The device with `bs` written at an operand. -/
def refWrite (c : Nat) (u : Use) (r : Ref) (bs : List Byte) (d : Dev) : Dev :=
  match refRows d c u r bs.length true with
  | some rows => modCore c (fun k => { k with spad := writeRows k.spad rows r.off bs }) d
  | none => d

/-- The shared row that row `i` of a SHARED handle names (R230, R232), or none for a HANDLE_FAULT. -/
def sharedRow (d : Dev) (c h i : Nat) (wr : Bool) : Option Nat :=
  let e := hEnt (tget 0 (coreOf d c).handles h)
  if ¬ e.valid ∨ e.rows ≤ i ∨ (wr ∧ e.readOnly) ∨ e.level ≠ 2 then none else some (e.base + i)

/-- The key of byte 0 of a partition's shared row in the die pools: page number × 2^20 + byte. -/
def poolKey (d : Dev) (p row : Nat) : Nat := lget 0 (partOf d p).pages (row / 2048) * 2 ^ 20 + row % 2048 * 512

/-- The codes of `n` elements of a format from the bytes at an operand (R258). -/
def unpack (f n : Nat) (bs : List Byte) : List Nat :=
  let v := leNat bs
  (List.range n).map (fun j => bitsOf v (fmtStride f * j) (fmtInfo f).bits)

/-- Bytes that `n` elements of a format take in a row (R258). -/
def packedLen (f n : Nat) : Nat := ceilDiv (n * fmtStride f) 8

/-- The bytes of a list of codes of a format (R258). -/
def packCodes (f : Nat) (cs : List Nat) : List Byte :=
  toLe (packedLen f cs.length) (cs.foldr (fun c a => c % 2 ^ (fmtInfo f).bits + 2 ^ fmtStride f * a) 0)

end Sys2Proof.Machine
end

