-- ==== Sys2Proof/Machine/Tags.lean ====
section
/-! DEFINITION. Counts that carry a layer and operator tag (R555, R561, R562), active time (R662), and named-tensor arms as a core ends
(R567). -/

namespace Sys2Proof.Machine

/-- The device with its observability changed. -/
def onObs (f : Observe → Observe) (d : Dev) : Dev := { d with obs := f d.obs }

/-- The counts of a tag-table entry, in order (R562). -/
def tagCtrs : List Ctr :=
  [.coreCycles, .arrayBusy, .vectorBusy, .pealBusy, .spadBytes, .opbufBytes, .poolBytes, .hbmBytes, .windowOutBytes]

/-- Nine counts with `n` added to count `k`. -/
def addCount (k n : Nat) (l : List Nat) : List Nat := (List.range 9).map (fun j => lget 0 l j + (if j = k then n else 0))

/-- Count `k` of a key of a cluster's tag table goes up: keys after the first 255 add to the overflow entry (R562). -/
def tagAdd (cl ctx layer op k n : Nat) (d : Dev) : Dev :=
  let t := tget [] d.obs.tags cl
  let mine (e : TagEnt) : Bool := e.ctx == ctx && e.layer == layer && e.operator == op
  if t.any mine then
    onObs (fun o => { o with tags := tput [] o.tags cl (t.map (fun e => if mine e then { e with counts := addCount k n e.counts } else e)) }) d
  else if t.length < 255 then
    onObs (fun o => { o with tags := tput [] o.tags cl (t ++ [{ ctx, layer, operator := op, counts := addCount k n [] }]) }) d
  else onObs (fun o => { o with tagsOver := tput [] o.tagsOver cl (addCount k n (tget [] o.tagsOver cl)) }) d

/-- A count at a core, attributed to the tag of the instruction that caused it (R561). -/
def coreCount (x : Ctr) (c : Nat) (tg : Nat × Nat) (n : Nat) (d : Dev) : Dev :=
  if n = 0 then d
  else
    let d := bumpN x c 0 n d
    match tagCtrs.idxOf? x with
    | some k => tagAdd (c / 8) (coreInv d c).ctx tg.1 tg.2 k n d
    | none => d

/-! ## Active time (R662) -/

/-- The cores of an invocation. -/
def invCores (i : Inv) : List Nat := ((List.range 8).filter (bitOf i.mask)).map (8 * i.cluster + ·)

/-- Whether a core stands in BAR or in SWAIT on S8–S15. -/
def standing (k : Core) : Bool :=
  match k.stall with
  | some (.bar _ _) => !k.fetchMiss
  | some (.swait _ s _) => decide (8 ≤ s) && !k.fetchMiss
  | _ => false

/-- A core has come to stand: the time from the instant at which every core of its invocation stands is not active. -/
def waitMark (c : Nat) (d : Dev) : Dev :=
  let v := coreInv d c
  if (invCores v).all (fun c => standing (coreOf d c)) then
    let now := beat d
    modInv (coreOf d c).inv (fun v => { v with waitFrom := some (v.waitFrom.getD now) }) d
  else d

/-- A core goes on. -/
def waitStop (c : Nat) (d : Dev) : Dev :=
  match (coreInv d c).waitFrom with
  | some b =>
    let now := beat d
    modInv (coreOf d c).inv (fun v => { v with wait := v.wait + (now - b), waitFrom := none }) d
  | none => d

/-- The active time of an invocation that ends now enters the last 1,000 of its context on its cluster. -/
def activeTime (v : Inv) (d : Dev) : Dev :=
  let k := 4096 * v.cluster + v.ctx
  let t := beat d - v.since - v.wait
  onObs (fun o => { o with
    evals := tmod [] o.evals k (fun l => (t :: l).take 1000), evalN := tmod 0 o.evalN k (· + 1) }) d

/-! ## Named-tensor dumps (R567) -/

/-- The rows of a handle on a core, at whatever level it names. -/
def handleRows (d : Dev) (c h : Nat) : List Byte :=
  let e := hEnt (tget 0 (coreOf d c).handles h)
  (List.range e.rows).flatMap (fun i =>
    match e.level with
    | 0 => tbytes (coreOf d c).spad (512 * physRow d c (localRow e.base e.nb i (bankW d c))) 512
    | 1 => (List.range 8).flatMap (fun p => tbytes (coreOf d c).spad (512 * operandRow p (e.base + i)) 512)
    | _ => tbytes d.comp.pool (poolKey d ((corePart d c).getD 64) (e.base + i)) 512)

/-- A core that ends is copied for every arm that awaits its invocation and whose handle is valid on it. -/
def armCapture (c : Nat) (d : Dev) : Dev :=
  let v := coreInv d c
  let now := beat d
  let take (a : Arm) : Arm :=
    let e := hEnt (tget 0 (coreOf d c).handles a.handle)
    if a.ctx = v.ctx ∧ a.step = v.step ∧ v.mask ≠ 0 ∧ ¬ a.done ∧ e.valid then
      { a with
        cores := (a.cores.filter (fun x => decide (x.1 < c))) ++ [(c, now, handleRows d c a.handle)] ++ a.cores.filter (fun x => decide (c < x.1))
        level := e.level }
    else a
  onObs (fun o => { o with arms := o.arms.map take }) d

/-- Invocation `v` has ended: an arm that awaited it is done once no core of its launch runs on. -/
def armsDone (v : Inv) (ok : Bool) (d : Dev) : Dev :=
  if d.comp.invs.any (fun e => e.2.ctx == v.ctx && e.2.step == v.step) then d
  else
    let now := beat d
    onObs (fun o => { o with arms := o.arms.map (fun a =>
      if a.ctx = v.ctx ∧ a.step = v.step ∧ ¬ a.done then
        { a with done := true, faulted := !ok, beat := now, image := ((ctxVer d v.ctx v.tag).image.drop 32).take 16 }
      else a) }) d

/-- Whether an arm still holds a core for its copy. -/
def armHolds (d : Dev) (c : Nat) : Bool := d.obs.arms.any (fun a => cmdLive d a.tkt && a.cores.any (fun x => x.1 == c))

/-! ## The sync trace (R566) -/

/-- A wait that has reached its grant is recorded if it lasted sync_min_cycles: type, object, waiter (8 the controller), the
signaller and whether its signal came from afar, the count awaited, since when, and the waiter's core. -/
def syncTrace (cl kind obj waiter sig : Nat) (far : Bool) (n since : Nat) (d : Dev) : Dev :=
  let wait := (beat d - since) * clockMHz d cl / 1000
  if wait < max 1 (regFld d rSyncCfg 0 16) then d
  else
    let k := coreOf d (8 * cl + waiter)
    let own := decide (waiter < 8)
    let seq := tget 0 d.obs.traceSeq cl
    let r : SyncRec := {
      kind, obj, waiter, flags := b2n far, signaller := sig, n, time := beat d, wait := min wait (2 ^ 32 - 1)
      layer := if own then k.layer else 0, operator := if own then k.operator else 0
      ctx := if own then (invOf d k.inv).ctx else 0, cluster := cl, seq }
    let l := tget [] d.obs.trace cl ++ [r]
    onObs (fun o => { o with trace := tput [] o.trace cl (l.drop (l.length - 1024)), traceSeq := tput 0 o.traceSeq cl ((seq + 1) % 2 ^ 32) }) d

end Sys2Proof.Machine
end

