-- ==== Sys2Proof/Machine/Tabla.lean ====
section
/-! DEFINITION. Running a core: fetch, program order, tokens, DMA transfers, core faults and the end of an invocation
(R186 to R190, R212, R230, R234, R266). -/

namespace Sys2Proof.Machine

/-- Core fault causes (Table 6.8). -/
inductive Cause where
  | illegalInstr | fetchRange | formatMismatch | accRange | arrayAbsent | handleFault | tokenRange | remoteDenied | window
  | uncorrectable
  deriving DecidableEq, Repr

/-- The code of a cause. -/
def Cause.code : Cause → Nat
  | .illegalInstr => 1 | .fetchRange => 2 | .formatMismatch => 3 | .accRange => 4 | .arrayAbsent => 5 | .handleFault => 6
  | .tokenRange => 7 | .remoteDenied => 8 | .window => 9 | .uncorrectable => 10

/-- The completion status of a cause. -/
def Cause.status : Cause → Status
  | .remoteDenied => .accessDenied
  | .window => .windowFault
  | .uncorrectable => .dataError
  | _ => .invalidField

/-! ## DMA transfers -/

/-- What a DMA transfer comes to: done, refused outside the partition's frames or windows, or met an uncorrectable error. -/
inductive DmaRes where
  | done (d : Dev)
  | denied (x : Option Nat)
  | bad

/-- The function whose requests a core's host transfers are (R443). -/
def coreFn (d : Dev) (c : Nat) : Nat := ((corePart d c).bind (partFn d)).getD 0

/-- Read of `n` bytes from the far side of a transfer: space 0 die pool, 1 HBM, 2 host. -/
def farRead (d : Dev) (c space addr : Nat) (sh : Ref) (n : Nat) : HbmRes (List Byte) :=
  let p := (corePart d c).getD 64
  match space with
  | 0 => .ok ((List.range (ceilDiv n 512)).flatMap (fun k =>
      match sharedRow d c sh.h (sh.row + k) false with
      | some s => tbytes d.comp.pool (poolKey d p s) (min 512 (n - 512 * k))
      | none => []))
  | 1 => hbmRead d p addr n
  | _ => if dmaOk d (coreFn d c) addr n false then .ok (hostRead d (coreFn d c / 64) addr n) else .denied

/-- Write of `bs` to the far side of a transfer; HBM and host memory count their own. -/
def farWrite (c space addr : Nat) (sh : Ref) (bs : List Byte) (d : Dev) : Option Dev :=
  let p := (corePart d c).getD 64
  match space with
  | 0 => some ((List.range (ceilDiv bs.length 512)).foldl (fun d k =>
      match sharedRow d c sh.h (sh.row + k) true with
      | some s => onComp (fun x => { x with pool := tputBytes x.pool (poolKey d p s) ((bs.drop (512 * k)).take 512) }) d
      | none => d) d)
  | 1 => if hbmWriteOk d p addr bs.length then some (hbmPut p addr bs d) else none
  | _ => if dmaOk d (coreFn d c) addr bs.length true then some (hostWrite (coreFn d c) addr bs d) else none

/-- `len` bytes at the far side of a transfer are counted (R554). -/
def farCount (c : Nat) (tg : Nat × Nat) (out : Bool) (space addr : Nat) (sh : Ref) (len : Nat) (d : Dev) : Dev :=
  let p := (corePart d c).getD 64
  match space with
  | 0 => (List.range (ceilDiv len 512)).foldl (fun d k =>
      match sharedRow d c sh.h (sh.row + k) false with
      | some s => bumpN (if out then .poolWrBytes else .poolRdBytes) (lget 0 (partOf d p).pages (s / 2048) / 64) 0 (min 512 (len - 512 * k)) d
      | none => d) (coreCount .poolBytes c tg len d)
  | 1 => coreCount .hbmBytes c tg len (if out then d else hbmCount false p addr len d)
  | _ => if out then d else pcieRead (coreFn d c) len d

/-- What a transfer of `len` bytes counts: its slots, and the bytes moved at the far side. -/
def dmaCount (c : Nat) (tg : Nat × Nat) (out : Bool) (x : DmaOp) (len : Nat) (d : Dev) : Dev :=
  let d := farCount c tg out x.space x.addr x.sh len (coreCount .spadBytes c tg (512 * ceilDiv len 512) d)
  match x.scale with
  | some (a, _) => farCount c tg out x.space a { x.sh with row := a } (len / 512) d
  | none => d

/-- The first `len` bytes of a transfer move, with the exponents of the rows moved whole (R266). -/
def dmaMove (c : Nat) (out : Bool) (x : DmaOp) (len : Nat) (d : Dev) : DmaRes :=
  let exps := len / 512
  let loc : Ref := { x.loc with off := 0 }
  if out then
    match farWrite c x.space x.addr x.sh (refRead d c .dma loc len) d with
    | none => .denied (if x.space = 1 then some x.addr else none)
    | some d' =>
      match x.scale with
      | none => .done d'
      | some (a, r) =>
        match farWrite c x.space a { x.sh with row := a } (refRead d' c .dma r exps) d' with
        | none => .denied (if x.space = 1 then some a else none)
        | some d'' => .done d''
  else
    match farRead d c x.space x.addr x.sh len with
    | .denied => .denied (if x.space = 1 then some x.addr else none)
    | .bad => .bad
    | .ok bs =>
      let d' := refWrite c .dma loc bs d
      match x.scale with
      | none => .done d'
      | some (a, r) =>
        match farRead d' c x.space a { x.sh with row := a } exps with
        | .denied => .denied (if x.space = 1 then some a else none)
        | .bad => .bad
        | .ok es => .done (refWrite c .dma r es d')

/-- The DMA transfer of an instruction, if it is one. -/
def dmaOf : Instr → Option (Bool × DmaOp)
  | .dmaIn _ x => some (false, x)
  | .dmaOut _ x => some (true, x)
  | _ => none

/-- The DMA transfers of a stopped core are cut at a 64-byte boundary that nothing fixes (R212, R266). -/
def dmaCut (c : Nat) (d : Dev) : Dev :=
  ((tget {} (coreOf d c).engines 10).run.filterMap (fun e => (dmaOf e.instr).map (fun x => (e, x)))).foldl (fun d y =>
    let x := y.2
    let n := fresh d 1 c % (8 * x.2.n + 1) * 64
    match dmaMove c x.1 x.2 n (freshStep d) with
    | .done d' => dmaCount c (y.1.layer, y.1.op) x.1 x.2 n d'
    | _ => freshStep d) d

/-! ## Starting and ending -/

/-- The handle table after an invocation: entries that are not resident become invalid (R234). -/
def dropHandles (h : Tab Nat) : Tab Nat := h.filter (fun e => bitOf e.2 1)

/-- A core returns to idle: queues discarded, nothing waits, non-resident handles invalid (R212, R234). -/
def idleCore (c : Nat) (d : Dev) : Dev :=
  let d := onStore (fun s => { s with gathers := tput none s.gathers c none }) (armCapture c d)
  modCore c (fun k => { k with inv := 0, engines := [], stall := none, fetchMiss := false, handles := dropHandles k.handles, winLate := [] }) d

/-- What an invocation served ends (R146, R212, R453): a RUN or RUN_TREES completes once its last invocation has ended, a step
moves on to its commit; a request holds its result's status. -/
def serveDone (v : Inv) (st : Status) (d : Dev) : Dev :=
  match v.serve with
  | .none => d
  | .cmd t =>
    let op := opcodeOf (cmdOf d t)
    if st ≠ .ok then complete t st 0 d
    else if tany (fun _ w => w.serve == v.serve) d.comp.invs then modCmd t (fun c => { c with aux := (c.aux.headD 0 + v.written) :: c.aux.tail }) d
    else if op = 0x20 ∨ op = 0x21 then complete t .ok ((cmdOf d t).aux.headD 0 + v.written) d
    else if op = 0x22 ∨ op = 0x23 then modCmd t (fun c => { c with aux := (c.aux.headD 0 + v.written) :: c.aux.tail }) d
    else modCmd t (fun c => { c with st := 2 }) d
  | .req die r =>
    if st = .ok then d
    else onEdge (fun e => { e with deep := tmod {} e.deep (65536 * die + r) (fun q =>
      if q.used then { q with ans := some (if st = .aborted then 2 else 3, 0, 0, []) } else q) }) d

/-- An invocation ends with a status: every core of it stops, DMA transfers are cut, and what it served ends. -/
def endInv (i : Nat) (st : Status) (d : Dev) : Dev :=
  let v := invOf d i
  if v.mask = 0 then d
  else
    let d := (invCores v).foldl (fun d c =>
      if (coreOf d c).inv = i then idleCore c (if st = .ok then d else dmaCut c d) else d) d
    let d := onComp (fun x => { x with invs := tdel x.invs i }) (when (st == .ok) (activeTime v) d)
    let others := (d.comp.invs.filter (fun e => e.2.serve == v.serve && e.2.serve != .none && decide (st ≠ .ok))).map (·.1)
    let d := others.foldl (fun d j =>
      let w := invOf d j
      let d := (invCores w).foldl (fun d c => if (coreOf d c).inv = j then idleCore c (dmaCut c d) else d) d
      onComp (fun x => { x with invs := tdel x.invs j }) d) d
    serveDone v st (armsDone v (st == .ok) d)

/-- CORE_FAULT (R212): the fault is recorded unless one already is, and the invocation ends with the cause's status. -/
def coreFault (c : Nat) (x : Cause) (d : Dev) : Dev :=
  let k := coreOf d c
  if k.inv = 0 then d
  else
    let d := if bitOf (regVal d (rCoreFault c)) 4 then d
      else setReg (rCoreFault c) (x.code + 16 + k.pc % 2 ^ 24 * 256) d
    endInv k.inv x.status d

/-- An invocation ends with DATA_ERROR and records no core fault (R313, R388). -/
def dataError (c : Nat) (d : Dev) : Dev := endInv (coreOf d c).inv .dataError d

/-! ## Program order -/

/-- The index after instruction `pc`, through the loops that end there (Table 6.2): start, end and passes left. -/
def loopNext (pc : Nat) : List (Nat × Nat × Nat) → Nat × List (Nat × Nat × Nat)
  | [] => (pc + 1, [])
  | (s, e, n) :: rest =>
    if pc + 1 = e then (if 1 < n then (s, (s, e, n - 1) :: rest) else loopNext pc rest) else (pc + 1, (s, e, n) :: rest)

/-- The sequencer moves past the instruction at its index. -/
def advance (c : Nat) (d : Dev) : Dev :=
  modCore c (fun k => let n := loopNext k.pc k.loops; { k with pc := n.1, loops := n.2, stall := none }) (waitStop c d)

/-- The version of a core's context that its invocation runs. -/
def coreVer (d : Dev) (c : Nat) : CtxVersion := ctxVer d (coreInv d c).ctx (coreInv d c).tag

/-- The n_instr of a core's program (R426). -/
def progLen (d : Dev) (c : Nat) : Nat := lget 0 (coreVer d c).progs (coreOf d c).prog

/-- The 64-byte line of an instruction and its set of the cache (R190): 4 instructions, 256 sets of 4 ways. -/
def lineOf (pc : Nat) : Nat := pc / 4

/-- The instant of an issue is noted (R566, R570). -/
def issued (c : Nat) (d : Dev) : Dev := let now := beat d; modCore c (fun k => { k with since := now }) d

/-- Issue of instruction `i` at a core's index (R190): nothing on a core that is idle, stalled or frozen (R571); a LOCKED fetch
outside the program faults, a CACHED fetch that misses stalls and is counted. -/
def issue (c : Nat) (i : Instr) (f : Dev → Dev) (d : Dev) : Dev :=
  let k := coreOf d c
  if k.inv = 0 ∨ k.stall.isSome ∨ frozenCluster d (c / 8) then d
  else if (coreVer d c).cached then
    let l := lineOf k.pc
    let ways := tget [] k.icache (l % 256)
    if ways.contains l then f (issued c <| modCore c (fun k => { k with icache := tput [] k.icache (l % 256) (l :: ways.erase l) }) d)
    else bump .icacheMiss c 0 (modCore c (fun k => { k with stall := some i, fetchMiss := true }) d)
  else if progLen d c ≤ k.pc then coreFault c .fetchRange d
  else f (issued c d)

/-- A scalar register's value: s0 reads 0 (Table 6.1). -/
def sreg (k : Core) (r : Nat) : Nat := if r = 0 then 0 else tget 0 k.regs r

/-- A core with 64-bit `v` written to scalar register `r`. -/
def setSreg (r v : Nat) (k : Core) : Core := if r = 0 then k else { k with regs := tput 0 k.regs r (v % 2 ^ 64) }

/-! ## Tokens -/

/-- A stalled TOK.WAIT whose token holds enough subtracts and resumes (R187); `e` is the engine that raised it, 1,023 if none did. -/
def grantToken (c e : Nat) (d : Dev) : Dev :=
  let k := coreOf d c
  match k.stall with
  | some (.tokWait _ t n) =>
    if ¬ k.fetchMiss ∧ n ≤ tget 0 k.tokens t then
      let d := syncTrace (c / 8) 3 t (c % 8) e false n k.since d
      advance c (modCore c (fun k => { k with tokens := tput 0 k.tokens t (tget 0 k.tokens t - n) }) d)
    else d
  | _ => d

/-- Engine `e` increments a token (R187): above 255 is a core fault. -/
def tokenUp (c e : Nat) (t : Option Nat) (d : Dev) : Dev :=
  match t with
  | none => d
  | some t =>
    if 255 ≤ tget 0 (coreOf d c).tokens t then coreFault c .tokenRange d
    else grantToken c e (modCore c (fun k => { k with tokens := tmod 0 k.tokens t (· + 1) }) d)

/-- Whether every engine queue of a core has drained. -/
def drained (k : Core) : Bool := k.engines.all (fun e => e.2.queue.isEmpty && e.2.run.isEmpty)

/-- A core halts (R234): it leaves its invocation, which ends once all its cores have halted. -/
def haltCore (c : Nat) (d : Dev) : Dev :=
  let k := coreOf d c
  let i := k.inv
  if ¬ k.winLate.isEmpty then coreFault c .window d
  else
    let v := invOf d i
    let left := setBits v.running (c % 8) 1 0
    let d := idleCore c d
    if left = 0 then endInv i .ok d else modInv i (fun v => { v with running := left }) d

/-- A core stalled at HALT halts once its engine queues have drained. -/
def settleHalt (c : Nat) (d : Dev) : Dev :=
  let k := coreOf d c
  match k.stall with
  | some (.halt _) => if drained k ∧ ¬ k.fetchMiss then haltCore c d else d
  | _ => d

end Sys2Proof.Machine
end

