-- ==== Sys2Proof/Machine/Convert.lean ====
section
/-! DEFINITION. Conversions with scale tensors, requantisation and the scale trackers of a core (R264 to R283). -/

namespace Sys2Proof.Machine

/-- The fields of a stream descriptor (Table 8.6). -/
structure SDesc where
  fmt : Nat
  zero : Int
  k : Nat
  fall : Nat
  npos : Nat
  persist : Bool
  window : Nat
  threshold : Nat

/-- The fields of a 64-bit stream descriptor. -/
def sDesc (x : Nat) : SDesc :=
  { fmt := bitsOf x 0 4, zero := intOfCode (bitsOf x 0 4) (bitsOf x 4 8), k := bitsOf x 12 4 + 1, fall := bitsOf x 16 4
    npos := bitsOf x 20 6 + 1, persist := bitOf x 26, window := max 1 (bitsOf x 28 16), threshold := bitsOf x 44 16 }

/-- A stream of a core. -/
def streamOf (d : Dev) (c s : Nat) : Stream := tget {} (coreOf d c).streams s

/-- The device with a stream changed. -/
def modStream (c s : Nat) (f : Stream → Stream) : Dev → Dev :=
  modCore c (fun k => { k with streams := tmod {} k.streams s f })

/-- The largest finite magnitudes of each sign of a row (R277): positive and negative. -/
def rowExtremes (vs : List FVal) : (Nat × Int) × (Nat × Int) :=
  vs.foldl (fun a v => match v with
    | .fin false m e => (magMax a.1 (m, e), a.2)
    | .fin true m e => (a.1, magMax a.2 (m, e))
    | _ => a) ((0, 0), (0, 0))

/-- The need of a row of values for a stream's target (R277). -/
def rowNeed (x : SDesc) (vs : List FVal) : Int :=
  let r := rowExtremes vs
  needOf x.fmt x.zero r.1 r.2

/-- The exponent chosen for position `p` (R278). -/
def chooseExp (x : SDesc) (s : Stream) (p : Nat) (need : Int) : Int :=
  if s.steps = 0 then need
  else
    let e := (tget [] s.hist p).foldl (fun (a : Int) (h : Nat) => max a ((h : Int) - 64)) (-64)
    let fl : Int := ((tget 64 s.last p : Nat) : Int) - 64 - x.fall
    if x.fall ≠ 0 ∧ e < fl then fl else e

/-- A stream after a row was converted with exponent `e` (R278, R282). -/
def pushNeed (x : SDesc) (need e : Int) (s : Stream) : Stream :=
  let s := { s with
    hist := tmod [] s.hist s.pos (fun h => ((need + 64).toNat :: h).take x.k)
    last := tput 64 s.last s.pos (e + 64).toNat, pos := s.pos + 1 }
  if s.pos < x.npos then s
  else
    let s := { s with pos := 0, steps := s.steps + 1, winSteps := s.winSteps + 1 }
    if s.winSteps < x.window then s else { s with winSteps := 0, win := 0, posted := false }

/-- The payload of a CALIBRATION_DRIFT event (Table 8.7). -/
def driftPayload (d : Dev) (c st : Nat) (x : SDesc) (s : Stream) : List Byte :=
  let k := coreOf d c
  toLe 2 c ++ toLe 1 st ++ toLe 1 x.fmt ++ toLe 2 (coreInv d c).ctx ++ toLe 2 k.layer ++ toLe 2 k.operator
    ++ toLe 2 x.threshold ++ toLe 4 (min s.steps (2 ^ 32 - 1)) ++ toLe 8 (beat d) ++ toLe 4 s.sat ++ zeroBytes 4

/-- One clip in a conversion that uses a stream (R282): CALIBRATION_DRIFT when the window count first exceeds T. -/
def streamClip (c st : Nat) (d : Dev) : Dev :=
  let x := sDesc (lget 0 (coreOf d c).descs st)
  let d := modStream c st (fun s => { s with sat := min (s.sat + 1) (2 ^ 32 - 1), win := s.win + 1 }) d
  let s := streamOf d c st
  if s.posted ∨ s.win ≤ x.threshold then d
  else
    let d := modStream c st (fun s => { s with posted := true }) d
    let d := setFld (rQstat c) 4 4 st (setFld (rQstat c) 3 1 1 (bump .driftEvents c 0 d))
    match (corePart d c).bind (partFn d) with
    | some fn => postEvent fn 1 (driftPayload d c st x s) d
    | none => d

/-- Clips and zeroed NaNs of a core are counted and shown in CMP_QSTAT (R272, R273). -/
def countConv (c clips nans : Nat) (stream : Option Nat) (d : Dev) : Dev :=
  let d := when (decide (0 < clips)) (fun d => setFld (rQstat c) 0 1 1 (bumpN .clipEvents c 0 clips d)) d
  let d := when (decide (0 < nans)) (fun d => setFld (rQstat c) 1 1 1 (bumpN .nanZeroed c 0 nans d)) d
  match stream with
  | some s => (List.range clips).foldl (fun d _ => streamClip c s d) d
  | none => d

/-- The exponent at byte `i` of a scale tensor, none for a reserved code (R265); 0 where there is no tensor (R264). -/
def expAt (d : Dev) (c : Nat) (u : Use) (r : Option Ref) (i : Nat) : Option Int :=
  match r with
  | none => some 0
  | some r =>
    let b := (refRead d c u (r.plus i) 1).headD 0
    let e := signedOf 8 b.toNat
    if -64 ≤ e ∧ e ≤ 63 then some e else none

/-- The draw of an element (R270), none in mode NEAR. -/
def drawOf (d : Dev) (c : Nat) (q : RqOp) (i j : Nat) : Option Nat :=
  if q.stoch then some (srDraw (BitVec.ofNat 32 (coreInv d c).seed) q.srStream (q.rowBase + i) (q.colBase + j)) else none

/-- A conversion of row `i`: `vals` gives the row's real values without e_src, `conv` the code of element `j` for the chosen
e_dst. The exponents, the tracker and the counters follow R265, R278, R280 and R282; `bad` marks a reserved source exponent. -/
def convRow (c : Nat) (u : Use) (q : RqOp) (i n : Nat) (bad : Bool) (vals : List FVal)
    (conv : Nat → Int → Option Nat → Conv) (nanConv : Conv) (d : Dev) : List Nat × Dev :=
  let k := match q.dst with
    | .fixed e => (some e, none)
    | .tensor r => (expAt d c u (some r) i, none)
    | .track s _ => (some (chooseExp (sDesc (lget 0 (coreOf d c).descs s)) (streamOf d c s) (streamOf d c s).pos
        (rowNeed (sDesc (lget 0 (coreOf d c).descs s)) (if bad then [] else vals))), some s)
  let reserved := bad || k.1.isNone
  let d := when reserved (fun d => setFld (rQstat c) 2 1 1 (bump .scaleReservedRows c 0 d)) d
  let e := k.1.getD 0
  let cs := (List.range n).map (fun j => if reserved then nanConv else conv j e (drawOf d c q i j))
  let d := countConv c (cs.filter (·.clip)).length (cs.filter (·.nanZero)).length k.2 d
  let d := match q.dst with
    | .track s r =>
      let x := sDesc (lget 0 (coreOf d c).descs s)
      refWrite c u (r.plus i) [BitVec.ofNat 8 (wrapInt 8 e)] (modStream c s (pushNeed x (rowNeed x (if bad then [] else vals)) e) d)
    | _ => d
  (cs.map (·.code), d)

/-- A value scaled by 2^e. -/
def vScale (v : FVal) (e : Int) : FVal := match v with | .fin a m x => .fin a m (x + e) | v => v

/-- An integer as a value. -/
def vInt (v : Int) : FVal := .fin (decide (v < 0)) v.natAbs 0

/-- Whether a destination exponent operand may be accessed for `n` rows. -/
def dstExpOk (d : Dev) (c : Nat) (u : Use) (x : DstExp) (n : Nat) : Bool :=
  match x with
  | .fixed e => decide (-64 ≤ e ∧ e ≤ 63)
  | .tensor r => refOk d c u r n false
  | .track s r => decide (s < (coreOf d c).descs.length) && refOk d c u r n true

/-- Row `i` of a requantisation of accumulator words (R275): an INT32 accumulator to an integer format is requantised, every
other pair is converted under R268 with e_src = e_a + e_w. -/
def rqRow (c : Nat) (u : Use) (q : RqOp) (i : Nat) (fp : Bool) (acc : List Nat) (d : Dev) : List Nat × Dev :=
  let n := acc.length
  let ea := expAt d c u q.eA i
  let ews := (List.range n).map (expAt d c u q.eW)
  let bad := ea.isNone || ews.any (·.isNone)
  let ew (j : Nat) : Int := (lget none ews j).getD 0 + ea.getD 0
  let zo := signedOf 32 q.zo
  let val (j : Nat) : FVal := if fp then fmtVal 15 (lget 0 acc j) 0 else vInt (s32 (lget 0 acc j))
  let nanConv := convert q.dstFmt zo .nan 0 none
  if fmtIsInt q.dstFmt ∧ ¬ fp then
    let i' := fmtInfo q.dstFmt
    convRow c u q i n bad
      ((List.range n).map (fun j => vScale (vInt (s32 (lget 0 acc j) * q.mult)) (ew j - q.s0)))
      (fun j e r =>
        let x := requant (s32 (lget 0 acc j)) q.mult (q.s0 + e - ew j) zo i'.qmin i'.qmax r
        { code := wrapInt i'.bits x.1, clip := x.2 }) nanConv d
  else
    convRow c u q i n bad ((List.range n).map (fun j => vScale (val j) (ew j)))
      (fun j e r => convert q.dstFmt zo (val j) (ew j - e) r) nanConv d

/-- Row `i` of a VCVT (R268): source codes of a format to destination codes. -/
def cvtRow (c : Nat) (x : CvtOp) (i : Nat) (codes : List Nat) (d : Dev) : List Nat × Dev :=
  let es := expAt d c .vec x.rq.eA i
  let vs := codes.map (fun v => fmtVal x.srcFmt v (intOfCode x.srcFmt x.zSrc))
  let z := intOfCode x.rq.dstFmt x.rq.zo
  convRow c .vec x.rq i codes.length es.isNone (vs.map (vScale · (es.getD 0)))
    (fun j e r => convert x.rq.dstFmt z (lget .nan vs j) (es.getD 0 - e) r) (convert x.rq.dstFmt z .nan 0 none) d

/-- A VCVT: each row is read, converted and written packed (R264, R267). -/
def vcvtEff (c : Nat) (x : CvtOp) (d : Dev) : Dev :=
  (List.range x.rows).foldl (fun d i =>
    let codes := unpack x.srcFmt x.cols (refRead d c .vec (x.src.plus (i * x.srcStride)) (packedLen x.srcFmt x.cols))
    let r := cvtRow c x i codes d
    refWrite c .vec (x.dst.plus (i * x.dstStride)) (packCodes x.rq.dstFmt r.1) r.2) d

/-- A VRQ: INT32 rows are requantised and written packed (R275). -/
def vrqEff (c : Nat) (x : CvtOp) (d : Dev) : Dev :=
  (List.range x.rows).foldl (fun d i =>
    let codes := unpack 14 x.cols (refRead d c .vec (x.src.plus (i * x.srcStride)) (4 * x.cols))
    let r := rqRow c .vec x.rq i false codes d
    refWrite c .vec (x.dst.plus (i * x.dstStride)) (packCodes x.rq.dstFmt r.1) r.2) d

/-- Whether the rows of a conversion may be accessed (R235). -/
def cvtRefs (d : Dev) (c : Nat) (x : CvtOp) : Bool :=
  (List.range x.rows).all (fun i =>
      refOk d c .vec (x.src.plus (i * x.srcStride)) (packedLen x.srcFmt x.cols) false
        && refOk d c .vec (x.dst.plus (i * x.dstStride)) (packedLen x.rq.dstFmt x.cols) true)
    && (match x.rq.eA with | some r => refOk d c .vec r x.rows false | none => true)
    && (match x.rq.eW with | some r => refOk d c .vec r x.cols false | none => true)
    && dstExpOk d c .vec x.rq.dst x.rows

/-- A conversion that the core may not run (R271): STOCH outside TRAIN_STEP is a reserved instruction and is shown in
CMP_QSTAT. -/
def stochBad (d : Dev) (c : Nat) (q : RqOp) : Bool := q.stoch && !(coreInv d c).train

end Sys2Proof.Machine
end

