-- ==== Sys2Proof/Machine/Arrays.lean ====
section
/-! DEFINITION. What the matrix arrays compute (R191 to R203): stationary tiles, column sums, accumulators, partial-sum rows
and the requantising drain. -/

namespace Sys2Proof.Machine

/-- The physical array of logical array `i` of a core (R209), if it has one. -/
def physArray (d : Dev) (c i : Nat) : Option Nat := ((List.range 8).filter (fun p => !bitOf (arrayMap d c) p))[i]?

/-- Weights per cell of an operand width (Table 6.3). -/
def macsOf (bits : Nat) : Nat := if bits = 2 then 4 else if bits = 4 ∨ bits = 6 then 2 else 1

/-- Weights per cell of a pair of formats: those of the wider operand (R192). -/
def pairMacs (w a : Nat) : Nat := macsOf (max (fmtInfo w).bits (fmtInfo a).bits)

/-- Whether a format is an array format (Table 6.3): INT16 and INT32 are not. -/
def arrayFmt (f : Nat) : Bool := decide (f < 16) && f != 11 && f != 14

/-- The fault of a pair of operand formats (R192): an undefined format is a reserved instruction. -/
def fmtFault (w a : Nat) : Option Cause :=
  if ¬ arrayFmt w ∨ ¬ arrayFmt a then some .illegalInstr
  else if fmtIsInt w ≠ fmtIsInt a then some .formatMismatch else none

/-- Element of a stationary tile for depth `k` and column `j`: cell (k / mac, j) holds `mac` consecutive depths. -/
def tileIdx (mac k j : Nat) : Nat := k / mac * (16 * mac) + j * mac + k % mac

/-- The zero points of the 16 columns from a zero-point vector (R194), 0 where none is named. -/
def zwOf (d : Dev) (c : Nat) (u : Use) (f : Nat) (r : Option Ref) : List Int :=
  match r with
  | some r => (refRead d c u r 16).map (fun b => intOfCode f b.toNat)
  | none => List.replicate 16 0

/-- The exact sum of products of two lists of values (R197). -/
def dot : List FVal → List FVal → FVal
  | a :: as, b :: bs => match as, bs with
    | [], _ => vMul a b
    | _, [] => vMul a b
    | _, _ => vAdd (vMul a b) (dot as bs)
  | _, _ => .fin false 0 0

/-- The integer an exact integer value is. -/
def intOfVal : FVal → Int
  | .fin neg m e => if neg then -((m * 2 ^ e.toNat : Nat) : Int) else ((m * 2 ^ e.toNat : Nat) : Int)
  | _ => 0

/-- A column sum added to a 32-bit accumulator (R196, R197), and whether it saturated. -/
def accAdd (isInt : Bool) (acc : Nat) (s : FVal) : Nat × Bool :=
  if isInt then let r := sat32 (s32 acc + intOfVal s); (wrapInt 32 r.1, r.2)
  else (fpRound 15 (vAdd (fmtVal 15 acc 0) s), false)

/-- A list of column sums added to a list of accumulators, with the number of saturations. -/
def accAddRow (isInt : Bool) (accs : List Nat) (sums : List FVal) : List Nat × Nat :=
  let r := (accs.zip sums).map (fun x => accAdd isInt x.1 x.2)
  (r.map (·.1), (r.filter (·.2)).length)

/-- Saturating additions are counted and set the cluster's sticky bit (R196). -/
def countSat (c n : Nat) (d : Dev) : Dev :=
  when (decide (0 < n)) (fun d => setFld (rClusterStatus (c / 8)) 10 1 1 (bumpN .accSatEvents c 0 n d)) d

/-- Accumulator row `r` of physical array `p`. -/
def accRow (k : Core) (p r : Nat) : List Nat := (List.range 16).map (fun j => tget 0 k.acc (1024 * p + 16 * r + j))

/-- A core with accumulator row `r` of array `p` written. -/
def setAccRow (p r : Nat) (vs : List Nat) (k : Core) : Core :=
  { k with acc := (List.range vs.length).foldl (fun t j => tput 0 t (1024 * p + 16 * r + j) (lget 0 vs j)) k.acc }

/-- One row of column sums goes to its destination (R198): row `m` of the partial-sum operand or of the accumulators. -/
def sumRow (c p : Nat) (isInt : Bool) (ps : Option Ref) (first : Bool) (accBase m : Nat) (sums : List FVal) (d : Dev) : Dev :=
  match ps with
  | some r =>
    let r := r.plus (64 * m)
    let old := if first then List.replicate 16 0 else unpack 14 16 (refRead d c (.arr p) r 64)
    let x := accAddRow isInt (old.take sums.length) sums
    countSat c x.2 (refWrite c (.arr p) r (packCodes 14 (x.1 ++ old.drop sums.length)) d)
  | none =>
    let x := accAddRow isInt (accRow (coreOf d c) p (accBase + m)) sums
    countSat c x.2 (modCore c (setAccRow p (accBase + m) x.1) d)

/-- One array of an MM (R191, R194, R198): logical array `x.arr + g`, its own tile, zero points and destination. -/
def mmArray (c : Nat) (x : MmOp) (g : Nat) (d : Dev) : Dev :=
  match physArray d c (x.arr + g) with
  | none => d
  | some p =>
    let mac := pairMacs x.wFmt x.aFmt
    let kk := 16 * mac
    let zw := zwOf d c (.arr p) x.wFmt x.zw[g]?
    let codes := unpack x.wFmt (16 * kk) (refRead d c (.arr p) (lget ⟨0, 0, 0⟩ x.w g) (packedLen x.wFmt (16 * kk)))
    let cols := (List.range 16).map (fun j => (List.range kk).map (fun k =>
      fmtVal x.wFmt (lget 0 codes (tileIdx mac k j)) (lget 0 zw j)))
    let za := intOfCode x.aFmt x.za
    let d := modCore c (fun k => { k with asSets := tput none k.asSets p none }) d
    (List.range x.m).foldl (fun d m =>
      let row := (unpack x.aFmt kk (refRead d c (.arr p) (x.a.plus (m * x.aStride)) (packedLen x.aFmt kk))).map (fmtVal x.aFmt · za)
      sumRow c p (fmtIsInt x.wFmt) x.ps[g]? x.first x.accBase m (cols.map (dot row)) d) d

/-- An MM on one array. -/
def mmEff (c : Nat) (x : MmOp) (d : Dev) : Dev := mmArray c x 0 d

/-- An MM.G4: four arrays, the same input rows (R203). -/
def mmG4Eff (c : Nat) (x : MmOp) (d : Dev) : Dev := (List.range 4).foldl (fun d g => mmArray c x g d) d

/-- The fault of an MM over `n` logical arrays (R192, R195, R211, R235). -/
def mmFault (d : Dev) (c : Nat) (x : MmOp) (n : Nat) : Option Cause :=
  let kk := 16 * pairMacs x.wFmt x.aFmt
  if arraysPerCore d < x.arr + n ∨ (n = 4 ∧ x.arr ≠ 0 ∧ x.arr ≠ 4) then some (if arraysPerCore d < x.arr + n then .arrayAbsent else .illegalInstr)
  else match fmtFault x.wFmt x.aFmt with
    | some f => some f
    | none =>
      if x.ps.isEmpty ∧ 64 < x.accBase + x.m then some .accRange
      else if (List.range n).all (fun g =>
          match physArray d c (x.arr + g) with
          | none => false
          | some p =>
            (match x.w[g]? with | some r => refOk d c (.arr p) r (packedLen x.wFmt (16 * kk)) false | none => false)
              && (match x.zw[g]? with | some r => refOk d c (.arr p) r 16 false | none => true)
              && (match x.ps[g]? with | some r => refOk d c (.arr p) r (64 * x.m) true | none => x.ps.isEmpty)
              && (List.range x.m).all (fun m => refOk d c (.arr p) (x.a.plus (m * x.aStride)) (packedLen x.aFmt kk) false))
        then none else some .handleFault

/-- The codes of an activation set: B vectors as the columns of a tile (R202). -/
def asLoad (d : Dev) (c p : Nat) (x : AsOp) : List Nat :=
  let n := 256 * pairMacs x.wFmt x.aFmt
  unpack x.aFmt n (refRead d c (.arr p) x.act (packedLen x.aFmt n))

/-- Whether two instructions name the same activation set. -/
def sameSet (a b : AsOp) : Bool := a.act == b.act && a.aFmt == b.aFmt && a.b == b.b && pairMacs a.wFmt a.aFmt == pairMacs b.wFmt b.aFmt

/-- An ASLD: the array's activation set is loaded. -/
def asldEff (c : Nat) (x : AsOp) (d : Dev) : Dev :=
  match physArray d c x.arr with
  | none => d
  | some p => modCore c (fun k => { k with asSets := tput none k.asSets p (some { src := x, codes := asLoad d c p x }) }) d

/-- An AS (R202): the set left by the previous AS is used again when it is the same; each weight row gives B sums. -/
def asEff (c : Nat) (x : AsOp) (d : Dev) : Dev :=
  match physArray d c x.arr with
  | none => d
  | some p =>
    let mac := pairMacs x.wFmt x.aFmt
    let kk := 16 * mac
    let d := match tget none (coreOf d c).asSets p with
      | some s => if sameSet s.src x then d else asldEff c x d
      | none => asldEff c x d
    let codes := match tget none (coreOf d c).asSets p with | some s => s.codes | none => []
    let za := intOfCode x.aFmt x.za
    let zw := zwOf d c (.arr p) x.wFmt x.zw
    let cols := (List.range x.b).map (fun j => (List.range kk).map (fun k => fmtVal x.aFmt (lget 0 codes (tileIdx mac k j)) za))
    (List.range x.n).foldl (fun d m =>
      let w := unpack x.wFmt kk (refRead d c (.arr p) (x.w.plus (m * x.wStride)) (packedLen x.wFmt kk))
      let sums := (List.range x.b).map (fun j => dot (w.map (fmtVal x.wFmt · (lget 0 zw j))) (lget [] cols j))
      sumRow c p (fmtIsInt x.wFmt) x.ps x.first x.accBase m sums d) d

/-- The fault of an AS, or of an ASLD when `load` holds. -/
def asFault (d : Dev) (c : Nat) (x : AsOp) (load : Bool) : Option Cause :=
  let kk := 16 * pairMacs x.wFmt x.aFmt
  match physArray d c x.arr with
  | none => some .arrayAbsent
  | some p =>
    match fmtFault x.wFmt x.aFmt with
    | some f => some f
    | none =>
      if 16 < x.b ∨ x.b = 0 then some .illegalInstr
      else if ¬ load ∧ x.ps.isNone ∧ 64 < x.accBase + x.n then some .accRange
      else if refOk d c (.arr p) x.act (packedLen x.aFmt (16 * kk)) false
          && (load || ((match x.zw with | some r => refOk d c (.arr p) r 16 false | none => true)
            && (match x.ps with | some r => refOk d c (.arr p) r (64 * x.n) true | none => true)
            && (List.range x.n).all (fun m => refOk d c (.arr p) (x.w.plus (m * x.wStride)) (packedLen x.wFmt kk) false)))
        then none else some .handleFault

/-- Whether OP takes a format: 8-bit formats, FP16 and BF16 (R202). -/
def opFmt (f : Nat) : Bool := (fmtInfo f).bits == 8 || f == 12 || f == 13

/-- The outer product of one pair added to the 256 cell accumulators, with the number of saturations. -/
def opStep (isInt : Bool) (cells : List Nat) (xs gs : List FVal) : List Nat × Nat :=
  accAddRow isInt cells (xs.flatMap (fun x => gs.map (vMul x)))

/-- An OP (R202): T outer products in the cell accumulators, then a drain by addition into rows accBase to accBase + 15. -/
def opEff (c : Nat) (x : OpOp) (d : Dev) : Dev :=
  match physArray d c x.arr with
  | none => d
  | some p =>
    let isInt := fmtIsInt x.wFmt
    let za := intOfCode x.aFmt x.za
    let zw := zwOf d c (.arr p) x.wFmt x.zw
    let r := (List.range x.t).foldl (fun (a : List Nat × Nat) t =>
      let xs := (unpack x.aFmt 16 (refRead d c (.arr p) (x.x.plus (t * x.xStride)) (packedLen x.aFmt 16))).map (fmtVal x.aFmt · za)
      let gc := unpack x.wFmt 16 (refRead d c (.arr p) (x.g.plus (t * x.gStride)) (packedLen x.wFmt 16))
      let gs := (List.range 16).map (fun j => fmtVal x.wFmt (lget 0 gc j) (lget 0 zw j))
      let s := opStep isInt a.1 xs gs
      (s.1, a.2 + s.2)) (List.replicate 256 0, 0)
    let d := modCore c (fun k => { k with asSets := tput none k.asSets p none }) (countSat c r.2 d)
    (List.range 16).foldl (fun d i =>
      sumRow c p isInt none false x.accBase i
        ((List.range 16).map (fun j => if isInt then vInt (s32 (lget 0 r.1 (16 * i + j))) else fmtVal 15 (lget 0 r.1 (16 * i + j)) 0)) d) d

/-- The fault of an OP. -/
def opFault (d : Dev) (c : Nat) (x : OpOp) : Option Cause :=
  match physArray d c x.arr with
  | none => some .arrayAbsent
  | some p =>
    match fmtFault x.wFmt x.aFmt with
    | some f => some f
    | none =>
      if ¬ opFmt x.wFmt ∨ ¬ opFmt x.aFmt then some .illegalInstr
      else if 64 < x.accBase + 16 then some .accRange
      else if (match x.zw with | some r => refOk d c (.arr p) r 16 false | none => true)
          && (List.range x.t).all (fun t => refOk d c (.arr p) (x.x.plus (t * x.xStride)) (packedLen x.aFmt 16) false
            && refOk d c (.arr p) (x.g.plus (t * x.gStride)) (packedLen x.wFmt 16) false)
        then none else some .handleFault

/-- An ACC.OUT (R199): rows drain to a handle or to vector registers, as they are or through the requantiser. -/
def accOutEff (c : Nat) (x : AccOut) (d : Dev) : Dev :=
  match physArray d c x.arr with
  | none => d
  | some p =>
    (List.range x.n).foldl (fun d i =>
      let acc := accRow (coreOf d c) p (x.accBase + i)
      let r := match x.rq with
        | some q => let y := rqRow c (.arr p) q i x.fp acc d; (packCodes q.dstFmt y.1, y.2)
        | none => (packCodes 14 acc, d)
      match x.vreg with
      | some v => modCore c (fun k => { k with vregs := tputBytes k.vregs (128 * (v + i)) r.1 }) r.2
      | none => refWrite c (.arr p) (x.dst.plus (i * x.stride)) r.1 r.2) d

/-- The fault of an ACC.OUT. -/
def accOutFault (d : Dev) (c : Nat) (x : AccOut) : Option Cause :=
  match physArray d c x.arr with
  | none => some .arrayAbsent
  | some p =>
    if 64 < x.accBase + x.n then some .accRange
    else if (match x.vreg with | some v => decide (32 < v + x.n) | none => false) then some .illegalInstr
    else if (match x.rq with | some q => stochBad d c q | none => false) then some .illegalInstr
    else
      let len := match x.rq with | some q => packedLen q.dstFmt 16 | none => 64
      if (x.vreg.isSome || (List.range x.n).all (fun i => refOk d c (.arr p) (x.dst.plus (i * x.stride)) len true))
          && (match x.rq with
            | some q => (match q.eA with | some r => refOk d c (.arr p) r x.n false | none => true)
                && (match q.eW with | some r => refOk d c (.arr p) r 16 false | none => true) && dstExpOk d c (.arr p) q.dst x.n
            | none => true)
        then none else some .handleFault

/-- An ACC.CLR zeroes accumulator rows (R199). -/
def accClrEff (c arr base n : Nat) (d : Dev) : Dev :=
  match physArray d c arr with
  | none => d
  | some p => modCore c (fun k => (List.range n).foldl (fun k i => setAccRow p (base + i) (List.replicate 16 0) k) k) d

/-- The fault of an ACC.CLR. -/
def accClrFault (d : Dev) (c arr base n : Nat) : Option Cause :=
  match physArray d c arr with
  | none => some .arrayAbsent
  | some _ => if 64 < base + n then some .accRange else none

end Sys2Proof.Machine
end

