-- ==== Sys2Proof/Machine/Vector.lean ====
section
/-! DEFINITION. The vector unit and the sequencer port (R204, R218, R236 to R241): element-wise operations, reductions,
movement, the table look-up, and FILL, COPY, TCOPY and SREAD. -/

namespace Sys2Proof.Machine

/-- The elements of vector register `v` as codes of `n`-bit lanes. -/
def vlanes (k : Core) (v bits : Nat) : List Nat :=
  let x := leNat (tbytes k.vregs (128 * v) 128)
  (List.range (1024 / bits)).map (fun j => bitsOf x (bits * j) bits)

/-- A core with the lanes of register `v` written. -/
def setVlanes (v bits : Nat) (ls : List Nat) (k : Core) : Core :=
  { k with vregs := tputBytes k.vregs (128 * v) (toLe 128 (ls.foldr (fun c a => c % 2 ^ bits + 2 ^ bits * a) 0)) }

/-- Whether the vector unit has an operation on a format (Table 6.7). -/
def vecHas (o : VecOp) (f : Nat) : Bool :=
  let int8 := f == 7 || f == 8
  let int := f == 11 || f == 14
  let fp := f == 12 || f == 13 || f == 15
  match o with
  | .sub | .select | .shl | .shr | .sar | .and | .or | .xor => int8 || int
  | .add | .min | .max | .cmpEq | .cmpLt | .cmpLe => int8 || int || fp
  | .mul => int || fp
  | .fma => fp
  | _ => f == 15

/-- The transcendental function of an operation. -/
def vecTrans : VecOp → Trans
  | .log => .log | .rcp => .rcp | .rsqrt => .rsqrt | .logistic => .logistic | .tanh => .tanh | _ => .exp

/-- A lane that holds `v` when it lies in an integer format's range; outside it the spec states no result and the free value
`free` stands there. -/
def laneInt (f : Nat) (v : Int) (free : Nat) : Nat :=
  let r := packInt f v
  if r.2 then free else r.1

/-- A truth value as a lane: all ones or zero. -/
def laneBool (bits : Nat) (b : Bool) : Nat := if b then 2 ^ bits - 1 else 0

/-- One lane of an element-wise operation; `free` stands where the spec states no result. -/
def vecLane (o : VecOp) (f a b c free : Nat) : Nat :=
  let bits := (fmtInfo f).bits
  let ia := intOfCode f a
  let ib := intOfCode f b
  let va := fmtVal f a 0
  let vb := fmtVal f b 0
  let int := fmtIsInt f
  match o with
  | .add => if int then laneInt f (ia + ib) free else fpAdd f a b
  | .sub => laneInt f (ia - ib) free
  | .mul => if int then laneInt f (ia * ib) free else fpMul f a b
  | .fma => fpFma f a b c
  | .min => if int then (if ia ≤ ib then a else b) else fpRound f (vMin va vb)
  | .max => if int then (if ib ≤ ia then a else b) else fpRound f (vMax va vb)
  | .cmpEq => laneBool bits (if int then ia == ib else vEq va vb)
  | .cmpLt => laneBool bits (if int then decide (ia < ib) else vLt va vb)
  | .cmpLe => laneBool bits (if int then decide (ia ≤ ib) else vLt va vb || vEq va vb)
  | .select => if a ≠ 0 then b else c
  | .shl => if b < bits then a * 2 ^ b % 2 ^ bits else free
  | .shr => if b < bits then a / 2 ^ b else free
  | .sar => if b < bits then wrapInt bits (signedOf bits a / (2 ^ b : Nat)) else free
  | .and => a &&& b
  | .or => a ||| b
  | .xor => a ^^^ b
  | t => transFn (vecTrans t) a

/-- The free value of lane `j` in this step, as a code of `bits` bits. -/
def laneFree (d : Dev) (j bits : Nat) : Nat := fresh d 2 j % 2 ^ bits

/-- VECTOR_ELEMENTWISE: lanes of va, vb and vc give the lanes of vd. -/
def vecEff (c : Nat) (o : VecOp) (f vd va vb vc : Nat) (d : Dev) : Dev :=
  let k := coreOf d c
  let bits := (fmtInfo f).bits
  let xs := vlanes k va bits
  let ys := vlanes k vb bits
  let zs := vlanes k vc bits
  let r := (List.range xs.length).map (fun j => vecLane o f (lget 0 xs j) (lget 0 ys j) (lget 0 zs j) (laneFree d j bits))
  freshStep (modCore c (setVlanes vd bits r) d)

/-- The first lane that holds the largest value. -/
def argMax (f : Nat) (xs : List Nat) : Nat :=
  ((List.range xs.length).foldl (fun (b : Nat) j =>
    if vLt (fmtVal f (lget 0 xs b) 0) (fmtVal f (lget 0 xs j) 0) then j else b) 0)

/-- The result of a reduction (R204): kind 0 sum, 1 max, 2 min, 3 argmax. -/
def redLane (kind f : Nat) (xs : List Nat) (free : Nat) : Nat :=
  let nan := xs.any (fun x => fmtVal f x 0 == .nan)
  match kind with
  | 0 => if fmtIsInt f then laneInt f (xs.foldl (fun a x => a + intOfCode f x) 0) free else (pairwise (fpAdd f) 8 xs).headD 0
  | 1 => (pairwise (fun a b => vecLane .max f a b 0 0) 8 xs).headD 0
  | 2 => (pairwise (fun a b => vecLane .min f a b 0 0) 8 xs).headD 0
  | _ => if nan then free else argMax f xs

/-- VRED: the result stands in lane 0 of vd, its other lanes unchanged. -/
def vredEff (c kind f vd va : Nat) (d : Dev) : Dev :=
  let k := coreOf d c
  let bits := (fmtInfo f).bits
  let r := redLane kind f (vlanes k va bits) (laneFree d 0 bits)
  freshStep (modCore c (setVlanes vd bits (r :: (vlanes k vd bits).tail)) d)

/-- Whether VRED takes a format and a kind. -/
def redHas (kind f : Nat) : Bool := decide (kind ≤ 3) && (f == 7 || f == 8 || (decide (11 ≤ f) && decide (f ≤ 15)))

/-- VECTOR_PERMUTE on lanes of `w` bytes: kind 0 permute by the lanes of vb, 1 broadcast of lane n, 2 shift by n lanes. -/
def permEff (c kind w vd va vb n : Nat) (d : Dev) : Dev :=
  let k := coreOf d c
  let xs := vlanes k va (8 * w)
  let ys := vlanes k vb (8 * w)
  let r := (List.range xs.length).map (fun j =>
    match kind with
    | 0 => let i := lget 0 ys j
      if i < xs.length then lget 0 xs i else laneFree d j (8 * w)
    | 1 => lget 0 xs n
    | _ => if n ≤ j then lget 0 xs (j - n) else 0)
  freshStep (modCore c (setVlanes vd (8 * w) r) d)

/-- A piecewise-linear table from 768 bytes (R297). -/
def pwlOf (bs : List Byte) : List (Nat × Nat × Nat) :=
  (List.range 64).map (fun k =>
    let e := bs.drop (12 * k)
    (leNat (e.take 4), leNat ((e.drop 4).take 4), leNat ((e.drop 8).take 4)))

/-- VLUT: the piecewise-linear table at an operand applied to FP32 lanes. -/
def vlutEff (c vd va : Nat) (tab : Ref) (d : Dev) : Dev :=
  let k := coreOf d c
  let t := pwlOf (refRead d c .vec tab 768)
  modCore c (setVlanes vd 32 ((vlanes k va 32).map (pwlLink t))) d

/-- VLD: 128 bytes of a scratchpad row to a register. -/
def vldEff (c vd : Nat) (src : Ref) (d : Dev) : Dev :=
  modCore c (fun k => { k with vregs := tputBytes k.vregs (128 * vd) (refRead d c .vec src 128) }) d

/-- VST: a register to 128 bytes of a scratchpad row, the rest of the row kept (R218). -/
def vstEff (c vs : Nat) (dst : Ref) (d : Dev) : Dev := refWrite c .vec dst (tbytes (coreOf d c).vregs (128 * vs) 128) d

/-- FILL (R236): a 32-bit pattern repeated over n rows. -/
def fillEff (c : Nat) (dst : Ref) (n pattern : Nat) (d : Dev) : Dev :=
  refWrite c .seq { dst with off := 0 } ((List.range (128 * n)).flatMap (fun _ => toLe 4 pattern)) d

/-- The use a COPY makes of handles: the operand buffer of a logical array. -/
def copyUse (d : Dev) (c arr : Nat) : Use := match physArray d c arr with | some p => .copy p | none => .seq

/-- COPY (R237): n rows as if the source had first been read whole. -/
def copyEff (c : Nat) (src dst : Ref) (arr n : Nat) (d : Dev) : Dev :=
  let u := copyUse d c arr
  refWrite c u { dst with off := 0 } (refRead d c u { src with off := 0 } (512 * n)) d

/-- TCOPY (R240): element k of segment j of destination row r is element r of segment j of source row k. -/
def tcopyEff (c : Nat) (src dst : Ref) (w : Nat) (d : Dev) : Dev :=
  let bs := refRead d c .seq { src with off := 0 } (512 * 16)
  refWrite c .seq { dst with off := 0 } ((List.range 16).flatMap (fun r => (List.range (32 / w)).flatMap (fun j =>
    (List.range 16).flatMap (fun k => (bs.drop (512 * k + (16 * j + r) * w)).take w)))) d

/-- The physical rows of two operands overlap. -/
def rowsMeet (d : Dev) (c : Nat) (a b : Ref) (n : Nat) : Bool :=
  match refRows d c .seq { a with off := 0 } (512 * n) false, refRows d c .seq { b with off := 0 } (512 * n) true with
  | some x, some y => x.any (fun r => y.contains r)
  | _, _ => false

/-- The byte offset in the source of element `k` of an SREAD (R241). -/
def sreadOff (w start stride k : Nat) : Nat := (start + k * stride) * w

/-- SREAD (R241): each destination row gathers 512 / w elements at a stride. -/
def sreadEff (c : Nat) (src dst : Ref) (n w start stride : Nat) (d : Dev) : Dev :=
  refWrite c .seq { dst with off := 0 } ((List.range (n * (512 / w))).flatMap (fun k =>
    refRead d c .seq ({ src with off := 0 }.plus (sreadOff w start stride k)) w)) d

/-- Whether the cluster of a core may use the shuffle network (R238): its partition owns the whole compute die. -/
def shuffleOk (d : Dev) (c : Nat) : Bool :=
  match corePart d c with
  | some p => (List.range 6).all (fun k => ownsCluster d p (6 * (c / 48) + k))
  | none => false

end Sys2Proof.Machine
end

