-- ==== Sys2Proof/Machine/PealEng.lean ====
section
/-! DEFINITION. The Peal engine of a core (R287 to R318): its stores, PEAL.LOAD and PEAL.EVAL in resident and in streaming
mode. -/

namespace Sys2Proof.Machine

/-- A node from its 128 bits (Table 9.1). -/
def pealNode (x : Nat) : PealNode :=
  { feature := bitsOf x 0 10, threshold := bitsOf x 10 16, first := bitOf x 26, last := bitOf x 27, mask := bitsOf x 32 64 }

/-- A tree entry from its 64 bits (Table 9.2). -/
def pealTree (x : Nat) : PealTree := { firstNode := bitsOf x 0 14, nNodes := bitsOf x 14 6, leafBase := bitsOf x 20 15 }

/-- Bytes of an element of a store and how many elements it holds (R287): 0 nodes, 1 tree entries, 2 leaf values. -/
def storeDim : Nat → Nat × Nat
  | 0 => (16, 16384)
  | 1 => (8, 2048)
  | _ => (2, 32768)

/-- PEAL.LOAD (R303): n rows of a LOCAL handle to a store from index dst. -/
def pealLoadEff (c store : Nat) (src : Ref) (n dst : Nat) (d : Dev) : Dev :=
  let sz := (storeDim store).1
  let bs := refRead d c .peal { src with off := 0 } (512 * n)
  let put (t : Tab Nat) : Tab Nat :=
    (List.range (512 * n / sz)).foldl (fun t i => tput 0 t (dst + i) (leNat ((bs.drop (sz * i)).take sz))) t
  modCore c (fun k => match store with
    | 0 => { k with nodes := put k.nodes }
    | 1 => { k with trees := put k.trees }
    | _ => { k with leaves := put k.leaves }) d

/-- The fault of a PEAL.LOAD: rows outside the handle, or elements beyond the store. -/
def pealLoadFault (d : Dev) (c store : Nat) (src : Ref) (n dst : Nat) : Option Cause :=
  if (storeDim store).2 < dst + 512 * n / (storeDim store).1 then some .illegalInstr
  else if refOk d c .peal { src with off := 0 } (512 * n) false then none else some .handleFault

/-- The share that a PEAL.EVAL reads: from the stores in resident mode, from the master copy in streaming mode (R311, R312). -/
def evalShare (d : Dev) (c : Nat) (x : PealOp) : Share :=
  let k := coreOf d c
  if k.streamed then lget {} (coreVer d c).shares x.share
  else
    let trees := (List.range x.nTrees).map (fun i => pealTree (tget 0 k.trees (x.treeBase + i)))
    let par := (coreVer d c).par
    let nn := trees.foldl (fun a t => max a (t.firstNode + t.nNodes)) 0
    let nl := trees.foldl (fun a t => max a (t.leafBase + (t.nNodes + 1) * par.nOut)) 0
    { trees, nodes := (List.range nn).map (fun i => pealNode (tget 0 k.nodes (x.nodeBase + i)))
      leaves := (List.range nl).map (fun i => tget 0 k.leaves (x.leafBase + i)) }

/-- Vectors of a pass in streaming mode (R312). -/
def streamBatch (nTrees nFeatures left : Nat) : Nat := max 1 (min (min (4096 / max 1 nTrees) (32768 / max 1 nFeatures)) left)

/-- Bytes that a streamed evaluation fetches (R312): one copy of the share for each pass. -/
def streamBytes (s : Share) (nFeatures v : Nat) : Nat :=
  ceilDiv v (streamBatch s.trees.length nFeatures v) * (8 * s.trees.length + 16 * s.nodes.length + 2 * s.leaves.length)

/-- The outputs of one vector (R294 to R298, R304) with the counts of empty masks and saturations. -/
def evalVector (d : Dev) (c : Nat) (x : PealOp) (s : Share) (v : Nat) : List Nat × Nat × Nat :=
  let par := (coreVer d c).par
  if x.mode = 2 then
    let bs := refRead d c .peal (x.vec.plus (4 * v * par.nOut)) (4 * par.nOut)
    (linkOut par ((List.range par.nOut).map (fun o => leNat ((bs.drop (4 * o)).take 4))), 0, 0)
  else
    let f := ceilDiv x.nFeatures 256
    let bs := refRead d c .peal { x.vec with row := x.vec.row + v * f, off := 0 } (2 * x.nFeatures)
    let r := shareSums par (x.share == 0) s.trees s.nodes s.leaves (fun i => leNat ((bs.drop (2 * i)).take 2))
    (if x.mode = 0 then linkOut par r.1 else r.1, r.2.1, r.2.2)

/-- PEAL.EVAL (R304): every vector's outputs are written, empty masks and saturations counted (R293, R294). -/
def pealEvalEff (c : Nat) (tg : Nat × Nat) (x : PealOp) (d : Dev) : Dev :=
  let s := evalShare d c x
  let par := (coreVer d c).par
  let n := streamBytes s x.nFeatures x.v
  let d := when ((coreOf d c).streamed && x.mode != 2) (fun d => coreCount .hbmBytes c tg n (bumpN .pealStreamBytes c 0 n d)) d
  (List.range x.v).foldl (fun d v =>
    let r := evalVector d c x s v
    let d := when (decide (0 < r.2.1)) (fun d => setFld (rPeal c) 4 1 1 (bumpN .pealMaskEmpty c 0 r.2.1 d)) d
    let d := when (decide (0 < r.2.2)) (fun d => setFld (rPeal c) 5 1 1 (bumpN .pealSumSat c 0 r.2.2 d)) d
    refWrite c .peal (x.res.plus (4 * v * par.nOut)) (r.1.flatMap (toLe 4)) d) d

/-- The fault of a PEAL.EVAL (R235). -/
def pealEvalFault (d : Dev) (c : Nat) (x : PealOp) : Option Cause :=
  let par := (coreVer d c).par
  if 2 < x.mode ∨ 1024 < x.nFeatures then some .illegalInstr
  else if refOk d c .peal x.res (4 * x.v * par.nOut) true
      && (if x.mode = 2 then refOk d c .peal x.vec (4 * x.v * par.nOut) false
          else refOk d c .peal { x.vec with off := 0 } (512 * x.v * ceilDiv x.nFeatures 256) false)
    then none else some .handleFault

/-- The state of a core's Peal engine (Table 9.8). -/
def pealState (k : Core) : Nat :=
  if k.pregs.any (fun r => r.st == 3) then 3
  else if k.pregs.any (fun r => r.st == 1) then 1
  else if k.pregs.isEmpty then 0 else 2

/-- Whether the share of version `vid` of a context that lies on a core is resident (R311). -/
def shareResident (k : Core) (ctx vid : Nat) : Bool :=
  (k.pregs.filter (fun r => r.ctx == ctx && r.vid == vid)).all (fun r => r.st == 2)

/-- Whether every share and every resident row of a version is resident (R421). -/
def versionResident (d : Dev) (ctx vid : Nat) : Bool :=
  d.comp.cores.all (fun e => shareResident e.2 ctx vid) && d.comp.clusters.all (fun e => !e.2.reload.contains vid)

/-- A committed LOAD_IMAGE that waits for its version to be resident completes once it is (R421). -/
def settleResident (d : Dev) : Dev :=
  (d.cmds.filter (fun e => opcodeOf e.2 == 0x10 && e.2.st == 2)).foldl (fun d e =>
    if versionResident d (cmdFld e.2 8 2) (e.2.aux.headD 0) then complete e.1 .ok 0 d else d) d

/-- PEAL_PATROL (R314): err 0 finds nothing, 1 a single-bit error corrected and counted, 2 an uncorrectable error: the share's
regions are no longer resident. -/
def pealPatrol (c share err : Nat) (d : Dev) : Dev :=
  match err with
  | 0 => d
  | 1 => setFld (rPeal c) 3 1 1 (bump .pealEccCorrected c 0 d)
  | _ => modCore c (fun k => { k with pregs := k.pregs.map (fun r =>
      if r.share = share ∧ r.st = 2 then { r with st := 3 } else r) }) d

/-- The Peal stores of a core with a share's regions written. -/
def loadShare (s : Share) (treeBase nodeBase leafBase : Nat) (img : List Nat × List Nat) (k : Core) : Core :=
  let putAll (t : Tab Nat) (b : Nat) (l : List Nat) : Tab Nat :=
    (List.range l.length).foldl (fun t i => tput 0 t (b + i) (lget 0 l i)) t
  { k with trees := putAll k.trees treeBase img.1, nodes := putAll k.nodes nodeBase img.2, leaves := putAll k.leaves leafBase s.leaves }

/-- A node's 128 bits. -/
def nodeBits (n : PealNode) : Nat :=
  n.feature % 1024 + n.threshold % 65536 * 1024 + b2n n.first * 2 ^ 26 + b2n n.last * 2 ^ 27 + n.mask % 2 ^ 64 * 2 ^ 32

/-- A tree entry's 64 bits. -/
def treeBits (t : PealTree) : Nat := t.firstNode % 2 ^ 14 + t.nNodes % 64 * 2 ^ 14 + t.leafBase % 2 ^ 15 * 2 ^ 20

/-- PEAL_SCRUB_RELOAD (R311, R315): firmware has loaded a share's regions from the master copy and read them back without
error; the share is resident from the next launch on. Nothing happens to a share that the core does not hold. -/
def pealReload (c ctx tag share treeBase nodeBase leafBase : Nat) (d : Dev) : Dev :=
  let v := ctxVer d ctx tag
  let s := lget {} v.shares share
  settleResident (modCore c (fun k =>
    if k.pregs.any (fun r => r.ctx == ctx && r.vid == v.vid && r.share == share) then
      let k := loadShare s treeBase nodeBase leafBase (s.trees.map treeBits, s.nodes.map nodeBits) k
      { k with pregs := k.pregs.map (fun r =>
          if r.ctx = ctx ∧ r.vid = v.vid ∧ r.share = share then { r with st := 2, treeBase, nodeBase, leafBase } else r) }
    else k) d)

/-- PEAL_PATROL. -/
def execPealPatrol (core share err : Nat) (s : State) := run (.pealPatrol core share err) (pealPatrol core share err) s
/-- PEAL_SCRUB_RELOAD. -/
def execPealScrubReload (core ctx tag share treeBase nodeBase leafBase : Nat) (s : State) :=
  run (.pealScrubReload core ctx tag share treeBase nodeBase leafBase) (pealReload core ctx tag share treeBase nodeBase leafBase) s

end Sys2Proof.Machine
end

