-- ==== Sys2Proof/Machine/Gather.lean ====
section
/-! DEFINITION. GATHER, the coalescers and the gather caches (R381 to R384, R415). -/

namespace Sys2Proof.Machine

/-- The version of a partition's table slot in an epoch (R415). -/
def tabVer (d : Dev) (p slot tag : Nat) : TabVer := tget {} d.tabVers ((256 * p + slot) * 4 + tag)

/-- The number of the epoch that a tag stands for, 0 for none. -/
def epochOfTag (d : Dev) (tag : Nat) : Nat :=
  if d.ep.curTag = tag then d.ep.cur
  else match d.ep.stage, d.ep.drain with
    | some (n, t), some (m, u) => if t = tag then n else if u = tag then m else 0
    | some (n, t), none => if t = tag then n else 0
    | none, some (m, u) => if u = tag then m else 0
    | none, none => 0

/-- The entry of a keyed table for a key in an epoch (R384, R418). -/
def keyedFind (d : Dev) (p slot tag : Nat) (key : List Byte) : Option KeyedEntry :=
  d.keyed.find? (fun e => e.part == p && e.slot == slot && e.key == key && visible e.birth e.death e.opn (epochOfTag d tag))

/-- The index of element `k` of a GATHER: none where a key gives no index (R384). -/
def gatherIndex (d : Dev) (c : Nat) (x : GatherOp) (k : Nat) : Option Nat :=
  match x.keyed with
  | none => some (leNat (refRead d c .dma (x.keys.plus (4 * k)) 4))
  | some s =>
    match keyedFind d ((corePart d c).getD 64) s (coreInv d c).tag (refRead d c .dma (x.keys.plus (x.keyLen * k)) x.keyLen) with
    | some e => some (leNat (e.value.take 4))
    | none => if x.dflt = 0xFFFFFFFF then none else some x.dflt

/-- Whether a GATHER's key list meets a poisoned keyed entry. -/
def gatherPoison (d : Dev) (c : Nat) (x : GatherOp) : Bool :=
  match x.keyed with
  | none => false
  | some s => (List.range x.n).any (fun k =>
      match keyedFind d ((corePart d c).getD 64) s (coreInv d c).tag (refRead d c .dma (x.keys.plus (x.keyLen * k)) x.keyLen) with
      | some e => e.poison
      | none => false)

/-- The 64-byte bursts of `n` bytes from an address. -/
def burstsOf (a n : Nat) : List Nat := (List.range ((a + n - 1) / 64 + 1 - a / 64)).map (fun k => (a / 64 + k) * 64)

/-- Pages of a compute die that some partition holds. -/
def heldPages (d : Dev) (die : Nat) : Nat := (d.parts.map (fun p => (p.2.pages.filter (fun g => g / 64 == die)).length)).sum

/-- A burst is asked of its store die's coalescer: merged with a pending one of the same stack address, else queued (R382). -/
def askBurst (c a : Nat) (d : Dev) : Dev :=
  let m := hbmMap d a
  let i := m.1 / 3
  let q := tget [] d.store.coal i
  if q.any (fun b => b.stack == m.1 && b.sa == m.2) then
    bump .gatherMerged i 0 (onStore (fun s => { s with coal := tput [] s.coal i (q.map (fun b =>
      if b.stack = m.1 ∧ b.sa = m.2 then { b with cores := b.cores ++ [c] } else b)) }) d)
  else
    onStore (fun s => { s with coal := tput [] s.coal i (q ++ [{ addr := a, stack := m.1, sa := m.2, since := beat d, cores := [c] }]) }) d

/-- The gather-cache lines of a compute die. -/
def cacheOf (d : Dev) (die : Nat) : Tab (List Byte) := tget [] d.store.gcache die

/-- One burst of a GATHER: from the die's gather cache when it holds it, else from the coalescer (R383). -/
def needBurst (c : Nat) (cacheable : Bool) (a : Nat) (d : Dev) : Dev :=
  let die := c / 48
  let line := tget [] (cacheOf d die) a
  if cacheable ∧ ¬ line.isEmpty then
    bumpN .poolRdBytes die 0 64 <| bump .gatherCacheHit die 0 (onStore (fun s => { s with gathers := tmod none s.gathers c (fun g =>
      g.map (fun g => { g with got := tput [] g.got a line })) }) d)
  else
    let d := when cacheable (bump .gatherCacheMiss die 0) d
    askBurst c a (onStore (fun s => { s with gathers := tmod none s.gathers c (fun g =>
      g.map (fun g => { g with missing := g.missing ++ [a] })) }) d)

/-- A GATHER starts (R381, R415): indices beyond the table are counted and will be zeros; an element outside the partition's
frames is a core fault of cause REMOTE_DENIED (R378). -/
def gatherEff (c : Nat) (tg : Nat × Nat) (x : GatherOp) (d : Dev) : Dev :=
  let p := (corePart d c).getD 64
  let v := tabVer d p x.slot (coreInv d c).tag
  let rows := if v.kind = 1 then v.nRows else 0
  let elems := (List.range x.n).map (fun k =>
    match gatherIndex d c x k with
    | some i => if i < rows then some (v.base + i * v.rowLen) else none
    | none => none)
  if gatherPoison d c x then dataError c d
  else match elems.find? (fun e => match e with | some a => !frameOk d p a v.rowLen | none => false) with
    | some (some a) => coreFault c .remoteDenied (hbmDeny a d)
    | _ =>
      let d := bumpN .gatherOob (hbmDie d v.base) 0 (elems.filter (·.isNone)).length d
      let d := coreCount .hbmBytes c tg (64 * ((elems.flatMap (fun e => match e with | some a => burstsOf a v.rowLen | none => [])).eraseDups).length) d
      let d := onStore (fun s => { s with gathers := tput none s.gathers c (some { op := x, rowLen := v.rowLen, elems }) }) d
      ((elems.flatMap (fun e => match e with | some a => burstsOf a v.rowLen | none => [])).eraseDups).foldl
        (fun d a => needBurst c v.cacheable a d) d

/-- The bytes of an element from the bursts that have come. -/
def elemBytes (g : GatherRun) (e : Option Nat) : List Byte :=
  match e with
  | none => zeroBytes g.rowLen
  | some a => (((burstsOf a g.rowLen).flatMap (fun b => tget [] g.got b)).drop (a % 64)).take g.rowLen

/-- A GATHER whose bursts have all come: its elements are written in handle row order (R381); an uncorrectable burst ends the
invocation with DATA_ERROR (R388). -/
def gatherWrite (c : Nat) (d : Dev) : Dev :=
  match tget none d.store.gathers c with
  | none => d
  | some g =>
    let d := onStore (fun s => { s with gathers := tput none s.gathers c none }) d
    if g.bad then dataError c d else refWrite c .dma g.op.dst (g.elems.flatMap (elemBytes g)) d

/-- Whether a GATHER of a core has all its bursts. -/
def gatherReady (d : Dev) (c : Nat) : Bool :=
  match tget none d.store.gathers c with | some g => g.missing.isEmpty | none => false

/-- The fault of a GATHER: its lists must lie in LOCAL handles (R381). -/
def gatherFault (d : Dev) (c : Nat) (x : GatherOp) : Option Cause :=
  let v := tabVer d ((corePart d c).getD 64) x.slot (coreInv d c).tag
  let kl := if x.keyed.isSome then x.keyLen else 4
  if x.n = 0 ∨ 65536 < x.n ∨ (x.keyed.isSome ∧ (x.keyLen = 0 ∨ 16 < x.keyLen)) then some .illegalInstr
  else if refOk d c .dma x.keys (kl * x.n) false && refOk d c .dma x.dst (v.rowLen * x.n) true then none else some .handleFault

/-- The data of a served burst reaches every core that waits for it and, from a CACHEABLE table, its die's gather cache while
the die has an unheld page (R382, R383). -/
def deliverBurst (b : Burst) (d : Dev) : Dev :=
  let bad := hbmBad d b.addr 64
  let data := hbmBytes d b.addr 64
  b.cores.foldl (fun d c =>
    let d := onStore (fun s => { s with gathers := tmod none s.gathers c (fun g => g.map (fun g =>
      { g with missing := g.missing.erase b.addr, got := tput [] g.got b.addr data, bad := g.bad || bad })) }) d
    if ¬ bad ∧ inCacheable d b.addr 64 ∧ heldPages d (c / 48) < 64 then
      bumpN .poolWrBytes (c / 48) 0 64 (onStore (fun s => { s with gcache := tmod [] s.gcache (c / 48) (fun t => tput [] t b.addr data) }) d)
    else d) d

/-- The bank of a burst (R374): pseudo-channel and bank, and its DRAM row. -/
def burstBank (b : Burst) : Nat := 1024 * b.stack + 16 * bitsOf b.sa 8 6 + bitsOf b.sa 16 4
/-- The DRAM row of a burst. -/
def dramRow (b : Burst) : Nat := bitsOf b.sa 20 16

/-- The row of a bank with the most pending bursts, the lowest on a tie (R382). -/
def bestRow (bs : List Burst) : Option Nat :=
  bs.foldl (fun best b =>
    let n (r : Nat) := (bs.filter (fun x => dramRow x == r)).length
    match best with
    | none => some (dramRow b)
    | some r => if n r < n (dramRow b) ∨ (n r = n (dramRow b) ∧ dramRow b < r) then some (dramRow b) else some r) none

/-- The burst a bank serves next (R382): `old` asks for the oldest burst past max_wait_ns. -/
def nextBurst (d : Dev) (i bank : Nat) (old : Bool) : Option (Burst × Nat) :=
  let q := ((tget [] d.store.coal i).take 16384).filter (fun b => burstBank b == bank)
  let cfg := regVal d (rCoalCfg i)
  let late := q.filter (fun b => decide (b.since + max 100 (bitsOf cfg 0 16) < beat d))
  let st := tget {} d.store.rows bank
  match late with
  | b :: _ => (q.find? (fun x => dramRow x == dramRow b)).map (fun x => (x, if st.row = some (dramRow b) then st.served + 1 else 1))
  | [] =>
    if old then none
    else
      let here := q.filter (fun b => st.row == some (dramRow b))
      if ¬ here.isEmpty ∧ st.served < max 1 (bitsOf cfg 16 8) then here.head?.map (fun b => (b, st.served + 1))
      else match bestRow q with
        | some r => (q.find? (fun b => dramRow b == r)).map (fun b => (b, 1))
        | none => none

/-- COALESCER_SERVE and COALESCER_MAX_WAIT: one burst of a bank of store die `i` is read and delivered. -/
def coalServe (i bank : Nat) (old : Bool) (d : Dev) : Dev :=
  match nextBurst d i bank old with
  | none => d
  | some (b, n) =>
    let d := onStore (fun s => { s with
      coal := tmod [] s.coal i (fun q => q.filter (fun x => x ≠ b))
      rows := tput {} s.rows bank { row := some (dramRow b), served := n } }) d
    deliverBurst b (hbmCount false ((b.cores.head?.bind (corePart d)).getD 64) b.addr 64 (bump .gatherBursts i 0 d))

end Sys2Proof.Machine
end

