-- ==== Sys2Proof/Machine/Windows.lean ====
section
/-! DEFINITION. Remote windows (R242 to R251): opening and closing, accesses at the target and answers at the initiator. -/

namespace Sys2Proof.Machine

/-- A window of a core. -/
def winOf (d : Dev) (c w : Nat) : Window := tget {} (coreOf d c).windows w

/-- Local rows of a core (R226, R227). -/
def localRows (d : Dev) (c : Nat) : Nat := if tiered d c then 640 else 768

/-- A refusal is logged at the target and counted (R249, Table 7.6). -/
def winRefuse (m : WinMsg) (cause : Nat) (d : Dev) : Dev :=
  let c := m.dst
  let who := if m.pkg = 64 then 1023 else m.src
  let r := regVal d (rWinFault c)
  let v := cause + 16 + m.win % 8 * 32 + m.part % 64 * 256 + who % 1024 * 2 ^ 14 + min 255 (bitsOf r 24 8 + 1) * 2 ^ 24
  setReg (rWinFault c) v (bump .winRefused c 0
    (modCore c (fun k => { k with winLog := ((m.win, cause, who, m.part) :: k.winLog).take 16 }) d))

/-- Why an access is refused (Table 7.3), 0 when it is accepted. -/
def winCheck (d : Dev) (m : WinMsg) (pod : Bool) : Nat :=
  let w := winOf d m.dst m.win
  if clusterPower d (m.dst / 8) = 3 ∨ (clusterOf d (m.dst / 8)).zeroing ∨ frozenCluster d (m.dst / 8) then 5
  else if ¬ w.isOpen then 1
  else if w.rows < m.row + m.n then 2
  else if (if m.write then ¬ w.wr else ¬ w.rd) then 3
  else if w.part ≠ m.part ∨ (pod ∧ ¬ w.pod) then 4
  else 0

/-- Rows that a core receives or serves as a target are counted (R554). -/
def winCountIn (m : WinMsg) : Dev → Dev := bumpN .windowInBytes m.dst 0 (512 * m.n)

/-- Rows that a core sends or receives as an initiator are counted. -/
def winCountOut (m : WinMsg) (d : Dev) : Dev := coreCount .windowOutBytes m.src (m.layer, m.op) (512 * m.n) d

/-- The physical rows of an accepted access. -/
def winRows (d : Dev) (m : WinMsg) : List Nat :=
  (List.range m.n).map (fun i => physRow d m.dst ((winOf d m.dst m.win).base + m.row + i))

/-- The rows an accepted read carries back. -/
def winData (d : Dev) (m : WinMsg) : List Byte := (winRows d m).flatMap (fun p => tbytes (coreOf d m.dst).spad (512 * p) 512)

/-- The rows of an accepted write are written (R246). -/
def winApply (m : WinMsg) (d : Dev) : Dev :=
  let rows := winRows d m
  winCountIn m <| modCore m.dst (fun k => { k with spad := writeRows k.spad rows 0 m.data }) d

/-- The device with an answer on its way to the initiator. -/
def winAnswer (m : WinMsg) : Dev → Dev := onComp (fun x => { x with winBack := x.winBack ++ [m] })

/-- WINDOW_ACCESS_ARRIVE (R244 to R251): the oldest access on its way to a core is accepted or refused whole; one to a cluster
in RETAIN waits while the cluster is woken. `hw` = 3 marks a parity error found by a read. -/
def winArrive (core hw : Nat) (d : Dev) : Dev :=
  match d.comp.winIn.find? (fun m => m.dst == core && m.pkg == ownPkg d) with
  | none => d
  | some m =>
    if clusterPower d (core / 8) = 2 then wakeRequest (core / 8) d
    else
      let d := onComp (fun x => { x with winIn := x.winIn.erase m }) d
      match winCheck d m false with
      | 0 =>
        if m.write then winAnswer { m with data := [] } (winApply m d)
        else if hw = 3 then winAnswer { m with cause := 16 } (bump .spadParity core 0 d)
        else winAnswer { m with data := winData d m } (winCountIn m d)
      | k => winAnswer { m with cause := k, data := [] } (winRefuse m k d)

/-- The instruction a window message stands for. -/
def winInstr (m : WinMsg) : Instr :=
  if m.write then .winWr m.src m.pkg m.dst m.win m.row m.n m.loc m.tok else .winRd m.src m.pkg m.dst m.win m.row m.n m.loc m.tok

/-- Whether a core's DMA engine still runs the instruction of a message. -/
def winWaits (d : Dev) (m : WinMsg) : Bool := (tget {} (coreOf d m.src).engines 10).run.any (fun x => x.instr == winInstr m)

/-- The instruction of a message leaves the DMA engine. -/
def winLeave (m : WinMsg) : Dev → Dev :=
  modCore m.src (fun k => { k with engines := tmod {} k.engines 10 (fun e => { e with run := e.run.eraseP (fun x => x.instr == winInstr m) }) })

/-- The oldest answer of a kind for a core is taken. -/
def takeAnswer (core : Nat) (p : WinMsg → Bool) (f : WinMsg → Dev → Dev) (d : Dev) : Dev :=
  match d.comp.winBack.find? (fun m => m.src == core && p m) with
  | none => d
  | some m =>
    let d := onComp (fun x => { x with winBack := x.winBack.erase m }) d
    if winWaits d m then f m (winLeave m d) else d

/-- The answer of a read reaches its core: rows are written and the token goes up, or the core faults with WINDOW, or
UNCORRECTABLE for a parity error at the target (R247). -/
def readAnswer (m : WinMsg) (d : Dev) : Dev :=
  if m.cause = 0 then settleHalt m.src (tokenUp m.src 10 m.tok (refWrite m.src .dma { m.loc with off := 0 } m.data (winCountOut m d)))
  else coreFault m.src (if m.cause = 16 then .uncorrectable else .window) d

/-- The acknowledgement of a write reaches its core: the completion token goes up (R248). -/
def writeAnswer (m : WinMsg) (d : Dev) : Dev := settleHalt m.src (tokenUp m.src 10 m.tok d)

/-- A refused write's notice reaches its core: a WINDOW fault waits for the first TOK.WAIT on the write's token, or for HALT. -/
def lateFault (m : WinMsg) (d : Dev) : Dev :=
  let d := modCore m.src (fun k => { k with winLate := k.winLate ++ [m.tok] }) d
  match (coreOf d m.src).stall with
  | some (.tokWait _ t _) => if m.tok = some t then coreFault m.src .window d else d
  | _ => settleHalt m.src d

/-- WIN_RD_REPLY (R247). -/
def winRdReply (core : Nat) (d : Dev) : Dev := takeAnswer core (fun m => !m.write) readAnswer d

/-- WIN_WR_ACK (R248). -/
def winWrAck (core : Nat) (d : Dev) : Dev := takeAnswer core (fun m => m.write && m.cause == 0) writeAnswer d

/-- WIN_FAULT_NOTICE (R248). -/
def winFaultNotice (core : Nat) (d : Dev) : Dev := takeAnswer core (fun m => m.write && m.cause != 0) lateFault d

/-- The device with a window message sent (R244). -/
def winSend (m : WinMsg) : Dev → Dev := onComp (fun x => { x with winIn := x.winIn ++ [m] })

/-- A WIN.RD or WIN.WR leaves its DMA engine with the issuing partition's tag; `tg` are its layer and operator. -/
def winEff (c : Nat) (tg : Nat × Nat) (pkg target win row n : Nat) (write : Bool) (loc : Ref) (tok : Option Nat) (d : Dev) : Dev :=
  let part := (corePart d c).getD 0
  let m : WinMsg := { src := c, dst := target, pkg, win, row, n, write, part, loc, tok, layer := tg.1, op := tg.2
                      data := if write then refRead d c .dma { loc with off := 0 } (512 * n) else [] }
  winSend m (if write then winCountOut m d else d)

/-- The fault of a window access at its initiator (R235, R244): 1 to 8 rows of a LOCAL handle. -/
def winFault (d : Dev) (c n : Nat) (write : Bool) (loc : Ref) : Option Cause :=
  if n = 0 ∨ 8 < n then some .illegalInstr
  else if refOk d c .dma { loc with off := 0 } (512 * n) (!write) then none else some .handleFault

/-- WINDOW_OPEN (R243). -/
def windowOpen (t : Nat) (c : Cmd) (d : Dev) : Dev :=
  let w := cmdFld c 24 1
  let perm := cmdFld c 25 1
  let core := cmdFld c 26 2
  let base := cmdFld c 28 2
  let rows := cmdFld c 30 2
  let p := cmdPart d c
  if 768 ≤ core then complete t .invalidField 0 d
  else if ¬ ownsCluster d p (core / 8) then complete t .accessDenied 0 d
  else if 7 < w ∨ rows = 0 ∨ localRows d core < base + rows ∨ perm % 4 = 0 ∨ (winOf d core w).isOpen then complete t .invalidField 0 d
  else
    let win : Window := { isOpen := true, base, rows, rd := bitOf perm 0, wr := bitOf perm 1, pod := bitOf (cmdFld c 32 1) 0, part := p }
    complete t .ok 0 (modCore core (fun k => { k with windows := tput {} k.windows w win }) d)

/-- WINDOW_CLOSE (R243, R250): new arrivals are refused at once; the completion waits for the drain. -/
def windowClose (t : Nat) (c : Cmd) (d : Dev) : Dev :=
  let w := cmdFld c 24 1
  let core := cmdFld c 26 2
  let p := cmdPart d c
  if 768 ≤ core then complete t .invalidField 0 d
  else if ¬ ownsCluster d p (core / 8) then complete t .accessDenied 0 d
  else if 7 < w then complete t .invalidField 0 d
  else if ¬ (winOf d core w).isOpen then complete t .ok 0 d
  else modCmd t (fun c => { c with st := 1 }) (modCore core (fun k => { k with windows := tput {} k.windows w {} }) d)

/-- WINDOW_CLOSE_DRAINED (R250): the last accepted access has finished and the CQ entry is written. -/
def windowCloseDrained (q t : Nat) (d : Dev) : Dev :=
  let c := cmdOf d t
  if c.q = q ∧ opcodeOf c = 0x41 ∧ c.st = 1 then complete t .ok 0 d else d

/-- WINDOW_OPEN. -/
def execWindowOpen (q t : Nat) (s : State) := run (.windowOpen q t) (startCmd 0x40 q t (windowOpen t)) s
/-- WINDOW_CLOSE. -/
def execWindowClose (q t : Nat) (s : State) := run (.windowClose q t) (startCmd 0x41 q t (windowClose t)) s
/-- WINDOW_CLOSE_DRAINED. -/
def execWindowCloseDrained (q t : Nat) (s : State) := run (.windowCloseDrained q t) (windowCloseDrained q t) s
/-- WINDOW_ACCESS_ARRIVE. -/
def execWindowAccessArrive (core hw : Nat) (s : State) := run (.windowAccessArrive core hw) (winArrive core hw) s
/-- WIN_RD_REPLY. -/
def execWinRdReply (core : Nat) (s : State) := run (.winRdReply core) (winRdReply core) s
/-- WIN_WR_ACK. -/
def execWinWrAck (core : Nat) (s : State) := run (.winWrAck core) (winWrAck core) s
/-- WIN_FAULT_NOTICE. -/
def execWinFaultNotice (core : Nat) (s : State) := run (.winFaultNotice core) (winFaultNotice core) s

end Sys2Proof.Machine
end

