-- ==== Sys2Proof/Machine/Links.lean ====
section
/-! DEFINITION. The Jodon fabric (R490 to R509): links, training, blocks, credits, messages, pins, outstanding accesses, losses,
the asynchronous fault queue and FENCE. -/

namespace Sys2Proof.Machine

/-! ## Links -/

/-- The device with its fabric changed. -/
def onFab (f : Fabric → Fabric) (d : Dev) : Dev := { d with fab := f d.fab }
/-- A link. -/
def linkOf (d : Dev) (n : Nat) : Link := tget {} d.fab.links n
/-- The device with a link changed. -/
def modLink (n : Nat) (f : Link → Link) : Dev → Dev := onFab (fun x => { x with links := tmod {} x.links n f })
/-- Whether a link is disabled in OTP (R490). -/
def jodonOff (d : Dev) (n : Nat) : Bool := bitOf (otpCfg d).jodonOff n
/-- The state of a link (Table 16.10): 0 DISABLED, 1 TRAINING, 2 DOWN_NO_PARTNER, 3 UP, 4 REJECTED. -/
def linkState (d : Dev) (n : Nat) : Nat := if jodonOff d n ∨ ¬ bitOf (regVal d (rJodonCfg n)) 0 then 0 else (linkOf d n).state
/-- The links that are UP. -/
def upLinks (d : Dev) : List Nat := (List.range 20).filter (fun n => linkState d n == 3)
/-- The links UP to a package. -/
def linksTo (d : Dev) (pkg : Nat) : List Nat := (upLinks d).filter (fun n => (linkOf d n).partner == pkg)

/-! ## Messages (Table 16.6, R498, R500) -/

/-- Whether a message type carries rows: WRITE and READ_DATA. -/
def carriesRows (type : Nat) : Bool := type == 0x61 || type == 0x65

/-- The flits of a message whose header has a type and a rows byte. -/
def flitsOf (type rows : Nat) : Nat := 1 + (if carriesRows type then 8 * (bitsOf rows 3 3 + 1) else 0)

/-- The virtual channel of a type (R500): 0 CONTROL, 1 REQUEST, 2 RESPONSE. -/
def vcOf (type : Nat) : Nat := if type = 0x67 ∨ type = 0x68 then 0 else if type = 0x61 ∨ type = 0x64 then 1 else 2

/-- The 64 bytes of a header. -/
def msgHeader (m : JMsg) : List Byte :=
  toLe 1 m.type ++ toLe 1 (m.src % 8 + m.dst % 8 * 8) ++ toLe 1 (m.part % 64) ++ toLe 1 (m.win % 8 + (m.rows - 1) % 8 * 8)
    ++ toLe 2 (m.core % 1024) ++ toLe 2 m.row ++ toLe 2 m.agent ++ toLe 2 0 ++ toLe 4 m.tag ++ toLe 8 m.beat
    ++ (if vcOf m.type = 0 then (m.extra ++ zeroBytes (40 - m.extra.length)).take 40 else toLe 1 m.cause ++ zeroBytes 39)

/-- The message that header and payload bytes spell. -/
def msgOf (bs : List Byte) : JMsg :=
  let f (o n : Nat) : Nat := leNat ((bs.drop o).take n)
  { type := f 0 1, src := f 1 1 % 8, dst := f 1 1 / 8 % 8, part := f 2 1 % 64, win := f 3 1 % 8, rows := f 3 1 / 8 % 8 + 1
    core := f 4 2 % 1024, row := f 6 2, agent := f 8 2, tag := f 12 4, beat := f 16 8, cause := f 24 1
    extra := (bs.drop 24).take 40, data := bs.drop 64 }

/-- Credits of a link for a channel. -/
def credOf (l : Link) : Nat → Nat
  | 0 => l.credC
  | 1 => l.credQ
  | _ => l.credP

/-- A link with `n` credits of a channel taken. -/
def takeCred (vc n : Nat) (l : Link) : Link :=
  match vc with
  | 0 => { l with credC := l.credC - n }
  | 1 => { l with credQ := l.credQ - n }
  | _ => { l with credP := l.credP - n }

/-- A link with credits returned, up to the partner's buffers. -/
def giveCred (c q p : Nat) (l : Link) : Link :=
  { l with credC := min 256 (l.credC + c), credQ := min 4096 (l.credQ + q), credP := min 4096 (l.credP + p) }

/-- One message of a channel's waiting ones is sent if it holds its credits. -/
def sendOne (n vc : Nat) (d : Dev) : Dev :=
  let l := linkOf d n
  match l.tx.find? (fun m => vcOf m.type == vc) with
  | none => d
  | some m =>
    let k := 1 + (if carriesRows m.type then 8 * m.rows else 0)
    if credOf l vc < k then d
    else
      let m := { m with beat := beat d }
      let d := modLink n (fun l => takeCred vc k { l with tx := l.tx.eraseP (fun x => vcOf x.type == vc) }) d
      bumpN .jodonTxBytes n 0 (64 * k) (emit (.jodon n (msgHeader m ++ m.data)) d)

/-- Messages leave an UP link while their channels hold credits; CONTROL goes ahead (R500). -/
def pumpLink (n : Nat) (d : Dev) : Dev :=
  if linkState d n ≠ 3 then d
  else
    let k := (linkOf d n).tx.length
    [0, 2, 1].foldl (fun d vc => (List.range k).foldl (fun d _ => sendOne n vc d) d) d

/-- A message is handed to a link. -/
def linkSend (n : Nat) (m : JMsg) (d : Dev) : Dev := pumpLink n (modLink n (fun l => { l with tx := l.tx ++ [m] }) d)

/-! ## Fault queue and FENCE (R507) -/

/-- The fault queue of a function. -/
def faultQOf (d : Dev) (fn : Nat) : FaultQ := tget {} d.fab.faultQ fn
/-- The device with a function's fault queue changed. -/
def modFaultQ (fn : Nat) (f : FaultQ → FaultQ) : Dev → Dev := onFab (fun x => { x with faultQ := tmod {} x.faultQ fn f })

/-- The function on whose behalf an access was made: a core's, or a ring pair's. -/
def outFn (d : Dev) (o : JOut) : Nat :=
  match o.msg with | some m => coreFn d m.src | none => (cmdOf d o.tkt).q / 64

/-- A FAULT_NOTICE is entered in its function's queue and posted as JODON_WINDOW_FAULT (R507). -/
def enterFault (o : JOut) (cause : Nat) (maybe : Bool) (d : Dev) : Dev :=
  let fn := outFn d o
  let key := (o.pkg, o.core, o.win)
  let q := faultQOf d fn
  let d := if q.keys.contains key then d
    else if 64 ≤ q.keys.length then bump .faultOverflow fn 0 (modFaultQ fn (fun q => { q with overflow := true }) d)
    else modFaultQ fn (fun q => { q with keys := q.keys ++ [key] }) d
  postEvent fn 0x0011 (toLe 1 cause ++ toLe 1 o.win ++ toLe 2 o.core ++ toLe 1 o.pkg ++ toLe 1 (b2n maybe) ++ toLe 2 o.agent
    ++ toLe 4 o.tag) d

/-- Package, core and window that a REMOTE_COPY names (Table 14.7). -/
def copyKey (c : Cmd) : Nat × Nat × Nat := (cmdFld c 30 2, cmdFld c 26 2, cmdFld c 28 1)
/-- Package, core and window that a FENCE names. -/
def fenceKey (c : Cmd) : Nat × Nat × Nat := (cmdFld c 32 2, cmdFld c 34 2, cmdFld c 36 1)

/-- A FENCE of scope WINDOW completes once every earlier REMOTE_COPY of its function to its window has (R452, R507). -/
def fenceTry (t : Nat) (d : Dev) : Dev :=
  let c := cmdOf d t
  let fn := cmdFn c
  let key := fenceKey c
  if d.cmds.any (fun e => decide (e.1 < t) && cmdFn e.2 == fn && opcodeOf e.2 == 0x42 && copyKey e.2 == key) then
    modCmd t (fun c => { c with st := 1 }) d
  else
    let q := faultQOf d fn
    if q.keys.contains key then complete t .windowFault 0 (modFaultQ fn (fun q => { q with keys := q.keys.erase key }) d)
    else if q.overflow then complete t .windowFault 0 (modFaultQ fn (fun q => { q with overflow := false }) d)
    else if c.aux.headD 0 = 1 then complete t .linkDown 0 d
    else complete t .ok 0 d

/-- Waiting WINDOW fences of a function are tried again, in ring order. -/
def settleWinFences (fn : Nat) (d : Dev) : Dev :=
  ((d.cmds.filter (fun e => cmdFn e.2 == fn && opcodeOf e.2 == 2 && cmdFld e.2 24 1 == 1 && e.2.st == 1)).map (·.1)).foldl
    (fun d t => fenceTry t d) d

/-- FENCE starts (R452, R507): scope SQ waits for the earlier entries of its pair, scope WINDOW for the earlier REMOTE_COPYs of
its function to the window; no UP link to the package is noted at its issue. -/
def fenceCmd (t : Nat) (c : Cmd) (d : Dev) : Dev :=
  if cmdFld c 24 1 = 0 then
    if d.cmds.any (fun e => e.2.q == c.q && decide (e.1 < t)) then modCmd t (fun c => { c with st := 1 }) d else complete t .ok 0 d
  else
    let noLink := decide (cmdFld c 32 2 ≠ ownPkg d) && (linksTo d (cmdFld c 32 2)).isEmpty
    fenceTry t (modCmd t (fun c => { c with aux := [b2n noLink] }) d)

/-! ## Outstanding accesses -/

/-- A status raised for a REMOTE_COPY: an uncorrectable error, a lost link or a refusal; the first stands. -/
def copyNote (t code : Nat) (d : Dev) : Dev :=
  if cmdLive d t then modCmd t (fun c => { c with aux := [if c.aux.headD 0 = 0 then code else c.aux.headD 0] }) d else d

/-- A REMOTE_COPY whose rows have all been answered completes (R505, R506). -/
def copySettle (t : Nat) (d : Dev) : Dev :=
  if ¬ cmdLive d t ∨ d.fab.outs.any (fun o => o.tkt == t && o.msg.isNone) then d
  else
    let fn := cmdFn (cmdOf d t)
    let st : Status := match (cmdOf d t).aux.headD 0 with
      | 0 => .ok | 1 => .windowFault | 2 => .linkDown | _ => .dataError
    settleWinFences fn (complete t st 0 d)

/-- An outstanding access is no longer outstanding. -/
def dropOut (o : JOut) : Dev → Dev := onFab (fun x => { x with outs := x.outs.erase o })

/-- An access is lost with its pinned link, or by silence (R508): a write is reported as LINK_LOST, perhaps applied; a read
fails. -/
def loseOut (o : JOut) (d : Dev) : Dev :=
  let d := dropOut o d
  if o.write then
    let d := enterFault o 6 true d
    match o.msg with
    | some m => if winWaits d m then lateFault m (winLeave m d) else d
    | none => copySettle o.tkt (copyNote o.tkt 1 d)
  else
    match o.msg with
    | some m => if winWaits d m then coreFault m.src .window (winLeave m d) else d
    | none => copySettle o.tkt (copyNote o.tkt 2 d)

/-- The device with its clocks changed. -/
def onTime (f : Time → Time) (d : Dev) : Dev := { d with time := f d.time }

/-- The root this package follows (R512). -/
def rootId (d : Dev) : Nat := d.time.root.getD (ownPkg d)

/-- The neighbours heard on links that are UP. -/
def heardOn (d : Dev) : List (Nat × Neighbour) := d.time.nbrs.filter (fun e => e.2.heard && linkState d e.1 == 3)

/-- Whether neighbour `a` comes before `b`: the lowest root, the fewest hops, the lowest package, the lowest link (R512). -/
def nearer (a b : Nat × Neighbour) : Bool :=
  decide (a.2.root < b.2.root ∨ a.2.root = b.2.root ∧ (a.2.hops < b.2.hops ∨ a.2.hops = b.2.hops ∧
    (a.2.pkg < b.2.pkg ∨ a.2.pkg = b.2.pkg ∧ a.1 < b.1)))

/-- The upstream this package would choose, if it hears a root lower than itself. -/
def bestUp (d : Dev) : Option (Nat × Neighbour) :=
  ((heardOn d).foldl (fun best e => match best with
    | none => some e
    | some x => if nearer e x then some e else best) none).filter (fun e => decide (e.2.root < ownPkg d))

/-- Root and upstream are chosen (R512, R514, R516): adopting a lower root is a merge, which MERGING shows until SYNCED; a new
root that is higher leaves the state as it is; a package that hears others is not ALONE. -/
def electBeat (d : Dev) : Dev :=
  let old := rootId d
  let set : Dev → Dev := match bestUp d with
    | some e => onTime (fun t => { t with root := some e.2.root, hops := min 7 (e.2.hops + 1), upLink := some e.1 })
    | none => onTime (fun t => { t with root := none, hops := 0, upLink := none, steer := 0, offset := 0 })
  let d := set d
  if rootId d < old then
    when d.boot.ready (bump .beatMerges 0 0) (onTime (fun t => { t with bstate := 2, inSync := 0 }) d)
  else if d.time.bstate = 0 ∧ ¬ (heardOn d).isEmpty then onTime (fun t => { t with bstate := 1 }) d
  else d

/-- The outcomes of a link that leaves UP (R508): messages received and not yet passed on are discarded and counted, waiting
ones are gone, every access pinned to it is lost, its pins are held for 1 ms, and a root is elected among what remains (R516). -/
def linkLost (n next : Nat) (d : Dev) : Dev :=
  let l := linkOf d n
  let d := bumpN .jodonDropLinkdown n 0 l.rx.length d
  let d := modLink n (fun l => { l with
    state := next, phase := 1, since := beat d, downs := min 65535 (l.downs + 1), tx := [], rx := [], flits := [], cause := 0
    partner := 0, partnerLink := 0, logged := [] }) d
  let d := onFab (fun x => { x with pins := x.pins.map (fun p => if p.link = n ∧ p.dead.isNone then { p with dead := some (beat d) } else p) }) d
  let d := (d.fab.outs.filter (fun o => o.link == n)).foldl (fun d o => loseOut o d) d
  let d := onTime (fun t => { t with nbrs := tdel t.nbrs n }) d
  if (upLinks d).isEmpty then onTime (fun t => { t with noLinkSince := beat d }) d else electBeat d

/-- The link an access takes (R504, R508): its pin while that link is UP, none for 1 ms after it failed, else one of the UP links
to the package, whose choice nothing fixes. -/
def pinLink (agent pkg core win : Nat) (d : Dev) : Option Nat × Dev :=
  match d.fab.pins.find? (fun p => p.agent == agent && p.pkg == pkg && p.core == core && p.win == win) with
  | some p => (if p.dead.isNone then some p.link else none, d)
  | none =>
    match linksTo d pkg with
    | [] => (none, d)
    | l :: ls =>
      let n := lget l (l :: ls) (fresh d 20 agent % (ls.length + 1))
      (some n, freshStep (onFab (fun x => { x with pins := x.pins ++ [{ agent, pkg, core, win, link := n }] }) d))

/-- An access is sent on its link and becomes outstanding. -/
def sendAccess (n : Nat) (o : JOut) (data : List Byte) (d : Dev) : Dev :=
  let tag := d.fab.nextTag
  let d := onFab (fun x => { x with nextTag := (tag + 1) % 2 ^ 32, outs := x.outs ++ [{ o with tag, link := n, sent := beat d }] }) d
  linkSend n { type := if o.write then 0x61 else 0x64, src := ownPkg d, dst := o.pkg, part := o.part, win := o.win, rows := o.n
               core := o.core, row := o.row, agent := o.agent, tag, data } d

/-- A WIN.RD or WIN.WR leaves its DMA engine (R503): within the package as a window access, otherwise over Jodon; with no UP link
the core faults (R508). -/
def winOut (c : Nat) (tg : Nat × Nat) (pkg target win row n : Nat) (write : Bool) (loc : Ref) (tok : Option Nat) (d : Dev) : Dev :=
  if pkg = ownPkg d then winEff c tg pkg target win row n write loc tok d
  else
    let part := (corePart d c).getD 0
    let m : WinMsg := { src := c, dst := target, pkg, win, row, n, write, part, loc, tok, layer := tg.1, op := tg.2 }
    match pinLink c pkg target win d with
    | (none, d) => coreFault c .window d
    | (some l, d) =>
      sendAccess l { agent := c, tag := 0, pkg, core := target, win, row, n, write, link := l, sent := 0, part, msg := some m }
        (if write then refRead d c .dma { loc with off := 0 } (512 * n) else []) (if write then winCountOut m d else d)

/-! ## REMOTE_COPY (R503) -/

/-- The agent field of a ring pair (Table 16.6). -/
def pairAgent (q : Nat) : Nat := q % 4096 + (q / 4096 + 1) * 4096

/-- The chunks of at most 8 rows of a copy: first row and count. -/
def copyChunks (rows : Nat) : List (Nat × Nat) := (List.range (ceilDiv rows 8)).map (fun k => (8 * k, min 8 (rows - 8 * k)))

/-- One chunk of a copy inside the package: checked and applied as a window access. -/
def copyLocal (t : Nat) (read : Bool) (hbm : Nat) (m : WinMsg) (d : Dev) : Dev :=
  match winCheck d m false with
  | 0 =>
    if read then hbmPut m.part hbm (winData d m) (winCountIn m d)
    else winApply { m with data := hbmBytes d hbm (512 * m.n) } (hbmCount false m.part hbm (512 * m.n) d)
  | k => copyNote t 1 (winRefuse m k d)

/-- REMOTE_COPY starts: its HBM range is checked, then every chunk is served in the package or sent. -/
def remoteCopy (t : Nat) (c : Cmd) (d : Dev) : Dev :=
  let read := cmdFld c 24 1 == 1
  let rows := cmdFld c 44 4
  let hbm := cmdFld c 32 8
  let row := cmdFld c 40 4
  let core := cmdFld c 26 2
  let win := cmdFld c 28 1
  let pkg := cmdFld c 30 2
  let p := cmdPart d c
  if d.cmds.any (fun e => decide (e.1 < t) && e.2.q == c.q && opcodeOf e.2 == 0x42 && copyKey e.2 == copyKey c && e.2.st == 0) then d
  else if ¬ (if read then hbmWriteOk d p hbm (512 * rows) else frameOk d p hbm (512 * rows)) then
    settleWinFences (cmdFn c) (complete t .accessDenied 0 (hbmDeny hbm d))
  else if ¬ read ∧ hbmBad d hbm (512 * rows) then settleWinFences (cmdFn c) (complete t .dataError 0 d)
  else if pkg = ownPkg d then
    if clusterPower d (core / 8) = 2 then wakeRequest (core / 8) d
    else
      let d := modCmd t (fun c => { c with st := 1, aux := [0] }) d
      copySettle t ((copyChunks rows).foldl (fun d k =>
        copyLocal t read (hbm + 512 * k.1)
          { src := 1023, dst := core, pkg := 64, win, row := row + k.1, n := k.2, write := !read, part := p } d) d)
  else
    match pinLink (pairAgent c.q) pkg core win d with
    | (none, d) => settleWinFences (cmdFn c) (complete t .linkDown 0 d)
    | (some l, d) =>
      let d := modCmd t (fun c => { c with st := 1, aux := [0] }) d
      (copyChunks rows).foldl (fun d k =>
        sendAccess l { agent := pairAgent c.q, tag := 0, pkg, core, win, row := row + k.1, n := k.2, write := !read, link := l
                       sent := 0, part := p, tkt := t, off := k.1 }
          (if read then [] else hbmBytes d (hbm + 512 * k.1) (512 * k.2))
          (if read then d else hbmCount false p (hbm + 512 * k.1) (512 * k.2) d)) d

/-! ## The target -/

/-- The oldest message of a type received on a link. -/
def rxFind (d : Dev) (n : Nat) (p : JMsg → Bool) : Option JMsg := (linkOf d n).rx.find? p
/-- A received message is taken into the package. -/
def rxTake (n : Nat) (m : JMsg) : Dev → Dev := modLink n (fun l => { l with rx := l.rx.erase m })

/-- The window access that a Jodon message asks for; package 64 marks an initiator in another package. -/
def msgAccess (m : JMsg) : WinMsg :=
  { src := m.agent, dst := m.core, pkg := 64, win := m.win, row := m.row, n := m.rows, write := m.type == 0x61, part := m.part, data := m.data }

/-- The answer to a message, on the link it came by. -/
def msgReply (n type cause : Nat) (data : List Byte) (m : JMsg) (d : Dev) : Dev :=
  linkSend n { m with type, src := ownPkg d, dst := m.src, cause, data } d

/-- A WRITE or READ_REQ reaches its target window (R503, R505, R506): accepted or refused whole; a target cluster in RETAIN is
woken first. `hw` = 3 marks a parity error found by a read. -/
def targetAccess (n : Nat) (type hw : Nat) (d : Dev) : Dev :=
  match rxFind d n (fun m => m.type == type) with
  | none => d
  | some m =>
    let w := msgAccess m
    if clusterPower d (m.core / 8) = 2 then wakeRequest (m.core / 8) d
    else
      let d := rxTake n m d
      let cause := if 768 ≤ m.core then 5 else winCheck d w true
      if cause ≠ 0 then
        let d := if m.core < 768 then winRefuse w cause d else d
        msgReply n (if type = 0x61 then 0x63 else 0x66) cause [] m d
      else if type = 0x61 then msgReply n 0x62 0 [] m (winApply w d)
      else if hw = 3 then msgReply n 0x66 (7 + fresh d 21 n % 249) [] m (freshStep (bump .spadParity m.core 0 d))
      else msgReply n 0x65 0 (winData d w) m (winCountIn w d)

/-! ## The initiator -/

/-- The access that an answer received on a link belongs to. -/
def outOf (d : Dev) (m : JMsg) : Option JOut := d.fab.outs.find? (fun o => o.tag == m.tag && o.pkg == m.src)

/-- WRITE_ACK (R506). -/
def gotWriteAck (n : Nat) (d : Dev) : Dev :=
  match rxFind d n (fun m => m.type == 0x62) with
  | none => d
  | some m =>
    let d := rxTake n m d
    match outOf d m with
    | none => d
    | some o =>
      let d := dropOut o d
      match o.msg with
      | some w => if winWaits d w then writeAnswer w (winLeave w d) else d
      | none => copySettle o.tkt d

/-- FAULT_NOTICE (R506, R507). -/
def gotFaultNotice (n : Nat) (d : Dev) : Dev :=
  match rxFind d n (fun m => m.type == 0x63) with
  | none => d
  | some m =>
    let d := rxTake n m d
    match outOf d m with
    | none => d
    | some o =>
      let d := enterFault o m.cause false (dropOut o d)
      match o.msg with
      | some w => if winWaits d w then lateFault w (winLeave w d) else d
      | none => copySettle o.tkt (copyNote o.tkt 1 d)

/-- READ_DATA (R505): rows reach the handle or the HBM they were read for. -/
def gotReadData (n : Nat) (d : Dev) : Dev :=
  match rxFind d n (fun m => m.type == 0x65) with
  | none => d
  | some m =>
    let d := rxTake n m d
    match outOf d m with
    | none => d
    | some o =>
      let d := dropOut o d
      match o.msg with
      | some w => if winWaits d w then readAnswer { w with data := m.data } (winLeave w d) else d
      | none =>
        if cmdLive d o.tkt then copySettle o.tkt (hbmPut o.part (cmdFld (cmdOf d o.tkt) 32 8 + 512 * o.off) m.data d) else d

/-- READ_ERR (R505): a cause of Table 7.3 is a WINDOW fault, LINK_LOST too; any other is a parity error at the target. -/
def gotReadErr (n : Nat) (d : Dev) : Dev :=
  match rxFind d n (fun m => m.type == 0x66) with
  | none => d
  | some m =>
    let d := rxTake n m d
    match outOf d m with
    | none => d
    | some o =>
      let d := dropOut o d
      let refused := decide (1 ≤ m.cause ∧ m.cause ≤ 6)
      match o.msg with
      | some w => if winWaits d w then readAnswer { w with cause := if refused then m.cause else 16 } (winLeave w d) else d
      | none => copySettle o.tkt (copyNote o.tkt (if refused then 1 else 3) d)

/-- JODON_TIMEOUT (R508): no response within 10 ms while the link stays UP. -/
def jodonTimeout (tag : Nat) (d : Dev) : Dev :=
  match d.fab.outs.find? (fun o => o.tag == tag) with
  | some o => if o.sent + 10000000 ≤ beat d ∧ linkState d o.link = 3 then loseOut o d else d
  | none => d

/-- JODON_PIN_HOLD_EXPIRE (R508): pins of a failed link that have been held for 1 ms are gone. -/
def pinHoldExpire (n : Nat) (d : Dev) : Dev :=
  onFab (fun x => { x with pins := x.pins.filter (fun p =>
    !(p.link == n && (match p.dead with | some b => decide (b + 1000000 ≤ beat d) | none => false))) }) d

/-! ## Training (R493 to R497) -/

/-- A link begins training. -/
def beginTraining (n : Nat) (d : Dev) : Dev := modLink n (fun l => { l with state := 1, phase := 1, since := beat d }) d

/-- A link leaves UP for TRAINING, or starts training from another state. -/
def retrainLink (n : Nat) (d : Dev) : Dev := if linkState d n = 3 then linkLost n 1 d else d

/-- JODON_ENABLE_WRITE (R490, R493): `fw` says that a control core wrote. -/
def jodonEnable (n : Nat) (en fw : Bool) (d : Dev) : Dev :=
  if jodonOff d n then when fw (fwBound 2 2) d
  else
    let was := bitOf (regVal d (rJodonCfg n)) 0
    if en = was then d
    else if en then beginTraining n (setFld (rJodonCfg n) 0 1 1 d)
    else
      let d := if linkState d n = 3 then linkLost n 1 d else d
      setFld (rJodonCfg n) 0 1 0 (modLink n (fun l => { l with logged := [], cause := 0 }) d)

/-- JODON_RETRAIN (R524). -/
def jodonRetrain (n : Nat) : Dev → Dev := retrainLink n

/-- A forced recalibration of a link, admitted by the arbiter, takes it down and calibrates it (R496). -/
def jodonRecal (n : Nat) (d : Dev) : Dev :=
  let d := modLink n (fun l => { l with forced := true }) d
  if linkState d n = 3 then linkLost n 1 d else if linkState d n = 0 then d else beginTraining n d

/-- Whether phase 2 runs (R494): the first training since reset, or a recalibration that is due or forced. -/
def needsCal (l : Link) : Bool := !l.calibrated || l.recalDue || l.forced

/-- JODON_TRAINING_PHASE_END (R494): `ok` says that the phase succeeded, `signal` that a lane detected a signal. -/
def phaseEnd (n : Nat) (ok signal : Bool) (d : Dev) : Dev :=
  let l := linkOf d n
  if linkState d n ≠ 1 ∨ l.phase = 5 ∧ ok then d
  else if ¬ ok then
    if signal then modLink n (fun l => { l with phase := 1 }) d
    else modLink n (fun l => { l with state := 2, phase := 1, since := beat d }) d
  else if l.phase = 1 then modLink n (fun l => { l with phase := if needsCal l then 2 else 3 }) d
  else if l.phase = 2 then
    modLink n (fun l => { l with phase := 3, calibrated := true, recalDue := false, forced := false, calTemp := edgeTemp d (n / 5) }) d
  else modLink n (fun l => { l with phase := l.phase + 1 }) d

/-- Why IDENT refuses a link (Table 16.4), 0 when it is accepted; `same` says that the nonces are equal. -/
def identCause (d : Dev) (pkg tag : Nat) (same : Bool) : Nat :=
  if tag ≠ regFld d rPodCfg 8 24 then 1 else if pkg = ownPkg d ∧ ¬ same then 2 else if same then 3 else 0

/-- JODON_IDENT (R495): the link goes UP, or is REJECTED and logged once for each cause since it was last UP or DISABLED. -/
def jodonIdent (n pkg plink tag : Nat) (same : Bool) (d : Dev) : Dev :=
  if linkState d n ≠ 1 ∨ (linkOf d n).phase ≠ 5 then d
  else
    let c := identCause d pkg tag same
    if c = 0 then
      modLink n (fun l => { l with
        state := 3, phase := 1, since := beat d, partner := pkg % 8, partnerLink := plink % 32, cause := 0, logged := []
        rxNext := 0, acked := 65535, replays := 0, credC := 256, credQ := 4096, credP := 4096, tx := [], rx := [], flits := [] }) d
    else
      let seen := (linkOf d n).logged.contains c
      let d := modLink n (fun l => { l with
        state := 4, phase := 1, since := beat d, partner := pkg % 8, partnerLink := plink % 32, cause := c
        logged := if seen then l.logged else l.logged ++ [c] }) d
      when (!seen) (islandLog 0x0112 (edgeSite (n / 5)) n (toLe 1 n ++ toLe 1 c)) d

/-- JODON_RETRY_TIMER (R493): after 1 ms in DOWN_NO_PARTNER or 1 s in REJECTED the link trains again. -/
def retryTimer (n : Nat) (d : Dev) : Dev :=
  let l := linkOf d n
  match linkState d n with
  | 2 => if l.since + 1000000 ≤ beat d then beginTraining n d else d
  | 4 => if l.since + 1000000000 ≤ beat d then beginTraining n d else d
  | _ => d

/-! ## Blocks (R498, R499) -/

/-- A flit joins the message that is arriving; one that begins none is idle. A whole message joins the received ones. -/
def addFlit (l : Link) (flit : List Byte) : Link :=
  let cur := l.flits ++ flit
  let type := leNat (cur.take 1)
  if type < 0x61 ∨ 0x68 < type then { l with flits := [] }
  else if cur.length = 64 * flitsOf type (leNat ((cur.drop 3).take 1)) then { l with flits := [], rx := l.rx ++ [msgOf cur] }
  else { l with flits := cur }

/-- A block's flits, each of 64 bytes. -/
def blockFlits (bs : List Byte) : List (List Byte) := (List.range 80).map (fun k => (bs.drop (64 * k)).take 64)

/-- Message flits of a block: what it adds to the bytes received. -/
def flitsIn (l : Link) (fs : List (List Byte)) : Nat :=
  (fs.foldl (fun (a : Nat × Link) f =>
    let l' := addFlit a.2 f
    (a.1 + b2n (!(l'.flits.isEmpty && l'.rx.length == a.2.rx.length)), l')) (0, l)).1

/-- JODON_BLOCK_RECEIVE (R498, R499): a block that FEC or its crc fails, or that is not the next in order, is discarded and a
replay is asked for; a good one delivers flits, its ack, a replay request and credits. `fec` 1 marks a corrected and 2 an
uncorrectable block. -/
def blockReceive (n fec : Nat) (bs : List Byte) (d : Dev) : Dev :=
  if linkState d n ≠ 3 then d
  else
    let d := bump .jodonBlocksRx n 0 d
    let d := when (fec == 1) (bump .jodonFecCorrected n 0) (when (fec == 2) (bump .jodonFecUncorrectable n 0) d)
    let f (o k : Nat) : Nat := leNat ((bs.drop (5120 + o)).take k)
    let l := linkOf d n
    let nak : Dev → Dev := emit (.jodonNak n ((l.rxNext + 65535) % 65536))
    if fec = 2 ∨ f 16 4 ≠ crc32c 0xFFFFFFFF (bs.take 5136) ∨ f 0 2 ≠ l.rxNext then nak d
    else
      let fs := blockFlits bs
      let got := flitsIn l fs
      let d := modLink n (fun l =>
        let l := fs.foldl addFlit { l with rxNext := (l.rxNext + 1) % 65536 }
        giveCred (f 5 2) (f 7 2) (f 9 2) { l with acked := f 2 2, replays := if l.acked = f 2 2 then l.replays else 0 }) d
      let d := bumpN .jodonRxBytes n 0 (64 * got) d
      let d := if bitOf (f 4 1) 0 then
          let b := (f 2 2 + 1) % 65536
          bump .jodonReplays n 0 (modLink n (fun l => { l with replays := if l.replayOf = b then l.replays + 1 else 1, replayOf := b }) d)
        else d
      pumpLink n d

/-- JODON_LINK_FAIL (R499): 16 consecutive replays of one block have failed. -/
def linkFail (n : Nat) (d : Dev) : Dev := if linkState d n = 3 ∧ 16 ≤ (linkOf d n).replays then linkLost n 1 d else d

end Sys2Proof.Machine
end

