-- ==== Sys2Proof/Machine/Pins.lean ====
section
/-! DEFINITION. Multi-function pins, the tachometers and the straps (R636 to R642), and PPS_OUT (R523). -/

namespace Sys2Proof.Machine

/-- The device with its pins changed. -/
def onPins (f : Pins → Pins) (d : Dev) : Dev := { d with pins := f d.pins }

/-- A multi-function pin; one that no write has changed carries its reset function. -/
def mfioOf (d : Dev) (n : Nat) : Mfio :=
  match tget none d.pins.mfio n with
  | some m => m
  | none => { func := if n ≤ 10 then 6 else if n = 11 then 3 else 0 }

/-- The device with a pin changed. -/
def modMfio (n : Nat) (f : Mfio → Mfio) (d : Dev) : Dev :=
  onPins (fun x => { x with mfio := tput none x.mfio n (some (f (mfioOf d n))) }) d

/-- Whether a pin parks, or awaits the end of a pulse to park. -/
def parked (m : Mfio) : Bool := m.next.isSome

/-- The level of PPS_OUT: low while pps_out_en is 0 (Table 21.5). -/
def ppsOut (d : Dev) : Bool := d.time.outHigh && regFld d rTodCtrl 4 1 == 1

/-- What a pin drives, none while it is high-impedance (Table 21.7, R640). -/
def mfioDrive (d : Dev) (n : Nat) : Option Bool :=
  let m := mfioOf d n
  let out := regFld d (rMfioCfg n) 4 1 == 1
  if m.next.isSome ∧ m.parkEnd.isSome then none
  else match m.func with
    | 1 => some out
    | 2 => if out then none else some false
    | 3 => if d.isl.alert then some false else none
    | 4 => some (ppsOut d && !m.skipPulse)
    | 6 => some (decide (n < d.boot.rails))
    | _ => none

/-- The level read in AON_MFIO_STAT_n: what is driven, the held input otherwise. -/
def mfioLevel (d : Dev) (n : Nat) : Bool := (mfioDrive d n).getD (mfioOf d n).level

/-- The park time in ns (Table 21.11). -/
def parkNs (d : Dev) : Nat := max 1 (min 16 (regFld d rMfioPark 0 5)) * 1000

/-- A write of another function parks the pin, or parks it at the end of the pulse it carries (R640, Table 21.8). -/
def mfioSwitch (n f : Nat) (d : Dev) : Dev :=
  let m := mfioOf d n
  let pulse := m.func == 4 && ppsOut d && !m.skipPulse && !(m.next.isSome && m.parkEnd.isSome)
  let level := if m.next.isSome ∧ m.parkEnd.isSome then m.level else mfioLevel d n
  let stop := beat d + parkNs d
  modMfio n (fun m => { m with next := some f, parkEnd := if pulse then none else some stop, level, lastEdge := none }) d

/-- MFIO_CFG_WRITE (R638, R640, R641): pull and out apply at once, another function parks the pin; `fw` says that a control core
wrote. -/
def mfioWrite (n val : Nat) (fw : Bool) (d : Dev) : Dev :=
  let f := bitsOf val 0 3
  let reject : Dev → Dev := setFld (rMfioStat n) 2 1 1
  if n ≤ 10 then
    let d := setFld (rMfioCfg n) 4 1 (bitsOf val 4 1) d
    if bitsOf val 0 4 = 6 then d else when fw (fwBound 3 3) (reject d)
  else if 6 ≤ f then reject d
  else
    let m := mfioOf d n
    let d := if m.next.getD m.func = f then d else mfioSwitch n f d
    setFld (rMfioCfg n) 0 5 (bitsOf val 0 5) d

/-- MFIO_PARK_END (R640): the newest function starts to drive and to sample the pin. -/
def mfioParkEnd (n : Nat) (d : Dev) : Dev :=
  let m := mfioOf d n
  match m.next, m.parkEnd with
  | some f, some stop =>
    if stop ≤ beat d then
      let mid := f == 4 && d.time.outHigh
      modMfio n (fun m => { m with func := f, next := none, parkEnd := none, tach := 0, winFrom := stop, lastEdge := none, skipPulse := mid }) d
    else d
  | _, _ => d

/-- FAN_TACH_EDGE (R642): a falling edge at least 20 µs after the last accepted one is counted. -/
def tachEdge (n : Nat) (d : Dev) : Dev :=
  let m := mfioOf d n
  let now := beat d
  if m.func ≠ 5 ∨ parked m then d
  else match m.lastEdge with
    | some b => if now < b + 20000 then modMfio n (fun m => { m with level := false }) d
      else modMfio n (fun m => { m with level := false, tach := m.tach + 1, lastEdge := some now }) d
    | none => modMfio n (fun m => { m with level := false, tach := m.tach + 1, lastEdge := some now }) d

/-- TACH_WINDOW (R642): the count of a complete 1 s window is shown. -/
def tachWindow (n : Nat) (d : Dev) : Dev :=
  let m := mfioOf d n
  if m.func = 5 ∧ ¬ parked m ∧ m.winFrom + 1000000000 ≤ beat d then
    modMfio n (fun m => { m with tach := 0, winFrom := m.winFrom + 1000000000 }) (setFld (rMfioStat n) 16 16 (min 65535 m.tach) d)
  else d

/-- STRAP_CHECK (R636): a reading that differs from the sampled straps sets strap_changed. -/
def strapCheck (straps : Nat) (d : Dev) : Dev := when (straps % 64 != d.pins.straps % 64) (setFld rStraps 6 1 1) d

/-! ## PPS_OUT (R523) -/

/-- PPS_OUT rises, with the pulse width of this moment; PPS_OUT2 pins that waited for an edge follow it. -/
def ppsRise (d : Dev) : Dev :=
  let w := max 1 (min 500000 (regFld d rTodCtrl 5 20)) * 1000
  let now := beat d
  onPins (fun x => { x with mfio := tmap none (fun _ m => m.map (fun m => { m with skipPulse := false })) x.mfio })
    (onTime (fun t => { t with outRise := some now, outHigh := true, outWidth := w }) d)

/-- PPS_OUT_EDGE (R523): a rising edge falls where the ToD nanoseconds field reaches 0. -/
def ppsOutEdge (d : Dev) : Dev :=
  let due := match d.time.outRise with | none => true | some b => decide (b + 500000000 ≤ beat d)
  if d.time.todNs % 1000000000 ≤ 1 ∧ due = true then ppsRise d else d

/-- PPS_OUT_PULSE_END (R523, R641): PPS_OUT falls, and pins that switch away from it start their parks. -/
def ppsPulseEnd (d : Dev) : Dev :=
  match d.time.outRise with
  | none => d
  | some b =>
    if d.time.outHigh ∧ b + d.time.outWidth ≤ beat d then
      let stop := beat d + parkNs d
      onPins (fun x => { x with mfio := tmap none (fun _ m => m.map (fun m =>
          if m.next.isSome ∧ m.parkEnd.isNone then { m with parkEnd := some stop } else m)) x.mfio })
        (onTime (fun t => { t with outHigh := false }) d)
    else d

end Sys2Proof.Machine
end

