-- ==== Sys2Proof/Machine/Clock.lean ====
section
/-! DEFINITION. The Beat counter's synchronisation and the time of day (R510 to R523), and the passing of a nanosecond. -/

namespace Sys2Proof.Machine

/-! ## BEAT_SYNC (R512 to R516) -/

/-- A neighbour, by link. -/
def nbrOf (d : Dev) (n : Nat) : Neighbour := tget {} d.time.nbrs n
/-- The device with a neighbour changed. -/
def modNbr (n : Nat) (f : Neighbour → Neighbour) : Dev → Dev := onTime (fun t => { t with nbrs := tmod {} t.nbrs n f })

/-- Bytes 24–63 of a BEAT_SYNC: its sender's root, hops and send time t1; t2, when its sender received the last one; and t3, when it
answers that one. -/
def syncBytes (root hops t1 t2 t3 : Nat) : List Byte :=
  toLe 1 root ++ toLe 1 hops ++ zeroBytes 6 ++ toLe 8 t1 ++ toLe 8 t2 ++ toLe 8 t3

/-- BEAT_SYNC_SEND (R512): every 1 ms an UP link sends a BEAT_SYNC. -/
def beatSyncSend (n : Nat) (d : Dev) : Dev :=
  let x := nbrOf d n
  let now := beat d
  if linkState d n ≠ 3 ∨ (x.sent ≠ 0 ∧ now < x.sent + 1000000) then d
  else
    linkSend n { type := 0x68, src := ownPkg d, dst := (linkOf d n).partner, extra := syncBytes (rootId d) d.time.hops now x.t2 now }
      (modNbr n (fun x => { x with sent := now }) d)

/-- The steering that drives an offset to zero within ±100 ppm (R513): its sign is the offset's, its size is not stated. -/
def steerBy (off : Int) (mag : Nat) : Int := if off = 0 then 0 else if off < 0 then -(mag % 100001 : Nat) else (mag % 100001 : Nat)

/-- A measurement from the upstream (R513): the offset, the count towards SYNCED and the steering. -/
def measure (n t1 t2 t3 t4 : Nat) (d : Dev) : Dev :=
  let off : Int := (((t2 : Int) - t1) - ((t4 : Int) - t3)) / 2
  let mag := fresh d 22 n
  freshStep (onTime (fun t =>
    let k := if -10 ≤ off ∧ off ≤ 10 then min 16 (t.inSync + 1) else 0
    { t with offset := off, inSync := k, bstate := if k = 16 then 1 else t.bstate, steer := steerBy off mag }) d)

/-- The Beat is loaded (R515): set at once; entries logged before it are marked as unsynchronised. -/
def loadBeat (b : Nat) (d : Dev) : Dev :=
  setFld rBeatStatus 9 1 1 (bump .beatLoads 0 0 (onIsl (fun x => { x with
    log := x.log.map (fun e => { e with unsync := true }), unsaved := x.unsaved.map (fun e => { e with unsync := true }) })
    (onTime (fun t => { t with beat := b % 2 ^ 64 }) d)))

/-- BEAT_SYNC (R512 to R516): root and upstream are chosen; a package that adopts a lower root loads the root's Beat before
device-ready and merges after it, and the Beat is steered by what the upstream sends. -/
def beatSync (n : Nat) (d : Dev) : Dev :=
  match rxFind d n (fun m => m.type == 0x68) with
  | none => d
  | some m =>
    let f (o k : Nat) : Nat := leNat ((m.extra.drop o).take k)
    let t4 := beat d
    let was := rootId d
    let x := nbrOf d n
    let echo := x.sent ≠ 0 ∧ f 16 8 ≠ 0
    let delay : Int := if echo then (((t4 : Int) - x.sent) - ((f 8 8 : Int) - f 16 8)) / 2 else 0
    let d := rxTake n m d
    let d := modNbr n (fun x => { x with root := f 0 1 % 8, hops := f 1 1 % 8, pkg := m.src, t1 := f 8 8, t2 := t4, heard := true }) d
    let d := electBeat d
    if rootId d < was ∧ ¬ d.boot.ready then loadBeat ((f 8 8 : Int) + max 0 delay).toNat d
    else if d.time.upLink = some n ∧ echo then measure n x.sent (f 16 8) (f 8 8) t4 d
    else d

/-- BEAT_ALONE (R512): a package without an UP link for 10 ms is the root of its own domain. -/
def beatAlone (d : Dev) : Dev :=
  if (upLinks d).isEmpty ∧ d.time.noLinkSince + 10000000 ≤ beat d then
    onTime (fun t => { t with root := none, hops := 0, bstate := 0, upLink := none, steer := 0, offset := 0, inSync := 0, nbrs := [] }) d
  else d

/-- BEAT_READ (R511): a read of HUB_BEAT_LO latches the Beat and the time of day. -/
def beatRead (d : Dev) : Dev :=
  emit (.readData 0x6004 (beat d % 2 ^ 32)) (onTime (fun t => { t with beatHi := t.beat / 2 ^ 32, snap := t.todNs }) d)

/-! ## Time of day (R517 to R523) -/

/-- Whether a phase authority is valid (R520). -/
def phaseValid (d : Dev) : Bool := d.time.ppsValid || d.time.swValid

/-- The state of the ToD follows its references (R521); it keeps its state while a step is pending. -/
def todFollow (d : Dev) : Dev :=
  if phaseValid d then
    if d.time.stepPend.isSome ∨ d.time.stepSec.isSome then d else onTime (fun t => { t with tstate := 1 }) d
  else if d.time.tstate = 1 then onTime (fun t => { t with tstate := 2 }) d
  else d

/-- An offset is presented (R522): below 500 µs it is slewed, otherwise it awaits a step boundary. -/
def present (off : Int) : Dev → Dev :=
  onTime (fun t =>
    if -500000 < off ∧ off < 500000 then { t with slew := off, slewing := decide (off ≠ 0), stepPend := none }
    else { t with slew := 0, slewing := false, stepPend := some off })

/-- TOD_READ (R525): a read of HUB_TOD_NS latches the seconds. -/
def todRead (d : Dev) : Dev :=
  emit (.readData 0x6010 (d.time.todNs % 1000000000)) (onTime (fun t => { t with todSec := t.todNs / 1000000000 }) d)

/-- The offset that the instant of a PPS edge shows: to the nearest whole second. -/
def edgeOffset (ns : Nat) : Int := if ns % 1000000000 < 500000000 then -((ns % 1000000000 : Nat) : Int) else 1000000000 - (ns % 1000000000 : Nat)

/-- PPS_IN_EDGE (R520 to R522): the edge is time-stamped; three edges 1 s ± 1 µs apart make the reference valid, and a valid one
disciplines the phase. -/
def ppsInEdge (d : Dev) : Dev :=
  let now := beat d
  let d := onTime (fun t => { t with ppsNs := t.todNs % 1000000000 }) d
  if regFld d rTodCtrl 0 1 = 0 then d
  else if d.time.ppsValid then
    let off := (now - d.time.ppsLast.getD now) % 1000000000
    if off ≤ 1000000 ∨ 999000000 ≤ off then
      todFollow (present (edgeOffset d.time.todNs) (onTime (fun t => { t with ppsLast := some now }) d))
    else d
  else
    let near := match d.time.ppsLast with
      | some b => decide (b + 999999000 ≤ now ∧ now ≤ b + 1000001000)
      | none => false
    let d := onTime (fun t => { t with ppsLast := some now, ppsGood := if near then t.ppsGood + 1 else 1 }) d
    if 3 ≤ d.time.ppsGood then
      todFollow (present (edgeOffset d.time.todNs) (onTime (fun t => { t with ppsValid := true }) d))
    else d

/-- PPS_IN_LOST (R520, R521): two seconds without an edge within ±1 ms of its expected instant. -/
def ppsInLost (d : Dev) : Dev :=
  match d.time.ppsLast with
  | some b =>
    if d.time.ppsValid ∧ b + 2001000000 ≤ beat d then
      todFollow (bump .ppsInMissing 0 0 (onTime (fun t => { t with ppsValid := false, ppsLast := none, ppsGood := 0 }) d))
    else d
  | none => d

/-- REF10M_LOST (R520). -/
def ref10mLost : Dev → Dev := onTime (fun t => { t with refValid := false, refSeen := false })

/-- REF10M_VALID (R520). -/
def ref10mValid (d : Dev) : Dev :=
  let en := regFld d rTodCtrl 1 1 == 1
  onTime (fun t => { t with refValid := en, refSeen := true }) d

/-- SW_REF_TIMEOUT (R520, R521): no write of HUB_TOD_ADJ within sw_timeout_s. -/
def swRefTimeout (d : Dev) : Dev :=
  if d.time.swValid ∧ d.time.swLast + max 1 (regFld d rTodCtrl 25 7) * 1000000000 ≤ beat d then
    todFollow (onTime (fun t => { t with swValid := false }) d)
  else d

/-- TOD_ADJ (R520, R522): ignored while PPS_IN is valid, otherwise an offset is presented and the software reference is valid
while enabled. -/
def todAdj (val : Nat) (d : Dev) : Dev :=
  if d.time.ppsValid then setFld rTodStatus 8 1 1 d
  else
    let en := regFld d rTodCtrl 2 1 == 1
    let now := beat d
    todFollow (present (signedOf 32 val) (onTime (fun t => { t with swValid := en, swLast := now }) d))

/-- TOD_SET_GO (R522): the seconds of HUB_TOD_SET_LO and HI are requested at the next step boundary. -/
def todSetGo (val : Nat) (d : Dev) : Dev :=
  let d := setFld rTodSetHi 0 16 (bitsOf val 0 16) d
  let sec := regVal d rTodSetLo + bitsOf val 0 16 * 2 ^ 32
  when (bitOf val 31) (onTime (fun t => { t with stepSec := some sec })) d

/-- What the ToD reads in the new scale, at this instant. -/
def newTod (d : Dev) : Int := (d.time.todNs : Int) + d.time.stepPend.getD 0

/-- Whether a pending step may be applied now (R522, R523): step_allow or FREERUN, a whole second of the new scale, and 0.5 s to
1.5 s after the last rising edge of PPS_OUT. -/
def stepDue (d : Dev) : Bool :=
  (d.time.stepPend.isSome || d.time.stepSec.isSome) && (regFld d rTodCtrl 3 1 == 1 || d.time.tstate == 0)
    && decide (newTod d % 1000000000 = 0)
    && (match d.time.outRise with
        | none => true
        | some b => decide (b + 500000000 ≤ beat d ∧ beat d < b + 1500000000))

/-- TOD_STEP_APPLY (R522, R523): the step is made, PPS_OUT rises, and TIME_STATE is posted to partition 0. -/
def todStepApply (d : Dev) : Dev :=
  if ¬ stepDue d then d
  else
    let old := d.time.tstate
    let ns : Nat := match d.time.stepSec with
      | some s => s * 1000000000
      | none => (newTod d).toNat % (2 ^ 48 * 1000000000)
    let off : Int := (ns : Int) - d.time.todNs
    let d := onTime (fun t => { t with todNs := ns, stepPend := none, stepSec := none, slew := 0, slewing := false }) d
    let d := gatesJump (todFollow (ppsRise d))
    let d := setFld rTodCtrl 3 1 0 (setFld rTodStatus 7 1 1 (bump .todSteps 0 0 d))
    match partFn d 0 with
    | some fn => postEvent fn 0x0012 (toLe 1 d.time.tstate ++ toLe 1 old ++ toLe 1 1 ++ zeroBytes 5 ++ toLe 8 (beat d)
        ++ toLe 8 (wrapInt 64 off)) d
    | none => d

/-- TOD_SLEW_DONE (R522): the offset has been removed. -/
def todSlewDone (d : Dev) : Dev := if d.time.slew = 0 then onTime (fun t => { t with slewing := false }) d else d

/-- The references follow a write of HUB_TOD_CTRL: one that is not enabled is not valid (Table 16.9). -/
def todCtrlWritten (d : Dev) : Dev :=
  let c := regVal d rTodCtrl
  todFollow (onTime (fun t => { t with
    ppsValid := t.ppsValid && bitOf c 0, ppsGood := if bitOf c 0 then t.ppsGood else 0, ppsLast := if bitOf c 0 then t.ppsLast else none
    refValid := t.refValid && bitOf c 1, swValid := t.swValid && bitOf c 2 }) d)

/-! ## A nanosecond passes -/

/-- The correction a rate of parts per 10^9 brings to one nanosecond: what is gathered, and a whole nanosecond when it is full. -/
def accrue (acc rate : Int) : Int × Int :=
  let x := acc + rate
  if 1000000000 ≤ x then (x - 1000000000, 1) else if x ≤ -1000000000 then (x + 1000000000, -1) else (x, 0)

/-- The mean frequency correction of the last 16 s of LOCKED, in parts per 10^9 (R521): the ns corrected per second. -/
def lockMean (t : Time) : Int := if t.lockSecs.isEmpty then 0 else t.lockSecs.sum / (t.lockSecs.length : Int)

/-- The rate correction that the ToD runs by without REF10M_IN: freq_ppb in FREERUN, the mean correction of LOCKED in HOLDOVER
(R520, R521). -/
def todRate (d : Dev) : Int :=
  let f := signedOf 32 (regVal d rTodFreq)
  if d.time.refValid then 0
  else if d.time.tstate = 0 then max (-100000) (min 100000 f)
  else if d.time.tstate = 2 then max (-100000) (min 100000 (lockMean d.time))
  else 0

/-- A nanosecond of LOCKED that corrected `c` ns joins the last 16 s (R521). -/
def lockTick (c : Int) (t : Time) : Time :=
  if t.tstate ≠ 1 then t
  else if t.lockNs + 1 < 1000000000 then { t with lockNs := t.lockNs + 1, lockSum := t.lockSum + c }
  else { t with lockNs := 0, lockSum := 0, lockSecs := (t.lockSecs ++ [t.lockSum + c]).drop ((t.lockSecs.length + 1) - 16) }

/-- The slew's rate: 50 ppm towards the offset (R522). -/
def slewRate (d : Dev) : Int := if d.time.slew = 0 then 0 else if d.time.slew < 0 then -50000 else 50000

/-- The busy counters of a core that runs an invocation go up for one nanosecond (R555), in units of 1/16,000 of a core cycle: the
cycles of a nanosecond are the clock in MHz / 1,000, times the compute duty in 1/16 (R588, R593). -/
def busyCore (c : Nat) (k : Core) (d : Dev) : Dev :=
  let n := clockMHz d (c / 8) * dutyNow d
  let head (e : Nat) : Option EngOp := (tget {} k.engines e).run.head?
  let d := coreCount .coreCycles c (k.layer, k.operator) n d
  let d := (List.range 10).foldl (fun d e => match head e with
    | some x => coreCount (if e < 8 then .arrayBusy else if e = 8 then .vectorBusy else .pealBusy) c (x.layer, x.op) n d
    | none => d) d
  d

/-- The cores that run an invocation count a nanosecond. -/
def busyTick (d : Dev) : Dev :=
  d.comp.cores.foldl (fun d e => if e.2.inv ≠ 0 ∧ clusterPower d (e.1 / 8) = 0 ∧ ¬ frozenCluster d (e.1 / 8) then busyCore e.1 e.2 d else d) d

/-- One nanosecond of the system reference passes: the Beat advances by it and by its steering, the ToD by it, by its rate
correction and by its slew, neither ever backward (R510, R517, R521, R522). -/
def tick (d : Dev) : Dev :=
  let d := busyTick d
  let b := accrue d.time.bacc d.time.steer
  let f := accrue d.time.tacc (todRate d)
  let s := accrue d.time.sacc (slewRate d)
  onTime (fun t => { lockTick s.2 t with
    beat := (t.beat + (1 + b.2).toNat) % 2 ^ 64, bacc := b.1
    todNs := (t.todNs + (1 + f.2 + s.2).toNat) % (2 ^ 48 * 1000000000), tacc := f.1, sacc := s.1, slew := t.slew - s.2 }) d

end Sys2Proof.Machine
end

