-- ==== Sys2Proof/Machine/Engines.lean ====
section
/-! DEFINITION. The engines of a core (R186, R187): which engine an instruction goes to, its faults and its effect, queues,
starts and completions. -/

namespace Sys2Proof.Machine

/-- The engine numbers an instruction occupies (Table 6.1, R203); an array that does not exist counts as engine 12. -/
def enginesOf (d : Dev) (c : Nat) : Instr → List Nat
  | .mm _ x _ => [(physArray d c x.arr).getD 12]
  | .mmG4 _ x _ => (List.range 4).map (fun g => (physArray d c (x.arr + g)).getD 12)
  | .as _ x => [(physArray d c x.arr).getD 12]
  | .asld _ x => [(physArray d c x.arr).getD 12]
  | .op _ x => [(physArray d c x.arr).getD 12]
  | .accOut _ x => [(physArray d c x.arr).getD 12]
  | .accClr _ arr _ _ _ => [(physArray d c arr).getD 12]
  | .vld _ _ _ _ _ | .vst _ _ _ _ | .vectorElementwise _ _ _ _ _ _ _ _ | .vred _ _ _ _ _ _ | .vcvt _ _ | .vrq _ _
  | .vlut _ _ _ _ _ | .vectorPermute _ _ _ _ _ _ _ _ => [8]
  | .pealLoad _ _ _ _ _ _ | .pealEval _ _ _ => [9]
  | .dmaIn _ _ | .dmaOut _ _ | .gather _ _ | .winRd _ _ _ _ _ _ _ _ | .winWr _ _ _ _ _ _ _ _ => [10]
  | .sld _ _ _ _ _ _ | .sst _ _ _ _ _ | .fill _ _ _ _ _ | .copy _ _ _ _ _ _ | .tcopy _ _ _ _ _ | .sread _ _ _ _ _ _ _ _ => [11]
  | _ => []

/-- The completion token an instruction names (R187). -/
def tokenOf : Instr → Option Nat
  | .mm _ x _ => x.tok
  | .mmG4 _ x _ => x.tok
  | .as _ x => x.tok
  | .asld _ x => x.tok
  | .op _ x => x.tok
  | .accOut _ x => x.tok
  | .accClr _ _ _ _ t => t
  | .vld _ _ _ _ t => t
  | .vst _ _ _ t => t
  | .vectorElementwise _ _ _ _ _ _ _ t => t
  | .vred _ _ _ _ _ t => t
  | .vcvt _ x => x.tok
  | .vrq _ x => x.tok
  | .vlut _ _ _ _ t => t
  | .vectorPermute _ _ _ _ _ _ _ t => t
  | .pealLoad _ _ _ _ _ t => t
  | .pealEval _ x _ => x.tok
  | .dmaIn _ x => x.tok
  | .dmaOut _ x => x.tok
  | .gather _ x => x.tok
  | .sld _ _ _ _ _ t => t
  | .sst _ _ _ _ t => t
  | .fill _ _ _ _ t => t
  | .copy _ _ _ _ _ t => t
  | .tcopy _ _ _ _ t => t
  | .sread _ _ _ _ _ _ _ t => t
  | _ => none

/-- The rows of a DMA transfer must lie in its handles (R230, R235). -/
def dmaFault (d : Dev) (c : Nat) (out : Bool) (x : DmaOp) : Option Cause :=
  if refOk d c .dma { x.loc with off := 0 } (512 * x.n) (!out)
      && (match x.scale with | some (_, r) => refOk d c .dma r x.n (!out) | none => true)
      && (x.space != 0 || (List.range x.n).all (fun i => (sharedRow d c x.sh.h (x.sh.row + i) out).isSome))
    then none else some .handleFault

/-- A flag for a fault. -/
def handleIf (b : Bool) : Option Cause := if b then none else some .handleFault

/-- The core fault an instruction meets at its issue, if any (Table 6.8). -/
def engFault (d : Dev) (c : Nat) : Instr → Option Cause
  | .mm _ x hw => if 2 ≤ hw then some .uncorrectable else mmFault d c x 1
  | .mmG4 _ x hw => if 2 ≤ hw then some .uncorrectable else mmFault d c x 4
  | .as _ x => asFault d c x false
  | .asld _ x => asFault d c x true
  | .op _ x => opFault d c x
  | .accOut _ x => accOutFault d c x
  | .accClr _ arr b n _ => accClrFault d c arr b n
  | .vld _ _ src hw _ => if 2 ≤ hw then some .uncorrectable else handleIf (refOk d c .vec src 128 false)
  | .vst _ _ dst _ => handleIf (refOk d c .vec dst 128 true)
  | .vectorElementwise _ o f _ _ _ _ _ => if vecHas o f then none else some .illegalInstr
  | .vred _ kind f _ _ _ => if redHas kind f then none else some .illegalInstr
  | .vcvt _ x => if stochBad d c x.rq then some .illegalInstr else handleIf (cvtRefs d c x)
  | .vrq _ x => if stochBad d c x.rq ∨ ¬ fmtIsInt x.rq.dstFmt then some .illegalInstr else handleIf (cvtRefs d c { x with srcFmt := 14 })
  | .vlut _ _ _ tab _ => handleIf (refOk d c .vec tab 768 false)
  | .pealLoad _ s src n dst _ => pealLoadFault d c s src n dst
  | .pealEval _ x hw => if hw = 2 ∨ hw = 3 then some .uncorrectable else pealEvalFault d c x
  | .dmaIn _ x => dmaFault d c false x
  | .dmaOut _ x => dmaFault d c true x
  | .gather _ x => gatherFault d c x
  | .winRd _ _ _ _ _ n dst _ => winFault d c n false dst
  | .winWr _ _ _ _ _ n src _ => winFault d c n true src
  | .sld _ _ src w hw _ => if 2 ≤ hw then some .uncorrectable else handleIf (refOk d c .seq src w false)
  | .sst _ _ dst w _ => handleIf (refOk d c .seq dst w true)
  | .fill _ dst n _ _ => handleIf (refOk d c .seq { dst with off := 0 } (512 * n) true)
  | .copy _ src dst arr n _ => handleIf (refOk d c (copyUse d c arr) { src with off := 0 } (512 * n) false
      && refOk d c (copyUse d c arr) { dst with off := 0 } (512 * n) true)
  | .tcopy _ src dst w _ =>
    if ¬ shuffleOk d c ∨ ¬ (w = 1 ∨ w = 2 ∨ w = 4) then some .illegalInstr
    else if ¬ refOk d c .seq { src with off := 0 } 8192 false ∨ ¬ refOk d c .seq { dst with off := 0 } 8192 true
        ∨ rowsMeet d c src dst 16 then some .handleFault else none
  | .sread _ src dst n w start stride _ =>
    if ¬ shuffleOk d c ∨ ¬ (w = 1 ∨ w = 2 ∨ w = 4) ∨ stride = 0 ∨ 65535 < stride then some .illegalInstr
    else handleIf (refOk d c .seq { dst with off := 0 } (512 * n) true
      && (List.range (n * (512 / w))).all (fun k => refOk d c .seq ({ src with off := 0 }.plus (sreadOff w start stride k)) w false))
  | _ => none

/-- What an issue leaves beside its fault: a corrected handle entry or Peal store counted, a parity error counted, a refused
STOCH shown (R221, R231, R285, R314). -/
def engNote (c : Nat) (i : Instr) (d : Dev) : Dev :=
  match i with
  | .mm _ _ hw | .mmG4 _ _ hw => when (hw == 1) (bump .handleEccCorrected c 0) (when (hw == 3) (bump .spadParity c 0) d)
  | .vld _ _ _ hw _ => when (hw == 1) (bump .handleEccCorrected c 0) (when (hw == 3) (bump .spadParity c 0) d)
  | .sld _ _ _ _ hw _ => when (hw == 1) (bump .handleEccCorrected c 0) (when (hw == 3) (bump .spadParity c 0) d)
  | .pealEval _ _ hw => when (hw == 1) (fun d => setFld (rPeal c) 3 1 1 (bump .pealEccCorrected c 0 d)) d
  | .vcvt _ x | .vrq _ x => when (stochBad d c x.rq) (setFld (rQstat c) 8 1 1) d
  | .accOut _ x => when (match x.rq with | some q => stochBad d c q | none => false) (setFld (rQstat c) 8 1 1) d
  | _ => d

/-- The effect of an instruction when its engine starts it; a DMA transfer and a window access have theirs when they
complete. -/
def engEff (c : Nat) (tg : Nat × Nat) (i : Instr) (d : Dev) : Dev :=
  match i with
  | .mm _ x _ => mmEff c x d
  | .mmG4 _ x _ => mmG4Eff c x d
  | .as _ x => asEff c x d
  | .asld _ x => asldEff c x d
  | .op _ x => opEff c x d
  | .accOut _ x => accOutEff c x d
  | .accClr _ arr b n _ => accClrEff c arr b n d
  | .vld _ vd src _ _ => vldEff c vd src d
  | .vst _ vs dst _ => vstEff c vs dst d
  | .vectorElementwise _ o f vd va vb vc _ => vecEff c o f vd va vb vc d
  | .vred _ kind f vd va _ => vredEff c kind f vd va d
  | .vcvt _ x => vcvtEff c x d
  | .vrq _ x => vrqEff c x d
  | .vlut _ vd va tab _ => vlutEff c vd va tab d
  | .vectorPermute _ kind w vd va vb n _ => permEff c kind w vd va vb n d
  | .pealLoad _ s src n dst _ => pealLoadEff c s src n dst d
  | .pealEval _ x hw => if hw = 4 then dataError c d else pealEvalEff c tg x d
  | .gather _ x => gatherEff c tg x d
  | .winRd _ pkg t w r n dst tok => winOut c tg pkg t w r n false dst tok d
  | .winWr _ pkg t w r n src tok => winOut c tg pkg t w r n true src tok d
  | .sld _ rd src w _ _ => modCore c (setSreg rd (leNat (refRead d c .seq src w))) d
  | .sst _ rs dst w _ => refWrite c .seq dst (toLe w (sreg (coreOf d c) rs)) d
  | .fill _ dst n p _ => fillEff c dst n p.toNat d
  | .copy _ src dst arr n _ => copyEff c src dst arr n d
  | .tcopy _ src dst w _ => tcopyEff c src dst w d
  | .sread _ src dst n w start stride _ => sreadEff c src dst n w start stride d
  | _ => d

/-! ## Slots (R554, R561) -/

/-- An optional operand. -/
def optRef (u : Use) (r : Option Ref) (n : Nat) : List (Use × Ref × Nat) := (r.toList).map (fun r => (u, r, n))

/-- The operands of one array of an MM. -/
def mmRefs (d : Dev) (c : Nat) (x : MmOp) (g : Nat) : List (Use × Ref × Nat) :=
  match physArray d c (x.arr + g) with
  | none => []
  | some p =>
    let kk := 16 * pairMacs x.wFmt x.aFmt
    optRef (.arr p) x.w[g]? (packedLen x.wFmt (16 * kk)) ++ optRef (.arr p) x.zw[g]? 16 ++ optRef (.arr p) x.ps[g]? (64 * x.m)
      ++ (if x.first then [] else optRef (.arr p) x.ps[g]? (64 * x.m))
      ++ (List.range x.m).map (fun m => (.arr p, x.a.plus (m * x.aStride), packedLen x.aFmt kk))

/-- The operands that an instruction reads and writes in core memory: what reaches them, where, and how many bytes; a DMA transfer
counts its own. -/
def slotRefs (d : Dev) (c : Nat) : Instr → List (Use × Ref × Nat)
  | .mm _ x _ => mmRefs d c x 0
  | .mmG4 _ x _ => (List.range 4).flatMap (mmRefs d c x)
  | .asld _ x => match physArray d c x.arr with
    | none => []
    | some p => [(.arr p, x.act, packedLen x.aFmt (256 * pairMacs x.wFmt x.aFmt))]
  | .as _ x => match physArray d c x.arr with
    | none => []
    | some p =>
      let kk := 16 * pairMacs x.wFmt x.aFmt
      let kept := match tget none (coreOf d c).asSets p with | some s => sameSet s.src x | none => false
      (if kept then [] else [(.arr p, x.act, packedLen x.aFmt (16 * kk))]) ++ optRef (.arr p) x.zw 16
        ++ optRef (.arr p) x.ps (64 * x.n) ++ (if x.first then [] else optRef (.arr p) x.ps (64 * x.n))
        ++ (List.range x.n).map (fun m => (.arr p, x.w.plus (m * x.wStride), packedLen x.wFmt kk))
  | .op _ x => match physArray d c x.arr with
    | none => []
    | some p => optRef (.arr p) x.zw 16 ++ (List.range x.t).flatMap (fun t =>
        [(.arr p, x.x.plus (t * x.xStride), packedLen x.aFmt 16), (.arr p, x.g.plus (t * x.gStride), packedLen x.wFmt 16)])
  | .accOut _ x => match physArray d c x.arr with
    | none => []
    | some p =>
      let len := match x.rq with | some q => packedLen q.dstFmt 16 | none => 64
      (if x.vreg.isSome then [] else (List.range x.n).map (fun i => (.arr p, x.dst.plus (i * x.stride), len)))
        ++ (match x.rq with | some q => optRef (.arr p) q.eA x.n ++ optRef (.arr p) q.eW 16 | none => [])
  | .vld _ _ src _ _ => [(.vec, src, 128)]
  | .vst _ _ dst _ => [(.vec, dst, 128)]
  | .vcvt _ x => (List.range x.rows).flatMap (fun i =>
      [(.vec, x.src.plus (i * x.srcStride), packedLen x.srcFmt x.cols), (.vec, x.dst.plus (i * x.dstStride), packedLen x.rq.dstFmt x.cols)])
      ++ optRef .vec x.rq.eA x.rows ++ optRef .vec x.rq.eW x.cols
  | .vrq _ x => (List.range x.rows).flatMap (fun i =>
      [(.vec, x.src.plus (i * x.srcStride), 4 * x.cols), (.vec, x.dst.plus (i * x.dstStride), packedLen x.rq.dstFmt x.cols)])
      ++ optRef .vec x.rq.eA x.rows ++ optRef .vec x.rq.eW x.cols
  | .vlut _ _ _ tab _ => [(.vec, tab, 768)]
  | .pealLoad _ _ src n _ _ => [(.peal, { src with off := 0 }, 512 * n)]
  | .pealEval _ x _ =>
    let nOut := (coreVer d c).par.nOut
    [(.peal, x.res, 4 * x.v * nOut), if x.mode = 2 then (.peal, x.vec, 4 * x.v * nOut)
      else (.peal, { x.vec with off := 0 }, 512 * x.v * ceilDiv x.nFeatures 256)]
  | .gather _ x =>
    [(.dma, x.keys, (if x.keyed.isSome then x.keyLen else 4) * x.n),
      (.dma, x.dst, (tabVer d ((corePart d c).getD 64) x.slot (coreInv d c).tag).rowLen * x.n)]
  | .winRd _ _ _ _ _ n dst _ => [(.dma, { dst with off := 0 }, 512 * n)]
  | .winWr _ _ _ _ _ n src _ => [(.dma, { src with off := 0 }, 512 * n)]
  | .sld _ _ src w _ _ => [(.seq, src, w)]
  | .sst _ _ dst w _ => [(.seq, dst, w)]
  | .fill _ dst n _ _ => [(.seq, { dst with off := 0 }, 512 * n)]
  | .copy _ src dst arr n _ => [(copyUse d c arr, { src with off := 0 }, 512 * n), (copyUse d c arr, { dst with off := 0 }, 512 * n)]
  | .tcopy _ src dst _ _ => [(.seq, { src with off := 0 }, 8192), (.seq, { dst with off := 0 }, 8192)]
  | .sread _ src dst n w start stride _ => (.seq, { dst with off := 0 }, 512 * n) ::
      ((List.range (n * (512 / w))).map (fun k => sreadOff w start stride k / 512)).eraseDups.map (fun r =>
        (.seq, { src with row := src.row + r, off := 0 }, 512))
  | _ => []

/-- An operand is counted: its rows in scratchpad slots, or the 64-byte words of an operand-buffer port (R228, R554). -/
def slotCount (c : Nat) (tg : Nat × Nat) (x : Use × Ref × Nat) (d : Dev) : Dev :=
  let r := x.2.1
  let n := x.2.2
  if n = 0 then d
  else if (hEnt (tget 0 (coreOf d c).handles r.h)).level = 1 then coreCount .opbufBytes c tg (64 * ((r.off % 64 + n - 1) / 64 + 1)) d
  else coreCount .spadBytes c tg (512 * ((r.off + n - 1) / 512 + 1)) d

/-- An engine of a core. -/
def engOf (k : Core) (e : Nat) : Engine := tget {} k.engines e

/-- Whether an instruction is a GATHER. -/
def isGather (e : EngOp) : Bool := match e.instr with | .gather _ _ => true | _ => false

/-- Whether the instruction may start on its engines: for a GATHER, none may be in progress on its core. -/
def canStart (d : Dev) (c : Nat) (i : EngOp) : Bool := !isGather i || !(engOf (coreOf d c) 10).run.any isGather

/-- An instruction starts on engines `es`. -/
def startOn (c : Nat) (es : List Nat) (i : EngOp) (d : Dev) : Dev :=
  let tg := (i.layer, i.op)
  let d := (slotRefs d c i.instr).foldl (fun d x => slotCount c tg x d) d
  engEff c tg i.instr (modCore c (fun k => { k with engines := es.foldl (fun t e => tmod {} t e (fun x => { x with run := x.run ++ [i] })) k.engines }) d)

/-- Dispatch of an instruction (R186): to idle engines at once, to their queues while these have room, else the sequencer
stalls on it. -/
def dispatch (c : Nat) (i : Instr) (d : Dev) : Dev :=
  let k := coreOf d c
  let es := enginesOf d c i
  let i' : EngOp := { instr := i, layer := k.layer, op := k.operator }
  if es.all (fun e => (engOf k e).queue.isEmpty && (engOf k e).run.isEmpty) && canStart d c i' then startOn c es i' (advance c d)
  else if es.all (fun e => decide ((engOf k e).queue.length < 8)) then
    advance c (modCore c (fun k => { k with
      engines := es.foldl (fun t e => tmod {} t e (fun x => { x with queue := x.queue ++ [i'] })) k.engines }) d)
  else modCore c (fun k => { k with stall := some i }) d

/-- An engine instruction is issued: it faults, or is dispatched. -/
def engIssue (c : Nat) (i : Instr) : Dev → Dev :=
  issue c i (fun d =>
    match engFault d c i with
    | some f => coreFault c f (engNote c i d)
    | none => dispatch c i (engNote c i d))

/-- ENGINE_START (R186): the oldest queued instruction of an engine starts once its previous one has released it; an MM.G4
starts when it is the oldest of its four arrays. A sequencer stalled on the queue then dispatches its instruction. -/
def engineStart (c e : Nat) (d : Dev) : Dev :=
  let k := coreOf d c
  match (engOf k e).queue with
  | [] => d
  | i :: _ =>
    let es := enginesOf d c i.instr
    if ¬ frozenCluster d (c / 8) ∧ es.all (fun e => (engOf k e).queue.head? == some i) ∧ canStart d c i then
      let d := modCore c (fun k => { k with
        engines := es.foldl (fun t e => tmod {} t e (fun x => { x with queue := x.queue.tail })) k.engines }) d
      let d := startOn c es i d
      let k := coreOf d c
      match k.stall with
      | some j =>
        let js := enginesOf d c j
        if ¬ k.fetchMiss ∧ ¬ js.isEmpty ∧ js.all (fun e => decide ((engOf k e).queue.length < 8)) then
          advance c (modCore c (fun k => { k with
            engines := js.foldl (fun t e => tmod {} t e (fun x => { x with queue := x.queue ++ [{ instr := j, layer := k.layer, op := k.operator }] })) k.engines }) d)
        else d
      | none => d
    else d

/-- An instruction leaves the engines it ran on, its token goes up and a waiting HALT may end. -/
def retire (c : Nat) (es : List Nat) (i : EngOp) (d : Dev) : Dev :=
  if (coreOf d c).inv = 0 then d
  else settleHalt c (tokenUp c (es.headD 1023) (tokenOf i.instr) (modCore c (fun k => { k with
    engines := es.foldl (fun t e => tmod {} t e (fun x => { x with run := x.run.erase i })) k.engines }) d))

/-- ENGINE_COMPLETE (R187): the oldest started instruction of an engine completes; movement has rows of its own. -/
def engineComplete (c e : Nat) (d : Dev) : Dev :=
  if e = 10 then d
  else match (engOf (coreOf d c) e).run with
    | [] => d
    | i :: _ => retire c (enginesOf d c i.instr) i d

/-- Bytes of an output that lie in the command's output range are what its completion counts (Table 14.10). -/
def countOut (c : Nat) (x : DmaOp) (d : Dev) : Dev :=
  match (coreInv d c).serve with
  | .cmd t =>
    let m := cmdOf d t
    let op := opcodeOf m
    let len := if op = 0x20 then cmdFld m 60 4 else if op = 0x22 then cmdFld m 48 4 else 2 ^ 32
    let a := cmdFld m 40 8
    if (op = 0x20 ∨ op = 0x21 ∨ op = 0x22) ∧ 1 ≤ x.space ∧ a ≤ x.addr ∧ x.addr < a + len then
      modInv (coreOf d c).inv (fun v => { v with written := v.written + 512 * x.n }) d
    else d
  | _ => d

/-- DMA_COMPLETE (R266): the oldest transfer of a core moves whole, with its scale tensor, and its token goes up; one outside
the partition's frames or windows is a core fault of cause REMOTE_DENIED (R378, R443), an uncorrectable burst ends the
invocation with DATA_ERROR (R388). -/
def dmaComplete (c : Nat) (d : Dev) : Dev :=
  match (engOf (coreOf d c) 10).run.find? (fun i => (dmaOf i.instr).isSome) with
  | none => d
  | some i =>
    match dmaOf i.instr with
    | none => d
    | some (out, x) =>
      match dmaMove c out x (512 * x.n) d with
      | .denied a => coreFault c .remoteDenied (match a with | some a => hbmDeny a d | none => d)
      | .bad => dataError c d
      | .done d' => retire c [10] i (dmaCount c (i.layer, i.op) out x (512 * x.n) (if out then countOut c x d' else d'))

/-- GATHER_COMPLETE (R381): the GATHER in progress of a core has all its bursts: its elements are written and its token goes
up. -/
def gatherComplete (c : Nat) (d : Dev) : Dev :=
  match (engOf (coreOf d c) 10).run.find? isGather with
  | some (i : EngOp) => if gatherReady d c then retire c [10] i (gatherWrite c d) else d
  | none => d

end Sys2Proof.Machine
end

