-- ==== Sys2Proof/Machine/Flags.lean ====
section
/-! DEFINITION. The flags of a Tabla core: the result of the last CMP and the conditions of BR on it (Table 6.2). -/

namespace Sys2Proof.Machine

/-- The flags of a comparison of two 64-bit values: equal in bit 0, less signed in bit 1, less unsigned in bit 2. -/
def cmpFlags (a b : Nat) : Nat :=
  b2n (a == b) + 2 * b2n (decide (signedOf 64 a < signedOf 64 b)) + 4 * b2n (decide (a < b))

/-- Whether a condition holds for the result of the last CMP. -/
def condHolds (f : Nat) : Cond → Bool
  | .eq => bitOf f 0
  | .ne => !bitOf f 0
  | .lt => bitOf f 1
  | .ge => !bitOf f 1
  | .le => bitOf f 1 || bitOf f 0
  | .gt => !(bitOf f 1 || bitOf f 0)
  | .ltu => bitOf f 2
  | .geu => !bitOf f 2
  | .leu => bitOf f 2 || bitOf f 0
  | .gtu => !(bitOf f 2 || bitOf f 0)

end Sys2Proof.Machine
end

