-- ==== Sys2Proof/Machine/Sequencer.lean ====
section
/-! DEFINITION. The sequencer and the cluster (R186 to R208, R234, R253, R254): launch, scalar and control instructions,
tokens, barriers, semaphores and the instruction cache. -/

namespace Sys2Proof.Machine

/-! ## Launch -/

/-- Persistent streams keep their state, the others start again (R281); another context's state is dropped. -/
def launchStreams (k : Core) (ctx : Nat) (descs : List Nat) : Tab Stream :=
  if k.persistOf = ctx + 1 then k.streams.filter (fun e => (sDesc (lget 0 descs e.1)).persist) else []

/-- The physical rows of a core that a handle entry names (R232). -/
def entryRows (d : Dev) (c e : Nat) : List Nat :=
  let h := hEnt e
  match h.level with
  | 0 => (List.range h.rows).map (fun i => physRow d c (localRow h.base h.nb i (bankW d c)))
  | 1 => (List.range h.rows).flatMap (fun i => (List.range 8).map (fun p => operandRow p (h.base + i)))
  | _ => []

/-- The rows of a context's RESIDENT handles belong to it (R233). -/
def markRows (d : Dev) (c ctx : Nat) (table rows : Tab Nat) : Tab Nat :=
  (table.filter (fun e => bitOf e.2 1)).foldl (fun t e => (entryRows d c e.2).foldl (fun t r => tput 0 t r (ctx + 1)) t) rows

/-- A core at its program entry (R187, R205, R234): tokens at zero, registers at zero, IDs of the command. -/
def launchCore (d : Dev) (c i ctx tag prog : Nat) (hs : List Nat) (layer op : Nat) (k : Core) : Core :=
  let descs := (ctxVer d ctx tag).streams
  let table := (List.range 64).foldl (fun t n => tput 0 t n (if entryOk d c (lget 0 hs n) then lget 0 hs n else 0)) ([] : Tab Nat)
  { k with
    inv := i, prog, pc := 0, regs := [], vregs := [], flags := 0, loops := [], calls := [], tokens := [], engines := []
    stall := none, fetchMiss := false, layer, operator := op, icache := [], handles := table, winLate := [], since := beat d
    streams := launchStreams k ctx descs, descs, persistOf := ctx + 1
    streamed := !shareResident k ctx (ctxVer d ctx tag).vid, resRows := markRows d c ctx table k.resRows }

/-- Whether an invocation may be launched (R205, R254): a non-empty mask of idle cores of a running cluster, a version present
and resident rows reloaded, and what it serves still waiting. -/
def launchOk (d : Dev) (cl mask ctx tag : Nat) (serve : Serve) : Bool :=
  decide (mask ≠ 0) && ((List.range 8).all (fun t => !bitOf mask t || (coreOf d (8 * cl + t)).inv == 0))
    && ((List.range 8).all (fun t => !bitOf mask t || !armHolds d (8 * cl + t))) && !frozenCluster d cl
    && clusterPower d cl == 0 && !(clusterOf d cl).zeroing && !(clusterOf d cl).reload.contains (ctxVer d ctx tag).vid
    && (ctxVer d ctx tag).present && (ctxOf d ctx).clusters.contains cl
    && (match serve with
      | .none => true
      | .cmd t => cmdLive d t && (cmdOf d t).st == 1
      | .req die r => (tget {} d.edge.deep (65536 * die + r)).arrived && (tget {} d.edge.deep (65536 * die + r)).ans.isNone
          && !(ctxOf d ctx).feedback)

/-- The step of a launch that has begun already for the same command or request (R569). -/
def launchedAs (d : Dev) : Serve → Option Nat
  | .none => none
  | .cmd t => (cmdOf d t).launched
  | .req die r => (tget {} d.edge.deep (65536 * die + r)).launched

/-- What is served remembers its launch's step. -/
def noteLaunch (n : Nat) (serve : Serve) (d : Dev) : Dev :=
  match serve with
  | .none => d
  | .cmd t => modCmd t (fun c => { c with launched := some n }) d
  | .req die r => onEdge (fun e => { e with deep := tmod {} e.deep (65536 * die + r) (fun q => { q with launched := some n }) }) d

/-- INVOCATION_LAUNCH (R205, R234, R281, R311): handle tables are written and every core of the mask starts. -/
def invocationLaunch (cl mask ctx tag : Nat) (serve : Serve) (handles : List (List Nat)) (programs : List Nat) (d : Dev) : Dev :=
  if ¬ launchOk d cl mask ctx tag serve then d
  else
    let i := d.comp.nextInv
    let m := match serve with | .cmd t => cmdOf d t | _ => {}
    let train := opcodeOf m == 0x23
    let step := (launchedAs d serve).getD (ctrVal d .invocations ctx 0)
    let v : Inv := { cluster := cl, mask, running := mask, ctx, tag, serve, seed := if train then cmdFld m 20 4 else 0, train, since := beat d, step }
    let d := if (launchedAs d serve).isSome then d else noteLaunch step serve (bump .invocations ctx 0 d)
    let cores := (List.range 8).filter (bitOf mask)
    let d := onComp (fun x => { x with nextInv := i + 1, invs := tput {} x.invs i v }) d
    cores.foldl (fun d t =>
      let c := 8 * cl + t
      let d := modCore c (launchCore d c i ctx tag (lget 0 programs t) (lget [] handles t) (cmdFld m 4 2) (cmdFld m 6 2)) d
      when (coreOf d c).streamed (fun d => setFld (rPeal c) 2 1 1 (bump .pealStreamInvocations c 0 d)) d) d

/-! ## Scalar and control instructions (Table 6.2) -/

/-- The scalar operations. -/
inductive ScalarOp where
  | add | sub | and | or | xor | shl | shr | sar | mul
  deriving DecidableEq, Repr

/-- The 64-bit result of a scalar operation; a shift by 64 or more has no result in the spec, and gives `free`. -/
def scalarRes (o : ScalarOp) (a b free : Nat) : Nat :=
  match o with
  | .add => (a + b) % 2 ^ 64
  | .sub => (a + 2 ^ 64 - b) % 2 ^ 64
  | .and => a &&& b
  | .or => a ||| b
  | .xor => a ^^^ b
  | .shl => if b < 64 then a * 2 ^ b % 2 ^ 64 else free
  | .shr => if b < 64 then a / 2 ^ b else free
  | .sar => if b < 64 then wrapInt 64 (signedOf 64 a / (2 ^ b : Nat)) else free
  | .mul => a * b % 2 ^ 64

/-- A scalar instruction: rd takes the result of ra and rb. -/
def scalar (o : ScalarOp) (i : Instr) (c rd ra rb : Nat) : Dev → Dev :=
  issue c i (fun d =>
    let k := coreOf d c
    let v := scalarRes o (sreg k ra) (sreg k rb) (fresh d 3 c % 2 ^ 64)
    freshStep (advance c (modCore c (setSreg rd v) d)))

/-- CMP: the flags of ra against rb. -/
def cmpOp (c ra rb : Nat) : Dev → Dev :=
  issue c (.cmp c ra rb) (fun d =>
    let k := coreOf d c
    let f := cmpFlags (sreg k ra) (sreg k rb)
    advance c (modCore c (fun k => { k with flags := f }) d))

/-- LI: rd takes the immediate. -/
def liOp (c rd : Nat) (imm : Word64) : Dev → Dev :=
  issue c (.li c rd imm) (fun d => advance c (modCore c (setSreg rd imm.toNat) d))

/-- The sequencer goes to an index. -/
def jump (c target : Nat) : Dev → Dev := modCore c (fun k => { k with pc := target })

/-- BR: to the target when the condition holds, on otherwise. -/
def brOp (c : Nat) (cond : Cond) (target : Nat) : Dev → Dev :=
  issue c (.br c cond target) (fun d => if condHolds (coreOf d c).flags cond then jump c target d else advance c d)

/-- JMP. -/
def jmpOp (c target : Nat) : Dev → Dev := issue c (.scalarJmp c target) (jump c target)

/-- CALL: the return index is pushed. -/
def callOp (c target : Nat) : Dev → Dev :=
  issue c (.scalarCall c target) (fun d => jump c target (modCore c (fun k => { k with calls := (k.pc + 1) :: k.calls }) d))

/-- RET: to the index last pushed; with none, a reserved instruction. -/
def retOp (c : Nat) : Dev → Dev :=
  issue c (.scalarRet c) (fun d =>
    match (coreOf d c).calls with
    | [] => coreFault c .illegalInstr d
    | r :: rest => jump c r (modCore c (fun k => { k with calls := rest }) d))

/-- LOOP: the next `body` instructions run `count` times; a fifth nested level is a reserved instruction. -/
def loopOp (c count body : Nat) : Dev → Dev :=
  issue c (.loop c count body) (fun d =>
    let k := coreOf d c
    if 4 ≤ k.loops.length then coreFault c .illegalInstr d
    else if count = 0 ∨ body = 0 then jump c (k.pc + 1 + body) d
    else modCore c (fun k => { k with pc := k.pc + 1, loops := (k.pc + 1, k.pc + 1 + body, count) :: k.loops }) d)

/-- HALT (R234, R248): the core halts once all its engine queues have drained. -/
def haltOp (c : Nat) : Dev → Dev :=
  issue c (.halt c) (fun d => settleHalt c (modCore c (fun k => { k with stall := some (.halt c) }) d))

/-- MARK (R561): layer and operator IDs of what is issued after it. -/
def markOp (c layer op : Nat) : Dev → Dev :=
  issue c (.mark c layer op) (fun d => advance c (modCore c (fun k => { k with layer, operator := op }) d))

/-- TOK.WAIT (R187, R248): a WINDOW fault that waits on the token is taken; else the sequencer waits until the token holds n. -/
def tokWaitOp (c t n : Nat) : Dev → Dev :=
  issue c (.tokWait c t n) (fun d =>
    if (coreOf d c).winLate.contains (some t) then coreFault c .window d
    else grantToken c 1023 (modCore c (fun k => { k with stall := some (.tokWait c t n) }) d))

/-! ## Barriers and semaphores -/

/-- A barrier of a cluster. -/
def barOf (d : Dev) (cl b : Nat) : Barrier := tget {} (clusterOf d cl).bars b

/-- A barrier whose last participant `who` has arrived re-arms and its stalled participants resume (R206, R566). -/
def settleBar (cl b who : Nat) (d : Dev) : Dev :=
  let x := barOf d cl b
  if x.mask = 0 ∨ x.arrived ≠ x.mask then d
  else
    let d := modCluster cl (fun k => { k with bars := tput {} k.bars b { x with arrived := 0 } }) d
    let sig := if who < 8 then 8 * cl + who else 768 + cl
    let n := popcount x.mask 9
    let d := (List.range 8).foldl (fun d t =>
      if bitOf x.mask t ∧ (coreOf d (8 * cl + t)).stall = some (.bar (8 * cl + t) b) then
        advance (8 * cl + t) (syncTrace cl 1 b t sig false n (coreOf d (8 * cl + t)).since d)
      else d) d
    if bitOf x.mask 8 then syncTrace cl 1 b 8 sig false n x.ctlSince d else d

/-- A participant arrives at a barrier; one outside its mask is not counted. -/
def arrive (cl b who : Nat) (d : Dev) : Dev :=
  if bitOf (barOf d cl b).mask who then
    let now := beat d
    settleBar cl b who (modCluster cl (fun k => { k with bars := tmod {} k.bars b (fun x =>
      { x with arrived := setBits x.arrived who 1 1, ctlSince := if who = 8 ∧ ¬ bitOf x.arrived 8 then now else x.ctlSince }) }) d)
  else d

/-- BAR (R206): the core arrives and stalls. -/
def barOp (c b : Nat) : Dev → Dev :=
  issue c (.bar c b) (fun d => arrive (c / 8) b (c % 8) (waitMark c (modCore c (fun k => { k with stall := some (.bar c b) }) d)))

/-- BARRIER_CONTROLLER_ARRIVE (R206): the controller arrives and does not stall. -/
def barController (cl b : Nat) (d : Dev) : Dev := if frozenCluster d cl then d else arrive cl b 8 d

/-- BARRIER_MASK_WRITE (R206): a change while a participant has arrived is discarded and sets bar_cfg_reject. -/
def barMask (cl b mask : Nat) (d : Dev) : Dev :=
  let x := barOf d cl b
  if frozenCluster d cl then d
  else if x.arrived ≠ 0 ∧ mask % 512 ≠ x.mask then setFld (rClusterStatus cl) 12 1 1 d
  else modCluster cl (fun k => { k with bars := tput {} k.bars b { x with mask := mask % 512 } }) d

/-- A semaphore of a cluster. -/
def semOf (d : Dev) (cl s : Nat) : Sema := tget {} (clusterOf d cl).sems s

/-- The wait of participant `w` on a semaphore, if it waits on it. -/
def semWait (d : Dev) (cl s w : Nat) : Option Nat :=
  match (coreOf d (8 * cl + w)).stall with
  | some (.swait c s' n) => if c = 8 * cl + w ∧ s' = s ∧ ¬ (coreOf d c).fetchMiss then some n else none
  | _ => none

/-- Waits are granted one by one in rotating order after the waiter granted last (R207); `sig` is the signaller. -/
def grantSem (cl s sig : Nat) (far : Bool) (d : Dev) : Dev :=
  ((List.range 9).map (fun k => ((semOf d cl s).last + 1 + k) % 9)).foldl (fun d w =>
    match (if w < 8 then semWait d cl s w else none) with
    | some n =>
      let x := semOf d cl s
      if n ≤ x.value then
        let d := syncTrace cl 2 s w sig far n (coreOf d (8 * cl + w)).since d
        advance (8 * cl + w) (modCluster cl (fun k => { k with sems := tput {} k.sems s { value := x.value - n, last := w } }) d)
      else d
    | none => d) d

/-- A signal of `n` on a semaphore (R207): above 65,535 it stays there, sets sem_overflow and is counted. -/
def signal (cl s n sig : Nat) (far : Bool) (d : Dev) : Dev :=
  let v := (semOf d cl s).value + n
  let d := when (decide (65535 < v)) (fun d => setFld (rClusterStatus cl) 11 1 1 (bump .semOverflowEvents (8 * cl) 0 d)) d
  grantSem cl s sig far (modCluster cl (fun k => { k with sems := tmod {} k.sems s (fun x => { x with value := min v 65535 }) }) d)

/-- SIG (R207). -/
def sigOp (c s n : Nat) : Dev → Dev := issue c (.sig c s n) (fun d => signal (c / 8) s n c false (advance c d))

/-- SIG.R (R208): a signal to S8–S15 of another cluster is sent; to another semaphore it is a reserved instruction. -/
def sigROp (c cl s n : Nat) : Dev → Dev :=
  issue c (.sigR c cl s n) (fun d =>
    if s < 8 then coreFault c .illegalInstr d
    else advance c (modCluster cl (fun k => { k with
      sigIn := k.sigIn ++ [{ src := c, sem := s, n, part := (corePart d c).getD 64 }] }) d))

/-- REMOTE_SIGNAL_ARRIVE (R208): the oldest signal to a cluster is applied, or discarded and counted when the cluster is not
of the sender's partition, and the sending core faults with REMOTE_DENIED. -/
def remoteSignal (cl : Nat) (d : Dev) : Dev :=
  match (clusterOf d cl).sigIn with
  | [] => d
  | m :: rest =>
    let d := modCluster cl (fun k => { k with sigIn := rest }) d
    if ownsCluster d m.part cl then signal cl m.sem m.n m.src true d else coreFault m.src .remoteDenied (bump .semRemoteReject cl 0 d)

/-- SWAIT (R207). -/
def swaitOp (c s n : Nat) : Dev → Dev :=
  issue c (.swait c s n) (fun d => grantSem (c / 8) s 1023 false (waitMark c (modCore c (fun k => { k with stall := some (.swait c s n) }) d)))

/-! ## The instruction cache, zeroing and reloading -/

/-- The issue of any instruction of a core. -/
def reissue (i : Instr) (d : Dev) : Dev :=
  match i with
  | .scalarAdd c a b e => scalar .add i c a b e d
  | .scalarSub c a b e => scalar .sub i c a b e d
  | .scalarAnd c a b e => scalar .and i c a b e d
  | .scalarOr c a b e => scalar .or i c a b e d
  | .scalarXor c a b e => scalar .xor i c a b e d
  | .scalarShl c a b e => scalar .shl i c a b e d
  | .scalarShr c a b e => scalar .shr i c a b e d
  | .sar c a b e => scalar .sar i c a b e d
  | .mul c a b e => scalar .mul i c a b e d
  | .cmp c a b => cmpOp c a b d
  | .li c rd imm => liOp c rd imm d
  | .br c cond t => brOp c cond t d
  | .scalarJmp c t => jmpOp c t d
  | .scalarCall c t => callOp c t d
  | .scalarRet c => retOp c d
  | .loop c n b => loopOp c n b d
  | .halt c => haltOp c d
  | .mark c l o => markOp c l o d
  | .tokWait c t n => tokWaitOp c t n d
  | .bar c b => barOp c b d
  | .sig c s n => sigOp c s n d
  | .sigR c cl s n => sigROp c cl s n d
  | .swait c s n => swaitOp c s n d
  | .mm c _ _ | .mmG4 c _ _ | .as c _ | .asld c _ | .op c _ | .accOut c _ | .accClr c _ _ _ _ | .vld c _ _ _ _ | .vst c _ _ _
  | .vectorElementwise c _ _ _ _ _ _ _ | .vred c _ _ _ _ _ | .vcvt c _ | .vrq c _ | .vlut c _ _ _ _
  | .vectorPermute c _ _ _ _ _ _ _ | .pealLoad c _ _ _ _ _ | .pealEval c _ _ | .dmaIn c _ | .dmaOut c _ | .gather c _
  | .winRd c _ _ _ _ _ _ _ | .winWr c _ _ _ _ _ _ _ | .sld c _ _ _ _ _ | .sst c _ _ _ _ | .fill c _ _ _ _ | .copy c _ _ _ _ _
  | .tcopy c _ _ _ _ | .sread c _ _ _ _ _ _ _ => engIssue c i d
  | _ => d

/-- ICACHE_LINE_FILL (R190): the line arrives, displacing the least recently used of its set, and the instruction issues. -/
def icacheFill (c : Nat) (d : Dev) : Dev :=
  let k := coreOf d c
  match k.fetchMiss, k.stall with
  | true, some i =>
    if frozenCluster d (c / 8) then d else
    let l := lineOf k.pc
    reissue i (modCore c (fun k => { k with
      stall := none, fetchMiss := false, icache := tmod [] k.icache (l % 256) (fun w => (l :: w).take 4) }) d)
  | _, _ => d

/-- CLUSTER_ZERO_DONE (R253): the zeroing of a cluster's scratchpads ends and it may take an invocation. -/
def zeroDone (cl : Nat) : Dev → Dev := modCluster cl (fun k => { k with zeroing := false })

/-- RESIDENT_RELOAD (R233, R254): firmware writes the resident rows of a context's version, named by core and local row, from
its master copy. -/
def residentReload (cl ctx tag : Nat) (rows : List (Nat × Nat × List Byte)) (d : Dev) : Dev :=
  let vid := (ctxVer d ctx tag).vid
  if ¬ (clusterOf d cl).reload.contains vid ∨ (clusterOf d cl).zeroing then d
  else
    let d := rows.foldl (fun d x =>
      if x.1 / 8 = cl ∧ x.2.1 < localRows d x.1 then
        let r := physRow d x.1 x.2.1
        modCore x.1 (fun k => { k with spad := tputBytes k.spad (512 * r) (x.2.2.take 512), resRows := tput 0 k.resRows r (ctx + 1) }) d
      else d) d
    settleResident (modCluster cl (fun k => { k with reload := k.reload.erase vid }) d)

end Sys2Proof.Machine
end

