-- ==== Sys2Proof/Machine/Rings.lean ====
section
/-! DEFINITION. Ring pairs and record rings (14_host_rings): doorbells, fetch and its checks, enabling, record delivery,
interrupts, deadlines, access faults, and the commands RUN, RUN_TREES and TX_FRAME. -/

namespace Sys2Proof.Machine

/-! ## Doorbells -/

/-- SQ_DOORBELL (R457): a new tail; an index of the depth or more, or high bits, puts the pair into ERROR (R451). -/
def sqDoorbell (q : Nat) (val : Word64) (d : Dev) : Dev :=
  let p := pairOf d q
  if ¬ p.enabled then modPair q (fun p => { p with dbErr := true }) d
  else if p.error then d
  else if sqDepth d q ≤ val.toNat then pairError q 1 d
  else modPair q (fun p => { p with sqTail := val.toNat }) d

/-- CQ_DOORBELL (R457). -/
def cqDoorbell (q : Nat) (val : Word64) (d : Dev) : Dev :=
  let p := pairOf d q
  if ¬ p.enabled then modPair q (fun p => { p with dbErr := true }) d
  else if p.error then d
  else if cqDepth d q ≤ val.toNat then pairError q 1 d
  else modPair q (fun p => { p with cqHead := val.toNat }) d

/-- RQ_DOORBELL (R457). -/
def rqDoorbell (fn r : Nat) (val : Word64) (d : Dev) : Dev :=
  let k := 32 * fn + r
  let p := rringOf d k
  if ¬ p.enabled then modRRing k (fun p => { p with dbErr := true }) d
  else if p.error then d
  else if rqDepth d k ≤ val.toNat then rringError k 1 d
  else modRRing k (fun p => { p with head := val.toNat }) d

/-! ## Enabling and disabling (R445) -/

/-- No ring of a function is in ERROR: RING_ERROR may raise err_vec again (R462). -/
def rearmErr (fn : Nat) (d : Dev) : Dev :=
  if d.pairs.any (fun e => e.1 / 64 == fn && e.2.error) || d.rrings.any (fun e => e.1 / 32 == fn && e.2.error) then d
  else { d with errUp := tput false d.errUp (2 * fn + 1) false }

/-- Whether a pair with configuration word `v` may be enabled (R444, R445, R477). -/
def pairCfgOk (d : Dev) (q v : Nat) : Bool :=
  let fn := q / 64
  let sq := bitsOf v 1 4
  let cq := bitsOf v 5 4
  let granted := match partOfFn d fn with | some p => (partOf d p).pairs | none => 0
  fnReady d fn && decide (q % 64 < granted ∧ sq ≤ 12 ∧ cq ≤ 12)
    && base64 d (rSqBase q) % 64 == 0 && base64 d (rCqBase q) % 32 == 0
    && dmaOk d fn (base64 d (rSqBase q)) (64 * (16 * 2 ^ sq)) false && dmaOk d fn (base64 d (rCqBase q)) (32 * (16 * 2 ^ cq)) true

/-- A write of FN_RING_CFG (R445). -/
def pairCfgWrite (q v : Nat) (d : Dev) : Dev :=
  let old := regVal d (rRingCfg q)
  let v := v % 2 ^ 20
  let same := old / 2 == v / 2
  let bad := modPair q (fun p => { p with cfgErr := true })
  if (pairOf d q).enabled then
    let d := when (!same) bad d
    if bitOf v 0 then d else setFld (rRingCfg q) 0 1 0 (modPair q (fun p => { p with enabled := false }) d)
  else if outstanding d q ≠ 0 then (if bitOf v 0 ∨ ¬ same then bad d else d)
  else if ¬ bitOf v 0 then setReg (rRingCfg q) v d
  else if pairCfgOk d q v then
    rearmErr (q / 64) (modPair q (fun p => { enabled := true, dbErr := p.dbErr, cfgErr := p.cfgErr }) (setReg (rRingCfg q) v d))
  else bad (setReg (rRingCfg q) (v - 1) d)

/-- Whether a record ring with configuration word `v` may be enabled (R458). -/
def rringCfgOk (d : Dev) (k v : Nat) : Bool :=
  let fn := k / 32
  let sz := bitsOf v 1 4
  let slot := bitsOf v 5 3
  let fixed := k % 32 == 16 || k % 32 == 18
  let bytes := if fixed then 64 else 1024 * 2 ^ slot
  fnReady d fn && decide (sz ≤ 12) && (fixed || decide (slot ≤ 4)) && base64 d (rRqBase fn (k % 32)) % 64 == 0
    && dmaOk d fn (base64 d (rRqBase fn (k % 32))) (bytes * (16 * 2 ^ sz)) true

/-- A write of FN_RQ_CFG (R445, R458). -/
def rringCfgWrite (k v : Nat) (d : Dev) : Dev :=
  let a := rRqCfg (k / 32) (k % 32)
  let old := regVal d a
  let v := v % 2 ^ 31
  let same := old / 2 == v / 2
  let bad := modRRing k (fun p => { p with cfgErr := true })
  if (rringOf d k).enabled then
    let d := when (!same) bad d
    if bitOf v 0 then d else setFld a 0 1 0 (modRRing k (fun p => { p with enabled := false }) d)
  else if ¬ bitOf v 0 then setReg a v d
  else if rringCfgOk d k v then
    rearmErr (k / 32) (modRRing k (fun p => { enabled := true, dbErr := p.dbErr, cfgErr := p.cfgErr, lost := p.lost, seq := p.seq })
      (setReg a v d))
  else bad (setReg a (v - 1) d)

/-- RING_ENABLE and RING_DISABLE: a write of a ring's configuration word; rings 64 + r are record rings. -/
def ringCfgWrite (fn ring val : Nat) (d : Dev) : Dev :=
  if ring < 64 then pairCfgWrite (64 * fn + ring) val d else rringCfgWrite (32 * fn + (ring - 64)) val d

/-! ## Fetch -/

/-- Whether an opcode is in Table 14.16. -/
def knownOpcode (op : Nat) : Bool :=
  [0x01, 0x02, 0x10, 0x11, 0x12, 0x13, 0x20, 0x21, 0x22, 0x23, 0x30, 0x31, 0x32, 0x40, 0x41, 0x42, 0x50, 0x51, 0x52, 0x60, 0x61,
    0x70].contains op

/-- The operand bytes that Table 14.7 names for an opcode: offset and length. -/
def namedBytes : Nat → List (Nat × Nat)
  | 0x02 => [(24, 1), (32, 5)]
  | 0x10 => [(24, 3), (32, 16)]
  | 0x11 => [(24, 8), (32, 28)]
  | 0x13 => [(24, 1), (28, 4)]
  | 0x20 => [(32, 32)]
  | 0x21 => [(32, 20)]
  | 0x22 => [(24, 1), (32, 20)]
  | 0x23 => [(24, 1), (26, 10), (40, 8)]
  | 0x30 => [(24, 4), (32, 8)]
  | 0x31 => [(28, 12)]
  | 0x32 => [(28, 12)]
  | 0x40 => [(24, 9)]
  | 0x41 => [(24, 1), (26, 2)]
  | 0x42 => [(24, 1), (26, 3), (30, 18)]
  | 0x50 => [(24, 16)]
  | 0x51 => [(24, 1)]
  | 0x52 => [(24, 2), (28, 16)]
  | 0x60 => [(24, 1), (32, 12)]
  | 0x61 => [(24, 1)]
  | 0x70 => [(24, 2), (32, 32)]
  | _ => []

/-- Whether every byte of the entry that the layout does not name, and every reserved flag, is zero (R447, R450). -/
def reservedOk (c : Cmd) : Bool :=
  let op := opcodeOf c
  let fl := cmdFld c 1 1
  decide (fl < (if op = 0x20 ∨ op = 0x21 then 16 else 4)) && decide (cmdFld c 8 2 < 4096) && cmdFld c 10 2 == 0
    && (List.range 40).all (fun k => cmdFld c (24 + k) 1 == 0
        || (namedBytes op).any (fun r => decide (r.1 ≤ 24 + k ∧ 24 + k < r.1 + r.2)))

/-- Whether the fields of an entry lie in their ranges (Table 14.7). -/
def rangesOk (d : Dev) (c : Cmd) : Bool :=
  let f := cmdFld c
  match opcodeOf c with
  | 0x02 => decide (f 24 1 ≤ 1 ∧ f 32 2 < 8 ∧ f 34 2 < 768 ∧ f 36 1 < 8)
  | 0x10 => decide (f 24 1 ≤ 1 ∧ f 25 1 ≤ 1 ∧ f 26 1 < 16)
  | 0x11 => decide (f 24 1 ≤ 2 ∧ f 25 1 ≤ 1 ∧ f 26 1 < 4 ∧ f 27 1 < 16)
      && (f 24 1 == 0 || decide (f 28 2 < 256)) && (f 24 1 != 1 || decide (32 ≤ f 30 2 ∧ f 30 2 ≤ 512 ∧ f 30 2 % 32 = 0))
  | 0x13 => decide (f 24 1 ≤ 2)
  | 0x21 => decide (1 ≤ f 48 4 ∧ f 48 4 ≤ 65536)
  | 0x22 => decide (1 ≤ f 24 1 ∧ f 24 1 ≤ 16)
  | 0x23 => decide (f 24 1 ≤ 1)
  | 0x30 => decide (f 24 1 < 128 ∧ f 25 1 < 16 ∧ 60 ≤ f 26 2 ∧ f 26 2 + 4 ≤ maxFrameOf d (f 24 1 % 32))
  | 0x31 => decide (1 ≤ f 28 4 ∧ f 28 4 ≤ 4096)
  | 0x32 => decide (1 ≤ f 28 4 ∧ f 28 4 ≤ 4096)
  | 0x40 => decide (f 24 1 < 8 ∧ f 25 1 < 4 ∧ f 26 2 < 768 ∧ f 32 1 < 2)
  | 0x41 => decide (f 24 1 < 8 ∧ f 26 2 < 768)
  | 0x42 => decide (f 24 1 ≤ 1 ∧ f 26 2 < 768 ∧ f 28 1 < 8 ∧ f 30 2 < 8 ∧ 1 ≤ f 44 4 ∧ f 44 4 ≤ 768)
  | 0x51 => decide (f 24 1 ≤ 1)
  | 0x52 => decide (f 24 2 < 64)
  | 0x60 => decide (f 24 1 ≤ 1)
  | 0x61 => decide (f 24 1 ≤ 1)
  | _ => true

/-- Whether only a PF may issue the entry (R451, Table 14.16). -/
def pfOnly (c : Cmd) : Bool :=
  match opcodeOf c with
  | 0x12 => true
  | 0x13 => decide (1 ≤ cmdFld c 24 1)
  | 0x11 => cmdFld c 24 1 == 0
  | 0x10 => cmdFld c 26 1 != 0
  | 0x51 => true
  | 0x70 => true
  | _ => false

/-- Whether a command reads versioned objects of the epoch it is stamped with (R401, R403). -/
def isStamped (op : Nat) : Bool := op == 0x20 || op == 0x21 || op == 0x22

/-- The tag of the epoch a stamped command selects (R401), none where its field names neither CURRENT nor STAGING. -/
def selectEpoch (d : Dev) (e : Nat) : Option Nat :=
  if e = 0 ∨ e = d.ep.cur then some d.ep.curTag
  else match d.ep.stage with | some (n, t) => if e = n then some t else none | none => none

/-- Entries of a pair's CQ that no completion will take (R446). -/
def cqFree (d : Dev) (q : Nat) : Nat :=
  let p := pairOf d q
  let dep := cqDepth d q
  dep - 1 - (p.cqTail + dep - p.cqHead) % dep

/-- SQ_FETCH (R446, R451): the entry at the head is read, checked and stamped; one that fails a check completes at once. -/
def sqFetch (q : Nat) (d : Dev) : Dev :=
  let p := pairOf d q
  let fn := q / 64
  if ¬ p.enabled ∨ p.error ∨ ¬ fnReady d fn ∨ frozenPart d ((partOfFn d fn).getD 64) ∨ p.sqHead = p.sqTail ∨ cqFree d q ≤ outstanding d q then d
  else
    let a := base64 d (rSqBase q) + 64 * p.sqHead
    if ¬ dmaOk d fn a 64 false then pairError q 2 d
    else
      let t := d.nextTkt
      let c : Cmd := { q, bytes := hostRead d (fn / 64) a 64, fetched := beat d, tag := 3 }
      let op := opcodeOf c
      let sel := selectEpoch d (cmdFld c 12 4)
      let c := { c with tag := if isStamped op then sel.getD 3 else 3 }
      let d := bump .sqFetched q 0 (modPair q (fun p => { p with sqHead := (p.sqHead + 1) % sqDepth d q }) d)
      let d := pcieRead fn 64 { d with nextTkt := t + 1, cmds := tput {} d.cmds t c }
      if ¬ knownOpcode op then complete t .invalidOpcode 0 d
      else if ¬ reservedOk c ∨ ¬ rangesOk d c then complete t .invalidField 0 d
      else if pfOnly c ∧ fn % 64 ≠ 0 then
        complete t .accessDenied 0 (when (op == 0x12) (bump .flipRefused Status.accessDenied.code 0) d)
      else if isStamped op ∧ sel.isNone then complete t .epochStale 0 d
      else if op = 1 then
        if bitOf (cmdFld c 1 1) 1 ∧ d.cmds.any (fun e => e.2.q == q && decide (e.1 < t)) then modCmd t (fun c => { c with st := 1 }) d
        else complete t .ok 0 d
      else d

/-! ## Records -/

/-- The bytes of a frame slot but its phase, cut to the slot (R459). -/
def frameSlot (slot : Nat) (hdr parse frame : List Byte) : List Byte × List Byte :=
  let room := slot - 128 - parse.length
  let fr := frame.take room
  let fl := leNat ((hdr.drop 7).take 1)
  let cut := decide (fr.length < frame.length)
  (hdr.take 2 ++ toLe 2 fr.length ++ (hdr.drop 4).take 3 ++ toLe 1 (if cut then setBits fl 0 1 1 else fl) ++ hdr.drop 8, parse ++ fr)

/-- The bytes of an event-queue slot (R459). -/
def eventSlot (code time : Nat) (payload : List Byte) (seq lost : Nat) (phase : Bool) : List Byte :=
  toLe 1 0x51 ++ toLe 1 (b2n (decide (0 < lost))) ++ toLe 2 code ++ toLe 4 seq ++ toLe 8 time ++ padTo 32 payload ++ toLe 4 lost
    ++ zeroBytes 11 ++ toLe 1 (b2n phase)

/-- The bytes of a record in its slot. -/
def slotBytes (r : RRing) (slot : Nat) (x : Rec) : List Byte :=
  match x with
  | .frame h p f =>
    let b := frameSlot slot h p f
    b.1.take 127 ++ toLe 1 (b2n r.phase) ++ b.2
  | .event code time payload => eventSlot code time payload r.seq r.lost r.phase
  | .sample bs => padTo 63 bs ++ toLe 1 (b2n r.phase)

/-- A record that its ring cannot take is discarded and counted (R460). -/
def recordDrop (k : Nat) (x : Rec) (d : Dev) : Dev :=
  match x with
  | .event _ _ _ => bump .eventLost (k / 32) 0 (modRRing k (fun r => { r with lost := min (r.lost + 1) (2 ^ 32 - 1) }) d)
  | _ => bump .rqDrop k 0 d

/-- RECORD_DELIVER (R458 to R460): the oldest record of a ring is written and announced, or discarded. -/
def recordDeliver (fn r : Nat) (d : Dev) : Dev :=
  let k := 32 * fn + r
  match tget [] d.recPend k with
  | [] => d
  | x :: rest =>
    let d := { d with recPend := tput [] d.recPend k rest }
    let g := rringOf d k
    let dep := rqDepth d k
    if ¬ g.enabled ∨ g.error ∨ ¬ fnReady d fn ∨ (g.tail + 1) % dep = g.head then recordDrop k x d
    else
      let slot := rqSlot d k
      let a := base64 d (rRqBase fn r) + slot * g.tail
      if ¬ dmaOk d fn a slot true then recordDrop k x (rringError k 3 d)
      else
        let n := (g.tail + 1) % dep
        let ev := match x with | .event _ _ _ => true | _ => false
        rringIrq k (modRRing k (fun g => { g with
          tail := n, phase := if n = 0 then !g.phase else g.phase, unann := g.unann + 1
          unannFrom := if g.unann = 0 then beat d else g.unannFrom
          seq := if ev then (g.seq + 1) % 2 ^ 32 else g.seq, lost := if ev then 0 else g.lost })
          (hostWrite fn a (slotBytes g slot x) d))

/-! ## Interrupts -/

/-- IRQ_DELAY_EXPIRE (R461): the delay of a ring has passed since the first unannounced entry. -/
def irqDelay (fn ring : Nat) (d : Dev) : Dev :=
  if ring < 64 then
    let q := 64 * fn + ring
    let p := pairOf d q
    let irq := regVal d (rRingIrq q)
    if p.unann = 0 ∨ bitOf irq 24 ∨ bitsOf irq 8 16 = 0 ∨ beat d < p.unannFrom + 1000 * bitsOf irq 8 16 then d
    else raiseVec fn (regFld d (rRingCfg q) 9 11) (modPair q (fun p => { p with unann := 0 }) d)
  else
    let k := 32 * fn + (ring - 64)
    let p := rringOf d k
    let cfg := regVal d (rRqCfg fn (ring - 64))
    if p.unann = 0 ∨ bitsOf cfg 27 4 = 0 ∨ beat d < p.unannFrom + 4000 * bitsOf cfg 27 4 then d
    else raiseVec fn (bitsOf cfg 8 11) (modRRing k (fun p => { p with unann := 0 }) d)

/-- MSIX_UNMASK (R461): a pending vector sends its message when it is unmasked. -/
def msixUnmask (fn vec : Nat) (d : Dev) : Dev :=
  let k := 4096 * fn + vec
  let d := { d with msixOn := tput false d.msixOn k true }
  if tget false d.msixPba k ∧ fnReady d fn then emit (.msix fn vec) { d with msixPba := tput false d.msixPba k false } else d

/-! ## Access faults -/

/-- The BAR0 address that an access of a function at an offset means (R436, R437). -/
def barAddr (fn off : Nat) : Nat :=
  if fn % 64 = 0 then (if 0x200000 ≤ off ∧ off < 0x240000 then off + fn / 64 * 2 ^ 32 else off) else fnPage fn + off % 4096

/-- Whether a register is the low half of a declared 64-bit pair (R439). -/
def pairLow (a : Nat) : Bool :=
  let o := a % 2 ^ 32
  (decide (0x4000 ≤ o ∧ o < 0x6000) && o % 16 == 0)
    || (decide (0x200000 ≤ o ∧ o < 0x240000)
        && ((decide (0x100 ≤ o % 0x1000 ∧ o % 0x1000 < 0x230) && o % 16 == 0)
          || (decide (0x800 ≤ o % 0x1000) && (o % 32 == 0 || o % 32 == 8))))
    || (decide (0x1000000 ≤ o ∧ o < 0x2000000) && decide (0x40000 ≤ o % 0x400000 ∧ o % 0x400000 < 0x48000) && o % 0x400 == 0x120)
    || (decide (0x2000000 ≤ o ∧ o < 0x2800000) && o % 0x200000 == 0x110)

/-- Whether a BAR2 offset is a doorbell of a function (Table 14.11). -/
def isDoorbell (fn off : Nat) : Bool :=
  let o := off - off % 8
  decide (o < 0x400) || decide (0x400 ≤ o ∧ o < 0x400 + 8 * (if fn % 64 = 0 then 19 else 17))

/-- The kind of fault that a write of `len` bytes is (R439, R440, R613), 0 when it is none. -/
def faultKind (d : Dev) (fn bar off len : Nat) : Nat :=
  if bar = 1 then
    if ¬ isDoorbell fn off then 4 else if len = 8 ∧ off % 8 = 0 then 0 else 3
  else
    let a := barAddr fn off
    if (regSpec (a - a % 4)).isNone ∨ ¬ blockUp d a then 4
    else if len = 4 then (if off % 4 = 0 then 0 else 2)
    else if len = 8 then (if pairLow (a - a % 8) ∨ pairLow (a - a % 4) then (if off % 8 = 0 then 0 else 2) else 1)
    else 1

/-- A discarded write is counted, recorded while nothing is, shown in its function's FN_STATUS, and raises err_vec
(R440, R462). -/
def accessFaultOf (fn bar off kind : Nat) (d : Dev) : Dev :=
  let r := regVal d rAccessFault
  let n := min 65535 (bitsOf r 16 16 + 1)
  let d := if bitOf r 0 then setFld rAccessFault 16 16 n d
    else setReg rAccessAddr (off % 2 ^ 26)
      (setReg rAccessFault (1 + kind * 2 + fn / 64 * 16 + fn % 64 * 32 + bar * 2048 + n * 65536) d)
  raiseErr fn 0 (setFld (rFnStatus fn) 27 1 1 (bump .accessFaults fn 0 d))

/-- ACCESS_FAULT (R440): a write of `len` bytes at an offset of a BAR that Table 14.3 discards. -/
def accessFault (fn bar off len : Nat) (d : Dev) : Dev :=
  let k := faultKind d fn bar off len
  if k = 0 then d else accessFaultOf fn bar off k d

/-! ## Deadlines and running commands -/

/-- The invocations that serve a command. -/
def cmdInvs (d : Dev) (t : Nat) : List Nat := (d.comp.invs.filter (fun e => e.2.serve == .cmd t)).map (·.1)

/-- A running command is stopped as in R212 and completes with a status. -/
def stopCmd (t : Nat) (st : Status) (d : Dev) : Dev :=
  match cmdInvs d t with
  | i :: _ => endInv i st d
  | [] => complete t st 0 d

/-- Whether the partition of a command owns a context that exists. -/
def ctxMine (d : Dev) (c : Cmd) : Bool :=
  let x := ctxOf d (cmdFld c 8 2)
  x.exist && !x.destroying && x.owner == cmdPart d c

/-- Whether a range of a command lies where it says: HBM in the partition's frames, host memory in the DMA window table. -/
def rangeOk (d : Dev) (c : Cmd) (hbm wr : Bool) (a n : Nat) : Bool :=
  if hbm then (if wr then hbmWriteOk d (cmdPart d c) a n else frameOk d (cmdPart d c) a n) else dmaOk d (cmdFn c) a n wr

/-- RUN and RUN_TREES start (R401, R443, R450): the context's version in the stamped epoch runs on its clusters. -/
def runStart (t : Nat) (inLen outLen : Nat) (c : Cmd) (d : Dev) : Dev :=
  let v := ctxVer d (cmdFld c 8 2) c.tag
  if ¬ ctxMine d c ∨ ¬ v.present ∨ (ctxOf d (cmdFld c 8 2)).feedback then complete t .noContext 0 d
  else if ¬ rangeOk d c (bitOf (cmdFld c 1 1) 2) false (cmdFld c 32 8) inLen
      ∨ ¬ rangeOk d c (bitOf (cmdFld c 1 1) 3) true (cmdFld c 40 8) outLen then complete t .accessDenied 0 d
  else modCmd t (fun c => { c with st := 1 }) d

/-- RUN. -/
def runCmd (t : Nat) (c : Cmd) (d : Dev) : Dev := runStart t (cmdFld c 56 4) (cmdFld c 60 4) c d

/-- RUN_TREES: a vector takes 2 × n_features bytes rounded up to 64, a result 4 × n_out bytes (R450). -/
def runTrees (t : Nat) (c : Cmd) (d : Dev) : Dev :=
  let par := (ctxVer d (cmdFld c 8 2) c.tag).par
  runStart t (cmdFld c 48 4 * (ceilDiv (2 * par.nFeatures) 64 * 64)) (cmdFld c 48 4 * par.nOut * 4) c d

/-! ## TX_FRAME -/

/-- Scaled tokens of a partition's transmit bucket per byte (R486): the rate is in Mb/s. -/
def txTok : Int := 8000

/-- The enqueue of a host frame (R454, R486): rights, tokens, then the port's queue; without tokens the command waits. -/
def txTry (t : Nat) (c : Cmd) (d : Dev) : Dev :=
  let p := cmdPart d c
  let bp := cmdFld c 24 1 % 32 * 4 + cmdFld c 24 1 / 32 % 4
  let q := cmdFld c 25 1
  let len := cmdFld c 26 2
  let x := partOf d p
  let k := 4 * p + bp / 32
  let rate : Int := ((max 1 (min x.txRate 6400000) : Nat) : Int)
  let cap : Int := 65536 * txTok
  let b := tget {} d.txBk k
  let cost : Int := ((len + 4 : Nat) : Int) * txTok
  if d.cmds.any (fun e => decide (e.1 < t) && e.2.q == c.q && opcodeOf e.2 == 0x30 && cmdFld e.2 24 1 == cmdFld c 24 1) then
    modCmd t (fun c => { c with st := 1 }) d
  else if bkLevel cap rate (beat d) b < cost then modCmd t (fun c => { c with st := 1 }) d
  else
    let d := pcieRead (cmdFn c) len { d with txBk := tput {} d.txBk k (bkTake cap rate (beat d) cost b) }
    let it : EItem := { bytes := hostRead d (c.q / 4096) (cmdFld c 32 8) len, len := len + 4, cells := cellsOf (len + 4), inBp := 128, storeFwd := true }
    if ¬ bpEnabled d bp then complete t .linkDown 0 d
    else
      let r := enqueue bp q it false d
      match r.1 with
      | .done => complete t .ok 0 r.2
      | .linkDown => complete t .linkDown 0 r.2
      | .holdFull => complete t .portNotReady 0 r.2
      | _ => complete t .noSpace 0 (bump .dropQueueFull bp q r.2)

/-- TX_FRAME starts (R454). -/
def txFrame (t : Nat) (c : Cmd) (d : Dev) : Dev :=
  let x := partOf d (cmdPart d c)
  if ¬ bitOf x.txPorts (cmdFld c 24 1 % 32) ∨ ¬ bitOf x.txQueues (cmdFld c 25 1) ∨ ¬ dmaOk d (cmdFn c) (cmdFld c 32 8) (cmdFld c 26 2) false then
    complete t .accessDenied 0 d
  else txTry t c d

/-- TX_FRAME_ENQUEUE (R486): a host frame that waits for tokens, or for an earlier frame, is tried again. -/
def txEnqueue (q t : Nat) (d : Dev) : Dev :=
  let c := cmdOf d t
  if c.q = q ∧ opcodeOf c = 0x30 ∧ c.st = 1 then
    if cmdLate d c then complete t .deadlineMissed 0 d else txTry t c d
  else d

end Sys2Proof.Machine
end

