-- ==== Sys2Proof/Machine/StoreDies.lean ====
section
/-! DEFINITION. The store dies (12_store_memory): accesses and errors of HBM, stack temperatures, patrols, row modes, zeroing, and
the directory that keeps control-core caches coherent. -/

namespace Sys2Proof.Machine

/-- A stack. -/
def stackOf (d : Dev) (m : Nat) : Stack := tget {} d.store.stackTab m
/-- The device with a stack changed. -/
def modStack (m : Nat) (f : Stack → Stack) : Dev → Dev := onStore (fun s => { s with stackTab := tmod {} s.stackTab m f })

/-- A corrected burst is counted; above ce_threshold in 24 h it is a storm (R387, R389). -/
def hbmCorrected (x : Nat) (d : Dev) : Dev :=
  let m := (hbmMap d x).1
  let i := m / 3
  let d := setFld (rErrStatus i) 2 1 1 (bump .hbmCe m 0 d)
  let recent := beat d :: (stackOf d m).ceWindow.filter (fun b => decide (beat d < b + 86400000000000))
  let d := modStack m (fun s => { s with ceWindow := recent }) d
  if recent.length = regFld d (rScrubCfg i) 8 16 + 1 then
    setFld (rHbmStatus m) 14 1 1 (islandLog 0x0105 (storeSite i) (m % 3) [] d)
  else d

/-- HBM_POISON (R387): the burst is poisoned, logged and counted. -/
def hbmPoison (x : Nat) (d : Dev) : Dev :=
  let m := (hbmMap d x).1
  let i := m / 3
  let d := onStore (fun s => { s with poison := tput false s.poison (x / 64) true }) d
  let d := setReg (rPoisonLo i) (x % 2 ^ 32) (setReg (rPoisonHi i) (x / 2 ^ 32) (setFld (rErrStatus i) 3 1 1 (bump .hbmUe m 0 d)))
  islandLog 0x0106 (storeSite i) (m % 3) (toLe 8 x) d

/-- What a read of a burst finds: 1 a corrected error, 2 an uncorrectable one, 3 and 4 reports of the stack's on-die ECC. -/
def hbmError (x err : Nat) (d : Dev) : Dev :=
  match err with
  | 1 => hbmCorrected x d
  | 2 => hbmPoison x d
  | 3 => bump .hbmOndieCe (hbmMap d x).1 0 d
  | 4 => bump .hbmOndieUe (hbmMap d x).1 0 d
  | _ => d

/-- HBM_ACCESS (R378, R379, R387): kind 0 a read, 1 a write of `data`; owner 64 is the firmware tag, which is not checked. -/
def hbmAccess (owner x kind : Nat) (data : List Byte) (err : Nat) (d : Dev) : Dev :=
  let n := if kind = 1 then data.length else 64
  if owner < 64 ∧ ¬ (if kind = 1 then hbmWriteOk d owner x n else frameOk d owner x n) then hbmDeny x d
  else if kind = 1 then hbmPut owner x data d
  else hbmError x err (hbmCount false owner x 64 d)

/-- HBM_SCRUB (R389): the patrol reads a burst of its die while hbm_scrub_en = 1. -/
def hbmScrub (die x err : Nat) (d : Dev) : Dev :=
  if bitOf (regVal d (rScrubCfg die)) 0 ∧ hbmDie d x = die then hbmError x err (hbmCount false 64 x 64 d) else d

/-- The thresholds of Table 12.2. -/
def tempThreshold : Nat → Nat
  | 0 => 0 | 1 => 85 | 2 => 95 | _ => 100

/-- The level of a stack whose temperature is now `t` (R380): entered at a threshold, left 3 °C below it. -/
def tempLevel (cur t : Nat) : Nat :=
  let up := if 100 ≤ t then 3 else if 95 ≤ t then 2 else if 85 ≤ t then 1 else 0
  if cur ≤ up then up
  else if 3 ≤ cur ∧ tempThreshold 3 < t + 3 then 3
  else if 2 ≤ cur ∧ tempThreshold 2 < t + 3 then 2
  else if 1 ≤ cur ∧ tempThreshold 1 < t + 3 then 1
  else up

/-- STACK_TEMP_REPORT (R380). -/
def stackTemp (m t : Nat) (d : Dev) : Dev :=
  let old := (stackOf d m).level
  let l := tempLevel old t
  let d := modStack m (fun s => { s with temp := t, level := l }) d
  if l = 3 ∧ old ≠ 3 then islandLog 0x0107 (storeSite (m / 3)) (m % 3) [] (setFld (rHbmStatus m) 13 1 1 d) else d

/-- COALESCER_SERVE (R382). -/
def coalescerServe (die stack pch bank : Nat) : Dev → Dev := coalServe die (1024 * (3 * die + stack) + 16 * pch + bank) false

/-- COALESCER_MAX_WAIT (R382): the row of the oldest burst past max_wait_ns is opened. -/
def coalescerMaxWait (die stack pch bank : Nat) : Dev → Dev := coalServe die (1024 * (3 * die + stack) + 16 * pch + bank) true

/-- SRAM_PATROL (R386, Table 12.4): region 0 a flow entry, 1 a flow stash entry, 2 a partition-table entry, 3 the attention
buffer; err 0 none, 1 corrected, 2 uncorrectable. -/
def sramPatrol (die region idx err : Nat) (d : Dev) : Dev :=
  if err = 0 then d
  else if err = 1 then setFld (rErrStatus die) 0 1 1 (bump .sramCe die 0 d)
  else
    let d := setFld (rErrStatus die) 1 1 1 (bump .sramUe die 0 d)
    match region with
    | 0 => onEdge (fun e => { e with flowTab := tdel e.flowTab (2 ^ 23 * die + idx) }) d
    | 1 => onEdge (fun e => { e with flowTab := tdel e.flowTab (2 ^ 23 * die + 2 ^ 22 + idx) }) d
    | 2 => { d with keyed := (d.keyed.zip (List.range d.keyed.length)).map (fun e => if e.2 = idx then { e.1 with poison := true } else e.1) }
    | _ => d

/-- Whether some frame of an HBM row is granted to a partition. -/
def rowInUse (d : Dev) (r : Nat) : Bool :=
  d.parts.any (fun p => p.2.exist && (List.range 12).any (fun k => bitOf p.2.frames (12 * r + k)))

/-- ROWMODE_WRITE (R377): it takes effect only while no frame of the row is granted, and not for mode 3. -/
def rowmodeWrite (r val : Nat) (d : Dev) : Dev :=
  let d := when (bitOf val 3) (setFld (rRowmode r) 3 1 0) d
  if rowInUse d r ∨ val % 4 = 3 then setFld (rRowmode r) 3 1 1 d else setFld (rRowmode r) 0 2 (val % 4) d

/-- The store dies that hold part of a frame and the bytes each zeroes (R480). -/
def frameDies (d : Dev) (f : Nat) : List (Nat × Nat) :=
  match rowMode d (f / 12) with
  | 0 => (List.range 4).map (fun i => (i, 2 ^ 28))
  | _ => [(f % 12 / 3, 2 ^ 30)]

/-- HBM with the bytes of a frame removed: they read as zero. -/
def eraseFrame (f : Nat) : Dev → Dev := onStore (fun s => { s with
  hbm := s.hbm.filter (fun e => e.1 / 2 ^ 30 != f), poison := s.poison.filter (fun e => e.1 * 64 / 2 ^ 30 != f) })

/-- A frame is put into the zeroing queues of the store dies that hold it (R480); its bytes are gone from here on. -/
def queueZero (who f : Nat) (d : Dev) : Dev :=
  (frameDies d f).foldl (fun d x => onStore (fun s => { s with zeroQ := tmod [] s.zeroQ x.1 (· ++ [{ part := who, frame := f }]) }) d) (eraseFrame f d)

/-- FRAME_ZERO_DONE (R377, R480): the zeroing engine of a store die has finished the oldest piece of its queue. -/
def frameZeroDone (die : Nat) (d : Dev) : Dev :=
  match tget [] d.store.zeroQ die with
  | [] => d
  | j :: rest =>
    let n := ((frameDies d j.frame).find? (fun x => x.1 == die)).map (·.2) |>.getD (2 ^ 30)
    bumpN .zeroBytes die 0 n (onStore (fun s => { s with zeroQ := tput [] s.zeroQ die rest }) d)

/-- Whether zeroing work of an operation is left. -/
def zeroLeft (d : Dev) (who : Nat) : Bool := d.store.zeroQ.any (fun e => e.2.any (fun j => j.part == who))

/-! ## The directory (R391 to R393) -/

/-- The key of a line of a compute die's firmware RAM. -/
def lineKey (die line : Nat) : Nat := 32768 * die + line
/-- A directory line. -/
def dirOf (d : Dev) (k : Nat) : DirLine := tget {} d.store.dir k
/-- The device with a directory line changed. -/
def modDir (k : Nat) (f : DirLine → DirLine) : Dev → Dev := onStore (fun s => { s with dir := tmod {} s.dir k f })
/-- An L2's copy of a line. -/
def l2Of (d : Dev) (k l2 : Nat) : L2Line := tget {} d.store.l2 (8 * k + l2)
/-- The device with an L2's copy changed. -/
def setL2 (k l2 : Nat) (x : L2Line) : Dev → Dev := onStore (fun s => { s with l2 := tput {} s.l2 (8 * k + l2) x })

/-- The transaction in progress on a line ends (R392): kind 0 a shared read, 1 a unique read followed by a write of `val`, 2 a
whole-line write by another agent. `x` is the line's latest value. -/
def dirGrant (k : Nat) (x : Nat) (d : Dev) : Dev :=
  let l := dirOf d k
  match l.busy with
  | none => d
  | some (who, kind, val) =>
    let d := modDir k (fun l => { l with busy := none, snoops := 0, expectWb := false }) d
    match kind with
    | 0 => setL2 k who { state := 1, data := x } (modDir k (fun l => { l with state := 1, present := setBits l.present who 1 1, data := x }) d)
    | 1 => setL2 k who { state := 2, data := val } (modDir k (fun l => { l with state := 2, present := 2 ^ who }) d)
    | _ => modDir k (fun l => { l with state := 0, present := 0, data := val }) d

/-- A transaction starts on a line that is free: the copies that must change are snooped first. -/
def dirStart (k who kind val : Nat) (d : Dev) : Dev :=
  let l := dirOf d k
  let others := if kind = 2 then l.present else setBits l.present who 1 0
  let snoops := if kind = 0 then (if l.state = 2 then others else 0) else others
  let d := modDir k (fun l => { l with busy := some (who, kind, val), snoops }) d
  if snoops = 0 then dirGrant k (if l.state = 2 ∧ kind ≠ 2 then (l2Of d k who).data else l.data) d else d

/-- The next transaction held behind a finished one starts; `fuel` bounds how many start at once. -/
def dirNext (k : Nat) : Nat → Dev → Dev
  | 0, d => d
  | fuel + 1, d =>
    match (dirOf d k).busy, (dirOf d k).held with
    | none, (who, kind, val) :: rest => dirNext k fuel (dirStart k who kind val (modDir k (fun l => { l with held := rest }) d))
    | _, _ => d

/-- DIRECTORY_REQUEST (R391, R392): one transaction per line at a time, later ones held in order. -/
def dirRequest (die line l2 kind val : Nat) (d : Dev) : Dev :=
  let k := lineKey die line
  if (dirOf d k).busy.isSome then modDir k (fun l => { l with held := l.held ++ [(l2, kind, val)] }) d
  else dirNext k 64 (dirStart k l2 kind val d)

/-- The line's latest value where the snoop of `l2` is answered. -/
def snoopValue (d : Dev) (k l2 : Nat) : Nat := if (l2Of d k l2).state = 2 then (l2Of d k l2).data else (dirOf d k).data

/-- SNOOP_RESPONSE (R391, R393): an L2 answers a snoop with its line, with "invalid", or with "invalid, writeback in flight" while
the line sits in its writeback buffer; then the directory waits for the writeback. -/
def snoopResponse (die line l2 : Nat) (d : Dev) : Dev :=
  let k := lineKey die line
  let l := dirOf d k
  match l.busy with
  | some (_, kind, _) =>
    if ¬ bitOf l.snoops l2 then d
    else
      let c := l2Of d k l2
      if c.wb then modDir k (fun l => { l with expectWb := true }) d
      else
        let x := snoopValue d k l2
        let d := setL2 k l2 (if kind = 0 ∧ c.state ≠ 0 then { c with state := 1 } else {}) d
        let d := modDir k (fun l => { l with
          data := if c.state = 2 then x else l.data, present := if kind = 0 ∧ c.state ≠ 0 then l.present else setBits l.present l2 1 0
          snoops := setBits l.snoops l2 1 0 }) d
        if (dirOf d k).snoops = 0 then dirNext k 64 (dirGrant k (dirOf d k).data d) else d
  | none => d

/-- DIRECTORY_WRITEBACK (R391, R393): a Modified line moves to its L2's writeback buffer, and from there reaches the directory,
which takes it as the answer of a snoop it waits for, or writes the firmware RAM. -/
def dirWriteback (die line l2 : Nat) (d : Dev) : Dev :=
  let k := lineKey die line
  let c := l2Of d k l2
  let l := dirOf d k
  if c.state = 2 ∧ ¬ c.wb then setL2 k l2 { c with wb := true } d
  else if ¬ c.wb then d
  else
    let d := setL2 k l2 {} d
    if l.busy.isSome ∧ bitOf l.snoops l2 then
      let d := modDir k (fun l => { l with snoops := setBits l.snoops l2 1 0, expectWb := false, present := setBits l.present l2 1 0 }) d
      if (dirOf d k).snoops = 0 then dirNext k 64 (dirGrant k c.data d) else modDir k (fun l => { l with data := c.data }) d
    else modDir k (fun l => { l with data := c.data, present := setBits l.present l2 1 0, state := 0 }) d

end Sys2Proof.Machine
end

