-- ==== Sys2Proof/Machine/Attn.lean ====
section
/-! DEFINITION. Token-by-token generation (10_generation): decode steps, the KV cache, the attention units of the store dies and
page-bound skipping. -/

namespace Sys2Proof.Machine

/-! ## Directed rounding -/

/-- m × 2^e over 2^u, rounded up in magnitude where `ceil`, down otherwise. -/
def magDir (m : Nat) (e u : Int) (ceil : Bool) : Nat :=
  if u ≤ e then m * 2 ^ (e - u).toNat
  else
    let sh := (u - e).toNat
    m / 2 ^ sh + (if ceil && m % 2 ^ sh != 0 then 1 else 0)

/-- A value rounded to format 12 or 15 toward +∞ where `up`, else toward −∞ (R327, R339, R340). -/
def fpDir (f : Nat) (up : Bool) : FVal → Nat
  | .nan => canonNan f
  | .inf neg => infCode f neg
  | .fin neg m e =>
    if m = 0 then packFp f neg 0 0
    else
      let ceil := up != neg
      let u := ulpExp f m e
      let q := magDir m e u ceil
      let mx := fmtMax f
      if magLe q u mx.1 mx.2 then packFp f neg q u
      else if ceil then infCode f neg
      else packFp f neg mx.1 mx.2

/-- The exact sum of a list of values; the empty sum is +0. -/
def vSum : List FVal → FVal
  | [] => .fin false 0 0
  | x :: xs => xs.foldl vAdd x

/-- The exact sum of products. -/
def vDot (a b : List FVal) : FVal := vSum (List.zipWith vMul a b)

/-- Whether a value is NaN. -/
def vIsNan (v : FVal) : Bool := match v with | .nan => true | _ => false

/-! ## Partials (R333, R335) -/

/-- FP32 −∞. -/
def fp32NegInf : Nat := 0xFF800000

/-- The FP32 code of a difference. -/
def fpSub (a b : Nat) : Nat := fpRound 15 (vAdd (fmtVal 15 a 0) (vNeg (fmtVal 15 b 0)))

/-- Whether one FP32 code is above another. -/
def fpGt (a b : Nat) : Bool := vLt (fmtVal 15 b 0) (fmtVal 15 a 0)

/-- attend_page (R333): a page's logits `s` and value rows `v` are taken into a partial of `hd` dimensions. -/
def attendPage (hd : Nat) (p : AttnPart) (s : List Nat) (v : List (List FVal)) : AttnPart :=
  let mp := s.tail.foldl (fun a x => if fpGt x a then x else a) (s.headD fp32NegInf)
  let p := { p with nan := p.nan || s.any (fun x => vIsNan (fmtVal 15 x 0)) || v.any (·.any vIsNan) }
  let o := if p.o.isEmpty then List.replicate hd 0 else p.o
  let p := if fpGt mp p.m then
      let c := if p.m = fp32NegInf then 0 else transFn .exp (fpSub p.m mp)
      { p with l := fpMul 15 p.l c, o := o.map (fun x => fpMul 15 x c), m := mp }
    else { p with o }
  let w := s.map (fun x => transFn .exp (fpSub x p.m))
  let wv := w.map (fun x => fmtVal 15 x 0)
  { p with
    l := fpAdd 15 p.l (fpRound 15 (vSum wv))
    o := (List.range hd).map (fun k => fpAdd 15 (lget 0 p.o k) (fpRound 15 (vDot wv (v.map (fun r => lget (.fin false 0 0) r k))))) }

/-- The merge of two partials (R335). -/
def mergePart (a b : AttnPart) : AttnPart :=
  let nan := a.nan || b.nan
  if a.m = fp32NegInf then { b with nan }
  else if b.m = fp32NegInf then { a with nan }
  else
    let m := if fpGt b.m a.m then b.m else a.m
    let ca := transFn .exp (fpSub a.m m)
    let cb := transFn .exp (fpSub b.m m)
    let mix (x y : Nat) : Nat := fpAdd 15 (fpMul 15 x ca) (fpMul 15 y cb)
    { m, nan, l := mix a.l b.l, o := List.zipWith mix a.o b.o }

/-- The merge of two lists of partials, one per query head. -/
def mergeParts (a b : List AttnPart) : List AttnPart := List.zipWith mergePart a b

/-- The output of a query head (R333, R335): o × rcp(l), the canonical NaN where one was met. -/
def partOut (hd : Nat) (p : AttnPart) : List Nat :=
  if p.nan then List.replicate hd (canonNan 15)
  else
    let r := transFn .rcp p.l
    (List.range hd).map (fun k => fpMul 15 (lget 0 p.o k) r)

/-! ## Sequences -/

/-- Bytes of a page unit (R326): S_u = 4 hd + 256 + 512 hd w. -/
def unitBytes (s : SeqRun) : Nat := 4 * s.hd + 256 + 64 * s.hd * (fmtInfo s.fmt).bits

/-- Bytes of a key or value row of a token. -/
def rowBytes (s : SeqRun) : Nat := s.hd * (fmtInfo s.fmt).bits / 8

/-- The HBM address of the page unit of page `p`, layer `l` and KV head `h` (R328). -/
def unitAddr (s : SeqRun) (p l h : Nat) : Nat :=
  lget 0 s.bases (p % 4) + ((p / 4 * s.nLayers + l) * s.nKv + h) * unitBytes s

/-- Committed tokens of page `p`. -/
def pageTokens (s : SeqRun) (p : Nat) : Nat := min 256 (s.length - 256 * p)

/-- The pages of a store die in visit order (R337): the newest first, then the others ascending. -/
def visitOrder (s : SeqRun) (die : Nat) : List Nat :=
  let l := (List.range (ceilDiv s.length 256)).filter (fun p => p % 4 == die)
  match l.getLast? with
  | none => []
  | some x => x :: l.dropLast

/-- The key rows and the value rows of the first `n` tokens of a page unit, as exact values. -/
def unitRows (s : SeqRun) (u : List Byte) (n : Nat) : List (List FVal) × List (List FVal) :=
  let row (base t : Nat) : List FVal :=
    let e := signedOf 8 (leNat ((u.drop (4 * s.hd + t)).take 1))
    (unpack s.fmt s.hd ((u.drop (base + t * rowBytes s)).take (rowBytes s))).map (fun c => vScale (fmtVal s.fmt c 0) e)
  let kb := 4 * s.hd + 256
  ((List.range n).map (row kb), (List.range n).map (row (kb + 256 * rowBytes s)))

/-- The logits of a query head over key rows (R333). -/
def logits (s : SeqRun) (q : List Nat) (ks : List (List FVal)) : List Nat :=
  let qv := q.map (fun c => fmtVal 15 c 0)
  ks.map (fun k => fpMul 15 (fpRound 15 (vDot qv k)) s.scale)

/-- A product of which a zero query makes 0 (R339). -/
def boundMul (q b : FVal) : FVal :=
  match q with
  | .fin _ 0 _ => .fin false 0 0
  | _ => vMul q b

/-- The bound U_h of a page unit for a query head (R339), none where it is NaN. -/
def pageBound (s : SeqRun) (q : List Nat) (bounds : List Byte) : FVal :=
  let half (k : Nat) : FVal := fmtVal 12 (leNat ((bounds.drop (2 * k)).take 2)) 0
  let sum := vSum ((List.range s.hd).map (fun k =>
    let x := fmtVal 15 (lget 0 q k) 0
    let a := boundMul x (half k)
    let b := boundMul x (half (s.hd + k))
    if vIsNan a ∨ vIsNan b then .nan else if vLt a b then b else a))
  fmtVal 15 (fpDir 15 true (vMul (fmtVal 15 (fpDir 15 true sum) 0) (fmtVal 15 s.scale 0))) 0

/-- τ of a descriptor: the value 0.0 selects 20 (Table 10.4). -/
def tauVal (s : SeqRun) : FVal :=
  match fmtVal 15 s.tau 0 with
  | .fin _ 0 _ => .fin false 20 0
  | v => v

/-- Whether a unit may skip a page unit for one query head (R340). -/
def headSkips (s : SeqRun) (q : List Nat) (p : AttnPart) (bounds : List Byte) : Bool :=
  let u := pageBound s q bounds
  p.m != fp32NegInf && !vIsNan u
    && vLt u (fmtVal 15 (fpDir 15 false (vAdd (fmtVal 15 p.m 0) (vNeg (tauVal s)))) 0)

/-- What an attention unit has done of a layer: the device, its partials, page units read and skipped, and whether a burst was
uncorrectable. -/
structure AttnRun where
  dev : Dev
  parts : List AttnPart
  units : Nat := 0
  skipped : Nat := 0
  bytes : Nat := 0
  bad : Bool := false

/-- One page unit of a layer and KV head is visited (R337 to R340). -/
def visitUnit (s : SeqRun) (die l h : Nat) (q : List (List Nat)) (r : AttnRun) (p : Nat) : AttnRun :=
  if r.bad then r
  else
    let x := unitAddr s p l h
    let hs := (List.range s.qPer).map (fun k => h * s.qPer + k)
    let b := hbmBytes r.dev x (4 * s.hd)
    let maySkip := bitOf s.skip die
    if maySkip ∧ hbmBad r.dev x (4 * s.hd) then { r with bad := true }
    else if maySkip ∧ hs.all (fun i => headSkips s (lget [] q i) (lget {} r.parts i) b) then
      { r with dev := hbmCount false s.part x (4 * s.hd) r.dev, skipped := r.skipped + 1, bytes := r.bytes + 4 * s.hd }
    else if hbmBad r.dev x (unitBytes s) then { r with bad := true }
    else
      let n := pageTokens s p
      let kv := unitRows s (hbmBytes r.dev x (unitBytes s)) n
      let parts := hs.foldl (fun ps i => lset ps i (attendPage s.hd (lget {} ps i) (logits s (lget [] q i) kv.1) kv.2)) r.parts
      { r with dev := hbmCount false s.part x (unitBytes s) r.dev, parts, units := r.units + 1, bytes := r.bytes + unitBytes s }

/-- The attention of a store die over the committed pages of a layer. -/
def attendDie (s : SeqRun) (die l : Nat) (q : List (List Nat)) (d : Dev) : AttnRun :=
  (List.range s.nKv).foldl (fun r h => (visitOrder s die).foldl (visitUnit s die l h q) r)
    { dev := d, parts := List.replicate (s.nKv * s.qPer) { o := List.replicate s.hd 0 } }

/-- The codes and exponent of a new token's key and value of a KV head (R325). -/
def tokenCodes (fmt : Nat) (vals : List Nat) : List Nat × Int :=
  let vs := vals.map (fun c => fmtVal 15 c 0)
  let r := rowExtremes vs
  let e := needOf fmt 0 r.1 r.2
  (vs.map (fun v => (convert fmt 0 v (-e) none).code), e)

/-- The new token's codes and exponents of a layer are written into the tail page units (R330). -/
def writeToken (s : SeqRun) (l : Nat) (kv : List (List Nat × Int)) (d : Dev) : Dev :=
  let p := s.length / 256
  let t := s.length % 256
  (List.range s.nKv).foldl (fun d h =>
    let x := unitAddr s p l h
    let c := lget ([], 0) kv h
    let kb := x + 4 * s.hd + 256
    let d := hbmPut s.part (x + 4 * s.hd + t) (toLe 1 (wrapInt 8 c.2)) d
    let d := hbmPut s.part (kb + t * rowBytes s) (packCodes s.fmt (c.1.take s.hd)) d
    hbmPut s.part (kb + 256 * rowBytes s + t * rowBytes s) (packCodes s.fmt (c.1.drop s.hd)) d) d

/-- The current token's partial of every query head (R334): a page of one token, from its stored codes and exponent. -/
def attendToken (s : SeqRun) (kv : List (List Nat × Int)) (q : List (List Nat)) : List AttnPart :=
  (List.range (s.nKv * s.qPer)).map (fun i =>
    let c := lget ([], 0) kv (i / s.qPer)
    let row := c.1.map (fun x => vScale (fmtVal s.fmt x 0) c.2)
    attendPage s.hd { o := List.replicate s.hd 0 } (logits s (lget [] q i) [row.take s.hd]) [row.drop s.hd])

/-! ## Descriptors and DECODE_STEP -/

/-- A sequence descriptor (Table 10.4). -/
def seqOf (part desc : Nat) (bs : List Byte) : SeqRun :=
  let f (o n : Nat) : Nat := leNat ((bs.drop o).take n)
  { part, desc, fmt := f 1 1, tail := bitOf (f 2 1) 1, nKv := f 3 1, nLayers := f 4 2, hd := 16 * f 6 1, qPer := f 7 1, length := f 8 4
    posBase := f 12 4, cap := f 16 4, tau := f 20 4, scale := f 24 4, shard := f 28 1, nShards := f 29 1
    bases := (List.range 4).map (fun i => f (32 + 8 * i) 8), skip := if bitOf (f 2 1) 0 then 15 else 0 }

/-- Whether the fields of a descriptor have defined values (Table 10.5, first case). -/
def seqFieldsOk (s : SeqRun) (bs : List Byte) : Bool :=
  let f (o n : Nat) : Nat := leNat ((bs.drop o).take n)
  let tau := fmtVal 15 s.tau 0
  let scale := fmtVal 15 s.scale 0
  f 0 1 == 1 && (s.fmt == 2 || s.fmt == 4 || s.fmt == 9) && decide (f 2 1 < 4) && within [(s.nKv - 1, 16), (s.nLayers - 1, 128), (s.hd / 16 - 1, 16), (s.qPer - 1, 16)]
    && decide (1 ≤ s.nKv ∧ 1 ≤ s.nLayers ∧ 1 ≤ s.hd ∧ 1 ≤ s.qPer)
    && decide (s.length ≤ 2 ^ 24 ∧ s.posBase < 2 ^ 24 ∧ 1 ≤ s.cap ∧ s.cap ≤ 65536)
    && (match tau with | .fin neg m _ => (m == 0 || !neg) && !vLt (.fin false 88 0) tau | _ => false)
    && (match scale with | .fin neg m _ => !neg && m != 0 | _ => false)
    && decide (s.shard < 8) && (!s.tail || decide (1 ≤ s.nShards ∧ s.nShards ≤ 8 ∧ s.shard < s.nShards))
    && f 30 2 == 0 && f 64 32 == 0 && f 112 16 == 0 && f 192 64 == 0
    && s.bases.all (fun b => b % 64 == 0)
    && (!s.tail || (List.range s.nShards).all (fun i => let e := f (128 + 8 * i) 8
        decide (e < 2 ^ 21 ∧ e % 256 < 8 ∧ bitsOf e 8 10 < 768)))

/-- Bytes of the region of a store die. -/
def regionBytes (s : SeqRun) (die : Nat) : Nat := ((s.cap + 3 - die) / 4) * s.nLayers * s.nKv * unitBytes s

/-- Whether every region lies in the partition's frames pinned to its store die (R328, Table 10.5). -/
def seqRegionsOk (d : Dev) (s : SeqRun) : Bool :=
  (List.range 4).all (fun die =>
    let x := lget 0 s.bases die
    let n := regionBytes s die
    n == 0 || (hbmWriteOk d s.part x n
      && (List.range ((x + n - 1) / 2 ^ 30 + 1 - x / 2 ^ 30)).all (fun k =>
        let f := x / 2 ^ 30 + k
        rowMode d (f / 12) != 0 && f % 12 / 3 == die)))

/-- What a descriptor comes to: its status, OK where a step may start on it (Table 10.5), and the sequence with the store dies on
which it may skip (R338). -/
def seqCheck (d : Dev) (part desc : Nat) (needTail : Bool) (dec : Option (Nat × Nat × Nat × Nat)) : Status × SeqRun :=
  if desc % 256 ≠ 0 then (.invalidField, {})
  else match hbmRead d part desc 256 with
    | .denied => (.accessDenied, {})
    | .bad => (.dataError, {})
    | .ok bs =>
      let s := seqOf part desc bs
      let s := { s with skip := (List.range 4).foldl (fun m i => if bitOf s.skip i && bitOf (regVal d (rAttnCfg i)) 8 then m + 2 ^ i else m) 0 }
      let same : Bool := match dec with | none => true | some (a, b, c, e) => s.nLayers == a && s.nKv == b && s.hd == 16 * c && s.qPer == e
      if ¬ seqFieldsOk s bs ∨ ¬ same ∨ (needTail ∧ ¬ s.tail) then (.invalidField, s)
      else if ¬ hbmWriteOk d part desc 256 ∨ ¬ seqRegionsOk d s then (.accessDenied, s)
      else if s.tail ∧ 2 ^ 24 ≤ s.posBase + s.length then (.tooLarge, s)
      else if s.tail ∧ s.cap * 256 ≤ s.length then (.noSpace, s)
      else (.ok, s)

/-- The descriptor addresses that a DECODE_STEP names. -/
def stepDescs (d : Dev) (c : Cmd) : List Nat :=
  (List.range (cmdFld c 24 1)).map (fun k => leNat (hostRead d (c.q / 4096) (cmdFld c 32 8 + 8 * k) 8))

/-- Whether an earlier step that has not completed names a sequence of this one (R322). -/
def stepWaits (d : Dev) (t : Nat) (c : Cmd) : Bool :=
  let mine := stepDescs d c
  d.cmds.any (fun e => decide (e.1 < t) && opcodeOf e.2 == 0x22 && cmdPart d e.2 == cmdPart d c
    && (stepDescs d e.2).any mine.contains)

/-- DECODE_STEP starts (R319, R331). -/
def decodeStart (t : Nat) (c : Cmd) (d : Dev) : Dev :=
  let ctx := cmdFld c 8 2
  let v := ctxVer d ctx c.tag
  let part := cmdPart d c
  if ¬ ctxMine d c ∨ ¬ v.present ∨ (ctxOf d ctx).feedback then complete t .noContext 0 d
  else if ¬ dmaOk d (cmdFn c) (cmdFld c 32 8) (8 * cmdFld c 24 1) false ∨ ¬ dmaOk d (cmdFn c) (cmdFld c 40 8) (cmdFld c 48 4) true then
    complete t .accessDenied 0 d
  else if stepWaits d t c then d
  else
    let ds := stepDescs d c
    let d := pcieRead (cmdFn c) (8 * ds.length) d
    if v.decode.isNone ∨ ds.eraseDups.length ≠ ds.length then complete t .invalidField 0 d
    else
      let rs := ds.map (fun x => seqCheck d part x true v.decode)
      match rs.find? (fun r => r.1 != .ok) with
      | some r => complete t r.1 0 d
      | none =>
        let d := ds.foldl (fun d x => hbmCount false part x 256 d) d
        onStore (fun s => { s with dec := tput {} s.dec t { seqs := rs.map (·.2) } }) (modCmd t (fun c => { c with st := 1 }) d)

/-- The bounds of a page unit with the new token's key taken in (R327): the first token of a page sets them. -/
def widen (s : SeqRun) (old : List Byte) (first : Bool) (codes : List Nat) (e : Int) : List Byte :=
  let half (k : Nat) : Nat := leNat ((old.drop (2 * k)).take 2)
  let key (k : Nat) : FVal := vScale (fmtVal s.fmt (lget 0 codes k) 0) e
  let lo (k : Nat) : Nat :=
    let n := fpDir 12 false (key k)
    if first ∨ vLt (fmtVal 12 n 0) (fmtVal 12 (half k) 0) ∨ vIsNan (key k) then n else half k
  let hi (k : Nat) : Nat :=
    let n := fpDir 12 true (key k)
    if first ∨ vLt (fmtVal 12 (half (s.hd + k)) 0) (fmtVal 12 n 0) ∨ vIsNan (key k) then n else half (s.hd + k)
  ((List.range s.hd).flatMap (fun k => toLe 2 (lo k))) ++ (List.range s.hd).flatMap (fun k => toLe 2 (hi k))

/-- The counts of a shard's descriptor are written at a commit (R330). -/
def writeCounts (s : SeqRun) (d : Dev) : Dev :=
  let steps := leNat (hbmBytes d (s.desc + 96) 8)
  hbmPut s.part (s.desc + 96) (toLe 8 (steps + 1) ++ toLe 4 s.unitsRead ++ toLe 4 s.unitsSkipped) d

/-- DECODE_COMMIT of one sequence (R330): the widened bounds, the length and the counts. -/
def commitSeq (s : SeqRun) (d : Dev) : Dev :=
  let p := s.length / 256
  let d := (List.range s.nLayers).foldl (fun d l => (List.range s.nKv).foldl (fun d h =>
    let x := unitAddr s p l h
    let c := lget ([], 0) ((tget none s.kv l).getD []) h
    hbmPut s.part x (widen s (hbmBytes d x (4 * s.hd)) (s.length % 256 == 0) c.1 c.2) d) d) d
  bump .kvCommits (p % 4) 0 (writeCounts s (hbmPut s.part (s.desc + 8) (toLe 4 (s.length + 1)) d))

/-- The step of a ticket, or of another package on a shard here. -/
def decOf (d : Dev) (k : Nat) : DecStep := tget {} d.store.dec k

/-- The device with one sequence of a step changed. -/
def modSeq (k b : Nat) (f : SeqRun → SeqRun) : Dev → Dev :=
  onStore (fun s => { s with dec := tmod {} s.dec k (fun x => { seqs := lset x.seqs b (f (lget {} x.seqs b)) }) })

/-- DECODE_STEP runs on: once every layer of every sequence has its outputs and no program of it runs, it commits and completes
(R321, R330). -/
def decodeGoOn (t : Nat) (d : Dev) : Dev :=
  let c := cmdOf d t
  let ss := (decOf d t).seqs
  if c.st = 1 ∧ c.launched.isSome ∧ cmdInvs d t = [] ∧ ss.all (fun s => decide (s.outs.length = s.nLayers)) then
    complete t .ok (c.aux.headD 0) (ss.foldl (fun d s => commitSeq s d) d)
  else d

/-- DECODE_STEP (R319): it starts, and when all its work is done it commits. -/
def decodeStep (q t : Nat) (d : Dev) : Dev :=
  let c := cmdOf d t
  if c.st = 0 then startCmd 0x22 q t (decodeStart t) d
  else if c.q = q ∧ opcodeOf c = 0x22 ∧ ¬ frozenPart d (cmdPart d c) then decodeGoOn t d else d

/-! ## The attention units -/

/-- The key of a shard's work for another package's step. -/
def remoteKey (desc : Nat) : Nat := 2 ^ 40 + desc / 256

/-- A step loses a query or partial, or meets an uncorrectable burst (R344, R349): it completes with a status and commits nothing;
another package's work here is dropped. -/
def stepFails (k : Nat) (st : Status) (d : Dev) : Dev :=
  if 2 ^ 40 ≤ k then onStore (fun s => { s with dec := tdel s.dec k }) d else stopCmd k st d

/-- Whether a step lives on which an attention unit works. -/
def stepLive (d : Dev) (k : Nat) : Bool := !(decOf d k).seqs.isEmpty && (decide (2 ^ 40 ≤ k) || cmdLive d k)

/-- A unit attends for sequence `b` of step `k` over layer `l` (R332 to R340). -/
def attnServe (die k b l : Nat) (q : List (List Nat)) (kv : List (List Nat)) (hw : Bool) (d : Dev) : Dev :=
  let s := lget {} (decOf d k).seqs b
  if ¬ stepLive d k ∨ (decOf d k).seqs.length ≤ b ∨ s.nLayers ≤ l ∨ q.length ≠ s.nKv * s.qPer ∨ ¬ q.all (fun r => r.length == s.hd)
      ∨ (tget none s.parts (8 * l + die)).isSome
      ∨ (s.tail ∧ (kv.length ≠ s.nKv ∨ ¬ kv.all (fun r => r.length == 2 * s.hd)))
      ∨ (l ≠ 0 ∧ (tget none s.outs (l - 1)).isNone ∧ s.tail) then d
  else
    let codes := match tget none s.kv l with | some c => c | none => kv.map (tokenCodes s.fmt)
    let d := if s.tail ∧ (tget none s.kv l).isNone then writeToken s l codes (modSeq k b (fun s => { s with kv := tput none s.kv l (some codes) }) d) else d
    let d := match visitOrder s die with | p :: _ => when hw (hbmPoison (unitAddr s p l 0)) d | [] => d
    let r := attendDie s die l q d
    let d := bumpN .attnUnitsRead die 0 r.units (bumpN .attnUnitsSkipped die 0 r.skipped (bumpN .attnBytes die 0 r.bytes r.dev))
    if r.bad then stepFails k .dataError (bump .kvDataError die 0 (setFld (rAttnStatus die) 2 1 1 d))
    else
      modSeq k b (fun s =>
        let s := { s with parts := tput none s.parts (8 * l + die) (some r.parts), unitsRead := s.unitsRead + r.units, unitsSkipped := s.unitsSkipped + r.skipped }
        if die = 0 ∧ s.tail then { s with parts := tput none s.parts (8 * l + 4) (some (attendToken s codes q)) } else s) d

/-- ATTN_QUERY (R333): a unit receives the queries of a layer, from a step of this package or, over the exchange window, of another
one, whose shard here is named by its partition and descriptor. -/
def attnQuery (die : Nat) (src : AttnSrc) (l : Nat) (q : List (List Nat)) (kv : List (List Nat)) (hw : Bool) (d : Dev) : Dev :=
  match src with
  | .step t b => if (cmdOf d t).st = 1 then attnServe die t b l q kv hw d else d
  | .shard part desc =>
    let k := remoteKey desc
    if stepLive d k then attnServe die k 0 l q kv hw d
    else
      let r := seqCheck d part desc false none
      if r.1 ≠ .ok ∨ r.2.tail then d
      else attnServe die k 0 l q kv hw (onStore (fun s => { s with dec := tput {} s.dec k { seqs := [r.2] } }) (hbmCount false part desc 256 d))

/-- The partials of a layer folded in order (R335): the dies of one package. -/
def foldDies (s : SeqRun) (l : Nat) : Option (List AttnPart) :=
  (List.range 4).foldl (fun a die => match a, tget none s.parts (8 * l + die) with
    | some x, some p => some (if die = 0 then p else mergeParts x p)
    | _, _ => none) (some [])

/-- The outputs of a layer, once every shard's partials and the current token's are there (R335). -/
def layerOut (s : SeqRun) (l : Nat) : Option (List (List Nat)) :=
  let own := foldDies s l
  let others := (List.range s.nShards).filter (· != s.shard)
  match own, tget none s.parts (8 * l + 4) with
  | some p, some cur =>
    if others.all (fun i => (tget none s.far (8 * l + i)).isSome) then
      let all := (List.range s.nShards).map (fun i => if i = s.shard then p else (tget none s.far (8 * l + i)).getD [])
      let m := match all with | [] => cur | x :: xs => mergeParts (xs.foldl mergeParts x) cur
      some (m.map (partOut s.hd))
    else none
  | _, _ => none

/-- ATTN_PARTIAL_ARRIVE (R335, R344): kind 0, the partials of this package's own dies for layer `l` have reached S0; 1, the merged
partials of shard `shard` have come, one (m, l, o) per query head; 2, a query or partial was lost, with link down, a refused window
write or a data error as `shard` 0, 1 or 2; 3 and 4, the tail's step on a shard held here has completed OK or has failed. -/
def attnPartial (k b l kind shard : Nat) (ps : List (Nat × Nat × List Nat × Bool)) (d : Dev) : Dev :=
  let s := lget {} (decOf d k).seqs b
  if ¬ stepLive d k ∨ (decOf d k).seqs.length ≤ b then d
  else
    let settle (d : Dev) : Dev :=
      match layerOut (lget {} (decOf d k).seqs b) l with
      | some o => modSeq k b (fun s => { s with outs := tput none s.outs l (some o) }) d
      | none => d
    match kind with
    | 0 => if s.tail ∧ l < s.nLayers then settle d else d
    | 1 =>
      if ¬ s.tail ∨ s.nLayers ≤ l ∨ s.nShards ≤ shard ∨ shard = s.shard ∨ ps.length ≠ s.nKv * s.qPer ∨ (tget none s.far (8 * l + shard)).isSome then d
      else settle (modSeq k b (fun s => { s with
        far := tput none s.far (8 * l + shard) (some (ps.map (fun p => { m := p.1, l := p.2.1, o := padOut s.hd p.2.2.1, nan := p.2.2.2 }))) }) d)
    | 2 => stepFails k (match shard with | 0 => .linkDown | 1 => .windowFault | _ => .dataError) d
    | 3 => if 2 ^ 40 ≤ k then stepFails k .ok (writeCounts s d) else d
    | _ => if 2 ^ 40 ≤ k then stepFails k .aborted d else d
where
  /-- A list of `hd` codes. -/
  padOut (hd : Nat) (o : List Nat) : List Nat := (o ++ List.replicate hd 0).take hd

/-! ## STO_ATTN_CFG (R347, R348) -/

/-- Whether a step attends on a store die. -/
def attnBusy (d : Dev) (die : Nat) : Bool :=
  tany (fun k x => (decide (2 ^ 40 ≤ k) || cmdLive d k) && x.seqs.any (fun s => decide ((visitOrder s die) ≠ [] ∨ (s.tail ∧ (die = 0 ∨ s.length / 256 % 4 = die))))) d.store.dec

/-- The prefetch buffer in place in MiB (Table 10.8). -/
def attnBuf (d : Dev) (die : Nat) : Nat := min 128 (regFld d (rAttnCfg die) 0 8)

/-- ATTN_CFG_WRITE (R348). -/
def attnCfgWrite (die val : Nat) (d : Dev) : Dev :=
  let n := bitsOf val 0 8
  let d' := setFld (rAttnCfg die) 8 1 (bitsOf val 8 1) d
  let held := (d.parts.map (fun p => if p.2.exist then lget 0 p.2.sram die else 0)).sum
  if n = regFld d (rAttnCfg die) 0 8 then d'
  else if attnBusy d die ∨ 192 < min 128 n + held then setFld (rAttnStatus die) 1 1 1 d'
  else setFld (rAttnCfg die) 0 8 n d'

end Sys2Proof.Machine
end

