-- ==== Sys2Proof/Machine/AttnRows.lean ====
section
/-! DEFINITION. The rows of generation (10_generation). -/

namespace Sys2Proof.Machine

/-- DECODE_STEP (R319 to R331): the command of ticket `t` starts, waits or commits. -/
def execDecodeStep (q : Nat) (t : Nat) (s : State) := runIf (within [(q, 8192)]) (decodeStep q t) s
/-- ATTN_QUERY (R332 to R340). -/
def execAttnQuery (die : Nat) (src : AttnSrc) (layer : Nat) (qs : List (List Nat)) (kv : List (List Nat)) (hw : Bool) (s : State) :=
  runIf (within [(die, 4), (layer, 128)] && (match src with | .step _ b => decide (b < 16) | .shard p x => within [(p, 64), (x, 2 ^ 40)]) && (qs ++ kv).all (·.all (fun c => decide (c < 2 ^ 32)))) (attnQuery die src layer qs kv hw) s
/-- ATTN_PARTIAL_ARRIVE (R335, R344). -/
def execAttnPartialArrive (k : Nat) (b : Nat) (layer : Nat) (kind : Nat) (shard : Nat) (ps : List (Nat × Nat × List Nat × Bool)) (s : State) :=
  runIf (within [(b, 16), (layer, 128), (kind, 5), (shard, 8)] && ps.all (fun p => within [(p.1, 2 ^ 32), (p.2.1, 2 ^ 32)] && p.2.2.1.all (fun c => decide (c < 2 ^ 32)))) (attnPartial k b layer kind shard ps) s

end Sys2Proof.Machine
end

