-- ==== Sys2Proof/Machine/Epochs.lean ====
section
/-! DEFINITION. Epochs (13_model_epochs): flips, abandons, retirement, the opening of STAGING and the sweep of the rule SRAM. -/

namespace Sys2Proof.Machine

/-- The device with its epochs changed. -/
def onEp (f : Epochs → Epochs) (d : Dev) : Dev := { d with ep := f d.ep }

/-- The number after an epoch's (R397). -/
def nextEpoch (n : Nat) : Nat := if n = 2 ^ 32 - 1 then 1 else n + 1

/-- The in-flight count of the epoch with a tag (R403): frames between stamping and their enqueue, drop, hand-over or verdict
resolution; frames and copies between edge dies; requests sent to a cluster; RUN, RUN_TREES and DECODE_STEP; those of a frozen
partition have left it (R571). -/
def inFlight (d : Dev) (tag : Nat) : Nat :=
  tcount (fun _ f => f.tag == tag && f.stage != .queued) d.edge.frames
    + (d.edge.interDie.filter (fun x => x.2.2.2.epoch == epochOfTag d tag)).length
    + tcount (fun _ q => q.used && q.issued && q.tag == tag && !frozenCluster d q.cluster) d.edge.deep
    + tcount (fun _ c => c.tag == tag && !frozenPart d (cmdPart d c)) d.cmds

/-! ## Versions -/

/-- A version of a context that no epoch and no loading uses any more gives up its Peal regions (R409, R421). -/
def dropVid (c vid : Nat) (d : Dev) : Dev :=
  let x := ctxOf d c
  if vid = 0 ∨ x.versions.any (fun e => e.2.vid == vid) ∨ x.work.vid = vid then d
  else onComp (fun g => { g with
    cores := tmap {} (fun _ k => { k with pregs := k.pregs.filter (fun r => !(r.ctx == c && r.vid == vid)) }) g.cores
    clusters := tmap {} (fun _ k => { k with reload := k.reload.erase vid }) g.clusters }) d

/-- The device with a context changed. -/
def modCtx (c : Nat) (f : Context → Context) (d : Dev) : Dev := { d with ctxs := tmod {} d.ctxs c f }

/-- The version of a context for a tag is replaced by `v`; the one it had is freed unless shared (R421). -/
def setVersion (c tag : Nat) (v : CtxVersion) (d : Dev) : Dev :=
  let old := (ctxVer d c tag).vid
  dropVid c old (modCtx c (fun x => { x with versions := tput {} x.versions tag v }) d)

/-- Every context loses its version for a tag. -/
def dropVersions (tag : Nat) (d : Dev) : Dev := (d.ctxs.map (·.1)).foldl (fun d c => setVersion c tag {} d) d

/-- Whether a burst lies in the region of a CACHEABLE table version that some epoch still names. -/
def burstNamed (vs : Tab TabVer) (a : Nat) : Bool :=
  vs.any (fun e => e.2.kind == 1 && e.2.cacheable && decide (e.2.base < a + 64 ∧ a < e.2.base + e.2.rowLen * e.2.nRows))

/-- Table versions of a tag are freed, and gather-cache lines that no version names are invalidated (R383, R409). -/
def dropTables (tag : Nat) (d : Dev) : Dev :=
  let vs := d.tabVers.filter (fun e => e.1 % 4 != tag)
  onStore (fun s => { s with gcache := tmap [] (fun _ t => t.filter (fun e => burstNamed vs e.1)) s.gcache }) { d with tabVers := vs }

/-- The parser banks and edge Peal banks of a tag are freed (R409). -/
def dropBanks (tag : Nat) : Dev → Dev :=
  onEdge (fun e => { e with banks := e.banks.filter (fun x => x.1 % 3 != tag), peal := e.peal.filter (fun x => x.1 % 3 != tag) })

/-- The numbers of the live epochs. -/
def liveEpochs (d : Dev) : List Nat := d.ep.cur :: (d.ep.stage.toList ++ d.ep.drain.toList).map (·.1)

/-- Keyed entries visible in no live epoch are freed (R409). -/
def sweepKeyed (d : Dev) : Dev :=
  { d with keyed := d.keyed.filter (fun e => (liveEpochs d).any (visible e.birth e.death e.opn)) }

/-- A new STAGING epoch opens with the content of CURRENT (R397, R400): the tables and contexts share CURRENT's versions, the
parser and edge Peal banks are copied. -/
def openStaging (d : Dev) : Dev :=
  let c := d.ep.curTag
  let t := (c + 1) % 3
  let d := onEp (fun e => { e with stage := some (nextEpoch e.cur, t) }) d
  let d := onEdge (fun e => { e with
    banks := (List.range 4).foldl (fun b i => tput {} b (3 * i + t) (tget {} b (3 * i + c))) e.banks
    peal := (List.range 4).foldl (fun b i => tput [] b (3 * i + t) (tget [] b (3 * i + c))) e.peal }) d
  let d := { d with tabVers := d.tabVers.foldl (fun (v : Tab TabVer) (e : Nat × TabVer) => if e.1 % 4 = c then tput {} v (e.1 - c + t) e.2 else v) d.tabVers }
  { d with ctxs := tmap {} (fun _ x => { x with versions := tput {} x.versions t (tget {} x.versions c) }) d.ctxs }

/-! ## Flips and abandons -/

/-- The limit of a hold in ns (R405, Table 13.10). -/
def holdLimitNs (d : Dev) : Nat := max 1 (min (regFld d rEpochCfg 0 10) 1000) * 1000000

/-- FLIP_EPOCH or ABANDON, its own refusals past, reaches the arbiter and begins its hold (R404, R405, R547). -/
def startHold (t : Nat) (abandon : Bool) (d : Dev) : Dev :=
  let d := maintAsk { act := if abandon then 0x101 else 0x100, obj := 0xFFFF, src := 3, tkt := t, limit := beat d + holdLimitNs d } d
  let d := onEp (fun e => { e with flip := some { tkt := t, abandon, since := beat d, held := maintGranted d t } }) d
  modCmd t (fun c => { c with st := 1 }) d

/-- A refused FLIP_EPOCH is counted by its status (R433). -/
def refuseFlip (t : Nat) (st : Status) (d : Dev) : Dev := complete t st 0 (bump .flipRefused st.code 0 d)

/-- FLIP_EPOCH (R404): the refusals in their order, then the hold. -/
def flipEpoch (t : Nat) (c : Cmd) (d : Dev) : Dev :=
  match d.ep.stage with
  | none => refuseFlip t .epochBusy d
  | some (n, _) =>
    if d.ep.drain.isSome ∨ d.ep.flip.isSome ∨ d.ep.opening.isSome then refuseFlip t .epochBusy d
    else if cmdFld c 12 4 ≠ 0 ∧ cmdFld c 12 4 ≠ n then refuseFlip t .epochStale d
    else startHold t false d

/-- Whether a command is a bulk operation that has begun and not committed (Table 13.4). -/
def isBulk (c : Cmd) : Bool := c.st == 1 && (opcodeOf c == 0x10 || opcodeOf c == 0x11)

/-- A LOAD_IMAGE or TRAIN_STEP that ends without a commit gives up what it prepared. -/
def dropWork (c : Cmd) (d : Dev) : Dev :=
  if opcodeOf c = 0x10 ∨ opcodeOf c = 0x23 then
    let n := cmdFld c 8 2
    let vid := (ctxOf d n).work.vid
    dropVid n vid (modCtx n (fun x => { x with work := {} }) d)
  else d

/-- Bulk operations that have not committed complete with EPOCH_STALE and are counted (R408, R413, R433). -/
def staleBulk (d : Dev) : Dev :=
  (d.cmds.filter (fun e => isBulk e.2)).foldl (fun d e => complete e.1 .epochStale 0 (bump .stagingStale 0 0 (dropWork e.2 d))) d

/-- A TRAIN_STEP that ends without a commit gives up its request at the arbiter and its work; one whose commit is cut short leaves
a torn version, which is removed from STAGING: the context stands there again as CURRENT has it (R370). -/
def trainGiveUp (t : Nat) (d : Dev) : Dev :=
  let c := cmdOf d t
  if opcodeOf c ≠ 0x23 then d
  else
    let d := dropWork c (maintEnd t d)
    match d.ep.stage with
    | some (_, tag) =>
      if c.st = 4 then bump .trainTorn (cmdPart d c) 0 (setVersion (cmdFld c 8 2) tag (ctxVer d (cmdFld c 8 2) d.ep.curTag) d) else d
    | none => d

/-- A TRAIN_STEP that waits at the arbiter or commits is stopped with a status. -/
def trainStop (t : Nat) (st : Status) (d : Dev) : Dev := stopCmd t st (trainGiveUp t d)

/-- The TRAIN_STEPs begun on contexts that are bound to a cluster. -/
def trainsOn (d : Dev) (cl : Nat) : List Nat :=
  (d.cmds.filter (fun e => opcodeOf e.2 == 0x23 && decide (1 ≤ e.2.st) && (ctxOf d (cmdFld e.2 8 2)).clusters.contains cl)).map (·.1)

/-- Whether a TRAIN_STEP is in its commit phase (R357). -/
def trainCommitting (d : Dev) : Bool := d.cmds.any (fun e => opcodeOf e.2 == 0x23 && e.2.st == 4)

/-- COMMAND_DEADLINE (R453): the deadline of a command has passed; a TRAIN_STEP in its commit goes on. -/
def commandDeadline (q t : Nat) (d : Dev) : Dev :=
  let c := cmdOf d t
  if c.q ≠ q ∨ ¬ cmdLive d t ∨ ¬ cmdLate d c then d
  else if opcodeOf c = 0x23 then (if c.st ≤ 3 then trainStop t .deadlineMissed d else d)
  else if c.st ≤ 1 then stopCmd t .deadlineMissed d
  else d

/-- TRAIN_STEPs on the STAGING epoch end with EPOCH_STALE when it is abandoned (R369, R413). -/
def staleTrain (d : Dev) : Dev :=
  (d.cmds.filter (fun e => opcodeOf e.2 == 0x23 && decide (1 ≤ e.2.st))).foldl (fun d e =>
    trainStop e.1 .epochStale (bump .stagingStale 0 0 d)) d

/-- The switch begins at the hub (R406, R407): STAGING is CURRENT, CURRENT is DRAINING. -/
def beginSwitch (n t : Nat) (d : Dev) : Dev :=
  bump .epochFlips 0 0 (onEp (fun e => { e with
    cur := n, curTag := t, drain := some (e.cur, e.curTag), drainReady := false, stage := none
    flip := e.flip.map (fun f => { f with switching := true, dies := 0 }) }) d)

/-- STAGING is discarded (R413): its versions, table slots and keyed entries go back to CURRENT's, its banks are freed, and the
sweep of the rule SRAMs begins; a new STAGING opens after it. -/
def discardStaging (n t tkt : Nat) (d : Dev) : Dev :=
  let b := n % 256
  let d := onEp (fun e => { e with stage := none, flip := none, opening := some tkt }) (maintEnd tkt d)
  let d := dropBanks t (dropTables t (dropVersions t d))
  let d := { d with keyed := (d.keyed.filter (fun e => e.birth != b)).map (fun e => if !e.opn && e.death == b then { e with death := 0, opn := true } else e) }
  bump .abandons 0 0 (onEdge (fun e => { e with sweepBusy := (List.range 4).foldl (fun s i => tput false s i true) e.sweepBusy }) d)

/-- EPOCH_HOLD_END (R405, R406, R408, R413): nothing holds a flip or abandon any more. -/
def epochHoldEnd (d : Dev) : Dev :=
  match d.ep.flip, d.ep.stage with
  | some f, some (n, t) =>
    if ¬ f.held ∨ f.switching ∨ trainCommitting d then d
    else if f.abandon then discardStaging n t f.tkt (staleBulk (staleTrain d))
    else beginSwitch n t (staleBulk d)
  | _, _ => d

/-- EPOCH_HOLD_TIMEOUT (R404, R405, R413, R548): the hold, with the wait at the arbiter, has exceeded flip_hold_ms. -/
def epochHoldTimeout (d : Dev) : Dev :=
  match d.ep.flip with
  | some f =>
    if f.switching ∨ beat d < f.since + holdLimitNs d then d
    else
      let st : Status := if f.held then .epochBusy else .maintBusy
      let d := when (!f.held) (maintRefused { act := if f.abandon then 0x101 else 0x100, obj := 0xFFFF, src := 3 }) d
      let d := onEp (fun e => { e with flip := none }) (maintEnd f.tkt d)
      if f.abandon then complete f.tkt st 0 d else refuseFlip f.tkt st d
  | none => d

/-- EPOCH_SWITCH (R406): the switch flits reach an edge die and its pipelines stamp the new tag. -/
def epochSwitch (die : Nat) (d : Dev) : Dev :=
  onEp (fun e => { e with flip := e.flip.map (fun f => if f.switching then { f with dies := setBits f.dies die 1 1 } else f) }) d

/-- EPOCH_SWITCH_ACK (R406, R409): all four edge dies have switched and acknowledged; FLIP_EPOCH completes with the number. -/
def epochSwitchAck (d : Dev) : Dev :=
  match d.ep.flip with
  | some f =>
    if f.switching ∧ f.dies = 15 then
      complete f.tkt .ok d.ep.cur (onEp (fun e => { e with flip := none, drainReady := true }) (maintEnd f.tkt d))
    else d
  | none => d

/-! ## Retirement -/

/-- Every waiting RETIRE_EPOCH of op WAIT or FORCE completes: no DRAINING epoch exists (R410). -/
def settleRetire (d : Dev) : Dev :=
  (d.cmds.filter (fun e => opcodeOf e.2 == 0x13 && e.2.st == 1 && cmdFld e.2 24 1 != 2)).foldl (fun d e => complete e.1 .ok 0 d) d

/-- EPOCH_RETIRE (R409): DRAINING, its switch complete and nothing of it in flight, is retired and a new STAGING opens. -/
def epochRetire (d : Dev) : Dev :=
  match d.ep.drain with
  | some (_, t) =>
    if ¬ d.ep.drainReady ∨ inFlight d t ≠ 0 then d
    else
      let d := onEp (fun e => { e with drain := none, drainReady := false, retiring := true }) d
      let d := dropBanks t (dropTables t (dropVersions t d))
      let d := onEdge (fun e => { e with sweepBusy := (List.range 4).foldl (fun s i => tput false s i true) e.sweepBusy }) d
      settleRetire (sweepKeyed (openStaging d))
  | none => d

/-- RULE_SWEEP_DONE (R90): the sweep of a die ends: after an abandoned epoch its births are freed and its deaths reopened; every
slot visible in no live epoch is freed. -/
def ruleSweepDone (die : Nat) (d : Dev) : Dev :=
  if ¬ tget false d.edge.sweepBusy die then d
  else
    let d := if d.ep.opening.isSome then sweepAbandon die (nextEpoch d.ep.cur) d else d
    let d := sweepRetire die (liveEpochs d) d
    let d := onEdge (fun e => { e with sweepBusy := tput false e.sweepBusy die false }) d
    if d.edge.sweepBusy.isEmpty then onEp (fun e => { e with retiring := false }) d else d

/-- STAGING_OPEN (R413): after the sweep of an abandoned STAGING a new one opens with the same number and tag, and ABANDON
completes. -/
def stagingOpen (d : Dev) : Dev :=
  match d.ep.opening with
  | some t =>
    if ¬ d.edge.sweepBusy.isEmpty then d
    else complete t .ok 0 (onEp (fun e => { e with opening := none }) (openStaging d))
  | none => d

/-- Whether the epoch field of a RETIRE_EPOCH names neither 0 nor the epoch it may name (R410, order 3). -/
def retireStale (c : Cmd) (e : Option (Nat × Nat)) : Bool :=
  cmdFld c 12 4 != 0 && (match e with | some (n, _) => cmdFld c 12 4 != n | none => true)

/-- RETIRE_WAIT (R410): completes once no DRAINING epoch exists. -/
def retireWait (t : Nat) (c : Cmd) (d : Dev) : Dev :=
  if cmdFld c 24 1 ≠ 0 then d
  else if retireStale c d.ep.drain then complete t .epochStale 0 d
  else if d.ep.drain.isNone then complete t .ok 0 d
  else modCmd t (fun c => { c with st := 1, aux := [beat d] }) d

/-- RETIRE_WAIT_TIMEOUT (R410): timeout_us passes first; the result holds the in-flight count. -/
def retireWaitTimeout (q t : Nat) (d : Dev) : Dev :=
  let c := cmdOf d t
  let us := cmdFld c 28 4
  match d.ep.drain with
  | some (_, tag) =>
    if c.q = q ∧ opcodeOf c = 0x13 ∧ cmdFld c 24 1 = 0 ∧ c.st = 1 ∧ us ≠ 0 ∧ c.aux.headD 0 + us * 1000 ≤ beat d then
      complete t .epochBusy (inFlight d tag) d
    else d
  | none => d

/-- FORCE ends DRAINING's work (R412): its commands complete with ABORTED, and its requests' invocations stop with ABORTED. -/
def forceDrain (tag : Nat) (d : Dev) : Dev :=
  let d := (d.cmds.filter (fun e => e.2.tag == tag)).foldl (fun d e => stopCmd e.1 .aborted d) d
  (d.comp.invs.filter (fun e => e.2.tag == tag && (match e.2.serve with | .req _ _ => true | _ => false))).foldl
    (fun d e => endInv e.1 .aborted d) d

/-- RETIRE_FORCE (R410, R412). -/
def retireForce (t : Nat) (c : Cmd) (d : Dev) : Dev :=
  if cmdFld c 24 1 ≠ 1 then d
  else if retireStale c d.ep.drain then complete t .epochStale 0 d
  else match d.ep.drain with
    | none => complete t .ok 0 d
    | some (_, tag) => modCmd t (fun c => { c with st := 1, aux := [beat d] }) (bump .retireForced 0 0 (forceDrain tag d))

/-- RETIRE_ABANDON (R410, R413). -/
def retireAbandon (t : Nat) (c : Cmd) (d : Dev) : Dev :=
  if cmdFld c 24 1 ≠ 2 then d
  else if d.ep.stage.isNone ∨ d.ep.flip.isSome ∨ d.ep.opening.isSome then complete t .epochBusy 0 d
  else if retireStale c d.ep.stage then complete t .epochStale 0 d
  else startHold t true d

end Sys2Proof.Machine
end

