-- ==== Sys2Proof/Machine/Tables.lean ====
section
/-! DEFINITION. RULE_WRITE and RULE_DELETE (R92, R93), and LOAD_TABLE (R414 to R418) with the checks of a parser bank (R67,
R302). -/

namespace Sys2Proof.Machine

/-! ## Rule records -/

/-- A little-endian field of a byte list. -/
def fldOf (b : List Byte) (off n : Nat) : Nat := leNat ((b.drop off).take n)

/-- Whether bytes [a, b) of a byte list are zero. -/
def zeroIn (l : List Byte) (a b : Nat) : Bool := ((l.drop a).take (b - a)).all (· == 0)

/-- Whether an action word lies in the ranges of Table 3.3; `rule` tells a RULE record, whose rule_cause is checked where it is
used. -/
def actionOk (a : Nat) (rule : Bool) : Bool :=
  let slow := bitsOf a 0 2 == 2 || bitsOf a 20 2 == 2
  bitsOf a 0 2 != 3 && bitsOf a 20 2 != 3 && bitsOf a 60 4 == 0 && bitsOf a 192 64 == 0
    && (!(rule && slow) || decide (0x20 ≤ bitsOf a 96 8 ∧ bitsOf a 96 8 ≤ 0x3F))

/-- Whether the configuration area of a METER or MIRROR record lies in its ranges (Table 3.5). -/
def configOk (r : List Byte) (kind : Nat) (del : Bool) : Bool :=
  let f := fldOf r
  if kind = 2 then
    decide (1 ≤ f 16 2 ∧ f 16 2 ≤ 4095)
      && (if del then zeroIn r 18 80
          else decide (f 18 1 ≤ 1 ∧ f 19 1 ≤ 1 ∧ f 20 1 ≤ 15) && zeroIn r 21 24 && decide (1 ≤ f 32 4 ∧ f 32 4 ≤ 16777216) && zeroIn r 36 80)
  else
    decide (1 ≤ f 16 1 ∧ f 16 1 ≤ 63)
      && (if del then zeroIn r 17 80
          else decide (f 17 1 ≤ 1) && !bitOf (f 18 1) 7 && decide (f 19 1 ≤ 15)
            && (f 20 2 == 0 || decide (64 ≤ f 20 2 ∧ f 20 2 ≤ 9216)) && zeroIn r 22 80)

/-- Whether every field and reserved byte of a record is right (R92, R93). -/
def recordOk (r : List Byte) (del : Bool) : Bool :=
  let f := fldOf r
  let kind := f 0 1
  decide (kind ≤ 3) && f 1 1 / 16 != 0 && decide (f 3 1 < 8) && zeroIn r 4 16 && zeroIn r 112 128
    && (match kind with
        | 0 => decide (1 ≤ f 2 1 ∧ f 2 1 ≤ 64) && zeroIn r (16 + f 2 1) 80 && (del || actionOk (f 80 32) true)
        | 1 => del || actionOk (f 80 32) false
        | k => configOk r k del)

/-- The failures of a record that depend on no edge die (R92). -/
def recordRefused (d : Dev) (c : Cmd) (r : List Byte) (del : Bool) : Option Status :=
  if ¬ recordOk r del then some .invalidField
  else if 2 ≤ fldOf r 0 1 ∧ cmdFn c % 64 ≠ 0 then some .accessDenied
  else if fldOf r 0 1 < 2 ∧ ¬ bitOf (fldOf r 3 1) 0 ∧ d.ep.stage.isNone then some .epochStale
  else none

/-- Whether a table's miss entry has a version visible where a record looks (R88, R91). -/
def missSeen (d : Dev) (die table : Nat) (live : Bool) : Bool :=
  (missOf d die table).any (fun m => visible m.birth m.death m.opn (if live then d.ep.cur else nextEpoch d.ep.cur))

/-- One record applied on one edge die (R88, R91, R98). -/
def recordApply (part : Nat) (r : List Byte) (del : Bool) (die : Nat) (d : Dev) : Status × Dev :=
  let f := fldOf r
  let table := f 1 1 % 16
  let fl := f 3 1
  let live := bitOf fl 0
  let st := nextEpoch d.ep.cur
  let key := (r.drop 16).take (f 2 1)
  match f 0 1 with
  | 0 =>
    if tableOwner d die table ≠ some part then (.accessDenied, d)
    else if del then (.ok, deleteRule die table key st d.ep.cur live d)
    else match writeRule die table key (f 80 32) st d.ep.cur live (bitOf fl 1) (bitOf fl 2) d with
      | .ok d' => (.ok, d')
      | .noSpace => (.noSpace, d)
  | 1 =>
    if tableOwner d die table ≠ some part then (.accessDenied, d)
    else if del then (.ok, setMiss die table (deleteMiss (missOf d die table) st d.ep.cur live) d)
    else if (bitOf fl 1 ∧ ¬ missSeen d die table live) ∨ (bitOf fl 2 ∧ missSeen d die table live) then (.noSpace, d)
    else (.ok, setMiss die table (writeMiss (missOf d die table) (f 80 32) st d.ep.cur live) d)
  | 2 =>
    if del then (.ok, onEdge (fun e => { e with meters := tput {} e.meters (4096 * die + f 16 2) {} }) d)
    else (.ok, configMeter die (f 16 2) (f 18 1) (f 19 1) (f 20 1) (f 24 8) (f 32 4) d)
  | _ =>
    let m : Mirror := if del then {} else { configured := true, dest := f 17 1, port := f 18 1 % 128, queue := f 19 1, trunc := f 20 2 }
    (.ok, onEdge (fun e => { e with mirrors := tput {} e.mirrors (64 * die + f 16 1) m }) d)

/-- A record on its edge dies in ascending order, up to the first failure: the failing die. -/
def recordDies (part : Nat) (r : List Byte) (del : Bool) : List Nat → Dev → Option (Nat × Status) × Dev
  | [], d => (none, d)
  | die :: rest, d =>
    match recordApply part r del die d with
    | (.ok, d') => recordDies part r del rest d'
    | (st, d') => (some (die, st), d')

/-- The records of a buffer in order, up to the first failure: its status, index and die (R92). -/
def applyRecords (c : Cmd) (part : Nat) (del : Bool) : List Nat → Dev → Status × Nat × Dev
  | [], d => (.ok, 0, d)
  | k :: rest, d =>
    let r := ruleRecord d c k
    let d := pcieRead (cmdFn c) 128 d
    let dies := (List.range 4).filter (bitOf (fldOf r 1 1 / 16))
    match recordRefused d c r del with
    | some st => (st, k + dies.headD 0 * 65536, d)
    | none =>
      match recordDies part r del dies d with
      | (none, d') => applyRecords c part del rest d'
      | (some (die, st), d') => (st, k + die * 65536, d')

/-- RULE_WRITE and RULE_DELETE (R92, R401, R443): the buffer must lie in the DMA window table, a non-zero epoch field of a
staging command must name STAGING. -/
def ruleCmd (del : Bool) (t : Nat) (c : Cmd) (d : Dev) : Dev :=
  let n := cmdFld c 28 4
  if ¬ dmaOk d (cmdFn c) (cmdFld c 32 8) (128 * n) false then complete t .accessDenied 0 d
  else if isStaging d c ∧ retireStale c d.ep.stage then complete t .epochStale 0 d
  else
    let x := applyRecords c (cmdPart d c) del (List.range n) d
    complete t x.1 x.2.1 x.2.2

/-! ## Parser banks -/

/-- The row of a bank's instruction, for parser 0. -/
def claveInstr : ClaveOp → Instr
  | .ldb gd off => .claveLdb 0 gd off
  | .ldh gd off => .claveLdh 0 gd off
  | .ldw gd off => .claveLdw 0 gd off
  | .ldbf gd off pos len => .claveLdbf 0 gd off pos len
  | .adv imm => .claveAdv 0 imm
  | .advr gs sh => .claveAdvr 0 gs sh
  | .setc gs => .claveSetc 0 gs
  | .getc gd => .claveGetc 0 gd
  | .movi gd imm => .claveMovi 0 gd imm
  | .movhi gd imm => .claveMovhi 0 gd imm
  | .mov gd gs => .claveMov 0 gd gs
  | .add gd ga gb => .claveAdd 0 gd ga gb
  | .sub gd ga gb => .claveSub 0 gd ga gb
  | .addi gd gs imm => .claveAddi 0 gd gs imm
  | .and gd ga gb => .claveAnd 0 gd ga gb
  | .or gd ga gb => .claveOr 0 gd ga gb
  | .xor gd ga gb => .claveXor 0 gd ga gb
  | .andi gd gs imm => .claveAndi 0 gd gs imm
  | .ori gd gs imm => .claveOri 0 gd gs imm
  | .shl gd gs imm5 => .claveShl 0 gd gs imm5
  | .shr gd gs imm5 => .claveShr 0 gd gs imm5
  | .beq gs imm target => .claveBeq 0 gs imm target
  | .bne gs imm target => .claveBne 0 gs imm target
  | .blt gs imm target => .claveBlt 0 gs imm target
  | .bge gs imm target => .claveBge 0 gs imm target
  | .beqr ga gb target => .claveBeqr 0 ga gb target
  | .bner ga gb target => .claveBner 0 ga gb target
  | .jmp target => .claveJmp 0 target
  | .switch gs targets => .claveSwitch 0 gs targets
  | .call target => .claveCall 0 target
  | .ret => .claveRet 0
  | .hdr type => .claveHdr 0 type
  | .keyb gs bits => .claveKeyb 0 gs bits
  | .keyf off len => .claveKeyf 0 off len
  | .fld fn gs => .claveFld 0 fn gs
  | .fldp fn off len => .claveFldp 0 fn off len
  | .crc gd off len => .claveCrc 0 gd off len
  | .csum gd off len => .claveCsum 0 gd off len
  | .tbl gd gs t => .claveTbl 0 gd gs t
  | .enc fn gs e => .claveEnc 0 fn gs e
  | .metaSel gd sel => .claveMeta 0 gd sel
  | .setm sel gs => .claveSetm 0 sel gs
  | .done => .claveDone 0
  | .fail code => .claveFail 0 code
  | .slow code => .claveSlow 0 code
  | .nop => .claveNop 0

/-- The targets of a Clave instruction. -/
def claveTargets : ClaveOp → List Nat
  | .beq _ _ t => [t]
  | .bne _ _ t => [t]
  | .blt _ _ t => [t]
  | .bge _ _ t => [t]
  | .beqr _ _ t => [t]
  | .bner _ _ t => [t]
  | .jmp t => [t]
  | .switch _ ts => ts
  | .call t => [t]
  | _ => []

/-- The encoding table that an instruction names. -/
def claveEncOf : ClaveOp → Option Nat
  | .enc _ _ e => some e
  | _ => none

/-- Entry e of the directory of an encoding area (R300): none where absent. -/
def encOffset (a : List Byte) (e : Nat) : Option Nat := if fldOf a (4 * e) 4 = m32 then none else some (fldOf a (4 * e) 4)

/-- The bytes that an encoding table at an offset occupies. -/
def encSize (a : List Byte) (o : Nat) : Nat := 8 + (if fldOf a o 1 = 3 then 8 else 4) * fldOf a (o + 2) 2

/-- The entries of an encoding table: cut points with 0, or keys with their codes. -/
def encEntries (a : List Byte) (o : Nat) : List (Nat × Nat) :=
  (List.range (fldOf a (o + 2) 2)).map (fun i =>
    if fldOf a o 1 = 3 then (fldOf a (o + 8 + 8 * i) 4, fldOf a (o + 12 + 8 * i) 2) else (fldOf a (o + 8 + 4 * i) 4, 0))

/-- Whether a list of 32-bit keys ascends strictly in the order of an encoding kind (R300, R301). -/
def ascends (kind : Nat) : List Nat → Bool
  | x :: y :: rest => cutBelow (if kind = 3 then 0 else kind) x y && ascends kind (y :: rest)
  | _ => true

/-- Whether an encoding table meets Table 9.4 and R302. -/
def encOk (a : List Byte) (o : Nat) : Bool :=
  let kind := fldOf a o 1
  let n := fldOf a (o + 2) 2
  let xs := encEntries a o
  decide (kind ≤ 3) && fldOf a (o + 1) 1 == 0 && decide (1 ≤ n ∧ n ≤ 4096) && (kind == 2 || fldOf a (o + 6) 2 == 0)
    && ascends kind (xs.map (·.1))
    && (if kind = 3 then (List.range n).all (fun i => fldOf a (o + 14 + 8 * i) 2 == 0)
        else decide (fldOf a (o + 4) 2 + n ≤ 0xFFFF) && (kind != 2 || xs.all (fun x => fmtVal 15 x.1 0 != .nan)))
    && decide (o + encSize a o ≤ 262144)

/-- The tables of an encoding area with their offsets. -/
def encTables (a : List Byte) : List (Nat × Nat) := (List.range 256).filterMap (fun e => (encOffset a e).map (fun o => (e, o)))

/-- Whether an encoding area meets R302. An area that was not delivered holds no table (R65). -/
def encAreaOk (a : List Byte) : Bool :=
  a.isEmpty || (let ts := encTables a
    ts.all (fun x => x.2 % 8 == 0 && decide (1024 ≤ x.2) && encOk a x.2)
      && ts.all (fun x => ts.all (fun y => x.1 == y.1 || decide (x.2 + encSize a x.2 ≤ y.2 ∨ y.2 + encSize a y.2 ≤ x.2))))

/-- The encoding tables of an area as the parsers use them. -/
def encParse (a : List Byte) : Tab EncTable :=
  if a.isEmpty then []
  else (encTables a).foldl (fun t x => tput {} t x.1
    { kind := fldOf a x.2 1, base := fldOf a (x.2 + 4) 2, missing := fldOf a (x.2 + 6) 2, entries := encEntries a x.2 }) []

/-- Whether a header-edit operation lies in the ranges of Table 3.4. -/
def editOpOk : EditOp → Bool
  | .set h off len const => decide (h ≤ 11 ∧ 1 ≤ len ∧ len ≤ 8 ∧ off < 9216) && (match const with | some c => c.length == 16 | none => true)
  | .push h len const => decide (h ≤ 11 ∧ 1 ≤ len ∧ len ≤ 32 ∧ len ≤ const.length)
  | .pop h len => decide (h ≤ 11 ∧ 1 ≤ len ∧ len ≤ 32)
  | .decTtl h => decide (h ≤ 11)
  | .csum h => decide (h ≤ 11)

/-- Whether a list of numbers does not descend. -/
def nonDescending : List Nat → Bool
  | x :: y :: rest => decide (x ≤ y) && nonDescending (y :: rest)
  | _ => true

/-- Whether a flow profile lies in the ranges of Table 3.7 (R67). -/
def profileOk (p : FlowProfile) : Bool :=
  if p.valid then
    decide (p.keyMask < 2 ^ 64 ∧ p.gen ≤ 15 ∧ 1 ≤ p.k ∧ p.k ≤ 8 ∧ 1 ≤ p.idleTimeout ∧ p.idleTimeout ≤ 600)
      && p.edges.length == 7 && p.edges.all (· < 65536) && nonDescending p.edges
      && p.flagA.all (· < 64) && p.flagB.all (· < 64)
  else decide (p = {})

/-- Whether the check of a delivered bank passes (R67): the first status that refuses it. -/
def bankRefused (b : BankImage) : Option Status :=
  let encs := encTables b.encArea
  if b.prog.all (fun o => wellFormed (claveInstr o) && (claveTargets o).all (· < 16384)
        && (claveEncOf o).all (fun e => !b.encArea.isEmpty && encs.any (fun x => x.1 == e)))
      && b.consts.all (fun x => decide (x.1 < 16 ∧ x.2.1 < 256))
      && b.edits.all (fun x => decide (1 ≤ x.1 ∧ x.1 ≤ 4095 ∧ 1 ≤ x.2.length ∧ x.2.length ≤ 8) && x.2.all editOpOk)
      && b.profiles.all (fun x => decide (x.1 < 8) && profileOk x.2)
      && encAreaOk b.encArea then
    if 16384 < b.prog.length ∨ 262144 < b.encArea.length then some .tooLarge else none
  else some .invalidField

/-- The bank that a delivered image makes (R65). -/
def bankOfImage (b : BankImage) : ParserBank where
  prog := b.prog.map claveInstr
  consts := b.consts.foldl (fun t x => tput 0 t (256 * x.1 + x.2.1) x.2.2) []
  encs := encParse b.encArea
  edits := b.edits.foldl (fun t x => tput [] t x.1 x.2) []
  profiles := b.profiles.foldl (fun t x => tput {} t x.1 x.2) []

/-! ## LOAD_TABLE -/

/-- The source bytes of a staging command: host memory or HBM of the partition. -/
def sourceBytes (d : Dev) (c : Cmd) (hbm : Bool) (a n : Nat) : HbmRes (List Byte) :=
  if hbm then hbmRead d (cmdPart d c) a n
  else if dmaOk d (cmdFn c) a n false then .ok (hostRead d (cmdFn c / 64) a n) else .denied

/-- The source of a staging command counted as read. -/
def sourceCount (c : Cmd) (hbm : Bool) (a n : Nat) (d : Dev) : Dev :=
  if hbm then hbmCount false (cmdPart d c) a n d else pcieRead (cmdFn c) n d

/-- A partition's slots over its store-SRAM quota of 32-byte entries (R384, R418). -/
def sramEntries (d : Dev) (p : Nat) : Nat := (partOf d p).sram.sum * 32768

/-- One record of a KEYED load (R418), with birth S. -/
def keyedRecord (p slot st : Nat) (r : List Byte) (d : Dev) : Option Status × Dev :=
  let len := fldOf r 0 1
  if len = 0 ∨ 16 < len ∨ ¬ zeroIn r 1 16 ∨ ¬ zeroIn r (16 + len) 32 then (some .invalidField, d)
  else
    let key := (r.drop 16).take len
    let seen (e : KeyedEntry) : Bool := e.part == p && e.slot == slot && e.key == key && visible e.birth e.death e.opn st
    let new : KeyedEntry := { part := p, slot, key, value := (r.drop 32).take 16, birth := st % 256, opn := true }
    let kept := d.keyed.map (fun e => if seen e ∧ e.birth = st % 256 then { e with value := new.value, poison := false } else e)
    if d.keyed.any (fun e => seen e && e.birth == st % 256) then (none, { d with keyed := kept })
    else if sramEntries d p ≤ (d.keyed.filter (fun e => e.part == p)).length then (some .noSpace, d)
    else (none, { d with keyed := (d.keyed.map (fun e => if seen e then { e with death := st % 256, opn := false } else e)) ++ [new] })

/-- The records of a KEYED load in order, up to the first failure. -/
def keyedLoad (p slot st : Nat) (bs : List Byte) : Nat → Dev → Option Status × Dev
  | 0, d => (none, d)
  | n + 1, d =>
    match keyedLoad p slot st bs n d with
    | (none, d') => keyedRecord p slot st ((bs.drop (48 * n)).take 48) d'
    | r => r

/-- Entries of a slot whose keys pass `gone` leave the STAGING epoch: death S, or removed where they were born in it. -/
def keyedDrop (p slot st : Nat) (gone : List Byte → Bool) (d : Dev) : Dev :=
  let hit (e : KeyedEntry) : Bool := e.part == p && e.slot == slot && gone e.key && visible e.birth e.death e.opn st
  { d with keyed := (d.keyed.filter (fun e => !(hit e && e.birth == st % 256))).map (fun e =>
      if hit e then { e with death := st % 256, opn := false } else e) }

/-- A version of a table slot is put in place for a tag. -/
def setTabVer (p slot tag : Nat) (v : TabVer) (d : Dev) : Dev := { d with tabVers := tput {} d.tabVers ((256 * p + slot) * 4 + tag) v }

/-- Whether a region overlaps one that a CURRENT or DRAINING version of a slot of the partition names (R417). -/
def regionLive (d : Dev) (p a n : Nat) : Bool :=
  d.tabVers.any (fun e => e.1 / 1024 == p && e.2.kind == 1
    && (e.1 % 4 == d.ep.curTag || (match d.ep.drain with | some (_, t) => e.1 % 4 == t | none => false))
    && decide (a < e.2.base + e.2.rowLen * e.2.nRows ∧ e.2.base < a + n))

/-- LOAD_TABLE (R414 to R418, R65, R67): a parser bank and a keyed table whole; an indexed table's data, which BULK_COMMIT makes
visible. -/
def loadTable (t : Nat) (bank : BankImage) (c : Cmd) (d : Dev) : Dev :=
  let f := cmdFld c
  let p := cmdPart d c
  let kind := f 24 1
  let slot := f 28 2
  match d.ep.stage with
  | none => complete t .epochStale 0 d
  | some (n, tag) =>
    if retireStale c d.ep.stage then complete t .epochStale 0 d
    else match sourceBytes d c (f 25 1 == 1) (f 32 8) (f 40 8) with
      | .denied => complete t .accessDenied 0 d
      | .bad => complete t .dataError 0 d
      | .ok bs =>
        let d := sourceCount c (f 25 1 == 1) (f 32 8) (f 40 8) d
        match kind with
        | 0 =>
          match bankRefused bank with
          | some st => complete t st 0 d
          | none =>
            let dies := (List.range 4).filter (bitOf (f 27 1))
            complete t .ok 0 (onEdge (fun e => { e with banks := dies.foldl (fun b i => tput {} b (3 * i + tag) (bankOfImage bank)) e.banks }) d)
        | 1 =>
          let len := max (f 40 8) (f 30 2 * f 56 4)
          if ¬ frameOk d p (f 48 8) len then complete t .accessDenied 0 d
          else if regionLive d p (f 48 8) len then complete t .invalidField 0 d
          else if inCacheable d (f 48 8) len then complete t .accessDenied 0 d
          else modCmd t (fun c => { c with st := 1 }) (hbmPut p (f 48 8) bs d)
        | _ =>
          if bs.length % 48 ≠ 0 then complete t .invalidField 0 d
          else
            let d := if (tabVer d p slot tag).kind = 2 then d else setTabVer p slot tag { kind := 2 } d
            match keyedLoad p slot n bs (bs.length / 48) d with
            | (some st, d) => complete t st 0 d
            | (none, d) =>
              let loaded := (List.range (bs.length / 48)).map (fun k => ((bs.drop (48 * k + 16)).take (fldOf bs (48 * k) 1)))
              complete t .ok 0 (when (bitOf (f 26 1) 1) (keyedDrop p slot n (fun k => !loaded.contains k)) d)

/-- The commit of an INDEXED load (R414, R415): the slot's STAGING version names the region. -/
def commitTable (t : Nat) (c : Cmd) (d : Dev) : Dev :=
  let f := cmdFld c
  let p := cmdPart d c
  match d.ep.stage with
  | none => complete t .epochStale 0 (bump .stagingStale 0 0 d)
  | some (n, tag) =>
    let v : TabVer := { kind := 1, base := f 48 8, rowLen := f 30 2, nRows := f 56 4, cacheable := bitOf (f 26 1) 0 }
    complete t .ok 0 (keyedDrop p (f 28 2) n (fun _ => true) (setTabVer p (f 28 2) tag v d))

end Sys2Proof.Machine
end

