-- ==== Sys2Proof/Machine/Images.lean ====
section
/-! DEFINITION. Model images (R423 to R430): the header, the section table, every section's layout and checks. -/

namespace Sys2Proof.Machine

/-- An entry of the section table (R424). -/
structure Section where
  type : Nat
  crc : Nat
  off : Nat
  len : Nat
  clean : Bool
  deriving DecidableEq, Repr

/-- The entries of an image's section table. -/
def sectionsOf (b : List Byte) : List Section :=
  (List.range (min 16 (fldOf b 6 1))).map (fun k =>
    let o := 64 + 32 * k
    { type := fldOf b o 2, crc := fldOf b (o + 4) 4, off := fldOf b (o + 8) 8, len := fldOf b (o + 16) 8
      clean := zeroIn b (o + 2) (o + 4) && zeroIn b (o + 24) (o + 32) })

/-- The bytes of the section of a type, none where the image has none. -/
def sectionOf (b : List Byte) (type : Nat) : Option (List Byte) :=
  ((sectionsOf b).find? (fun s => s.type == type)).map (fun s => (b.drop s.off).take s.len)

/-- CRC-32C with initial 0xFFFF_FFFF and final inversion (R423). -/
def imageCrc (bs : List Byte) : Nat := m32 - crc32c m32 bs

/-- Whether a section type may stand in an image of a kind (Table 13.7). -/
def sectionAllowed (kind type : Nat) : Bool :=
  type == 15 || (match kind with
    | 0 => decide (1 ≤ type ∧ type ≤ 7)
    | 1 => type == 9
    | _ => type == 8)

/-- Order 4 of Table 13.8: the header and the section table of an image of a kind, `n` bytes long. -/
def headerOk (b : List Byte) (kind n : Nat) : Bool :=
  let f := fldOf b
  let ss := sectionsOf b
  let signed := bitOf (f 7 1) 0
  decide (64 ≤ b.length) && f 0 4 == 0x35324B50 && f 4 1 == 1 && f 5 1 == kind && decide (1 ≤ f 6 1 ∧ f 6 1 ≤ 16 ∧ f 7 1 < 8)
    && f 8 8 == n && (if kind = 0 then f 16 1 == 6 || f 16 1 == 8 else f 16 1 == 0) && decide (f 17 1 ≤ 2) && f 19 1 == 0
    && (if kind = 0 then decide (1 ≤ f 20 4 ∧ f 20 4 ≤ 768) else f 20 4 == 0) && zeroIn b 48 64
    && decide (64 + 32 * f 6 1 ≤ n)
    && ss.all (fun s => s.clean && sectionAllowed kind s.type && s.off % 64 == 0 && decide (1 ≤ s.len)
        && decide (64 + 32 * f 6 1 ≤ s.off ∧ s.off + s.len ≤ n)
        && (ss.filter (fun r => r.type == s.type)).length == 1
        && ss.all (fun r => r.type == s.type || decide (s.off + s.len ≤ r.off ∨ r.off + r.len ≤ s.off))
        && (s.type != 15 || (s.len == 208 && s.off + s.len == n)))
    && ss.any (fun s => s.type == (match kind with | 0 => 1 | 1 => 9 | _ => 8))
    && (!signed || ss.any (fun s => s.type == 15))

/-- Order 5: hdr_crc and every section crc. -/
def crcsOk (b : List Byte) : Bool :=
  fldOf b 28 4 == imageCrc (b.take 28 ++ (b.drop 32).take (32 + 32 * fldOf b 6 1))
    && (sectionsOf b).all (fun s => s.crc == imageCrc ((b.drop s.off).take s.len))

/-- Order 6: the signature, where one is required or present as SIGNED (R429). -/
def signatureOk (d : Dev) (b : List Byte) : Bool :=
  if ¬ bitOf (fldOf b 7 1) 0 then !(bitOf (regVal d rEpochState) 8 || (otpCfg d).sigRequired)
  else match (sectionsOf b).find? (fun s => s.type == 15) with
    | none => false
    | some s =>
      let g := (b.drop s.off).take s.len
      let key := (g.drop 8).take 97
      decide (fldOf g 0 1 ≤ 3) && zeroIn g 1 8 && zeroIn g 105 112
        && Config.sha384 key == otpImageKey d (fldOf g 0 1)
        && Config.ecdsaP384 key (Config.sha384 (b.take s.off)) ((g.drop 112).take 96)

/-- Whether a partition owns a whole compute die (R238). -/
def ownsWholeDie (d : Dev) (p : Nat) : Bool :=
  (List.range 16).any (fun n => (List.range 6).all (fun k => ownsCluster d p (6 * n + k)))

/-- Order 7: grade, stepping, hierarchy mode, shuffle. -/
def fitsPart (d : Dev) (p : Nat) (b : List Byte) : Bool :=
  let f := fldOf b
  decide (f 16 1 ≤ arraysPerCore d ∧ f 18 1 ≤ regFld d 4 0 8) && (f 17 1 == 2 || f 5 1 == 1 || f 17 1 == (partOf d p).hier)
    && (!bitOf (f 7 1) 1 || ownsWholeDie d p)

/-! ## Sections -/

/-- Whether an FP32 code is finite. -/
def f32Finite (c : Nat) : Bool := bitsOf c 23 8 != 255

/-- The value of an FP32 code. -/
def f32Val (c : Nat) : FVal := fmtVal 15 c 0

/-- CODE (R426): the n_instr of each program, none where the program table breaks its rules. -/
def parseCode (s : List Byte) : Option (List Nat) :=
  let n := fldOf s 0 4
  let ent (k : Nat) : Nat × Nat := (fldOf s (16 + 16 * k) 4, fldOf s (24 + 16 * k) 8)
  let es := (List.range (min n 768)).map ent
  if decide (1 ≤ n ∧ n ≤ 768) && zeroIn s 4 16 && decide (16 + 16 * n ≤ s.length)
      && (List.range n).all (fun k => zeroIn s (20 + 16 * k) (24 + 16 * k))
      && es.all (fun e => decide (1 ≤ e.1) && e.2 % 64 == 0 && decide (16 + 16 * n ≤ e.2 ∧ e.2 + 16 * e.1 ≤ s.length))
      && (List.range n).all (fun i => (List.range n).all (fun j => i == j
        || decide ((ent i).2 + 16 * (ent i).1 ≤ (ent j).2 ∨ (ent j).2 + 16 * (ent j).1 ≤ (ent i).2)))
  then some (es.map (·.1)) else none

/-- Whether a stream descriptor is accepted (R276, Table 8.6). -/
def descOk (x : Nat) : Bool :=
  let fmt := bitsOf x 0 4
  let zp := bitsOf x 4 8
  decide (fmt < 14) && bitsOf x 27 1 == 0 && bitsOf x 60 4 == 0
    && (if fmt = 2 ∨ fmt = 3 then decide (zp < 16) else if fmt = 7 ∨ fmt = 8 then true else zp == 0)

/-- STREAMS (R426). -/
def parseStreams (s : List Byte) : Option (List Nat) :=
  let n := fldOf s 0 2
  let ds := (List.range (min n 16)).map (fun k => fldOf s (8 + 8 * k) 8)
  if decide (1 ≤ n ∧ n ≤ 16 ∧ 8 + 8 * n ≤ s.length) && zeroIn s 2 8 && ds.all descOk then some ds else none

/-- REQUEST_PLAN (R135, R426). -/
def parsePlan (s : List Byte) : Option ReqPlan :=
  let k := fldOf s 0 1
  let n := fldOf s 2 2
  let o := fldOf s 4 2
  let idx := (List.range n).map (fun i => fldOf s (8 + 2 * i) 2)
  if decide (k ≤ 1 ∧ 1 ≤ n ∧ n ≤ 1024 ∧ 8 ≤ s.length) && fldOf s 1 1 == 0 && zeroIn s 6 8
      && (if k = 1 then o % 2 == 0 else o == 0 && decide (8 + 2 * n ≤ s.length) && idx.all (· < 1024))
  then some { block := k == 1, n, o, idx := if k = 1 then [] else idx } else none

/-- DECODE (R426): layers, key-value heads, head dimension / 16, queries per head. -/
def parseDecode (s : List Byte) : Option (Nat × Nat × Nat × Nat) :=
  let f := fldOf s
  let ok (x : Nat) : Bool := decide (1 ≤ x ∧ x ≤ 16)
  if decide (8 ≤ s.length ∧ 1 ≤ f 0 2 ∧ f 0 2 ≤ 128) && ok (f 2 1) && ok (f 3 1) && ok (f 4 1) && zeroIn s 5 8
  then some (f 0 2, f 2 1, f 3 1, f 4 1) else none

/-- Whether a leaf mask of a tree of `n` nodes is valid (R292): one run of zeros, ending below bit n. -/
def maskOk (n m : Nat) : Bool :=
  let z := 2 ^ 64 - 1 - m
  let y := z ||| (z - 1)
  decide (0 < z ∧ z < 2 ^ n) && (y &&& (y + 1)) == 0

/-- Whether the nodes of one tree, as 128-bit numbers, are right (R310): position `i` of `n`. -/
def nodesOk (nFeat n : Nat) : Nat → List Nat → Bool
  | _, [] => true
  | i, x :: rest =>
    decide (bitsOf x 0 10 < nFeat) && bitsOf x 28 4 == 0 && bitsOf x 96 32 == 0 && maskOk n (bitsOf x 32 64)
      && bitOf x 26 == decide (i = 0) && bitOf x 27 == decide (i + 1 = n) && nodesOk nFeat n (i + 1) rest

/-- Whether trees, as 64-bit numbers, take their nodes and leaf values in ascending, contiguous ranges that cover them exactly
(R310); `nOut` gives the outputs of each tree. -/
def treesRun (nOut : Nat → Nat) (nFeat : Nat) (nodes : List Nat) (nLeaf : Nat) : Nat → Nat → Nat → List Nat → Bool
  | _, np, lp, [] => np == nodes.length && lp == nLeaf
  | i, np, lp, x :: rest =>
    let n := bitsOf x 14 6
    bitsOf x 35 29 == 0 && (n == 0 || bitsOf x 0 14 == np) && bitsOf x 20 15 == lp && decide (np + n ≤ nodes.length)
      && nodesOk nFeat n 0 ((nodes.drop np).take n)
      && treesRun nOut nFeat nodes nLeaf (i + 1) (np + n) (lp + (n + 1) * nOut i) rest

/-- `n` little-endian numbers of `w` bytes from byte `o`. -/
def numsAt (s : List Byte) (o w n : Nat) : List Nat := (List.range n).map (fun k => fldOf s (o + w * k) w)

/-- A piecewise-linear table (R297). -/
def pwlAt (s : List Byte) (o : Nat) : List (Nat × Nat × Nat) :=
  (List.range 64).map (fun k => (fldOf s (o + 12 * k) 4, fldOf s (o + 12 * k + 4) 4, fldOf s (o + 12 * k + 8) 4))

/-- Whether FP32 codes ascend strictly. -/
def f32Ascends : List Nat → Bool
  | x :: y :: rest => vLt (f32Val x) (f32Val y) && f32Ascends (y :: rest)
  | _ => true

/-- Whether a piecewise-linear table is accepted (R297, R310). -/
def pwlOk (t : List (Nat × Nat × Nat)) : Bool :=
  t.all (fun e => f32Finite e.1 && f32Finite e.2.1 && f32Finite e.2.2) && (lget (0, 0, 0) t 0).1 % 2 ^ 31 == 0
    && f32Ascends ((t.drop 1).map (·.1))

/-- Whether leaf values are finite in their format (R310). -/
def leavesOk (fmt : Nat) (ls : List Nat) : Bool := fmt == 11 || ls.all (fun l => bitsOf l 10 5 != 31)

/-- Whether the parameters shared by TREES and EDGE_MODELS are right: format, outputs, link, scale, base. -/
def parOk (fmt nOut link scale : Nat) (base : List Nat) : Bool :=
  (fmt == 11 || fmt == 12) && decide (1 ≤ nOut ∧ link ≤ 4) && (link != 2 || decide (2 ≤ nOut))
    && (if fmt = 11 then decide (-64 ≤ signedOf 8 scale ∧ signedOf 8 scale ≤ 63) else scale == 0)
    && (base.drop nOut).all (· == 0) && (fmt == 11 || base.all f32Finite)

/-- The offsets of the three parts of share data from byte `o` (R309): trees, nodes, leaf values. -/
def shareParts (o nt nn : Nat) : Nat × Nat × Nat :=
  let a := ceilDiv o 64 * 64
  let b := ceilDiv (a + 8 * nt) 64 * 64
  (a, b, ceilDiv (b + 16 * nn) 64 * 64)

/-- The share entries of a tree section (Table 9.7): trees, nodes, leaf values, offset. -/
def shareEntries (s : List Byte) : List (Nat × Nat × Nat × Nat) :=
  (List.range (min 768 (fldOf s 6 2))).map (fun k =>
    let o := 848 + 16 * k
    (fldOf s o 2, fldOf s (o + 2) 2, fldOf s (o + 4) 2 + 1, fldOf s (o + 8) 8))

/-- The parameters of a tree section (Table 9.6). -/
def treesPar (s : List Byte) : PealParams :=
  { leafFmt := fldOf s 0 1, nOut := fldOf s 1 1, link := fldOf s 2 1, leafScale := signedOf 8 (fldOf s 3 1)
    nFeatures := fldOf s 4 2, base := numsAt s 8 4 16, pwl := if fldOf s 2 1 = 4 then pwlAt s 72 else [] }

/-- Whether a tree section is accepted (R310), capacities aside. -/
def treesOk (s : List Byte) : Bool :=
  let f := fldOf s
  decide (848 ≤ s.length) && parOk (f 0 1) (f 1 1) (f 2 1) (f 3 1) (numsAt s 8 4 16) && decide (f 1 1 ≤ 16)
    && decide (1 ≤ f 4 2 ∧ f 4 2 ≤ 1024 ∧ 1 ≤ f 6 2 ∧ f 6 2 ≤ 768) && zeroIn s 840 848
    && (if f 2 1 = 4 then pwlOk (pwlAt s 72) else zeroIn s 72 840) && decide (848 + 16 * f 6 2 ≤ s.length)
    && (List.range (f 6 2)).all (fun k => zeroIn s (854 + 16 * k) (856 + 16 * k))
    && (shareEntries s).all (fun e =>
      let o := shareParts e.2.2.2 e.1 e.2.1
      let ls := numsAt s o.2.2 2 e.2.2.1
      decide (1 ≤ e.1) && e.2.2.2 % 64 == 0 && decide (848 + 16 * f 6 2 ≤ e.2.2.2 ∧ o.2.2 + 2 * e.2.2.1 ≤ s.length)
        && treesRun (fun _ => f 1 1) (f 4 2) (numsAt s o.2.1 16 e.2.1) e.2.2.1 0 0 0 (numsAt s o.1 8 e.1) && leavesOk (f 0 1) ls)

/-- Whether a share of a tree section exceeds a core's stores (R306). -/
def treesTooLarge (s : List Byte) : Bool :=
  (shareEntries s).any (fun e => decide (2048 < e.1 ∨ 16384 < e.2.1 ∨ 32768 < e.2.2.1))

/-- The shares of a tree section. -/
def treesShares (s : List Byte) : List Share :=
  (shareEntries s).map (fun e =>
    let o := shareParts e.2.2.2 e.1 e.2.1
    { trees := (numsAt s o.1 8 e.1).map pealTree, nodes := (numsAt s o.2.1 16 e.2.1).map pealNode, leaves := numsAt s o.2.2 2 e.2.2.1 })

/-- Whether an FP32 code is finite and above zero. -/
def f32Pos (c : Nat) : Bool := f32Finite c && decide (0 < c ∧ c < 2 ^ 31)

/-- Whether an FP32 code is finite and at least zero. -/
def f32NonNeg (c : Nat) : Bool := f32Finite c && decide (c ≤ 2 ^ 31)

/-- Whether an FP32 code lies in [0, 1). -/
def f32Unit (c : Nat) : Bool := decide (c < 0x3F800000 ∨ c = 2 ^ 31)

/-- Entry `k` of a train section (Table 11.2): kind, format, ref, rows, row length. -/
def tensorAt (s : List Byte) (k : Nat) : Nat × Nat × Nat × Nat × Nat :=
  let o := 64 + 16 * k
  (fldOf s o 1, fldOf s (o + 1) 1, fldOf s (o + 2) 2, fldOf s (o + 4) 4, fldOf s (o + 8) 4)

/-- Whether a train section is accepted (R350); `trees` is the image's tree section. -/
def trainOk (s : List Byte) (trees : Option (List Byte)) : Bool :=
  let f := fldOf s
  let n := f 28 2
  let one (k : Nat) : Bool :=
    let x := tensorAt s k
    zeroIn s (76 + 16 * k) (80 + 16 * k) && (match x.1 with
      | 0 => [7, 2, 9, 13].contains x.2.1 && decide (x.2.2.1 < 64 ∧ 1 ≤ x.2.2.2.1 ∧ x.2.2.2.1 ≤ 65536 ∧ 1 ≤ x.2.2.2.2 ∧ x.2.2.2.2 ≤ 65536)
      | 1 => (match trees with
        | some ts => x.2.1 == fldOf ts 0 1 && decide (x.2.2.1 < fldOf ts 6 2) && x.2.2.2.1 == 1
            && x.2.2.2.2 == ((shareEntries ts)[x.2.2.1]?.map (·.2.2.1)).getD 0
        | none => false)
      | _ => false)
  decide (64 ≤ s.length) && f 0 1 == 1 && decide (f 1 1 ≤ 2) && (f 2 1 == 7 || f 2 1 == 10) && decide (f 3 1 ≤ 1) && f32Pos (f 4 4)
    && f32Pos (f 8 4) && (f 1 1 == 0 || f32Unit (f 12 4)) && (f 1 1 != 2 || (f32Unit (f 16 4) && f32Pos (f 20 4))) && f32NonNeg (f 24 4)
    && decide (1 ≤ n ∧ n ≤ 64 ∧ 64 + 16 * n ≤ s.length) && zeroIn s 30 32 && decide (1 ≤ f 32 4 ∧ f 32 4 ≤ 65536) && zeroIn s 36 64
    && (List.range n).all one

/-- The trainable elements of a train section (R351). -/
def trainElems (s : List Byte) : Nat :=
  ((List.range (min 64 (fldOf s 28 2))).map (fun k => (tensorAt s k).2.2.2.1 * (tensorAt s k).2.2.2.2)).sum

/-- FEEDBACK (R366, R427): the section's fields and its plan. -/
def parseFeedback (s : List Byte) : Option (FbSpec × ReqPlan) :=
  let f := fldOf s
  match parsePlan (s.drop 16) with
  | none => none
  | some p =>
    if decide (16 ≤ s.length ∧ f 2 1 ≤ 1 ∧ f 3 1 ≤ 2 ∧ 1024 ≤ f 4 4 ∧ f 4 4 ≤ 1048576) && (f 4 4 &&& (f 4 4 - 1)) == 0 && zeroIn s 10 16
        && (if p.block then f 8 2 % 2 == 0 && decide (f 8 2 ≤ 9214) else decide (f 8 2 ≤ 1023))
    then some ({ target := f 0 2, labelIdx := f 8 2, labelKind := f 2 1, capacity := f 4 4, verdict := f 3 1 }, p) else none

/-! ## Edge models (R428) -/

/-- The layout of an EDGE_MODELS section: offsets of its trees, nodes and leaf values. -/
def edgeParts (s : List Byte) : Nat × Nat × Nat :=
  shareParts (16 + 48 * fldOf s 0 2 + 768 * fldOf s 6 2) (fldOf s 2 2) (fldOf s 4 2)

/-- The parameters of model `m`. -/
def edgePar (s : List Byte) (m : Nat) : PealParams :=
  let o := 16 + 48 * m
  let link := fldOf s (o + 6) 1
  { leafFmt := fldOf s (o + 4) 1, nOut := fldOf s (o + 5) 1, link, leafScale := signedOf 8 (fldOf s (o + 7) 1), nFeatures := 1024
    base := numsAt s (o + 8) 4 4, pwl := if link = 4 then pwlAt s (16 + 48 * fldOf s 0 2 + 768 * fldOf s (o + 40) 1) else [] }

/-- The models that name a tree. -/
def edgeNaming (s : List Byte) (t : Nat) : List Nat :=
  (List.range (min 256 (fldOf s 0 2))).filter (fun m =>
    decide (fldOf s (16 + 48 * m) 2 ≤ t ∧ t < fldOf s (16 + 48 * m) 2 + fldOf s (18 + 48 * m) 2))

/-- The outputs of a tree: those of a model that names it, else one. -/
def edgeOuts (s : List Byte) (t : Nat) : Nat := ((edgeNaming s t).head?.map (fun m => fldOf s (21 + 48 * m) 1)).getD 1

/-- Whether model `m` is right (R131, R428). -/
def edgeModelOk (s : List Byte) (m : Nat) : Bool :=
  let o := 16 + 48 * m
  let f (a n : Nat) : Nat := fldOf s (o + a) n
  let par := edgePar s m
  let isInt := intOutputs par
  let le (x y : Nat) : Bool := if isInt then decide (signedOf 32 x ≤ signedOf 32 y) else !vLt (f32Val y) (f32Val x)
  parOk (f 4 1) (f 5 1) (f 6 1) (f 7 1) par.base && decide (f 0 2 + f 2 2 ≤ fldOf s 2 2)
    && (isInt || !(isNan32 (f 24 4) || isNan32 (f 28 4) || isNan32 (f 32 4))) && le (f 24 4) (f 28 4) && le (f 28 4) (f 32 4)
    && (List.range 4).all (fun b => decide (f (36 + b) 1 % 8 ≤ 4))
    && (if f 6 1 = 4 then decide (f 40 1 < fldOf s 6 2) else f 40 1 == 0xFF) && zeroIn s (o + 41) (o + 48)

/-- Whether an EDGE_MODELS section is accepted, capacities aside (R428). -/
def edgeOk (s : List Byte) : Bool :=
  let f := fldOf s
  let p := edgeParts s
  let nt := f 2 2
  decide (16 ≤ s.length ∧ 1 ≤ f 0 2 ∧ f 0 2 ≤ 256 ∧ 1 ≤ nt ∧ f 6 2 ≤ 16) && zeroIn s 12 16 && decide (p.2.2 + 2 * f 8 4 ≤ s.length)
    && (List.range (f 0 2)).all (edgeModelOk s) && (List.range (f 6 2)).all (fun k => pwlOk (pwlAt s (16 + 48 * f 0 2 + 768 * k)))
    && (List.range nt).all (fun t => (edgeNaming s t).all (fun m =>
        fldOf s (21 + 48 * m) 1 == edgeOuts s t && (edgeNaming s t).all (fun k => fldOf s (20 + 48 * k) 1 == fldOf s (20 + 48 * m) 1)))
    && treesRun (edgeOuts s) 1024 (numsAt s p.2.1 16 (f 4 2)) (f 8 4) 0 0 0 (numsAt s p.1 8 nt)
    && (List.range nt).all (fun t =>
      let x := fldOf s (p.1 + 8 * t) 8
      match (edgeNaming s t).head? with
      | some m => leavesOk (fldOf s (20 + 48 * m) 1) (numsAt s (p.2.2 + 2 * bitsOf x 20 15) 2 ((bitsOf x 14 6 + 1) * edgeOuts s t))
      | none => true)

/-- Whether an edge bank exceeds a limit of R128. -/
def edgeTooLarge (s : List Byte) : Bool :=
  decide (256 < fldOf s 2 2 ∨ 16384 < fldOf s 4 2) || (List.range (min 256 (fldOf s 0 2))).any (fun m => decide (4 < fldOf s (21 + 48 * m) 1))

/-- Model `m` with trees, nodes and leaf values of its own (R129). -/
def edgeModel (s : List Byte) (m : Nat) : EdgeModel :=
  let o := 16 + 48 * m
  let p := edgeParts s
  let first := fldOf s o 2
  let ts := (numsAt s (p.1 + 8 * first) 8 (fldOf s (o + 2) 2)).map pealTree
  let n0 := ((ts.filter (fun t => t.nNodes != 0)).head?.map (·.firstNode)).getD 0
  let l0 := (ts.head?.map (·.leafBase)).getD 0
  let par := edgePar s m
  let band (b : Nat) : Band :=
    let x := fldOf s (o + 36 + b) 1
    { action := x % 8, queueSet := bitOf x 3, queue := x / 16 }
  { present := true, par
    trees := ts.map (fun t => { t with firstNode := t.firstNode - n0, leafBase := t.leafBase - l0 })
    nodes := (numsAt s (p.2.1 + 16 * n0) 16 (ts.map (·.nNodes)).sum).map pealNode
    leaves := numsAt s (p.2.2 + 2 * l0) 2 (ts.map (fun t => (t.nNodes + 1) * par.nOut)).sum
    t1 := fldOf s (o + 24) 4, t2 := fldOf s (o + 28) 4, t3 := fldOf s (o + 32) 4, bands := (List.range 4).map band }

/-- The models of a section as a bank. -/
def edgeBank (s : List Byte) : Tab EdgeModel := (List.range (fldOf s 0 2)).foldl (fun t m => tput {} t m (edgeModel s m)) []

/-! ## The version an image makes -/

/-- Whether a part of an image is absent or parses. -/
def orAbsent {α : Type} (x : Option (List Byte)) (f : List Byte → Option α) : Bool := match x with | none => true | some s => (f s).isSome

/-- Order 8 for kind CLUSTER: the contents of the sections; TOO_LARGE where R351 says so. -/
def clusterRefused (b : List Byte) : Option Status :=
  let ts := sectionOf b 3
  if (parseCode ((sectionOf b 1).getD [])).isNone ∨ ¬ ts.all treesOk ∨ ¬ orAbsent (sectionOf b 4) parseStreams
      ∨ ¬ orAbsent (sectionOf b 5) parsePlan ∨ ¬ orAbsent (sectionOf b 6) parseDecode ∨ ¬ (sectionOf b 7).all (fun s => trainOk s ts) then
    some .invalidField
  else if (sectionOf b 7).any (fun s => decide (4194304 < trainElems s)) then some .tooLarge
  else none

/-- The version that an accepted image makes (R421). -/
def versionOf (b : List Byte) (vid : Nat) : CtxVersion :=
  let ts := sectionOf b 3
  let plan := (sectionOf b 5).bind parsePlan
  let nf := match ts, plan with | some s, _ => fldOf s 4 2 | none, some p => p.n | none, none => 0
  let fb := (sectionOf b 8).bind parseFeedback
  { present := true, vid, image := b, progs := ((sectionOf b 1).bind parseCode).getD [], cached := bitOf (fldOf b 7 1) 2
    streams := ((sectionOf b 4).bind parseStreams).getD [], shares := (ts.map treesShares).getD []
    par := (ts.map treesPar).getD {}, hasRes := (sectionOf b 2).isSome
    plan := match fb with | some x => some x.2 | none => plan
    fb := fb.map (·.1), hasTrain := (sectionOf b 7).isSome
    train := { nFeatures := nf, bytes := (sectionOf b 7).getD [] }, decode := (sectionOf b 6).bind parseDecode }

/-- The cores of a context in share order (R307): its clusters in bound order, T0 to T7. -/
def ctxCores (x : Context) : List Nat := x.clusters.flatMap (fun cl => (List.range 8).map (8 * cl + ·))

/-- Order 9 (R190, R306, R307, R430). -/
def clusterTooLarge (b : List Byte) (v : CtxVersion) (x : Context) : Bool :=
  v.progs.any (fun n => decide ((if v.cached then 16777216 else 4096) < n)) || decide ((ctxCores x).length < fldOf b 20 4)
    || (sectionOf b 3).any treesTooLarge || decide ((ctxCores x).length < v.shares.length)

/-- Whether a share fits beside the regions a core's Peal stores hold (R306). -/
def shareFits (k : Core) (s : Share) : Bool :=
  decide ((k.pregs.map (·.nTrees)).sum + s.trees.length ≤ 2048 ∧ (k.pregs.map (·.nNodes)).sum + s.nodes.length ≤ 16384
    ∧ (k.pregs.map (·.nLeaves)).sum + s.leaves.length ≤ 32768)

/-- Whether the shares of a version find room on the context's cores (R307). -/
def sharesFit (d : Dev) (x : Context) (v : CtxVersion) : Bool :=
  ((ctxCores x).zip v.shares).all (fun e => shareFits (coreOf d e.1) e.2)

/-- The regions of a version's shares are taken on the context's cores; firmware has yet to load them (R307, R311). -/
def placeShares (c : Nat) (v : CtxVersion) (d : Dev) : Dev :=
  (((ctxCores (ctxOf d c)).zip v.shares).zip (List.range v.shares.length)).foldl (fun d e =>
    modCore e.1.1 (fun k => { k with pregs := k.pregs ++ [{
      ctx := c, vid := v.vid, share := e.2, nTrees := e.1.2.trees.length, nNodes := e.1.2.nodes.length, nLeaves := e.1.2.leaves.length }] }) d) d

/-! ## LOAD_IMAGE and BULK_COMMIT -/

/-- A refused LOAD_IMAGE is counted by its status (R433). -/
def refuseImage (t : Nat) (st : Status) (d : Dev) : Dev := complete t st 0 (bump .imageRefused st.code 0 d)

/-- LOAD_IMAGE of kind EDGE, its image read (R421, Table 13.8). -/
def loadEdge (t tag mask : Nat) (b : List Byte) (n : Nat) (d : Dev) : Dev :=
  let s := (sectionOf b 9).getD []
  if ¬ headerOk b 1 n then refuseImage t .invalidField d
  else if ¬ crcsOk b then refuseImage t .dataError d
  else if ¬ signatureOk d b then refuseImage t .accessDenied d
  else if ¬ fitsPart d 0 b then refuseImage t .invalidField d
  else if ¬ edgeOk s then refuseImage t .invalidField d
  else if edgeTooLarge s then refuseImage t .tooLarge d
  else
    let dies := (List.range 4).filter (bitOf mask)
    complete t .ok 0 (onEdge (fun e => { e with peal := dies.foldl (fun b i => tput [] b (3 * i + tag) (edgeBank s)) e.peal }) d)

/-- Whether the target of a feedback section is right (R427): it exists, belongs to the partition and carries a train section
whose vectors have the plan's length. -/
def targetOk (d : Dev) (p tag : Nat) (b : List Byte) : Bool :=
  match (sectionOf b 8).bind parseFeedback with
  | none => false
  | some x =>
    let v := ctxVer d x.1.target tag
    (ctxOf d x.1.target).exist && (ctxOf d x.1.target).owner == p && v.hasTrain && (v.train.nFeatures == 0 || v.train.nFeatures == x.2.n)

/-- LOAD_IMAGE of kind CLUSTER or FEEDBACK, its image read (R421, Table 13.8). `fits` says whether the space that the toolchain's
resident layout, the master copy and the feedback buffer need is free (R233). -/
def loadCtx (t tag : Nat) (fits : Bool) (c : Cmd) (b : List Byte) (n : Nat) (d : Dev) : Dev :=
  let id := cmdFld c 8 2
  let x := ctxOf d id
  let p := cmdPart d c
  let v := versionOf b t
  let inner := if x.feedback then (if targetOk d p tag b then none else some Status.invalidField) else clusterRefused b
  if ¬ headerOk b (if x.feedback then 2 else 0) n then refuseImage t .invalidField d
  else if ¬ crcsOk b then refuseImage t .dataError d
  else if ¬ signatureOk d b then refuseImage t .accessDenied d
  else if ¬ fitsPart d p b then refuseImage t .invalidField d
  else match inner with
    | some st => refuseImage t st d
    | none =>
      if clusterTooLarge b v x then refuseImage t .tooLarge d
      else if ¬ fits ∨ ¬ sharesFit d x v then refuseImage t .noSpace d
      else modCmd t (fun c => { c with st := 1, aux := [t] }) (placeShares id v (modCtx id (fun x => { x with work := v }) d))

/-- LOAD_IMAGE (R421, R430). A non-zero die_mask names kind EDGE. -/
def loadImage (t : Nat) (fits : Bool) (c : Cmd) (d : Dev) : Dev :=
  let f := cmdFld c
  let edge := f 26 1 != 0
  let x := ctxOf d (f 8 2)
  if ¬ edge ∧ ¬ x.exist then refuseImage t .noContext d
  else if ¬ edge ∧ x.owner ≠ cmdPart d c then refuseImage t .accessDenied d
  else match sourceBytes d c (f 24 1 == 1) (f 32 8) (f 40 8) with
    | .denied => refuseImage t .accessDenied d
    | .bad => refuseImage t .dataError d
    | .ok b =>
      let d := sourceCount c (f 24 1 == 1) (f 32 8) (f 40 8) d
      match d.ep.stage with
      | none => refuseImage t .epochStale d
      | some (_, tag) =>
        if retireStale c d.ep.stage then refuseImage t .epochStale d
        else if edge then loadEdge t tag (f 26 1) b (f 40 8) d
        else loadCtx t tag fits c b (f 40 8) d

/-- The commit of a LOAD_IMAGE (R407, R421): the version stands in STAGING; with WAIT_RESIDENT the command waits for it to be
resident. -/
def commitImage (t : Nat) (c : Cmd) (d : Dev) : Dev :=
  let id := cmdFld c 8 2
  let v := (ctxOf d id).work
  match d.ep.stage with
  | none => complete t .epochStale 0 (bump .stagingStale 0 0 (dropWork c d))
  | some (_, tag) =>
    let d := modCtx id (fun x => { x with work := {} }) (setVersion id tag v d)
    let d := if v.hasRes then
        forEach (ctxOf d id).clusters (modCluster · (fun k => { k with reload := k.reload ++ [v.vid] })) d
      else d
    if bitOf (cmdFld c 25 1) 0 ∧ ¬ versionResident d id v.vid then modCmd t (fun c => { c with st := 2 }) d
    else complete t .ok 0 d

/-- BULK_COMMIT (R414): a bulk operation whose data is written commits. -/
def bulkCommit (q t : Nat) (d : Dev) : Dev :=
  let c := cmdOf d t
  if c.q ≠ q ∨ c.st ≠ 1 then d
  else if opcodeOf c = 0x11 then commitTable t c d
  else if opcodeOf c = 0x10 then commitImage t c d
  else d

end Sys2Proof.Machine
end

