-- ==== Sys2Proof/Machine/EpochRows.lean ====
section
/-! DEFINITION. CONTEXT_CREATE and CONTEXT_DESTROY (R419, R420), and the meanings of the rows of rule writes, epochs, tables,
images and contexts. -/

namespace Sys2Proof.Machine

/-- The counts of a context number start anew (Table 18.1, R662). -/
def newCtxCtrs (n : Nat) (d : Dev) : Dev :=
  { d with
    ctr := clearCtrs [.invocations, .trainSteps, .trainExamples, .trainLrRefused, .trainNormRefused, .trainNonfinite, .fbAppended, .fbDropped]
      (· == n) d.ctr
    obs := { d.obs with
      evals := d.obs.evals.filter (fun e => e.1 % 4096 != n), evalN := d.obs.evalN.filter (fun e => e.1 % 4096 != n)
      slow := d.obs.slow.filter (fun e => e.1 % 4096 != n) } }

/-- CONTEXT_CREATE (R419, R420): fields, ownership, limits; the result is the lowest free number. -/
def contextCreate (t : Nat) (c : Cmd) (d : Dev) : Dev :=
  let p := cmdPart d c
  let mask := cmdFld c 32 12
  let cls := (List.range 96).filter (bitOf mask)
  if mask = 0 then complete t .invalidField 0 d
  else if ¬ cls.all (ownsCluster d p) then complete t .accessDenied 0 d
  else if 4096 ≤ tcount (fun _ x => x.exist) d.ctxs ∨ (partOf d p).ctxQuota ≤ tcount (fun _ x => x.exist && x.owner == p) d.ctxs then
    complete t .noContext 0 d
  else match (List.range 4096).find? (fun n => !(ctxOf d n).exist) with
    | none => complete t .noContext 0 d
    | some n => complete t .ok n (modCtx n (fun _ => { exist := true, owner := p, feedback := cmdFld c 24 1 == 1, clusters := cls }) (newCtxCtrs n d))

/-- Whether work runs on some version of a context (R419): an invocation, or a command that has started. -/
def ctxBusy (d : Dev) (n t : Nat) : Bool :=
  d.comp.invs.any (fun e => e.2.ctx == n)
    || d.cmds.any (fun e => e.1 != t && decide (1 ≤ e.2.st) && cmdFld e.2 8 2 == n
        && [0x10, 0x20, 0x21, 0x22, 0x23].contains (opcodeOf e.2))

/-- The resident rows of a context on a core are zeroed and its entries no longer loaded (R233, R252, R281). -/
def freeRows (n : Nat) (k : Core) : Core :=
  let rows := (k.resRows.filter (fun e => e.2 == n + 1)).map (·.1)
  { k with
    spad := k.spad.filter (fun e => !rows.contains (e.1 / 512)), resRows := k.resRows.filter (fun e => e.2 != n + 1)
    pregs := k.pregs.filter (fun r => r.ctx != n), handles := if k.persistOf = n + 1 then [] else k.handles
    streams := if k.persistOf = n + 1 then [] else k.streams, persistOf := if k.persistOf = n + 1 then 0 else k.persistOf }

/-- A context is removed from every epoch with all it holds (R419). -/
def removeCtx (n : Nat) (d : Dev) : Dev :=
  let vids := ((ctxOf d n).versions.map (·.2.vid)) ++ [(ctxOf d n).work.vid]
  let d := onComp (fun g => { g with
    cores := tmap {} (fun _ k => freeRows n k) g.cores
    clusters := tmap {} (fun _ k => { k with reload := k.reload.filter (fun v => !(vids.contains v && v != 0)) }) g.clusters }) d
  { d with ctxs := tdel d.ctxs n }

/-- CONTEXT_DESTROY (R401, R419): the STAGING version alone, or the whole context once nothing runs on it; until then the command
waits and is tried again. -/
def contextDestroy (t : Nat) (c : Cmd) (d : Dev) : Dev :=
  let n := cmdFld c 8 2
  let x := ctxOf d n
  if ¬ x.exist then complete t .noContext 0 d
  else if x.owner ≠ cmdPart d c then complete t .accessDenied 0 d
  else if bitOf (cmdFld c 24 1) 0 then
    match d.ep.stage with
    | none => complete t .epochStale 0 d
    | some (_, tag) =>
      if retireStale c d.ep.stage then complete t .epochStale 0 d
      else if ¬ (ctxVer d n tag).present then complete t .noContext 0 d
      else complete t .ok 0 (setVersion n tag {} d)
  else
    let d := modCtx n (fun x => { x with destroying := true }) d
    if ctxBusy d n t then modCmd t (fun c => { c with st := 1 }) d
    else
      let arms := (d.obs.arms.filter (fun a => a.ctx == n && !a.done)).map (·.tkt)
      complete t .ok 0 (removeCtx n (arms.foldl (fun d a => complete a .aborted 0 d) d))

/-- The row CONTEXT_DESTROY: it starts, or, its wait begun, is tried again. -/
def contextDestroyRow (q t : Nat) (d : Dev) : Dev :=
  let c := cmdOf d t
  if c.q = q ∧ opcodeOf c = 0x61 ∧ c.st = 1 then contextDestroy t c d else startCmd 0x61 q t (contextDestroy t) d

/-- RULE_WRITE (R88, R92, R93). -/
def execRuleWrite (q : Nat) (t : Nat) (s : State) := run (.ruleWrite q t) (startCmd 0x31 q t (ruleCmd false t)) s
/-- RULE_DELETE (R88, R92, R93). -/
def execRuleDelete (q : Nat) (t : Nat) (s : State) := run (.ruleDelete q t) (startCmd 0x32 q t (ruleCmd true t)) s
/-- RULE_SWEEP_DONE (R90). -/
def execRuleSweepDone (die : Nat) (s : State) := run (.ruleSweepDone die) (ruleSweepDone die) s
/-- FLIP_EPOCH (R404). -/
def execFlipEpoch (q : Nat) (t : Nat) (s : State) := run (.flipEpoch q t) (startCmd 0x12 q t (flipEpoch t)) s
/-- EPOCH_HOLD_END (R405). -/
def execEpochHoldEnd (s : State) := run (.epochHoldEnd) (epochHoldEnd) s
/-- EPOCH_HOLD_TIMEOUT (R405). -/
def execEpochHoldTimeout (s : State) := run (.epochHoldTimeout) (epochHoldTimeout) s
/-- EPOCH_SWITCH (R406). -/
def execEpochSwitch (die : Nat) (s : State) := run (.epochSwitch die) (epochSwitch die) s
/-- EPOCH_SWITCH_ACK (R406). -/
def execEpochSwitchAck (s : State) := run (.epochSwitchAck) (epochSwitchAck) s
/-- RETIRE_WAIT (R410). -/
def execRetireWait (q : Nat) (t : Nat) (s : State) := run (.retireWait q t) (startCmd 0x13 q t (retireWait t)) s
/-- RETIRE_WAIT_TIMEOUT (R410). -/
def execRetireWaitTimeout (q : Nat) (t : Nat) (s : State) := run (.retireWaitTimeout q t) (retireWaitTimeout q t) s
/-- RETIRE_FORCE (R412). -/
def execRetireForce (q : Nat) (t : Nat) (s : State) := run (.retireForce q t) (startCmd 0x13 q t (retireForce t)) s
/-- RETIRE_ABANDON (R413). -/
def execRetireAbandon (q : Nat) (t : Nat) (s : State) := run (.retireAbandon q t) (startCmd 0x13 q t (retireAbandon t)) s
/-- EPOCH_RETIRE (R409). -/
def execEpochRetire (s : State) := run (.epochRetire) (epochRetire) s
/-- STAGING_OPEN (R413). -/
def execStagingOpen (s : State) := run (.stagingOpen) (stagingOpen) s
/-- LOAD_TABLE (R414 to R418). -/
def execLoadTable (q : Nat) (t : Nat) (bank : Machine.BankImage) (s : State) :=
  run (.loadTable q t bank) (startCmd 0x11 q t (loadTable t bank)) s
/-- LOAD_IMAGE (R421, R430). -/
def execLoadImage (q : Nat) (t : Nat) (fits : Bool) (s : State) :=
  run (.loadImage q t fits) (startCmd 0x10 q t (loadImage t fits)) s
/-- BULK_COMMIT (R414). -/
def execBulkCommit (q : Nat) (t : Nat) (s : State) := run (.bulkCommit q t) (bulkCommit q t) s
/-- CONTEXT_CREATE (R419, R420). -/
def execContextCreate (q : Nat) (t : Nat) (s : State) := run (.contextCreate q t) (startCmd 0x60 q t (contextCreate t)) s
/-- CONTEXT_DESTROY (R419). -/
def execContextDestroy (q : Nat) (t : Nat) (s : State) := run (.contextDestroy q t) (contextDestroyRow q t) s
/-- COMMAND_DEADLINE (R453). -/
def execCommandDeadline (q : Nat) (t : Nat) (s : State) := run (.commandDeadline q t) (commandDeadline q t) s

end Sys2Proof.Machine
end

