-- ==== Sys2Proof/Machine/Thaw.lean ====
section
/-! DEFINITION. The Thaw sequencer, IDLE exits and cluster clocks (R578 to R590). -/

namespace Sys2Proof.Machine

/-- The device with its power changed. -/
def onPwr (f : Power → Power) (d : Dev) : Dev := { d with pwr := f d.pwr }

/-- The device with a cluster's power state changed, from this Beat on. -/
def setPower (cl p : Nat) (d : Dev) : Dev :=
  { d with comp := { d.comp with clusters := tmod {} d.comp.clusters cl (fun k => { k with power := p, idleFrom := beat d }) } }

/-- The Thaw group of a domain (Table 19.4): 0 to 3 the VDD_CORE groups, 4 EDGE, 5 STORE, 6 HUB. -/
def thawGroup (dom : Nat) : Nat :=
  if dom < 96 then dom / 24 else if dom < 112 then (dom - 96) / 4 else if dom < 124 then 4 else if dom < 144 then 5 else 6

/-! ## Charges (R587, Table 19.5): 28 units are 1 A -/

/-- What the last 10 µs have charged to a group. -/
def charged (d : Dev) (g : Nat) : Nat :=
  ((d.pwr.charges.filter (fun c => c.1 == g && decide (beat d < c.2.1 + 10000))).map (fun c => c.2.2)).sum

/-- Whether a charge fits within 250 A. -/
def chargeFits (d : Dev) (g x : Nat) : Bool := decide (charged d g + x ≤ 7000)

/-- A charge is made. -/
def charge (g x : Nat) (d : Dev) : Dev :=
  onPwr (fun p => { p with charges := p.charges.filter (fun c => decide (beat d < c.2.1 + 10000)) ++ [(g, beat d, x)] }) d

/-! ## Clocks (R588, R589) -/

/-- The step a cluster's target names. -/
def targetStep (d : Dev) (cl : Nat) : Nat := min 50 (regFld d (rClkCfg cl) 0 7)
/-- The step in force is set. -/
def setStep (cl s : Nat) : Dev → Dev := onPwr (fun p => { p with steps := tput 0 p.steps cl (50 - s) })

/-- The voltage in mV that a step needs (Table 19.6). -/
def stepVolt (s : Nat) : Nat := if s ≤ 20 then 650 else if s ≤ 30 then 700 else if s ≤ 40 then 770 else 850

/-- Whether a cluster's clock needs its group's voltage: RUN, IDLE or waking. -/
def needsVolt (d : Dev) (cl : Nat) : Bool :=
  decide (clusterPower d cl ≤ 1) || d.pwr.wakes.any (fun w => w.dom == cl && w.started.isSome)

/-- The voltage of a VDD_CORE group (R588). -/
def groupVolt (d : Dev) (g : Nat) : Nat :=
  (List.range 24).foldl (fun v k => if needsVolt d (24 * g + k) then max v (stepVolt (curStep d (24 * g + k))) else v) 650

/-- Whether an exit or raise is the first of its group in the queue. -/
def headOfGroup (d : Dev) (x : Nat × Bool) : Bool := d.pwr.queue.find? (fun y => y.1 / 24 == x.1 / 24) == some x

/-- An exit or raise leaves the queue. -/
def unqueue (x : Nat × Bool) : Dev → Dev := onPwr (fun p => { p with queue := p.queue.erase x })

/-- A raise that heads its group's queue is charged and applied when its charge fits (R587, R589). -/
def tryRaise (cl : Nat) (d : Dev) : Dev :=
  let x := 8 * (targetStep d cl - curStep d cl)
  if headOfGroup d (cl, true) ∧ chargeFits d (cl / 24) x then
    let s := targetStep d cl
    charge (cl / 24) x (setStep cl s (unqueue (cl, true) d))
  else d

/-- A raise whose voltage is there joins the queue; a cluster that does not run takes its clock at once. -/
def queueRaise (cl : Nat) (d : Dev) : Dev :=
  if clusterPower d cl = 0 then
    tryRaise cl (if d.pwr.queue.contains (cl, true) then d else onPwr (fun p => { p with queue := p.queue ++ [(cl, true)] }) d)
  else setStep cl (targetStep d cl) d

/-- A target_step is carried out (R589): lowered at once, raised at once when no higher voltage is needed, otherwise after the
regulator has slewed at 5 mV/µs and 10 µs more; nothing while the die controller is being restarted (Table 17.2). -/
def clockTarget (cl : Nat) (d : Dev) : Dev :=
  let t := targetStep d cl
  let c := curStep d cl
  if tget false d.isl.down (96 + cl / 6) then d
  else if t ≤ c then unqueue (cl, true) (onPwr (fun p => { p with raiseDue := tdel p.raiseDue cl }) (setStep cl t d))
  else if 2 ≤ clusterPower d cl then setStep cl t d
  else
    let v := groupVolt d (cl / 24)
    if v < stepVolt t then
      let due := beat d + (stepVolt t - v) * 200 + 10000
      onPwr (fun p => { p with raiseDue := tput 0 p.raiseDue cl (due + 1) }) d
    else queueRaise cl (onPwr (fun p => { p with raiseDue := tdel p.raiseDue cl }) d)

/-- CLOCK_RAISE (R589): the voltage of a raise has settled, or its charge has come to fit. -/
def clockRaise (cl : Nat) (d : Dev) : Dev :=
  let due := tget 0 d.pwr.raiseDue cl
  if due ≠ 0 then
    if due - 1 ≤ beat d then queueRaise cl (onPwr (fun p => { p with raiseDue := tdel p.raiseDue cl }) d) else d
  else tryRaise cl d

/-- The clock settings of a die whose six clusters belong to one partition are the lowest of the six (R590). -/
def shareSteps (n : Nat) (d : Dev) : Dev :=
  let low := ((List.range 6).map (fun k => targetStep d (6 * n + k))).foldl min 50
  (List.range 6).foldl (fun d k => clockTarget (6 * n + k) (setFld (rClkCfg (6 * n + k)) 0 7 low d)) d

/-- Whether one partition owns a die's six clusters (R238). -/
def wholeDie (d : Dev) (n : Nat) : Bool :=
  d.parts.any (fun e => e.2.exist && (List.range 6).all (fun k => bitOf e.2.clusters (6 * n + k)))

/-- CLOCK_STEP_WRITE (R589, R590). -/
def clockStepWrite (cl val : Nat) (d : Dev) : Dev :=
  let n := cl / 6
  if wholeDie d n then
    (List.range 6).foldl (fun d k => clockTarget (6 * n + k) (setFld (rClkCfg (6 * n + k)) 0 7 (val % 128) d)) d
  else clockTarget cl (setFld (rClkCfg cl) 0 7 (val % 128) d)

/-! ## Wakes (R585 to R587) -/

/-- The wakes of a group that have started and not ended. -/
def waking (d : Dev) (g : Nat) : List Wake := d.pwr.wakes.filter (fun w => thawGroup w.dom == g && w.started.isSome)

/-- What a wake charges to its VDD_CORE group. -/
def wakeCharge (dom : Nat) : Nat := if dom < 96 then 112 else if dom < 112 then 224 else 0

/-- WAKE_START (R586, R587): the head of a group's queue starts when at most 3 others are waking, 5 µs have passed since the last
start, and its charge fits. -/
def wakeStart (dom : Nat) (d : Dev) : Dev :=
  let g := thawGroup dom
  let head := d.pwr.wakes.find? (fun w => thawGroup w.dom == g && w.started.isNone)
  let last := tget 0 d.pwr.lastStart g
  if head.any (fun w => w.dom == dom) ∧ (waking d g).length < 4 ∧ (last = 0 ∨ last - 1 + 5000 ≤ beat d)
      ∧ (wakeCharge dom = 0 ∨ chargeFits d g (wakeCharge dom)) then
    let now := beat d
    let d := onPwr (fun p => { p with
      wakes := p.wakes.map (fun w => if w.dom = dom then { w with started := some now } else w)
      lastStart := tput 0 p.lastStart g (now + 1) }) d
    when (wakeCharge dom != 0) (charge g (wakeCharge dom)) d
  else d

/-- WAKE_DONE (R586): the domain is powered; a cluster is in IDLE at its target clock, and, the boot past, asks for its IDLE
exit. -/
def wakeDone (dom : Nat) (d : Dev) : Dev :=
  match d.pwr.wakes.find? (fun w => w.dom == dom && w.started.isSome) with
  | none => d
  | some w =>
    let d := onPwr (fun p => { p with wakes := p.wakes.erase w }) d
    if dom < 96 then
      let d := setPower dom 1 (setStep dom (targetStep d dom) d)
      when (d.boot.step == 6) (onPwr (fun p => { p with queue := p.queue ++ [(dom, false)] })) d
    else onPwr (fun p => { p with on := tput false p.on dom true }) d

/-- The die site of a domain. -/
def domSite (dom : Nat) : Nat :=
  if dom < 96 then compSite (dom / 6) else if dom < 112 then compSite (dom - 96) else if dom < 124 then edgeSite (dom % 4)
  else if dom < 132 then storeSite (dom % 4) else if dom < 144 then storeSite ((dom - 132) / 3) else 12

/-- DOMAIN_FAILED (R587): not powered 100 µs after its start, the domain stays off: a cluster is excluded, any other domain is a
package fault, which stops a boot. -/
def domainFailed (dom : Nat) (d : Dev) : Dev :=
  match d.pwr.wakes.find? (fun w => w.dom == dom && (match w.started with | some b => decide (b + 100000 ≤ beat d) | none => false)) with
  | none => d
  | some w =>
    let d := onPwr (fun p => { p with wakes := p.wakes.erase w, dead := tput false p.dead dom true }) d
    let d := islandLog 0x0119 (domSite dom) (if dom < 96 then dom % 6 else 0xFF) (toLe 1 dom) d
    if dom < 96 then d
    else
      let d := packageFault d
      if 1 ≤ d.boot.step ∧ d.boot.step < 6 ∧ ¬ d.boot.failed then { d with boot := { d.boot with failed := true, failCause := 6 } } else d

/-- IDLE_EXIT (R583, R587): the exit that heads its group's queue is charged and the cluster runs. -/
def idleExit (cl : Nat) (d : Dev) : Dev :=
  let x := 8 * (20 + curStep d cl)
  if headOfGroup d (cl, false) ∧ chargeFits d (cl / 24) x ∧ clusterPower d cl = 1
      ∧ ¬ (tget {} d.comp.clusters cl).zeroing then
    setPower cl 0 (charge (cl / 24) x (unqueue (cl, false) d))
  else if clusterPower d cl ≠ 1 then unqueue (cl, false) d
  else d

/-- THAW_WAKE_REQUEST (R582, R585): a trigger asks for a domain: a cluster in IDLE queues its IDLE exit, an unpowered domain its
wake. -/
def thawRequest (dom : Nat) (d : Dev) : Dev :=
  if dom < 96 then wakeRequest dom d else if tget false d.pwr.on dom then d else queueWake dom d

end Sys2Proof.Machine
end

