-- ==== Sys2Proof/Machine/Partitions.lean ====
section
/-! DEFINITION. Partitions (15_partitions_qos): their operations, cluster resets, partition resets, and the functions they are
bound to. -/

namespace Sys2Proof.Machine

/-! ## Clearing of counters (Table 18.1) -/

/-- The counters kept per core. -/
def coreCtrs : List Ctr :=
  [.accSatEvents, .semOverflowEvents, .arrayStall, .icacheMiss, .spadParity, .handleEccCorrected, .winRefused, .clipEvents,
   .nanZeroed, .scaleReservedRows, .driftEvents, .pealEccCorrected, .pealMaskEmpty, .pealSumSat, .pealStreamInvocations,
   .pealStreamBytes, .coreCycles, .arrayBusy, .vectorBusy, .pealBusy, .opbufBytes, .spadBytes, .poolBytes, .hbmBytes,
   .windowOutBytes, .windowInBytes]

/-- The counters of a cluster, its tag table and its trace are cleared with their frozen copies (Table 18.1, R563). -/
def clearCluster (cl : Nat) (d : Dev) : Dev :=
  let f (t : Tab Nat) : Tab Nat := clearCtrs [.semRemoteReject] (· == cl) (clearCtrs coreCtrs (fun i => i / 8 == cl) t)
  { d with
    ctr := f d.ctr, frozen := f d.frozen
    obs := { d.obs with
      trace := tdel d.obs.trace cl, tags := tdel d.obs.tags cl, tagsOver := tdel d.obs.tagsOver cl
      frozenTags := tdel d.obs.frozenTags cl, frozenOver := tdel d.obs.frozenOver cl } }

/-- The counters of a partition and of its function are cleared. -/
def clearPartCtrs (p fn : Nat) (d : Dev) : Dev :=
  let a := clearCtrs [.partHbmRd, .partHbmWr, .partResets, .trainTorn, .rimeDumps] (· == p) d.ctr
  let b := clearCtrs [.eventLost, .accessFaults, .faultOverflow, .fnPcieRd, .fnPcieWr] (· == fn) a
  { d with ctr := clearCtrs [.rqDrop] (fun k => k / 32 == fn) (clearCtrs [.cqWritten, .sqFetched] (fun k => k / 64 == fn) b) }

/-! ## Cluster reset -/

/-- The registers of a cluster whose reset level is cluster take their reset values (R216). -/
def dropClusterRegs (cl : Nat) (d : Dev) : Dev :=
  let base := cmpBase (cl / 6)
  { d with regs := d.regs.filter (fun e =>
      let o := e.1 - base
      !(decide (base ≤ e.1 ∧ e.1 < base + 0x100000) &&
        ((decide (0x200 ≤ o ∧ o < 0x218) && (o - 0x200) / 4 == cl % 6)
          || (decide (0x300 ≤ o ∧ o < 0x3C0) && (o - 0x300) / 32 == cl % 6)
          || (decide (0x500 ≤ o ∧ o < 0x5C0) && (o - 0x500) / 32 == cl % 6)
          || (decide (0x600 ≤ o ∧ o < 0x6C0) && (o - 0x600) / 32 == cl % 6)
          || (decide (0x700 ≤ o ∧ o < 0x7C0) && (o - 0x700) / 32 == cl % 6)))) }

/-- A core whose contents are gone (R252): its shares are to be loaded again (R315). -/
def wipeCore (k : Core) : Core := { pregs := k.pregs.map (fun r => { r with st := 3 }), streamed := k.streamed }

/-- The context versions with resident rows that are bound to a cluster. -/
def residentVids (d : Dev) (cl : Nat) : List Nat :=
  (d.ctxs.filter (fun e => e.2.clusters.contains cl)).foldl (fun a e =>
    e.2.versions.foldl (fun a v => if v.2.hasRes ∧ ¬ a.contains v.2.vid then a ++ [v.2.vid] else a) a) []

/-- The contents of a cluster are lost and will be reloaded (R252, R254). -/
def wipeCluster (cl : Nat) (d : Dev) : Dev :=
  let vids := residentVids d cl
  let d := onComp (fun g => { g with cores := tmap {} (fun c k => if c / 8 = cl then wipeCore k else k) g.cores }) d
  modCluster cl (fun k => { power := k.power, idleFrom := k.idleFrom, zeroing := true, reload := vids }) d

/-- The requests that a cluster holds are dropped without a result, and its credits return (R140, R147). -/
def dropRequests (cl : Nat) : Dev → Dev := onEdge (fun e => { e with
  deep := tmap {} (fun _ q => if q.issued ∧ q.cluster = cl then { q with issued := false, arrived := false, ans := none } else q) e.deep
  credits := e.credits.filter (fun x => x.1 / 4 != cl) })

/-- A granted PEAL_SELFTEST of a cluster stops and completes ABORTED (R549). -/
def stopSelftest (cl : Nat) (d : Dev) : Dev :=
  let rs := d.maint.filter (fun r => r.act == 3 && r.obj == cl && r.granted)
  rs.foldl (fun d r => complete r.tkt .aborted 0 { d with maint := d.maint.erase r }) d

/-- CLUSTER_RESET (R140, R147, R252, R584): invocations stop with ABORTED, requests are dropped and credits return, contents are
lost, and RUN or IDLE becomes IDLE, RETAIN becomes OFF. -/
def clusterReset (cl : Nat) (d : Dev) : Dev :=
  let ids := (d.comp.invs.filter (fun e => e.2.cluster == cl)).map (·.1)
  let d := ids.foldl (fun d i => endInv i .aborted d) d
  let d := (trainsOn d cl).foldl (fun d t => complete t .aborted 0 (trainGiveUp t d)) d
  let d := stopSelftest cl (dropClusterRegs cl (wipeCluster cl (dropRequests cl d)))
  let p := clusterPower d cl
  let d := { d with pwr := { d.pwr with queue := d.pwr.queue.filter (fun x => x != (cl, false)) } }
  modCluster cl (fun k => { k with power := if p ≤ 1 then 1 else 3, idleFrom := beat d }) d

/-! ## Operations -/

/-- The end of a partition operation (R472, R489): its result is shown, a refusal counted. -/
def finishOp (code : Nat) (d : Dev) : Dev :=
  match d.partOp with
  | none => d
  | some (o : PartOp) =>
    let v := setBits (regVal d rPartStatus) 1 4 code
    let d := setReg rPartStatus (setBits (setBits v 5 6 o.part) 11 2 o.op) { d with partOp := none }
    when (code != 0) (bump .partOpRefused code 0) d

/-- A partition reset starts, or joins the one in progress (R478); while an operation runs on the partition it waits (R483). -/
def startReset (p : Nat) (d : Dev) : Dev :=
  if ¬ (partOf d p).exist ∨ (partOf d p).resetting then d
  else if d.partOp.any (fun o => o.part == p && o.op != 2) then modPart p (fun x => { x with resetAgain := true }) d
  else
    let fn := (partOf d p).fn
    let d := modPart p (fun x => { x with resetting := true }) d
    let d := { d with msixPba := d.msixPba.filter (fun e => e.1 / 4096 != fn), obs := { d.obs with frozen := tdel d.obs.frozen p } }
    { d with
      pairs := tmap {} (fun q x => if q / 64 = fn then { x with unann := 0 } else x) d.pairs
      rrings := tmap {} (fun k x => if k / 32 = fn then { x with unann := 0 } else x) d.rrings }

/-- A partition is to be destroyed (R474, R476): it is reset first. -/
def destroyPart (p : Nat) (d : Dev) : Dev :=
  if (partOf d p).exist then startReset p (modPart p (fun x => { x with destroying := true }) d) else d

/-- A field of a partition descriptor. -/
def descFld (bs : List Byte) (off n : Nat) : Nat := leNat ((bs.drop off).take n)

/-- The grants that a descriptor states (Table 15.2), pages aside. -/
def descPart (bs : List Byte) : Part :=
  { exist := true, hier := descFld bs 1 1, fn := 64 * descFld bs 2 1 + descFld bs 3 1, pairs := descFld bs 4 2
    vectors := descFld bs 6 2, ctxQuota := descFld bs 8 2, hbmWeight := descFld bs 10 1, netCredits := descFld bs 11 1
    txPorts := descFld bs 12 4, txQueues := descFld bs 16 2, txRate := descFld bs 20 4, clusters := descFld bs 24 12
    frames := descFld bs 40 72, sram := (List.range 4).map (fun i => descFld bs (144 + 2 * i) 2)
    ruleSlots := (List.range 4).map (fun i => descFld bs (152 + 4 * i) 4)
    ruleTables := (List.range 4).map (fun i => descFld bs (168 + 2 * i) 2) }

/-- The die-pool pages that a descriptor asks for on a compute die. -/
def descPages (bs : List Byte) (n : Nat) : Nat := descFld bs (112 + 2 * n) 2

/-- Whether a descriptor is INVALID for operation `op` on partition `p` (Table 15.3, code 5). -/
def descInvalid (d : Dev) (op p : Nat) (bs : List Byte) : Bool :=
  let x := descPart bs
  let old := partOf d p
  descFld bs 0 1 != 1 || !(zeroIn bs 18 2) || !(zeroIn bs 36 4) || !(zeroIn bs 176 80)
    || decide (1 < x.hier ∨ 1 < descFld bs 2 1 ∨ 63 < descFld bs 3 1 ∨ 64 < x.pairs ∨ 2048 < x.vectors ∨ 4096 < x.ctxQuota)
    || decide (x.hbmWeight = 0 ∨ x.netCredits = 0 ∨ 64 < x.netCredits)
    || (List.range 16).any (fun n => decide (64 < descPages bs n) || (x.hier == 0 && descPages bs n != 0))
    || x.ruleSlots.any (fun n => decide (524288 < n))
    || (if p < 2 then x.fn != 64 * p else x.fn % 64 == 0)
    || (op == 1 && (x.fn != old.fn || x.hier != old.hier))

/-- Whether a function exists: a PF when its port does, a VF while SR-IOV gives it (R476). -/
def fnExists (d : Dev) (fn : Nat) : Bool :=
  if fn % 64 = 0 then fn == 0 || (otpCfg d).x1 else decide (fn % 64 ≤ tget 0 d.numVfs (fn / 64))

/-- The partitions other than `p`. -/
def othersOf (d : Dev) (p : Nat) : List Part := (d.parts.filter (fun e => e.1 != p && e.2.exist)).map (·.2)

/-- Whether a cluster is excluded: by its array map, or because its wake failed (R210, R587). -/
def clusterExcluded (d : Dev) (cl : Nat) : Bool := domainDead d cl

/-- Whether a descriptor names something TAKEN (Table 15.3, code 8; R549). -/
def descTaken (d : Dev) (p : Nat) (x : Part) : Bool :=
  let o := othersOf d p
  (List.range 96).any (fun c => bitOf x.clusters c && (o.any (fun y => bitOf y.clusters c) || clusterExcluded d c
      || d.maint.any (fun r => r.act == 4 && r.obj == c && r.granted)))
    || (List.range 576).any (fun f => bitOf x.frames f && o.any (fun y => bitOf y.frames f))
    || (List.range 4).any (fun i => (List.range 16).any (fun t =>
        bitOf (lget 0 x.ruleTables i) t && o.any (fun y => bitOf (lget 0 y.ruleTables i) t)))
    || (List.range 32).any (fun k => bitOf x.txPorts k && otpPortOff d k)

/-- kv_buf_mib in force on a store die (R348): values above 128 act as 128. -/
def kvBuf (d : Dev) (i : Nat) : Nat := min 128 (regFld d (rAttnCfg i) 0 8)

/-- Whether a summed limit of Table 15.1 would be exceeded (code 9). -/
def descOver (d : Dev) (p : Nat) (x : Part) (bs : List Byte) : Bool :=
  let o := othersOf d p
  (List.range 16).any (fun n =>
      decide (64 < (o.map (fun y => (y.pages.filter (fun g => g / 64 == n)).length)).sum + descPages bs n))
    || (List.range 4).any (fun i => decide (192 < (o.map (fun y => lget 0 y.sram i)).sum + lget 0 x.sram i + kvBuf d i))
    || (List.range 4).any (fun i => decide (524288 < (o.map (fun y => lget 0 y.ruleSlots i)).sum + lget 0 x.ruleSlots i))
    || decide (2048 < ((o.filter (fun y => y.fn / 64 == x.fn / 64)).map (·.vectors)).sum + x.vectors)

/-- The frames that a table version lies in. -/
def frameNamed (d : Dev) (p f : Nat) : Bool :=
  d.tabVers.any (fun e => e.1 / 1024 == p && e.2.kind == 1
    && decide (e.2.base < (f + 1) * 2 ^ 30 ∧ f * 2 ^ 30 < e.2.base + max 1 (e.2.rowLen * e.2.nRows)))

/-- Whether a RESIZE would remove a grant in use (R473, code 10); `held` are the frames that hold a master copy or a feedback
buffer, which the firmware knows. -/
def descInUse (d : Dev) (p : Nat) (x : Part) (bs : List Byte) (held : Nat) : Bool :=
  let old := partOf d p
  let mine := (d.ctxs.filter (fun e => e.2.exist && e.2.owner == p)).map (·.2)
  (List.range 96).any (fun c => bitOf old.clusters c && !bitOf x.clusters c && mine.any (fun k => k.clusters.contains c))
    || (List.range 576).any (fun f => bitOf old.frames f && !bitOf x.frames f && (frameNamed d p f || bitOf held f))
    || (!mine.isEmpty && (List.range 16).any (fun n => decide (descPages bs n < (old.pages.filter (fun g => g / 64 == n)).length)))
    || (List.range 4).any (fun i => decide (lget 0 x.ruleSlots i
        < (((List.range 16).filter (bitOf (lget 0 old.ruleTables i))).map (tableSlots d i)).sum))
    || (List.range 4).any (fun i => (List.range 16).any (fun t => bitOf (lget 0 old.ruleTables i) t && !bitOf (lget 0 x.ruleTables i) t
        && d.edge.rules.any (fun e => e.1 / 2 ^ 20 == i && e.2.used && !e.2.second && e.2.table == t
            && (liveEpochs d).any (visible e.2.birth e.2.death e.2.opn))))
    || decide (x.ctxQuota < mine.length)
    || d.pairs.any (fun e => e.1 / 64 == old.fn && e.2.enabled && (decide (x.pairs ≤ e.1 % 64)
        || decide (x.vectors ≤ regFld d (rRingCfg e.1) 9 11)))
    || d.rrings.any (fun e => e.1 / 32 == old.fn && e.2.enabled && decide (x.vectors ≤ regFld d (rRqCfg old.fn (e.1 % 32)) 8 11))

/-- The pages of a partition after its grant on every die is `want` (R473): the first ones granted stay, new ones come in
ascending die and free page number. -/
def newPages (d : Dev) (p : Nat) (bs : List Byte) : List Nat :=
  let old := (partOf d p).pages
  let used := (othersOf d p).flatMap (·.pages)
  let keep := (List.range 16).foldl (fun l n =>
    let on := l.filter (fun g => g / 64 == n)
    l.filter (fun g => g / 64 != n || (on.take (descPages bs n)).contains g)) old
  keep ++ (List.range 16).flatMap (fun n =>
    let have_ := (old.filter (fun g => g / 64 == n)).length
    ((List.range 64).filter (fun k => !used.contains (64 * n + k) && !old.contains (64 * n + k))).map (64 * n + ·)
      |>.take (descPages bs n - have_))

/-- Die-pool pages are zeroed. -/
def zeroPages (pages : List Nat) (d : Dev) : Dev :=
  pages.foldl (fun d g => bumpN .poolWrBytes (g / 64) 0 (2 ^ 20) d)
    (onComp (fun g => { g with pool := g.pool.filter (fun e => !pages.contains (e.1 / 2 ^ 20)) }) d)

/-- The registers of a partition's clusters as its grant sets them (R225, R238, R470, R590). -/
def setClusters (x : Part) (d : Dev) : Dev :=
  (List.range 16).foldl (fun d n =>
    let all := (List.range 6).all (fun k => bitOf x.clusters (6 * n + k))
    let d := (List.range 6).foldl (fun d k =>
      if bitOf x.clusters (6 * n + k) then setFld (rSpadCfg (6 * n + k)) 0 2 (x.hier + 2 * b2n all) d else d) d
    if all then shareSteps n d else d) d

/-- A CREATE or RESIZE applies: the grants are those of the descriptor, and clusters newly granted have their counters cleared
(R470, R473, Table 18.1). -/
def applyDesc (p op : Nat) (bs : List Byte) (d : Dev) : Dev :=
  let old := partOf d p
  let pages := newPages d p bs
  let x : Part := { descPart bs with pages, resetAgain := old.resetAgain, dueClear := old.dueClear }
  let d := zeroPages (old.pages.filter (fun g => !pages.contains g)) d
  let gone := (List.range 576).filter (fun f => bitOf old.frames f && !bitOf x.frames f)
  let d := onStore (fun s => { s with gcache := tmap [] (fun _ t => t.filter (fun e => !gone.contains (e.1 / 2 ^ 30))) s.gcache }) d
  let d := (List.range 96).foldl (fun d c => if bitOf x.clusters c ∧ ¬ bitOf old.clusters c then clearCluster c d else d) d
  let d := when (op == 0) (clearPartCtrs p x.fn) { d with parts := tput {} d.parts p x }
  setClusters x d

/-- A finished CREATE or RESIZE is followed by a reset that waited for it (R483), or by the destruction of a partition whose VF
has gone meanwhile (R476). -/
def afterOp (p : Nat) (d : Dev) : Dev :=
  if ¬ (partOf d p).exist then d
  else if ¬ fnExists d (partOf d p).fn then destroyPart p d
  else if (partOf d p).resetAgain then startReset p (modPart p (fun x => { x with resetAgain := false }) d)
  else d

/-- PART_DESC_FETCH_DONE (R471 to R473): the fetch failed (`err`), or the checks of Table 15.3 run in order; frames newly granted
are zeroed before the operation applies (R377, R480). -/
def descFetched (err : Bool) (held : Nat) (d : Dev) : Dev :=
  match d.partOp with
  | none => d
  | some (o : PartOp) =>
    if o.op = 2 ∨ ¬ o.desc.isEmpty then d
    else
      let bs := hostRead d o.port o.addr 256
      let d := pcieRead (64 * o.port) 256 d
      let x := descPart bs
      let p := o.part
      if err then afterOp p (finishOp 4 d)
      else if descInvalid d o.op p bs then afterOp p (finishOp 5 d)
      else if ¬ fnExists d x.fn then afterOp p (finishOp 6 d)
      else if o.op = 0 ∧ (partOfFn d x.fn).isSome then afterOp p (finishOp 7 d)
      else if descTaken d p x then afterOp p (finishOp 8 d)
      else if descOver d p x bs then afterOp p (finishOp 9 d)
      else if o.op = 1 ∧ descInUse d p x bs held then afterOp p (finishOp 10 d)
      else
        let fresh := (List.range 576).filter (fun f => bitOf x.frames f && !bitOf (partOf d p).frames f)
        if fresh.isEmpty then afterOp p (finishOp 0 (applyDesc p o.op bs d))
        else fresh.foldl (fun d f => queueZero (64 + p) f d) { d with partOp := some { o with desc := bs } }

/-- HUB_PART_CMD is written (R472): discarded while an operation runs or before device_ready (R613); otherwise the first checks of
Table 15.3 run and the operation starts. -/
def partCmd (op port p : Nat) (d : Dev) : Dev :=
  if d.partOp.isSome ∨ d.boot.step ≠ 6 then setFld rPartStatus 13 1 1 d
  else
    let a := regVal d rPartDescLo + regVal d rPartDescHi * 2 ^ 32
    let d := { d with partOp := some { part := p, op, port, addr := a } }
    let x := partOf d p
    if op = 3 then finishOp 5 d
    else if op ≠ 0 ∧ x.exist ∧ x.resetting then finishOp 1 d
    else if op ≠ 0 ∧ ¬ x.exist then finishOp 2 d
    else if op = 0 ∧ x.exist then finishOp 3 d
    else if op = 2 then destroyPart p d
    else if dmaOk d (64 * port) a 256 false then d
    else finishOp 4 d

/-- FRAME_ZERO_DONE (R377, R480): a store die's engine finishes its oldest piece; a grant whose zeroing ends applies. -/
def frameZeroRow (die : Nat) (d : Dev) : Dev :=
  let d := frameZeroDone die d
  match d.partOp with
  | some (o : PartOp) =>
    if o.desc.isEmpty ∨ zeroLeft d (64 + o.part) then d
    else afterOp o.part (finishOp 0 (applyDesc o.part o.op o.desc d))
  | none => d

/-! ## Partition reset (R478, R479) -/

/-- A command of a resetting partition ends inside the device: no CQ entry is written (Table 15.4, step 3). -/
def removeCmd (t : Nat) (d : Dev) : Dev :=
  let c := cmdOf d t
  let d := dropWork c (trainGiveUp t d)
  let d := match d.ep.flip with
    | some f => if f.tkt = t ∧ ¬ f.switching then onEp (fun e => { e with flip := none }) (maintEnd t d) else d
    | none => d
  { d with
    cmds := tdel d.cmds t, store := { d.store with dec := tdel d.store.dec t }
    obs := { d.obs with arms := d.obs.arms.filter (fun a => a.tkt != t) } }

/-- Content of a partition's logical tables is freed in every epoch (step 5). -/
def freeTables (x : Part) (d : Dev) : Dev :=
  (List.range 4).foldl (fun d i =>
    let own := lget 0 x.ruleTables i
    let d := freeRules i (fun r => bitOf own r.table) d
    (List.range 16).foldl (fun d t => if bitOf own t then setMiss i t [] d else d) d) d

/-- PARTITION_RESET (Table 15.4, steps 2 to 6): commands and invocations end, content is freed, and zeroing starts. -/
def partitionReset (p : Nat) (d : Dev) : Dev :=
  let x := partOf d p
  if ¬ x.exist ∨ ¬ x.resetting ∨ x.zeroing then d
  else
    let ts := (d.cmds.filter (fun e => cmdFn e.2 == x.fn)).map (·.1)
    let d := ts.foldl (fun d t => removeCmd t d) d
    let d := ((List.range 96).filter (bitOf x.clusters)).foldl (fun d c => clusterReset c d) d
    let d := ((d.ctxs.filter (fun e => e.2.exist && e.2.owner == p)).map (·.1)).foldl (fun d n => removeCtx n d) d
    let d := freeTables x { d with
      tabVers := d.tabVers.filter (fun e => e.1 / 1024 != p), keyed := d.keyed.filter (fun e => e.part != p)
      recPend := d.recPend.filter (fun e => e.1 / 32 != x.fn)
      fab := { d.fab with outs := d.fab.outs.filter (fun o => o.part != p), faultQ := tdel d.fab.faultQ x.fn }
      obs := { d.obs with frozen := tput none d.obs.frozen p none } }
    let frames := (List.range 576).filter (bitOf x.frames)
    let d := onStore (fun s => { s with gcache := tmap [] (fun _ t => t.filter (fun e => !bitOf x.frames (e.1 / 2 ^ 30))) s.gcache }) d
    let d := frames.foldl (fun d f => queueZero p f d) (zeroPages x.pages d)
    modPart p (fun x => { x with zeroing := true }) d

/-- The FN_ registers and ring state of a function take their reset values (Table 15.4, step 7). -/
def resetFn (fn : Nat) (d : Dev) : Dev :=
  { d with
    regs := d.regs.filter (fun e => !decide (fnPage fn ≤ e.1 ∧ e.1 < fnPage fn + 0x1000))
    pairs := d.pairs.filter (fun e => e.1 / 64 != fn), rrings := d.rrings.filter (fun e => e.1 / 32 != fn)
    errUp := d.errUp.filter (fun e => e.1 / 2 != fn), recPend := d.recPend.filter (fun e => e.1 / 32 != fn) }

/-- PARTITION_RESET_DONE (Table 15.4, step 7; R474): zeroing has ended; ready returns, or a destroyed partition is gone. -/
def partitionResetDone (p : Nat) (d : Dev) : Dev :=
  let x := partOf d p
  if ¬ x.zeroing ∨ zeroLeft d p then d
  else
    let cls := (List.range 96).filter (bitOf x.clusters)
    let d := cls.foldl (fun d c => modCluster c (fun k => { k with zeroing := false }) (dropClusterRegs c d)) d
    let d := bump .partResets p 0 (resetFn x.fn d)
    if x.destroying then
      let d := { d with parts := tdel d.parts p }
      if d.partOp.any (fun o => o.part == p && o.op == 2) then finishOp 0 d else d
    else modPart p (fun x => { x with resetting := false, zeroing := false }) d

/-- FN_RESET (R478): FN_CTRL.reset = 1. -/
def fnReset (fn : Nat) (d : Dev) : Dev :=
  match partOfFn d fn with | some p => startReset p d | none => d

/-- The partitions of VFs of a port above number `n` are destroyed (R476). -/
def dropVfs (port n : Nat) (d : Dev) : Dev :=
  let ps := (d.parts.filter (fun e => e.2.exist && e.2.fn / 64 == port && decide (n < e.2.fn % 64))).map (·.1)
  ps.foldl (fun d p => destroyPart p d) { d with numVfs := tput 0 d.numVfs port (min n (tget 0 d.numVfs port)) }

/-- A function-level reset clears the function's MSI-X masks and pending bits. -/
def clearMsix (fn : Nat) (d : Dev) : Dev :=
  { d with msixOn := d.msixOn.filter (fun e => e.1 / 4096 != fn), msixPba := d.msixPba.filter (fun e => e.1 / 4096 != fn) }

/-- FLR (R476, R478, R613): the function's partition is reset, once device_ready is set; a PF's VFs are removed. -/
def flr (fn : Nat) (d : Dev) : Dev :=
  let d := clearMsix fn d
  let d := if d.boot.step = 6 then fnReset fn d else { d with boot := { d.boot with deferred := d.boot.deferred ++ [fn] } }
  if fn % 64 = 0 then dropVfs (fn / 64) 0 d else d

/-- VF_REMOVAL (R476): NumVFs falls to `n` (0 when VF Enable is cleared). -/
def vfRemoval (port n : Nat) : Dev → Dev := dropVfs port n

/-- VF_ENABLE (R476, R531): `n` VFs exist, at most TotalVFs. -/
def vfEnable (port n : Nat) (d : Dev) : Dev :=
  { d with numVfs := tput 0 d.numVfs port (max (tget 0 d.numVfs port) (min n (vfCap d port))) }

/-- PART_CREATE (R469, R472). -/
def execPartCreate (port : Nat) (part : Nat) (s : State) := run (.partCreate port part) (partCmd 0 port part) s
/-- PART_RESIZE (R472, R473). -/
def execPartResize (port : Nat) (part : Nat) (s : State) := run (.partResize port part) (partCmd 1 port part) s
/-- PART_DESTROY (R472, R474). -/
def execPartDestroy (port : Nat) (part : Nat) (s : State) := run (.partDestroy port part) (partCmd 2 port part) s
/-- PART_DESC_FETCH_DONE (R471 to R473). -/
def execPartDescFetchDone (err : Bool) (held : Nat) (s : State) := run (.partDescFetchDone err held) (descFetched err held) s
/-- FN_RESET (R478). -/
def execFnReset (fn : Nat) (s : State) := run (.fnReset fn) (fnReset fn) s
/-- FLR (R476, R478). -/
def execFlr (fn : Nat) (s : State) := run (.flr fn) (flr fn) s
/-- VF_REMOVAL (R476). -/
def execVfRemoval (port : Nat) (n : Nat) (s : State) := run (.vfRemoval port n) (vfRemoval port n) s
/-- VF_ENABLE (R476). -/
def execVfEnable (port : Nat) (n : Nat) (s : State) := run (.vfEnable port n) (vfEnable port n) s
/-- PARTITION_RESET (R479). -/
def execPartitionReset (part : Nat) (s : State) := run (.partitionReset part) (partitionReset part) s
/-- PARTITION_RESET_DONE (R479). -/
def execPartitionResetDone (part : Nat) (s : State) := run (.partitionResetDone part) (partitionResetDone part) s
/-- CLUSTER_RESET (R213, R584). -/
def execClusterReset (cluster : Nat) (s : State) := run (.clusterReset cluster) (clusterReset cluster) s
/-- FRAME_ZERO_DONE (R377, R480). -/
def execFrameZeroDone (die : Nat) (s : State) := run (.frameZeroDone die) (frameZeroRow die) s

end Sys2Proof.Machine
end

