-- ==== Sys2Proof/Machine/Power.lean ====
section
/-! DEFINITION. Cluster power states, power capping, sensors and thermal response (R534, R580 to R593). -/

namespace Sys2Proof.Machine

/-! ## Cluster power states (R581) -/

/-- Whether an invocation runs on a cluster. -/
def clusterBusy (d : Dev) (cl : Nat) : Bool := d.comp.invs.any (fun e => e.2.cluster == cl && e.2.running != 0)

/-- Whether something asks for a cluster: an exit or a wake that waits. -/
def triggered (d : Dev) (cl : Nat) : Bool := d.pwr.queue.any (fun x => x.1 == cl) || d.pwr.wakes.any (fun w => w.dom == cl)

/-- CLUSTER_IDLE_ENTRY: RUN to IDLE. -/
def idleEntry (cl : Nat) (d : Dev) : Dev :=
  if clusterPower d cl = 0 ∧ ¬ clusterBusy d cl then setPower cl 1 (unqueue (cl, true) d) else d

/-- CLUSTER_RETAIN_ENTRY: IDLE to RETAIN after retain_after_us, with retain_en, and no trigger. -/
def retainEntry (cl : Nat) (d : Dev) : Dev :=
  let p := regVal d (rPwrPolicy cl)
  if clusterPower d cl = 1 ∧ bitOf p 0 ∧ ¬ triggered d cl
      ∧ (tget {} d.comp.clusters cl).idleFrom + max 1 (bitsOf p 2 14) * 1000 ≤ beat d then setPower cl 2 d
  else d

/-- Whether a window of a cluster's cores is open. -/
def windowsOpen (d : Dev) (cl : Nat) : Bool := d.comp.cores.any (fun e => e.1 / 8 == cl && e.2.windows.any (fun w => w.2.isOpen))

/-- A cluster goes to OFF: its contents are lost and its credits return (Table 19.3). -/
def clusterOff (cl : Nat) (d : Dev) : Dev :=
  let d := onEdge (fun e => { e with credits := e.credits.filter (fun x => x.1 / 4 != cl) }) (wipeCluster cl d)
  setPower cl 3 (onPwr (fun p => { p with queue := p.queue.filter (fun x => x.1 != cl), raiseDue := tdel p.raiseDue cl }) d)

/-- CLUSTER_OFF_ENTRY: RETAIN to OFF after off_after_ms, with off_en, no window open and no trigger; any state to OFF for a
cluster that no partition owns. -/
def offEntry (cl : Nat) (d : Dev) : Dev :=
  let p := regVal d (rPwrPolicy cl)
  if clusterPower d cl = 3 then d
  else if (clusterOwner d cl).isNone then clusterOff cl d
  else if clusterPower d cl = 2 ∧ bitOf p 1 ∧ ¬ triggered d cl ∧ ¬ windowsOpen d cl
      ∧ (tget {} d.comp.clusters cl).idleFrom + max 1 (bitsOf p 16 16) * 1000000 ≤ beat d then clusterOff cl d
  else d

/-! ## Capping (R591 to R593) -/

/-- The power limit in force (Table 19.9). -/
def limitW (d : Dev) : Nat := max 1200 (min (regFld d rPwrLimit 0 12) (otpCfg d).powerW)

/-- The estimate averaged over 8 µs. -/
def powerAvg (d : Dev) : Nat := d.pwr.est.sum / 8

/-- What a capper release charges to a group. -/
def releaseCharge (d : Dev) (g : Nat) : Nat :=
  35 * ((List.range 24).filter (fun k => clusterPower d (24 * g + k) == 0)).length

/-- Whether a release fits on every group; and the charges it makes. -/
def releaseFits (d : Dev) : Bool := (List.range 4).all (fun g => chargeFits d g (releaseCharge d g))
/-- The charges of a release. -/
def release (d : Dev) : Dev := (List.range 4).foldl (fun d g => when (releaseCharge d g != 0) (charge g (releaseCharge d g)) d) d

/-- The power duty moves (R591): down by 1/16 every 3 µs above the limit, up by 1/16 every 10 µs after 100 µs below 97 % of it. -/
def capStep (d : Dev) : Dev :=
  let p := d.pwr
  let now := beat d
  let calm := decide (powerAvg d * 100 < 97 * limitW d)
  let d := onPwr (fun p => { p with calmFrom := if calm then (match p.calmFrom with | some b => some b | none => some now) else none }) d
  let long := match d.pwr.calmFrom with | some b => decide (b + 100000 ≤ now) | none => false
  if limitW d < powerAvg d then
    if 2 < p.duty ∧ (p.lastDuty = 0 ∨ p.lastDuty + 3000 ≤ now) then
      let d := onPwr (fun p => { p with duty := p.duty - 1, lastDuty := now }) d
      if p.duty = 16 then onIsl (fun x => { x with capBeat := some now }) d else d
    else d
  else if p.duty < 16 ∧ long = true ∧ p.lastDuty + 10000 ≤ now ∧ releaseFits d then
    let d := release (onPwr (fun p => { p with duty := p.duty + 1, lastDuty := now }) d)
    if p.duty = 15 then onIsl (fun x => { x with capBeat := none, capLogged := false }) d else d
  else d

/-- The thermal duty moves (R593): down by 1/16 every 3 µs while throttling, up as a release afterwards. -/
def thermStep (d : Dev) : Dev :=
  let p := d.pwr
  let now := beat d
  if p.throtOn then
    if 2 < p.thermDuty ∧ (p.lastTherm = 0 ∨ p.lastTherm + 3000 ≤ now) then
      onPwr (fun p => { p with thermDuty := p.thermDuty - 1, lastTherm := now }) d
    else d
  else if p.thermDuty < 16 ∧ p.lastTherm + 10000 ≤ now ∧ releaseFits d then
    release (onPwr (fun p => { p with thermDuty := p.thermDuty + 1, lastTherm := now }) d)
  else d

/-- POWER_ESTIMATE_UPDATE (R591): the sum of the dies' estimates in W, every 1 µs. -/
def estimateUpdate (w : Nat) (d : Dev) : Dev :=
  thermStep (capStep (onPwr (fun p => { p with est := (p.est ++ [w]).drop ((p.est.length + 1) - 8) }) d))

/-- POWER_CAP (R592): the duty has stayed below 16/16 for 1 s. -/
def powerCap (d : Dev) : Dev :=
  match d.isl.capBeat with
  | some b =>
    if d.pwr.duty < 16 ∧ ¬ d.isl.capLogged ∧ b + 1000000000 ≤ beat d then
      setFld rPwrStatus 18 1 1 (islandLog 0x0109 0xFF 0xFF [] (onIsl (fun x => { x with capLogged := true }) d))
    else d
  | none => d

/-- POWER_LIMIT_WRITE (R531, R599): limit_w is clamped; `fw` says that a control core wrote. -/
def powerLimitWrite (val : Nat) (fw : Bool) (d : Dev) : Dev :=
  let otp := (otpCfg d).powerW
  let v := bitsOf val 0 12
  setFld rPwrLimit 0 12 (max 1200 (min v otp)) (when (fw && decide (otp < v)) (fwBound 3 0) d)

/-! ## Sensors (R534, R593, R61) -/

/-- The hottest compute-die sensor and its reading in quarters of a degree. -/
def hottest (d : Dev) : Nat × Int :=
  (List.range 80).foldl (fun a k => if a.2 < tempQ d k then (k, tempQ d k) else a) (0, tempQ d 0)

/-- tj_throttle and tj_warn in force, in degrees (Table 19.9). -/
def tjThrottle (d : Dev) : Nat := max 85 (min 110 (regFld d rThermCfg 0 8))
/-- tj_warn in force. -/
def tjWarn (d : Dev) : Nat := min (tjThrottle d) (regFld d rThermCfg 8 8)

/-- The thresholds, each with 3 °C of hysteresis (R593). -/
def thermCheck (d : Dev) : Dev :=
  let t := (hottest d).2
  let site := compSite ((hottest d).1 / 5)
  let w : Int := 4 * tjWarn d
  let x : Int := 4 * tjThrottle d
  let enter := decide (w ≤ t) && !d.pwr.warnOn
  let d := onPwr (fun p => { p with
    warnOn := if w ≤ t then true else if t < w - 12 then false else p.warnOn
    throtOn := if x ≤ t then true else if t < x - 12 then false else p.throtOn }) d
  thermStep (when enter (fun d => setFld rThermStatus 14 1 1 (islandLog 0x0118 site 0xFF [] d)) d)

/-- recal_due of every port and link whose edge die has moved by 25 °C since its last calibration (R61, R496). -/
def recalCheck (d : Dev) : Dev :=
  let far (die : Nat) (t : Int) : Bool := decide (25 ≤ (edgeTemp d die - t).natAbs)
  let d' := onEdge (fun e => { e with phys := tmap {} (fun p x => if x.everCal && far (p / 8) x.calTemp then { x with recalDue := true } else x) e.phys }) d
  onFab (fun f => { f with links := tmap {} (fun n l => if l.calibrated && far (n / 5) l.calTemp then { l with recalDue := true } else l) f.links }) d'

/-- A table that lists the elements of `l` from key 0, the default left out. -/
def tabOf {α : Type} [DecidableEq α] (dflt : α) (l : List α) : Tab α :=
  (l.zip (List.range l.length)).foldl (fun t e => tput dflt t e.2 e.1) []

/-- SENSOR_SAMPLE (R534): the 112 temperatures in quarters of a degree and the 40 voltages in mV, every 1 ms. -/
def sensorSample (temps : List Int) (volts : List Nat) (d : Dev) : Dev :=
  recalCheck (thermCheck (onIsl (fun x => { x with temps := tabOf 0 temps, volts := tabOf 0 volts }) d))

end Sys2Proof.Machine
end

