-- ==== Sys2Proof/Machine/Boot.lean ====
section
/-! DEFINITION. Resets, boot and the choice of a firmware slot (R540, R541, R594, R600 to R614). -/

namespace Sys2Proof.Machine

/-- The device with its boot changed. -/
def onBoot (f : Boot → Boot) (d : Dev) : Dev := { d with boot := f d.boot }
/-- The device with OTP changed. -/
def onOtp (f : Otp → Otp) (d : Dev) : Dev := { d with otp := f d.otp }

/-! ## Life cycle and configuration (R615 to R618) -/

/-- Bit k of the life-cycle thermometer, by majority of its three copies (R615). -/
def lifeBit (o : Otp) (k : Nat) : Bool := decide (2 ≤ (o.life.filter (fun c => bitOf c k)).length)

/-- The burned bits of the thermometer. -/
def lifeCount (o : Otp) : Nat := ((List.range 5).filter (lifeBit o)).length

/-- The life-cycle state (R618): 0 BLANK, 1 MANUFACTURE, 2 OWNED, 3 RETURN, 4 VOID; a burned bit above an unburned one is VOID. -/
def lifeState (o : Otp) : Nat :=
  if (List.range 4).any (fun k => lifeBit o (k + 1) && !lifeBit o k) then 4 else min 4 (lifeCount o)

/-- The life-cycle state of the device. -/
def lcState (d : Dev) : Nat := lifeState d.otp

/-- The generation in force from the next reset on (R617): the highest valid slot. -/
def nextGen (o : Otp) : Option Nat :=
  (List.range 4).foldl (fun a g => if (tget {} o.gens g).valid then some g else a) none

/-! ## Firmware bundles (R540, R541) -/

/-- The bytes of a slot: 0 is A, 1 is B. -/
def slotOf (d : Dev) (s : Nat) : Tab Byte := if s = 0 then d.isl.slotA else d.isl.slotB
/-- `n` bytes of a slot from `a`. -/
def fwBytes (d : Dev) (s a n : Nat) : List Byte := tbytes (slotOf d s) a n
/-- The floor (R540): burned bits of the anti-rollback thermometer. -/
def floorOf (d : Dev) : Nat := d.otp.fuses
/-- The security_version of the bundle in a slot. -/
def slotSv (d : Dev) (s : Nat) : Nat := leNat (fwBytes d s 5 1)
/-- The length of the bundle in a slot. -/
def slotLen (d : Dev) (s : Nat) : Nat := leNat (fwBytes d s 8 4)
/-- Component k of a bundle: kind, offset, length and digest. -/
def slotComp (d : Dev) (s k : Nat) : Nat × Nat × Nat × List Byte :=
  let e := fwBytes d s (64 + 64 * k) 64
  (fldOf e 0 1, fldOf e 4 4, fldOf e 8 4, e.drop 16)

/-- The header and the component entries are laid out as R540 says. -/
def bundleShape (d : Dev) (s : Nat) : Bool :=
  let h := fwBytes d s 0 64
  let n := slotLen d s
  let cs := (List.range 5).map (slotComp d s)
  fldOf h 0 4 == 0x46573532 && fldOf h 4 1 == 1 && decide (fldOf h 5 1 ≤ 64) && fldOf h 6 2 == 5
    && decide (384 + 208 ≤ n ∧ n ≤ 28 * 2 ^ 20) && zeroIn h 16 64
    && (List.range 5).all (fun k => (cs.filter (fun c => c.1 == k)).length == 1)
    && (List.range 5).all (fun k => let e := fwBytes d s (64 + 64 * k) 64; zeroIn e 1 4 && zeroIn e 12 16)
    && cs.all (fun c => decide (384 ≤ c.2.1 ∧ c.2.1 + c.2.2.1 ≤ n - 208)
        && cs.all (fun e => e.1 == c.1 || decide (c.2.1 + c.2.2.1 ≤ e.2.1 ∨ e.2.1 + e.2.2.1 ≤ c.2.1)))

/-- The final signature block: its key is a firmware key that is not revoked, and it covers every preceding byte. -/
def bundleSigned (d : Dev) (s : Nat) : Bool :=
  let n := slotLen d s
  let g := fwBytes d s (n - 208) 208
  let key := (g.drop 8).take 97
  let k := fldOf g 0 1
  decide (k ≤ 3) && !bitOf d.otp.fwRevoked k && zeroIn g 1 8 && zeroIn g 105 112
    && Config.sha384 key == lget [] d.otp.fwKeys k
    && Config.ecdsaP384 key (Config.sha384 (fwBytes d s 0 (n - 208))) ((g.drop 112).take 96)

/-- Whether the bundle in a slot is valid (R540). -/
def bundleValid (d : Dev) (s : Nat) : Bool :=
  bundleShape d s && bundleSigned d s && decide (floorOf d ≤ slotSv d s)
    && (List.range 5).all (fun k =>
        let c := slotComp d s k
        Config.sha384 (fwBytes d s c.2.1 c.2.2.1) == c.2.2.2)

/-- CHOOSE_SLOT (R541): the slot to boot, with what it logs and writes. -/
def chooseSlot (d : Dev) : Option Nat × Dev :=
  let act := d.isl.active % 2
  let r : Nat × Dev :=
    if d.isl.fwPending then
      if d.isl.attempts = 0 then
        (act, islandLog 0x010D 0xFF 0xFF [] (onIsl (fun x => { x with fwPending := false }) d))
      else (1 - act, onIsl (fun x => { x with attempts := x.attempts - 1 }) d)
    else (act, d)
  let first := r.1
  if bundleValid d first then (some first, r.2)
  else
    let d2 := islandLog 0x010E 0xFF 0xFF (toLe 1 first) r.2
    if bundleValid d (1 - first) then (some (1 - first), d2)
    else (none, islandLog 0x010E 0xFF 0xFF (toLe 1 (1 - first)) d2)

/-! ## Boot (R609 to R614) -/

/-- A boot stops (R614). -/
def bootFail (cause : Nat) : Dev → Dev := onBoot (fun b => { b with failed := true, failCause := cause })

/-- Whether a sensor holds the boot (R609). -/
def tooHot (d : Dev) : Bool := (List.range 112).any (fun k => decide (420 ≤ tempQ d k))

/-- The rest of step 1 once nothing holds it: the slot is chosen and the first rail enabled. -/
def bootSlot (d : Dev) : Dev :=
  match chooseSlot d with
  | (none, d) => bootFail 1 d
  | (some s, d) =>
    let sv := slotSv d s
    let b := leNat (fwBytes d s 12 4)
    onBoot (fun x => { x with rails := 1, railsGood := 0 }) (onIsl (fun x => { x with running := some s, runSv := sv, build := b }) d)

/-- RETURN_WIPE, step 1 (R623): every key digest of the owner reads as all ones from now on. -/
def wipeKeys : Dev → Dev := onOtp (fun o => { o with
  ownerRoot := List.replicate 48 0xFF
  gens := tmap {} (fun _ g => if g.used then { g with cfg := { g.cfg with keys := List.replicate 4 (List.replicate 48 0xFF) } } else g) o.gens })

/-- Step 1 begins (R609, R611, R615, R618, R623): life cycle, configuration, thermal check, then the slot and the rails. A BLANK
or VOID device goes no further. -/
def bootBegin (d : Dev) : Dev :=
  let gen := nextGen d.otp
  let now := beat d
  let d := onBoot (fun b => { b with step := 1, begun := now, gen, rails := 0, railsGood := 0, failed := false, failCause := 0 }) d
  if lcState d = 0 ∨ lcState d = 4 then d
  else
    let d := if lcState d = 3 ∧ ¬ d.otp.wipeDone then onBoot (fun b => { b with wiping := true }) (wipeKeys d) else d
    if gen.isNone then bootFail 2 (islandLog 0x010E 0xFF 0xFF [0xFF] d)
    else if tooHot d then onBoot (fun b => { b with hold := true, held := now }) d
    else bootSlot d

/-- THERMAL_HOLD_CHECK (R609): the sensors are read again; the boot goes on once all are below 105 °C. -/
def holdCheck (temps : List Int) (d : Dev) : Dev :=
  if ¬ d.boot.hold then d
  else
    let d := onIsl (fun x => { x with temps := tabOf 0 temps }) d
    let now := beat d
    if tooHot d then d else bootSlot (onBoot (fun b => { b with hold := false, begun := b.begun + (now - b.held) }) d)

/-- Whether a boot is at a step and has not stopped. -/
def bootAt (d : Dev) (k : Nat) : Bool :=
  d.boot.step == k && !d.boot.failed && !d.boot.fault && !d.boot.hold && !d.boot.inReset && !d.boot.tripped

/-- RAIL_POWER_GOOD (R610): the enabled rail is good, and the next of the eleven is enabled. -/
def railGood (d : Dev) : Dev :=
  if bootAt d 1 ∧ d.boot.railsGood < d.boot.rails then
    onBoot (fun b => { b with railsGood := b.railsGood + 1, rails := min 11 (b.rails + 1) }) d
  else d

/-- RAIL_FAILED (R610): a rail without power-good within 10 ms is disabled again, and the boot stops. -/
def railFailed (d : Dev) : Dev :=
  if bootAt d 1 ∧ d.boot.railsGood < d.boot.rails then
    let n := d.boot.railsGood
    bootFail 3 (islandLog 0x011A 0xFF n (toLe 1 n) (onBoot (fun b => { b with rails := n }) d))
  else d

/-- Whether a core's array map disagrees with the grade (R210). -/
def mapBad (d : Dev) (c : Nat) : Bool := popcount (arrayMap d c) 8 != 8 - arraysPerCore d

/-- Whether the ports or links of an edge die are all disabled in OTP (R579). -/
def ethOff (d : Dev) (i : Nat) : Bool := bitsOf (otpCfg d).portOff (8 * i) 8 == 255
/-- Whether every link of an edge die is disabled in OTP. -/
def jodOff (d : Dev) (i : Nat) : Bool := bitsOf (otpCfg d).jodonOff (5 * i) 5 == 31

/-- The wakes a boot step queues, in their order (R579, R586). -/
def bootWakes (d : Dev) : Nat → List Nat
  | 2 => [144, 145] ++ (if (otpCfg d).x1 then [146] else [])
  | 3 => (List.range 4).map (· + 124) ++ (List.range 12).map (· + 132) ++ (List.range 4).map (· + 128)
  | 4 => (List.range 4).flatMap (fun i => [112 + i] ++ (if ethOff d i then [] else [116 + i]) ++ (if jodOff d i then [] else [120 + i]))
  | 5 => (List.range 4).flatMap (fun g =>
      ((List.range 4).filter (fun n => (List.range 6).any (fun k => !domainDead d (24 * g + 6 * n + k)))).map (fun n => 96 + 4 * g + n)
        ++ (List.range 6).flatMap (fun k => ((List.range 4).map (fun n => 24 * g + 6 * n + k)).filter (fun c => !domainDead d c)))
  | _ => []

/-- ARRAY_MAP_INVALID (R210): clusters with an invalid map are excluded and logged with the core's address. -/
def checkMaps (d : Dev) : Dev :=
  ((List.range 768).filter (mapBad d)).foldl (fun d c =>
    islandLog 0x0104 (compSite (c / 48)) (c % 48) (toLe 2 c) (onPwr (fun p => { p with dead := tput false p.dead (c / 8) true }) d)) d

/-- A step begins and queues its wakes. -/
def enterStep (k : Nat) (d : Dev) : Dev :=
  let d := onBoot (fun b => { b with step := k }) d
  (bootWakes d k).foldl (fun d w => queueWake w d) d

/-- Step 6 (R611, R541, R613, R623): device-ready; a wipe ends; a pending bundle becomes the active one; FLRs that waited start. -/
def bootReady (d : Dev) : Dev :=
  let now := beat d
  let fns := d.boot.deferred
  let d := when d.boot.wiping (onOtp (fun o => { o with wipeDone := true })) d
  let d := onBoot (fun b => { b with step := 6, ready := true, wiping := false, deferred := [], bootMs := min (2 ^ 24 - 1) ((now - b.begun) / 1000000) }) d
  let d := if d.isl.fwPending ∧ d.isl.running.any (fun s => s != d.isl.active % 2) then
      islandLog 0x0113 0xFF 0xFF [] (onIsl (fun x => { x with active := 1 - x.active % 2, fwPending := false }) d)
    else d
  fns.foldl (fun d f => fnReset f d) d

/-- BOOT_STEP_DONE (R611, R614, R623): the work of the current step has ended. `bad` gives the stacks that failed training, and
`clean` that the wipe read back only zeros. -/
def bootStepDone (bad : Nat) (clean : Bool) (d : Dev) : Dev :=
  let k := d.boot.step
  let idle := d.pwr.wakes.isEmpty
  if ¬ bootAt d k then d
  else match k with
    | 1 => if d.boot.railsGood = 11 then enterStep 2 d else d
    | 2 => if idle then enterStep 3 d else d
    | 3 =>
      if ¬ idle then d
      else if bitsOf bad 0 12 ≠ 0 then
        let ms := (List.range 12).filter (fun m => bitOf bad m)
        let d := ms.foldl (fun d m => islandLog 0x0103 (storeSite (m / 3)) (m % 3) (toLe 1 m) d) d
        onBoot (fun b => { b with stackDead := true }) (bootFail 4 (packageFault d))
      else if d.boot.wiping ∧ ¬ clean then bootFail 7 (islandLog 0x0111 0xFF 0xFF [] d)
      else
        let d := (List.range 12).foldl (fun d m => modStack m (fun s => { s with trained := true }) d) d
        enterStep 4 d
    | 4 =>
      if ¬ idle then d
      else
        let now := beat d
        let d := (List.range 20).foldl (fun d n =>
          if linkState d n = 1 then modLink n (fun l => { l with since := now }) d else d) d
        enterStep 5 (checkMaps d)
    | 5 => if idle then bootReady d else d
    | _ => d

/-! ## Resets (R600 to R607) -/

/-- What a warm reset leaves (Table 20.2): the island, OTP, clocks, pins and registers marked "reset: cold"; everything else is as
after reset. A firmware update and an OTP program of the island go on (Table 20.3). -/
def warmWipe (d : Dev) : Dev :=
  { time := { d.time with nbrs := [], upLink := none, steer := 0, noLinkSince := d.time.beat }
    regs := d.regs.filter (fun e => match regSpec e.1 with | some sp => sp.level == 0 | none => false)
    hostMem := d.hostMem, out := d.out, free := d.free, nextTkt := d.nextTkt
    isl := { d.isl with nonce := none }
    maint := d.maint.filter (fun r => (r.act == 7 || r.act == 8) && r.granted)
    otp := d.otp, pins := { d.pins with sysrefLost := false }, pcie := tmap {} (fun _ p => { perst := p.perst }) d.pcie
    boot := { d.boot with
      step := 0, ready := false, hold := false, failed := false, failCause := 0, rails := 0, railsGood := 0, token := false
      fault := d.boot.tripped, wiping := false, deferred := [], gen := nextGen d.otp } }

/-- The limit after a reset is the one in OTP (Table 19.9). -/
def loadLimits (d : Dev) : Dev := setFld rPwrLimit 0 12 (otpCfg d).powerW d

/-- A warm reset with its cause (Table 20.12): 1 SYS_RST_N, 2 LIFECYCLE. -/
def warmReset (cause : Nat) (d : Dev) : Dev :=
  let d := loadLimits (warmWipe d)
  onBoot (fun b => { b with cause }) d

/-- The boot after a reset starts, unless a thermal trip or a stack failure waits for a cold reset (R594, R614). -/
def startBoot (d : Dev) : Dev :=
  if d.boot.tripped ∨ d.boot.aonLost then d else if d.boot.stackDead then bootFail 4 (onBoot (fun b => { b with step := 3 }) d) else bootBegin d

/-- What a cold reset leaves: OTP and what NOR holds, with the straps and sensors as then read. -/
def coldWipe (straps : Nat) (temps : List Int) (d : Dev) : Dev :=
  let last := d.isl.nor.getLast?
  let x : Dev := {
    hostMem := d.hostMem, out := d.out, free := d.free, otp := d.otp
    pins := { straps := straps % 64 }
    isl := {
      nor := d.isl.nor, seq := (match last with | some e => (e.seq + 1) % 2 ^ 32 | none => 0)
      trouble := d.isl.troubleNor, troubleNor := d.isl.troubleNor, slotA := d.isl.slotA, slotB := d.isl.slotB
      active := d.isl.active, fwPending := d.isl.fwPending, attempts := d.isl.attempts, temps := tabOf 0 temps }
    boot := { afterTrip := d.boot.tripped, gen := nextGen d.otp } }
  loadLimits x

/-- COLD_RESET (R600, R602): everything but OTP and what NOR holds is reset, the straps are sampled, the sensors are read, and a boot
starts. -/
def coldReset (straps : Nat) (temps : List Int) (d : Dev) : Dev := startBoot (coldWipe straps temps d)

/-- SYS_RST_N_ASSERT (R603, R606): a warm reset starts, and the device is held in it. -/
def sysRstAssert (d : Dev) : Dev :=
  if d.boot.inReset ∨ d.boot.aonLost then d
  else
    let now := beat d
    onIsl (fun x => { x with holdFrom := some now, heldLogged := false }) (onBoot (fun b => { b with inReset := true }) (warmReset 1 d))

/-- SYS_RST_N_RELEASE (R603): the warm boot starts. -/
def sysRstRelease (d : Dev) : Dev :=
  if d.boot.inReset then
    startBoot (onIsl (fun x => { x with holdFrom := none }) (onBoot (fun b => { b with inReset := false }) d))
  else d

/-- RESET_HELD (R604): once per assertion, after 5 s. -/
def resetHeld (d : Dev) : Dev :=
  match d.isl.holdFrom with
  | some b =>
    if d.boot.inReset ∧ ¬ d.isl.heldLogged ∧ b + 5000000000 ≤ beat d then
      setFld rResetCause 2 1 1 (islandLog 0x0101 0xFF 0xFF [] (onIsl (fun x => { x with heldLogged := true }) d))
    else d
  | none => d

/-- THERMAL_TRIP (R594): the rails but VDD_AON and VDD_IO18 go off, and only a cold reset leaves this state. -/
def thermalTrip (sensor : Nat) (d : Dev) : Dev :=
  if d.boot.tripped then d
  else
    islandLog 0x0108 0xFF 0xFF (toLe 1 sensor)
      (onBoot (fun b => { b with tripped := true, fault := true }) (warmWipe d))

/-- A PCIe port. -/
def pcieOf (d : Dev) (port : Nat) : PciePort := tget {} d.pcie port
/-- The device with a PCIe port changed. -/
def modPcie (port : Nat) (f : PciePort → PciePort) (d : Dev) : Dev := { d with pcie := tmod {} d.pcie port f }
/-- Whether a PCIe port is enabled: X1 by OTP. -/
def pcieEnabled (d : Dev) (port : Nat) : Bool := port == 0 || (otpCfg d).x1

/-- PORT_RESET (R601): the port's link and configuration space, its partitions, and the DMA window entries that name it. `perst`
says that PERSTx_N is asserted. -/
def portReset (port : Nat) (perst : Bool) (d : Dev) : Dev :=
  let d := modPcie port (fun p => { perst := p.perst || perst }) d
  let d := { d with numVfs := tdel d.numVfs port }
  let ents := (d.regs.filter (fun e => decide (0x4000 ≤ e.1 ∧ e.1 < 0x6000 ∧ e.1 % 16 = 12) && bitsOf e.2 3 1 == port)).map (·.1)
  let d := ents.foldl (fun d a => setFld a 0 1 0 d) d
  if d.boot.step ≠ 6 then d
  else
    let ps := (d.parts.filter (fun e => e.2.exist && e.2.fn / 64 == port)).map (fun e => (e.1, e.2.fn))
    ps.foldl (fun d e => if e.2 % 64 = 0 then startReset e.1 d else destroyPart e.1 d) d

/-- PERST_DEASSERT (R613): the port begins training. -/
def perstDeassert (port : Nat) : Dev → Dev := modPcie port (fun p => { p with perst := false })

/-- PCIE_LINK_UP (R613): after the end of step 2 and PERSTx_N deassertion the port has trained. -/
def pcieLinkUp (port : Nat) (d : Dev) : Dev :=
  if pcieEnabled d port ∧ ¬ (pcieOf d port).perst ∧ 3 ≤ d.boot.step then modPcie port (fun p => { p with linkUp := true }) d else d

/-- PCIE_CONFIG_READY (R613): the hub has built the port's configuration space. -/
def pcieReady (port : Nat) (d : Dev) : Dev :=
  if (pcieOf d port).linkUp then modPcie port (fun p => { p with built := true }) d else d

end Sys2Proof.Machine
end

