-- ==== Sys2Proof/Machine/Ports.lean ====
section
/-! DEFINITION. Ethernet ports (02_ports_parsing): receive and its checks, MAC control frames, dispatch to parsers, TX_HOLD,
link and reference events, recalibration, and the writes of port, buffer and seed registers that have rows of their own. -/

namespace Sys2Proof.Machine

/-! ## Receive (R63, R69, R76) -/

/-- The frame of a breakout port that is arriving. -/
def rxOf (d : Dev) (bp : Nat) : Option Nat := (bpOf d bp).rx

/-- The ingress pipeline of a breakout port (R47). -/
def pipeOf (bp : Nat) : Nat := bp / 8

/-- The verdict registers in force when a frame is stamped (R154). -/
def vcfgNow (d : Dev) (die : Nat) : List Nat :=
  (List.range 4).map (fun i => regVal d (rShim i)) ++ [regFld d (rDlLook die) 0 20, regFld d (rDlInline die) 0 20,
    regFld d (rHold die) 0 7, regVal d (rLookaside die)]

/-- The stamp of a new frame (R35, R66, R154): `total` bytes are to arrive. -/
def newFrame (d : Dev) (bp total : Nat) : Frame :=
  let p := bp / 4
  let mf := maxFrameOf d p
  { bp, len := min (total + 4) (mf + 1), epoch := (stampEpoch d (bp / 32)).1, tag := (stampEpoch d (bp / 32)).2
    entry := regFld d (rPortEntry p) (8 * (bp % 4)) 8, depth := parseDepth d bp, maxFrame := mf, mode := modeOf d bp
    rxBeat := beat d, rxTod := d.time.todNs % 1000000000, vcfg := vcfgNow d (bp / 32) }

/-- The items of every queue and transmission that follow frame `fid`, changed by `f`; `none` removes a queued item. -/
def mapItems (fid : Nat) (f : EItem → Option EItem) (d : Dev) : Dev :=
  let g (i : EItem) : Option EItem := if i.src = some fid then f i else some i
  onEdge (fun e => { e with
    queues := tmap {} (fun _ q => { q with items := q.items.filterMap g }) e.queues
    interDie := e.interDie.filterMap (fun x => (g x.2.2.2).map (fun i => (x.1, x.2.1, x.2.2.1, i))) }) d

/-- An item of a frame whose last byte is known: its remaining bytes, its length, and the cells it keeps (R160). -/
def wholeItem (f : Frame) (i : EItem) : EItem :=
  if i.whole then i
  else
    let bs := i.bytes ++ f.bytes.drop i.rest
    let bs := if i.cut ≠ 0 ∧ i.cut < bs.length + 4 then bs.take (i.cut - 4) else bs
    { i with bytes := bs, len := bs.length + 4, cells := cellsOf (bs.length + 4), whole := true }

/-- The transmissions that follow frame `fid`, changed by `f`, with a counter for each. -/
def mapTx (fid : Nat) (f : EItem → EItem) (c : Nat → Dev → Dev) (d : Dev) : Dev :=
  let hit := (d.edge.txNow.filter (fun e => e.2.any (fun i => i.src == some fid))).map (·.1)
  let d := onEdge (fun e => { e with txNow := tmap none (fun _ o => o.map (fun i => if i.src = some fid then f i else i)) e.txNow }) d
  forEach hit c d

/-- The end of a frame whose last byte is good (R63): its parser resumes, its flow update and hits commit, what waited on its
last byte goes on. -/
def endGood (fid : Nat) (d : Dev) : Dev :=
  let d := modFrame fid (fun f => { f with ended := true }) d
  let d := modBp (frameOf d fid).bp (fun b => { b with rx := none }) d
  let f := frameOf d fid
  let d := if f.ref = .none then d else flowCommit fid true (countHit f d)
  let d := forEach f.slow (slowDeliver f) (modFrame fid (fun f => { f with slow := [] }) d)
  let d := mapTx fid (wholeItem f) (fun _ d => d) (mapItems fid (fun i => some (wholeItem f i)) d)
  gcFrame fid (pfcCheckBp f.bp (resumeFrame fid d))

/-- A waiting deep request loses its frame (R145). -/
def abandonDeep (f : Frame) (d : Dev) : Dev :=
  match f.deepReq with
  | none => d
  | some r =>
    let die := f.bp / 32
    let q := deepOf d die r
    let d := bump .deepAbandoned die 0 d
    if q.issued then modDeep die r (fun q => { q with frame := none, held := 0 }) d
    else modDeep die r (fun _ => {}) (modFifo die (·.erase r) d)

/-- The end of a bad frame (R63, R64): dropped where no byte of it has left, ended with an inverted FCS where one has. -/
def endBad (fid : Nat) (d : Dev) : Dev :=
  let d := modFrame fid (fun f => { f with ended := true, bad := true, slow := [] }) d
  let f := frameOf d fid
  let d := modBp f.bp (fun b => { b with rx := none }) d
  let d := flowCommit fid false d
  match f.stage with
  | .waiting => dropFrame fid (onEdge (fun e => { e with pipes := tmod [] e.pipes (pipeOf f.bp) (·.erase fid) }) d)
  | .parsing => resumeFrame fid d
  | .deepWait => pfcCheckBp f.bp (dropFrame fid (abandonDeep f d))
  | .queued | .slowWait =>
    let d := mapItems fid (fun _ => none) d
    let d := mapTx fid (fun i => { i with stomp := true }) (fun bp d => bump .txStomped bp 0 d) d
    pfcCheckBp f.bp (dropFrame fid d)
  | _ => dropFrame fid d

/-- Bytes of the arriving frame (R63, R69): a frame beyond max_frame is truncated at max_frame + 1 and ended as bad. -/
def addBytes (fid : Nat) (bs : List Byte) (d : Dev) : Dev :=
  let f := frameOf d fid
  let all := f.bytes ++ bs
  if f.maxFrame < all.length + 4 then
    let d := modFrame fid (fun f => { f with bytes := all.take (f.maxFrame + 1 - 4), oversize := true }) d
    endBad fid (bump .rxOversize f.bp 0 d)
  else resumeFrame fid (modFrame fid (fun f => { f with bytes := all }) d)

/-- FRAME_RECEIVE (R35, R49, R69, R76): the first bytes of a frame of `total` bytes reach an enabled port whose link is up. -/
def frameReceive (bp total : Nat) (bytes : List Byte) (d : Dev) : Dev :=
  let b := bpOf d bp
  if ¬ bpEnabled d bp ∨ ¬ b.link ∨ b.rx.isSome then d
  else if 256 ≤ (tget [] d.edge.pipes (pipeOf bp)).length then bump .dropParseBusy bp 0 d
  else
    let fid := d.edge.nextFrame
    let d := onEdge (fun e => { e with
      nextFrame := fid + 1, frames := tput {} e.frames fid (newFrame d bp total)
      pipes := tmod [] e.pipes (pipeOf bp) (· ++ [fid]) }) d
    addBytes fid bytes (modBp bp (fun b => { b with rx := some fid, order := b.order ++ [fid] }) d)

/-- FRAME_BYTES_ARRIVE (R69). -/
def frameBytes (bp : Nat) (bytes : List Byte) (d : Dev) : Dev :=
  match rxOf d bp with
  | none => d
  | some fid => addBytes fid bytes d

/-- FRAME_END (R63): the last bytes arrive and the FCS, FEC and length checks are decided. -/
def frameEnd (bp : Nat) (bytes : List Byte) (fcsBad fecBad fecCorrected : Bool) (d : Dev) : Dev :=
  match rxOf d bp with
  | none => d
  | some fid =>
    let d := addBytes fid bytes d
    let f := frameOf d fid
    if rxOf d bp ≠ some fid then d
    else
      let d := when fecCorrected (bump .rxFecCorrected bp 0) d
      if f.bytes.length + 4 < 64 then endBad fid (bump .rxRunt bp 0 d)
      else if fecBad then endBad fid (bump .rxFecUncorrectable bp 0 d)
      else if fcsBad then endBad fid (bump .rxFcsError bp 0 d)
      else endGood fid (bumpN .rxBytes bp 0 (f.bytes.length + 4) (bump .rxFrames bp 0 d))

/-- The Beat at which a pause of `quanta` 512-bit times ends at a breakout port. -/
def pauseUntil (d : Dev) (bp quanta : Nat) : Nat := beat d + ceilDiv (quanta * 512) (rateOf d bp)

/-- The device with the queues of `bp` that pass `p` paused for `quanta` (R168); 0 unpauses. -/
def setPause (bp quanta : Nat) (p : Nat → Bool) (d : Dev) : Dev :=
  let till := if quanta = 0 then 0 else pauseUntil d bp quanta
  modBp bp (fun b => { b with pauseEnd := (List.range 16).foldl (fun t q => if p q then tput 0 t q till else t) b.pauseEnd }) d

/-- MAC_CONTROL_FRAME_RECEIVE (R49, R168): consumed by the MAC unless pause_mode is 0, when it is a frame like any other. -/
def macControl (bp : Nat) (bytes : List Byte) (d : Dev) : Dev :=
  if ¬ bpEnabled d bp ∨ ¬ (bpOf d bp).link then d
  else if pauseModeOf d bp = 0 then frameEnd bp [] false false false (frameReceive bp bytes.length bytes d)
  else
    let d := bump .rxMacCtrl bp 0 d
    let op := word16 bytes 14
    if pauseModeOf d bp = 1 ∧ op = 1 then setPause bp (word16 bytes 16) (fun _ => true) d
    else if pauseModeOf d bp = 2 ∧ op = 0x101 then
      forEach (List.range 8) (fun p d =>
        if bitOf (word16 bytes 16) p then
          setPause bp (word16 bytes (18 + 2 * p)) (fun q => regFld d (rQCfg bp q) 1 3 == p) d
        else d) d
    else d

/-- PAUSE_EXPIRE (R168): the pause of a queue has run out. -/
def pauseExpire (bp queue : Nat) (d : Dev) : Dev :=
  if tget 0 (bpOf d bp).pauseEnd queue ≤ beat d then modBp bp (fun b => { b with pauseEnd := tput 0 b.pauseEnd queue 0 }) d else d

/-- PARSER_DISPATCH (R47, R69, R76): a free parser takes the first frame of its pipeline whose first 128 bytes, or all bytes,
have arrived (a runt never is dispatched, Table 2.7); its registers are zero and its program starts at entry_s × 64. -/
def parserDispatch (pa : Nat) (d : Dev) : Dev :=
  let pipe := pa / 80
  if (parserOf d pa).frame.isSome then d
  else
    match (tget [] d.edge.pipes pipe).find? (fun fid =>
      (frameOf d fid).ended || decide (128 ≤ (frameOf d fid).bytes.length)
        || decide (64 ≤ (frameOf d fid).len ∧ (frameOf d fid).len - 4 ≤ (frameOf d fid).bytes.length)) with
    | none => d
    | some fid =>
      let d := onEdge (fun e => { e with pipes := tmod [] e.pipes pipe (·.erase fid) }) d
      let d := modFrame fid (fun f => { f with stage := .parsing }) d
      setParser pa { frame := some fid, pc := (frameOf d fid).entry * 64 } d

/-! ## TX_HOLD and links (R56 to R62, R176) -/

/-- The breakout ports of a package port. -/
def bpsOf (p : Nat) : List Nat := (List.range 4).map (4 * p + ·)

/-- A breakout port enters TX_HOLD; a new cause does not restart its timeout (R56, R58). -/
def enterHold (bp : Nat) (d : Dev) : Dev :=
  modBp bp (fun b => if b.txHold then { b with calibrated := false, idleFrom := none }
    else { b with txHold := true, holdFrom := beat d, calibrated := false, idleFrom := none }) d

/-- The lanes of a breakout port under a breakout (R46). -/
def lanesOf (brk s : Nat) : List Nat :=
  match brk with
  | 0 => if s = 0 then [0, 1, 2, 3] else []
  | 1 => if s = 0 then [0, 1] else if s = 1 then [2, 3] else []
  | _ => [s]

/-- Whether all lanes of a breakout port are locked. -/
def lanesLocked (d : Dev) (bp : Nat) : Bool :=
  (lanesOf (breakoutOf d bp) (bp % 4)).all (fun l => bitOf (physOf d (bp / 4)).laneLock l)

/-- Discard every frame of a breakout port's queues, counted in drop_link_down (R58, R176). -/
def discardQueues (bp : Nat) (d : Dev) : Dev :=
  forEach (List.range 16) (fun q d =>
    let its := (queueOf d bp q).items
    let d := modQueue bp q (fun e => if e.items.isEmpty then e else { e with items := [], touched := true }) d
    forEach its (fun i d =>
      let d := bump .dropLinkDown bp 0 d
      let d := match i.src with | some fid => gcFrame fid d | none => d
      pfcCheckBp i.inBp d) d) d

/-- The fields of EDG_PORT_CFG that a link that is up holds back (R53): breakout, media, mode, ref_sel, pause_mode. -/
def heldMask : Nat := 0xDFFF

/-- A breakout port takes the configuration that was held for it (R9, R53). -/
def applyHeld (bp : Nat) (d : Dev) : Dev :=
  modBp bp (fun b => if b.disabled then b else { b with cfg := regVal d (rPortCfg (bp / 4)) &&& heldMask }) d

/-- The frame in transmission on a breakout port is ended with an inverted FCS (R176). -/
def stompTx (bp : Nat) (d : Dev) : Dev :=
  match txOf d bp with
  | none => d
  | some i =>
    let d := emit (.frame bp i.bytes true) (bump .txStomped bp 0 d)
    let d := onEdge (fun e => { e with txNow := tput none e.txNow bp none, txQueue := tput 0 e.txQueue bp 0 }) d
    let d := match i.src with | some fid => gcFrame fid d | none => d
    pfcCheckBp i.inBp d

/-- A breakout port's link goes down (R9, R59, R176): a frame that was arriving ends as a bad frame, one being transmitted is
stomped, held configuration applies, and unless the port is in TX_HOLD its queues are discarded. -/
def takeDown (bp : Nat) (d : Dev) : Dev :=
  if ¬ (bpOf d bp).link then d
  else
    let d := match rxOf d bp with | some fid => endBad fid d | none => d
    let d := stompTx bp (modBp bp (fun b => { b with link := false, idleFrom := none }) d)
    let d := applyHeld bp d
    if (bpOf d bp).txHold then d else modBp bp (fun b => { b with discarding := true }) (discardQueues bp d)

/-- Whether any breakout port of a package port has its link up. -/
def anyLink (d : Dev) (p : Nat) : Bool := (bpsOf p).any (fun bp => (bpOf d bp).link)

/-- Calibration of a port's lanes starts: every enabled breakout port enters TX_HOLD (R56, R59). -/
def startCal (p : Nat) (d : Dev) : Dev :=
  let d := modPhys p (fun x => { x with calBusy := true }) d
  forEach (bpsOf p) (fun bp d => if bpEnabled d bp then enterHold bp d else d) d

/-- A forced recalibration (R62): each breakout port enters TX_HOLD as its link is taken down, then calibration starts. -/
def forcedRecal (p : Nat) (d : Dev) : Dev :=
  let d := forEach (bpsOf p) (fun bp d => if (bpOf d bp).link then takeDown bp (enterHold bp d) else d) d
  startCal p d

/-- LANE_LOCK_LOSS (R56): a lane's synthesiser loses lock or starts calibration; the breakout port that uses the lane enters
TX_HOLD with its queues kept. -/
def laneLockLoss (p lane : Nat) (d : Dev) : Dev :=
  let d := modPhys p (fun x => { x with laneLock := setBits x.laneLock lane 1 0 }) d
  forEach (bpsOf p) (fun bp d =>
    if (lanesOf (breakoutOf d bp) (bp % 4)).contains lane ∧ bpEnabled d bp then takeDown bp (enterHold bp d) else d) d

/-- CALIBRATION_DONE (R56, R61): the lanes of a port are locked and calibrated at the die's temperature now. -/
def calibrationDone (p : Nat) (d : Dev) : Dev :=
  let d := modPhys p (fun x => { x with calBusy := false, recalDue := false, everCal := true, laneLock := 15, calTemp := edgeTemp d (p / 8) }) d
  forEach (bpsOf p) (modBp · (fun b => if b.txHold then { b with calibrated := true } else b)) d

/-- LINK_UP (R54, R56): a link comes up once its lanes are locked and calibrated; the PCS then sends idles. -/
def linkUp (bp : Nat) (d : Dev) : Dev :=
  if bpEnabled d bp ∧ lanesLocked d bp ∧ ¬ (physOf d (bp / 4)).calBusy then
    modBp bp (fun b => { b with link := true, discarding := false, idleFrom := some (beat d) }) d
  else d

/-- TX_HOLD_IDLES_DONE (R56): at least 1 µs of idles after link up, TX_HOLD ends. -/
def holdIdlesDone (bp : Nat) (d : Dev) : Dev :=
  let b := bpOf d bp
  match b.idleFrom with
  | some t =>
    if b.txHold ∧ b.link ∧ b.calibrated ∧ lanesLocked d bp ∧ t + 1000 ≤ beat d then modBp bp (fun b => { b with txHold := false }) d else d
  | none => d

/-- TX_HOLD_TIMEOUT (R58): hold_timeout has expired; the TX_HOLD queue is discarded and the port leaves TX_HOLD. -/
def holdTimeout (bp : Nat) (d : Dev) : Dev :=
  let b := bpOf d bp
  let t := regFld d (rPortTxhold (bp / 4)) 16 16
  if b.txHold ∧ t ≠ 0 ∧ b.holdFrom + 100000 * t ≤ beat d then modBp bp (fun b => { b with txHold := false }) (discardQueues bp d)
  else d

/-- EGRESS_DISCARD_DONE (R59, R61, R176): the discard has completed; a recalibration that is due on a port with no link up
starts. -/
def discardDone (bp : Nat) (d : Dev) : Dev :=
  if (bpOf d bp).discarding then
    let p := bp / 4
    let d := modBp bp (fun b => { b with discarding := false }) d
    if (physOf d p).recalDue ∧ ¬ anyLink d p ∧ ¬ (physOf d p).calBusy then startCal p d else d
  else d

/-- The transmit reference a package port uses: ref_sel, or the other one after a failover (R60). -/
def refOf (d : Dev) (p : Nat) : Nat := ((bpOf d (4 * p)).cfg / 4096 % 2 + (physOf d p).refUse) % 2

/-- TX_REF_LOST (R60): the ports of a die on this reference lose lock; with ref_failover they relock to the other. -/
def txRefLost (die ref : Nat) (d : Dev) : Dev :=
  let d := onEdge (fun e => { e with refLost := tput false e.refLost (2 * die + ref) true }) d
  forEach ((List.range 8).map (8 * die + ·)) (fun p d =>
    if refOf d p ≠ ref then d
    else
      let d := setFld (rPortStatus p) 16 1 1 (modPhys p (fun x => { x with laneLock := 0 }) d)
      if regFld d (rPortCfg p) 13 1 = 1 then
        let d := modPhys p (fun x => { x with refUse := 1 - x.refUse }) d
        forEach (bpsOf p) (fun bp d => if bpEnabled d bp then takeDown bp (enterHold bp d) else d) d
      else
        let d := modPhys p (fun x => { x with refLost := true }) d
        forEach (bpsOf p) (fun bp d => takeDown bp d) d) d

/-- TX_REF_RETURN (R60): a port that stayed down for want of the reference enters TX_HOLD to relock. -/
def txRefReturn (die ref : Nat) (d : Dev) : Dev :=
  let d := onEdge (fun e => { e with refLost := tput false e.refLost (2 * die + ref) false }) d
  forEach ((List.range 8).map (8 * die + ·)) (fun p d =>
    if (physOf d p).refLost ∧ refOf d p = ref then
      forEach (bpsOf p) (fun bp d => if bpEnabled d bp then enterHold bp d else d)
        (modPhys p (fun x => { x with refLost := false }) d)
    else d) d

/-! ## Register writes with rows of their own -/

/-- Whether a value of EDG_PORT_CFG holds a reserved value that affects breakout port s (R53). -/
def cfgReserved (v s : Nat) : Bool :=
  bitsOf v 0 2 == 3 || bitsOf v 2 2 == 3 || bitsOf v (4 + 2 * s) 2 == 3 || bitsOf v 14 2 == 3

/-- PORT_CFG_WRITE (R51 to R53, R56): at once for breakout ports whose link is down, held for those whose link is up. -/
def portCfgWrite (p val : Nat) (d : Dev) : Dev :=
  let old := regVal d (rPortCfg p)
  let d := setReg (rPortCfg p) (val &&& 0xF7FFFF) d
  let d := when ((List.range 4).any (cfgReserved val)) (setFld (rPortStatus p) 15 1 1) d
  forEach (List.range 4) (fun s d =>
    let bp := 4 * p + s
    let was := bitOf old (20 + s) && provided d bp
    let d := modBp bp (fun b => { b with disabled := cfgReserved val s }) d
    let brk := breakoutOf d bp
    let d := if (bpOf d bp).link then d else applyHeld bp d
    if bpEnabled d bp then (if !was || brk != breakoutOf d bp then enterHold bp d else d)
    else
      let d := modBp bp (fun b => { b with txHold := false }) d
      if (bpOf d bp).link then takeDown bp d else discardQueues bp d) d

/-- PORT_MAC_WRITE (R664): a write of EDG_PORT_MAC_HI_s makes the held mac_lo and the new mac_hi the address, or is rejected
outside the OTP source-MAC block. `fw` says that a control core wrote. -/
def portMacWrite (p s val : Nat) (fw : Bool) (d : Dev) : Dev :=
  let bp := 4 * p + s
  let a := macLoOf d bp + val % 65536 * 2 ^ 32
  if macInBlock d a then onEdge (fun e => { e with macs := tput none e.macs bp (some a) }) d
  else when fw (fwBound 2 4) (setFld (rPortStatus p) 17 1 1 d)

/-- BUFFER_CFG_WRITE (R158): hold_mib, reserved, headroom and pfc_en take effect unless the shared region would fall below
8 MiB; a discarded write sets buf_cfg_reject. -/
def bufferCfgWrite (addr val : Nat) (d : Dev) : Dev :=
  let die := (addr - edgBase 0) / 0x400000
  let o := (addr - edgBase 0) % 0x400000
  let isBuf := o == 0x3000C || (decide (0x40000 ≤ o ∧ o < 0x48000) && (o % 0x400 == 0x108 || (decide (o % 0x400 < 0x100) && o % 16 == 8)))
  match regSpec addr with
  | some sp =>
    if isBuf then
      let d' := setReg addr (plainWrite sp (regVal d addr) val) d
      if sharedOk d' die then d' else setFld (rBufStatus die) 17 1 1 d
    else d
  | none => d

/-- RULE_SEED_WRITE (R117): accepted only while the die's rule SRAM is empty. -/
def ruleSeedWrite (die val : Nat) (d : Dev) : Dev :=
  if tany (fun k r => k / 2 ^ 20 == die && r.used) d.edge.rules then setFld (rRuleStatus die) 25 1 1 d
  else setReg (rRuleSeed die) (val % 2 ^ 32) d

/-- FLOW_SEED_WRITE (R117): accepted only while Ei's flow table and cache are empty. -/
def flowSeedWrite (die val : Nat) (d : Dev) : Dev :=
  if tany (fun k e => k / 2 ^ 23 == die && e.valid) d.edge.flowTab || tany (fun k w => k / 65536 == die && w.entry.valid) d.edge.fcache
  then setFld (rFlowStatus die) 28 1 1 d
  else setReg (rFlowSeed die) (val % 2 ^ 32) d

/-- FRAME_RECEIVE. -/
def execFrameReceive (bp total : Nat) (bytes : List Byte) (s : State) := run (.frameReceive bp total bytes) (frameReceive bp total bytes) s
/-- FRAME_BYTES_ARRIVE. -/
def execFrameBytesArrive (bp : Nat) (bytes : List Byte) (s : State) := run (.frameBytesArrive bp bytes) (frameBytes bp bytes) s
/-- FRAME_END. -/
def execFrameEnd (bp : Nat) (bytes : List Byte) (fcsBad fecBad fecCorrected : Bool) (s : State) :=
  run (.frameEnd bp bytes fcsBad fecBad fecCorrected) (frameEnd bp bytes fcsBad fecBad fecCorrected) s
/-- MAC_CONTROL_FRAME_RECEIVE. -/
def execMacControlFrameReceive (bp : Nat) (bytes : List Byte) (s : State) := run (.macControlFrameReceive bp bytes) (macControl bp bytes) s
/-- PAUSE_EXPIRE. -/
def execPauseExpire (bp queue : Nat) (s : State) := run (.pauseExpire bp queue) (pauseExpire bp queue) s
/-- PARSER_DISPATCH. -/
def execParserDispatch (pa : Nat) (s : State) := run (.parserDispatch pa) (parserDispatch pa) s
/-- LANE_LOCK_LOSS. -/
def execLaneLockLoss (p lane : Nat) (s : State) := run (.laneLockLoss p lane) (laneLockLoss p lane) s
/-- CALIBRATION_DONE. -/
def execCalibrationDone (p : Nat) (s : State) := run (.calibrationDone p) (calibrationDone p) s
/-- LINK_UP. -/
def execLinkUp (bp : Nat) (s : State) := run (.linkUp bp) (linkUp bp) s
/-- TX_HOLD_IDLES_DONE. -/
def execTxHoldIdlesDone (bp : Nat) (s : State) := run (.txHoldIdlesDone bp) (holdIdlesDone bp) s
/-- TX_HOLD_TIMEOUT. -/
def execTxHoldTimeout (bp : Nat) (s : State) := run (.txHoldTimeout bp) (holdTimeout bp) s
/-- LINK_DOWN. -/
def execLinkDown (bp : Nat) (s : State) := run (.linkDown bp) (takeDown bp) s
/-- EGRESS_DISCARD_DONE. -/
def execEgressDiscardDone (bp : Nat) (s : State) := run (.egressDiscardDone bp) (discardDone bp) s
/-- TX_REF_LOST. -/
def execTxRefLost (die ref : Nat) (s : State) := run (.txRefLost die ref) (txRefLost die ref) s
/-- TX_REF_RETURN. -/
def execTxRefReturn (die ref : Nat) (s : State) := run (.txRefReturn die ref) (txRefReturn die ref) s

end Sys2Proof.Machine
end

