-- ==== Sys2Proof/Machine/Train.lean ====
section
/-! DEFINITION. Training in service (11_in_service_training): TRAIN_STEP, the arithmetic of an update, its caps, and labelled
feedback. -/

namespace Sys2Proof.Machine

/-! ## Examples and feedback (R365 to R368) -/

/-- Bytes of an example record with `n` features (R365). -/
def recordLen (n : Nat) : Nat := ceilDiv (16 + 2 * n) 64 * 64

/-- The label of a feedback record (R366): the code as an unsigned integer, or its bits read as FP16 and widened. -/
def labelValue (kind code : Nat) : Nat :=
  if kind = 0 then fp32OfInt (code % 65536) 0 else fpRound 15 (fmtVal 12 (code % 65536) 0)

/-- The record that a request for a feedback context leaves (Table 11.5). -/
def feedbackRecord (f : FbSpec) (q : DeepReq) : List Byte :=
  let b := toLe 8 q.rxTime ++ toLe 4 (labelValue f.labelKind q.label) ++ toLe 3 q.userTag ++ toLe 1 1 ++ q.feats.flatMap (toLe 2)
  b ++ zeroBytes (recordLen q.feats.length - b.length)

/-- The device with a deep request changed. -/
def answerReq (die r : Nat) (a : Nat × Nat × Nat × List Nat) : Dev → Dev :=
  onEdge (fun e => { e with deep := tmod {} e.deep (65536 * die + r) (fun q => { q with arrived := true, ans := some a }) })

/-- A request for a feedback context appends its record (R367): a full buffer keeps its records, a target that is gone or has no
train section gives ERROR. -/
def appendFeedback (die r : Nat) (q : DeepReq) (f : FbSpec) (d : Dev) : Dev :=
  if ¬ (ctxOf d f.target).exist ∨ ¬ (ctxVer d f.target q.tag).hasTrain then answerReq die r (3, 0, 0, []) d
  else
    let full := decide (f.capacity ≤ (ctxOf d q.context).buf.recs.length)
    let d := if full then bump .fbDropped q.context 0 d
      else bump .fbAppended q.context 0 (modCtx q.context (fun x => { x with buf := { recs := x.buf.recs ++ [feedbackRecord f q] } }) d)
    answerReq die r (0, f.verdict, 0, List.replicate 8 0) d

/-- INFERENCE_REQUEST (R146, R367, R582): a cluster receives an issued request: one that it cannot start before D expires, one of a
feedback context becomes a record, any other is there to be evaluated. A cluster that does not run is asked for first. -/
def inferenceRequest (die r : Nat) (d : Dev) : Dev :=
  let q := tget {} d.edge.deep (65536 * die + r)
  if ¬ q.used ∨ ¬ q.issued ∨ q.arrived ∨ frozenCluster d q.cluster then d
  else if q.deadline < beat d then answerReq die r (1, 0, 0, []) d
  else if clusterPower d q.cluster ≠ 0 then wakeRequest q.cluster d
  else
    let v := ctxVer d q.context q.tag
    if ¬ (ctxOf d q.context).exist ∨ ¬ v.present then answerReq die r (3, 0, 0, []) d
    else match v.fb with
      | some f => appendFeedback die r q f d
      | none => onEdge (fun e => { e with deep := tmod {} e.deep (65536 * die + r) (fun q => { q with arrived := true }) }) d

/-! ## The train section -/

/-- A field of a version's train section (Table 11.1). -/
def trainFld (v : CtxVersion) (off n : Nat) : Nat := fldOf v.train.bytes off n

/-- The tensors of a train section (Table 11.2): kind, format, ref, rows, row length. -/
def tensorsOf (v : CtxVersion) : List (Nat × Nat × Nat × Nat × Nat) :=
  (List.range (trainFld v 28 2)).map (tensorAt v.train.bytes)

/-- Whether a tensor keeps a BF16 master copy (R351). -/
def hasMaster (v : CtxVersion) (x : Nat × Nat × Nat × Nat × Nat) : Bool := bitOf (trainFld v 3 1) 0 && x.1 == 0 && x.2.1 != 13

/-- Rows of codes for a tensor. -/
def zeroRows (x : Nat × Nat × Nat × Nat × Nat) : List (List Nat) := List.replicate x.2.2.2.1 (List.replicate x.2.2.2.2 0)

/-- The value of a code with an exponent. -/
def codeVal (fmt c : Nat) (e : Int) : FVal := vScale (fmtVal fmt c 0) e

/-- The state of tensor `x` of a version no step has trained: leaves are the image's, dense weights stand where the toolchain's
layout puts them (`init`: rows of an exponent, if the tensor is scaled, and codes), the master copy is the weights' values, the
moments are zero. -/
def firstState (v : CtxVersion) (x : Nat × Nat × Nat × Nat × Nat) (init : List (Option Int × List Nat)) : TState :=
  if x.1 = 1 then
    { w := [(lget {} v.shares x.2.2.1).leaves], m1 := zeroRows x, m2 := zeroRows x, m1Exp := [0], m2Exp := [0] }
  else
    let rows := (init.map (fun r => (r.2 ++ List.replicate x.2.2.2.2 0).take x.2.2.2.2)).take x.2.2.2.1
    let w := rows ++ List.replicate (x.2.2.2.1 - rows.length) (List.replicate x.2.2.2.2 0)
    let scaled := init.all (fun r => r.1.isSome) && !init.isEmpty
    let e (k : Nat) : Int := if scaled then ((lget (none, []) init k).1).getD 0 else 0
    { w, wExp := if scaled then (List.range x.2.2.2.1).map e else []
      master := if hasMaster v x then (w.zip (List.range w.length)).map (fun r => r.1.map (fun c => fpRound 13 (codeVal x.2.1 c (e r.2)))) else []
      m1 := zeroRows x, m2 := zeroRows x, m1Exp := List.replicate x.2.2.2.1 0, m2Exp := List.replicate x.2.2.2.1 0 }

/-- The trained state of a version, or what it is before its first step. -/
def stateOf (v : CtxVersion) (init : List (List (Option Int × List Nat))) : List TState :=
  if v.tstate.isEmpty then ((tensorsOf v).zip (List.range (tensorsOf v).length)).map (fun x => firstState v x.1 (lget [] init x.2)) else v.tstate

/-! ## TRAIN_STEP (R352 to R355) -/

/-- The version that a TRAIN_STEP looks at: STAGING's, else CURRENT's. -/
def trainVer (d : Dev) (c : Nat) : CtxVersion :=
  let s := match d.ep.stage with | some (_, t) => ctxVer d c t | none => {}
  if s.present then s else ctxVer d c d.ep.curTag

/-- The feedback section that a feedback context runs with. -/
def feedsOf (d : Dev) (c : Nat) : Option FbSpec := (trainVer d c).fb

/-- Whether lr is NaN, infinite or negative (Table 11.3). -/
def lrBad (lr : Nat) : Bool := !f32Finite lr || vLt (f32Val lr) (.fin false 0 0)

/-- Why a TRAIN_STEP is refused (Table 11.3), its fork aside. -/
def trainRefused (d : Dev) (c : Cmd) : Option Status :=
  let f := cmdFld c
  let id := f 8 2
  let fb := f 26 2
  let v := trainVer d id
  let p := cmdPart d c
  let feed := f 24 1 == 1
  if ¬ (ctxOf d id).exist ∨ (feed ∧ ¬ (ctxOf d fb).exist) then some .noContext
  else if (ctxOf d id).owner ≠ p ∨ (feed ∧ (ctxOf d fb).owner ≠ p)
      ∨ (¬ feed ∧ ¬ dmaOk d (cmdFn c) (f 40 8) (f 28 4 * recordLen v.train.nFeatures) false) then some .accessDenied
  else if (v.present ∧ (¬ v.hasTrain ∨ trainFld v 32 4 < f 28 4)) ∨ f 28 4 = 0 ∨ lrBad (f 32 4)
      ∨ (feed ∧ (feedsOf d fb).all (fun x => x.target != id)) then some .invalidField
  else if v.present ∧ vLt (f32Val (trainFld v 4 4)) (f32Val (f 32 4)) then some .invalidField
  else if d.ep.stage.isNone ∨ (f 12 4 ≠ 0 ∧ ¬ d.ep.stage.any (fun s => s.1 == f 12 4)) ∨ ¬ v.present then some .epochStale
  else none

/-- Whether the refusal of a TRAIN_STEP is that of its learning rate (Table 11.3, order 4). -/
def lrRefused (d : Dev) (c : Cmd) : Bool :=
  let v := trainVer d (cmdFld c 8 2)
  trainRefused d c == some .invalidField && v.present && v.hasTrain && decide (1 ≤ cmdFld c 28 4 ∧ cmdFld c 28 4 ≤ trainFld v 32 4)
    && !lrBad (cmdFld c 32 4) && !(cmdFld c 24 1 == 1 && (feedsOf d (cmdFld c 26 2)).all (fun x => x.target != cmdFld c 8 2))

/-- TRAIN_FORK (R355): STAGING's version of a context becomes a copy of CURRENT's, placed on the bound clusters. -/
def trainFork (t id tag : Nat) (d : Dev) : Dev :=
  let v := { ctxVer d id d.ep.curTag with vid := t }
  let d := placeShares id v (setVersion id tag v d)
  if v.hasRes then forEach (ctxOf d id).clusters (modCluster · (fun k => { k with reload := k.reload ++ [t] })) d else d

/-- Whether STAGING has a version of a context of its own (R355, R400). -/
def ownStaging (d : Dev) (id tag : Nat) : Bool :=
  (ctxVer d id tag).present && (ctxVer d id tag).vid != (ctxVer d id d.ep.curTag).vid

/-- TRAIN_STEP starts (R352, R355, R368). `aux` keeps bytes written, the epoch trained, the examples used and n2. -/
def trainStart (t : Nat) (fits : Bool) (init : List (List (Option Int × List Nat))) (c : Cmd) (d : Dev) : Dev :=
  let id := cmdFld c 8 2
  match trainRefused d c, d.ep.stage with
  | some st, _ => complete t st 0 (when (lrRefused d c) (bump .trainLrRefused id 0) d)
  | none, none => complete t .epochStale 0 d
  | none, some (n, tag) =>
    let have_ := (ctxOf d (cmdFld c 26 2)).buf.recs.length
    let used := if cmdFld c 24 1 = 1 then min (cmdFld c 28 4) have_ else cmdFld c 28 4
    if used = 0 then complete t .ok 0 d
    else
      let own := ownStaging d id tag
      if ¬ own ∧ (¬ fits ∨ ¬ sharesFit d (ctxOf d id) (ctxVer d id d.ep.curTag)) then complete t .noSpace 0 d
      else
        let d := if own then d else trainFork t id tag d
        let v := ctxVer d id tag
        let d := modCtx id (fun x => { x with versions := tput {} x.versions tag { v with tstate := stateOf v init } }) d
        modCmd t (fun c => { c with st := 1, aux := [0, n, used, 0] }) d

/-! ## The arithmetic of an update (R358 to R363) -/

/-- The parameters of an update. -/
structure TrainPar where
  opt : Nat
  lr : Nat
  beta1 : Nat
  ob1 : Nat
  beta2 : Nat
  ob2 : Nat
  eps : Nat
  wd : Nat
  seed : Word32

/-- FP32 subtraction. -/
def f32Sub (a b : Nat) : Nat := fpRound 15 (vAdd (fmtVal 15 a 0) (vNeg (fmtVal 15 b 0)))

/-- The parameters of a step. -/
def trainPar (v : CtxVersion) (c : Cmd) : TrainPar :=
  { opt := trainFld v 1 1, lr := cmdFld c 32 4, beta1 := trainFld v 12 4, ob1 := f32Sub fp32One (trainFld v 12 4)
    beta2 := trainFld v 16 4, ob2 := f32Sub fp32One (trainFld v 16 4), eps := trainFld v 20 4, wd := trainFld v 24 4
    seed := BitVec.ofNat 32 (cmdFld c 20 4) }

/-- The update of one element (R360): the new weight and moments, FP32 codes, before conversion. -/
def updateElem (T : TrainPar) (w g m1 m2 : Nat) : Nat × Nat × Nat :=
  let m1' := if T.opt = 0 then m1 else fpFma 15 T.ob1 g (fpMul 15 T.beta1 m1)
  let m2' := if T.opt = 2 then fpFma 15 T.ob2 (fpMul 15 g g) (fpMul 15 T.beta2 m2) else m2
  let u := match T.opt with
    | 0 => g
    | 1 => m1'
    | _ => fpMul 15 m1' (transFn .rsqrt (fpAdd 15 m2' T.eps))
  let t := fpFma 15 T.wd w u
  (fpFma 15 (T.lr ^^^ 2 ^ 31) t w, m1', m2')

/-- Whether an FP32 code is finite. -/
def allFinite (l : List Nat) : Bool := l.all f32Finite

/-- A row of FP32 codes stored by STOCH conversion with an exponent (R358, R361). -/
def storeRow (T : TrainPar) (stream row fmt : Nat) (e : Int) (vals : List Nat) : List Nat :=
  (vals.zip (List.range vals.length)).map (fun x =>
    (convert fmt 0 (fmtVal 15 x.1 0) (-e) (some (srDraw T.seed (stream % 256) row x.2))).code)

/-- The need of a row of FP32 codes in a format with zero point 0 (R277). -/
def need32 (fmt : Nat) (vals : List Nat) : Int :=
  let r := rowExtremes (vals.map (fun c => fmtVal 15 c 0))
  needOf fmt 0 r.1 r.2

/-- What the update of a row gives: the row's new state, whether a value was NaN or infinite, and n2 so far. -/
structure RowNew where
  w : List Nat
  wExp : Int
  master : List Nat
  m1 : List Nat
  m1Exp : Int
  m2 : List Nat
  m2Exp : Int
  bad : Bool
  n2 : Nat

/-- The FP32 code of a stored value. -/
def code32 (fmt c : Nat) (e : Int) : Nat := fpRound 15 (codeVal fmt c e)

/-- Row `r` of tensor `j` is updated (R360 to R363): `fixed` is the exponent of a tensor without a scale tensor, `scaled` tells one
with a scale tensor, `gfmt` is the gradient's format. -/
def updateRow (T : TrainPar) (j r fmt gfmt : Nat) (scaled : Bool) (fixed : Int) (s : TState) (g : Int × List Nat) (n2 : Nat) : RowNew :=
  let we := if scaled then lget 0 s.wExp r else fixed
  let wc := lget [] s.w r
  let mc := lget [] s.master r
  let master := !s.master.isEmpty
  let old := if master then mc.map (fun c => code32 13 c 0) else wc.map (fun c => code32 fmt c we)
  let res := (List.range old.length).map (fun k => updateElem T (lget 0 old k) (code32 gfmt (lget 0 g.2 k) g.1)
    (code32 7 (lget 0 (lget [] s.m1 r) k) (lget 0 s.m1Exp r)) (code32 10 (lget 0 (lget [] s.m2 r) k) (lget 0 s.m2Exp r)))
  let nw := res.map (·.1)
  let n1 := res.map (·.2.1)
  let n2s := res.map (·.2.2)
  let bad := !(allFinite nw && allFinite n1 && allFinite n2s)
  let newMaster := if master then storeRow T (3 + 8 * j) r 13 0 nw else []
  let from_ := if master then newMaster.map (fun c => code32 13 c 0) else nw
  let e := if scaled then max we (need32 fmt from_) else fixed
  let w := storeRow T (4 + 8 * j) r fmt e from_
  let e1 := need32 7 n1
  let e2 := need32 10 n2s
  let new_ := if master then newMaster.map (fun c => code32 13 c 0) else w.map (fun c => code32 fmt c e)
  let n2 := (List.zipWith f32Sub new_ old).foldl (fun a x => fpFma 15 x x a) n2
  { w, wExp := e, master := newMaster, bad, n2
    m1 := if T.opt = 0 then lget [] s.m1 r else storeRow T (1 + 8 * j) r 7 e1 n1, m1Exp := if T.opt = 0 then lget 0 s.m1Exp r else e1
    m2 := if T.opt = 2 then storeRow T (2 + 8 * j) r 10 e2 n2s else lget [] s.m2 r, m2Exp := if T.opt = 2 then e2 else lget 0 s.m2Exp r }

/-- A tensor's rows updated in ascending order: its new state, whether a value was not finite, and n2. -/
def updateTensor (T : TrainPar) (j gfmt : Nat) (x : Nat × Nat × Nat × Nat × Nat) (leafScale : Int) (s : TState) (g : List (Int × List Nat))
    (n2 : Nat) : TState × Bool × Nat :=
  let scaled := !s.wExp.isEmpty
  let fixed : Int := if x.1 = 1 ∧ x.2.1 = 11 then leafScale else 0
  (List.range x.2.2.2.1).foldl (fun (a : TState × Bool × Nat) r =>
    let o := updateRow T j r x.2.1 gfmt scaled fixed s (lget (0, []) g r) a.2.2
    ({ w := a.1.w ++ [o.w], wExp := if scaled then a.1.wExp ++ [o.wExp] else [], master := if s.master.isEmpty then [] else a.1.master ++ [o.master]
       m1 := a.1.m1 ++ [o.m1], m1Exp := a.1.m1Exp ++ [o.m1Exp], m2 := a.1.m2 ++ [o.m2], m2Exp := a.1.m2Exp ++ [o.m2Exp] },
     a.2.1 || o.bad, o.n2)) ({}, false, n2)

/-- A whole step's update (R360 to R363): the new states, whether a value was not finite, and n2. -/
def updateAll (v : CtxVersion) (c : Cmd) (grads : List (List (Int × List Nat))) : List TState × Bool × Nat :=
  let T := trainPar v c
  ((tensorsOf v).zip (List.range (tensorsOf v).length)).foldl (fun (a : List TState × Bool × Nat) x =>
    let o := updateTensor T x.2 (trainFld v 2 1) x.1 v.par.leafScale (lget {} v.tstate x.2) (lget [] grads x.2) a.2.2
    (a.1 ++ [o.1], a.2.1 || o.2.1, o.2.2)) ([], false, 0)

/-- Whether the gradients of a step have the shape of its tensors. -/
def gradsFit (v : CtxVersion) (grads : List (List (Int × List Nat))) : Bool :=
  grads.length == (tensorsOf v).length && (List.zipWith (fun g (x : Nat × Nat × Nat × Nat × Nat) =>
    g.length == x.2.2.2.1 && g.all (fun r => r.2.length == x.2.2.2.2)) grads (tensorsOf v)).all id

/-- The version that a step commits: new states, and the leaf values of its shares. -/
def trainedVersion (v : CtxVersion) (ts : List TState) : CtxVersion :=
  let pairs := (tensorsOf v).zip ts
  { v with
    tstate := ts
    shares := pairs.foldl (fun sh x => if x.1.1 = 1 then lset sh x.1.2.2.1 { lget {} sh x.1.2.2.1 with leaves := lget [] x.2.w 0 } else sh) v.shares }

/-- The records that a FEEDBACK step used are removed (R368). -/
def takeRecords (c : Cmd) (d : Dev) : Dev :=
  if cmdFld c 24 1 = 1 then modCtx (cmdFld c 26 2) (fun x => { x with buf := { recs := x.buf.recs.drop (lget 0 c.aux 2) } }) d else d

/-! ## The commit (R356, R364) -/

/-- The commit of a step begins when the arbiter admits it (R356, R547): its epoch must still be STAGING; the master copy is
written and the version's resident data is to be reloaded. -/
def trainBegin (t : Nat) (d : Dev) : Dev :=
  let c := cmdOf d t
  let id := cmdFld c 8 2
  match d.ep.stage with
  | some (n, tag) =>
    if ¬ cmdLive d t ∨ c.st ≠ 3 then maintEnd t d
    else if n ≠ lget 0 c.aux 1 then complete t .epochStale 0 (trainGiveUp t d)
    else
      let v := (ctxOf d id).work
      let d := modCtx id (fun x => { x with versions := tput {} x.versions tag v, work := {} }) d
      let d := if v.hasRes then forEach (ctxOf d id).clusters (modCluster · (fun k => { k with reload := k.reload ++ [v.vid] })) d else d
      modCmd t (fun c => { c with st := 4 }) d
  | none => complete t .epochStale 0 (trainGiveUp t d)

/-- The commit of a step ends: its count goes up and it completes (R354, R356, R372). -/
def trainEnd (t : Nat) (d : Dev) : Dev :=
  let c := cmdOf d t
  let id := cmdFld c 8 2
  match d.ep.stage with
  | some (_, tag) =>
    let v := ctxVer d id tag
    if d.comp.clusters.any (fun e => e.2.reload.contains v.vid) then d
    else
      let d := modCtx id (fun x => { x with versions := tput {} x.versions tag { v with step := v.step + 1 } }) d
      let d := maintEnd t (takeRecords c (bump .trainSteps id 0 (bumpN .trainExamples id 0 (lget 0 c.aux 2) d)))
      complete t .ok (lget 0 c.aux 2 + lget 0 c.aux 3 * 2 ^ 32) d
  | none => d

/-- The update is computed once the program's gradients are there, and its caps are applied (R362, R364); none where it goes on to
its commit, with the version held in the work area. -/
def trainCompute (t : Nat) (grads : List (List (Int × List Nat))) (d : Dev) : Option Status × Dev :=
  let c := cmdOf d t
  let id := cmdFld c 8 2
  match d.ep.stage with
  | some (n, tag) =>
    if n ≠ lget 0 c.aux 1 then (some .epochStale, d)
    else
      let v := ctxVer d id tag
      let r := updateAll v c grads
      let cap := trainFld v 8 4
      if r.2.1 then (some .dataError, bump .trainNonfinite id 0 d)
      else if isNan32 r.2.2 ∨ vLt (f32Val (fpMul 15 cap cap)) (f32Val r.2.2) then
        (some .invalidField, takeRecords c (bump .trainNormRefused id 0 d))
      else
        (none, modCmd t (fun c => { c with st := 3, aux := [0, lget 0 c.aux 1, lget 0 c.aux 2, r.2.2] })
          (modCtx id (fun x => { x with work := trainedVersion v r.1 }) d))
  | none => (some .epochStale, d)

end Sys2Proof.Machine
end

