-- ==== Sys2Proof/Machine/Island.lean ====
section
/-! DEFINITION. The Tynas island, management messages, firmware update, the maintenance arbiter's activities, control cores, queue
resets, the mailbox and JTAG (17_firmware_management, R597, R608, R617 to R625). -/

namespace Sys2Proof.Machine

/-! ## Replies -/

/-- A management reply on a medium: a 16-bit status and a body (R544). -/
def reply (m st : Nat) (body : List Byte) : Dev → Dev := emit (.mgmt m (toLe 2 st ++ body))

/-- Whether the island answers: not while it restarts (R530) or is without power (R650). -/
def islandUp (d : Dev) : Bool := !d.isl.restarting && !d.boot.aonLost

/-- Whether it answers more than MCTP control and STATUS: not in VOID (Table 20.8). -/
def islandServes (d : Dev) : Bool := islandUp d && lcState d != 4

/-! ## The maintenance arbiter (R546 to R550) -/

/-- Whether a MAINT_REQUEST or MAINT message names no activity it may start, or no object (R546). -/
def maintBad (d : Dev) (act obj : Nat) (args : List Nat) : Bool :=
  match act with
  | 1 => decide (32 ≤ obj) || otpPortOff d obj
  | 2 => decide (20 ≤ obj) || jodonOff d obj
  | 3 => decide (96 ≤ obj)
  | 4 => decide (96 ≤ obj) || (clusterOwner d obj).isSome || domainDead d obj
  | 5 => decide (12 ≤ obj ∨ 64 ≤ lget 0 args 0 ∨ 16 ≤ lget 0 args 1 ∨ 49152 ≤ lget 0 args 2)
  | 6 => decide (12 ≤ obj ∨ 64 ≤ lget 0 args 0 ∨ 16 ≤ lget 0 args 1 ∨ 49152 ≤ lget 0 args 2)
  | _ => true

/-- The wait limit of an activity in ns (Table 17.8). -/
def maintLimit : Nat → Nat
  | 1 => 10000000
  | 2 => 20000000
  | 3 => 1000000000
  | 4 => 1000000000
  | 5 => 100000000
  | 6 => 5000000000
  | 7 => 60000000000
  | _ => 1000000000

/-- The end of a request at its source (R548, R550): MAINT_REQUEST and the vendor message get a status. -/
def maintAnswer (r : MaintReq) (st : Status) (d : Dev) : Dev :=
  if r.tkt ≠ 0 then complete r.tkt st 0 d
  else if r.src = 1 then reply (lget 0 r.args 3) st.code [] d
  else d

/-- The shares of a cluster leave or regain residence (R311, R550). -/
def clusterShares (cl src dst : Nat) : Dev → Dev :=
  onComp (fun g => { g with cores := tmap {} (fun c k =>
    if c / 8 = cl then { k with pregs := k.pregs.map (fun r => if r.st = src then { r with st := dst } else r) } else k) g.cores })

/-- A granted activity starts; a calibration that joins another starts nothing (R548, Table 17.9). -/
def maintStart (r : MaintReq) (joins : Bool) (d : Dev) : Dev :=
  match r.act with
  | 1 => if joins then d else forcedRecal r.obj d
  | 2 => if joins then d else jodonRecal r.obj d
  | 3 => wakeRequest r.obj (clusterShares r.obj 2 3 d)
  | 4 => wakeRequest r.obj d
  | 7 => reply (lget 0 r.args 3) 0 [] (onIsl (fun x => { x with
      fwPending := false, update := x.update.map (fun u => { u with granted := true }) }) d)
  | 0x100 => onEp (fun e => { e with flip := e.flip.map (fun f => { f with held := true }) }) d
  | 0x102 => trainBegin r.tkt d
  | 0x101 => onEp (fun e => { e with flip := e.flip.map (fun f => { f with held := true }) }) d
  | _ => d

/-- A request is handed to the arbiter and starts if it is granted at once. -/
def maintSubmit (r : MaintReq) (d : Dev) : Dev :=
  let joins := maintJoins d r
  let ok := !maintBlocked d d.maint r
  let d := maintAsk r d
  if ok then maintStart r joins d else d

/-- The first waiting request that nothing before it blocks. -/
def grantable (d : Dev) : List MaintReq → List MaintReq → Option MaintReq
  | _, [] => none
  | pre, r :: rs => if !r.granted && !maintBlocked d pre r then some r else grantable d (pre ++ [r]) rs

/-- MAINT_GRANT (R548): the first waiting request whose conflicts have cleared is granted. -/
def maintGrant (d : Dev) : Dev :=
  match grantable d [] d.maint with
  | none => d
  | some r =>
    let joins := maintJoins d r
    maintStart r joins (bump .maintGranted r.act 0
      { d with maint := d.maint.map (fun x => if x = r then { x with granted := true } else x) })

/-- MAINT_REQUEST (R546). -/
def maintRequest (t : Nat) (c : Cmd) (d : Dev) : Dev :=
  let act := cmdFld c 24 2
  let obj := if act = 3 ∨ act = 4 then cmdFld c 32 2 else cmdFld c 32 1
  let args := [cmdFld c 36 1, cmdFld c 37 1, cmdFld c 38 2]
  if maintBad d act obj args then complete t .invalidField 0 d
  else maintSubmit { act, obj, src := 0, tkt := t, limit := beat d + maintLimit act, args } (modCmd t (fun c => { c with st := 1 }) d)

/-- The mailbox request ends with a status (R624). -/
def mboxEnd (st : Status) (d : Dev) : Dev :=
  let d := { d with maint := d.maint.filter (fun r => !(r.act == 8 && r.args.headD 0 == 0)), isl := { d.isl with mbox := none } }
  setFld rMboxStatus 16 16 st.code (setFld rMboxStatus 4 1 1 (setFld rMboxStatus 0 1 0 d))

/-- What a refused request's source sees (R548, R62, R542). -/
def maintRefuse (r : MaintReq) (d : Dev) : Dev :=
  let d := maintRefused r { d with maint := d.maint.erase r }
  match r.act with
  | 7 => reply (lget 0 r.args 3) 0x8A [] (onIsl (fun x => { x with update := none }) d)
  | 8 => if r.args.headD 0 = 0 then mboxEnd .maintBusy d else reply (lget 0 r.args 3) Status.maintBusy.code [] d
  | 0x102 => complete r.tkt .maintBusy 0 (trainGiveUp r.tkt d)
  | _ => maintAnswer r .maintBusy d

/-- MAINT_WAIT_EXPIRE (R548): a request still waiting at its limit is refused. -/
def maintExpire (d : Dev) : Dev :=
  match d.maint.find? (fun r => !r.granted && decide (r.limit ≤ beat d)) with
  | none => d
  | some r => if r.act = 0x100 ∨ r.act = 0x101 then epochHoldTimeout d else maintRefuse r d

/-- The HBM address of a stack address, the inverse of the map of R376. -/
def hbmUnmap (d : Dev) (m sa : Nat) : Nat :=
  let r := sa / 2 ^ 30
  let slot := sa % 2 ^ 30
  let a := match rowMode d r with
    | 0 => (slot / 4096 * 12 + m) * 4096 + slot % 4096
    | 1 => 3 * (m / 3) * 2 ^ 30 + (slot / 4096 * 3 + m % 3) * 4096 + slot % 4096
    | _ => m * 2 ^ 30 + slot
  12 * r * 2 ^ 30 + a

/-- A repaired DRAM row's sixteen bursts are poisoned (R550, Table 12.1). -/
def poisonRow (m pch bank row : Nat) (d : Dev) : Dev :=
  (List.range 16).foldl (fun d k =>
    let sa := k % 4 * 64 + pch * 256 + k / 4 * 2 ^ 14 + bank * 2 ^ 16 + row * 2 ^ 20
    hbmPoison (hbmUnmap d m sa) d) d

/-- MAINT_ACTIVITY_DONE (R543, R550): an activity ends with its outcome: 0 no fault, 1 a fault found, 2 no spare row. -/
def maintDone (act obj out : Nat) (d : Dev) : Dev :=
  match d.maint.find? (fun r => r.act == act && r.obj == obj && r.granted) with
  | none => d
  | some r =>
    let done := { d with maint := d.maint.erase r }
    let same := d.maint.filter (fun x => x.act == act && x.obj == obj && x.granted)
    let all := same.foldl (fun d x => maintAnswer x .ok d) { d with maint := d.maint.filter (fun x => !same.contains x) }
    match act with
    | 1 => if (physOf d obj).calBusy then d else all
    | 2 => if (linkOf d obj).forced then d else all
    | 3 =>
      if out = 1 then maintAnswer r .dataError (islandLog 0x0111 (compSite (obj / 6)) (obj % 6) [] done)
      else maintAnswer r .ok (clusterShares obj 3 2 done)
    | 4 => if out = 1 then maintAnswer r .dataError (islandLog 0x0111 (compSite (obj / 6)) (obj % 6) [] done) else maintAnswer r .ok done
    | 5 => if out = 2 then maintAnswer r .noSpace done
      else maintAnswer r .ok (poisonRow obj (lget 0 r.args 0) (lget 0 r.args 1) (lget 0 r.args 2) done)
    | 6 => if out = 2 then maintAnswer r .noSpace done
      else maintAnswer r .ok (poisonRow obj (lget 0 r.args 0) (lget 0 r.args 1) (lget 0 r.args 2) done)
    | 8 =>
      if r.args.headD 0 = 1 then
        let sv := d.isl.runSv
        reply (lget 0 r.args 3) 0 [] (islandLog 0x0114 0xFF 0xFF (toLe 1 sv) (onOtp (fun o => { o with fuses := max o.fuses sv }) done))
      else d
    | _ => d

/-- A forced recalibration that a register asks for (R62, R496). -/
def forceRecal (act obj : Nat) (d : Dev) : Dev :=
  if (if act = 1 then otpPortOff d obj else jodonOff d obj) then d
  else maintSubmit { act, obj, src := 2, limit := beat d + maintLimit act } d

/-! ## Control cores (R529 to R533) -/

/-- A control core has failed (Table 17.2): class 0 cluster, 1 die, 2 edge, 3 hub. -/
def coreFailed (cls i : Nat) (d : Dev) : Dev :=
  let site := if cls = 0 then compSite (i / 6) else if cls = 1 then compSite i else if cls = 2 then edgeSite (i / 2) else 12
  let unit := if cls = 0 then i % 6 else if cls = 2 then i % 2 else if cls = 3 then i else 0xFF
  let d := islandLog 0x010A site unit (toLe 1 cls) (bump .fwCoreFault cls 0 d)
  match cls with
  | 0 => clusterReset i d
  | 1 => onIsl (fun x => { x with down := tput false x.down (96 + i) true }) d
  | 2 => onIsl (fun x => { x with down := tput false x.down (112 + i) true }) d
  | _ => packageFault d

/-- CONTROL_CORE_RESTARTED (Table 17.2): a die or edge controller resumes; clock changes that waited for it go on. -/
def coreRestarted (cls i : Nat) (d : Dev) : Dev :=
  let d := onIsl (fun x => { x with down := tdel x.down (if cls = 1 then 96 + i else 112 + i) }) d
  if cls = 1 then (List.range 6).foldl (fun d k => clockTarget (6 * i + k) d) d else d

/-- ISLAND_LOCKSTEP (R530): the island restarts; sessions end, and a transfer that ran is interrupted (R542). -/
def islandRestart (d : Dev) : Dev :=
  let d := { d with maint := d.maint.filter (fun r => r.act != 7) }
  onIsl (fun x =>
    let s := if x.update.any (fun u => u.granted) then (if x.active % 2 = 0 then { x with slotB := [] } else { x with slotA := [] }) else x
    { s with restarting := true, sessions := [], update := none }) d

/-- ISLAND_RESTARTED (R530). -/
def islandRestarted (d : Dev) : Dev :=
  if d.isl.restarting then islandLog 0x010B 12 0xFF [] (onIsl (fun x => { x with restarting := false }) d) else d

/-- CONTROL_CORE_FRAME (R532, R533): a control core's frame, without its FCS, for a queue of a breakout port: its source MAC, then
both buckets of the egress guard. `cls` is the class of the core. -/
def coreFrame (cls bp q : Nat) (bytes : List Byte) (d : Dev) : Dev :=
  if ¬ macInBlock d (beNat ((bytes.drop 6).take 6)) then fwBound cls 5 (bump .guardMacDrop bp 0 d)
  else
    let len := bytes.length + 4
    let now := beat d
    let rate : Int := (rateOf d bp / 200 : Nat)
    let pb := tget {} d.isl.guardP bp
    let eb := tget {} d.isl.guardE (bp / 32)
    let cost : Int := (4 * (len + 20) : Nat)
    if bkLevel 65536 rate now pb < cost ∨ bkLevel 32000 1 now eb < 500 then bump .guardDrop bp 0 d
    else
      let d := onIsl (fun x => { x with
        guardP := tput {} x.guardP bp (bkTake 65536 rate now cost pb), guardE := tput {} x.guardE (bp / 32) (bkTake 32000 1 now 500 eb) }) d
      let r := enqueue bp q { bytes, len, cells := cellsOf len, inBp := 128, storeFwd := true } false d
      countRefused r.1 bp q r.2

/-! ## Logs (R535, R536, R538) -/

/-- An entry joins the NOR ring of 131,072; a full ring loses its oldest sector of 2,048. -/
def norPush (nor : List LogEntry) (e : LogEntry) : List LogEntry := (if 131072 ≤ nor.length then nor.drop 2048 else nor) ++ [e]

/-- EVENT_LOG_PERSIST (R536): the waiting entries are written to NOR. -/
def logPersist : Dev → Dev := onIsl (fun x => { x with nor := x.unsaved.foldl norPush x.nor, unsaved := [] })

/-- TROUBLE_PERSIST (R538): the counters are written to NOR. -/
def troublePersist : Dev → Dev := onIsl (fun x => { x with troubleNor := x.trouble, troubleSince := none })

/-- ALERT_ACK (R535): by a message, or by AON_ALERT.ack (medium 0). -/
def alertAck (m : Nat) (d : Dev) : Dev :=
  if m = 0 then onIsl (fun x => { x with alert := false }) d
  else if islandServes d then reply m 0 [] (onIsl (fun x => { x with alert := false }) d)
  else d

/-! ## Firmware update (R542, R543) -/

/-- The inactive slot is written. -/
def putSlot (f : Tab Byte → Tab Byte) (x : Island) : Island :=
  if x.active % 2 = 0 then { x with slotB := f x.slotB } else { x with slotA := f x.slotA }

/-- The update's FW_UPDATE activity ends. -/
def updateOver (d : Dev) : Dev :=
  { d with maint := d.maint.filter (fun r => r.act != 7), isl := { d.isl with update := none } }

/-- Whether the update belongs to a medium and has been admitted. -/
def updateBy (d : Dev) (m : Nat) : Bool := d.isl.update.any (fun u => u.medium == m && u.granted)

/-- REQUEST_UPDATE: one update at a time; the answer comes when the arbiter admits it. -/
def requestUpdate (m : Nat) (d : Dev) : Dev :=
  if ¬ islandServes d then d
  else if d.isl.update.isSome then reply m 0x81 [] d
  else
    maintSubmit { act := 7, obj := 0xFFFF, src := 4, limit := beat d + maintLimit 7, args := [0, 0, 0, m] }
      (onIsl (fun x => { x with update := some { medium := m } }) d)

/-- FIRMWARE_DATA: data is written only to the inactive slot. -/
def firmwareData (m off : Nat) (bs : List Byte) (d : Dev) : Dev :=
  if islandServes d ∧ updateBy d m ∧ off + bs.length ≤ 28 * 2 ^ 20 then
    onIsl (fun x => putSlot (fun s => tputBytes s off bs) { x with update := x.update.map (fun u => { u with verified := false }) }) d
  else d

/-- VERIFY_COMPLETE: failure is reported for a bundle that is not valid. -/
def verifyComplete (m : Nat) (d : Dev) : Dev :=
  if islandServes d ∧ updateBy d m then
    let ok := bundleValid d (1 - d.isl.active % 2)
    reply m (b2n (!ok)) [] (onIsl (fun x => { x with update := x.update.map (fun u => { u with verified := ok }) }) d)
  else d

/-- ACTIVATE_FIRMWARE: pending is set with three attempts. -/
def activateFirmware (m : Nat) (d : Dev) : Dev :=
  if ¬ islandServes d then d
  else if ¬ updateBy d m then reply m 0x80 [] d
  else if ¬ d.isl.update.any (fun u => u.verified) then reply m 0x84 [] d
  else reply m 0 [] (onIsl (fun x => { x with fwPending := true, attempts := 3 }) (updateOver d))

/-- CANCEL_UPDATE: the inactive slot is left invalid. -/
def cancelUpdate (m : Nat) (d : Dev) : Dev :=
  if ¬ islandServes d then d
  else if d.isl.update.any (fun u => u.medium == m) then
    let begun := updateBy d m
    reply m 0 [] (updateOver (when begun (onIsl (putSlot (fun _ => []))) d))
  else reply m 0x80 [] d

/-! ## Messages (R544, R545) -/

/-- Whether a message is authorised: it arrives in a session of its medium whose requester authenticated (R545). -/
def authed (d : Dev) (m sess : Nat) : Bool := (d.isl.sessions[sess]?).any (fun s => s.auth && s.medium == m)

/-- ROLLBACK_COMMIT (R543). -/
def rollbackCommit (m sess : Nat) (d : Dev) : Dev :=
  if ¬ islandServes d then d
  else if ¬ authed d m sess then reply m Status.accessDenied.code [] d
  else if d.isl.fwPending ∨ d.isl.running ≠ some (d.isl.active % 2) then reply m Status.invalidField.code [] d
  else if d.isl.runSv ≤ floorOf d then reply m 0 [] d
  else maintSubmit { act := 8, obj := 0xFFFF, src := 4, limit := beat d + maintLimit 8, args := [1, 0, 0, m] } d

/-- TROUBLE_CLEAR (R538). -/
def troubleClear (m sess mask : Nat) (d : Dev) : Dev :=
  if ¬ islandServes d then d
  else if ¬ authed d m sess then reply m Status.accessDenied.code [] d
  else
    let now := beat d
    let d := onIsl (fun x => { x with trouble := x.trouble.filter (fun e => !bitOf mask e.1), troubleSince := some (x.troubleSince.getD now) }) d
    reply m 0 [] (islandLog 0x0116 0xFF 0xFF (toLe 4 mask) d)

/-- The state the island reports: 0 not ready, 1 ready, 2 package fault, 3 VOID (R544, R594, Table 20.8). -/
def devState (d : Dev) : Nat :=
  if lcState d = 4 then 3 else if d.boot.fault then 2 else if d.boot.ready then 1 else 0

/-- The hottest logic-die sensor and stack, in whole degrees. -/
def hotDie (d : Dev) : Int := ((List.range 112).foldl (fun a k => max a (tempQ d k)) (tempQ d 0)) / 4
/-- The hottest stack. -/
def hotStack (d : Dev) : Nat := (List.range 12).foldl (fun a m => max a (stackOf d m).temp) 0

/-- The 16-byte status block (Table 17.7). -/
def statusBlock (d : Dev) : List Byte :=
  toLe 4 0x4B25 ++ toLe 1 (devState d) ++ toLe 1 (wrapInt 8 (hotDie d)) ++ toLe 1 (hotStack d) ++ toLe 1 d.time.tstate
    ++ toLe 2 d.isl.powerW ++ zeroBytes 6

/-- STATUS. -/
def statusMsg (m : Nat) (d : Dev) : Dev := if islandUp d then reply m 0 (statusBlock d) d else d

/-- The 32 bytes of a log entry (Table 17.4). -/
def logBytes (e : LogEntry) : List Byte :=
  toLe 8 e.time ++ toLe 2 e.code ++ toLe 1 (e.severity + 4 * b2n e.unsync) ++ [0] ++ toLe 4 e.seq ++ toLe 1 e.site ++ toLe 1 e.unit ++ e.payload

/-- LOG_READ: `n` entries from the `first` retained one. -/
def logRead (m first n : Nat) (d : Dev) : Dev :=
  if islandServes d then reply m 0 (((d.isl.log.drop first).take n).flatMap logBytes) d else d

/-- TROUBLE_READ: the 32 counters. -/
def troubleRead (m : Nat) (d : Dev) : Dev :=
  if islandServes d then reply m 0 ((List.range 32).flatMap (fun k => toLe 2 (tget 0 d.isl.trouble k))) d else d

/-- MAINT (R545, R546): an authorised vendor message asks for an activity; it needs the hub, and finds none while the device is held
in reset. -/
def maintMsg (m sess act obj pch bank row : Nat) (d : Dev) : Dev :=
  if ¬ islandServes d ∨ d.boot.inReset then d
  else if ¬ authed d m sess then reply m Status.accessDenied.code [] d
  else if maintBad d act obj [pch, bank, row] then reply m Status.invalidField.code [] d
  else maintSubmit { act, obj, src := 1, limit := beat d + maintLimit act, args := [pch, bank, row, m] } d

/-- The endpoint ID (Table 21.6): the static one, or the one assigned. -/
def endpointId (d : Dev) : Nat := if bitOf d.pins.straps 5 then 0x20 + ownPkg d else d.isl.eid

/-- MCTP_CONTROL: command 1 sets and 2 reads the endpoint ID; every control message is answered with its command, a completion code
and the endpoint ID. -/
def mctpControl (m cmd arg : Nat) (d : Dev) : Dev :=
  if ¬ islandUp d then d
  else
    let d := if cmd = 1 ∧ ¬ bitOf d.pins.straps 5 then onIsl (fun x => { x with eid := arg % 256 }) d else d
    emit (.mgmt m (toLe 1 cmd ++ [0] ++ toLe 1 (endpointId d))) d

/-- A numeric sensor (Table 17.7): the thermal sensors, the voltage monitors, the stacks, package power. -/
def sensorReading (d : Dev) (n : Nat) : Nat :=
  if n < 112 then wrapInt 16 (tempQ d n) else if n < 152 then tget 0 d.isl.volts (n - 112)
  else if n < 164 then (stackOf d (n - 152)).temp else d.isl.powerW

/-- PLDM_MONITORING (Table 17.7): 0 a numeric sensor, 1 a state sensor (device_ready, life cycle, ToD), 2 the FRU record's grade, 3
sets the event receiver. -/
def pldmMonitor (m kind arg : Nat) (d : Dev) : Dev :=
  if ¬ islandServes d then d
  else match kind with
    | 0 => emit (.mgmt m (toLe 1 0 ++ toLe 2 (sensorReading d arg))) d
    | 1 => emit (.mgmt m (toLe 1 0 ++ toLe 1 (match arg with | 0 => b2n d.boot.ready | 1 => lcState d | _ => d.time.tstate))) d
    | 2 => emit (.mgmt m (toLe 1 0 ++ toLe 1 (arraysPerCore d))) d
    | _ => emit (.mgmt m [0]) (onIsl (fun x => { x with receiver := some (arg % 256) }) d)

/-- An SPDM measurement (Table 17.7); the digests of the ROM and of its own firmware are free values. -/
def measurement (d : Dev) (k : Nat) : List Byte :=
  match k with
  | 3 => match d.isl.running with
    | some s => Config.sha384 (fwBytes d s 0 (slotLen d s))
    | none => []
  | 4 => toLe 1 (floorOf d) ++ toLe 1 d.isl.runSv
  | 5 => match d.boot.gen with
    | some g => toLe 1 g
    | none => [0xFF]
  | 6 => toLe 1 (lcState d)
  | _ => toLe 48 (Config.freeValue 0 40 k)

/-- SPDM_MESSAGE (R544, R545): 0 sets up a session, whose requester `auth` says authenticated with a certificate that chains to an
owner root key; 1 ends session `arg`; 2 reads measurement `arg`. -/
def spdmMessage (m kind arg : Nat) (auth : Bool) (d : Dev) : Dev :=
  if ¬ islandServes d then d
  else match kind with
    | 0 => emit (.mgmt m [0]) (onIsl (fun x => { x with sessions := x.sessions ++ [{ medium := m, auth := auth && !d.otp.ownerRoot.isEmpty }] }) d)
    | 1 => emit (.mgmt m [0]) (onIsl (fun x => { x with sessions := x.sessions.set arg { medium := 0 } }) d)
    | _ => emit (.mgmt m (toLe 1 0 ++ measurement d arg)) d

/-! ## The mailbox (R619 to R624) -/

/-- NONCE_DRAW: a read of AON_MBOX_NONCE_LO draws a nonce and latches its upper half. -/
def nonceDraw (d : Dev) : Dev :=
  let v := fresh d 30 0 % 2 ^ 64
  emit (.readData 0x100214 (v % 2 ^ 32)) (freshStep (onIsl (fun x => { x with nonce := some v, nonceHi := v / 2 ^ 32 }) d))

/-- Whether a blob carries a valid signature block of an authority: 0 the owner root, 1 Plynhar (R620). -/
def blobSigned (d : Dev) (b : List Byte) (cmd k : Nat) : Bool :=
  let p := fldOf b 24 4
  let body := b.take (64 + p)
  (List.range (fldOf b 5 1)).any (fun i =>
    let g := (b.drop (64 + p + 208 * i)).take 208
    let key := (g.drop 8).take 97
    fldOf g 0 1 == k && zeroIn g 1 8 && zeroIn g 105 112
      && (if cmd = 2 then key == (b.drop 64).take 97 else Config.sha384 key == (if k = 0 then d.otp.ownerRoot else d.otp.plynhar))
      && Config.ecdsaP384 key (Config.sha384 body) ((g.drop 112).take 96))

/-- The signatures a command needs in a life-cycle state, none where it is refused (Table 20.9, R620, R621). -/
def signersOf (cmd st : Nat) : Option (List Nat) :=
  match cmd, st with
  | 1, 1 => some [1]
  | 1, 2 => some [0]
  | 2, 1 => some [0]
  | 3, 2 => some [0, 1]
  | 4, 2 => some [0]
  | 4, 1 => some [1]
  | 4, 3 => some [1]
  | 5, 2 => some [0]
  | _, _ => none

/-- The payload length of a command (Table 20.10). -/
def payloadLen (cmd : Nat) : Nat := if cmd = 1 then 1024 else if cmd = 2 then 97 else 0

/-- Whether a blob is laid out as Table 20.10 says. -/
def blobShape (b : List Byte) (n : Nat) : Bool :=
  let c := fldOf b 4 1
  fldOf b 0 4 == 0x48545541 && decide (1 ≤ c ∧ c ≤ 5 ∧ 1 ≤ fldOf b 5 1 ∧ fldOf b 5 1 ≤ 2) && zeroIn b 6 8 && zeroIn b 28 64
    && fldOf b 24 4 == payloadLen c && decide (64 + payloadLen c + 208 * fldOf b 5 1 ≤ n)

/-- MAILBOX_GO (R620, R624): the blob is fetched through the port of the writing PF and checked; an accepted command that programs
OTP is handed to the arbiter. -/
def mailboxGo (port : Nat) (d : Dev) : Dev :=
  if regFld d rMboxStatus 0 1 = 1 then d
  else
    let n := regFld d rMboxLen 0 17
    let a := base64 d rMboxAddr
    let d := setFld rMboxStatus 0 1 1 (setFld rMboxStatus 4 1 0 d)
    if n < 64 ∨ 65536 < n then mboxEnd .invalidField d
    else if ¬ dmaOk d (64 * port) a n false then mboxEnd .accessDenied d
    else
      let b := hostRead d port a n
      let d := pcieRead (64 * port) n d
      let c := fldOf b 4 1
      let used := d.isl.nonce
      let d := setFld rMboxStatus 1 3 c (onIsl (fun x => { x with nonce := none }) d)
      if ¬ blobShape b n then mboxEnd .invalidField d
      else match signersOf c (lcState d) with
        | none => mboxEnd (if c = 5 then .invalidField else .accessDenied) d
        | some ks =>
          if fldOf b 8 8 ≠ d.otp.serial ∨ used ≠ some (fldOf b 16 8) ∨ ¬ ks.all (blobSigned d b c) then mboxEnd .accessDenied d
          else
            let d := onIsl (fun x => { x with mbox := some (c, (b.drop 64).take (payloadLen c)) }) d
            if c = 5 then d
            else maintSubmit { act := 8, obj := 0xFFFF, src := 4, limit := beat d + maintLimit 8, args := [0, 0, 0, 0] } d

/-- The accepted request of a command, once the arbiter has admitted it. -/
def mboxOf (d : Dev) (c : Nat) : Option (List Byte) :=
  match d.isl.mbox with
  | some (k, p) => if k = c ∧ (c = 5 ∨ d.maint.any (fun r => r.act == 8 && r.args.headD 0 == 0 && r.granted)) then some p else none
  | none => none

/-- The configuration that a block spells (Table 20.7). -/
def cfgOf (p : List Byte) : OtpCfg :=
  { sigRequired := bitOf (fldOf p 5 1) 0, x1 := bitOf (fldOf p 5 1) 1, powerW := fldOf p 6 2, portOff := fldOf p 8 4
    jodonOff := fldOf p 12 3, vfCap0 := fldOf p 16 1, vfCap1 := fldOf p 17 1, macBase := fldOf p 18 6, macLog := fldOf p 24 1
    keys := (List.range 4).map (fun k => (p.drop (32 + 48 * k)).take 48) }

/-- Whether a block is in range, with a good CRC (Table 20.7). -/
def cfgRange (p : List Byte) : Bool :=
  let c := cfgOf p
  fldOf p 0 4 == 0x35474643 && decide (fldOf p 4 1 ≤ 3 ∧ fldOf p 5 1 < 4 ∧ 1200 ≤ c.powerW ∧ c.powerW ≤ 2400 ∧ c.vfCap0 ≤ 63 ∧ c.vfCap1 ≤ 63
    ∧ c.macLog ≤ 16 ∧ c.macBase % 2 ^ c.macLog = 0) && zeroIn p 15 16 && zeroIn p 25 32 && zeroIn p 224 1020
    && fldOf p 1020 4 == imageCrc (p.take 32 ++ (p.drop 224).take 796)

/-- Whether a new block only tightens the one in force (Table 20.7). -/
def cfgTightens (old new : OtpCfg) : Bool :=
  (!old.sigRequired || new.sigRequired) && (!new.x1 || old.x1) && decide (new.powerW ≤ old.powerW ∧ new.vfCap0 ≤ old.vfCap0
    ∧ new.vfCap1 ≤ old.vfCap1) && (old.portOff &&& new.portOff) == old.portOff && (old.jodonOff &&& new.jodonOff) == old.jodonOff

/-- The slot that the next generation takes: 0 in MANUFACTURE, in OWNED the first of 1 to 3 that is not used. -/
def nextSlot (d : Dev) : Option Nat :=
  (if lcState d = 1 then [0] else [1, 2, 3]).find? (fun g => !(tget {} d.otp.gens g).used)

/-- Whether the configuration is frozen (R617). -/
def otpFrozen (d : Dev) : Bool := (List.range 4).all (fun g => (tget {} d.otp.gens g).used)

/-- CFG_WRITE (R617, R620): `ok` says that the block reads back as written; otherwise the slot is consumed. -/
def cfgWrite (ok : Bool) (d : Dev) : Dev :=
  match mboxOf d 1 with
  | none => d
  | some p =>
    let g := fldOf p 4 1
    if otpFrozen d then mboxEnd .noSpace d
    else if ¬ cfgRange p ∨ nextSlot d ≠ some g ∨ ¬ cfgTightens (otpCfg d) (cfgOf p) then mboxEnd .invalidField d
    else
      let d := onOtp (fun o => { o with gens := tput {} o.gens g (if ok then { valid := true, used := true, cfg := cfgOf p } else { used := true }) }) d
      mboxEnd (if ok then .ok else .dataError) d

/-- A bit of the life-cycle thermometer is burned in its three copies. -/
def burnLife (k : Nat) : Dev → Dev := onOtp (fun o => { o with life := o.life.map (fun c => setBits c k 1 1) })

/-- LC_OWN (R620, R622): the digest of the payload's key is burned, and the state is OWNED without a reset. -/
def lcOwn (d : Dev) : Dev :=
  match mboxOf d 2 with
  | none => d
  | some p => mboxEnd .ok (burnLife 1 (onOtp (fun o => { o with ownerRoot := Config.sha384 p }) d))

/-- LC_RETURN (R622): the state bit is burned and an internal warm reset starts. -/
def lcReturn (d : Dev) : Dev :=
  match mboxOf d 3 with
  | none => d
  | some _ => startBoot (warmReset 2 (mboxEnd .ok (burnLife 2 d)))

/-- LC_VOID (R622). -/
def lcVoid (d : Dev) : Dev :=
  match mboxOf d 4 with
  | none => d
  | some _ => startBoot (warmReset 2 (mboxEnd .ok (burnLife 3 d)))

/-- DEBUG_TOKEN (R621): observability is active until the next warm or cold reset. -/
def debugToken (d : Dev) : Dev :=
  match mboxOf d 5 with
  | none => d
  | some _ => mboxEnd .ok (onBoot (fun b => { b with token := true }) d)

/-! ## JTAG (R608, R618, Table 20.8) -/

/-- Whether the state permits an instruction: 0 BYPASS, 1 IDCODE, 2 SAMPLE/PRELOAD, 3 EXTEST, 4 any other IEEE 1149.1 instruction or
debug, 5 a read under a debug token, 6 a Plynhar test, 7 the Plynhar test that burns MANUFACTURE. -/
def jtagOk (d : Dev) (k : Nat) : Bool :=
  let pub := decide (k ≤ 3) && d.boot.inReset
  match lcState d with
  | 0 => k == 6 || k == 7
  | 1 => decide (k ≤ 5)
  | 2 => pub || (k == 5 && d.boot.token)
  | 3 => if d.otp.wipeDone then decide (k ≤ 5) else pub
  | _ => false

/-- TRST_N (R608): the TAP controller is reset: IDCODE, or BYPASS where that is not permitted. -/
def trst (d : Dev) : Dev := onPins (fun p => { p with jtag := b2n (jtagOk d 1) }) d

/-- JTAG_INSTRUCTION (R608, R618, R619): an instruction that is not permitted acts as BYPASS; a Plynhar test takes BLANK to
MANUFACTURE. -/
def jtagInstr (k : Nat) (d : Dev) : Dev :=
  if jtagOk d k then when (k == 7) (burnLife 0) (onPins (fun p => { p with jtag := k }) d) else onPins (fun p => { p with jtag := 0 }) d

/-! ## Queue resets (R597, Table 19.8) -/

/-- A ring whose write was lost enters ERROR with cause 3. -/
def lostRings (pairs rings : List Nat) (d : Dev) : Dev :=
  rings.foldl (fun d k => rringError k 3 d) (pairs.foldl (fun d q => pairError q 3 d) d)

/-- The items of an egress queue are dropped, and a frame of it in transmission is stomped. -/
def dropQueue (bp q : Nat) (d : Dev) : Dev :=
  let its := (queueOf d bp q).items
  let d := modQueue bp q (fun e => { e with items := [] }) d
  let d := its.foldl (fun d i => pfcCheckBp i.inBp (match i.src with | some fid => gcFrame fid d | none => d)) d
  if tget 0 d.edge.txQueue bp = q ∧ (txOf d bp).isSome then stompTx bp d else d

/-- QUEUE_RESET (R597): the queue of a unit is emptied and its entries meet the outcomes of Table 19.8. Kinds: 0 Tabla core, 1 cluster
controller, 2 ring engine, 3 coalescer, 4 lookup engine, 5 HBM controller or attention unit, 6 egress queue, 7 dispatch queue of a
pipeline, 8 router or bridge, 9 Jodon link. `tkts`, `pairs` and `rings` name the commands and rings whose entries a queue of kind
2, 3 or 5 held. -/
def queueReset (kind unit : Nat) (tkts pairs rings : List Nat) (d : Dev) : Dev :=
  let bursts := tget [] d.store.coal unit
  let lookups := tget [] d.edge.flowOut unit
  let n := match kind with
    | 0 => ((coreOf d unit).engines.map (fun e => e.2.queue.length)).sum
    | 3 => bursts.length
    | 4 => lookups.length
    | 6 => (queueOf d (unit / 16) (unit % 16)).items.length
    | 7 => (tget [] d.edge.pipes unit).length
    | 9 => (linkOf d unit).tx.length
    | _ => tkts.length + pairs.length + rings.length
  let d := islandLog 0x010F 0xFF 0xFF (toLe 1 kind ++ toLe 2 unit ++ toLe 4 n) d
  let cmds (d : Dev) : Dev := lostRings pairs rings (tkts.foldl (fun d t => stopCmd t .queueReset d) d)
  match kind with
  | 0 => endInv (coreOf d unit).inv .queueReset d
  | 1 => ((d.comp.invs.filter (fun e => e.2.cluster == unit)).map (·.1)).foldl (fun d i => endInv i .queueReset d) d
  | 2 => cmds d
  | 3 =>
    let d := onStore (fun s => { s with coal := tput [] s.coal unit [] }) d
    cmds ((bursts.flatMap (·.cores)).foldl (fun d c => endInv (coreOf d c).inv .queueReset d) d)
  | 4 => onEdge (fun e => { e with
      flowOut := tput [] e.flowOut unit []
      flowIn := tmod [] e.flowIn unit (fun l => l ++ lookups.filterMap (fun m => match m with
        | .lookup tag _ _ _ => some (FlowBack.answer tag none false)
        | _ => none)) }) d
  | 5 => cmds d
  | 6 => dropQueue (unit / 16) (unit % 16) d
  | 7 =>
    let fs := tget [] d.edge.pipes unit
    fs.foldl (fun d f => dropFrame f d) (onEdge (fun e => { e with pipes := tput [] e.pipes unit [] }) d)
  | 8 => packageFault d
  | _ => if linkState d unit = 3 then linkLost unit 1 d else d

end Sys2Proof.Machine
end

