-- ==== Sys2Proof/Machine/IslandRows.lean ====
section
/-! DEFINITION. The exec rows of 17_firmware_management, R597 and of the life cycle (20_reset_boot_lifecycle). -/

namespace Sys2Proof.Machine

/-- CONTROL_CORE_TIMEOUT (R529): core `i` of class 0 cluster controllers, 1 die controllers, 2 edge controllers, 3 the hub's. -/
def execControlCoreTimeout (cls : Nat) (i : Nat) (s : State) :=
  runIf (within [(cls, 4), (i, lget 0 [96, 16, 8, 16] cls)]) (coreFailed cls i) s
/-- CONTROL_CORE_TRAP (R529). -/
def execControlCoreTrap (cls : Nat) (i : Nat) (s : State) :=
  runIf (within [(cls, 4), (i, lget 0 [96, 16, 8, 16] cls)]) (coreFailed cls i) s
/-- ISLAND_LOCKSTEP (R530). -/
def execIslandLockstep (s : State) := run (.islandLockstep) (islandRestart) s
/-- CONTROL_CORE_FRAME (R532): a frame of a control core, without FCS. -/
def execControlCoreFrame (cls : Nat) (bp : Nat) (q : Nat) (bytes : List Byte) (s : State) :=
  runIf (within [(cls, 4), (bp, 128), (q, 8)] && decide (60 ≤ bytes.length ∧ bytes.length ≤ 9596)) (coreFrame cls bp q bytes) s
/-- EVENT_LOG_PERSIST (R536). -/
def execEventLogPersist (s : State) := run (.eventLogPersist) (logPersist) s
/-- TROUBLE_PERSIST (R538). -/
def execTroublePersist (s : State) := run (.troublePersist) (troublePersist) s
/-- ALERT_ACK (R535, R544): the message on medium `m`. -/
def execAlertAck (m : Nat) (s : State) := runIf (within [(m, 16)]) (alertAck m) s
/-- REQUEST_UPDATE (R542). -/
def execRequestUpdate (m : Nat) (s : State) := runIf (within [(m, 16)]) (requestUpdate m) s
/-- FIRMWARE_DATA (R542): bytes of the bundle from offset `off`. -/
def execFirmwareData (m : Nat) (off : Nat) (bytes : List Byte) (s : State) :=
  runIf (within [(m, 16), (off, 0x100000000)]) (firmwareData m off bytes) s
/-- VERIFY_COMPLETE (R542). -/
def execVerifyComplete (m : Nat) (s : State) := runIf (within [(m, 16)]) (verifyComplete m) s
/-- ACTIVATE_FIRMWARE (R542). -/
def execActivateFirmware (m : Nat) (s : State) := runIf (within [(m, 16)]) (activateFirmware m) s
/-- CANCEL_UPDATE (R542). -/
def execCancelUpdate (m : Nat) (s : State) := runIf (within [(m, 16)]) (cancelUpdate m) s
/-- ROLLBACK_COMMIT (R543) in session `sess`. -/
def execRollbackCommit (m : Nat) (sess : Nat) (s : State) := runIf (within [(m, 16)]) (rollbackCommit m sess) s
/-- TROUBLE_CLEAR (R538, R544). -/
def execTroubleClear (m : Nat) (sess : Nat) (mask : Nat) (s : State) :=
  runIf (within [(m, 16), (mask, 0x100000000)]) (troubleClear m sess mask) s
/-- STATUS (R544). -/
def execStatusMsg (m : Nat) (s : State) := runIf (within [(m, 16)]) (statusMsg m) s
/-- LOG_READ (R544). -/
def execLogRead (m : Nat) (first : Nat) (n : Nat) (s : State) :=
  runIf (within [(m, 16), (first, 0x100000000), (n, 0x10000)]) (logRead m first n) s
/-- TROUBLE_READ (R544). -/
def execTroubleRead (m : Nat) (s : State) := runIf (within [(m, 16)]) (troubleRead m) s
/-- MAINT (R546). -/
def execMaint (m : Nat) (sess : Nat) (act : Nat) (obj : Nat) (pch : Nat) (bank : Nat) (row : Nat) (s : State) :=
  runIf (within [(m, 16), (act, 0x10000), (obj, 0x10000), (pch, 256), (bank, 256), (row, 0x10000)]) (maintMsg m sess act obj pch bank row) s
/-- MCTP_CONTROL (R544): command code and argument. -/
def execMctpControl (m : Nat) (cmd : Nat) (arg : Nat) (s : State) :=
  runIf (within [(m, 16), (cmd, 256), (arg, 256)]) (mctpControl m cmd arg) s
/-- PLDM_MONITORING (R544): a sensor reading, a state sensor, the FRU record, or the event receiver. -/
def execPldmMonitoring (m : Nat) (kind : Nat) (arg : Nat) (s : State) :=
  runIf (within [(m, 16), (kind, 4), (arg, 0x10000)]) (pldmMonitor m kind arg) s
/-- SPDM_MESSAGE (R545): session setup, session end, or a measurement. -/
def execSpdmMessage (m : Nat) (kind : Nat) (arg : Nat) (auth : Bool) (s : State) :=
  runIf (within [(m, 16), (kind, 3)]) (spdmMessage m kind arg auth) s
/-- MAINT_GRANT (R548). -/
def execMaintGrant (s : State) := run (.maintGrant) (maintGrant) s
/-- MAINT_WAIT_EXPIRE (R548). -/
def execMaintWaitExpire (s : State) := run (.maintWaitExpire) (maintExpire) s
/-- MAINT_ACTIVITY_DONE (R550): an activity on an object ends: 0 sound, 1 a fault found, 2 no spare row. -/
def execMaintActivityDone (act : Nat) (obj : Nat) (outcome : Nat) (s : State) :=
  runIf (within [(act, 0x103), (obj, 0x10000), (outcome, 3)]) (maintDone act obj outcome) s
/-- QUEUE_RESET (R597): a queue of a kind of unit; `tkts`, `pairs` and `rings` name whose entries it held. -/
def execQueueReset (kind : Nat) (unit : Nat) (tkts : List Nat) (pairs : List Nat) (rings : List Nat) (s : State) :=
  runIf (within [(kind, 10), (unit, lget 0 [768, 96, 2, 16, 4, 12, 2048, 16, 64, 20] kind)] && pairs.all (fun q => decide (q < 8192)) && rings.all (fun r => decide (r < 4096))) (queueReset kind unit tkts pairs rings) s
/-- TRST_N (R608). -/
def execTrstN (s : State) := run (.trstN) (trst) s
/-- JTAG_INSTRUCTION (R618): the numbering of `jtagOk`. -/
def execJtagInstruction (k : Nat) (s : State) := runIf (within [(k, 8)]) (jtagInstr k) s
/-- MAILBOX_GO (R620): a write of go by the PF of a port. -/
def execMailboxGo (port : Nat) (s : State) := runIf (within [(port, 2)]) (mailboxGo port) s
/-- CFG_WRITE (R617): `ok` says that the block reads back as written. -/
def execCfgWrite (ok : Bool) (s : State) := runIf (true) (cfgWrite ok) s
/-- LC_OWN (R620). -/
def execLcOwn (s : State) := run (.lcOwn) (lcOwn) s
/-- LC_RETURN (R622). -/
def execLcReturn (s : State) := run (.lcReturn) (lcReturn) s
/-- LC_VOID (R622). -/
def execLcVoid (s : State) := run (.lcVoid) (lcVoid) s
/-- DEBUG_TOKEN (R621). -/
def execDebugToken (s : State) := run (.debugToken) (debugToken) s
/-- NONCE_DRAW (R620). -/
def execNonceDraw (s : State) := run (.nonceDraw) (nonceDraw) s
/-- CONTROL_CORE_RESTARTED (R529): a die controller (1) or edge controller (2). -/
def execControlCoreRestarted (cls : Nat) (i : Nat) (s : State) :=
  runIf (decide (cls = 1 ∧ i < 16 ∨ cls = 2 ∧ i < 8)) (coreRestarted cls i) s
/-- ISLAND_RESTARTED (R530). -/
def execIslandRestarted (s : State) := run (.islandRestarted) (islandRestarted) s
/-- MAINT_REQUEST (R546). -/
def execMaintRequest (q : Nat) (t : Nat) (s : State) := runIf (within [(q, 8192)]) (startCmd 0x70 q t (maintRequest t)) s

end Sys2Proof.Machine
end

