-- ==== Sys2Proof/Machine/JodonRows.lean ====
section
/-! DEFINITION. The commands of the Jodon fabric, of time and of the pins. -/

namespace Sys2Proof.Machine

/-- JODON_TRAINING_PHASE_END -/
def execJodonTrainingPhaseEnd (link : Nat) (ok : Bool) (signal : Bool) (s : State) :=
  run (.jodonTrainingPhaseEnd link ok signal) (phaseEnd link ok signal) s
/-- JODON_IDENT -/
def execJodonIdent (link : Nat) (pkg : Nat) (plink : Nat) (tag : Nat) (same : Bool) (s : State) :=
  run (.jodonIdent link pkg plink tag same) (jodonIdent link pkg plink tag same) s
/-- JODON_RETRY_TIMER -/
def execJodonRetryTimer (link : Nat) (s : State) := run (.jodonRetryTimer link) (retryTimer link) s
/-- JODON_BLOCK_RECEIVE -/
def execJodonBlockReceive (link : Nat) (fec : Nat) (bytes : List Byte) (s : State) :=
  run (.jodonBlockReceive link fec bytes) (blockReceive link fec bytes) s
/-- JODON_LINK_FAIL -/
def execJodonLinkFail (link : Nat) (s : State) := run (.jodonLinkFail link) (linkFail link) s
/-- JODON_WRITE -/
def execJodonWrite (link : Nat) (s : State) := run (.jodonWrite link) (targetAccess link 0x61 0) s
/-- JODON_WRITE_ACK -/
def execJodonWriteAck (link : Nat) (s : State) := run (.jodonWriteAck link) (gotWriteAck link) s
/-- JODON_FAULT_NOTICE -/
def execJodonFaultNotice (link : Nat) (s : State) := run (.jodonFaultNotice link) (gotFaultNotice link) s
/-- JODON_READ_REQ -/
def execJodonReadReq (link : Nat) (hw : Nat) (s : State) := run (.jodonReadReq link hw) (targetAccess link 0x64 hw) s
/-- JODON_READ_DATA -/
def execJodonReadData (link : Nat) (s : State) := run (.jodonReadData link) (gotReadData link) s
/-- JODON_READ_ERR -/
def execJodonReadErr (link : Nat) (s : State) := run (.jodonReadErr link) (gotReadErr link) s
/-- JODON_TIMEOUT -/
def execJodonTimeout (tag : Nat) (s : State) := run (.jodonTimeout tag) (jodonTimeout tag) s
/-- JODON_PIN_HOLD_EXPIRE -/
def execJodonPinHoldExpire (link : Nat) (s : State) := run (.jodonPinHoldExpire link) (pinHoldExpire link) s
/-- FENCE -/
def execFence (q : Nat) (t : Nat) (s : State) := run (.fence q t) (startCmd 0x02 q t (fenceCmd t)) s
/-- REMOTE_COPY -/
def execRemoteCopy (q : Nat) (t : Nat) (s : State) := run (.remoteCopy q t) (startCmd 0x42 q t (remoteCopy t)) s
/-- BEAT_SYNC_SEND -/
def execBeatSyncSend (link : Nat) (s : State) := run (.beatSyncSend link) (beatSyncSend link) s
/-- BEAT_SYNC -/
def execBeatSync (link : Nat) (s : State) := run (.beatSync link) (beatSync link) s
/-- BEAT_ALONE -/
def execBeatAlone (s : State) := run (.beatAlone) (beatAlone) s
/-- BEAT_READ -/
def execBeatRead (s : State) := run (.beatRead) (beatRead) s
/-- TOD_READ -/
def execTodRead (s : State) := run (.todRead) (todRead) s
/-- PPS_IN_EDGE -/
def execPpsInEdge (s : State) := run (.ppsInEdge) (ppsInEdge) s
/-- PPS_IN_LOST -/
def execPpsInLost (s : State) := run (.ppsInLost) (ppsInLost) s
/-- REF10M_LOST -/
def execRef10mLost (s : State) := run (.ref10mLost) (ref10mLost) s
/-- REF10M_VALID -/
def execRef10mValid (s : State) := run (.ref10mValid) (ref10mValid) s
/-- SW_REF_TIMEOUT -/
def execSwRefTimeout (s : State) := run (.swRefTimeout) (swRefTimeout) s
/-- TOD_ADJ -/
def execTodAdj (val : Word32) (s : State) := runIf (true) (todAdj val.toNat) s
/-- TOD_SET_GO -/
def execTodSetGo (val : Nat) (s : State) := runIf (within [(val, 0x100000000)]) (todSetGo val) s
/-- TOD_STEP_APPLY -/
def execTodStepApply (s : State) := run (.todStepApply) (todStepApply) s
/-- TOD_SLEW_DONE -/
def execTodSlewDone (s : State) := run (.todSlewDone) (todSlewDone) s
/-- PPS_OUT_EDGE -/
def execPpsOutEdge (s : State) := run (.ppsOutEdge) (ppsOutEdge) s
/-- PPS_OUT_PULSE_END -/
def execPpsOutPulseEnd (s : State) := run (.ppsOutPulseEnd) (ppsPulseEnd) s
/-- MFIO_CFG_WRITE -/
def execMfioCfgWrite (n : Nat) (val : Nat) (fw : Bool) (s : State) :=
  runIf (within [(n, 32), (val, 0x100000000)]) (mfioWrite n val fw) s
/-- MFIO_PARK_END -/
def execMfioParkEnd (n : Nat) (s : State) := runIf (within [(n, 32)]) (mfioParkEnd n) s
/-- TACH_WINDOW -/
def execTachWindow (n : Nat) (s : State) := runIf (within [(n, 32)]) (tachWindow n) s
/-- FAN_TACH_EDGE -/
def execFanTachEdge (n : Nat) (s : State) := runIf (within [(n, 32)]) (tachEdge n) s
/-- STRAP_CHECK -/
def execStrapCheck (straps : Nat) (s : State) := runIf (within [(straps, 64)]) (strapCheck straps) s

end Sys2Proof.Machine
end

