-- ==== Sys2Proof/Machine/Package.lean ====
section
/-! DEFINITION. The bridges (R27, R28), rail faults (R650), the loss of SYSREF (R633), the SMBus time-out (R659), and slow clusters
(R662, R663). -/

namespace Sys2Proof.Machine

/-- The number of the bridge between two die sites. -/
def bridgeNo (a b : Nat) : Nat := 25 * min a b + max a b

/-- Whether a bridge joins two sites: neighbours in a row or in a column of the 5 × 5 grid (R22). -/
def bridged (a b : Nat) : Bool := decide (a < 25 ∧ b < 25 ∧ ((a / 5 = b / 5 ∧ (a + 1 = b ∨ b + 1 = a)) ∨ a + 5 = b ∨ b + 5 = a))

/-- BRIDGE_REPLAY (R27): a replay is counted; `again` says that the same flit failed the time before. -/
def bridgeReplay (a b : Nat) (again : Bool) (d : Dev) : Dev :=
  let k := bridgeNo a b
  bump .bridgeReplays k 0 { d with bridges := tmod 0 d.bridges k (fun n => if again then n + 1 else 1) }

/-- BRIDGE_FAILED (R28): 16 replays of one flit in a row have failed, or training at boot has. -/
def bridgeFailed (a b : Nat) (training : Bool) (d : Dev) : Dev :=
  let boot := training && decide (1 ≤ d.boot.step ∧ d.boot.step < 6) && !d.boot.failed
  if boot ∨ 16 ≤ tget 0 d.bridges (bridgeNo a b) then
    let d := packageFault (islandLog 0x0102 a 0xFF (toLe 1 a ++ toLe 1 b) d)
    when boot (bootFail 5) d
  else d

/-- RAIL_FAULT (R650): rails 0 to 10 in the order of R610, 11 is VDD_IO18: every rail of R610 goes off, with what it feeds. -/
def railFault (rail : Nat) (d : Dev) : Dev :=
  packageFault (islandLog 0x011A 0xFF 0xFF (toLe 1 rail) (loadLimits (warmWipe d)))

/-- VDD_AON_LOSS (R650): the island stops with all it held but OTP and NOR, and the rails go off. -/
def aonLoss (d : Dev) : Dev := onBoot (fun b => { b with aonLost := true, ready := false }) (coldWipe d.pins.straps [] d)

/-- SYSREF_LOST (R633). -/
def sysrefLost (d : Dev) : Dev :=
  if d.pins.sysrefLost then d
  else
    let d := { d with pins := { d.pins with sysrefLost := true } }
    packageFault (islandLog 0x011B 0xFF 0xFF [] (setFld rClkStatus 1 1 1 d))

/-- SMBUS_SCL_LOW_TIMEOUT (R659): the target releases the bus. -/
def smbusTimeout : Dev → Dev := onIsl (fun x => { x with smbusBusy := false })

/-! ## Slow clusters -/

/-- The sum of the last 1,000 active times of a context on a cluster, none where there are fewer. -/
def evalSum (d : Dev) (cl ctx : Nat) : Option Nat :=
  let l := tget [] d.obs.evals (4096 * cl + ctx)
  if l.length < 1000 then none else some l.sum

/-- Insertion into a rising list. -/
def insertNat (x : Nat) : List Nat → List Nat
  | [] => [x]
  | y :: ys => if x ≤ y then x :: y :: ys else y :: insertNat x ys

/-- The median of a list, the lower middle value where the count is even. -/
def median (l : List Nat) : Nat := let s := l.foldr insertNat []; lget 0 s ((s.length - 1) / 2)

/-- STRAGGLER_EVAL (R662, R663): after every 1,000th invocation a cluster is flagged at 1.10 times the median of the bound clusters'
means, and cleared at 1.05 times. -/
def stragglerEval (cl ctx : Nat) (d : Dev) : Dev :=
  let x := ctxOf d ctx
  let k := 4096 * cl + ctx
  let n := tget 0 d.obs.evalN k
  match evalSum d cl ctx with
  | none => d
  | some s =>
    let m := median (x.clusters.filterMap (fun c => evalSum d c ctx))
    let was := tget false d.obs.slow k
    let on := !was && decide (110 * m ≤ 100 * s)
    let off := was && decide (100 * s ≤ 105 * m)
    if ¬ x.exist ∨ x.clusters.length < 2 ∨ ¬ x.clusters.contains cl ∨ n % 1000 ≠ 0 ∨ ¬ (on ∨ off) then d
    else
      let d := { d with obs := { d.obs with slow := tput false d.obs.slow k on } }
      match partFn d x.owner with
      | some fn => postEvent fn 0x0021 (toLe 2 cl ++ toLe 2 ctx ++ toLe 1 (b2n on + 2 * b2n off) ++ zeroBytes 3
          ++ toLe 4 (min (2 ^ 32 - 1) (s / 1000)) ++ toLe 4 (min (2 ^ 32 - 1) (m / 1000)) ++ zeroBytes 16) d
      | none => d

end Sys2Proof.Machine
end

