-- ==== Sys2Proof/Machine/Training.lean ====
section
/-! DEFINITION. TRAIN_COMMIT (R356 to R370): the end of a training step. -/

namespace Sys2Proof.Machine

/-- TRAIN_COMMIT (R356 to R364, R369): the step's program has ended with the gradients `grads` (per tensor and row, an exponent and
codes): its update is computed, capped and, once the arbiter admits it, committed; `hw` tells an uncorrectable HBM error. -/
def trainCommit (q t : Nat) (grads : List (List (Int × List Nat))) (hw : Bool) (d : Dev) : Dev :=
  let c := cmdOf d t
  let id := cmdFld c 8 2
  if c.q ≠ q ∨ opcodeOf c ≠ 0x23 ∨ c.st = 0 ∨ frozenPart d (cmdPart d c) then d
  else if hw then trainStop t .dataError d
  else if c.st = 4 then trainEnd t d
  else if c.st = 1 ∧ c.launched.isSome ∧ cmdInvs d t = [] then
    let v := match d.ep.stage with | some (_, tag) => ctxVer d id tag | none => {}
    if d.ep.stage.any (fun s => s.1 == lget 0 c.aux 1) ∧ ¬ gradsFit v grads then d
    else match trainCompute t grads d with
      | (some st, d) => complete t st 0 d
      | (none, d) => maintSubmit { act := 0x102, obj := id, src := 3, tkt := t, limit := beat d + 100000000 } d
  else d

end Sys2Proof.Machine
end

