-- ==== Sys2Proof/Machine/RegView.lean ====
section
/-! DEFINITION. What a read of each register returns (R18): its held bits, with the read-only fields that other state decides. -/

namespace Sys2Proof.Machine

/-- Fields of a register, each (position, width, value), put over the bits `v`. -/
def putFlds (v : Nat) (fs : List (Nat × Nat × Nat)) : Nat := fs.foldl (fun v f => setBits v f.1 f.2.1 f.2.2) v

/-- A mask of the `n` first bits that pass `p`. -/
def maskOf (n : Nat) (p : Nat → Bool) : Nat := ((List.range n).map (fun k => b2n (p k) * 2 ^ k)).sum

/-! ## EDG_ blocks -/

/-- A breakout port whose link is up holds back a configuration (R53). -/
def cfgHeld (d : Dev) (bp : Nat) : Bool := (bpOf d bp).link && (bpOf d bp).cfg != (regVal d (rPortCfg (bp / 4)) &&& heldMask)

/-- EDG_PORT_STATUS of package port `p` (Table 2.4). -/
def portView (d : Dev) (p v : Nat) : Nat :=
  putFlds v [(0, 4, maskOf 4 (fun s => (bpOf d (4 * p + s)).link)), (4, 4, maskOf 4 (fun s => (bpOf d (4 * p + s)).txHold)),
    (8, 4, (physOf d p).laneLock), (12, 1, b2n (physOf d p).calBusy), (13, 1, b2n (physOf d p).recalDue),
    (14, 1, b2n ((List.range 4).any (fun s => cfgHeld d (4 * p + s))))]

/-- A register of edge die `i` at offset `o` (Tables 2.4, 3.10, 4.12, 5.1, 16.10). -/
def edgView (d : Dev) (i o v : Nat) : Nat :=
  if 0x10000 ≤ o ∧ o < 0x10800 then
    let p := 8 * i + (o - 0x10000) / 0x100
    let bp := 4 * p + (o % 0x100 - 0x20) / 8
    let x := o % 0x100
    if x = 4 then portView d p v
    else if 0x20 ≤ x ∧ x < 0x40 then if x % 8 = 0 then macLoOf d bp else macOf d bp / 2 ^ 32
    else v
  else if o = 0x20180 then
    let n := tcount (fun k r => k / 2 ^ 20 == i && r.used) d.edge.rules
    let st := tcount (fun k r => k / 2 ^ 20 == i && decide (2 ^ 19 ≤ k % 2 ^ 20) && r.used) d.edge.rules
    putFlds v [(0, 20, n - st), (20, 5, st), (26, 1, b2n (tget false d.edge.sweepBusy i))]
  else if o = 0x20184 then
    let n := flowCount d i
    let st := tcount (fun k e => k / 2 ^ 23 == i && decide (2 ^ 22 ≤ k % 2 ^ 23) && e.valid) d.edge.flowTab
    putFlds v [(0, 23, n), (23, 5, st), (29, 1, b2n (n == 2 ^ 22))]
  else if o = 0x30014 then
    putFlds 0 [(0, 17, tcount (fun k q => k / 65536 == i && q.used) d.edge.deep), (17, 7, ceilDiv (heldDeep d i) 1048576),
      (24, 1, b2n (!(fifoOf d i).isEmpty))]
  else if 0x40000 ≤ o ∧ o < 0x48000 then
    let bp := 32 * i + (o - 0x40000) / 0x400
    let x := o % 0x400
    let q := x / 16
    if x < 0x100 ∧ x % 16 = 12 then
      putFlds 0 [(0, 27, 256 * queueCells d bp q (fun _ => true)), (27, 1, b2n (paused d bp q)), (28, 1, b2n (gateOpen d bp q)),
        (29, 1, b2n (shaperOk d bp q))]
    else if x = 0x114 then putFlds v [(2, 1, b2n (gatesOf d bp).bank), (3, 1, b2n (gatesOf d bp).pending)]
    else v
  else if o = 0x48000 then putFlds v [(0, 17, freeShared d i / 4)]
  else if 0xA0000 ≤ o ∧ o < 0xA0050 then
    let n := 5 * i + (o - 0xA0000) / 16
    let l := linkOf d n
    if o % 16 = 0 then (if jodonOff d n then 0 else v)
    else putFlds 0 [(0, 3, linkState d n), (3, 3, l.partner), (6, 5, l.partnerLink), (11, 2, l.cause), (13, 1, b2n (jodonOff d n)),
      (14, 1, b2n l.recalDue), (16, 16, l.downs)]
  else v

/-! ## CMP_ blocks -/

/-- Whether a core runs an invocation. -/
def coreBusy (d : Dev) (c : Nat) : Bool := (coreOf d c).inv != 0

/-- A register of compute die `n` at offset `o` (Tables 6.10, 6.11, 7.5, 9.8, 19.9). -/
def cmpView (d : Dev) (n o v : Nat) : Nat :=
  let k := o / 4 % 16
  let cl := 6 * n + k
  let c := 48 * n + o / 4 % 64
  if o = 0 then
    let out := maskOf 6 (fun k => clusterExcluded d (6 * n + k))
    putFlds v [(0, 4, arraysPerCore d), (4, 6, 63 - out), (10, 6, out)]
  else if 0x100 ≤ o ∧ o < 0x130 then ((List.range 4).map (fun j => arrayMap d (48 * n + o % 0x100 + j) * 256 ^ j)).sum
  else if 0x200 ≤ o ∧ o < 0x218 then
    putFlds v [(0, 2, clusterPower d cl), (2, 8, maskOf 8 (fun t => coreBusy d (8 * cl + t))),
      (13, 1, b2n ((List.range 8).any (fun t => bitOf (regVal d (rCoreFault (8 * cl + t))) 4)))]
  else if 0x400 ≤ o ∧ o < 0x418 then
    putFlds v [(2, 8, maskOf 8 (fun t => (coreOf d (8 * cl + t)).windows.any (fun w => w.2.isOpen)))]
  else if 0x700 ≤ o ∧ o < 0x7C0 then putFlds v [(0, 2, pealState (coreOf d c)), (16, 15, ((coreOf d c).pregs.map (·.nNodes)).sum)]
  else if 0x800 ≤ o ∧ o < 0x818 then
    putFlds v [(8, 7, curStep d cl), (15, 1, b2n (tget 0 d.pwr.raiseDue cl != 0 || d.pwr.queue.contains (cl, true)))]
  else v

/-! ## STO_ blocks -/

/-- A register of store die `i` at offset `o` (Tables 10.8, 12.6, 12.8). -/
def stoView (d : Dev) (i o v : Nat) : Nat :=
  if 0x10 ≤ o ∧ o < 0x1C then
    let m := stackOf d (3 * i + (o - 0x10) / 4)
    putFlds v [(0, 1, b2n m.trained), (1, 1, b2n m.failed), (2, 8, m.temp), (10, 1, b2n (m.level != 0)), (11, 2, m.level - 1)]
  else if 0x1000 ≤ o ∧ o < 0x10C0 then (if i = 0 then putFlds v [(2, 1, b2n (rowInUse d ((o - 0x1000) / 4)))] else v)
  else if o = 0x18004 then putFlds v [(0, 1, b2n (attnBusy d i)), (3, 8, attnBuf d i)]
  else v

/-! ## HUB_ block -/

/-- HUB_PART_INFO of partition `p` (R487). -/
def partView (d : Dev) (p : Nat) : Nat :=
  let x := partOf d p
  if x.exist then
    putFlds 1 [(1, 1, b2n x.resetting), (2, 1, x.fn / 64), (3, 6, x.fn % 64), (9, 1, x.hier), (10, 7, popcount x.clusters 96)]
  else 0

/-- Wakes pending in a Thaw group. -/
def pendingWakes (d : Dev) (g : Nat) : Nat := (d.pwr.wakes.filter (fun w => thawGroup w.dom == g)).length

/-- A register of the hub at offset `o` (Tables 13.10, 14.5, 15.8, 16.12, 18.9, 19.9). -/
def hubView (d : Dev) (o v : Nat) : Nat :=
  let t := d.time
  if o = 8 then
    putFlds 0 [(0, 1, b2n d.boot.ready), (1, 1, b2n (pcieOf d 0).linkUp), (2, 1, b2n (pcieOf d 1).linkUp), (3, 1, b2n d.boot.fault)]
  else if o = 0x2000 then d.ep.cur
  else if o = 0x2004 then
    putFlds v [(0, 2, d.ep.curTag), (2, 2, (d.ep.drain.map (·.2)).getD 3), (4, 2, (d.ep.stage.map (·.2)).getD 3),
      (6, 1, b2n d.ep.flip.isSome), (7, 1, b2n d.ep.retiring), (8, 1, b2n (bitOf v 8 || (otpCfg d).sigRequired))]
  else if o = 0x2008 then (match d.ep.drain with | some e => min (2 ^ 32 - 1) (inFlight d e.2) | none => 0)
  else if o = 0x2010 then tcount (fun _ c => c.exist) d.ctxs
  else if o = 0x300C then setBits v 0 1 (b2n d.partOp.isSome)
  else if 0x3100 ≤ o ∧ o < 0x3200 then partView d ((o - 0x3100) / 4)
  else if o = 0x6000 then setBits v 0 3 (ownPkg d)
  else if o = 0x6004 then t.beat % 2 ^ 32
  else if o = 0x6008 then t.beatHi % 2 ^ 32
  else if o = 0x600C then
    putFlds v [(0, 3, rootId d), (3, 1, b2n (t.root.isNone || t.root == some (ownPkg d))), (4, 2, t.bstate), (6, 3, t.hops),
      (16, 16, wrapInt 16 (max (-32767) (min 32767 t.offset)))]
  else if o = 0x6010 then t.todNs % 1000000000
  else if o = 0x6014 then t.todSec % 2 ^ 32
  else if o = 0x6018 then t.todSec / 2 ^ 32 % 65536
  else if o = 0x6020 then
    putFlds v [(0, 2, t.tstate), (2, 1, b2n t.slewing), (3, 1, b2n (t.stepPend.isSome || t.stepSec.isSome)), (4, 1, b2n t.ppsValid),
      (5, 1, b2n t.refValid), (6, 1, b2n t.swValid)]
  else if o = 0x6034 then t.ppsNs
  else if o = 0x6038 then t.snap % 1000000000
  else if o = 0x603C then t.snap / 1000000000 % 2 ^ 32
  else if o = 0x6040 then t.snap / 1000000000 / 2 ^ 32 % 65536
  else if o = 0x7000 then
    putFlds v [(0, 16, d.obs.latched), (16, 1, b2n d.obs.gong.isSome), (18, 3, d.obs.lastOrigin)]
  else if o = 0x7004 then d.obs.lastT % 2 ^ 32
  else if o = 0x7008 then d.obs.lastT / 2 ^ 32
  else if 0x7100 ≤ o ∧ o < 0x7500 ∧ o % 16 = 12 then setBits v 12 1 (b2n (frozenPart d ((o - 0x7100) / 16)))
  else if o = 0x8004 then
    putFlds v [(0, 12, powerAvg d), (12, 5, dutyNow d), (17, 1, b2n (decide (d.pwr.duty < 16))), (19, 12, (otpCfg d).powerW)]
  else if o = 0x800C then
    putFlds v [(0, 8, ((hottest d).2 / 4).toNat), (8, 5, compSite ((hottest d).1 / 5)), (13, 1, b2n d.pwr.throtOn)]
  else if o = 0x8010 then
    putFlds 0 [(0, 5, pendingWakes d 0), (5, 5, pendingWakes d 1), (10, 5, pendingWakes d 2), (15, 5, pendingWakes d 3),
      (20, 4, pendingWakes d 4), (24, 5, pendingWakes d 5), (29, 2, pendingWakes d 6)]
  else v

/-! ## AON_ block -/

/-- A register of the Tynas island at offset `o` of its block (Tables 17.11, 20.12, 21.11). -/
def aonView (d : Dev) (o v : Nat) : Nat :=
  let i := d.isl
  if o = 0 then
    putFlds 0 [(0, 1, i.active), (1, 1, i.running.getD 0), (2, 1, b2n i.fwPending), (3, 2, i.attempts), (5, 7, floorOf d), (12, 7, i.runSv),
      (19, 4, arraysPerCore d), (23, 1, b2n i.update.isSome)]
  else if o = 4 then i.build
  else if o = 8 then putFlds 0 [(0, 13, i.log.length), (13, 1, b2n (!i.unsaved.isEmpty))]
  else if o = 0xC then b2n i.alert
  else if o = 0x10 then
    putFlds v [(0, 5, min 31 (d.maint.filter (·.granted)).length), (5, 5, min 31 (d.maint.filter (fun r => !r.granted)).length)]
  else if 0x100 ≤ o ∧ o < 0x140 then let k := (o - 0x100) / 2; tget 0 i.trouble k + 65536 * tget 0 i.trouble (k + 1)
  else if o = 0x214 then i.nonce.getD 0 % 2 ^ 32
  else if o = 0x218 then i.nonceHi
  else if o = 0x300 then putFlds v [(0, 2, d.boot.cause), (3, 1, b2n d.boot.afterTrip)]
  else if o = 0x304 then
    putFlds 0 [(0, 3, d.boot.step), (3, 1, b2n d.boot.hold), (4, 1, b2n d.boot.failed), (5, 3, d.boot.failCause),
      (8, 24, min (2 ^ 24 - 1) d.boot.bootMs)]
  else if o = 0x308 then
    putFlds 0 [(0, 3, lcState d), (3, 1, b2n d.otp.wipeDone), (4, 1, b2n d.boot.token), (5, 1, b2n (jtagOk d 1))]
  else if o = 0x30C then
    putFlds 0 [(0, 2, d.boot.gen.getD 0), (2, 4, maskOf 4 (fun g => (tget {} d.otp.gens g).valid || (tget {} d.otp.gens g).used)),
      (6, 1, b2n (nextGen d.otp != d.boot.gen)), (7, 1, b2n ((List.range 4).all (fun g => (tget {} d.otp.gens g).used)))]
  else if 0x480 ≤ o ∧ o < 0x500 then
    let n := (o - 0x480) / 4
    putFlds v [(0, 1, b2n (mfioLevel d n)), (1, 1, b2n (parked (mfioOf d n)))]
  else if o = 0x504 then putFlds v [(0, 6, d.pins.straps)]
  else if o = 0x508 then
    putFlds v [(0, 1, b2n (!d.pins.sysrefLost)), (2, 8, maskOf 8 (fun k => !tget false d.edge.refLost k)), (10, 2, 3),
      (12, 1, b2n d.time.refSeen)]
  else v

/-! ## FN_ pages -/

/-- A register of the page of function `fn` at offset `o` (Table 14.15). -/
def fnView (d : Dev) (fn o v : Nat) : Nat :=
  if o = 0 then
    match partOfFn d fn with
    | some p =>
      putFlds v [(0, 1, b2n (fnReady d fn)), (1, 1, b2n (partOf d p).resetting), (2, 6, p), (8, 7, (partOf d p).pairs),
        (15, 12, (partOf d p).vectors)]
    | none => v
  else if 0x100 ≤ o ∧ o < 0x230 ∧ o % 16 = 12 then
    let r := rringOf d (32 * fn + (o - 0x100) / 16)
    putFlds 0 [(0, 16, r.tail), (16, 1, b2n r.error), (17, 1, b2n r.cfgErr)]
  else if 0x800 ≤ o ∧ o < 0x1000 then
    let q := 64 * fn + (o - 0x800) / 32
    let p := pairOf d q
    if o % 32 = 0x18 then putFlds 0 [(0, 16, p.sqHead), (16, 16, p.cqTail)]
    else if o % 32 = 0x1C then
      putFlds 0 [(0, 1, b2n (outstanding d q == 0 && (!p.enabled || p.error))), (1, 1, b2n p.error), (2, 1, b2n p.cfgErr),
        (3, 1, b2n p.dbErr), (4, 17, outstanding d q)]
    else v
  else v

/-- What a read of the register at offset `a` returns (R18, R437, R613); its side effects have rows of their own. -/
def regRead (d : Dev) (a : Nat) : Nat :=
  let v := regVal d a
  if (regSpec a).isNone ∨ ¬ blockUp d a then 0
  else if a < 0x100000 then hubView d a v
  else if a < 0x200000 then aonView d (a - 0x100000) v
  else if 0x1000000 ≤ a ∧ a < 0x2000000 then edgView d ((a - 0x1000000) / 0x400000) (a % 0x400000) v
  else if 0x2000000 ≤ a ∧ a < 0x2800000 then stoView d ((a - 0x2000000) / 0x200000) (a % 0x200000) v
  else if 0x3000000 ≤ a ∧ a < 0x4000000 then cmpView d ((a - 0x3000000) / 0x100000) (a % 0x100000) v
  else fnView d (64 * (a / 2 ^ 32) + (a % 2 ^ 32 - 0x200000) / 0x1000) (a % 0x1000) v

end Sys2Proof.Machine
end

