-- ==== Sys2Proof/Machine/Observe.lean ====
section
/-! DEFINITION. Counter reads, the Gong, named-tensor dumps, the hang watchdog and the Rime dump (18_observability). -/

namespace Sys2Proof.Machine

/-! ## Counter groups (Table 18.3) -/

/-- A record: its 8-byte key and its counters of 8 bytes each. -/
def counterRec (key : Nat) (vs : List Nat) : List Byte := toLe 8 key ++ vs.flatMap (fun v => toLe 8 (v % 2 ^ 64))

/-- The counters `cs` of instance `i` in a bank. -/
def ctrsOf (t : Tab Nat) (i : Nat) (cs : List Ctr) : List Nat := cs.map (fun c => tget 0 t (ctrKey c i 0))

/-- A counter kept per index: `n` values from index `lo`. -/
def bankIdx (t : Tab Nat) (c : Ctr) (i lo n : Nat) : List Nat := (List.range n).map (fun j => tget 0 t (ctrKey c i (lo + j)))

/-- A counter whose first index runs over `n` instances from `lo`. -/
def bankRun (t : Tab Nat) (c : Ctr) (lo n : Nat) : List Nat := (List.range n).map (fun j => tget 0 t (ctrKey c (lo + j) 0))

/-- The counters of a breakout port (code 0x01). -/
def portCtrs : List Ctr :=
  [.rxFrames, .rxBytes, .txFrames, .txBytes, .rxRunt, .rxOversize, .rxFcsError, .rxFecCorrected, .rxFecUncorrectable, .rxMacCtrl,
   .txStomped, .dropTxHold, .dropLinkDown, .dropParseBusy, .shimSkip, .verdictFrames, .gateOverrun, .guardDrop, .guardMacDrop]

/-- The counters of an edge die (code 0x02). -/
def edgeCtrs (t : Tab Nat) (i : Nat) : List Nat :=
  bankIdx t .parseFail i 1 127 ++ bankIdx t .slowCause i 0x80 128
    ++ ctrsOf t i [.editFail, .flowLearned, .flowAged, .flowUntracked, .flowMissOverflow, .flowProfileAbsent]
    ++ bankIdx t .slowSent i 0 8 ++ bankIdx t .slowDrop i 0 8 ++ bankIdx t .verdictDrop i 0 4
    ++ ctrsOf t i [.expressAbsent, .deepSent, .deepApplied] ++ bankIdx t .deepDefault i 0 6
    ++ ctrsOf t i [.deepLate, .deepOrphan, .deepAbandoned, .expressMaskEmpty, .expressSumSat, .sampleLost]

/-- The four busy counters are held in parts of 1/16,000 cycle. -/
def busyCtrs (t : Tab Nat) (c : Nat) : List Nat := (ctrsOf t c [.coreCycles, .arrayBusy, .vectorBusy, .pealBusy]).map (· / 16000)

/-- The counters of a core after the busy ones (code 0x07). -/
def coreBank : List Ctr :=
  [.opbufBytes, .spadBytes, .poolBytes, .hbmBytes, .windowOutBytes, .windowInBytes, .accSatEvents, .semOverflowEvents, .arrayStall,
   .icacheMiss, .spadParity, .handleEccCorrected, .winRefused, .clipEvents, .nanZeroed, .scaleReservedRows, .driftEvents,
   .pealEccCorrected, .pealMaskEmpty, .pealSumSat, .pealStreamInvocations, .pealStreamBytes]

/-- The counters of a store die (code 0x0D). -/
def storeCtrs (t : Tab Nat) (i : Nat) : List Nat :=
  (List.range 3).flatMap (fun s => ctrsOf t (3 * i + s) [.hbmRdBytes, .hbmWrBytes, .hbmCe, .hbmUe, .hbmOndieCe, .hbmOndieUe])
    ++ ctrsOf t i [.sramCe, .sramUe, .hbmDenied, .gatherOob, .gatherMerged, .gatherBursts, .attnUnitsRead, .attnUnitsSkipped,
      .attnBytes, .kvCommits, .kvDataError, .zeroBytes]

/-- The completion statuses in the order of Table 14.17. -/
def statusOrder : List Status :=
  [.ok, .aborted, .invalidOpcode, .invalidField, .noContext, .tooLarge, .noSpace, .deadlineMissed, .windowFault, .linkDown,
   .epochStale, .epochBusy, .maintBusy, .accessDenied, .dataError, .queueReset, .portNotReady]

/-- The counters of the hub (code 0x12). -/
def hubCtrs (t : Tab Nat) : List Nat :=
  ctrsOf t 0 [.epochFlips]
    ++ [Status.epochBusy, .epochStale, .maintBusy, .accessDenied].map (fun s => tget 0 t (ctrKey .flipRefused s.code 0))
    ++ ctrsOf t 0 [.retireForced, .abandons, .stagingStale] ++ statusOrder.map (fun s => tget 0 t (ctrKey .imageRefused s.code 0))
    ++ bankRun t .partOpRefused 0 11 ++ ctrsOf t 0 [.beatMerges, .beatLoads, .todSteps, .ppsInMissing]
    ++ bankRun t .fwBound 0 4 ++ bankRun t .fwCoreFault 0 4 ++ bankRun t .maintGranted 1 8 ++ bankRun t .maintRefused 1 8
    ++ ctrsOf t 0 [.logEntries] ++ bankRun t .pcieRdBytes 0 2 ++ bankRun t .pcieWrBytes 0 2 ++ ctrsOf t 0 [.gongs]

/-- The counters of a function (code 0x10). -/
def hostCtrs (t : Tab Nat) (fn : Nat) : List Nat :=
  ctrsOf t fn [.fnPcieRd, .fnPcieWr] ++ bankRun t .sqFetched (64 * fn) 64 ++ bankRun t .cqWritten (64 * fn) 64
    ++ bankRun t .rqDrop (32 * fn) 19 ++ ctrsOf t fn [.eventLost, .accessFaults, .faultOverflow]

/-- The dies in scope. -/
def diesIn (n scope : Nat) : List Nat := if scope = 255 then List.range n else [scope]

/-- Dies of a group's scope, 0 where only 0xFF is allowed; none for an unknown group. -/
def groupDies : Nat → Option Nat
  | 1 | 2 | 3 | 4 | 5 | 6 | 0xD | 0xF => some 4
  | 7 | 8 | 9 | 0xA | 0xE => some 16
  | 0xB | 0xC | 0x10 | 0x11 | 0x12 => some 0
  | _ => none

/-- Whether a group is readable by PFs alone. -/
def groupPf (g : Nat) : Bool := [1, 2, 3, 5, 0xD, 0xE, 0xF, 0x12].contains g

/-- Whether a reader may read a cluster: a PF every one, a VF those its partition owns (R556). -/
def seesCluster (d : Dev) (me : Option Nat) (cl : Nat) : Bool := match me with | none => true | some p => ownsCluster d p cl
/-- Whether a reader may read a context. -/
def seesCtx (d : Dev) (me : Option Nat) (c : Nat) : Bool :=
  (ctxOf d c).exist && (match me with | none => true | some p => (ctxOf d c).owner == p)
/-- Whether a reader may read a logical table. -/
def seesTable (d : Dev) (me : Option Nat) (die t : Nat) : Bool := match me with | none => true | some p => tableOwner d die t == some p

/-- The 32-byte record of a rule slot (R560): stash slots are 524,288 to 524,303. -/
def ruleRec (d : Dev) (k : Nat) (r : RuleSlot) : List Byte :=
  let die := k / 2 ^ 20
  toLe 8 (k % 2 ^ 20 + die * 2 ^ 20 + r.table * 2 ^ 22) ++ toLe 4 (crc32c (regVal d (rRuleSeed die)) (ruleString r.table r.key))
    ++ toLe 1 r.key.length ++ toLe 1 r.birth ++ toLe 1 r.death ++ toLe 1 (b2n r.opn)
    ++ toLe 8 (ctrVal d .ruleHitPkts k 0) ++ toLe 8 (ctrVal d .ruleHitBytes k 0)

/-- An entry of a tag table, 80 bytes (R562). -/
def tagBytes (cl ctx layer op : Nat) (ovf : Bool) (counts : List Nat) : List Byte :=
  toLe 2 ctx ++ toLe 2 layer ++ toLe 2 op ++ toLe 1 cl ++ toLe 1 (b2n ovf)
    ++ (List.range 9).flatMap (fun j => toLe 8 ((lget 0 counts j / (if j < 4 then 16000 else 1)) % 2 ^ 64))

/-- A sync-trace record, 32 bytes (Table 18.4). -/
def syncBytesOf (r : SyncRec) : List Byte :=
  toLe 1 r.kind ++ toLe 1 r.obj ++ toLe 1 r.waiter ++ toLe 1 r.flags ++ toLe 2 r.signaller ++ toLe 2 r.n ++ toLe 8 r.time
    ++ toLe 4 r.wait ++ toLe 2 r.layer ++ toLe 2 r.operator ++ toLe 2 r.ctx ++ toLe 2 r.cluster ++ toLe 4 r.seq

/-- The clusters of a scope that a reader may read. -/
def clustersIn (d : Dev) (me : Option Nat) (scope : Nat) : List Nat :=
  ((diesIn 16 scope).flatMap (fun n => (List.range 6).map (6 * n + ·))).filter (seesCluster d me)

/-- The sat_count of the 16 streams that a core keeps of a context. -/
def satOf (d : Dev) (c : Nat) : List Nat := (List.range 16).map (fun s => (tget {} (coreOf d c).streams s).sat)

/-- The records of a group for a reader (`none` a PF, else the VF's partition), and their size (Table 18.3, R559 to R562, R566). -/
def groupRecs (d : Dev) (me : Option Nat) (fn g scope : Nat) (fr : Bool) : Nat × List (List Byte) :=
  let t := if fr then d.frozen else d.ctr
  let recs (ks : List Nat) (f : Nat → List Nat) : Nat × List (List Byte) := (8 + 8 * (f 0).length, ks.map (fun k => counterRec k (f k)))
  let e := diesIn 4 scope
  let ctxs := (d.ctxs.map (·.1)).filter (seesCtx d me)
  match g with
  | 1 => recs (e.flatMap (fun i => (List.range 32).map (32 * i + ·))) (fun k => ctrsOf t k portCtrs)
  | 2 => recs e (edgeCtrs t)
  | 3 => recs (e.flatMap (fun i => (List.range 512).map (512 * i + ·)))
      (fun k => [Ctr.dropQueueFull, .dropHeadroom, .dropGateOversize].map (fun c => tget 0 t (ctrKey c (k / 16) (k % 16))))
  | 4 => recs ((e.flatMap (fun i => (List.range 16).map (16 * i + ·))).filter (fun k => seesTable d me (k / 16) (k % 16)))
      (fun k => ctrsOf t k [.ruleMiss])
  | 5 => recs e (fun i => bankRun t .meterDrop (4096 * i + 1) 4095 ++ bankRun t .mirrorDrop (64 * i + 1) 63)
  | 6 => (32, (d.edge.rules.filter (fun x => x.2.used && !x.2.second && e.contains (x.1 / 2 ^ 20)
        && seesTable d me (x.1 / 2 ^ 20) x.2.table)).map (fun x => ruleRec d x.1 x.2))
  | 7 => recs ((clustersIn d me scope).flatMap (fun cl => (List.range 8).map (8 * cl + ·))) (fun k => busyCtrs t k ++ ctrsOf t k coreBank)
  | 8 => recs (clustersIn d me scope) (fun k => ctrsOf t k [.semRemoteReject])
  | 9 => (80, (clustersIn d me scope).flatMap (fun cl =>
      (tget [] (if fr then d.obs.frozenTags else d.obs.tags) cl).map (fun x => tagBytes cl x.ctx x.layer x.operator false x.counts)
        ++ [tagBytes cl 0 0 0 true (tget [] (if fr then d.obs.frozenOver else d.obs.tagsOver) cl)]))
  | 0xA => (40, (clustersIn d me scope).flatMap (fun cl =>
      let l := tget [] d.obs.trace cl
      (l.zip (List.range l.length)).map (fun x => toLe 8 (x.2 + cl * 2 ^ 10) ++ syncBytesOf x.1)))
  | 0xB => recs ctxs (fun k => ctrsOf t k [.invocations, .trainSteps, .trainExamples, .trainLrRefused, .trainNormRefused, .trainNonfinite,
      .fbAppended, .fbDropped])
  | 0xC => recs ((d.comp.cores.filter (fun x => x.2.persistOf != 0 && seesCtx d me (x.2.persistOf - 1))).map
        (fun x => x.2.persistOf - 1 + 65536 * x.1))
      (fun k => if fr then (List.range 16).map (fun s => lget 0 (tget [] d.obs.frozenSat k) s) else satOf d (k / 65536))
  | 0xD => recs e (storeCtrs t)
  | 0xE => recs (diesIn 16 scope) (fun k => ctrsOf t k [.poolRdBytes, .poolWrBytes, .gatherCacheHit, .gatherCacheMiss])
  | 0xF => recs (e.flatMap (fun i => (List.range 5).map (5 * i + ·)))
      (fun k => ctrsOf t k [.jodonTxBytes, .jodonRxBytes, .jodonBlocksTx, .jodonBlocksRx, .jodonReplays, .jodonFecCorrected,
        .jodonFecUncorrectable, .jodonDropLinkdown])
  | 0x10 => recs (match me with | some _ => [fn] | none => (List.range 128).filter (fnExists d)) (hostCtrs t)
  | 0x11 => recs (match me with | some p => [p] | none => (d.parts.filter (·.2.exist)).map (·.1))
      (fun k => ctrsOf t k [.partHbmRd, .partHbmWr, .partResets, .trainTorn, .rimeDumps])
  | _ => recs [0] (fun _ => hubCtrs t)

/-- The first `n` entries of the tag tables that a read returned are freed, cluster by cluster (R562). -/
def freeTags (fr : Bool) (cls : List Nat) (n : Nat) (d : Dev) : Dev :=
  (cls.foldl (fun (a : Nat × Dev) cl =>
    let o := a.2.obs
    let l := tget [] (if fr then o.frozenTags else o.tags) cl
    let left := tput [] (if fr then o.frozenTags else o.tags) cl (l.drop a.1)
    let ovf := if l.length < a.1 then tdel (if fr then o.frozenOver else o.tagsOver) cl else (if fr then o.frozenOver else o.tagsOver)
    (a.1 - (l.length + 1), { a.2 with obs := if fr then { o with frozenTags := left, frozenOver := ovf } else { o with tags := left, tagsOver := ovf } }))
    (n, d)).2

/-- The fields of a COUNTERS_READ that R557 refuses. -/
def countersBad (d : Dev) (c : Cmd) : Bool :=
  let w := cmdFld c 24 4
  let g := bitsOf w 0 8
  let scope := bitsOf w 8 8
  bitsOf w 18 14 != 0 || (match groupDies g with | none => true | some n => scope != 255 && decide (n ≤ scope))
    || (bitOf w 17 && g != 9) || (bitOf w 16 && (g == 0xA || g == 6 || !d.obs.hasFrozen)) || decide (cmdFld c 28 4 < 64)

/-- COUNTERS_READ (R556 to R560, R562). -/
def countersRead (t : Nat) (c : Cmd) (d : Dev) : Dev :=
  let w := cmdFld c 24 4
  let g := bitsOf w 0 8
  let scope := bitsOf w 8 8
  let fr := bitOf w 16
  let fn := cmdFn c
  let me := if fn % 64 = 0 then none else some (cmdPart d c)
  if countersBad d c then complete t .invalidField 0 d
  else if me.isSome ∧ groupPf g then complete t .accessDenied 0 d
  else
    let x := groupRecs d me fn g scope fr
    let n := min x.2.length ((cmdFld c 28 4 - 64) / x.1)
    let hdr := toLe 1 0x71 ++ toLe 1 g ++ toLe 1 scope ++ toLe 1 (b2n fr + 2 * b2n (decide (n < x.2.length)) + 4 * b2n (fr && d.obs.lastLate))
      ++ toLe 4 x.1 ++ toLe 4 n ++ toLe 4 x.2.length ++ toLe 8 (if fr then d.obs.lastT else beat d)
      ++ toLe 4 (if fr then d.obs.lastSeq else 0) ++ toLe 1 (if fr then d.obs.lastOrigin else 0) ++ zeroBytes 35
    let bs := hdr ++ (x.2.take n).flatten
    if ¬ dmaOk d fn (cmdFld c 32 8) bs.length true then complete t .accessDenied 0 d
    else complete t .ok bs.length (when (bitOf w 17) (freeTags fr (clustersIn d me scope) n) (hostWrite fn (cmdFld c 32 8) bs d))

/-! ## The Gong (R563 to R565) -/

/-- The freeze: every counter, tag table and stream count is copied, and waiting GONG commands complete with T. -/
def gongLatch (d : Dev) : Dev :=
  match d.obs.gong with
  | none => d
  | some g =>
    if beat d < g.at_ then d
    else
      let sats := (d.comp.cores.filter (fun x => x.2.persistOf != 0)).foldl
        (fun t x => tput [] t (x.2.persistOf - 1 + 65536 * x.1) (satOf d x.1)) []
      let d := { d with frozen := d.ctr }
      let d := onObs (fun o => { o with
        gong := none, frozenTags := o.tags, frozenOver := o.tagsOver, frozenSat := sats, hasFrozen := true
        latched := (o.latched + 1) % 65536, lastT := g.at_, lastOrigin := g.origin, lastSeq := g.seq, lastLate := g.late }) d
      let d := bump .gongs 0 0 (when g.late (setFld rGongStatus 17 1 1) d)
      ((d.cmds.filter (fun e => opcodeOf e.2 == 0x51 && e.2.st == 1)).map (·.1)).foldl (fun d t => complete t .ok g.at_ d) d

/-- A freeze is asked for: of two the earlier T stays, of equal T the lower origin; one whose T has passed latches at once. -/
def gongAsk (g : Gong) (d : Dev) : Dev :=
  let first := match d.obs.gong with | none => true | some h => decide (g.at_ < h.at_ ∨ (g.at_ = h.at_ ∧ g.origin < h.origin))
  if first then
    let late := decide (g.at_ < beat d)
    when late gongLatch (onObs (fun o => { o with gong := some { g with late } }) d)
  else d

/-- A GONG message for a link (R564). -/
def gongSend (n : Nat) (g : Gong) (hops : Nat) (d : Dev) : Dev :=
  linkSend n { type := 0x67, src := ownPkg d, dst := (linkOf d n).partner
               extra := toLe 8 g.at_ ++ toLe 1 g.origin ++ toLe 1 hops ++ zeroBytes 2 ++ toLe 4 g.seq ++ zeroBytes 24 } d

/-- GONG (R564, R565): the command waits for the latch. -/
def gongCmd (t : Nat) (c : Cmd) (d : Dev) : Dev :=
  let pod := cmdFld c 24 1 == 1
  let g : Gong := { at_ := beat d + (if pod then 20000 else 1000), origin := ownPkg d, seq := d.obs.nextSeq }
  let d := modCmd t (fun c => { c with st := 1 }) d
  let d := onObs (fun o => { o with nextSeq := (o.nextSeq + 1) % 2 ^ 32, seen := (g.origin, g.seq) :: o.seen }) d
  let d := if pod then (upLinks d).foldl (fun d n => gongSend n g 0 d) d else d
  gongAsk g d

/-- JODON_GONG (R564): a pair not seen before is scheduled and relayed. -/
def jodonGong (n : Nat) (d : Dev) : Dev :=
  match rxFind d n (fun m => m.type == 0x67) with
  | none => d
  | some m =>
    let f (o k : Nat) : Nat := leNat ((m.extra.drop o).take k)
    let g : Gong := { at_ := f 0 8, origin := f 8 1 % 8, seq := f 12 4 }
    let d := rxTake n m d
    if d.obs.seen.contains (g.origin, g.seq) then d
    else
      let d := onObs (fun o => { o with seen := (g.origin, g.seq) :: o.seen }) d
      let d := if f 9 1 < 7 then ((upLinks d).filter (· != n)).foldl (fun d k => gongSend k g (f 9 1 + 1) d) d else d
      gongAsk g d

/-! ## Named-tensor dumps (R567 to R569) -/

/-- TENSOR_DUMP_ARM (R567, R569). -/
def dumpArm (t : Nat) (c : Cmd) (d : Dev) : Dev :=
  let n := cmdFld c 8 2
  let live := d.obs.arms.filter (fun a => cmdLive d a.tkt)
  if ¬ ctxMine d c then complete t .noContext 0 d
  else if cmdFld c 28 4 < ctrVal d .invocations n 0 then complete t .invalidField 0 d
  else if 256 ≤ live.length ∨ 4 ≤ (live.filter (fun a => a.ctx == n)).length then complete t .noSpace 0 d
  else modCmd t (fun c => { c with st := 1 })
    (onObs (fun o => { o with arms := o.arms ++ [{ tkt := t, ctx := n, handle := cmdFld c 24 2, step := cmdFld c 28 4 }] }) d)

/-- The cores of a copy in what room is left, and whether all of them fitted (R568). -/
def dumpCores : Nat → List (Nat × Nat × List Byte) → List Byte × Bool
  | _, [] => ([], true)
  | room, (c, b, rows) :: xs =>
    if room < 64 then ([], false)
    else
      let n := min (rows.length / 512) ((room - 64) / 512)
      let mine := toLe 2 c ++ zeroBytes 2 ++ toLe 4 (rows.length / 512) ++ toLe 8 b ++ zeroBytes 48 ++ rows.take (512 * n)
      if 512 * n < rows.length then (mine, false)
      else
        let r := dumpCores (room - mine.length) xs
        (mine ++ r.1, r.2)

/-- TENSOR_DUMP_WRITE (R568, R569): the copy of an arm whose invocation has ended is written and the command completes. -/
def dumpWrite (t : Nat) (d : Dev) : Dev :=
  match d.obs.arms.find? (fun a => a.tkt == t) with
  | none => d
  | some a =>
    let c := cmdOf d t
    if ¬ a.done ∨ ¬ cmdLive d t ∨ frozenPart d (cmdPart d c) then d
    else
      let len := cmdFld c 40 4
      let r := dumpCores (len - 64) a.cores
      let hdr := toLe 1 0x72 ++ toLe 1 (b2n (!r.2) + 2 * b2n a.faulted) ++ toLe 2 a.ctx ++ toLe 1 a.handle ++ toLe 1 a.level
        ++ toLe 2 a.cores.length ++ toLe 4 a.step ++ zeroBytes 4 ++ toLe 8 ((a.cores.map (·.2.1)).foldl max a.beat)
        ++ (a.image ++ zeroBytes 16).take 16 ++ zeroBytes 24
      let bs := if len < 64 then [] else hdr ++ r.1
      if ¬ dmaOk d (cmdFn c) (cmdFld c 32 8) bs.length true then complete t .accessDenied 0 d
      else complete t .ok bs.length (hostWrite (cmdFn c) (cmdFld c 32 8) bs d)

/-! ## The watchdog and the Rime dump (R570 to R572) -/

/-- What a watchdog finds at a core: 1 a stall, 2 a run over its limit, 0 neither (R570). -/
def watchdogCause (d : Dev) (c p : Nat) : Nat :=
  let k := coreOf d c
  let stall := min 30000 (regFld d (rWdog p) 0 15)
  let lim := regFld d (rWdog p) 16 12
  if k.inv = 0 then 0
  else if stall ≠ 0 ∧ k.since + stall * 1000000 ≤ beat d then 1
  else if lim ≠ 0 ∧ (invOf d k.inv).since + lim * 10000000 ≤ beat d then 2 else 0

/-- The level of a partition's Rime dump, the size of its region and its base. -/
def rimeLevel (d : Dev) (p : Nat) : Nat := min 2 (regFld d (rWdog p) 28 2)
/-- The size of the region in bytes. -/
def rimeSize (d : Dev) (p : Nat) : Nat := regFld d (rRimeStatus p) 0 12 * 2 ^ 20
/-- The base of the region. -/
def rimeBase (d : Dev) (p : Nat) : Nat := base64 d (rWdog p + 4)

/-- The clusters of a partition. -/
def partClusters (d : Dev) (p : Nat) : List Nat := (List.range 96).filter (bitOf (partOf d p).clusters)

/-- The 4 KiB header of a dump (Table 18.6). -/
def rimeHeader (d : Dev) (p : Nat) (f : Frozen) (flags : Nat) (done : List Nat) (written : Nat) (fin : Nat) : List Byte :=
  let v := invOf d (coreOf d f.core).inv
  toLe 4 0x454D4952 ++ toLe 1 1 ++ toLe 1 (rimeLevel d p) ++ toLe 1 f.cause ++ toLe 1 flags ++ toLe 1 p
    ++ toLe 1 (partClusters d p).length ++ toLe 1 done.length ++ toLe 1 0 ++ toLe 2 f.core ++ toLe 2 (f.core / 8) ++ toLe 8 f.fire
    ++ toLe 8 fin ++ toLe 8 written ++ (((ctxVer d f.ctx v.tag).image.drop 32).take 16 ++ zeroBytes 16).take 16 ++ toLe 2 f.ctx
    ++ toLe 2 f.layer ++ toLe 2 f.operator ++ zeroBytes 2 ++ toLe 12 (done.foldl (fun m c => m + 2 ^ c) 0) ++ zeroBytes 4020

/-- WATCHDOG_FIRE (R570, R571): the partition of the core freezes; DMA transfers are cut at a 64-byte boundary, and the dump's
header is written with flag incomplete. -/
def watchdogFire (c : Nat) (d : Dev) : Dev :=
  match corePart d c with
  | none => d
  | some p =>
    let x := watchdogCause d c p
    if x = 0 ∨ frozenPart d p then d
    else
      let k := coreOf d c
      let f : Frozen := { cause := x, core := c, ctx := (invOf d k.inv).ctx, layer := k.layer, operator := k.operator, pc := k.pc, fire := beat d }
      let d := onObs (fun o => { o with frozen := tput none o.frozen p (some f) }) d
      let cores := (partClusters d p).flatMap (fun cl => (List.range 8).map (8 * cl + ·))
      let d := cores.foldl (fun d c => modCore c (fun k => { k with
        engines := tmod {} k.engines 10 (fun e => { e with run := e.run.filter (fun i => (dmaOf i.instr).isNone) }) }) (dmaCut c d)) d
      let fn := (partOf d p).fn
      if rimeSize d p ≠ 0 ∧ dmaOk d fn (rimeBase d p) 4096 true then hostWrite fn (rimeBase d p) (rimeHeader d p f 4 [] 0 0) d else d

/-- The waits in progress in a cluster, as records with flag incomplete (R566). -/
def openWaits (d : Dev) (cl : Nat) (f : Frozen) : List SyncRec :=
  let one (kind obj w n since : Nat) : SyncRec :=
    let k := coreOf d (8 * cl + w)
    let own := decide (w < 8)
    { kind, obj, waiter := w, flags := 2, signaller := 1023, n, time := beat d
      wait := min ((f.fire - since) * clockMHz d cl / 1000) (2 ^ 32 - 1)
      layer := if own then k.layer else 0, operator := if own then k.operator else 0
      ctx := if own then (invOf d k.inv).ctx else 0, cluster := cl, seq := 0 }
  ((List.range 8).filterMap (fun w =>
    let k := coreOf d (8 * cl + w)
    if k.fetchMiss then none
    else match k.stall with
      | some (.bar _ b) => some (one 1 b w (popcount (barOf d cl b).mask 9) k.since)
      | some (.swait _ s n) => some (one 2 s w n k.since)
      | some (.tokWait _ t n) => some (one 3 t w n k.since)
      | _ => none))
    ++ (List.range 4).filterMap (fun b =>
      let x := barOf d cl b
      if bitOf x.arrived 8 then some (one 1 b 8 (popcount x.mask 9) x.ctlSince) else none)

/-- The open waits of a cluster enter its trace. -/
def traceOpen (cl : Nat) (f : Frozen) (d : Dev) : Dev :=
  (openWaits d cl f).foldl (fun d r =>
    let seq := tget 0 d.obs.traceSeq cl
    let l := tget [] d.obs.trace cl ++ [{ r with seq }]
    onObs (fun o => { o with trace := tput [] o.trace cl (l.drop (l.length - 1024)), traceSeq := tput 0 o.traceSeq cl ((seq + 1) % 2 ^ 32) }) d) d

/-- `n` bytes that nothing in the model fixes: the registers of a controller, or instructions at an engine. -/
def freeBytes (d : Dev) (purpose arg n : Nat) : List Byte := (List.range n).map (fun j => BitVec.ofNat 8 (fresh d purpose (65536 * arg + j)))

/-- The 4 KiB block of a cluster (R572); its controller's registers are free values but for x0. -/
def clusterBlock (d : Dev) (cl : Nat) : List Byte :=
  padTo 4096 (toLe 4 (regRead d (rClusterStatus cl)) ++ zeroBytes 4
    ++ (List.range 16).flatMap (fun s => toLe 2 (semOf d cl s).value)
    ++ (List.range 4).flatMap (fun b => toLe 4 ((barOf d cl b).mask % 512 + 512 * (barOf d cl b).arrived)) ++ zeroBytes 8
    ++ zeroBytes 8 ++ freeBytes d 32 cl 272)

/-- What a core stands in: the stall kind and its object (Table 18.7). -/
def stallKind (d : Dev) (c : Nat) (k : Core) : Nat × Nat :=
  if k.fetchMiss then (5, 0)
  else match k.stall with
    | some (.bar _ b) => (1, b)
    | some (.swait _ s _) => (2, s)
    | some (.tokWait _ t _) => (3, t)
    | some i => match enginesOf d c i with | e :: _ => (4, e) | [] => (0, 0)
    | none => (0, 0)

/-- The 8 KiB state block of a core (Table 18.7); the 16 bytes of a queued instruction are free values. -/
def coreBlock (d : Dev) (c : Nat) (f : Frozen) : List Byte :=
  let k := coreOf d c
  let s := stallKind d c k
  let st := if k.inv = 0 then (if bitOf (regVal d (rCoreFault c)) 4 then 3 else 0) else if s.1 ≠ 0 then 2 else 1
  let wait := if s.1 = 0 then 0 else min ((f.fire - k.since) * clockMHz d (c / 8) / 1000) (2 ^ 32 - 1)
  padTo 8192 (toLe 2 c ++ toLe 1 st ++ toLe 1 s.1 ++ toLe 4 k.pc ++ toLe 4 wait ++ toLe 2 k.layer ++ toLe 2 k.operator
    ++ toLe 2 (invOf d k.inv).ctx ++ toLe 1 s.2 ++ zeroBytes 1 ++ toLe 4 (regRead d (rCoreFault c)) ++ toLe 4 (regRead d (rQstat c))
    ++ toLe 4 (regRead d (rPeal c)) ++ zeroBytes 32 ++ (List.range 32).flatMap (fun r => toLe 8 (sreg k r))
    ++ (List.range 32).flatMap (fun t => toLe 1 (tget 0 k.tokens t)) ++ (List.range 64).flatMap (fun h => toLe 8 (tget 0 k.handles h))
    ++ (List.range 12).flatMap (fun e =>
      let n := (engOf k e).queue.length
      freeBytes d (33 + e) c (16 * n) ++ zeroBytes (128 - 16 * n))
    ++ tbytes k.vregs 0 4096)

/-- The record of a core at a level. -/
def coreRecord (d : Dev) (c lvl : Nat) (f : Frozen) : List Byte :=
  coreBlock d c f
    ++ (if lvl = 0 then [] else (List.range 8192).flatMap (fun j => toLe 4 (tget 0 (coreOf d c).acc j)))
    ++ (if lvl < 2 then [] else tbytes (coreOf d c).spad 0 (768 * 512))

/-- The record of a cluster. -/
def clusterRecord (d : Dev) (cl lvl : Nat) (f : Frozen) : List Byte :=
  clusterBlock d cl ++ padTo 32768 ((tget [] d.obs.trace cl).flatMap syncBytesOf)
    ++ (List.range 8).flatMap (fun t => coreRecord d (8 * cl + t) lvl f)

/-- Bytes are written in requests of up to 4 KiB until one fails the check: whether all passed, the bytes written, the device. -/
def dumpPut (fn a : Nat) : Nat → List Byte → Nat → Dev → Bool × Nat × Dev
  | 0, _, n, d => (true, n, d)
  | fuel + 1, bs, n, d =>
    if bs.isEmpty then (true, n, d)
    else
      let x := bs.take 4096
      if dmaOk d fn (a + n) x.length true then dumpPut fn a fuel (bs.drop 4096) (n + x.length) (hostWrite fn (a + n) x d)
      else (false, n, d)

/-- Cluster records in turn while they fit: the clusters dumped, the bytes written, whether a request failed. -/
def dumpClusters (fn a size lvl : Nat) (f : Frozen) : List Nat → List Nat → Nat → Dev → List Nat × Nat × Nat × Dev
  | [], done, n, d => (done, n, 0, d)
  | cl :: cls, done, n, d =>
    let bs := clusterRecord d cl lvl f
    if size < n + bs.length then (done, n, 1, d)
    else
      let r := dumpPut fn a (bs.length / 4096 + 1) bs n d
      if r.1 then dumpClusters fn a size lvl f cls (done ++ [cl]) r.2.1 r.2.2 else (done, r.2.1, 2, r.2.2)

/-- The flag bits of a dump and its bytes: it is written, rewritten with its final header, and noted in HUB_RIME_STATUS. -/
def rimeDump (p : Nat) (f : Frozen) (d : Dev) : Nat × Nat × Dev :=
  let fn := (partOf d p).fn
  let a := rimeBase d p
  if rimeSize d p = 0 then (4, 0, d)
  else
    let r : List Nat × Nat × Nat × Dev :=
      if dmaOk d fn a 4096 true then dumpClusters fn a (rimeSize d p) (rimeLevel d p) f (partClusters d p) [] 4096 d else ([], 0, 2, d)
    let d := r.2.2.2
    let d := when (dmaOk d fn a 4096 true) (hostWrite fn a (rimeHeader d p f r.2.2.1 r.1 r.2.1 (beat d))) d
    (r.2.2.1, r.2.1, setFld (rRimeStatus p) 13 1 1 (when (r.2.2.1 == 2) (setFld (rRimeStatus p) 14 1 1) d))

/-- RIME_DUMP_DONE (R571, R572): the dump ends, HANG is posted and PARTITION_HUNG is logged. -/
def rimeDone (p : Nat) (d : Dev) : Dev :=
  match tget none d.obs.frozen p with
  | none => d
  | some f =>
    if f.dumped then d
    else
      let d := (partClusters d p).foldl (fun d cl => traceOpen cl f d) d
      let r := rimeDump p f d
      let d := bump .rimeDumps p 0 (freshStep r.2.2)
      let d := onObs (fun o => { o with frozen := tput none o.frozen p (some { f with dumped := true }) }) d
      let d := postEvent (partOf d p).fn 0x0020 (toLe 1 f.cause ++ toLe 1 (rimeLevel d p) ++ toLe 1 r.1 ++ toLe 1 0 ++ toLe 2 f.core
        ++ toLe 2 f.ctx ++ toLe 2 f.layer ++ toLe 2 f.operator ++ toLe 4 f.pc ++ toLe 8 f.fire ++ toLe 8 r.2.1) d
      islandLog 0x0117 (compSite (f.core / 48)) (f.core % 48) (toLe 1 p) d

end Sys2Proof.Machine
end

