-- ==== Sys2Proof/Machine/ObserveRows.lean ====
section
/-! DEFINITION. The rows of counters, the Gong, dumps and the hang watchdog (18_observability). -/

namespace Sys2Proof.Machine

/-- COUNTERS_READ (R557 to R560). -/
def execCountersRead (q : Nat) (t : Nat) (s : State) := runIf (within [(q, 8192)]) (startCmd 0x50 q t (countersRead t)) s
/-- GONG (R564, R565). -/
def execGong (q : Nat) (t : Nat) (s : State) := runIf (within [(q, 8192)]) (startCmd 0x51 q t (gongCmd t)) s
/-- TENSOR_DUMP_ARM (R567, R569). -/
def execTensorDumpArm (q : Nat) (t : Nat) (s : State) := runIf (within [(q, 8192)]) (startCmd 0x52 q t (dumpArm t)) s
/-- JODON_GONG (R564). -/
def execJodonGong (link : Nat) (s : State) := runIf (within [(link, 20)]) (jodonGong link) s
/-- GONG_LATCH (R563, R565). -/
def execGongLatch (s : State) := run (.gongLatch) (gongLatch) s
/-- TENSOR_DUMP_WRITE (R568, R569). -/
def execTensorDumpWrite (t : Nat) (s : State) := runIf (true) (dumpWrite t) s
/-- WATCHDOG_FIRE (R570, R571). -/
def execWatchdogFire (core : Nat) (s : State) := runIf (within [(core, 768)]) (watchdogFire core) s
/-- RIME_DUMP_DONE (R571, R572). -/
def execRimeDumpDone (p : Nat) (s : State) := runIf (within [(p, 64)]) (rimeDone p) s

end Sys2Proof.Machine
end

