-- ==== Sys2Proof/Machine/PackageRows.lean ====
section
/-! DEFINITION. The exec rows of the bridges, the rails, the references and slow clusters. -/

namespace Sys2Proof.Machine

/-- BRIDGE_REPLAY (R27). -/
def execBridgeReplay (a : Nat) (b : Nat) (again : Bool) (s : State) :=
  runIf (decide (a < 25 ∧ b < 25 ∧ ((a / 5 = b / 5 ∧ (a + 1 = b ∨ b + 1 = a)) ∨ a + 5 = b ∨ b + 5 = a))) (bridgeReplay a b again) s
/-- BRIDGE_FAILED (R28). -/
def execBridgeFailed (a : Nat) (b : Nat) (training : Bool) (s : State) :=
  runIf (decide (a < 25 ∧ b < 25 ∧ ((a / 5 = b / 5 ∧ (a + 1 = b ∨ b + 1 = a)) ∨ a + 5 = b ∨ b + 5 = a))) (bridgeFailed a b training) s
/-- RAIL_FAULT (R650). -/
def execRailFault (rail : Nat) (s : State) := runIf (within [(rail, 12)]) (railFault rail) s
/-- VDD_AON_LOSS (R650). -/
def execVddAonLoss (s : State) := run (.vddAonLoss) (aonLoss) s
/-- SYSREF_LOST (R633). -/
def execSysrefLost (s : State) := run (.sysrefLost) (sysrefLost) s
/-- SMBUS_SCL_LOW_TIMEOUT (R659). -/
def execSmbusSclLowTimeout (s : State) := run (.smbusSclLowTimeout) (smbusTimeout) s
/-- STRAGGLER_EVAL (R662). -/
def execStragglerEval (cl : Nat) (ctx : Nat) (s : State) := runIf (within [(cl, 96), (ctx, 4096)]) (stragglerEval cl ctx) s

end Sys2Proof.Machine
end

