-- ==== Sys2Proof/Machine/PowerRows.lean ====
section
/-! DEFINITION. The exec rows of 19_power_clocks and of the resets and the boot (20_reset_boot_lifecycle). -/

namespace Sys2Proof.Machine

/-- SENSOR_SAMPLE (R534): the readings of the thermal sensors in quarters of a degree, and of the voltage monitors. -/
def execSensorSample (temps : List Int) (volts : List Nat) (s : State) :=
  runIf (temps.length == 112) (sensorSample temps volts) s
/-- VRM_TELEMETRY (R534): package power as the regulators tell it. -/
def execVrmTelemetry (w : Nat) (s : State) := runIf (within [(w, 65536)]) (onIsl (fun x => { x with powerW := w })) s
/-- CLUSTER_IDLE_ENTRY (R581). -/
def execClusterIdleEntry (cl : Nat) (s : State) := runIf (within [(cl, 96)]) (idleEntry cl) s
/-- CLUSTER_RETAIN_ENTRY (R581). -/
def execClusterRetainEntry (cl : Nat) (s : State) := runIf (within [(cl, 96)]) (retainEntry cl) s
/-- CLUSTER_OFF_ENTRY (R581). -/
def execClusterOffEntry (cl : Nat) (s : State) := runIf (within [(cl, 96)]) (offEntry cl) s
/-- THAW_WAKE_REQUEST (R582). -/
def execThawWakeRequest (dom : Nat) (s : State) := runIf (within [(dom, 147)]) (thawRequest dom) s
/-- WAKE_START (R586). -/
def execWakeStart (dom : Nat) (s : State) := runIf (within [(dom, 147)]) (wakeStart dom) s
/-- WAKE_DONE (R586). -/
def execWakeDone (dom : Nat) (s : State) := runIf (within [(dom, 147)]) (wakeDone dom) s
/-- DOMAIN_FAILED (R587). -/
def execDomainFailed (dom : Nat) (s : State) := runIf (within [(dom, 147)]) (domainFailed dom) s
/-- IDLE_EXIT (R583). -/
def execIdleExit (cl : Nat) (s : State) := runIf (within [(cl, 96)]) (idleExit cl) s
/-- CLOCK_RAISE (R589). -/
def execClockRaise (cl : Nat) (s : State) := runIf (within [(cl, 96)]) (clockRaise cl) s
/-- POWER_ESTIMATE_UPDATE (R591): the estimate of the last microsecond. -/
def execPowerEstimateUpdate (w : Nat) (s : State) := runIf (within [(w, 65536)]) (estimateUpdate w) s
/-- POWER_CAP (R592). -/
def execPowerCap (s : State) := run (.powerCap) (powerCap) s
/-- POWER_LIMIT_WRITE (R599): `fw` says that a control core writes. -/
def execPowerLimitWrite (val : Nat) (fw : Bool) (s : State) := runIf (within [(val, 0x100000000)]) (powerLimitWrite val fw) s
/-- THERMAL_TRIP (R594). -/
def execThermalTrip (sensor : Nat) (s : State) := runIf (within [(sensor, 112)]) (thermalTrip sensor) s
/-- COLD_RESET (R600): the straps and the sensors as then read. -/
def execColdReset (straps : Nat) (temps : List Int) (s : State) :=
  runIf (within [(straps, 64)] && temps.length == 112) (coldReset straps temps) s
/-- SYS_RST_N_ASSERT (R603). -/
def execSysRstNAssert (s : State) := run (.sysRstNAssert) (sysRstAssert) s
/-- SYS_RST_N_RELEASE (R603). -/
def execSysRstNRelease (s : State) := run (.sysRstNRelease) (sysRstRelease) s
/-- RESET_HELD (R604). -/
def execResetHeld (s : State) := run (.resetHeld) (resetHeld) s
/-- PORT_RESET (R601): `perst` says that PERSTx_N is asserted. -/
def execPortReset (port : Nat) (perst : Bool) (s : State) := runIf (within [(port, 2)]) (portReset port perst) s
/-- PERST_DEASSERT (R613). -/
def execPerstDeassert (port : Nat) (s : State) := runIf (within [(port, 2)]) (perstDeassert port) s
/-- PCIE_CONFIG_READY (R613). -/
def execPcieConfigReady (port : Nat) (s : State) := runIf (within [(port, 2)]) (pcieReady port) s
/-- THERMAL_HOLD_CHECK (R609). -/
def execThermalHoldCheck (temps : List Int) (s : State) := runIf (temps.length == 112) (holdCheck temps) s
/-- RAIL_POWER_GOOD (R610). -/
def execRailPowerGood (s : State) := run (.railPowerGood) (railGood) s
/-- RAIL_FAILED (R610). -/
def execRailFailed (s : State) := run (.railFailed) (railFailed) s
/-- BOOT_STEP_DONE (R611): `bad` names stacks whose training failed; `clean` says that a wipe read back clean. -/
def execBootStepDone (bad : Nat) (clean : Bool) (s : State) := runIf (within [(bad, 0x1000)]) (bootStepDone bad clean) s
/-- PCIE_LINK_UP (R613). -/
def execPcieLinkUp (port : Nat) (s : State) := runIf (within [(port, 2)]) (pcieLinkUp port) s

end Sys2Proof.Machine
end

