-- ==== Sys2Proof/Machine/RegWrite.lean ====
section
/-! DEFINITION. Writes of registers (R16, R439, R613) and their rows. -/

namespace Sys2Proof.Machine

/-- A write to the register at `a` by function `fn`: discarded and recorded as UNMAPPED while the block of its die is not up
(R613). -/
def gate (fn a : Nat) (f : Dev → Dev) (d : Dev) : Dev := if blockUp d a then f d else accessFaultOf fn 0 a 4 d

/-- A plain write (R16). -/
def plainTo (a val : Nat) (d : Dev) : Dev :=
  match regSpec a with | some sp => setReg a (plainWrite sp (regVal d a) val) d | none => d

/-- A write of EDG_PORT_CFG: force_recal asks for a forced recalibration (R62). -/
def portCfgReg (p val : Nat) (d : Dev) : Dev := when (bitOf val 24) (forceRecal 1 p) (portCfgWrite p val d)

/-- A write of EDG_JODON_CFG: enable, retrain and force_recal (R493, R496, R524). -/
def jodonCfgReg (n val : Nat) (fw : Bool) (d : Dev) : Dev :=
  when (bitOf val 2) (forceRecal 2 n) (when (bitOf val 1) (jodonRetrain n) (jodonEnable n (bitOf val 0) fw d))

/-- A register of breakout port `bp` that the pending swap of its gates keeps as it is (R174). -/
def gateReg (bp a val : Nat) (d : Dev) : Dev :=
  if (gatesOf d bp).pending then setFld (rGateCtrl bp) 4 1 1 d else plainTo a val d

/-- A write of a register of edge die `i` at offset `o`, BAR0 offset `a`. -/
def edgWrite (i o a val : Nat) (fw : Bool) (d : Dev) : Dev :=
  let bp := 32 * i + (o - 0x40000) / 0x400
  let x := o % 0x400
  if 0x10000 ≤ o ∧ o < 0x10800 then
    let p := 8 * i + (o - 0x10000) / 0x100
    let y := o % 0x100
    let s := (y - 0x20) / 8
    if y = 0 then portCfgReg p val d
    else if 0x20 ≤ y ∧ y < 0x40 then
      if y % 8 = 0 then onEdge (fun e => { e with macLo := tput none e.macLo (4 * p + s) (some val) }) d else portMacWrite p s val fw d
    else plainTo a val d
  else if o = 0x20000 then ruleSeedWrite i val d
  else if o = 0x20004 then flowSeedWrite i val d
  else if o = 0x3000C then bufferCfgWrite a val d
  else if 0x40000 ≤ o ∧ o < 0x48000 then
    if x = 0x114 then gateCtrlWrite bp val d
    else if x = 0x118 ∨ x = 0x120 ∨ x = 0x124 then gateReg bp a val d
    else if x = 0x108 ∨ (x < 0x100 ∧ x % 16 = 8) then bufferCfgWrite a val d
    else plainTo a val d
  else if 0x80000 ≤ o ∧ o < 0x90000 then gateReg (32 * i + (o - 0x80000) / 0x800) a val d
  else if 0xA0000 ≤ o ∧ o < 0xA0050 ∧ o % 16 = 0 then jodonCfgReg (5 * i + (o - 0xA0000) / 16) val fw d
  else plainTo a val d

/-- A write of a register of compute die `n`. -/
def cmpWrite (n o a val : Nat) (d : Dev) : Dev :=
  if 0x500 ≤ o ∧ o < 0x5C0 ∧ bitOf val 4 then setReg a (setBits (setBits (regVal d a) 4 1 0) 24 8 0) d
  else if 0x800 ≤ o ∧ o < 0x818 then clockStepWrite (6 * n + (o - 0x800) / 4) val d
  else plainTo a val d

/-- A write of a register of store die `i`. -/
def stoWrite (i o a val : Nat) (d : Dev) : Dev :=
  if 0x1000 ≤ o ∧ o < 0x10C0 then (if i = 0 then rowmodeWrite ((o - 0x1000) / 4) val d else d)
  else if o = 0x18000 then attnCfgWrite i val d
  else plainTo a val d

/-- A write of a hub register by function `fn`. -/
def hubWrite (fn o val : Nat) (fw : Bool) (d : Dev) : Dev :=
  if o = 0x10 then (if bitOf val 0 then setReg o (setBits (setBits (regVal d o) 0 1 0) 16 16 0) d else d)
  else if o = 0x3008 then partCmd (bitsOf val 6 2) (fn / 64) (bitsOf val 0 6) d
  else if o = 0x601C then todCtrlWritten (plainTo o val d)
  else if o = 0x6024 then todAdj val d
  else if o = 0x6030 then todSetGo val d
  else if o = 0x8000 then powerLimitWrite val fw d
  else plainTo o val d

/-- A write of a register of the Tynas island through the port of function `fn`. -/
def aonWrite (fn o val : Nat) (fw : Bool) (d : Dev) : Dev :=
  if o = 0xC then when (bitOf val 1) (alertAck 0) d
  else if o = 0x20C then when (bitOf val 0) (mailboxGo (fn / 64)) d
  else if 0x400 ≤ o ∧ o < 0x480 then mfioWrite ((o - 0x400) / 4) val fw d
  else plainTo (0x100000 + o) val d

/-- A write of a ring's base (R445): discarded with cfg_error while the ring is enabled or not idle. -/
def baseWrite (busy : Bool) (bad : Dev → Dev) (a val : Nat) (d : Dev) : Dev := if busy then bad d else plainTo a val d

/-- A write of a register of the page of function `fn`. -/
def fnWrite (fn o a val : Nat) (d : Dev) : Dev :=
  let r := (o - 0x100) / 16
  let k := 32 * fn + r
  let p := (o - 0x800) / 32
  let q := 64 * fn + p
  if o = 0 then when (bitOf val 27) (fun d => { d with errUp := tput false d.errUp (2 * fn) false }) (plainTo a val d)
  else if o = 4 then when (bitOf val 0) (fnReset fn) (plainTo a val d)
  else if 0x100 ≤ o ∧ o < 0x230 then
    if o % 16 < 8 then baseWrite (rringOf d k).enabled (modRRing k (fun x => { x with cfgErr := true })) a val d
    else if o % 16 = 8 then ringCfgWrite fn (64 + r) val d
    else when (bitOf val 17) (modRRing k (fun x => { x with cfgErr := false })) d
  else if 0x800 ≤ o then
    if o % 32 < 16 then baseWrite ((pairOf d q).enabled || outstanding d q != 0) (modPair q (fun x => { x with cfgErr := true })) a val d
    else if o % 32 = 16 then ringCfgWrite fn p val d
    else if o % 32 = 0x1C then
      when (bitOf val 3) (modPair q (fun x => { x with dbErr := false })) (when (bitOf val 2) (modPair q (fun x => { x with cfgErr := false })) d)
    else plainTo a val d
  else d

/-- A write of 32 bits to the register at `a` (R16, R439); `fw` says that a control core made it. -/
def regWriteAt (fn a val : Nat) (fw : Bool) (d : Dev) : Dev :=
  if a < 0x100000 then hubWrite fn a val fw d
  else if a < 0x200000 then aonWrite fn (a - 0x100000) val fw d
  else if 0x1000000 ≤ a ∧ a < 0x2000000 then edgWrite ((a - 0x1000000) / 0x400000) (a % 0x400000) a val fw d
  else if 0x2000000 ≤ a ∧ a < 0x2800000 then stoWrite ((a - 0x2000000) / 0x200000) (a % 0x200000) a val d
  else if 0x3000000 ≤ a ∧ a < 0x4000000 then cmpWrite ((a - 0x3000000) / 0x100000) (a % 0x100000) a val d
  else fnWrite (64 * (a / 2 ^ 32) + (a % 2 ^ 32 - 0x200000) / 0x1000) (a % 0x1000) a val d

/-- REGISTER_WRITE: function `fn` writes `val` at offset `off` of its BAR0 (R436, R437); an offset that holds no register is an
access fault (R440). -/
def registerWrite (fn off val : Nat) (fw : Bool) (d : Dev) : Dev :=
  let a := barAddr fn off
  if (regSpec a).isNone then accessFaultOf fn 0 off 4 d
  else if blockUp d a then regWriteAt fn a val fw d else accessFaultOf fn 0 off 4 d

/-- PCIE_COMPLETION_TIMEOUT (R434): a read of function `fn` has failed with a PCIe error: the SQ fetch of pair `read` (R451), or
for 64 the descriptor fetch of a partition operation (Table 15.3). -/
def completionTimeout (fn read : Nat) (d : Dev) : Dev :=
  if read < 64 then
    let q := 64 * fn + read
    let p := pairOf d q
    if p.enabled ∧ ¬ p.error ∧ p.sqHead ≠ p.sqTail ∧ fnReady d fn ∧ ¬ frozenPart d ((partOfFn d fn).getD 64) then pairError q 2 d else d
  else if d.partOp.any (fun o => 64 * o.port == fn) then descFetched true 0 d
  else d

end Sys2Proof.Machine
end

