-- ==== Sys2Proof/Machine/RegRows.lean ====
section
/-! DEFINITION. The rows of register writes. -/

namespace Sys2Proof.Machine

/-- BUFFER_CFG_WRITE (R158). -/
def execBufferCfgWrite (addr : Nat) (val : Nat) (s : State) :=
  run (.bufferCfgWrite addr val) (gate 0 addr (bufferCfgWrite addr val)) s
/-- PORT_CFG_WRITE (R51 to R53). -/
def execPortCfgWrite (p : Nat) (val : Nat) (s : State) := run (.portCfgWrite p val) (gate 0 (rPortCfg p) (portCfgReg p val)) s
/-- PORT_FORCE_RECAL (R62). -/
def execPortForceRecal (p : Nat) (s : State) := run (.portForceRecal p) (gate 0 (rPortCfg p) (forceRecal 1 p)) s
/-- PORT_MAC_WRITE (R664). -/
def execPortMacWrite (p : Nat) (sem : Nat) (val : Nat) (fw : Bool) (s : State) :=
  run (.portMacWrite p sem val fw) (gate 0 (rMacHi p sem) (portMacWrite p sem val fw)) s
/-- RULE_SEED_WRITE (R117). -/
def execRuleSeedWrite (die : Nat) (val : Nat) (s : State) :=
  run (.ruleSeedWrite die val) (gate 0 (rRuleSeed die) (ruleSeedWrite die val)) s
/-- FLOW_SEED_WRITE (R117). -/
def execFlowSeedWrite (die : Nat) (val : Nat) (s : State) :=
  run (.flowSeedWrite die val) (gate 0 (rFlowSeed die) (flowSeedWrite die val)) s
/-- GATE_SWAP_ARM (R174): a write of EDG_GATE_CTRL. -/
def execGateSwapArm (bp : Nat) (val : Nat) (s : State) :=
  run (.gateSwapArm bp val) (gate 0 (rGateCtrl bp) (gateCtrlWrite bp val)) s
/-- ROWMODE_WRITE (R377). -/
def execRowmodeWrite (r : Nat) (val : Nat) (s : State) := run (.rowmodeWrite r val) (gate 0 (rRowmode r) (rowmodeWrite r val)) s
/-- ATTN_CFG_WRITE (R348). -/
def execAttnCfgWrite (die : Nat) (val : Nat) (s : State) :=
  runIf (within [(die, 4), (val, 2 ^ 32)]) (gate 0 (rAttnCfg die) (attnCfgWrite die val)) s
/-- CLOCK_STEP_WRITE (R589). -/
def execClockStepWrite (cl : Nat) (val : Nat) (s : State) :=
  runIf (within [(cl, 96), (val, 0x100000000)]) (gate 0 (rClkCfg cl) (clockStepWrite cl val)) s
/-- JODON_ENABLE_WRITE (R490, R493). -/
def execJodonEnableWrite (link : Nat) (en : Bool) (fw : Bool) (s : State) :=
  run (.jodonEnableWrite link en fw) (gate 0 (rJodonCfg link) (jodonEnable link en fw)) s
/-- JODON_RETRAIN (R524). -/
def execJodonRetrain (link : Nat) (s : State) := run (.jodonRetrain link) (gate 0 (rJodonCfg link) (jodonRetrain link)) s
/-- JODON_FORCE_RECAL (R496). -/
def execJodonForceRecal (link : Nat) (s : State) := run (.jodonForceRecal link) (gate 0 (rJodonCfg link) (forceRecal 2 link)) s
/-- PCIE_COMPLETION_TIMEOUT (R434, R451). -/
def execPcieCompletionTimeout (fn : Nat) (read : Nat) (s : State) :=
  run (.pcieCompletionTimeout fn read) (completionTimeout fn read) s
/-- REGISTER_WRITE (R16): `fw` says that a control core writes. -/
def execRegisterWrite (fn : Nat) (off : Nat) (val : Nat) (fw : Bool) (s : State) :=
  runIf (within [(fn, 128), (off, if fn % 64 = 0 then 2 ^ 26 else 4096), (val, 2 ^ 32)] && off % 4 == 0) (registerWrite fn off val fw) s

end Sys2Proof.Machine
end

