-- ==== Sys2Proof/Machine/RingRows.lean ====
section
/-! DEFINITION. The meanings of the rows of the rings (chapter 14). -/

namespace Sys2Proof.Machine

/-- SQ_DOORBELL (R457). -/
def execSqDoorbell (q : Nat) (val : Word64) (s : State) := run (.sqDoorbell q val) (sqDoorbell q val) s
/-- CQ_DOORBELL (R457). -/
def execCqDoorbell (q : Nat) (val : Word64) (s : State) := run (.cqDoorbell q val) (cqDoorbell q val) s
/-- RQ_DOORBELL (R457). -/
def execRqDoorbell (fn : Nat) (r : Nat) (val : Word64) (s : State) := run (.rqDoorbell fn r val) (rqDoorbell fn r val) s
/-- SQ_FETCH (R446, R451). -/
def execSqFetch (q : Nat) (s : State) := run (.sqFetch q) (sqFetch q) s
/-- RUN (R401, R455). -/
def execRun (q : Nat) (t : Nat) (s : State) := run (.run q t) (startCmd 0x20 q t (runCmd t)) s
/-- RUN_TREES (R401, R450). -/
def execRunTrees (q : Nat) (t : Nat) (s : State) := run (.runTrees q t) (startCmd 0x21 q t (runTrees t)) s
/-- TX_FRAME (R454). -/
def execTxFrame (q : Nat) (t : Nat) (s : State) := run (.txFrame q t) (startCmd 0x30 q t (txFrame t)) s
/-- TX_FRAME_ENQUEUE (R486). -/
def execTxFrameEnqueue (q : Nat) (t : Nat) (s : State) := run (.txFrameEnqueue q t) (txEnqueue q t) s
/-- RECORD_DELIVER (R458). -/
def execRecordDeliver (fn : Nat) (r : Nat) (s : State) := run (.recordDeliver fn r) (recordDeliver fn r) s
/-- IRQ_DELAY_EXPIRE (R461). -/
def execIrqDelayExpire (fn : Nat) (ring : Nat) (s : State) := run (.irqDelayExpire fn ring) (irqDelay fn ring) s
/-- MSIX_UNMASK (R461). -/
def execMsixUnmask (fn : Nat) (vec : Nat) (s : State) := run (.msixUnmask fn vec) (msixUnmask fn vec) s
/-- RING_ENABLE (R445): a configuration word with enable = 1 is written. -/
def execRingEnable (fn : Nat) (ring : Nat) (val : Nat) (s : State) :=
  run (.ringEnable fn ring val) (ringCfgWrite fn ring (setBits val 0 1 1)) s
/-- RING_DISABLE (R445): a configuration word with enable = 0 is written. -/
def execRingDisable (fn : Nat) (ring : Nat) (val : Nat) (s : State) :=
  run (.ringDisable fn ring val) (ringCfgWrite fn ring (setBits val 0 1 0)) s
/-- ACCESS_FAULT (R440). -/
def execAccessFault (fn : Nat) (bar : Nat) (off : Nat) (len : Nat) (s : State) :=
  run (.accessFault fn bar off len) (accessFault fn bar off len) s

end Sys2Proof.Machine
end

