-- ==== Sys2Proof/Machine/StoreRows.lean ====
section
/-! DEFINITION. The meanings of the rows of the store dies (chapter 12). -/

namespace Sys2Proof.Machine

/-- HBM_ACCESS (R378). -/
def execHbmAccess (owner : Nat) (addr : Nat) (kind : Nat) (data : List Byte) (err : Nat) (s : State) :=
  run (.hbmAccess owner addr kind data err) (hbmAccess owner addr kind data err) s
/-- STACK_TEMP_REPORT (R380). -/
def execStackTempReport (stack : Nat) (temp : Nat) (s : State) := run (.stackTempReport stack temp) (stackTemp stack temp) s
/-- COALESCER_SERVE (R382). -/
def execCoalescerServe (die : Nat) (stack : Nat) (pch : Nat) (bank : Nat) (s : State) :=
  run (.coalescerServe die stack pch bank) (coalescerServe die stack pch bank) s
/-- COALESCER_MAX_WAIT (R382). -/
def execCoalescerMaxWait (die : Nat) (stack : Nat) (pch : Nat) (bank : Nat) (s : State) :=
  run (.coalescerMaxWait die stack pch bank) (coalescerMaxWait die stack pch bank) s
/-- SRAM_PATROL (R386). -/
def execSramPatrol (die : Nat) (region : Nat) (idx : Nat) (err : Nat) (s : State) :=
  run (.sramPatrol die region idx err) (sramPatrol die region idx err) s
/-- HBM_SCRUB (R389). -/
def execHbmScrub (die : Nat) (addr : Nat) (err : Nat) (s : State) := run (.hbmScrub die addr err) (hbmScrub die addr err) s
/-- DIRECTORY_REQUEST (R392). -/
def execDirectoryRequest (die : Nat) (line : Nat) (l2 : Nat) (kind : Nat) (val : Nat) (s : State) :=
  run (.directoryRequest die line l2 kind val) (dirRequest die line l2 kind val) s
/-- DIRECTORY_WRITEBACK (R393). -/
def execDirectoryWriteback (die : Nat) (line : Nat) (l2 : Nat) (s : State) :=
  run (.directoryWriteback die line l2) (dirWriteback die line l2) s
/-- SNOOP_RESPONSE (R393). -/
def execSnoopResponse (die : Nat) (line : Nat) (l2 : Nat) (s : State) :=
  run (.snoopResponse die line l2) (snoopResponse die line l2) s

end Sys2Proof.Machine
end

