-- ==== Sys2Proof/Machine/TablaRows.lean ====
section
/-! DEFINITION. The meanings of the rows of the Tabla cores and clusters (chapters 6 to 9). -/

namespace Sys2Proof.Machine

/-- INVOCATION_LAUNCH (R205). -/
def execInvocationLaunch (cluster : Nat) (mask : Nat) (ctx : Nat) (tag : Nat) (serve : Serve) (handles : List (List Nat)) (programs : List Nat) (s : State) :=
  run (.invocationLaunch cluster mask ctx tag serve handles programs) (invocationLaunch cluster mask ctx tag serve handles programs) s
/-- ENGINE_START (R186). -/
def execEngineStart (core : Nat) (e : Nat) (s : State) := run (.engineStart core e) (engineStart core e) s
/-- ENGINE_COMPLETE (R187). -/
def execEngineComplete (core : Nat) (e : Nat) (s : State) := run (.engineComplete core e) (engineComplete core e) s
/-- SCALAR_ADD (Table 6.2). -/
def execScalarAdd (core : Nat) (rd : Nat) (ra : Nat) (rb : Nat) (s : State) :=
  run (.scalarAdd core rd ra rb) (scalar .add (.scalarAdd core rd ra rb) core rd ra rb) s
/-- SCALAR_SUB (Table 6.2). -/
def execScalarSub (core : Nat) (rd : Nat) (ra : Nat) (rb : Nat) (s : State) :=
  run (.scalarSub core rd ra rb) (scalar .sub (.scalarSub core rd ra rb) core rd ra rb) s
/-- SCALAR_AND (Table 6.2). -/
def execScalarAnd (core : Nat) (rd : Nat) (ra : Nat) (rb : Nat) (s : State) :=
  run (.scalarAnd core rd ra rb) (scalar .and (.scalarAnd core rd ra rb) core rd ra rb) s
/-- SCALAR_OR (Table 6.2). -/
def execScalarOr (core : Nat) (rd : Nat) (ra : Nat) (rb : Nat) (s : State) :=
  run (.scalarOr core rd ra rb) (scalar .or (.scalarOr core rd ra rb) core rd ra rb) s
/-- SCALAR_XOR (Table 6.2). -/
def execScalarXor (core : Nat) (rd : Nat) (ra : Nat) (rb : Nat) (s : State) :=
  run (.scalarXor core rd ra rb) (scalar .xor (.scalarXor core rd ra rb) core rd ra rb) s
/-- SCALAR_SHL (Table 6.2). -/
def execScalarShl (core : Nat) (rd : Nat) (ra : Nat) (rb : Nat) (s : State) :=
  run (.scalarShl core rd ra rb) (scalar .shl (.scalarShl core rd ra rb) core rd ra rb) s
/-- SCALAR_SHR (Table 6.2). -/
def execScalarShr (core : Nat) (rd : Nat) (ra : Nat) (rb : Nat) (s : State) :=
  run (.scalarShr core rd ra rb) (scalar .shr (.scalarShr core rd ra rb) core rd ra rb) s
/-- SAR (Table 6.2). -/
def execSar (core : Nat) (rd : Nat) (ra : Nat) (rb : Nat) (s : State) :=
  run (.sar core rd ra rb) (scalar .sar (.sar core rd ra rb) core rd ra rb) s
/-- MUL (Table 6.2). -/
def execMul (core : Nat) (rd : Nat) (ra : Nat) (rb : Nat) (s : State) :=
  run (.mul core rd ra rb) (scalar .mul (.mul core rd ra rb) core rd ra rb) s
/-- CMP (Table 6.2). -/
def execCmp (core : Nat) (ra : Nat) (rb : Nat) (s : State) := run (.cmp core ra rb) (cmpOp core ra rb) s
/-- LI (Table 6.2). -/
def execLi (core : Nat) (rd : Nat) (imm : Word64) (s : State) := run (.li core rd imm) (liOp core rd imm) s
/-- BR (Table 6.2). -/
def execBr (core : Nat) (cond : Cond) (target : Nat) (s : State) := run (.br core cond target) (brOp core cond target) s
/-- SCALAR_JMP (Table 6.2). -/
def execScalarJmp (core : Nat) (target : Nat) (s : State) := run (.scalarJmp core target) (jmpOp core target) s
/-- SCALAR_CALL (Table 6.2). -/
def execScalarCall (core : Nat) (target : Nat) (s : State) := run (.scalarCall core target) (callOp core target) s
/-- SCALAR_RET (Table 6.2). -/
def execScalarRet (core : Nat) (s : State) := run (.scalarRet core) (retOp core) s
/-- LOOP (Table 6.2). -/
def execLoop (core : Nat) (count : Nat) (body : Nat) (s : State) := run (.loop core count body) (loopOp core count body) s
/-- HALT (R234). -/
def execHalt (core : Nat) (s : State) := run (.halt core) (haltOp core) s
/-- MM (R202). -/
def execMm (core : Nat) (x : MmOp) (hw : Nat) (s : State) := run (.mm core x hw) (engIssue core (.mm core x hw)) s
/-- MM_G4 (R203). -/
def execMmG4 (core : Nat) (x : MmOp) (hw : Nat) (s : State) := run (.mmG4 core x hw) (engIssue core (.mmG4 core x hw)) s
/-- AS (R202). -/
def execAs (core : Nat) (x : AsOp) (s : State) := run (.as core x) (engIssue core (.as core x)) s
/-- ASLD (R202). -/
def execAsld (core : Nat) (x : AsOp) (s : State) := run (.asld core x) (engIssue core (.asld core x)) s
/-- OP (R202). -/
def execOp (core : Nat) (x : OpOp) (s : State) := run (.op core x) (engIssue core (.op core x)) s
/-- ACC_OUT (R199). -/
def execAccOut (core : Nat) (x : AccOut) (s : State) := run (.accOut core x) (engIssue core (.accOut core x)) s
/-- ACC_CLR (R199). -/
def execAccClr (core : Nat) (arr : Nat) (base : Nat) (n : Nat) (tok : Option Nat) (s : State) :=
  run (.accClr core arr base n tok) (engIssue core (.accClr core arr base n tok)) s
/-- VLD (R224). -/
def execVld (core : Nat) (vd : Nat) (src : Ref) (hw : Nat) (tok : Option Nat) (s : State) :=
  run (.vld core vd src hw tok) (engIssue core (.vld core vd src hw tok)) s
/-- VST (R204). -/
def execVst (core : Nat) (vs : Nat) (dst : Ref) (tok : Option Nat) (s : State) :=
  run (.vst core vs dst tok) (engIssue core (.vst core vs dst tok)) s
/-- VECTOR_ELEMENTWISE (R204). -/
def execVectorElementwise (core : Nat) (o : VecOp) (fmt : Nat) (vd : Nat) (va : Nat) (vb : Nat) (vc : Nat) (tok : Option Nat) (s : State) :=
  run (.vectorElementwise core o fmt vd va vb vc tok) (engIssue core (.vectorElementwise core o fmt vd va vb vc tok)) s
/-- VRED (R204). -/
def execVred (core : Nat) (kind : Nat) (fmt : Nat) (vd : Nat) (va : Nat) (tok : Option Nat) (s : State) :=
  run (.vred core kind fmt vd va tok) (engIssue core (.vred core kind fmt vd va tok)) s
/-- VCVT (R268). -/
def execVcvt (core : Nat) (x : CvtOp) (s : State) := run (.vcvt core x) (engIssue core (.vcvt core x)) s
/-- VRQ (R275). -/
def execVrq (core : Nat) (x : CvtOp) (s : State) := run (.vrq core x) (engIssue core (.vrq core x)) s
/-- VLUT (R204). -/
def execVlut (core : Nat) (vd : Nat) (va : Nat) (tab : Ref) (tok : Option Nat) (s : State) :=
  run (.vlut core vd va tab tok) (engIssue core (.vlut core vd va tab tok)) s
/-- VECTOR_PERMUTE (R204). -/
def execVectorPermute (core : Nat) (kind : Nat) (w : Nat) (vd : Nat) (va : Nat) (vb : Nat) (n : Nat) (tok : Option Nat) (s : State) :=
  run (.vectorPermute core kind w vd va vb n tok) (engIssue core (.vectorPermute core kind w vd va vb n tok)) s
/-- PEAL_LOAD (R303). -/
def execPealLoad (core : Nat) (store : Nat) (src : Ref) (n : Nat) (dst : Nat) (tok : Option Nat) (s : State) :=
  run (.pealLoad core store src n dst tok) (engIssue core (.pealLoad core store src n dst tok)) s
/-- PEAL_EVAL (R304). -/
def execPealEval (core : Nat) (x : PealOp) (hw : Nat) (s : State) :=
  run (.pealEval core x hw) (engIssue core (.pealEval core x hw)) s
/-- DMA_IN (R230). -/
def execDmaIn (core : Nat) (x : DmaOp) (s : State) := run (.dmaIn core x) (engIssue core (.dmaIn core x)) s
/-- DMA_OUT (R230). -/
def execDmaOut (core : Nat) (x : DmaOp) (s : State) := run (.dmaOut core x) (engIssue core (.dmaOut core x)) s
/-- GATHER (R381). -/
def execGather (core : Nat) (x : GatherOp) (s : State) := run (.gather core x) (engIssue core (.gather core x)) s
/-- WIN_RD (R244). -/
def execWinRd (core : Nat) (pkg : Nat) (target : Nat) (win : Nat) (row : Nat) (n : Nat) (dst : Ref) (tok : Option Nat) (s : State) :=
  run (.winRd core pkg target win row n dst tok) (engIssue core (.winRd core pkg target win row n dst tok)) s
/-- WIN_WR (R248). -/
def execWinWr (core : Nat) (pkg : Nat) (target : Nat) (win : Nat) (row : Nat) (n : Nat) (src : Ref) (tok : Option Nat) (s : State) :=
  run (.winWr core pkg target win row n src tok) (engIssue core (.winWr core pkg target win row n src tok)) s
/-- SLD (R224). -/
def execSld (core : Nat) (rd : Nat) (src : Ref) (width : Nat) (hw : Nat) (tok : Option Nat) (s : State) :=
  run (.sld core rd src width hw tok) (engIssue core (.sld core rd src width hw tok)) s
/-- SST (R218). -/
def execSst (core : Nat) (rs : Nat) (dst : Ref) (width : Nat) (tok : Option Nat) (s : State) :=
  run (.sst core rs dst width tok) (engIssue core (.sst core rs dst width tok)) s
/-- FILL (R236). -/
def execFill (core : Nat) (dst : Ref) (n : Nat) (pattern : Word32) (tok : Option Nat) (s : State) :=
  run (.fill core dst n pattern tok) (engIssue core (.fill core dst n pattern tok)) s
/-- COPY (R237). -/
def execCopy (core : Nat) (src : Ref) (dst : Ref) (arr : Nat) (n : Nat) (tok : Option Nat) (s : State) :=
  run (.copy core src dst arr n tok) (engIssue core (.copy core src dst arr n tok)) s
/-- TCOPY (R240). -/
def execTcopy (core : Nat) (src : Ref) (dst : Ref) (w : Nat) (tok : Option Nat) (s : State) :=
  run (.tcopy core src dst w tok) (engIssue core (.tcopy core src dst w tok)) s
/-- SREAD (R241). -/
def execSread (core : Nat) (src : Ref) (dst : Ref) (n : Nat) (w : Nat) (start : Nat) (stride : Nat) (tok : Option Nat) (s : State) :=
  run (.sread core src dst n w start stride tok) (engIssue core (.sread core src dst n w start stride tok)) s
/-- DMA_COMPLETE (R266). -/
def execDmaComplete (core : Nat) (s : State) := run (.dmaComplete core) (dmaComplete core) s
/-- GATHER_COMPLETE (R381). -/
def execGatherComplete (core : Nat) (s : State) := run (.gatherComplete core) (gatherComplete core) s
/-- TOK_WAIT (R187). -/
def execTokWait (core : Nat) (k : Nat) (n : Nat) (s : State) := run (.tokWait core k n) (tokWaitOp core k n) s
/-- BAR (R206). -/
def execBar (core : Nat) (b : Nat) (s : State) := run (.bar core b) (barOp core b) s
/-- SIG (R207). -/
def execSig (core : Nat) (sem : Nat) (n : Nat) (s : State) := run (.sig core sem n) (sigOp core sem n) s
/-- SIG_R (R208). -/
def execSigR (core : Nat) (cluster : Nat) (sem : Nat) (n : Nat) (s : State) :=
  run (.sigR core cluster sem n) (sigROp core cluster sem n) s
/-- SWAIT (R207). -/
def execSwait (core : Nat) (sem : Nat) (n : Nat) (s : State) := run (.swait core sem n) (swaitOp core sem n) s
/-- MARK (R561). -/
def execMark (core : Nat) (layer : Nat) (operator : Nat) (s : State) :=
  run (.mark core layer operator) (markOp core layer operator) s
/-- REMOTE_SIGNAL_ARRIVE (R208). -/
def execRemoteSignalArrive (cluster : Nat) (s : State) := run (.remoteSignalArrive cluster) (remoteSignal cluster) s
/-- BARRIER_CONTROLLER_ARRIVE (R206). -/
def execBarrierControllerArrive (cluster : Nat) (b : Nat) (s : State) :=
  run (.barrierControllerArrive cluster b) (barController cluster b) s
/-- BARRIER_MASK_WRITE (R206). -/
def execBarrierMaskWrite (cluster : Nat) (b : Nat) (mask : Nat) (s : State) :=
  run (.barrierMaskWrite cluster b mask) (barMask cluster b mask) s
/-- ICACHE_LINE_FILL (R190). -/
def execIcacheLineFill (core : Nat) (s : State) := run (.icacheLineFill core) (icacheFill core) s
/-- CLUSTER_ZERO_DONE (R253). -/
def execClusterZeroDone (cluster : Nat) (s : State) := run (.clusterZeroDone cluster) (zeroDone cluster) s
/-- RESIDENT_RELOAD (R254). -/
def execResidentReload (cluster : Nat) (ctx : Nat) (tag : Nat) (rows : List (Nat × Nat × List Byte)) (s : State) :=
  run (.residentReload cluster ctx tag rows) (residentReload cluster ctx tag rows) s

end Sys2Proof.Machine
end

