-- ==== Sys2Proof/Machine/TrainRows.lean ====
section
/-! DEFINITION. The rows of training in service (11_in_service_training) and INFERENCE_REQUEST. -/

namespace Sys2Proof.Machine

/-- TRAIN_STEP (R352 to R355): `fits` tells whether a fork finds its space (R233), `init` the dense weights of a version not trained before, where the toolchain's layout puts them. -/
def execTrainStep (q : Nat) (t : Nat) (fits : Bool) (init : List (List (Option Int × List Nat))) (s : State) :=
  runIf (within [(q, 8192)] && init.all (·.all (fun r => (match r.1 with | some e => decide (-64 ≤ e ∧ e ≤ 63) | none => true) && r.2.all (fun c => decide (c < 65536))))) (startCmd 0x23 q t (trainStart t fits init)) s
/-- TRAIN_COMMIT (R356 to R370). -/
def execTrainCommit (q : Nat) (t : Nat) (grads : List (List (Int × List Nat))) (hw : Bool) (s : State) :=
  runIf (within [(q, 8192)] && grads.all (·.all (fun r => decide (-64 ≤ r.1 ∧ r.1 ≤ 63) && r.2.all (fun c => decide (c < 256))))) (trainCommit q t grads hw) s
/-- INFERENCE_REQUEST (R146, R367). -/
def execInferenceRequest (die : Nat) (req : Nat) (s : State) := run (.inferenceRequest die req) (inferenceRequest die req) s

end Sys2Proof.Machine
end

