-- ==== Sys2Proof/Machine/Dispatch.lean ====
section
/-! DEFINITION. Every command of the block and its meaning. -/

namespace Sys2Proof.Machine

/-- A command's effect on everything but the queue. -/
def exec (i : Instr) (s : State) : Host.Outcome State Fault Refusal :=
  match i with
  | .frameReceive bp total bytes => Sys2Proof.Machine.execFrameReceive bp total bytes s
  | .frameBytesArrive bp bytes => Sys2Proof.Machine.execFrameBytesArrive bp bytes s
  | .frameEnd bp bytes fcsBad fecBad fecCorrected => Sys2Proof.Machine.execFrameEnd bp bytes fcsBad fecBad fecCorrected s
  | .macControlFrameReceive bp bytes => Sys2Proof.Machine.execMacControlFrameReceive bp bytes s
  | .pauseExpire bp queue => Sys2Proof.Machine.execPauseExpire bp queue s
  | .parserDispatch pa => Sys2Proof.Machine.execParserDispatch pa s
  | .claveLdb pa gd off => Sys2Proof.Machine.execClaveLdb pa gd off s
  | .claveLdh pa gd off => Sys2Proof.Machine.execClaveLdh pa gd off s
  | .claveLdw pa gd off => Sys2Proof.Machine.execClaveLdw pa gd off s
  | .claveLdbf pa gd off pos len => Sys2Proof.Machine.execClaveLdbf pa gd off pos len s
  | .claveAdv pa imm => Sys2Proof.Machine.execClaveAdv pa imm s
  | .claveAdvr pa gs sh => Sys2Proof.Machine.execClaveAdvr pa gs sh s
  | .claveSetc pa gs => Sys2Proof.Machine.execClaveSetc pa gs s
  | .claveGetc pa gd => Sys2Proof.Machine.execClaveGetc pa gd s
  | .claveMovi pa gd imm => Sys2Proof.Machine.execClaveMovi pa gd imm s
  | .claveMovhi pa gd imm => Sys2Proof.Machine.execClaveMovhi pa gd imm s
  | .claveMov pa gd gs => Sys2Proof.Machine.execClaveMov pa gd gs s
  | .claveAdd pa gd ga gb => Sys2Proof.Machine.execClaveAdd pa gd ga gb s
  | .claveSub pa gd ga gb => Sys2Proof.Machine.execClaveSub pa gd ga gb s
  | .claveAddi pa gd gs imm => Sys2Proof.Machine.execClaveAddi pa gd gs imm s
  | .claveAnd pa gd ga gb => Sys2Proof.Machine.execClaveAnd pa gd ga gb s
  | .claveOr pa gd ga gb => Sys2Proof.Machine.execClaveOr pa gd ga gb s
  | .claveXor pa gd ga gb => Sys2Proof.Machine.execClaveXor pa gd ga gb s
  | .claveAndi pa gd gs imm => Sys2Proof.Machine.execClaveAndi pa gd gs imm s
  | .claveOri pa gd gs imm => Sys2Proof.Machine.execClaveOri pa gd gs imm s
  | .claveShl pa gd gs imm5 => Sys2Proof.Machine.execClaveShl pa gd gs imm5 s
  | .claveShr pa gd gs imm5 => Sys2Proof.Machine.execClaveShr pa gd gs imm5 s
  | .claveBeq pa gs imm target => Sys2Proof.Machine.execClaveBeq pa gs imm target s
  | .claveBne pa gs imm target => Sys2Proof.Machine.execClaveBne pa gs imm target s
  | .claveBlt pa gs imm target => Sys2Proof.Machine.execClaveBlt pa gs imm target s
  | .claveBge pa gs imm target => Sys2Proof.Machine.execClaveBge pa gs imm target s
  | .claveBeqr pa ga gb target => Sys2Proof.Machine.execClaveBeqr pa ga gb target s
  | .claveBner pa ga gb target => Sys2Proof.Machine.execClaveBner pa ga gb target s
  | .claveJmp pa target => Sys2Proof.Machine.execClaveJmp pa target s
  | .claveSwitch pa gs targets => Sys2Proof.Machine.execClaveSwitch pa gs targets s
  | .claveCall pa target => Sys2Proof.Machine.execClaveCall pa target s
  | .claveRet pa => Sys2Proof.Machine.execClaveRet pa s
  | .claveHdr pa type => Sys2Proof.Machine.execClaveHdr pa type s
  | .claveKeyb pa gs bits => Sys2Proof.Machine.execClaveKeyb pa gs bits s
  | .claveKeyf pa off len => Sys2Proof.Machine.execClaveKeyf pa off len s
  | .claveFld pa fn gs => Sys2Proof.Machine.execClaveFld pa fn gs s
  | .claveFldp pa fn off len => Sys2Proof.Machine.execClaveFldp pa fn off len s
  | .claveCrc pa gd off len => Sys2Proof.Machine.execClaveCrc pa gd off len s
  | .claveCsum pa gd off len => Sys2Proof.Machine.execClaveCsum pa gd off len s
  | .claveTbl pa gd gs t => Sys2Proof.Machine.execClaveTbl pa gd gs t s
  | .claveEnc pa fn gs e => Sys2Proof.Machine.execClaveEnc pa fn gs e s
  | .claveMeta pa gd sel => Sys2Proof.Machine.execClaveMeta pa gd sel s
  | .claveSetm pa sel gs => Sys2Proof.Machine.execClaveSetm pa sel gs s
  | .claveDone pa => Sys2Proof.Machine.execClaveDone pa s
  | .claveFail pa code => Sys2Proof.Machine.execClaveFail pa code s
  | .claveSlow pa code => Sys2Proof.Machine.execClaveSlow pa code s
  | .claveNop pa => Sys2Proof.Machine.execClaveNop pa s
  | .parseBudget pa => Sys2Proof.Machine.execParseBudget pa s
  | .matchRelease bp => Sys2Proof.Machine.execMatchRelease bp s
  | .pfcRefresh bp prio => Sys2Proof.Machine.execPfcRefresh bp prio s
  | .flowMissAnswer die => Sys2Proof.Machine.execFlowMissAnswer die s
  | .flowLookupOrInsert die => Sys2Proof.Machine.execFlowLookupOrInsert die s
  | .flowWriteback die => Sys2Proof.Machine.execFlowWriteback die s
  | .flowCacheFlush die => Sys2Proof.Machine.execFlowCacheFlush die s
  | .flowAgingScan die => Sys2Proof.Machine.execFlowAgingScan die s
  | .flowAgingCandidate die => Sys2Proof.Machine.execFlowAgingCandidate die s
  | .flowAgingConfirm die => Sys2Proof.Machine.execFlowAgingConfirm die s
  | .stashReinsert die => Sys2Proof.Machine.execStashReinsert die s
  | .ruleSweepDone die => Sys2Proof.Machine.execRuleSweepDone die s
  | .deepRequestIssue die => Sys2Proof.Machine.execDeepRequestIssue die s
  | .deepDeadline die req => Sys2Proof.Machine.execDeepDeadline die req s
  | .inferenceResult die req status verdict score outputs => Sys2Proof.Machine.execInferenceResult die req status verdict score outputs s
  | .inferenceRequest die req => Sys2Proof.Machine.execInferenceRequest die req s
  | .txSelect bp => Sys2Proof.Machine.execTxSelect bp s
  | .txDone bp => Sys2Proof.Machine.execTxDone bp s
  | .gateEdge bp => Sys2Proof.Machine.execGateEdge bp s
  | .gateListSwap bp => Sys2Proof.Machine.execGateListSwap bp s
  | .gateSwapArm bp val => Sys2Proof.Machine.execGateSwapArm bp val s
  | .samplePeriodEnd bp => Sys2Proof.Machine.execSamplePeriodEnd bp s
  | .bufferCfgWrite addr val => Sys2Proof.Machine.execBufferCfgWrite addr val s
  | .interDieFrameArrive src dst => Sys2Proof.Machine.execInterDieFrameArrive src dst s
  | .portCfgWrite p val => Sys2Proof.Machine.execPortCfgWrite p val s
  | .portForceRecal p => Sys2Proof.Machine.execPortForceRecal p s
  | .portMacWrite p sem val fw => Sys2Proof.Machine.execPortMacWrite p sem val fw s
  | .ruleSeedWrite die val => Sys2Proof.Machine.execRuleSeedWrite die val s
  | .flowSeedWrite die val => Sys2Proof.Machine.execFlowSeedWrite die val s
  | .laneLockLoss p lane => Sys2Proof.Machine.execLaneLockLoss p lane s
  | .calibrationDone p => Sys2Proof.Machine.execCalibrationDone p s
  | .linkUp bp => Sys2Proof.Machine.execLinkUp bp s
  | .txHoldIdlesDone bp => Sys2Proof.Machine.execTxHoldIdlesDone bp s
  | .txHoldTimeout bp => Sys2Proof.Machine.execTxHoldTimeout bp s
  | .linkDown bp => Sys2Proof.Machine.execLinkDown bp s
  | .egressDiscardDone bp => Sys2Proof.Machine.execEgressDiscardDone bp s
  | .txRefLost die ref => Sys2Proof.Machine.execTxRefLost die ref s
  | .txRefReturn die ref => Sys2Proof.Machine.execTxRefReturn die ref s
  | .invocationLaunch cluster mask ctx tag serve handles programs => Sys2Proof.Machine.execInvocationLaunch cluster mask ctx tag serve handles programs s
  | .engineStart core e => Sys2Proof.Machine.execEngineStart core e s
  | .engineComplete core e => Sys2Proof.Machine.execEngineComplete core e s
  | .scalarAdd core rd ra rb => Sys2Proof.Machine.execScalarAdd core rd ra rb s
  | .scalarSub core rd ra rb => Sys2Proof.Machine.execScalarSub core rd ra rb s
  | .scalarAnd core rd ra rb => Sys2Proof.Machine.execScalarAnd core rd ra rb s
  | .scalarOr core rd ra rb => Sys2Proof.Machine.execScalarOr core rd ra rb s
  | .scalarXor core rd ra rb => Sys2Proof.Machine.execScalarXor core rd ra rb s
  | .scalarShl core rd ra rb => Sys2Proof.Machine.execScalarShl core rd ra rb s
  | .scalarShr core rd ra rb => Sys2Proof.Machine.execScalarShr core rd ra rb s
  | .sar core rd ra rb => Sys2Proof.Machine.execSar core rd ra rb s
  | .cmp core ra rb => Sys2Proof.Machine.execCmp core ra rb s
  | .li core rd imm => Sys2Proof.Machine.execLi core rd imm s
  | .mul core rd ra rb => Sys2Proof.Machine.execMul core rd ra rb s
  | .br core cond target => Sys2Proof.Machine.execBr core cond target s
  | .scalarJmp core target => Sys2Proof.Machine.execScalarJmp core target s
  | .scalarCall core target => Sys2Proof.Machine.execScalarCall core target s
  | .scalarRet core => Sys2Proof.Machine.execScalarRet core s
  | .loop core count body => Sys2Proof.Machine.execLoop core count body s
  | .halt core => Sys2Proof.Machine.execHalt core s
  | .mm core x hw => Sys2Proof.Machine.execMm core x hw s
  | .mmG4 core x hw => Sys2Proof.Machine.execMmG4 core x hw s
  | .as core x => Sys2Proof.Machine.execAs core x s
  | .asld core x => Sys2Proof.Machine.execAsld core x s
  | .op core x => Sys2Proof.Machine.execOp core x s
  | .accOut core x => Sys2Proof.Machine.execAccOut core x s
  | .accClr core arr base n tok => Sys2Proof.Machine.execAccClr core arr base n tok s
  | .vld core vd src hw tok => Sys2Proof.Machine.execVld core vd src hw tok s
  | .vst core vs dst tok => Sys2Proof.Machine.execVst core vs dst tok s
  | .vectorElementwise core o fmt vd va vb vc tok => Sys2Proof.Machine.execVectorElementwise core o fmt vd va vb vc tok s
  | .vred core kind fmt vd va tok => Sys2Proof.Machine.execVred core kind fmt vd va tok s
  | .vcvt core x => Sys2Proof.Machine.execVcvt core x s
  | .vrq core x => Sys2Proof.Machine.execVrq core x s
  | .vlut core vd va tab tok => Sys2Proof.Machine.execVlut core vd va tab tok s
  | .vectorPermute core kind w vd va vb n tok => Sys2Proof.Machine.execVectorPermute core kind w vd va vb n tok s
  | .pealLoad core store src n dst tok => Sys2Proof.Machine.execPealLoad core store src n dst tok s
  | .pealEval core x hw => Sys2Proof.Machine.execPealEval core x hw s
  | .dmaIn core x => Sys2Proof.Machine.execDmaIn core x s
  | .dmaOut core x => Sys2Proof.Machine.execDmaOut core x s
  | .dmaComplete core => Sys2Proof.Machine.execDmaComplete core s
  | .gather core x => Sys2Proof.Machine.execGather core x s
  | .gatherComplete core => Sys2Proof.Machine.execGatherComplete core s
  | .winRd core pkg target win row n dst tok => Sys2Proof.Machine.execWinRd core pkg target win row n dst tok s
  | .winWr core pkg target win row n src tok => Sys2Proof.Machine.execWinWr core pkg target win row n src tok s
  | .sld core rd src width hw tok => Sys2Proof.Machine.execSld core rd src width hw tok s
  | .sst core rs dst width tok => Sys2Proof.Machine.execSst core rs dst width tok s
  | .fill core dst n pattern tok => Sys2Proof.Machine.execFill core dst n pattern tok s
  | .copy core src dst arr n tok => Sys2Proof.Machine.execCopy core src dst arr n tok s
  | .tcopy core src dst w tok => Sys2Proof.Machine.execTcopy core src dst w tok s
  | .sread core src dst n w start stride tok => Sys2Proof.Machine.execSread core src dst n w start stride tok s
  | .tokWait core k n => Sys2Proof.Machine.execTokWait core k n s
  | .bar core b => Sys2Proof.Machine.execBar core b s
  | .sig core sem n => Sys2Proof.Machine.execSig core sem n s
  | .sigR core cluster sem n => Sys2Proof.Machine.execSigR core cluster sem n s
  | .swait core sem n => Sys2Proof.Machine.execSwait core sem n s
  | .mark core layer operator => Sys2Proof.Machine.execMark core layer operator s
  | .remoteSignalArrive cluster => Sys2Proof.Machine.execRemoteSignalArrive cluster s
  | .barrierControllerArrive cluster b => Sys2Proof.Machine.execBarrierControllerArrive cluster b s
  | .barrierMaskWrite cluster b mask => Sys2Proof.Machine.execBarrierMaskWrite cluster b mask s
  | .icacheLineFill core => Sys2Proof.Machine.execIcacheLineFill core s
  | .windowOpen q t => Sys2Proof.Machine.execWindowOpen q t s
  | .windowClose q t => Sys2Proof.Machine.execWindowClose q t s
  | .windowCloseDrained q t => Sys2Proof.Machine.execWindowCloseDrained q t s
  | .windowAccessArrive core hw => Sys2Proof.Machine.execWindowAccessArrive core hw s
  | .winRdReply core => Sys2Proof.Machine.execWinRdReply core s
  | .winWrAck core => Sys2Proof.Machine.execWinWrAck core s
  | .winFaultNotice core => Sys2Proof.Machine.execWinFaultNotice core s
  | .clusterZeroDone cluster => Sys2Proof.Machine.execClusterZeroDone cluster s
  | .residentReload cluster ctx tag rows => Sys2Proof.Machine.execResidentReload cluster ctx tag rows s
  | .pealPatrol core share err => Sys2Proof.Machine.execPealPatrol core share err s
  | .pealScrubReload core ctx tag share treeBase nodeBase leafBase => Sys2Proof.Machine.execPealScrubReload core ctx tag share treeBase nodeBase leafBase s
  | .sqDoorbell q val => Sys2Proof.Machine.execSqDoorbell q val s
  | .cqDoorbell q val => Sys2Proof.Machine.execCqDoorbell q val s
  | .rqDoorbell fn r val => Sys2Proof.Machine.execRqDoorbell fn r val s
  | .sqFetch q => Sys2Proof.Machine.execSqFetch q s
  | .fence q t => Sys2Proof.Machine.execFence q t s
  | .run q t => Sys2Proof.Machine.execRun q t s
  | .runTrees q t => Sys2Proof.Machine.execRunTrees q t s
  | .txFrame q t => Sys2Proof.Machine.execTxFrame q t s
  | .txFrameEnqueue q t => Sys2Proof.Machine.execTxFrameEnqueue q t s
  | .remoteCopy q t => Sys2Proof.Machine.execRemoteCopy q t s
  | .commandDeadline q t => Sys2Proof.Machine.execCommandDeadline q t s
  | .recordDeliver fn r => Sys2Proof.Machine.execRecordDeliver fn r s
  | .irqDelayExpire fn ring => Sys2Proof.Machine.execIrqDelayExpire fn ring s
  | .msixUnmask fn vec => Sys2Proof.Machine.execMsixUnmask fn vec s
  | .ringEnable fn ring val => Sys2Proof.Machine.execRingEnable fn ring val s
  | .ringDisable fn ring val => Sys2Proof.Machine.execRingDisable fn ring val s
  | .accessFault fn bar off len => Sys2Proof.Machine.execAccessFault fn bar off len s
  | .pcieCompletionTimeout fn read => Sys2Proof.Machine.execPcieCompletionTimeout fn read s
  | .hbmAccess owner addr kind data err => Sys2Proof.Machine.execHbmAccess owner addr kind data err s
  | .stackTempReport stack temp => Sys2Proof.Machine.execStackTempReport stack temp s
  | .coalescerServe die stack pch bank => Sys2Proof.Machine.execCoalescerServe die stack pch bank s
  | .coalescerMaxWait die stack pch bank => Sys2Proof.Machine.execCoalescerMaxWait die stack pch bank s
  | .sramPatrol die region idx err => Sys2Proof.Machine.execSramPatrol die region idx err s
  | .hbmScrub die addr err => Sys2Proof.Machine.execHbmScrub die addr err s
  | .rowmodeWrite r val => Sys2Proof.Machine.execRowmodeWrite r val s
  | .frameZeroDone die => Sys2Proof.Machine.execFrameZeroDone die s
  | .directoryRequest die line l2 kind val => Sys2Proof.Machine.execDirectoryRequest die line l2 kind val s
  | .directoryWriteback die line l2 => Sys2Proof.Machine.execDirectoryWriteback die line l2 s
  | .snoopResponse die line l2 => Sys2Proof.Machine.execSnoopResponse die line l2 s
  | .ruleWrite q t => Sys2Proof.Machine.execRuleWrite q t s
  | .ruleDelete q t => Sys2Proof.Machine.execRuleDelete q t s
  | .flipEpoch q t => Sys2Proof.Machine.execFlipEpoch q t s
  | .epochHoldEnd => Sys2Proof.Machine.execEpochHoldEnd s
  | .epochHoldTimeout => Sys2Proof.Machine.execEpochHoldTimeout s
  | .epochSwitch die => Sys2Proof.Machine.execEpochSwitch die s
  | .epochSwitchAck => Sys2Proof.Machine.execEpochSwitchAck s
  | .retireWait q t => Sys2Proof.Machine.execRetireWait q t s
  | .retireWaitTimeout q t => Sys2Proof.Machine.execRetireWaitTimeout q t s
  | .retireForce q t => Sys2Proof.Machine.execRetireForce q t s
  | .retireAbandon q t => Sys2Proof.Machine.execRetireAbandon q t s
  | .epochRetire => Sys2Proof.Machine.execEpochRetire s
  | .stagingOpen => Sys2Proof.Machine.execStagingOpen s
  | .loadTable q t bank => Sys2Proof.Machine.execLoadTable q t bank s
  | .loadImage q t fits => Sys2Proof.Machine.execLoadImage q t fits s
  | .bulkCommit q t => Sys2Proof.Machine.execBulkCommit q t s
  | .contextCreate q t => Sys2Proof.Machine.execContextCreate q t s
  | .contextDestroy q t => Sys2Proof.Machine.execContextDestroy q t s
  | .partCreate port part => Sys2Proof.Machine.execPartCreate port part s
  | .partResize port part => Sys2Proof.Machine.execPartResize port part s
  | .partDestroy port part => Sys2Proof.Machine.execPartDestroy port part s
  | .partDescFetchDone err held => Sys2Proof.Machine.execPartDescFetchDone err held s
  | .fnReset fn => Sys2Proof.Machine.execFnReset fn s
  | .flr fn => Sys2Proof.Machine.execFlr fn s
  | .vfRemoval port n => Sys2Proof.Machine.execVfRemoval port n s
  | .vfEnable port n => Sys2Proof.Machine.execVfEnable port n s
  | .partitionReset part => Sys2Proof.Machine.execPartitionReset part s
  | .partitionResetDone part => Sys2Proof.Machine.execPartitionResetDone part s
  | .clusterReset cluster => Sys2Proof.Machine.execClusterReset cluster s
  | .jodonEnableWrite link en fw => Sys2Proof.Machine.execJodonEnableWrite link en fw s
  | .jodonRetrain link => Sys2Proof.Machine.execJodonRetrain link s
  | .jodonForceRecal link => Sys2Proof.Machine.execJodonForceRecal link s
  | .jodonTrainingPhaseEnd link ok signal => Sys2Proof.Machine.execJodonTrainingPhaseEnd link ok signal s
  | .jodonIdent link pkg plink tag same => Sys2Proof.Machine.execJodonIdent link pkg plink tag same s
  | .jodonRetryTimer link => Sys2Proof.Machine.execJodonRetryTimer link s
  | .jodonBlockReceive link fec bytes => Sys2Proof.Machine.execJodonBlockReceive link fec bytes s
  | .jodonLinkFail link => Sys2Proof.Machine.execJodonLinkFail link s
  | .jodonWrite link => Sys2Proof.Machine.execJodonWrite link s
  | .jodonWriteAck link => Sys2Proof.Machine.execJodonWriteAck link s
  | .jodonFaultNotice link => Sys2Proof.Machine.execJodonFaultNotice link s
  | .jodonReadReq link hw => Sys2Proof.Machine.execJodonReadReq link hw s
  | .jodonReadData link => Sys2Proof.Machine.execJodonReadData link s
  | .jodonReadErr link => Sys2Proof.Machine.execJodonReadErr link s
  | .jodonTimeout tag => Sys2Proof.Machine.execJodonTimeout tag s
  | .jodonPinHoldExpire link => Sys2Proof.Machine.execJodonPinHoldExpire link s
  | .beatSyncSend link => Sys2Proof.Machine.execBeatSyncSend link s
  | .beatSync link => Sys2Proof.Machine.execBeatSync link s
  | .beatAlone => Sys2Proof.Machine.execBeatAlone s
  | .beatRead => Sys2Proof.Machine.execBeatRead s
  | .todRead => Sys2Proof.Machine.execTodRead s
  | .ppsInEdge => Sys2Proof.Machine.execPpsInEdge s
  | .ppsInLost => Sys2Proof.Machine.execPpsInLost s
  | .ref10mLost => Sys2Proof.Machine.execRef10mLost s
  | .ref10mValid => Sys2Proof.Machine.execRef10mValid s
  | .swRefTimeout => Sys2Proof.Machine.execSwRefTimeout s
  | .todAdj val => Sys2Proof.Machine.execTodAdj val s
  | .todSetGo val => Sys2Proof.Machine.execTodSetGo val s
  | .todStepApply => Sys2Proof.Machine.execTodStepApply s
  | .todSlewDone => Sys2Proof.Machine.execTodSlewDone s
  | .ppsOutEdge => Sys2Proof.Machine.execPpsOutEdge s
  | .ppsOutPulseEnd => Sys2Proof.Machine.execPpsOutPulseEnd s
  | .mfioCfgWrite n val fw => Sys2Proof.Machine.execMfioCfgWrite n val fw s
  | .mfioParkEnd n => Sys2Proof.Machine.execMfioParkEnd n s
  | .tachWindow n => Sys2Proof.Machine.execTachWindow n s
  | .fanTachEdge n => Sys2Proof.Machine.execFanTachEdge n s
  | .strapCheck straps => Sys2Proof.Machine.execStrapCheck straps s
  | .controlCoreTimeout cls j => Sys2Proof.Machine.execControlCoreTimeout cls j s
  | .controlCoreTrap cls j => Sys2Proof.Machine.execControlCoreTrap cls j s
  | .islandLockstep => Sys2Proof.Machine.execIslandLockstep s
  | .controlCoreFrame cls bp q bytes => Sys2Proof.Machine.execControlCoreFrame cls bp q bytes s
  | .sensorSample temps volts => Sys2Proof.Machine.execSensorSample temps volts s
  | .vrmTelemetry w => Sys2Proof.Machine.execVrmTelemetry w s
  | .eventLogPersist => Sys2Proof.Machine.execEventLogPersist s
  | .troublePersist => Sys2Proof.Machine.execTroublePersist s
  | .alertAck m => Sys2Proof.Machine.execAlertAck m s
  | .requestUpdate m => Sys2Proof.Machine.execRequestUpdate m s
  | .firmwareData m off bytes => Sys2Proof.Machine.execFirmwareData m off bytes s
  | .verifyComplete m => Sys2Proof.Machine.execVerifyComplete m s
  | .activateFirmware m => Sys2Proof.Machine.execActivateFirmware m s
  | .cancelUpdate m => Sys2Proof.Machine.execCancelUpdate m s
  | .rollbackCommit m sess => Sys2Proof.Machine.execRollbackCommit m sess s
  | .troubleClear m sess mask => Sys2Proof.Machine.execTroubleClear m sess mask s
  | .statusMsg m => Sys2Proof.Machine.execStatusMsg m s
  | .logRead m first n => Sys2Proof.Machine.execLogRead m first n s
  | .troubleRead m => Sys2Proof.Machine.execTroubleRead m s
  | .maint m sess act obj pch bank row => Sys2Proof.Machine.execMaint m sess act obj pch bank row s
  | .mctpControl m cmd arg => Sys2Proof.Machine.execMctpControl m cmd arg s
  | .pldmMonitoring m kind arg => Sys2Proof.Machine.execPldmMonitoring m kind arg s
  | .spdmMessage m kind arg auth => Sys2Proof.Machine.execSpdmMessage m kind arg auth s
  | .maintGrant => Sys2Proof.Machine.execMaintGrant s
  | .maintWaitExpire => Sys2Proof.Machine.execMaintWaitExpire s
  | .maintActivityDone act obj outcome => Sys2Proof.Machine.execMaintActivityDone act obj outcome s
  | .clusterIdleEntry cl => Sys2Proof.Machine.execClusterIdleEntry cl s
  | .clusterRetainEntry cl => Sys2Proof.Machine.execClusterRetainEntry cl s
  | .clusterOffEntry cl => Sys2Proof.Machine.execClusterOffEntry cl s
  | .thawWakeRequest dom => Sys2Proof.Machine.execThawWakeRequest dom s
  | .wakeStart dom => Sys2Proof.Machine.execWakeStart dom s
  | .wakeDone dom => Sys2Proof.Machine.execWakeDone dom s
  | .domainFailed dom => Sys2Proof.Machine.execDomainFailed dom s
  | .idleExit cl => Sys2Proof.Machine.execIdleExit cl s
  | .clockStepWrite cl val => Sys2Proof.Machine.execClockStepWrite cl val s
  | .clockRaise cl => Sys2Proof.Machine.execClockRaise cl s
  | .powerEstimateUpdate w => Sys2Proof.Machine.execPowerEstimateUpdate w s
  | .powerCap => Sys2Proof.Machine.execPowerCap s
  | .powerLimitWrite val fw => Sys2Proof.Machine.execPowerLimitWrite val fw s
  | .thermalTrip sensor => Sys2Proof.Machine.execThermalTrip sensor s
  | .queueReset kind unit tkts pairs rings => Sys2Proof.Machine.execQueueReset kind unit tkts pairs rings s
  | .coldReset straps temps => Sys2Proof.Machine.execColdReset straps temps s
  | .sysRstNAssert => Sys2Proof.Machine.execSysRstNAssert s
  | .sysRstNRelease => Sys2Proof.Machine.execSysRstNRelease s
  | .resetHeld => Sys2Proof.Machine.execResetHeld s
  | .portReset port perst => Sys2Proof.Machine.execPortReset port perst s
  | .perstDeassert port => Sys2Proof.Machine.execPerstDeassert port s
  | .pcieConfigReady port => Sys2Proof.Machine.execPcieConfigReady port s
  | .trstN => Sys2Proof.Machine.execTrstN s
  | .jtagInstruction k => Sys2Proof.Machine.execJtagInstruction k s
  | .thermalHoldCheck temps => Sys2Proof.Machine.execThermalHoldCheck temps s
  | .railPowerGood => Sys2Proof.Machine.execRailPowerGood s
  | .railFailed => Sys2Proof.Machine.execRailFailed s
  | .bootStepDone bad clean => Sys2Proof.Machine.execBootStepDone bad clean s
  | .mailboxGo port => Sys2Proof.Machine.execMailboxGo port s
  | .cfgWrite ok => Sys2Proof.Machine.execCfgWrite ok s
  | .lcOwn => Sys2Proof.Machine.execLcOwn s
  | .lcReturn => Sys2Proof.Machine.execLcReturn s
  | .lcVoid => Sys2Proof.Machine.execLcVoid s
  | .debugToken => Sys2Proof.Machine.execDebugToken s
  | .nonceDraw => Sys2Proof.Machine.execNonceDraw s
  | .controlCoreRestarted cls j => Sys2Proof.Machine.execControlCoreRestarted cls j s
  | .islandRestarted => Sys2Proof.Machine.execIslandRestarted s
  | .pcieLinkUp port => Sys2Proof.Machine.execPcieLinkUp port s
  | .maintRequest q t => Sys2Proof.Machine.execMaintRequest q t s
  | .bridgeReplay a b again => Sys2Proof.Machine.execBridgeReplay a b again s
  | .bridgeFailed a b training => Sys2Proof.Machine.execBridgeFailed a b training s
  | .railFault rail => Sys2Proof.Machine.execRailFault rail s
  | .vddAonLoss => Sys2Proof.Machine.execVddAonLoss s
  | .sysrefLost => Sys2Proof.Machine.execSysrefLost s
  | .smbusSclLowTimeout => Sys2Proof.Machine.execSmbusSclLowTimeout s
  | .stragglerEval cl ctx => Sys2Proof.Machine.execStragglerEval cl ctx s
  | .decodeStep q t => Sys2Proof.Machine.execDecodeStep q t s
  | .attnQuery die src layer qs kv hw => Sys2Proof.Machine.execAttnQuery die src layer qs kv hw s
  | .attnPartialArrive k b layer kind shard ps => Sys2Proof.Machine.execAttnPartialArrive k b layer kind shard ps s
  | .attnCfgWrite die val => Sys2Proof.Machine.execAttnCfgWrite die val s
  | .trainStep q t fits init => Sys2Proof.Machine.execTrainStep q t fits init s
  | .trainCommit q t grads hw => Sys2Proof.Machine.execTrainCommit q t grads hw s
  | .countersRead q t => Sys2Proof.Machine.execCountersRead q t s
  | .gong q t => Sys2Proof.Machine.execGong q t s
  | .tensorDumpArm q t => Sys2Proof.Machine.execTensorDumpArm q t s
  | .registerWrite fn off val fw => Sys2Proof.Machine.execRegisterWrite fn off val fw s
  | .jodonGong link => Sys2Proof.Machine.execJodonGong link s
  | .gongLatch => Sys2Proof.Machine.execGongLatch s
  | .tensorDumpWrite t => Sys2Proof.Machine.execTensorDumpWrite t s
  | .watchdogFire core => Sys2Proof.Machine.execWatchdogFire core s
  | .rimeDumpDone p => Sys2Proof.Machine.execRimeDumpDone p s

end Sys2Proof.Machine
end

