-- ==== Sys2Proof/Safety.lean ====
section
/-! DEFINITION. What counts as a safe command and a safe run, and the terms the statements use. -/

namespace Sys2Proof.Safety

open Sys2Proof.Machine

/-- A command completes with the device `d'`, and the queue is as it was. -/
def Gives (c : Instr) (s : State) (d' : Dev) : Prop := exec c s = .next { s with dev := d' }

/-- A command completes with a device of which `p` holds, and the queue is as it was. -/
def Answers (c : Instr) (s : State) (p : Dev → Prop) : Prop := ∃ d', Gives c s d' ∧ p d'

/-- A property of states that every step keeps. -/
def Kept (p : State → Prop) : Prop := ∀ s t, p s → step s = .next t → p t

/-- Host memory and HBM are in canonical form: addresses strictly rising, no byte listed that reads as zero. -/
def memoriesOk (d : Dev) : Bool := tabWf 0 d.hostMem && tabWf 0 d.store.hbm

/-! ## Ring commands -/

/-- A fetched command of opcode `op` on pair `q` may start, and is not past a deadline it heeds. -/
def cmdReady (d : Dev) (op q t : Nat) : Bool :=
  (cmdOf d t).q == q && opcodeOf (cmdOf d t) == op && startable d t && !cmdLate d (cmdOf d t)

/-- What SQ_FETCH takes from the head of pair `q`: the entry, when, and the epoch it is stamped with (R401, R446). -/
def fetchedCmd (d : Dev) (q : Nat) : Cmd :=
  let c : Cmd := { q, bytes := hostRead d (q / 4096) (base64 d (rSqBase q) + 64 * (pairOf d q).sqHead) 64, fetched := beat d, tag := 3 }
  { c with tag := if isStamped (opcodeOf c) then (selectEpoch d (cmdFld c 12 4)).getD 3 else 3 }

/-- Pair `q` may fetch: it is enabled and not in ERROR, its function is ready and not frozen, an entry waits, and its CQ has room
(R446). -/
def mayFetch (d : Dev) (q : Nat) : Bool :=
  (pairOf d q).enabled && !(pairOf d q).error && fnReady d (q / 64) && !frozenPart d ((partOfFn d (q / 64)).getD 64)
    && decide ((pairOf d q).sqHead ≠ (pairOf d q).sqTail) && decide (outstanding d q < cqFree d q)

/-- The device once the entry at the head of pair `q` is outstanding under the next ticket. -/
def afterFetch (q : Nat) (d : Dev) : Dev :=
  let c := fetchedCmd d q
  let d := bump .sqFetched q 0 (modPair q (fun p => { p with sqHead := (p.sqHead + 1) % sqDepth d q }) d)
  pcieRead (q / 64) 64 { d with nextTkt := d.nextTkt + 1, cmds := tput {} d.cmds d.nextTkt c }

/-! ## Epochs -/

/-- The three epochs in order (R397 to R399): numbers and tags follow CURRENT's, and STAGING and DRAINING do not stand together. -/
def epochsOk (e : Epochs) : Bool :=
  decide (e.curTag < 3) && e.stage.all (fun x => x == (nextEpoch e.cur, (e.curTag + 1) % 3))
    && e.drain.all (fun x => x.2 == (e.curTag + 2) % 3) && !(e.stage.isSome && e.drain.isSome)

/-! ## Clave parsers -/

/-- A parser runs a program, does not stall, and stands at instruction `i` of it with `cost` packet cycles left. -/
def claveAt (d : Dev) (pa : Nat) (i : Instr) (cost : Nat) : Bool :=
  match (parserOf d pa).frame with
  | some fid => (parserOf d pa).stall.isNone && slotAt (bankFor d (frameOf d fid)) (parserOf d pa).pc == some i
      && decide ((parserOf d pa).cycles + cost ≤ 512)
  | none => false

/-- The frame a parser works on. -/
def claveFrame (d : Dev) (pa : Nat) : Frame := frameOf d ((parserOf d pa).frame.getD 0)

/-- A parser `cost` packet cycles later, at program index `pc`. -/
def claveTo (p : Parser) (pc cost : Nat) : Parser := { p with pc, cycles := p.cycles + cost }

/-- The parser's own instruction `i` completes: the parser becomes `p` and nothing else changes. -/
def ClaveDoes (c i : Instr) (pa cost : Nat) (s : State) (p : Parser) : Prop :=
  claveAt s.dev pa i cost = true → Gives c s (setParser pa p s.dev)

/-! ## Tabla cores -/

/-- A core may issue the instruction at its index: an invocation runs on it, it does not wait, its partition is not frozen, and
the instruction is in its cache (R190). -/
def coreReady (d : Dev) (c : Nat) : Bool :=
  let k := coreOf d c
  k.inv != 0 && k.stall.isNone && !k.fetchMiss && !frozenCluster d (c / 8)
    && (if (coreVer d c).cached then (tget [] k.icache (lineOf k.pc % 256)).contains (lineOf k.pc) else decide (k.pc < progLen d c))

/-- The device with the fetch of a ready core noted: the Beat of the issue, and the line as the most recently used of its set. -/
def fetched (c : Nat) (d : Dev) : Dev :=
  let l := lineOf (coreOf d c).pc
  let ways := tget [] (coreOf d c).icache (l % 256)
  issued c (if (coreVer d c).cached then modCore c (fun k => { k with icache := tput [] k.icache (l % 256) (l :: ways.erase l) }) d else d)

/-- A core at its next instruction, through the loops that end here (Table 6.2). -/
def passed (k : Core) : Core := { k with pc := (loopNext k.pc k.loops).1, loops := (loopNext k.pc k.loops).2, stall := none }

/-- A ready core whose fetch is noted. -/
def coreAt (d : Dev) (c : Nat) : Core := coreOf (fetched c d) c

/-- A ready core past its instruction. -/
def coreNext (d : Dev) (c : Nat) : Core := passed (coreAt d c)

/-- Outside core `c` only these can differ: the wait times of invocations (R662), the sync trace (R566) and the model's own free
counter. -/
def CoreKept (c : Nat) (d d' : Dev) : Prop :=
  (∀ x, x ≠ c → coreOf d' x = coreOf d x) ∧
  (∀ j, { invOf d' j with wait := (invOf d j).wait, waitFrom := (invOf d j).waitFrom } = invOf d j) ∧
  d' = { d with comp := { d.comp with cores := d'.comp.cores, invs := d'.comp.invs }, free := d'.free,
                obs := { d.obs with trace := d'.obs.trace, traceSeq := d'.obs.traceSeq } }

/-- On a ready core the instruction completes: the core becomes `k` and nothing else changes. -/
def CoreDoes (i : Instr) (c : Nat) (s : State) (k : Core) : Prop :=
  coreReady s.dev c = true → Answers i s (fun d' => coreOf d' c = k ∧ CoreKept c s.dev d')

/-- The device in which instruction `i` has started on engines `es` of a core: its operands are counted and it runs on each. -/
def begun (c : Nat) (es : List Nat) (i : EngOp) (d : Dev) : Dev :=
  let d := (slotRefs d c i.instr).foldl (fun d x => slotCount c (i.layer, i.op) x d) d
  modCore c (fun k => { k with engines := es.foldl (fun t e => tmod {} t e (fun x => { x with run := x.run ++ [i] })) k.engines }) d

/-- The core of an instruction that an engine executes (Table 6.2). -/
def engineCore : Instr → Option Nat
  | .mm c _ _ | .mmG4 c _ _ | .as c _ | .asld c _ | .op c _ | .accOut c _ | .accClr c _ _ _ _ | .vld c _ _ _ _ | .vst c _ _ _
  | .vectorElementwise c _ _ _ _ _ _ _ | .vred c _ _ _ _ _ | .vcvt c _ | .vrq c _ | .vlut c _ _ _ _
  | .vectorPermute c _ _ _ _ _ _ _ | .pealLoad c _ _ _ _ _ | .pealEval c _ _ | .dmaIn c _ | .dmaOut c _ | .gather c _
  | .winRd c _ _ _ _ _ _ _ | .winWr c _ _ _ _ _ _ _ | .sld c _ _ _ _ _ | .sst c _ _ _ _ | .fill c _ _ _ _ | .copy c _ _ _ _ _
  | .tcopy c _ _ _ _ | .sread c _ _ _ _ _ _ _ => some c
  | _ => none

/-- An instruction with the IDs of its core. -/
def tagged (d : Dev) (c : Nat) (i : Instr) : EngOp := { instr := i, layer := (coreOf d c).layer, op := (coreOf d c).operator }

/-- An engine instruction starts at its issue: the core is ready, the instruction meets no fault, and its engines are idle. -/
def startsNow (d : Dev) (c : Nat) (i : Instr) : Bool :=
  let d' := engNote c i (fetched c d)
  coreReady d c && (engFault (fetched c d) c i).isNone && canStart d' c (tagged d' c i)
    && (enginesOf d' c i).all (fun e => (engOf (coreOf d' c) e).queue.isEmpty && (engOf (coreOf d' c) e).run.isEmpty)

/-- The device from which the effect of an instruction that starts at its issue acts: the core has gone on and the instruction runs
on its engines. -/
def started (c : Nat) (i : Instr) (d : Dev) : Dev :=
  let d := engNote c i (fetched c d)
  begun c (enginesOf d c i) (tagged d c i) (advance c d)

end Sys2Proof.Safety
end

