-- ==== Sys2Proof/Certificates/Slice0/Obligations.lean ====
section
/-! DEFINITION. What is claimed of the model: one proposition per statement of OBLIGATIONS.json. -/

open Sys2Proof Sys2Proof.Machine Sys2Proof.Safety

/-- R68 and Table 2.8: the register, field, table and hint instructions, with their costs and their frame. -/
def Obligations.ClaveRegisterInstructions : Prop :=
  (∀ (p : Parser) (i j : Nat) (v : Word32), greg (setG p i v) j = if j = i then v else greg p j) ∧
  ∀ (pa gd gs ga gb sh fn t e sel : Nat) (imm : BitVec 16) (s : State),
    pa < 1280 → gd < 16 → gs < 16 → ga < 16 → gb < 16 → sh < 32 → fn < 64 → t < 16 → e < 256 → sel < 2 →
    let p := parserOf s.dev pa
    let past (cost : Nat) := claveTo p (p.pc + 1) cost
    let puts (c i : Instr) (cost : Nat) (v : Word32) := ClaveDoes c i pa cost s (setG (past cost) gd v)
    let bank := bankFor s.dev (claveFrame s.dev pa)
    puts (.claveGetc pa gd) (.claveGetc 0 gd) 1 (BitVec.ofNat 32 p.cursor) ∧
    puts (.claveMovi pa gd imm) (.claveMovi 0 gd imm) 1 (imm.zeroExtend 32) ∧
    puts (.claveMovhi pa gd imm) (.claveMovhi 0 gd imm) 1 (imm ++ (greg p gd).extractLsb' 0 16) ∧
    puts (.claveMov pa gd gs) (.claveMov 0 gd gs) 1 (greg p gs) ∧
    puts (.claveAdd pa gd ga gb) (.claveAdd 0 gd ga gb) 1 (greg p ga + greg p gb) ∧
    puts (.claveSub pa gd ga gb) (.claveSub 0 gd ga gb) 1 (greg p ga - greg p gb) ∧
    puts (.claveAddi pa gd gs imm) (.claveAddi 0 gd gs imm) 1 (greg p gs + imm.zeroExtend 32) ∧
    puts (.claveAnd pa gd ga gb) (.claveAnd 0 gd ga gb) 1 (greg p ga &&& greg p gb) ∧
    puts (.claveOr pa gd ga gb) (.claveOr 0 gd ga gb) 1 (greg p ga ||| greg p gb) ∧
    puts (.claveXor pa gd ga gb) (.claveXor 0 gd ga gb) 1 (greg p ga ^^^ greg p gb) ∧
    puts (.claveAndi pa gd gs imm) (.claveAndi 0 gd gs imm) 1 (greg p gs &&& imm.zeroExtend 32) ∧
    puts (.claveOri pa gd gs imm) (.claveOri 0 gd gs imm) 1 (greg p gs ||| imm.zeroExtend 32) ∧
    puts (.claveShl pa gd gs sh) (.claveShl 0 gd gs sh) 1 (BitVec.ofNat 32 ((greg p gs).toNat * 2 ^ sh)) ∧
    puts (.claveShr pa gd gs sh) (.claveShr 0 gd gs sh) 1 (BitVec.ofNat 32 ((greg p gs).toNat / 2 ^ sh)) ∧
    puts (.claveTbl pa gd gs t) (.claveTbl 0 gd gs t) 3 (tget 0 bank.consts (256 * t + (greg p gs).toNat % 256)) ∧
    ClaveDoes (.claveFld pa fn gs) (.claveFld 0 fn gs) pa 1 s (setField (past 1) fn (greg p gs)) ∧
    ClaveDoes (.claveEnc pa fn gs e) (.claveEnc 0 fn gs e) pa 4 s
      (setField (past 4) fn (BitVec.ofNat 32 (encCode (tget {} bank.encs e) (greg p gs).toNat))) ∧
    ClaveDoes (.claveSetm pa sel gs) (.claveSetm 0 sel gs) pa 1 s
      (if sel = 0 then { past 1 with hint := some ((greg p gs).toNat % 16) } else { past 1 with prio := some ((greg p gs).toNat % 8) }) ∧
    ClaveDoes (.claveNop pa) (.claveNop 0) pa 1 s (past 1)

/-- R68, R71, Tables 2.8 and 2.9: control flow and the cursor. `endProgram pa cause` is the end with a cause, which
ClaveProgramEnds states. -/
def Obligations.ClaveControlInstructions : Prop :=
  ∀ (pa gs ga gb target imm9 sh type : Nat) (imm : BitVec 16) (targets : List Nat) (s : State),
    pa < 1280 → gs < 16 → ga < 16 → gb < 16 → target < 16384 → imm9 < 512 → sh < 4 → type < 64 →
    targets.length = 16 → targets.all (fun t => decide (t < 16384)) = true →
    let p := parserOf s.dev pa
    let go (c i : Instr) (taken : Bool) := ClaveDoes c i pa 2 s (if taken then claveTo p target 2 else claveTo p (p.pc + 1) 1)
    let fails (c i : Instr) (cost cause : Nat) := claveAt s.dev pa i cost = true → Gives c s (endProgram pa cause s.dev)
    let cursor (c i : Instr) (v : Nat) :=
      if v ≤ 511 then ClaveDoes c i pa 1 s { claveTo p (p.pc + 1) 1 with cursor := v } else fails c i 1 3
    go (.claveBeq pa gs imm target) (.claveBeq 0 gs imm target) (decide ((greg p gs).toNat = imm.toNat)) ∧
    go (.claveBne pa gs imm target) (.claveBne 0 gs imm target) (decide ((greg p gs).toNat ≠ imm.toNat)) ∧
    go (.claveBlt pa gs imm target) (.claveBlt 0 gs imm target) (decide ((greg p gs).toNat < imm.toNat)) ∧
    go (.claveBge pa gs imm target) (.claveBge 0 gs imm target) (decide (imm.toNat ≤ (greg p gs).toNat)) ∧
    go (.claveBeqr pa ga gb target) (.claveBeqr 0 ga gb target) (decide (greg p ga = greg p gb)) ∧
    go (.claveBner pa ga gb target) (.claveBner 0 ga gb target) (decide (greg p ga ≠ greg p gb)) ∧
    go (.claveJmp pa target) (.claveJmp 0 target) true ∧
    ClaveDoes (.claveSwitch pa gs targets) (.claveSwitch 0 gs targets) pa 2 s
      (claveTo p (lget 0 targets (if (greg p gs).toNat < 16 then (greg p gs).toNat else 15)) 2) ∧
    (if p.calls.length < 4
      then ClaveDoes (.claveCall pa target) (.claveCall 0 target) pa 2 s { claveTo p target 2 with calls := (p.pc + 1) :: p.calls }
      else fails (.claveCall pa target) (.claveCall 0 target) 2 6) ∧
    (match p.calls with
      | t :: ts => ClaveDoes (.claveRet pa) (.claveRet 0) pa 2 s { claveTo p t 2 with calls := ts }
      | [] => fails (.claveRet pa) (.claveRet 0) 2 6) ∧
    cursor (.claveAdv pa imm9) (.claveAdv 0 imm9) (p.cursor + imm9) ∧
    cursor (.claveAdvr pa gs sh) (.claveAdvr 0 gs sh) (p.cursor + (greg p gs).toNat * 2 ^ sh) ∧
    cursor (.claveSetc pa gs) (.claveSetc 0 gs) (greg p gs).toNat ∧
    (if p.hdrs.length < 12
      then ClaveDoes (.claveHdr pa type) (.claveHdr 0 type) pa 1 s { claveTo p (p.pc + 1) 1 with hdrs := p.hdrs ++ [(type, p.cursor)] }
      else fails (.claveHdr pa type) (.claveHdr 0 type) 1 2)

/-- R68, R69, R71, R665, R666: the instructions that read the frame. -/
def Obligations.ClaveFrameReads : Prop :=
  ∀ (pa gd gs fn off len pos bits sel : Nat) (s : State),
    pa < 1280 → gd < 16 → gs < 16 → fn < 64 → off < 512 →
    let p := parserOf s.dev pa
    let f := claveFrame s.dev pa
    let have_ := min f.depth f.bytes.length
    let at_ (n : Nat) := (f.bytes.drop (p.cursor + off)).take n
    let next (cost : Nat) := claveTo p (p.pc + 1) cost
    let ends (c i : Instr) (cost cause : Nat) := claveAt s.dev pa i cost = true → Gives c s (endProgram pa cause s.dev)
    let stalls (c i : Instr) (cost : Nat) := ClaveDoes c i pa cost s { p with stall := some i, stallFrom := beat s.dev }
    let key (c i : Instr) (bs : List Bool) :=
      if p.key.length + bs.length ≤ 512 then ClaveDoes c i pa 1 s { next 1 with key := p.key ++ bs } else ends c i 1 5
    let outside (c i : Instr) (n cost : Nat) (ok : Prop) :=
      if p.cursor + off + n ≤ have_ then ok
      else if f.ended = true ∨ f.depth ≤ f.bytes.length then ends c i cost (if max (p.cursor + off) have_ < f.depth then 4 else 3)
      else if f.depth ≤ p.cursor + off then ends c i cost 3
      else stalls c i cost
    let load (c i : Instr) (n : Nat) (g : Nat → Nat) :=
      outside c i n 1 (ClaveDoes c i pa 1 s (setG (next 1) gd (BitVec.ofNat 32 (g (beNat (at_ n))))))
    load (.claveLdb pa gd off) (.claveLdb 0 gd off) 1 id ∧
    load (.claveLdh pa gd off) (.claveLdh 0 gd off) 2 id ∧
    load (.claveLdw pa gd off) (.claveLdw 0 gd off) 4 id ∧
    (1 ≤ len → pos + len ≤ 32 →
      load (.claveLdbf pa gd off pos len) (.claveLdbf 0 gd off pos len) 4 (fun v => v / 2 ^ pos % 2 ^ len)) ∧
    (1 ≤ len → len ≤ 16 → outside (.claveKeyf pa off len) (.claveKeyf 0 off len) len 1
      (key (.claveKeyf pa off len) (.claveKeyf 0 off len) ((at_ len).flatMap (fun b => msbBits b.toNat 8)))) ∧
    (1 ≤ len → len ≤ 4 → outside (.claveFldp pa fn off len) (.claveFldp 0 fn off len) len 1
      (ClaveDoes (.claveFldp pa fn off len) (.claveFldp 0 fn off len) pa 1 s
        (setField (next 1) fn (BitVec.ofNat 32 (beNat (at_ len)))))) ∧
    (1 ≤ len → len ≤ 64 → outside (.claveCrc pa gd off len) (.claveCrc 0 gd off len) len ((len + 15) / 16)
      (ClaveDoes (.claveCrc pa gd off len) (.claveCrc 0 gd off len) pa ((len + 15) / 16) s
        (setG (next ((len + 15) / 16)) gd (BitVec.ofNat 32 (crc32c (greg p gd).toNat (at_ len)))))) ∧
    (2 ≤ len → len ≤ 64 → len % 2 = 0 → outside (.claveCsum pa gd off len) (.claveCsum 0 gd off len) len ((len + 15) / 16)
      (ClaveDoes (.claveCsum pa gd off len) (.claveCsum 0 gd off len) pa ((len + 15) / 16) s
        (setG (next ((len + 15) / 16)) gd (BitVec.ofNat 32 (csumOf (greg p gd).toNat (at_ len)))))) ∧
    (1 ≤ bits → bits ≤ 32 → key (.claveKeyb pa gs bits) (.claveKeyb 0 gs bits) (msbBits (greg p gs).toNat bits)) ∧
    (sel < 5 →
      if sel = 0 ∧ f.ended = false then stalls (.claveMeta pa gd sel) (.claveMeta 0 gd sel) 1
      else ClaveDoes (.claveMeta pa gd sel) (.claveMeta 0 gd sel) pa 1 s (setG (next 1) gd (BitVec.ofNat 32
        (match sel with
          | 0 => lenOf f
          | 1 => f.bp
          | 2 => f.tag
          | 3 => f.rxTod
          | _ => b2n f.ended + 2 * b2n (decide (f.depth < f.bytes.length)) + 4 * b2n f.oversize + 8 * modeOf s.dev f.bp))))

/-- R71 to R73: the ends of a program. -/
def Obligations.ClaveProgramEnds : Prop :=
  ∀ (pa code : Nat) (s : State), pa < 1280 →
    let p := parserOf s.dev pa
    let f := claveFrame s.dev pa
    let ended (c : Instr) (cause : Nat) := Answers c s (fun d' =>
      parserOf d' pa = {} ∧ (∀ x, x ≠ pa → parserOf d' x = parserOf s.dev x) ∧
      (let k : Ctr := if 0x80 ≤ cause then .slowCause else .parseFail
       ctrVal d' k (f.bp / 32) cause = ctrVal s.dev k (f.bp / 32) cause + 1) ∧
      d' = { s.dev with edge := d'.edge, ctr := d'.ctr, recPend := d'.recPend, out := d'.out })
    (claveAt s.dev pa (.claveDone 0) 1 = true →
      Gives (.claveDone pa) s (modFrame (p.frame.getD 0) (fun f => { f with
        key := p.key, fields := p.fields, hdrs := p.hdrs, cursor := p.cursor, hint := p.hint, prioHint := p.prio, stage := .parsed })
        (setParser pa {} s.dev))) ∧
    (0x40 ≤ code → code ≤ 0x7F → claveAt s.dev pa (.claveFail 0 code) 1 = true → ended (.claveFail pa code) code) ∧
    (0x80 ≤ code → code ≤ 0xFF → claveAt s.dev pa (.claveSlow 0 code) 1 = true → ended (.claveSlow pa code) code) ∧
    (p.frame.isSome = true → ended (.parseBudget pa) 1)

/-- R35, R47, R49, R69, R76, R168: receive, dispatch and MAC control frames. -/
def Obligations.PortReceiveAndDispatch : Prop :=
  ∀ (bp pa total queue : Nat) (bytes : List Byte) (fcs fec fixed : Bool) (s : State),
    bp < 128 → pa < 1280 → queue < 16 →
    let d := s.dev
    let up := bpEnabled d bp = true ∧ (bpOf d bp).link = true
    let pipe := tget [] d.edge.pipes (bp / 8)
    let fid := d.edge.nextFrame
    (up → (bpOf d bp).rx = none → pipe.length < 256 → bytes.length + 4 ≤ maxFrameOf d (bp / 4) →
      Answers (.frameReceive bp total bytes) s (fun d' =>
        (bpOf d' bp).rx = some fid ∧ d'.edge.nextFrame = fid + 1 ∧ tget [] d'.edge.pipes (bp / 8) = pipe ++ [fid] ∧
        (frameOf d' fid).bp = bp ∧ (frameOf d' fid).bytes = bytes ∧
        ((frameOf d' fid).epoch, (frameOf d' fid).tag) = stampEpoch d (bp / 32) ∧
        (frameOf d' fid).entry = regFld d (rPortEntry (bp / 4)) (8 * (bp % 4)) 8 ∧ d'.regs = d.regs ∧ d'.comp = d.comp)) ∧
    (up → (bpOf d bp).rx = none → 256 ≤ pipe.length →
      Gives (.frameReceive bp total bytes) s (bump .dropParseBusy bp 0 d)) ∧
    (∀ n, (bpOf d bp).rx = some n → (frameOf d n).ended = false →
      ((frameOf d n).bytes.length + bytes.length + 4 ≤ (frameOf d n).maxFrame →
        Answers (.frameBytesArrive bp bytes) s (fun d' =>
          (bpOf d' bp).rx = some n ∧ (frameOf d' n).bytes = (frameOf d n).bytes ++ bytes ∧ d'.regs = d.regs ∧ d'.comp = d.comp)) ∧
      ((frameOf d n).bp = bp →
        Answers (.frameEnd bp bytes fcs fec fixed) s (fun d' => (bpOf d' bp).rx = none ∧ d'.regs = d.regs ∧ d'.comp = d.comp))) ∧
    (up → pauseModeOf d bp = 1 → word16 bytes 14 = 1 →
      Answers (.macControlFrameReceive bp bytes) s (fun d' =>
        ctrVal d' .rxMacCtrl bp 0 = ctrVal d .rxMacCtrl bp 0 + 1 ∧
        (∀ q, q < 16 → tget 0 (bpOf d' bp).pauseEnd q =
          if word16 bytes 16 = 0 then 0 else beat d + ceilDiv (word16 bytes 16 * 512) (rateOf d bp)) ∧
        (∀ x, x ≠ bp → bpOf d' x = bpOf d x) ∧ d' = { d with ctr := d'.ctr, edge := d'.edge })) ∧
    (tget 0 (bpOf d bp).pauseEnd queue ≤ beat d →
      Gives (.pauseExpire bp queue) s (modBp bp (fun b => { b with pauseEnd := tput 0 b.pauseEnd queue 0 }) d)) ∧
    (∀ n, (parserOf d pa).frame = none →
      (tget [] d.edge.pipes (pa / 80)).find? (fun k => (frameOf d k).ended || decide (128 ≤ (frameOf d k).bytes.length)
        || decide (64 ≤ (frameOf d k).len ∧ (frameOf d k).len - 4 ≤ (frameOf d k).bytes.length)) = some n →
      Answers (.parserDispatch pa) s (fun d' =>
        parserOf d' pa = { frame := some n, pc := (frameOf d n).entry * 64 } ∧
        frameOf d' n = { frameOf d n with stage := .parsing } ∧
        tget [] d'.edge.pipes (pa / 80) = (tget [] d.edge.pipes (pa / 80)).erase n ∧
        (∀ x, x ≠ pa → parserOf d' x = parserOf d x) ∧ d' = { d with edge := d'.edge }))

/-- R54, R56, R58 to R61, R176: the events of a port. -/
def Obligations.PortLinksAndHold : Prop :=
  ∀ (bp p lane die ref : Nat) (s : State), bp < 128 → p < 32 → lane < 4 → die < 4 → ref < 2 →
    let d := s.dev
    let b := bpOf d bp
    let rest (d' : Dev) : Prop := d'.comp = d.comp ∧ d'.store = d.store ∧ d'.hostMem = d.hostMem ∧ d'.time = d.time
    (bpEnabled d bp = true → lanesLocked d bp = true → (physOf d (bp / 4)).calBusy = false →
      Gives (.linkUp bp) s (modBp bp (fun b => { b with link := true, discarding := false, idleFrom := some (beat d) }) d)) ∧
    (∀ t, b.idleFrom = some t → b.txHold = true → b.link = true → b.calibrated = true → lanesLocked d bp = true →
      t + 1000 ≤ beat d → Gives (.txHoldIdlesDone bp) s (modBp bp (fun b => { b with txHold := false }) d)) ∧
    (b.txHold = true → regFld d (rPortTxhold (bp / 4)) 16 16 ≠ 0 →
      b.holdFrom + 100000 * regFld d (rPortTxhold (bp / 4)) 16 16 ≤ beat d →
      Answers (.txHoldTimeout bp) s (fun d' =>
        (bpOf d' bp).txHold = false ∧ (∀ q, q < 16 → (queueOf d' bp q).items = []) ∧ d'.regs = d.regs ∧ rest d')) ∧
    (b.link = true → Answers (.linkDown bp) s (fun d' =>
      (bpOf d' bp).link = false ∧ rest d' ∧
      (b.txHold = false → (bpOf d' bp).discarding = true ∧ ∀ q, q < 16 → (queueOf d' bp q).items = []))) ∧
    Answers (.laneLockLoss p lane) s (fun d' =>
      bitOf (physOf d' p).laneLock lane = false ∧ rest d' ∧
      ∀ k, k < 4 → bpEnabled d (4 * p + k) = true → (lanesOf (breakoutOf d (4 * p + k)) k).contains lane = true →
        (bpOf d' (4 * p + k)).txHold = true ∧ (bpOf d' (4 * p + k)).link = false) ∧
    Answers (.calibrationDone p) s (fun d' =>
      (physOf d' p).calBusy = false ∧ (physOf d' p).recalDue = false ∧ (physOf d' p).laneLock = 15 ∧
      (∀ x, x ≠ p → physOf d' x = physOf d x) ∧ d' = { d with edge := d'.edge }) ∧
    (b.discarding = true → Answers (.egressDiscardDone bp) s (fun d' =>
      (bpOf d' bp).discarding = false ∧ d' = { d with edge := d'.edge } ∧
      ((physOf d (bp / 4)).recalDue = true → anyLink d (bp / 4) = false → (physOf d' (bp / 4)).calBusy = true))) ∧
    Answers (.txRefLost die ref) s (fun d' => tget false d'.edge.refLost (2 * die + ref) = true ∧ rest d') ∧
    Answers (.txRefReturn die ref) s (fun d' =>
      tget false d'.edge.refLost (2 * die + ref) = false ∧ d' = { d with edge := d'.edge } ∧
      ∀ x, x < 8 → (physOf d (8 * die + x)).refLost = true → refOf d (8 * die + x) = ref →
        (physOf d' (8 * die + x)).refLost = false ∧
        ∀ k, k < 4 → bpEnabled d (4 * (8 * die + x) + k) = true → (bpOf d' (4 * (8 * die + x) + k)).txHold = true)

/-- R51 to R53, R117, R158, R613, R664: the register writes of the edge dies that have rows of their own. -/
def Obligations.EdgeRegisterWrites : Prop :=
  ∀ (p k die addr val : Nat) (fw : Bool) (s : State), p < 32 → k < 4 → die < 4 → val < 2 ^ 32 →
    let d := s.dev
    let mac := macLoOf d (4 * p + k) + val % 65536 * 2 ^ 32
    (d.boot.step < 5 → Answers (.portCfgWrite p val) s (fun d' => d'.edge = d.edge ∧ regVal d' (rPortCfg p) = regVal d (rPortCfg p))) ∧
    (5 ≤ d.boot.step →
      (bitOf val 24 = false → Answers (.portCfgWrite p val) s (fun d' =>
        regVal d' (rPortCfg p) = val &&& 0xF7FFFF ∧ d'.comp = d.comp ∧
        ∀ j, j < 4 → (bpOf d (4 * p + j)).link = false → cfgReserved val j = false →
          (bpOf d' (4 * p + j)).cfg = val &&& 0xF7FFFF &&& heldMask)) ∧
      (macInBlock d mac = true → Gives (.portMacWrite p k val fw) s
        { d with edge := { d.edge with macs := tput none d.edge.macs (4 * p + k) (some mac) } }) ∧
      (macInBlock d mac = false → Answers (.portMacWrite p k val fw) s (fun d' =>
        d'.edge.macs = d.edge.macs ∧ bitOf (regVal d' (rPortStatus p)) 17 = true)) ∧
      (∀ b q, b < 128 → q < 16 → addr = rQBuf b q →
        (let d1 := setReg addr ((regVal d addr &&& 0x80000) + (val &&& 0xFFF7FFFF)) d
         if sharedOk d1 (b / 32) then Gives (.bufferCfgWrite addr val) s d1
         else Gives (.bufferCfgWrite addr val) s (setFld (rBufStatus (b / 32)) 17 1 1 d))) ∧
      (if tany (fun x r => x / 2 ^ 20 == die && r.used) d.edge.rules
        then Gives (.ruleSeedWrite die val) s (setFld (rRuleStatus die) 25 1 1 d)
        else Gives (.ruleSeedWrite die val) s (setReg (rRuleSeed die) val d)) ∧
      (if tany (fun x e => x / 2 ^ 23 == die && e.valid) d.edge.flowTab || tany (fun x w => x / 65536 == die && w.entry.valid) d.edge.fcache
        then Gives (.flowSeedWrite die val) s (setFld (rFlowStatus die) 28 1 1 d)
        else Gives (.flowSeedWrite die val) s (setReg (rFlowSeed die) val d)))

/-- R106 to R111: the messages between an edge die and its store die. -/
def Obligations.FlowTableMessages : Prop :=
  ∀ (die : Nat) (s : State), die < 4 →
    let d := s.dev
    let out := tget [] d.edge.flowOut die
    let inn := tget [] d.edge.flowIn die
    let inn' (d' : Dev) := tget [] d'.edge.flowIn die
    let out' (d' : Dev) := tget [] d'.edge.flowOut die
    (∀ tag profile gen time rest, out = .lookup tag profile gen time :: rest → agingNow d die tag = true →
      Answers (.flowLookupOrInsert die) s (fun d' =>
        out' d' = rest ++ [.lookup tag profile gen time] ∧ inn' d' = inn ∧ d'.edge.flowTab = d.edge.flowTab ∧
        d' = { d with edge := d'.edge })) ∧
    (∀ tag profile gen time rest, out = .lookup tag profile gen time :: rest → agingNow d die tag = false →
      (∀ k, ftFind d die tag = some k → Answers (.flowLookupOrInsert die) s (fun d' =>
        out' d' = rest ∧ inn' d' = inn ++ [.answer tag (some (ftAt d k)) false] ∧ d' = { d with edge := d'.edge })) ∧
      (ftFind d die tag = none →
        let e : FlowEntry := { valid := true, tag, profile, gen, firstSeen := time, lastSeen := time }
        (flowCount d die < 4194304 → ∀ d1, insertFlow die e (flowPop die d) = some d1 → Answers (.flowLookupOrInsert die) s (fun d' =>
          out' d' = rest ∧ inn' d' = inn ++ [.answer tag (some e) true] ∧
          ctrVal d' .flowLearned die 0 = ctrVal d .flowLearned die 0 + 1 ∧ d'.edge.flowTab = d1.edge.flowTab)) ∧
        (4194304 ≤ flowCount d die → Answers (.flowLookupOrInsert die) s (fun d' =>
          out' d' = rest ∧ inn' d' = inn ++ [.answer tag none false] ∧ d'.edge.flowTab = d.edge.flowTab)))) ∧
    (∀ e rest, out = .writeback e :: rest → Answers (.flowWriteback die) s (fun d' =>
      out' d' = rest ∧ d' = { d with edge := d'.edge } ∧
      match ftFind d die e.tag with
      | some k => ftAt d' k = e ∧ ∀ j, j ≠ k → ftAt d' j = ftAt d j
      | none => d'.edge.flowTab = d.edge.flowTab)) ∧
    Answers (.flowCacheFlush die) s (fun d' =>
      (∀ k, k / 65536 = die → (wayOf d' k).dirty = false) ∧ (∀ k, (wayOf d' k).entry = (wayOf d k).entry) ∧
      d'.edge.flowTab = d.edge.flowTab ∧ d' = { d with edge := d'.edge }) ∧
    Answers (.flowAgingScan die) s (fun d' =>
      inn' d' = inn ++ ((d.edge.flowTab.filter (fun x => x.1 / 2 ^ 23 == die && x.2.valid && isIdle d die x.2)).map
        (fun x => FlowBack.candidate x.2.tag x.1 x.2.lastSeen)) ∧ d'.edge.flowTab = d.edge.flowTab ∧ d' = { d with edge := d'.edge }) ∧
    (∀ tag idx last rest, inn = .candidate tag idx last :: rest → Answers (.flowAgingCandidate die) s (fun d' =>
      inn' d' = rest ∧ d' = { d with edge := d'.edge } ∧
      match cacheFind d die tag with
      | none => out' d' = out ++ [.confirm tag idx] ∧ d'.edge.fcache = d.edge.fcache
      | some k =>
        if later32 (wayOf d k).entry.lastSeen last = true ∨ 0 < (wayOf d k).pins
        then out' d' = out ++ [.writeback (wayOf d k).entry] ∧ wayOf d' k = { wayOf d k with dirty := false }
        else out' d' = out ++ [.confirm tag idx] ∧ wayOf d' k = {})) ∧
    (∀ tag idx rest, out = .confirm tag idx :: rest → Answers (.flowAgingConfirm die) s (fun d' =>
      out' d' = rest ∧
      match ftFind d die tag with
      | none => d'.edge.flowTab = d.edge.flowTab
      | some k => if isIdle d die (ftAt d k) = true
          then ftAt d' k = {} ∧ ctrVal d' .flowAged die 0 = ctrVal d .flowAged die 0 + 1
          else d'.edge.flowTab = d.edge.flowTab)) ∧
    (∀ tag entry learned rest, inn = .answer tag entry learned :: rest → Answers (.flowMissAnswer die) s (fun d' =>
      inn' d' = rest ∧ d'.comp = d.comp ∧ d'.regs = d.regs ∧
      match missFind d die tag with
      | none => d' = { d with edge := d'.edge }
      | some k => tget {} d'.edge.misses k = {}))

/-- R77, R86, R139 to R146. -/
def Obligations.MatchAndDeepVerdicts : Prop :=
  ∀ (bp die req status verdict score : Nat) (outputs : List Word32) (s : State),
    bp < 128 → die < 4 → req < 65536 → status < 65536 → verdict < 65536 → score < 65536 →
    let d := s.dev
    let q := deepOf d die req
    let rest (d' : Dev) : Prop := d'.comp = d.comp ∧ d'.regs = d.regs ∧ d'.hostMem = d.hostMem ∧ d'.store = d.store
    (∀ fid l, (bpOf d bp).order = fid :: l → (frameOf d fid).stage = .parsed →
      ((frameOf d fid).ended = true ∨ min (frameOf d fid).depth ((frameOf d fid).len - 4) ≤ (frameOf d fid).bytes.length) →
      (frameOf d fid).bp = bp → Answers (.matchRelease bp) s (fun d' =>
        (bpOf d' bp).order.Sublist l ∧ (frameOf d' fid).stage ≠ .parsed ∧ rest d')) ∧
    (∀ i, i < 16 → (∀ j, j < 16 → j ≠ i → (ruleAt d (stashKey die j)).used = false) →
      let k := stashKey die i
      let r := ruleAt d k
      r.used = true → r.second = false → r.wide = false →
      match insertBuckets die r (ctrVal d .ruleHitPkts k 0, ctrVal d .ruleHitBytes k 0) d with
      | some d1 => Gives (.stashReinsert die) s (freeRule k d1)
      | none => Gives (.stashReinsert die) s d) ∧
    (∀ r l, fifoOf d die = r :: l →
      let q := deepOf d die r
      (q.deadline < beat d → Answers (.deepRequestIssue die) s (fun d' => fifoOf d' die = l ∧ deepOf d' die r = {} ∧ rest d')) ∧
      (∀ cl, beat d ≤ q.deadline → pickCluster d die (ctxOf d q.context).clusters = some cl →
        (∀ fid, q.frame = some fid → (frameOf d fid).ended = true ∨ q.needBytes ≤ (frameOf d fid).bytes.length) →
        issueTok ≤ bkLevel (256 * issueTok) 1 (beat d) (tget {} d.edge.deepBk die) →
        Answers (.deepRequestIssue die) s (fun d' =>
          fifoOf d' die = l ∧ (deepOf d' die r).issued = true ∧ (deepOf d' die r).cluster = cl ∧
          creditsUsed d' die cl = creditsUsed d die cl + 1 ∧ ctrVal d' .deepSent die 0 = ctrVal d .deepSent die 0 + 1 ∧
          d' = { d with edge := d'.edge, ctr := d'.ctr }))) ∧
    (q.used = true → q.issued = true → q.arrived = false → frozenCluster d q.cluster = false →
      (q.deadline < beat d → Answers (.inferenceRequest die req) s (fun d' =>
        (deepOf d' die req).arrived = true ∧ (deepOf d' die req).ans = some (1, 0, 0, []))) ∧
      (beat d ≤ q.deadline → clusterPower d q.cluster = 0 → (ctxOf d q.context).exist = true →
        (ctxVer d q.context q.tag).present = true → (ctxVer d q.context q.tag).fb = none →
        Gives (.inferenceRequest die req) s (modDeep die req (fun q => { q with arrived := true }) d))) ∧
    (q.used = true → q.settled = false → q.deadline < beat d → Answers (.deepDeadline die req) s (fun d' =>
      rest d' ∧ if q.issued then (deepOf d' die req).settled = true ∧ (deepOf d' die req).frame = none
        else deepOf d' die req = {} ∧ fifoOf d' die = (fifoOf d die).erase req)) ∧
    (q.used = true → q.issued = true → q.arrived = true →
      Answers (.inferenceResult die req status verdict score outputs) s (fun d' =>
        deepOf d' die req = {} ∧ creditsUsed d' die q.cluster = creditsUsed d die q.cluster - 1 ∧ rest d'))

/-- R159, R163, R164, R169, R170, R171, R174, R181. -/
def Obligations.EgressTransmissionAndGates : Prop :=
  (∀ (bp prio src dst : Nat) (s : State), bp < 128 → prio < 9 → src < 4 → dst < 4 →
    let d := s.dev
    let starts (q : Nat) : Prop := ∀ i l, (queueOf d bp q).items = i :: l → Answers (.txSelect bp) s (fun d' =>
      (queueOf d' bp q).items = l ∧ (∃ i', txOf d' bp = some i' ∧ i'.src = i.src ∧ i'.len = i.len) ∧
      tget 0 d'.edge.txQueue bp = q ∧ (∀ x, x ≠ bp → txOf d' x = txOf d x) ∧ d'.regs = d.regs ∧ d'.comp = d.comp)
    ((bpOf d bp).link = true → (bpOf d bp).txHold = false → bpEnabled d bp = true → txOf d bp = none → gateEn d bp = false →
      (∀ q, q < 16 → eligible d bp q = true → isStrict d bp q = true →
        (∀ x, x < 16 → q < x → (eligible d bp x && isStrict d bp x) = false) → starts q) ∧
      (∀ q b, (∀ x, x < 16 → (eligible d bp x && isStrict d bp x) = false) → (∃ x, x < 16 ∧ eligible d bp x = true) →
        dwrr d bp 4096 (bpOf d bp) = (some q, b) → starts q)) ∧
    (∀ i, txOf d bp = some i → i.whole = true ∨ i.stomp = true → Answers (.txDone bp) s (fun d' =>
      txOf d' bp = none ∧ (∃ more, d'.out = d.out ++ .frame bp i.bytes i.stomp :: more) ∧
      ctrVal d' .txFrames bp 0 = ctrVal d .txFrames bp 0 + 1 ∧ ctrVal d' .txBytes bp 0 = ctrVal d .txBytes bp 0 + i.len ∧
      d' = { d with edge := d'.edge, ctr := d'.ctr, out := d'.out })) ∧
    (∀ x, d.edge.interDie.find? (fun x => x.1 == src && x.2.1 / 32 == dst) = some x →
      Answers (.interDieFrameArrive src dst) s (fun d' =>
        d'.edge.interDie = d.edge.interDie.erase x ∧ d' = { d with edge := d'.edge, ctr := d'.ctr, out := d'.out })) ∧
    (tget false d.edge.pfcX (16 * bp + prio) = true →
      min (4 * regFld d (rPfcThresh bp) 16 16) (4 * regFld d (rPfcThresh bp) 0 16) < pfcCount d bp prio →
      Gives (.pfcRefresh bp prio) s (emit (.pause bp prio true) d)) ∧
    (regFld d (rSampleCfg bp) 0 16 ≠ 0 → Answers (.samplePeriodEnd bp) s (fun d' =>
      (∀ q, q < 16 → queueOf d' bp q = { items := (queueOf d bp q).items }) ∧ d'.regs = d.regs ∧ d'.comp = d.comp))) ∧
  ∀ (bp val : Nat) (s : State), bp < 128 → val < 2 ^ 32 →
    let d := s.dev
    let g := gatesOf d bp
    let base := regVal d (rGateBaseLo bp) + 2 ^ 32 * regVal d (rGateBaseHi bp)
    let cyc := max 1 (min (regFld d (rGateCycle bp) 0 30) 1000000000)
    (5 ≤ d.boot.step → bitOf val 1 = true →
      (g.pending = false → Answers (.gateSwapArm bp val) s (fun d' =>
        gatesOf d' bp = { g with pending := true
                                 due := if d.time.todNs ≤ base then base else base + ceilDiv (d.time.todNs - base) cyc * cyc } ∧
        regFld d' (rGateCtrl bp) 5 9 = bitsOf val 5 9 ∧ (∀ x, x ≠ bp → gatesOf d' x = gatesOf d x) ∧
        d' = { d with edge := d'.edge, regs := d'.regs })) ∧
      (g.pending = true → Answers (.gateSwapArm bp val) s (fun d' =>
        bitOf (regVal d' (rGateCtrl bp)) 4 = true ∧ d' = { d with regs := d'.regs }))) ∧
    (g.pending = true → g.due ≤ d.time.todNs → Answers (.gateListSwap bp) s (fun d' =>
      (gatesOf d' bp).pending = false ∧ (gatesOf d' bp).bank = !g.bank ∧ (gatesOf d' bp).base = base ∧ (gatesOf d' bp).cycle = cyc ∧
      (gatesOf d' bp).len = max 1 (min (regFld d (rGateCtrl bp) 5 9) 256) ∧
      (∀ e, e < 256 → tget (0xFFFF, 0) (gatesOf d' bp).raw e = (regVal d (rGclGates bp e), regVal d (rGclInterval bp e)) ∧
        regVal d' (rGclGates bp e) = (tget (0xFFFF, 0) g.raw e).1 ∧ regVal d' (rGclInterval bp e) = (tget (0xFFFF, 0) g.raw e).2) ∧
      d' = { d with edge := d'.edge, regs := d'.regs })) ∧
    Gives (.gateEdge bp) s (modGates bp (fun g => { g with mask := maskAt g d.time.todNs }) d)

/-- Table 6.1, Table 6.2, R190: what the sequencer computes, and its frame. -/
def Obligations.CoreScalarInstructions : Prop :=
  (∀ (k : Core) (r j v : Nat), sreg (setSreg r v k) j = if j = r ∧ r ≠ 0 then v % 2 ^ 64 else sreg k j) ∧
  (∀ k : Core, sreg k 0 = 0) ∧
  (∀ a b : Nat, a < 2 ^ 64 → b < 2 ^ 64 →
    let f := cmpFlags a b
    let x := signedOf 64 a
    let y := signedOf 64 b
    condHolds f .eq = decide (a = b) ∧ condHolds f .ne = decide (a ≠ b) ∧
    condHolds f .lt = decide (x < y) ∧ condHolds f .le = decide (x ≤ y) ∧ condHolds f .gt = decide (y < x) ∧ condHolds f .ge = decide (y ≤ x) ∧
    condHolds f .ltu = decide (a < b) ∧ condHolds f .leu = decide (a ≤ b) ∧ condHolds f .gtu = decide (b < a) ∧ condHolds f .geu = decide (b ≤ a)) ∧
  ∀ (c rd ra rb layer operator : Nat) (imm : Word64) (s : State),
    c < 768 → rd < 32 → ra < 32 → rb < 32 → layer < 0x10000 → operator < 0x10000 →
    let a := sreg (coreOf s.dev c) ra
    let b := sreg (coreOf s.dev c) rb
    let puts (i : Instr) (v : Nat) := CoreDoes i c s (setSreg rd v (coreNext s.dev c))
    let shift (i : Instr) (v : Nat) := if b < 64 then puts i v else ∃ w, puts i w
    puts (.scalarAdd c rd ra rb) (a + b) ∧
    puts (.scalarSub c rd ra rb) (a + 2 ^ 64 - b) ∧
    puts (.scalarAnd c rd ra rb) (a &&& b) ∧
    puts (.scalarOr c rd ra rb) (a ||| b) ∧
    puts (.scalarXor c rd ra rb) (a ^^^ b) ∧
    puts (.mul c rd ra rb) (a * b) ∧
    shift (.scalarShl c rd ra rb) (a * 2 ^ b) ∧
    shift (.scalarShr c rd ra rb) (a / 2 ^ b) ∧
    shift (.sar c rd ra rb) (wrapInt 64 (signedOf 64 a / (2 ^ b : Nat))) ∧
    puts (.li c rd imm) imm.toNat ∧
    CoreDoes (.cmp c ra rb) c s { coreNext s.dev c with flags := cmpFlags a b } ∧
    CoreDoes (.mark c layer operator) c s { coreNext s.dev c with layer, operator }

/-- Table 6.2 and R234: control flow and the end of a core's part in an invocation. -/
def Obligations.CoreControlInstructions : Prop :=
  ∀ (c target count body : Nat) (cond : Cond) (s : State), c < 768 →
    let d := s.dev
    let k := coreAt d c
    let v := invOf d k.inv
    CoreDoes (.br c cond target) c s (if condHolds k.flags cond then { k with pc := target } else coreNext d c) ∧
    CoreDoes (.scalarJmp c target) c s { k with pc := target } ∧
    CoreDoes (.scalarCall c target) c s { k with pc := target, calls := (k.pc + 1) :: k.calls } ∧
    (∀ r rest, k.calls = r :: rest → CoreDoes (.scalarRet c) c s { k with pc := r, calls := rest }) ∧
    (k.loops.length < 4 → CoreDoes (.loop c count body) c s
      (if count = 0 ∨ body = 0 then { k with pc := k.pc + 1 + body }
       else { k with pc := k.pc + 1, loops := (k.pc + 1, k.pc + 1 + body, count) :: k.loops })) ∧
    (drained k = false → CoreDoes (.halt c) c s { k with stall := some (.halt c) }) ∧
    (coreReady d c = true → drained k = true → k.winLate = [] →
      (setBits v.running (c % 8) 1 0 ≠ 0 → Answers (.halt c) s (fun d' =>
        coreOf d' c = { k with inv := 0, engines := [], stall := none, handles := dropHandles k.handles, winLate := [] } ∧
        invOf d' k.inv = { v with running := setBits v.running (c % 8) 1 0 } ∧
        (∀ x, x ≠ c → coreOf d' x = coreOf d x) ∧ (∀ j, j ≠ k.inv → invOf d' j = invOf d j) ∧ d'.regs = d.regs ∧ d'.edge = d.edge)) ∧
      (setBits v.running (c % 8) 1 0 = 0 → v.mask ≠ 0 → Answers (.halt c) s (fun d' =>
        (coreOf d' c).inv = 0 ∧ invOf d' k.inv = {} ∧ ∀ j, j ≠ k.inv → invOf d' j = invOf d j)))

/-- R190, R192, R208, R211, R212 and Table 6.8: core faults. -/
def Obligations.CoreFaults : Prop :=
  (∀ (d : Dev) (c arr base n : Nat) (tok : Option Nat) (x : OpOp),
    (physArray d c arr = none → engFault d c (.accClr c arr base n tok) = some .arrayAbsent) ∧
    ((physArray d c arr).isSome = true → 64 < base + n → engFault d c (.accClr c arr base n tok) = some .accRange) ∧
    ((physArray d c x.arr).isSome = true → arrayFmt x.wFmt = true → arrayFmt x.aFmt = true → fmtIsInt x.wFmt ≠ fmtIsInt x.aFmt →
      engFault d c (.op c x) = some .formatMismatch)) ∧
  ∀ (c count body cl sm n rd : Nat) (imm : Word64) (i : Instr) (x : Cause) (s : State), c < 768 → cl < 96 → sm < 16 → 1 ≤ n → n < 256 → rd < 32 →
    let d := s.dev
    let k := coreOf d c
    let v := invOf d k.inv
    let faults (i : Instr) (x : Cause) := Answers i s (fun d' =>
      (coreOf d' c).inv = 0 ∧ invOf d' k.inv = {} ∧ (∀ y, y ≠ c → coreOf d' y = coreOf d y) ∧
      regVal d' (rCoreFault c) = if bitOf (regVal d (rCoreFault c)) 4 then regVal d (rCoreFault c) else x.code + 16 + k.pc % 2 ^ 24 * 256)
    v.mask = 2 ^ (c % 8) → v.cluster = c / 8 → v.serve = .none → (engOf k 10).run = [] →
    (coreReady d c = true →
      (k.calls = [] → faults (.scalarRet c) .illegalInstr) ∧
      (4 ≤ k.loops.length → faults (.loop c count body) .illegalInstr) ∧
      (sm < 8 → faults (.sigR c cl sm n) .illegalInstr) ∧
      (engineCore i = some c → wellFormed i = true → engFault (fetched c d) c i = some x → faults i x)) ∧
    (k.inv ≠ 0 → k.stall = none → frozenCluster d (c / 8) = false → (coreVer d c).cached = false → progLen d c ≤ k.pc →
      faults (.li c rd imm) .fetchRange)

/-- R187, R190, R206 to R208: synchronisation. -/
def Obligations.TokensBarriersAndSemaphores : Prop :=
  ∀ (c cl b sm n t mask rd : Nat) (imm : Word64) (s : State), c < 768 → b < 4 → sm < 16 → n < 256 → t < 32 → mask < 512 → rd < 32 →
    let d := s.dev
    let k := coreAt d c
    let me := c % 8
    let own := c / 8
    let held := tget 0 k.tokens t
    let x := barOf d own b
    let met := setBits x.arrived me 1 1
    let v := (semOf d own sm).value
    let alone (cl : Nat) : Prop := ∀ w, w < 8 → semWait d cl sm w = none
    (k.winLate.contains (some t) = false →
      CoreDoes (.tokWait c t n) c s (if n ≤ held then { coreNext d c with tokens := tput 0 k.tokens t (held - n) }
        else { k with stall := some (.tokWait c t n) })) ∧
    (coreReady d c = true → bitOf x.mask me = true → Answers (.bar c b) s (fun d' =>
      barOf d' own b = { x with arrived := if met = x.mask then 0 else met } ∧
      coreOf d' c = (if met = x.mask then coreNext d c else { k with stall := some (.bar c b) }) ∧
      (∀ w, w < 8 → w ≠ me → coreOf d' (8 * own + w) =
        if met = x.mask ∧ bitOf x.mask w = true ∧ (coreOf d (8 * own + w)).stall = some (.bar (8 * own + w) b)
        then passed (coreOf d (8 * own + w)) else coreOf d (8 * own + w)) ∧
      (∀ y, y / 8 ≠ own → coreOf d' y = coreOf d y) ∧ (∀ y, y ≠ own → clusterOf d' y = clusterOf d y) ∧ d'.regs = d.regs)) ∧
    (coreReady d c = true → 1 ≤ n → alone own → Answers (.sig c sm n) s (fun d' =>
      coreOf d' c = coreNext d c ∧ (∀ y, y ≠ c → coreOf d' y = coreOf d y) ∧ (semOf d' own sm).value = min (v + n) 65535 ∧
      (65535 < v + n → bitOf (regVal d' (rClusterStatus own)) 11 = true ∧
        ctrVal d' .semOverflowEvents (8 * own) 0 = ctrVal d .semOverflowEvents (8 * own) 0 + 1))) ∧
    (∀ w m, coreReady d c = true → 1 ≤ n → w < 8 → w ≠ me → semWait d own sm w = some m → (∀ y, y < 8 → y ≠ w → semWait d own sm y = none) →
      m ≤ v + n → v + n ≤ 65535 → Answers (.sig c sm n) s (fun d' =>
        coreOf d' c = coreNext d c ∧ coreOf d' (8 * own + w) = passed (coreOf d (8 * own + w)) ∧
        semOf d' own sm = { value := v + n - m, last := w })) ∧
    (∀ m, m < 65536 → coreReady d c = true → alone own → Answers (.swait c sm m) s (fun d' =>
      (∀ y, y ≠ c → coreOf d' y = coreOf d y) ∧
      if m ≤ v then coreOf d' c = coreNext d c ∧ semOf d' own sm = { value := v - m, last := me }
      else coreOf d' c = { k with stall := some (.swait c sm m) } ∧ semOf d' own sm = semOf d own sm)) ∧
    (cl < 96 → 8 ≤ sm → 1 ≤ n → coreReady d c = true → Answers (.sigR c cl sm n) s (fun d' =>
      coreOf d' c = coreNext d c ∧ (∀ y, y ≠ c → coreOf d' y = coreOf d y) ∧
      ∀ y, clusterOf d' y = if y = cl then { clusterOf d cl with
        sigIn := (clusterOf d cl).sigIn ++ [{ src := c, sem := sm, n, part := (corePart d c).getD 64 }] } else clusterOf d y)) ∧
    (cl < 96 → ∀ m rest, (clusterOf d cl).sigIn = m :: rest → m.sem = sm → alone cl →
      (ownsCluster d m.part cl = true → Answers (.remoteSignalArrive cl) s (fun d' =>
        (clusterOf d' cl).sigIn = rest ∧ (semOf d' cl sm).value = min ((semOf d cl sm).value + m.n) 65535 ∧ d'.comp.cores = d.comp.cores)) ∧
      (ownsCluster d m.part cl = false → (coreOf d m.src).inv = 0 → Gives (.remoteSignalArrive cl) s
        (bump .semRemoteReject cl 0 (modCluster cl (fun y => { y with sigIn := rest }) d)))) ∧
    (cl < 96 → frozenCluster d cl = false →
      (bitOf (barOf d cl b).mask 8 = true → setBits (barOf d cl b).arrived 8 1 1 ≠ (barOf d cl b).mask →
        Answers (.barrierControllerArrive cl b) s (fun d' => (barOf d' cl b).mask = (barOf d cl b).mask ∧
          (barOf d' cl b).arrived = setBits (barOf d cl b).arrived 8 1 1 ∧ d'.comp.cores = d.comp.cores)) ∧
      ((barOf d cl b).arrived = 0 ∨ mask = (barOf d cl b).mask → Gives (.barrierMaskWrite cl b mask) s
        (modCluster cl (fun y => { y with bars := tput {} y.bars b { barOf d cl b with mask } }) d)) ∧
      ((barOf d cl b).arrived ≠ 0 → mask ≠ (barOf d cl b).mask →
        Gives (.barrierMaskWrite cl b mask) s (setFld (rClusterStatus cl) 12 1 1 d))) ∧
    ((coreOf d c).inv ≠ 0 → (coreOf d c).fetchMiss = true → (coreOf d c).stall = some (.li c rd imm) → frozenCluster d own = false →
      (coreVer d c).cached = true → Answers (.icacheLineFill c) s (fun d' =>
        let k := coreOf d c
        tget [] (coreOf d' c).icache (lineOf k.pc % 256) = (lineOf k.pc :: tget [] k.icache (lineOf k.pc % 256)).take 4 ∧
        (coreOf d' c).stall = none ∧ (coreOf d' c).fetchMiss = false ∧ (coreOf d' c).pc = (passed k).pc ∧
        (∀ j, sreg (coreOf d' c) j = if j = rd ∧ rd ≠ 0 then imm.toNat else sreg k j) ∧
        (∀ y, y ≠ c → coreOf d' y = coreOf d y) ∧ d'.regs = d.regs))

/-- R186 and the rules of each instruction: issue to idle engines. `started` is the device with the core past the instruction. -/
def Obligations.EngineInstructionsStart : Prop :=
  ∀ (c hw arr base n vd va vb vc vs fmt kind w store dst pkg target win row rd rs width start stride : Nat) (o : VecOp) (src to_ : Ref)
    (pattern : Word32) (tok : Option Nat) (mm : MmOp) (asop : AsOp) (op : OpOp) (out : AccOut) (cv : CvtOp) (pe : PealOp) (dm : DmaOp)
    (ga : GatherOp) (s : State),
    let starts (i : Instr) (eff : Dev → Dev) :=
      wellFormed i = true → startsNow s.dev c i = true → Gives i s (eff (started c i s.dev))
    let tg := ((coreOf s.dev c).layer, (coreOf s.dev c).operator)
    starts (.mm c mm hw) (mmArray c mm 0) ∧
    starts (.mmG4 c mm hw) (fun d => mmArray c mm 3 (mmArray c mm 2 (mmArray c mm 1 (mmArray c mm 0 d)))) ∧
    starts (.as c asop) (asEff c asop) ∧
    starts (.asld c asop) (asldEff c asop) ∧
    starts (.op c op) (opEff c op) ∧
    starts (.accOut c out) (accOutEff c out) ∧
    starts (.accClr c arr base n tok) (accClrEff c arr base n) ∧
    starts (.vld c vd src hw tok) (fun d => modCore c (fun k => { k with vregs := tputBytes k.vregs (128 * vd) (refRead d c .vec src 128) }) d) ∧
    starts (.vst c vs src tok) (fun d => refWrite c .vec src (tbytes (coreOf d c).vregs (128 * vs) 128) d) ∧
    starts (.vectorElementwise c o fmt vd va vb vc tok) (vecEff c o fmt vd va vb vc) ∧
    starts (.vred c kind fmt vd va tok) (vredEff c kind fmt vd va) ∧
    starts (.vcvt c cv) (vcvtEff c cv) ∧
    starts (.vrq c cv) (vrqEff c cv) ∧
    starts (.vlut c vd va src tok) (vlutEff c vd va src) ∧
    starts (.vectorPermute c kind w vd va vb n tok) (permEff c kind w vd va vb n) ∧
    starts (.pealLoad c store src n dst tok) (pealLoadEff c store src n dst) ∧
    (hw ≠ 4 → starts (.pealEval c pe hw) (pealEvalEff c tg pe)) ∧
    starts (.dmaIn c dm) id ∧
    starts (.dmaOut c dm) id ∧
    starts (.gather c ga) (gatherEff c tg ga) ∧
    starts (.winRd c pkg target win row n src tok) (winOut c tg pkg target win row n false src tok) ∧
    starts (.winWr c pkg target win row n src tok) (winOut c tg pkg target win row n true src tok) ∧
    starts (.sld c rd src width hw tok) (fun d => modCore c (setSreg rd (leNat (refRead d c .seq src width))) d) ∧
    starts (.sst c rs src width tok) (fun d => refWrite c .seq src (toLe width (sreg (coreOf d c) rs)) d) ∧
    starts (.fill c src n pattern tok) (fun d =>
      refWrite c .seq { src with off := 0 } ((List.range (128 * n)).flatMap (fun _ => toLe 4 pattern.toNat)) d) ∧
    starts (.copy c src to_ arr n tok) (fun d => refWrite c (copyUse d c arr) { to_ with off := 0 }
      (refRead d c (copyUse d c arr) { src with off := 0 } (512 * n)) d) ∧
    starts (.tcopy c src to_ w tok) (tcopyEff c src to_ w) ∧
    starts (.sread c src to_ n w start stride tok) (sreadEff c src to_ n w start stride)

/-- R186, R187, R266, R381: the engines of a core. -/
def Obligations.EngineQueuesAndCompletions : Prop :=
  ∀ (c e t : Nat) (i : Instr) (s : State), c < 768 → e < 12 → t < 32 →
    let d := s.dev
    let k := coreOf d c
    let d1 := engNote c i (fetched c d)
    (∀ a, enginesOf d1 c i = [a] → engineCore i = some c → wellFormed i = true → coreReady d c = true → engFault (fetched c d) c i = none →
      ((engOf k a).queue ≠ [] ∨ (engOf k a).run ≠ []) → Answers i s (fun d' =>
        (∀ y, y ≠ c → coreOf d' y = coreOf d y) ∧
        if (engOf k a).queue.length < 8 then
          coreOf d' c = { passed (coreOf d1 c) with
            engines := tput {} k.engines a { engOf k a with queue := (engOf k a).queue ++ [tagged d c i] } }
        else coreOf d' c = { coreOf d1 c with stall := some i })) ∧
    (∀ j rest, (engOf k e).queue = j :: rest → enginesOf d c j.instr = [e] → canStart d c j = true → frozenCluster d (c / 8) = false →
      (∀ d2, (coreOf (engEff c (j.layer, j.op) j.instr d2) c).stall = (coreOf d2 c).stall) → k.stall = none →
      Gives (.engineStart c e) s (engEff c (j.layer, j.op) j.instr (begun c [e] j
        (modCore c (fun k => { k with engines := tput {} k.engines e { engOf k e with queue := rest } }) d)))) ∧
    (∀ j rest, e ≠ 10 → (engOf k e).run = j :: rest → enginesOf d c j.instr = [e] → k.inv ≠ 0 →
      let after := { k with engines := tput {} k.engines e { engOf k e with run := rest } }
      (tokenOf j.instr = none → k.stall = none → Answers (.engineComplete c e) s (fun d' => coreOf d' c = after ∧ CoreKept c d d')) ∧
      (tokenOf j.instr = some t → tget 0 k.tokens t < 255 →
        (k.stall = none → Answers (.engineComplete c e) s (fun d' =>
          coreOf d' c = { after with tokens := tput 0 k.tokens t (tget 0 k.tokens t + 1) } ∧ CoreKept c d d')) ∧
        (∀ n, k.stall = some (.tokWait c t n) → k.fetchMiss = false → n ≤ tget 0 k.tokens t + 1 →
          Answers (.engineComplete c e) s (fun d' => (coreOf d' c).pc = (passed k).pc ∧ (coreOf d' c).stall = none ∧
            tget 0 (coreOf d' c).tokens t = tget 0 k.tokens t + 1 - n ∧ CoreKept c d d')))) ∧
    (∀ (j : EngOp) (x : DmaOp) (p : Nat), (engOf k 10).run.find? (fun i => (dmaOf i.instr).isSome) = some j → k.inv ≠ 0 → k.stall = none →
      corePart d c = some p → x.space = 1 → x.scale = none → x.tok = none → 1 ≤ x.n →
      (∀ rows, j.instr = .dmaIn c x → refRows d c .dma { x.loc with off := 0 } (512 * x.n) true = some rows → rows.Nodup →
        frameOk d p x.addr (512 * x.n) = true → hbmBad d x.addr (512 * x.n) = false → Answers (.dmaComplete c) s (fun d' =>
          refRead d' c .dma { x.loc with off := 0 } (512 * x.n) = hbmBytes d x.addr (512 * x.n) ∧
          (engOf (coreOf d' c) 10).run = (engOf k 10).run.erase j ∧ d'.store.hbm = d.store.hbm ∧
          (∀ y, y ≠ c → coreOf d' y = coreOf d y))) ∧
      (j.instr = .dmaOut c x → hbmWriteOk d p x.addr (512 * x.n) = true → refOk d c .dma { x.loc with off := 0 } (512 * x.n) false = true →
        Answers (.dmaComplete c) s (fun d' =>
          hbmBytes d' x.addr (512 * x.n) = refRead d c .dma { x.loc with off := 0 } (512 * x.n) ∧
          (engOf (coreOf d' c) 10).run = (engOf k 10).run.erase j ∧ (coreOf d' c).spad = k.spad))) ∧
    (∀ j g, (engOf k 10).run.find? isGather = some j → tokenOf j.instr = none → k.inv ≠ 0 → k.stall = none →
      tget none d.store.gathers c = some g → g.missing = [] → g.bad = false → Answers (.gatherComplete c) s (fun d' =>
        tget none d'.store.gathers c = none ∧ (engOf (coreOf d' c) 10).run = (engOf k 10).run.erase j ∧
        (coreOf d' c).spad = (coreOf (refWrite c .dma g.op.dst (g.elems.flatMap (elemBytes g)) d) c).spad ∧
        (∀ y, y ≠ c → coreOf d' y = coreOf d y)))

/-- R218, R232, R235, R204: bytes and lanes. -/
def Obligations.ScratchpadBytes : Prop :=
  (∀ (d : Dev) (c : Nat) (u : Use) (r : Ref) (bs : List Byte) (rows : List Nat), r.off < 512 →
    refRows d c u r bs.length true = some rows → rows.Nodup →
    let d' := refWrite c u r bs d
    refRead d' c u r bs.length = bs ∧
    (∀ p, p ∉ rows → ∀ b, b < 512 → tget 0 (coreOf d' c).spad (512 * p + b) = tget 0 (coreOf d c).spad (512 * p + b)) ∧
    coreOf d' c = { coreOf d c with spad := (coreOf d' c).spad } ∧ (∀ y, y ≠ c → coreOf d' y = coreOf d y) ∧
    d' = { d with comp := { d.comp with cores := d'.comp.cores } }) ∧
  (∀ (d : Dev) (c : Nat) (u : Use) (r : Ref) (bs : List Byte), bs ≠ [] →
    (let h := hEnt (tget 0 (coreOf d c).handles r.h); h.valid = false ∨ h.rows ≤ r.row ∨ h.readOnly = true) → refWrite c u r bs d = d) ∧
  (∀ (k : Core) (v v' bits : Nat) (ls : List Nat), bits = 8 ∨ bits = 16 ∨ bits = 32 → ls.length = 1024 / bits → ls.all (fun x => decide (x < 2 ^ bits)) = true →
    vlanes (setVlanes v bits ls k) v bits = ls ∧ (v' ≠ v → vlanes (setVlanes v bits ls k) v' bits = vlanes k v' bits) ∧
    setVlanes v bits ls k = { k with vregs := (setVlanes v bits ls k).vregs }) ∧
  ∀ (f a b c free : Nat), f = 7 ∨ f = 8 ∨ f = 11 ∨ f = 14 →
    let w := (fmtInfo f).bits
    let x := intOfCode f a
    let y := intOfCode f b
    let lane (o : VecOp) := vecLane o f a b c free
    let fits (v : Int) (o : VecOp) : Prop := (fmtInfo f).qmin ≤ v → v ≤ (fmtInfo f).qmax → intOfCode f (lane o) = v
    a < 2 ^ w → b < 2 ^ w →
    fits (x + y) .add ∧ fits (x - y) .sub ∧ fits (x * y) .mul ∧
    lane .min = (if x ≤ y then a else b) ∧ lane .max = (if y ≤ x then a else b) ∧
    lane .cmpEq = (if a = b then 2 ^ w - 1 else 0) ∧ lane .cmpLt = (if x < y then 2 ^ w - 1 else 0) ∧ lane .cmpLe = (if x ≤ y then 2 ^ w - 1 else 0) ∧
    lane .select = (if a ≠ 0 then b else c) ∧ lane .and = a &&& b ∧ lane .or = a ||| b ∧ lane .xor = a ^^^ b ∧
    (b < w → lane .shl = a * 2 ^ b % 2 ^ w ∧ lane .shr = a / 2 ^ b ∧ lane .sar = wrapInt w (signedOf w a / (2 ^ b : Nat)))

/-- R191, R194, R196 to R199: the arrays. -/
def Obligations.MatrixArrays : Prop :=
  (∀ (acc : Nat) (v : Int), acc < 2 ^ 32 →
    let r := accAdd true acc (vInt v)
    s32 r.1 = max (-2147483648) (min 2147483647 (s32 acc + v)) ∧ r.2 = decide (s32 acc + v < -2147483648 ∨ 2147483647 < s32 acc + v)) ∧
  (∀ (d : Dev) (c g p : Nat) (x : MmOp), physArray d c (x.arr + g) = some p → x.ps = [] → x.accBase + x.m ≤ 64 →
    let d' := mmArray c x g d
    let mac := pairMacs x.wFmt x.aFmt
    let depth := 16 * mac
    let tile := unpack x.wFmt (16 * depth) (refRead d c (.arr p) (lget ⟨0, 0, 0⟩ x.w g) (packedLen x.wFmt (16 * depth)))
    let cols := (List.range 16).map (fun j => (List.range depth).map (fun i =>
      fmtVal x.wFmt (lget 0 tile (tileIdx mac i j)) (lget 0 (zwOf d c (.arr p) x.wFmt x.zw[g]?) j)))
    let row (m : Nat) := (unpack x.aFmt depth (refRead d c (.arr p) (x.a.plus (m * x.aStride)) (packedLen x.aFmt depth))).map
      (fmtVal x.aFmt · (intOfCode x.aFmt x.za))
    (∀ m, m < x.m → accRow (coreOf d' c) p (x.accBase + m) =
      (accAddRow (fmtIsInt x.wFmt) (accRow (coreOf d c) p (x.accBase + m)) (cols.map (dot (row m)))).1) ∧
    (∀ q r, q < 8 → r < 64 → (q ≠ p ∨ r < x.accBase ∨ x.accBase + x.m ≤ r) → accRow (coreOf d' c) q r = accRow (coreOf d c) q r) ∧
    (coreOf d' c).spad = (coreOf d c).spad ∧ (coreOf d' c).vregs = (coreOf d c).vregs ∧ (coreOf d' c).regs = (coreOf d c).regs ∧
    (∀ y, y ≠ c → coreOf d' y = coreOf d y) ∧ d'.store = d.store) ∧
  (∀ (d : Dev) (c arr base n p : Nat), physArray d c arr = some p → base + n ≤ 64 →
    let d' := accClrEff c arr base n d
    (∀ q r, q < 8 → r < 64 → accRow (coreOf d' c) q r =
      if q = p ∧ base ≤ r ∧ r < base + n then List.replicate 16 0 else accRow (coreOf d c) q r) ∧
    coreOf d' c = { coreOf d c with acc := (coreOf d' c).acc } ∧ (∀ y, y ≠ c → coreOf d' y = coreOf d y))

/-- R242 to R250: windows. -/
def Obligations.RemoteWindows : Prop :=
  (∀ (d : Dev) (m : WinMsg), winCheck d m false = 0 ↔
    clusterPower d (m.dst / 8) ≠ 3 ∧ (clusterOf d (m.dst / 8)).zeroing = false ∧ frozenCluster d (m.dst / 8) = false ∧
    (winOf d m.dst m.win).isOpen = true ∧ m.row + m.n ≤ (winOf d m.dst m.win).rows ∧
    (if m.write then (winOf d m.dst m.win).wr else (winOf d m.dst m.win).rd) = true ∧ (winOf d m.dst m.win).part = m.part) ∧
  ∀ (q t core hw tk : Nat) (s : State), q < 8192 → core < 768 → hw < 5 →
    let d := s.dev
    let m := cmdOf d t
    let w := cmdFld m 24 1
    let perm := cmdFld m 25 1
    let target := cmdFld m 26 2
    let base := cmdFld m 28 2
    let rows := cmdFld m 30 2
    let mine := ownsCluster d (cmdPart d m) (target / 8) = true
    (cmdReady d 0x40 q t = true →
      (768 ≤ target → Gives (.windowOpen q t) s (complete t .invalidField 0 d)) ∧
      (target < 768 → ¬ mine → Gives (.windowOpen q t) s (complete t .accessDenied 0 d)) ∧
      (target < 768 → mine → w ≤ 7 → 1 ≤ rows → base + rows ≤ localRows d target → perm % 4 ≠ 0 → (winOf d target w).isOpen = false →
        let win : Window := { isOpen := true, base, rows, rd := bitOf perm 0, wr := bitOf perm 1, pod := bitOf (cmdFld m 32 1) 0, part := cmdPart d m }
        Gives (.windowOpen q t) s (complete t .ok 0 (modCore target (fun k => { k with windows := tput {} k.windows w win }) d)))) ∧
    (cmdReady d 0x41 q t = true → target < 768 → mine → w ≤ 7 →
      ((winOf d target w).isOpen = true → Answers (.windowClose q t) s (fun d' =>
        winOf d' target w = {} ∧ (∀ x, x ≠ w → winOf d' target x = winOf d target x) ∧ (∀ y, y ≠ target → coreOf d' y = coreOf d y) ∧
        cmdOf d' t = { m with st := 1 } ∧ d'.regs = d.regs)) ∧
      ((winOf d target w).isOpen = false → Gives (.windowClose q t) s (complete t .ok 0 d))) ∧
    (m.q = q → opcodeOf m = 0x41 → m.st = 1 → Gives (.windowCloseDrained q t) s (complete t .ok 0 d)) ∧
    (∀ a, d.comp.winIn.find? (fun m => m.dst == core && m.pkg == ownPkg d) = some a →
      (clusterPower d (core / 8) = 2 → Gives (.windowAccessArrive core hw) s (wakeRequest (core / 8) d)) ∧
      (clusterPower d (core / 8) ≠ 2 → ∃ b, Answers (.windowAccessArrive core hw) s (fun d' =>
        d'.comp.winIn = d.comp.winIn.erase a ∧ d'.comp.winBack = d.comp.winBack ++ [b] ∧ (∀ y, y ≠ core → coreOf d' y = coreOf d y) ∧
        (winCheck d a false = 0 → a.write = false → hw ≠ 3 → b = { a with data := winData d a } ∧ d'.comp.cores = d.comp.cores ∧
          ctrVal d' .windowInBytes core 0 = ctrVal d .windowInBytes core 0 + 512 * a.n) ∧
        (winCheck d a false = 0 → a.write = true → b = { a with data := [] } ∧
          coreOf d' core = { coreOf d core with spad := writeRows (coreOf d core).spad (winRows d a) 0 a.data }) ∧
        (winCheck d a false ≠ 0 → b = { a with cause := winCheck d a false, data := [] } ∧ (coreOf d' core).spad = (coreOf d core).spad ∧
          bitsOf (regVal d' (rWinFault core)) 0 5 = 16 + winCheck d a false ∧ bitsOf (regVal d' (rWinFault core)) 5 3 = a.win % 8 ∧
          ctrVal d' .winRefused core 0 = ctrVal d .winRefused core 0 + 1)))) ∧
    ((coreOf d core).stall = none → ∀ a, winWaits d a = true → (coreOf d core).inv ≠ 0 →
      let left (d' : Dev) : Prop := d'.comp.winBack = d.comp.winBack.erase a ∧ (∀ y, y ≠ core → coreOf d' y = coreOf d y) ∧ d'.regs = d.regs
      (d.comp.winBack.find? (fun m => m.src == core && !m.write) = some a → a.cause = 0 → a.tok = none →
        Answers (.winRdReply core) s (fun d' => left d' ∧
          (coreOf d' core).spad = (coreOf (refWrite core .dma { a.loc with off := 0 } a.data d) core).spad)) ∧
      (d.comp.winBack.find? (fun m => m.src == core && (m.write && m.cause == 0)) = some a → a.tok = some tk → tget 0 (coreOf d core).tokens tk < 255 →
        Answers (.winWrAck core) s (fun d' => left d' ∧
          (coreOf d' core).tokens = tput 0 (coreOf d core).tokens tk (tget 0 (coreOf d core).tokens tk + 1))) ∧
      (d.comp.winBack.find? (fun m => m.src == core && (m.write && m.cause != 0)) = some a →
        Answers (.winFaultNotice core) s (fun d' => left d' ∧ (coreOf d' core).winLate = (coreOf d core).winLate ++ [a.tok])))

/-- R205, R233, R234, R253, R254, R287, R303, R311, R314, R315. -/
def Obligations.PealStoresAndClusters : Prop :=
  (∀ (d : Dev) (c n dst i : Nat) (src : Ref),
    let bs := refRead d c .peal { src with off := 0 } (512 * n)
    let elem (sz : Nat) := leNat ((bs.drop (sz * (i - dst))).take sz)
    tget 0 (coreOf (pealLoadEff c 0 src n dst d) c).nodes i =
      (if dst ≤ i ∧ i < dst + 512 * n / 16 then elem 16 else tget 0 (coreOf d c).nodes i) ∧
    tget 0 (coreOf (pealLoadEff c 1 src n dst d) c).trees i =
      (if dst ≤ i ∧ i < dst + 512 * n / 8 then elem 8 else tget 0 (coreOf d c).trees i) ∧
    tget 0 (coreOf (pealLoadEff c 2 src n dst d) c).leaves i =
      (if dst ≤ i ∧ i < dst + 512 * n / 2 then elem 2 else tget 0 (coreOf d c).leaves i)) ∧
  ∀ (cl mask ctx tag c share tb nb lb : Nat) (serve : Serve) (handles : List (List Nat)) (programs : List Nat) (s : State),
    cl < 96 → 1 ≤ mask → mask < 256 → ctx < 4096 → tag < 3 → c < 768 →
    let d := s.dev
    let i := d.comp.nextInv
    (launchOk d cl mask ctx tag serve = false → Gives (.invocationLaunch cl mask ctx tag serve handles programs) s d) ∧
    (launchOk d cl mask ctx tag serve = true → Answers (.invocationLaunch cl mask ctx tag serve handles programs) s (fun d' =>
      d'.comp.nextInv = i + 1 ∧ (invOf d' i).cluster = cl ∧ (invOf d' i).mask = mask ∧ (invOf d' i).running = mask ∧
      (invOf d' i).ctx = ctx ∧ (invOf d' i).tag = tag ∧ (invOf d' i).serve = serve ∧ (∀ j, j ≠ i → invOf d' j = invOf d j) ∧
      (∀ t, t < 8 → bitOf mask t = true →
        let k := coreOf d' (8 * cl + t)
        k.inv = i ∧ k.prog = lget 0 programs t ∧ k.pc = 0 ∧ k.regs = [] ∧ k.vregs = [] ∧ k.flags = 0 ∧ k.loops = [] ∧ k.calls = [] ∧
        k.tokens = [] ∧ k.engines = [] ∧ k.stall = none ∧ k.icache = [] ∧ k.spad = (coreOf d (8 * cl + t)).spad ∧ k.acc = (coreOf d (8 * cl + t)).acc) ∧
      (∀ y, (y / 8 ≠ cl ∨ bitOf mask (y % 8) = false) → coreOf d' y = coreOf d y))) ∧
    Gives (.pealPatrol c share 0) s d ∧
    Answers (.pealPatrol c share 1) s (fun d' => bitOf (regVal d' (rPeal c)) 3 = true ∧
      ctrVal d' .pealEccCorrected c 0 = ctrVal d .pealEccCorrected c 0 + 1 ∧ d'.comp = d.comp) ∧
    Gives (.pealPatrol c share 2) s (modCore c (fun k => { k with pregs := k.pregs.map (fun r =>
      if r.share = share ∧ r.st = 2 then { r with st := 3 } else r) }) d) ∧
    (let v := ctxVer d ctx tag
     let sh := lget {} v.shares share
     (coreOf d c).pregs.any (fun r => r.ctx == ctx && r.vid == v.vid && r.share == share) = true →
       Answers (.pealScrubReload c ctx tag share tb nb lb) s (fun d' =>
        let k := coreOf d' c
        (∀ j, j < sh.leaves.length → tget 0 k.leaves (lb + j) = lget 0 sh.leaves j) ∧
        (∀ j, j < sh.trees.length → tget 0 k.trees (tb + j) = lget 0 (sh.trees.map treeBits) j) ∧
        (∀ j, j < sh.nodes.length → tget 0 k.nodes (nb + j) = lget 0 (sh.nodes.map nodeBits) j) ∧
        (∀ r ∈ k.pregs, r.ctx = ctx → r.vid = v.vid → r.share = share → r.st = 2) ∧ (∀ y, y ≠ c → coreOf d' y = coreOf d y))) ∧
    Gives (.clusterZeroDone cl) s (modCluster cl (fun k => { k with zeroing := false }) d) ∧
    (∀ core row bs, (clusterOf d cl).reload.contains (ctxVer d ctx tag).vid = true → (clusterOf d cl).zeroing = false →
      core / 8 = cl → row < localRows d core → bs.length = 512 →
      Answers (.residentReload cl ctx tag [(core, row, bs)]) s (fun d' =>
        tbytes (coreOf d' core).spad (512 * physRow d core row) 512 = bs ∧
        tget 0 (coreOf d' core).resRows (physRow d core row) = ctx + 1 ∧
        (clusterOf d' cl).reload = (clusterOf d cl).reload.erase (ctxVer d ctx tag).vid ∧ (∀ y, y ≠ core → coreOf d' y = coreOf d y)))

/-- R444, R445, R451, R457, R458. -/
def Obligations.RingDoorbells : Prop :=
  ∀ (q fn r val : Nat) (v : Word64) (s : State), q < 8192 → fn < 128 → r < 19 → val < 2 ^ 32 →
    let d := s.dev
    let p := pairOf d q
    let k := 32 * fn + r
    let g := rringOf d k
    let bad (ring : Nat) (fn : Nat) (d' : Dev) : Prop :=
      tget [] d'.recPend (32 * fn + 16) = tget [] d.recPend (32 * fn + 16) ++ [.event 2 (beat d) [BitVec.ofNat 8 ring, 1]] ∧ d'.hostMem = d.hostMem ∧ d'.cmds = d.cmds
    (p.enabled = false → Gives (.sqDoorbell q v) s (modPair q (fun p => { p with dbErr := true }) d) ∧
      Gives (.cqDoorbell q v) s (modPair q (fun p => { p with dbErr := true }) d)) ∧
    (p.enabled = true → p.error = true → Gives (.sqDoorbell q v) s d ∧ Gives (.cqDoorbell q v) s d) ∧
    (p.enabled = true → p.error = false →
      (v.toNat < sqDepth d q → Gives (.sqDoorbell q v) s (modPair q (fun p => { p with sqTail := v.toNat }) d)) ∧
      (v.toNat < cqDepth d q → Gives (.cqDoorbell q v) s (modPair q (fun p => { p with cqHead := v.toNat }) d)) ∧
      (sqDepth d q ≤ v.toNat → Answers (.sqDoorbell q v) s (fun d' =>
        pairOf d' q = { p with error := true, dbErr := true } ∧ (∀ x, x ≠ q → pairOf d' x = pairOf d x) ∧ bad (q % 64) (q / 64) d')) ∧
      (cqDepth d q ≤ v.toNat → Answers (.cqDoorbell q v) s (fun d' =>
        pairOf d' q = { p with error := true, dbErr := true } ∧ (∀ x, x ≠ q → pairOf d' x = pairOf d x) ∧ bad (q % 64) (q / 64) d'))) ∧
    (g.enabled = false → Gives (.rqDoorbell fn r v) s (modRRing k (fun p => { p with dbErr := true }) d)) ∧
    (g.enabled = true → g.error = true → Gives (.rqDoorbell fn r v) s d) ∧
    (g.enabled = true → g.error = false →
      (v.toNat < rqDepth d k → Gives (.rqDoorbell fn r v) s (modRRing k (fun p => { p with head := v.toNat }) d)) ∧
      (rqDepth d k ≤ v.toNat → Answers (.rqDoorbell fn r v) s (fun d' =>
        rringOf d' k = { g with error := true, dbErr := true } ∧ (∀ x, x ≠ k → rringOf d' x = rringOf d x) ∧ bad (64 + r) fn d'))) ∧
    (let on := setBits val 0 1 1 % 2 ^ 20
     let off := setBits val 0 1 0 % 2 ^ 20
     (p.enabled = false → outstanding d q = 0 →
       (pairCfgOk d q on = true → Answers (.ringEnable (q / 64) (q % 64) val) s (fun d' =>
         pairOf d' q = { enabled := true, dbErr := p.dbErr, cfgErr := p.cfgErr } ∧ regVal d' (rRingCfg q) = on ∧
         (∀ x, x ≠ q → pairOf d' x = pairOf d x) ∧ d'.cmds = d.cmds ∧ d'.hostMem = d.hostMem)) ∧
       (pairCfgOk d q on = false → Answers (.ringEnable (q / 64) (q % 64) val) s (fun d' =>
         pairOf d' q = { p with cfgErr := true } ∧ (∀ x, x ≠ q → pairOf d' x = pairOf d x)))) ∧
     (p.enabled = true → regVal d (rRingCfg q) / 2 = off / 2 → Answers (.ringDisable (q / 64) (q % 64) val) s (fun d' =>
       pairOf d' q = { p with enabled := false } ∧ bitOf (regVal d' (rRingCfg q)) 0 = false ∧ (∀ x, x ≠ q → pairOf d' x = pairOf d x)))) ∧
    (let on := setBits val 0 1 1 % 2 ^ 31
     let off := setBits val 0 1 0 % 2 ^ 31
     (g.enabled = false → rringCfgOk d k on = true → Answers (.ringEnable fn (64 + r) val) s (fun d' =>
       rringOf d' k = { enabled := true, dbErr := g.dbErr, cfgErr := g.cfgErr, lost := g.lost, seq := g.seq } ∧
       regVal d' (rRqCfg fn r) = on ∧ ∀ x, x ≠ k → rringOf d' x = rringOf d x)) ∧
     (g.enabled = true → regVal d (rRqCfg fn r) / 2 = off / 2 → Answers (.ringDisable fn (64 + r) val) s (fun d' =>
       rringOf d' k = { g with enabled := false } ∧ ∀ x, x ≠ k → rringOf d' x = rringOf d x)))

/-- R446, R451, R455 and Table 14.9; `complete` is what every completion below goes through. -/
def Obligations.CommandFetchAndCompletion : Prop :=
  (∀ (q : Nat) (s : State), q < 8192 →
    let d := s.dev
    let c := fetchedCmd d q
    let ends (st : Status) := Gives (.sqFetch q) s (complete d.nextTkt st 0 (afterFetch q d))
    let reads := dmaOk d (q / 64) (base64 d (rSqBase q) + 64 * (pairOf d q).sqHead) 64 false
    (mayFetch d q = false → Gives (.sqFetch q) s d) ∧
    (mayFetch d q = true → reads = false → Answers (.sqFetch q) s (fun d' =>
      pairOf d' q = { pairOf d q with error := true } ∧ d'.cmds = d.cmds ∧ (∀ x, x ≠ q → pairOf d' x = pairOf d x))) ∧
    (mayFetch d q = true → reads = true →
      (knownOpcode (opcodeOf c) = false → ends .invalidOpcode) ∧
      (knownOpcode (opcodeOf c) = true →
        ((reservedOk c && rangesOk d c) = false → ends .invalidField) ∧
        ((reservedOk c && rangesOk d c) = true →
          (pfOnly c = true → q / 64 % 64 ≠ 0 → opcodeOf c ≠ 0x12 → ends .accessDenied) ∧
          ((pfOnly c && decide (q / 64 % 64 ≠ 0)) = false →
            (isStamped (opcodeOf c) = true → selectEpoch d (cmdFld c 12 4) = none → ends .epochStale) ∧
            ((isStamped (opcodeOf c) && (selectEpoch d (cmdFld c 12 4)).isNone) = false → opcodeOf c ≠ 1 →
              Gives (.sqFetch q) s (afterFetch q d))))))) ∧
  (∀ (t result : Nat) (st : Status) (d : Dev),
    let c := cmdOf d t
    let q := c.q
    let p := pairOf d q
    let a := base64 d (rCqBase q) + 32 * p.cqTail
    let n := (p.cqTail + 1) % cqDepth d q
    let d' := complete t st result d
    (d.boot.fault = true ∨ frozenPart d (cmdPart d c) = true → d' = d) ∧
    (q < 8192 → cmdLive d t = true → d.boot.fault = false → frozenPart d (cmdPart d c) = false →
      d.cmds.all (fun e => !(e.2.q == q && opcodeOf e.2 == 2)) = true →
      cmdOf d' t = {} ∧ (∀ x, x ≠ t → cmdOf d' x = cmdOf d x) ∧ (∀ x, x ≠ q → pairOf d' x = pairOf d x) ∧
      d'.regs = d.regs ∧ d'.comp = d.comp ∧ d'.edge = d.edge ∧
      (dmaOk d (q / 64) a 32 true = true →
        hostRead d' (q / 4096) a 32 = cqBytes (cmdFld c 2 2) st.code (q % 64) p.sqHead result (beat d) p.phase ∧
        (pairOf d' q).cqTail = n ∧ (pairOf d' q).phase = (if n = 0 then !p.phase else p.phase) ∧ (pairOf d' q).sqHead = p.sqHead ∧
        ctrVal d' .cqWritten q 0 = ctrVal d .cqWritten q 0 + 1) ∧
      (dmaOk d (q / 64) a 32 true = false → (pairOf d' q).error = true ∧ d'.hostMem = d.hostMem)))

/-- R401, R443, R450, R452 to R454, R486, R503. -/
def Obligations.RingCommandStarts : Prop :=
  ∀ (q t : Nat) (s : State), q < 8192 →
    let d := s.dev
    let m := cmdOf d t
    let ctx := ctxOf d (cmdFld m 8 2)
    let v := ctxVer d (cmdFld m 8 2) m.tag
    let begins (c : Instr) := Gives c s (modCmd t (fun c => { c with st := 1 }) d)
    let ends (c : Instr) (st : Status) := Gives c s (complete t st 0 d)
    let runs (c : Instr) (inLen outLen : Nat) :=
      ((ctxMine d m && v.present && !ctx.feedback) = false → ends c .noContext) ∧
      ((ctxMine d m && v.present && !ctx.feedback) = true →
        let fits := rangeOk d m (bitOf (cmdFld m 1 1) 2) false (cmdFld m 32 8) inLen && rangeOk d m (bitOf (cmdFld m 1 1) 3) true (cmdFld m 40 8) outLen
        (fits = true → begins c) ∧ (fits = false → ends c .accessDenied))
    (cmdReady d 0x20 q t = true → runs (.run q t) (cmdFld m 56 4) (cmdFld m 60 4)) ∧
    (cmdReady d 0x21 q t = true →
      runs (.runTrees q t) (cmdFld m 48 4 * (ceilDiv (2 * v.par.nFeatures) 64 * 64)) (cmdFld m 48 4 * v.par.nOut * 4)) ∧
    (cmdReady d 0x02 q t = true →
      (cmdFld m 24 1 = 0 →
        (if d.cmds.any (fun e => e.2.q == q && decide (e.1 < t)) then begins (.fence q t) else ends (.fence q t) .ok)) ∧
      (cmdFld m 24 1 ≠ 0 → d.cmds.any (fun e => decide (e.1 < t) && cmdFn e.2 == cmdFn m && opcodeOf e.2 == 0x42 && copyKey e.2 == fenceKey m) = false →
        (faultQOf d (cmdFn m)).keys.contains (fenceKey m) = false → (faultQOf d (cmdFn m)).overflow = false → cmdFld m 32 2 = ownPkg d →
        Gives (.fence q t) s (complete t .ok 0 (modCmd t (fun c => { c with aux := [0] }) d)))) ∧
    (let p := cmdPart d m
     let bp := cmdFld m 24 1 % 32 * 4 + cmdFld m 24 1 / 32 % 4
     let que := cmdFld m 25 1
     let len := cmdFld m 26 2
     let may := bitOf (partOf d p).txPorts (cmdFld m 24 1 % 32) && bitOf (partOf d p).txQueues que && dmaOk d (cmdFn m) (cmdFld m 32 8) len false
     let rate : Int := ((max 1 (min (partOf d p).txRate 6400000) : Nat) : Int)
     let bk := tget {} d.txBk (4 * p + bp / 32)
     let level := bkLevel (65536 * txTok) rate (beat d) bk
     let cost : Int := ((len + 4 : Nat) : Int) * txTok
     let behind := d.cmds.any (fun e => decide (e.1 < t) && e.2.q == q && opcodeOf e.2 == 0x30 && cmdFld e.2 24 1 == cmdFld m 24 1)
     let it : EItem := { bytes := hostRead d (q / 4096) (cmdFld m 32 8) len, len := len + 4, cells := cellsOf (len + 4), inBp := 128, storeFwd := true, enq := beat d }
     let tries (c : Instr) : Prop :=
       (behind = true ∨ level < cost → begins c) ∧
       (behind = false → cost ≤ level → bpEnabled d bp = true → provided d bp = true → (bpOf d bp).txHold = false → (bpOf d bp).link = true →
         ∀ r, admitTo d bp que (cellsOf (len + 4)) 128 0 false = some r → Answers c s (fun d' =>
           (queueOf d' bp que).items = (queueOf d bp que).items ++ [{ it with region := r }] ∧
           tget {} d'.txBk (4 * p + bp / 32) = { lvl := some (level - cost), last := beat d } ∧ d'.comp = d.comp))
     (cmdReady d 0x30 q t = true → (may = false → ends (.txFrame q t) .accessDenied) ∧ (may = true → tries (.txFrame q t))) ∧
     (m.q = q → opcodeOf m = 0x30 → m.st = 1 → cmdLate d m = false → tries (.txFrameEnqueue q t))) ∧
    (let core := cmdFld m 26 2
     let rows := cmdFld m 44 4
     let a : WinMsg := { src := 1023, dst := core, pkg := 64, win := cmdFld m 28 1, row := cmdFld m 40 4, n := rows, write := true, part := cmdPart d m }
     cmdReady d 0x42 q t = true → cmdFld m 24 1 = 0 → 1 ≤ rows → rows ≤ 8 → cmdFld m 30 2 = ownPkg d → clusterPower d (core / 8) ≠ 2 →
       d.cmds.any (fun e => decide (e.1 < t) && e.2.q == q && opcodeOf e.2 == 0x42 && copyKey e.2 == copyKey m && e.2.st == 0) = false →
       frameOk d (cmdPart d m) (cmdFld m 32 8) (512 * rows) = true → hbmBad d (cmdFld m 32 8) (512 * rows) = false → winCheck d a false = 0 →
       Answers (.remoteCopy q t) s (fun d' =>
         (coreOf d' core).spad = writeRows (coreOf d core).spad (winRows d a) 0 (hbmBytes d (cmdFld m 32 8) (512 * rows)) ∧
         (∀ y, y ≠ core → coreOf d' y = coreOf d y) ∧ d'.regs = d.regs)) ∧
    (m.q = q → cmdLive d t = true → cmdLate d m = true → opcodeOf m ≠ 0x23 → m.st ≤ 1 →
      (cmdInvs d t = [] → ends (.commandDeadline q t) .deadlineMissed) ∧
      (∀ i is, cmdInvs d t = i :: is → Gives (.commandDeadline q t) s (endInv i .deadlineMissed d)))

/-- R440, R451, R458 to R463. -/
def Obligations.RecordsInterruptsAndFaults : Prop :=
  ∀ (fn r ring vec bar off len q : Nat) (s : State), fn < 128 → r < 19 → ring < 64 → vec < 2048 → bar < 2 → len < 4097 →
    let d := s.dev
    let k := 32 * fn + r
    let g := rringOf d k
    let n := (g.tail + 1) % rqDepth d k
    let a := base64 d (rRqBase fn r) + rqSlot d k * g.tail
    let able := g.enabled && !g.error && fnReady d fn && decide (n ≠ g.head)
    (∀ x rest, tget [] d.recPend k = x :: rest →
      (able = true → dmaOk d fn a (rqSlot d k) true = true → Answers (.recordDeliver fn r) s (fun d' =>
        tget [] d'.recPend k = rest ∧
        hostRead d' (fn / 64) a (slotBytes g (rqSlot d k) x).length = slotBytes g (rqSlot d k) x ∧
        (rringOf d' k).tail = n ∧ (rringOf d' k).phase = (if n = 0 then !g.phase else g.phase) ∧
        (∀ code time payload, x = .event code time payload → (rringOf d' k).seq = (g.seq + 1) % 2 ^ 32 ∧ (rringOf d' k).lost = 0) ∧
        (∀ y, y ≠ k → rringOf d' y = rringOf d y) ∧ d'.regs = d.regs)) ∧
      (able = false → Answers (.recordDeliver fn r) s (fun d' =>
        tget [] d'.recPend k = rest ∧ d'.hostMem = d.hostMem ∧
        match x with
        | .event _ _ _ => rringOf d' k = { g with lost := min (g.lost + 1) (2 ^ 32 - 1) } ∧ ctrVal d' .eventLost fn 0 = ctrVal d .eventLost fn 0 + 1
        | _ => rringOf d' k = g ∧ ctrVal d' .rqDrop k 0 = ctrVal d .rqDrop k 0 + 1))) ∧
    (let p := pairOf d (64 * fn + ring)
     let irq := regVal d (rRingIrq (64 * fn + ring))
     let v := regFld d (rRingCfg (64 * fn + ring)) 9 11
     p.unann ≠ 0 → bitOf irq 24 = false → bitsOf irq 8 16 ≠ 0 → p.unannFrom + 1000 * bitsOf irq 8 16 ≤ beat d → fnReady d fn = true →
       Answers (.irqDelayExpire fn ring) s (fun d' =>
         pairOf d' (64 * fn + ring) = { p with unann := 0 } ∧ (∀ y, y ≠ 64 * fn + ring → pairOf d' y = pairOf d y) ∧
         if tget false d.msixOn (4096 * fn + v) = true then d'.out = d.out ++ [.msix fn v] ∧ d'.msixPba = d.msixPba
         else d'.out = d.out ∧ tget false d'.msixPba (4096 * fn + v) = true)) ∧
    Answers (.msixUnmask fn vec) s (fun d' =>
      tget false d'.msixOn (4096 * fn + vec) = true ∧
      if tget false d.msixPba (4096 * fn + vec) = true ∧ fnReady d fn = true
      then d'.out = d.out ++ [.msix fn vec] ∧ tget false d'.msixPba (4096 * fn + vec) = false else d'.out = d.out ∧ d'.msixPba = d.msixPba) ∧
    (faultKind d fn bar off len = 0 → Gives (.accessFault fn bar off len) s d) ∧
    (faultKind d fn bar off len ≠ 0 → Answers (.accessFault fn bar off len) s (fun d' =>
      ctrVal d' .accessFaults fn 0 = ctrVal d .accessFaults fn 0 + 1 ∧ bitOf (regVal d' (rFnStatus fn)) 27 = true ∧
      bitsOf (regVal d' rAccessFault) 16 16 = min 65535 (bitsOf (regVal d rAccessFault) 16 16 + 1) ∧
      (bitOf (regVal d rAccessFault) 0 = false → regVal d' rAccessAddr = off % 2 ^ 26 ∧
        bitsOf (regVal d' rAccessFault) 0 12 = 1 + faultKind d fn bar off len * 2 + fn / 64 * 16 + fn % 64 * 32 + bar * 2048) ∧
      (bitOf (regVal d rAccessFault) 0 = true → regVal d' rAccessAddr = regVal d rAccessAddr) ∧ d'.comp = d.comp)) ∧
    (q = 64 * fn + ring → (pairOf d q).enabled = true → (pairOf d q).error = false → (pairOf d q).sqHead ≠ (pairOf d q).sqTail →
      fnReady d fn = true → frozenPart d ((partOfFn d fn).getD 64) = false → Answers (.pcieCompletionTimeout fn ring) s (fun d' =>
        pairOf d' q = { pairOf d q with error := true } ∧ d'.cmds = d.cmds ∧ (∀ x, x ≠ q → pairOf d' x = pairOf d x)))

/-- R374, R376 to R380, R387, R389. -/
def Obligations.HbmAccesses : Prop :=
  (∀ (d : Dev) (x y : Nat), x < 576 * 2 ^ 30 → y < 576 * 2 ^ 30 →
    (hbmMap d x).1 < 12 ∧ (hbmMap d x).2 < 48 * 2 ^ 30 ∧ (hbmMap d x = hbmMap d y → x = y)) ∧
  (∀ old t : Nat,
    (tempLevel old t = 3 ↔ 100 ≤ t ∨ (3 ≤ old ∧ 98 ≤ t)) ∧ (2 ≤ tempLevel old t ↔ 95 ≤ t ∨ (2 ≤ old ∧ 93 ≤ t)) ∧
    (1 ≤ tempLevel old t ↔ 85 ≤ t ∨ (1 ≤ old ∧ 83 ≤ t)) ∧ tempLevel old t ≤ 3) ∧
  ∀ (owner x kind err stack temp die r val : Nat) (data : List Byte) (s : State),
    owner ≤ 64 → kind < 2 → err < 5 → stack < 12 → temp < 256 → die < 4 → r < 48 → val < 2 ^ 32 →
    let d := s.dev
    let may := owner = 64 ∨ (if kind = 1 then hbmWriteOk d owner x data.length else frameOk d owner x 64) = true
    (may → kind = 1 → Answers (.hbmAccess owner x kind data err) s (fun d' =>
      hbmBytes d' x data.length = data ∧
      (∀ y, (y < x ∨ x + data.length ≤ y) → tget 0 d'.store.hbm y = tget 0 d.store.hbm y) ∧
      (∀ b, tget false d'.store.poison b = (tget false d.store.poison b && !decide (x ≤ b * 64 ∧ b * 64 + 64 ≤ x + data.length))) ∧
      d' = { d with store := { d.store with hbm := d'.store.hbm, poison := d'.store.poison }, ctr := d'.ctr })) ∧
    (may → kind = 0 → err = 0 → Answers (.hbmAccess owner x kind data err) s (fun d' => d' = { d with ctr := d'.ctr })) ∧
    (may → kind = 0 → err = 2 → Answers (.hbmAccess owner x kind data err) s (fun d' =>
      tget false d'.store.poison (x / 64) = true ∧ (∀ b, b ≠ x / 64 → tget false d'.store.poison b = tget false d.store.poison b) ∧
      d'.store.hbm = d.store.hbm ∧ bitOf (regVal d' (rErrStatus (hbmDie d x))) 3 = true ∧ d'.comp = d.comp)) ∧
    (¬ may → Answers (.hbmAccess owner x kind data err) s (fun d' =>
      d'.store = d.store ∧ bitOf (regVal d' (rErrStatus (hbmDie d x))) 4 = true ∧
      ctrVal d' .hbmDenied (hbmDie d x) 0 = ctrVal d .hbmDenied (hbmDie d x) 0 + 1 ∧ d' = { d with regs := d'.regs, ctr := d'.ctr })) ∧
    (bitOf (regVal d (rScrubCfg die)) 0 = true → hbmDie d x = die → Answers (.hbmScrub die x 2) s (fun d' =>
      tget false d'.store.poison (x / 64) = true ∧ d'.store.hbm = d.store.hbm)) ∧
    (bitOf (regVal d (rScrubCfg die)) 0 = false → Gives (.hbmScrub die x err) s d) ∧
    Answers (.stackTempReport stack temp) s (fun d' =>
      (stackOf d' stack).temp = temp ∧ (stackOf d' stack).level = tempLevel (stackOf d stack).level temp ∧
      (∀ y, y ≠ stack → stackOf d' y = stackOf d y) ∧
      (tempLevel (stackOf d stack).level temp = 3 → (stackOf d stack).level ≠ 3 → bitOf (regVal d' (rHbmStatus stack)) 13 = true)) ∧
    (4 ≤ d.boot.step → bitOf val 3 = false →
      ((rowInUse d r = true ∨ val % 4 = 3) → Gives (.rowmodeWrite r val) s (setFld (rRowmode r) 3 1 1 d)) ∧
      (rowInUse d r = false → val % 4 ≠ 3 → Gives (.rowmodeWrite r val) s (setFld (rRowmode r) 0 2 (val % 4) d)))

/-- R382, R386, R480. -/
def Obligations.GatherServiceAndPatrols : Prop :=
  (∀ (d : Dev) (i bank : Nat) (old : Bool) (b : Burst) (n : Nat), nextBurst d i bank old = some (b, n) →
    b ∈ tget [] d.store.coal i ∧ burstBank b = bank ∧ 1 ≤ n) ∧
  ∀ (die stack pch bank region idx err : Nat) (s : State), die < 4 → stack < 3 → pch < 64 → bank < 16 → region < 4 → err < 3 →
    let d := s.dev
    let key := 1024 * (3 * die + stack) + 16 * pch + bank
    let serves (c : Instr) (old : Bool) : Prop :=
      (nextBurst d die key old = none → Gives c s d) ∧
      (∀ b n, nextBurst d die key old = some (b, n) → b.cores.Nodup → Answers c s (fun d' =>
        tget [] d'.store.coal die = (tget [] d.store.coal die).filter (fun x => decide (x ≠ b)) ∧
        tget {} d'.store.rows key = { row := some (dramRow b), served := n } ∧
        (∀ core ∈ b.cores, ∀ g, tget none d.store.gathers core = some g → tget none d'.store.gathers core =
          some { g with missing := g.missing.erase b.addr, got := tput [] g.got b.addr (hbmBytes d b.addr 64), bad := g.bad || hbmBad d b.addr 64 }) ∧
        (∀ core, core ∉ b.cores → tget none d'.store.gathers core = tget none d.store.gathers core) ∧
        d'.comp = d.comp ∧ d'.store.hbm = d.store.hbm ∧ d'.regs = d.regs))
    serves (.coalescerServe die stack pch bank) false ∧
    serves (.coalescerMaxWait die stack pch bank) true ∧
    Gives (.sramPatrol die region idx 0) s d ∧
    Answers (.sramPatrol die region idx 1) s (fun d' => bitOf (regVal d' (rErrStatus die)) 0 = true ∧
      ctrVal d' .sramCe die 0 = ctrVal d .sramCe die 0 + 1 ∧ d' = { d with regs := d'.regs, ctr := d'.ctr }) ∧
    Answers (.sramPatrol die region idx 2) s (fun d' => bitOf (regVal d' (rErrStatus die)) 1 = true ∧
      ctrVal d' .sramUe die 0 = ctrVal d .sramUe die 0 + 1 ∧
      (region = 0 → tget {} d'.edge.flowTab (2 ^ 23 * die + idx) = {} ∧
        ∀ y, y ≠ 2 ^ 23 * die + idx → tget {} d'.edge.flowTab y = tget {} d.edge.flowTab y) ∧
      (region = 2 → ∀ e, d.keyed[idx]? = some e → d'.keyed[idx]? = some { e with poison := true }) ∧
      (region ≠ 2 → d'.keyed = d.keyed) ∧ d'.store = d.store) ∧
    (∀ j rest, tget [] d.store.zeroQ die = j :: rest → d.partOp = none → Answers (.frameZeroDone die) s (fun d' =>
      tget [] d'.store.zeroQ die = rest ∧ (∀ y, y ≠ die → tget [] d'.store.zeroQ y = tget [] d.store.zeroQ y) ∧
      ctrVal d' .zeroBytes die 0 = ctrVal d .zeroBytes die 0 + (if rowMode d (j.frame / 12) = 0 then 2 ^ 28 else 2 ^ 30) ∧ d'.store.hbm = d.store.hbm))

/-- R391 to R393. -/
def Obligations.DirectoryCoherence : Prop :=
  ∀ (die line l2 kind val : Nat) (s : State), die < 16 → line < 32768 → l2 < 8 → kind < 2 →
    let d := s.dev
    let k := lineKey die line
    let l := dirOf d k
    let c := l2Of d k l2
    let others := setBits l.present l2 1 0
    let alone (d' : Dev) : Prop := (∀ y, y ≠ k → dirOf d' y = dirOf d y) ∧ (∀ y x, y ≠ k → x < 8 → l2Of d' y x = l2Of d y x) ∧
      d' = { d with store := { d.store with dir := d'.store.dir, l2 := d'.store.l2 } }
    (l.busy.isSome = true → Gives (.directoryRequest die line l2 kind val) s (modDir k (fun l => { l with held := l.held ++ [(l2, kind, val)] }) d)) ∧
    (l.busy = none → l.held = [] →
      (l.state ≠ 2 → Answers (.directoryRequest die line l2 0 val) s (fun d' => alone d' ∧
        l2Of d' k l2 = { state := 1, data := l.data } ∧ (∀ x, x < 8 → x ≠ l2 → l2Of d' k x = l2Of d k x) ∧
        (dirOf d' k).state = 1 ∧ bitOf (dirOf d' k).present l2 = true ∧ (dirOf d' k).busy = none ∧ (dirOf d' k).data = l.data)) ∧
      (others = 0 → Answers (.directoryRequest die line l2 1 val) s (fun d' => alone d' ∧
        l2Of d' k l2 = { state := 2, data := val } ∧ (∀ x, x < 8 → x ≠ l2 → l2Of d' k x = l2Of d k x) ∧
        (dirOf d' k).state = 2 ∧ (dirOf d' k).present = 2 ^ l2 ∧ (dirOf d' k).busy = none)) ∧
      (others ≠ 0 → Answers (.directoryRequest die line l2 1 val) s (fun d' => alone d' ∧ d'.store.l2 = d.store.l2 ∧
        dirOf d' k = { l with busy := some (l2, 1, val), snoops := others }))) ∧
    (∀ who, l.busy = some (who, 1, val) → l.held = [] → bitOf l.snoops l2 = true → who < 8 → who ≠ l2 →
      (c.wb = true → Gives (.snoopResponse die line l2) s (modDir k (fun l => { l with expectWb := true }) d)) ∧
      (c.wb = false → setBits l.snoops l2 1 0 = 0 → Answers (.snoopResponse die line l2) s (fun d' => alone d' ∧
        l2Of d' k l2 = {} ∧ l2Of d' k who = { state := 2, data := val } ∧ (dirOf d' k).state = 2 ∧ (dirOf d' k).present = 2 ^ who ∧
        (dirOf d' k).busy = none))) ∧
    (c.state = 2 → c.wb = false → Gives (.directoryWriteback die line l2) s (setL2 k l2 { c with wb := true } d)) ∧
    (c.wb = true → l.busy = none → Answers (.directoryWriteback die line l2) s (fun d' => alone d' ∧ l2Of d' k l2 = {} ∧
      dirOf d' k = { l with data := c.data, present := setBits l.present l2 1 0, state := 0 }))

/-- R397, R399, R404 to R407, R409. -/
def Obligations.EpochFlips : Prop :=
  ∀ (q t die : Nat) (s : State), q < 8192 → die < 4 →
    let d := s.dev
    let m := cmdOf d t
    let refused (st : Status) := Gives (.flipEpoch q t) s (complete t st 0 (bump .flipRefused st.code 0 d))
    let r : MaintReq := { act := 0x100, obj := 0xFFFF, src := 3, tkt := t, limit := beat d + holdLimitNs d }
    (cmdReady d 0x12 q t = true →
      ((d.ep.stage = none ∨ d.ep.drain.isSome = true ∨ d.ep.flip.isSome = true ∨ d.ep.opening.isSome = true) → refused .epochBusy) ∧
      (∀ n tag, d.ep.stage = some (n, tag) → d.ep.drain = none → d.ep.flip = none → d.ep.opening = none →
        (cmdFld m 12 4 ≠ 0 → cmdFld m 12 4 ≠ n → refused .epochStale) ∧
        (cmdFld m 12 4 = 0 ∨ cmdFld m 12 4 = n → Answers (.flipEpoch q t) s (fun d' =>
          cmdOf d' t = { m with st := 1 } ∧ (∃ f, d'.ep = { d.ep with flip := some f } ∧ f.tkt = t ∧ f.abandon = false ∧ f.switching = false ∧
            f.since = beat d ∧ (maintBlocked d d.maint r = false → f.held = true)) ∧
          d'.maint = d.maint ++ [{ r with granted := !maintBlocked d d.maint r }] ∧ d'.edge = d.edge ∧ d'.comp = d.comp)))) ∧
    (∀ f n tag, d.ep.flip = some f → d.ep.stage = some (n, tag) →
      (f.held = false ∨ f.switching = true ∨ trainCommitting d = true → Gives .epochHoldEnd s d) ∧
      (f.held = true → f.switching = false → f.abandon = false → trainCommitting d = false → d.cmds.all (fun e => !isBulk e.2) = true →
        Answers .epochHoldEnd s (fun d' =>
          d'.ep = { d.ep with cur := n, curTag := tag, drain := some (d.ep.cur, d.ep.curTag), drainReady := false, stage := none,
                              flip := some { f with switching := true, dies := 0 } } ∧
          ctrVal d' .epochFlips 0 0 = ctrVal d .epochFlips 0 0 + 1 ∧ d' = { d with ep := d'.ep, ctr := d'.ctr } ∧
          (epochsOk d.ep = true → epochsOk d'.ep = true)))) ∧
    (∀ f, d.ep.flip = some f → f.switching = false →
      (beat d < f.since + holdLimitNs d → Gives .epochHoldTimeout s d) ∧
      (f.since + holdLimitNs d ≤ beat d → f.held = true → Answers .epochHoldTimeout s (fun d' =>
        d'.ep = { d.ep with flip := none } ∧
        let d1 := { maintEnd f.tkt d with ep := { d.ep with flip := none } }
        d' = if f.abandon then complete f.tkt .epochBusy 0 d1 else complete f.tkt .epochBusy 0 (bump .flipRefused Status.epochBusy.code 0 d1)))) ∧
    (∀ f, d.ep.flip = some f → f.switching = true →
      Gives (.epochSwitch die) s { d with ep := { d.ep with flip := some { f with dies := setBits f.dies die 1 1 } } } ∧
      (f.dies ≠ 15 → Gives .epochSwitchAck s d) ∧
      (f.dies = 15 → Gives .epochSwitchAck s
        (complete f.tkt .ok d.ep.cur { maintEnd f.tkt d with ep := { d.ep with flip := none, drainReady := true } })))

/-- R90, R397 to R400, R403, R409, R410, R412, R413. -/
def Obligations.EpochRetirement : Prop :=
  ∀ (q t die : Nat) (s : State), q < 8192 → die < 4 →
    let d := s.dev
    let m := cmdOf d t
    let waits (c : Instr) (d1 : Dev) := Gives c s (modCmd t (fun c => { c with st := 1, aux := [beat d] }) d1)
    let opened (d' : Dev) : Prop := d'.ep.stage = some (nextEpoch d.ep.cur, (d.ep.curTag + 1) % 3) ∧ d'.ep.cur = d.ep.cur ∧ d'.ep.curTag = d.ep.curTag ∧
      (d.ep.curTag < 3 → ∀ i, i < 4 →
        tget {} d'.edge.banks (3 * i + (d.ep.curTag + 1) % 3) = tget {} d'.edge.banks (3 * i + d.ep.curTag) ∧
        tget [] d'.edge.peal (3 * i + (d.ep.curTag + 1) % 3) = tget [] d'.edge.peal (3 * i + d.ep.curTag)) ∧
      (epochsOk d.ep = true → epochsOk d'.ep = true)
    let sweeping (d' : Dev) : Prop := ∀ i, i < 4 → tget false d'.edge.sweepBusy i = true
    (cmdReady d 0x13 q t = true →
      (cmdFld m 24 1 = 0 →
        (retireStale m d.ep.drain = true → Gives (.retireWait q t) s (complete t .epochStale 0 d)) ∧
        (retireStale m d.ep.drain = false → if d.ep.drain.isNone then Gives (.retireWait q t) s (complete t .ok 0 d) else waits (.retireWait q t) d)) ∧
      (cmdFld m 24 1 = 1 → retireStale m d.ep.drain = false →
        (d.ep.drain = none → Gives (.retireForce q t) s (complete t .ok 0 d)) ∧
        (∀ n tag, d.ep.drain = some (n, tag) → d.cmds.all (fun e => e.2.tag != tag) = true → d.comp.invs.all (fun e => e.2.tag != tag) = true →
          waits (.retireForce q t) (bump .retireForced 0 0 d))) ∧
      (cmdFld m 24 1 = 2 →
        ((d.ep.stage.isNone || d.ep.flip.isSome || d.ep.opening.isSome) = true → Gives (.retireAbandon q t) s (complete t .epochBusy 0 d)) ∧
        ((d.ep.stage.isNone || d.ep.flip.isSome || d.ep.opening.isSome) = false → retireStale m d.ep.stage = false →
          Answers (.retireAbandon q t) s (fun d' => cmdOf d' t = { m with st := 1 } ∧
            ∃ f, d'.ep = { d.ep with flip := some f } ∧ f.tkt = t ∧ f.abandon = true ∧ f.switching = false ∧ f.since = beat d)))) ∧
    (∀ n tag, d.ep.drain = some (n, tag) → m.q = q → opcodeOf m = 0x13 → cmdFld m 24 1 = 0 → m.st = 1 → cmdFld m 28 4 ≠ 0 →
      m.aux.headD 0 + cmdFld m 28 4 * 1000 ≤ beat d → Gives (.retireWaitTimeout q t) s (complete t .epochBusy (inFlight d tag) d)) ∧
    (∀ n tag, d.ep.drain = some (n, tag) →
      (d.ep.drainReady = false ∨ inFlight d tag ≠ 0 → Gives .epochRetire s d) ∧
      (d.ep.drainReady = true → inFlight d tag = 0 → Answers .epochRetire s (fun d' =>
        d'.ep.drain = none ∧ d'.ep.retiring = true ∧ opened d' ∧ sweeping d' ∧ d'.regs = d.regs))) ∧
    (∀ f n tag, d.ep.flip = some f → d.ep.stage = some (n, tag) → f.held = true → f.switching = false → f.abandon = true →
      d.cmds.all (fun e => !isBulk e.2 && opcodeOf e.2 != 0x23) = true → Answers .epochHoldEnd s (fun d' =>
        d'.ep = { d.ep with stage := none, flip := none, opening := some f.tkt } ∧ sweeping d' ∧
        (∀ i, i < 4 → tag < 3 → tget {} d'.edge.banks (3 * i + tag) = {} ∧ tget [] d'.edge.peal (3 * i + tag) = []) ∧
        ctrVal d' .abandons 0 0 = ctrVal d .abandons 0 0 + 1 ∧ d'.cmds = d.cmds)) ∧
    (∀ t', d.ep.opening = some t' →
      (d.edge.sweepBusy ≠ [] → Gives .stagingOpen s d) ∧
      (d.edge.sweepBusy = [] → Answers .stagingOpen s (fun d' => d'.ep.opening = none ∧ (d.ep.drain = none → opened d') ∧
        d' = complete t' .ok 0 { openStaging d with ep := { (openStaging d).ep with opening := none } }))) ∧
    (tget false d.edge.sweepBusy die = false → Gives (.ruleSweepDone die) s d) ∧
    (tget false d.edge.sweepBusy die = true → Answers (.ruleSweepDone die) s (fun d' =>
      tget false d'.edge.sweepBusy die = false ∧ (∀ i, i ≠ die → tget false d'.edge.sweepBusy i = tget false d.edge.sweepBusy i) ∧
      (∀ tb, tb < 16 → (missOf d' die tb).all (fun x => (liveEpochs d).any (visible x.birth x.death x.opn)) = true) ∧ d'.comp = d.comp ∧ d'.cmds = d.cmds))

/-- R65, R88, R91, R92, R401, R414, R415. -/
def Obligations.VersionedTables : Prop :=
  (∀ (ms : List MissVer) (action c : Nat), 1 ≤ c → c < 2 ^ 32 →
    let st := nextEpoch c
    let seen (ms : List MissVer) (e : Nat) := (ms.find? (fun m => visible m.birth m.death m.opn e)).map (·.action)
    let ms' := writeMiss ms action st c false
    seen ms' st = some action ∧
    (ms.all (fun m => m.opn || !visible m.birth m.death m.opn st) = true → seen ms' c = seen ms c)) ∧
  ∀ (q t die : Nat) (bank : BankImage) (s : State), q < 8192 → die < 4 →
    let d := s.dev
    let m := cmdOf d t
    let part := cmdPart d m
    let r := ruleRecord d m 0
    let table := fldOf r 1 1 % 16
    let live := bitOf (fldOf r 3 1) 0
    let readable := dmaOk d (cmdFn m) (cmdFld m 32 8) (128 * cmdFld m 28 4) false
    let one := cmdFld m 28 4 = 1 ∧ readable = true ∧ (isStaging d m && retireStale m d.ep.stage) = false ∧ fldOf r 0 1 = 1 ∧
      (List.range 4).filter (bitOf (fldOf r 1 1 / 16)) = [die] ∧ tableOwner d die table = some part ∧ bitOf (fldOf r 3 1) 1 = false ∧ bitOf (fldOf r 3 1) 2 = false
    let others (d' : Dev) : Prop := (∀ i tb, i < 4 → tb < 16 → (i ≠ die ∨ tb ≠ table) → missOf d' i tb = missOf d i tb) ∧ d'.edge.rules = d.edge.rules ∧ d'.comp = d.comp
    (cmdReady d 0x31 q t = true →
      (readable = false → Gives (.ruleWrite q t) s (complete t .accessDenied 0 d)) ∧
      (one → recordRefused d m r false = none → Answers (.ruleWrite q t) s (fun d' =>
        missOf d' die table = writeMiss (missOf d die table) (fldOf r 80 32) (nextEpoch d.ep.cur) d.ep.cur live ∧ others d'))) ∧
    (cmdReady d 0x32 q t = true →
      (readable = false → Gives (.ruleDelete q t) s (complete t .accessDenied 0 d)) ∧
      (one → recordRefused d m r true = none → Answers (.ruleDelete q t) s (fun d' =>
        missOf d' die table = deleteMiss (missOf d die table) (nextEpoch d.ep.cur) d.ep.cur live ∧ others d'))) ∧
    (cmdReady d 0x11 q t = true →
      (d.ep.stage = none → Gives (.loadTable q t bank) s (complete t .epochStale 0 d)) ∧
      (∀ n tag bs, tag < 3 → d.ep.stage = some (n, tag) → retireStale m d.ep.stage = false →
        sourceBytes d m (cmdFld m 25 1 == 1) (cmdFld m 32 8) (cmdFld m 40 8) = .ok bs →
        (cmdFld m 24 1 = 0 →
          (∀ st, bankRefused bank = some st → Answers (.loadTable q t bank) s (fun d' => d'.edge = d.edge ∧ d'.comp = d.comp)) ∧
          (bankRefused bank = none → Answers (.loadTable q t bank) s (fun d' =>
            ∀ i x, i < 4 → x < 3 → tget {} d'.edge.banks (3 * i + x) =
              if bitOf (cmdFld m 27 1) i = true ∧ x = tag then bankOfImage bank else tget {} d.edge.banks (3 * i + x)))) ∧
        (let a := cmdFld m 48 8
         let len := max (cmdFld m 40 8) (cmdFld m 30 2 * cmdFld m 56 4)
         cmdFld m 24 1 = 1 → frameOk d part a len = true → regionLive d part a len = false → inCacheable d a len = false →
           Answers (.loadTable q t bank) s (fun d' => hbmBytes d' a bs.length = bs ∧ cmdOf d' t = { m with st := 1 } ∧ d'.tabVers = d.tabVers ∧
             ∀ y, (y < a ∨ a + bs.length ≤ y) → tget 0 d'.store.hbm y = tget 0 d.store.hbm y)))) ∧
    (∀ n tag, m.q = q → m.st = 1 → opcodeOf m = 0x11 → d.ep.stage = some (n, tag) → Answers (.bulkCommit q t) s (fun d' =>
      tabVer d' part (cmdFld m 28 2) tag = { kind := 1, base := cmdFld m 48 8, rowLen := cmdFld m 30 2, nRows := cmdFld m 56 4, cacheable := bitOf (cmdFld m 26 1) 0 }))

/-- R401, R407, R414, R419 to R421, R430. -/
def Obligations.ImagesAndContexts : Prop :=
  ∀ (q t : Nat) (fits : Bool) (s : State), q < 8192 →
    let d := s.dev
    let m := cmdOf d t
    let p := cmdPart d m
    let id := cmdFld m 8 2
    let x := ctxOf d id
    let ends (c : Instr) (st : Status) := Gives c s (complete t st 0 d)
    (cmdReady d 0x60 q t = true →
      let mask := cmdFld m 32 12
      let cls := (List.range 96).filter (bitOf mask)
      (mask = 0 → ends (.contextCreate q t) .invalidField) ∧
      (mask ≠ 0 → cls.all (ownsCluster d p) = false → ends (.contextCreate q t) .accessDenied) ∧
      (mask ≠ 0 → cls.all (ownsCluster d p) = true →
        (4096 ≤ tcount (fun _ x => x.exist) d.ctxs ∨ (partOf d p).ctxQuota ≤ tcount (fun _ x => x.exist && x.owner == p) d.ctxs →
          ends (.contextCreate q t) .noContext) ∧
        (tcount (fun _ x => x.exist) d.ctxs < 4096 → tcount (fun _ x => x.exist && x.owner == p) d.ctxs < (partOf d p).ctxQuota →
          ∀ n, n < 4096 → (ctxOf d n).exist = false → (∀ k, k < n → (ctxOf d k).exist = true) → Answers (.contextCreate q t) s (fun d' =>
            ctxOf d' n = { exist := true, owner := p, feedback := cmdFld m 24 1 == 1, clusters := cls } ∧
            (∀ k, k ≠ n → ctxOf d' k = ctxOf d k) ∧ d'.comp = d.comp ∧ d'.edge = d.edge)))) ∧
    (cmdReady d 0x61 q t = true → m.st = 0 →
      (x.exist = false → ends (.contextDestroy q t) .noContext) ∧
      (x.exist = true → x.owner ≠ p → ends (.contextDestroy q t) .accessDenied) ∧
      (x.exist = true → x.owner = p → bitOf (cmdFld m 24 1) 0 = false →
        (ctxBusy d id t = true → Answers (.contextDestroy q t) s (fun d' =>
          cmdOf d' t = { m with st := 1 } ∧ ctxOf d' id = { x with destroying := true } ∧ ∀ k, k ≠ id → ctxOf d' k = ctxOf d k)) ∧
        (ctxBusy d id t = false → d.obs.arms = [] → Answers (.contextDestroy q t) s (fun d' =>
          ctxOf d' id = {} ∧ (∀ k, k ≠ id → ctxOf d' k = ctxOf d k) ∧ d'.regs = d.regs)))) ∧
    (cmdReady d 0x10 q t = true → cmdFld m 26 1 = 0 →
      (x.exist = false → Gives (.loadImage q t fits) s (complete t .noContext 0 (bump .imageRefused Status.noContext.code 0 d))) ∧
      (∀ b n tag, x.exist = true → x.owner = p → x.feedback = false → sourceBytes d m (cmdFld m 24 1 == 1) (cmdFld m 32 8) (cmdFld m 40 8) = .ok b →
        d.ep.stage = some (n, tag) → retireStale m d.ep.stage = false →
        let v := versionOf b t
        headerOk b 0 (cmdFld m 40 8) = true → crcsOk b = true → signatureOk d b = true → fitsPart d p b = true → clusterRefused b = none →
        clusterTooLarge b v x = false → fits = true → sharesFit d x v = true → Answers (.loadImage q t fits) s (fun d' =>
          (ctxOf d' id).work = v ∧ (ctxOf d' id).versions = x.versions ∧ (cmdOf d' t).st = 1 ∧ (∀ k, k ≠ id → ctxOf d' k = ctxOf d k) ∧ d'.ep = d.ep))) ∧
    (∀ n tag, m.q = q → m.st = 1 → opcodeOf m = 0x10 → d.ep.stage = some (n, tag) → Answers (.bulkCommit q t) s (fun d' =>
      ctxVer d' id tag = x.work ∧ (ctxOf d' id).work = {} ∧ (∀ y, y ≠ tag → ctxVer d' id y = ctxVer d id y) ∧ ∀ k, k ≠ id → ctxOf d' k = ctxOf d k))

/-- R471 to R474, R476, Table 15.3. -/
def Obligations.PartitionOperations : Prop :=
  ∀ (port part n : Nat) (err : Bool) (held : Nat) (s : State), port < 2 → part < 64 → n < 64 →
    let d := s.dev
    let x := partOf d part
    let addr := regVal d rPartDescLo + regVal d rPartDescHi * 2 ^ 32
    let result (d' : Dev) (code p op : Nat) : Prop :=
      d'.partOp = none ∧ regFld d' rPartStatus 1 4 = code ∧ regFld d' rPartStatus 5 6 = p ∧ regFld d' rPartStatus 11 2 = op
    let refused (c : Instr) (code op : Nat) : Prop := Answers c s (fun d' => result d' code part op ∧
      ctrVal d' .partOpRefused code 0 = ctrVal d .partOpRefused code 0 + 1 ∧ d' = { d with partOp := none, regs := d'.regs, ctr := d'.ctr })
    let asks (c : Instr) (op : Nat) : Prop :=
      (dmaOk d (64 * port) addr 256 false = true → Gives c s { d with partOp := some { part, op, port, addr } }) ∧
      (dmaOk d (64 * port) addr 256 false = false → refused c 4 op)
    let discarded (c : Instr) : Prop := Gives c s (setFld rPartStatus 13 1 1 d)
    ((d.partOp.isSome = true ∨ d.boot.step ≠ 6) →
      discarded (.partCreate port part) ∧ discarded (.partResize port part) ∧ discarded (.partDestroy port part)) ∧
    (d.partOp = none → d.boot.step = 6 →
      (x.exist = true → refused (.partCreate port part) 3 0) ∧
      (x.exist = false → asks (.partCreate port part) 0 ∧ refused (.partResize port part) 2 1 ∧ refused (.partDestroy port part) 2 2) ∧
      (x.exist = true → x.resetting = true → refused (.partResize port part) 1 1 ∧ refused (.partDestroy port part) 1 2) ∧
      (x.exist = true → x.resetting = false → asks (.partResize port part) 1 ∧
        Answers (.partDestroy port part) s (fun d' => partOf d' part = { x with destroying := true, resetting := true } ∧
          (∀ y, y ≠ part → partOf d' y = partOf d y) ∧ d'.partOp = some { part, op := 2, port, addr } ∧ d'.cmds = d.cmds ∧ d'.comp = d.comp))) ∧
    (d.partOp = none → Gives (.partDescFetchDone err held) s d) ∧
    (∀ o, d.partOp = some o → o.part < 64 → o.op < 2 → o.desc = [] → (partOf d o.part).resetAgain = false →
      ((partOf d o.part).exist = true → fnExists d (partOf d o.part).fn = true) →
      let bs := hostRead d o.port o.addr 256
      let y := descPart bs
      let code := if err then 4 else if descInvalid d o.op o.part bs then 5 else if !fnExists d y.fn then 6
        else if o.op == 0 && (partOfFn d y.fn).isSome then 7 else if descTaken d o.part y then 8
        else if descOver d o.part y bs then 9 else if o.op == 1 && descInUse d o.part y bs held then 10 else 0
      (code ≠ 0 → Answers (.partDescFetchDone err held) s (fun d' => result d' code o.part o.op ∧
        d' = { d with partOp := none, regs := d'.regs, ctr := d'.ctr })) ∧
      (code = 0 → (∀ f, f < 576 → bitOf y.frames f = true → bitOf (partOf d o.part).frames f = true) →
        Answers (.partDescFetchDone err held) s (fun d' => result d' 0 o.part o.op ∧
          partOf d' o.part = { y with pages := newPages d o.part bs, dueClear := (partOf d o.part).dueClear } ∧
          (∀ z, z ≠ o.part → partOf d' z = partOf d z) ∧ d'.store.hbm = d.store.hbm ∧ d'.cmds = d.cmds)) ∧
      (code = 0 → (∃ f, f < 576 ∧ bitOf y.frames f = true ∧ bitOf (partOf d o.part).frames f = false) →
        Answers (.partDescFetchDone err held) s (fun d' => d'.partOp = some { o with desc := bs } ∧ d'.parts = d.parts ∧
          zeroLeft d' (64 + o.part) = true ∧ d'.regs = d.regs ∧ d'.comp = d.comp))) ∧
    Answers (.vfEnable port n) s (fun d' => tget 0 d'.numVfs port = max (tget 0 d.numVfs port) (min n (vfCap d port)) ∧
      (∀ y, y ≠ port → tget 0 d'.numVfs y = tget 0 d.numVfs y) ∧ d' = { d with numVfs := d'.numVfs }) ∧
    Answers (.vfRemoval port n) s (fun d' => tget 0 d'.numVfs port = min n (tget 0 d.numVfs port) ∧
      (∀ p, (partOf d p).exist = true → (partOf d p).fn / 64 = port → n < (partOf d p).fn % 64 →
        (partOf d' p).destroying = true ∧ ((partOf d' p).resetting = true ∨ (partOf d' p).resetAgain = true)) ∧
      (∀ p, d.parts.all (fun e => !(e.1 == p && e.2.exist && e.2.fn / 64 == port && decide (n < e.2.fn % 64))) = true → partOf d' p = partOf d p) ∧
      d'.comp = d.comp ∧ d'.cmds = d.cmds)

/-- R252, R474, R476, R478, R479, R483, R584. -/
def Obligations.PartitionAndClusterResets : Prop :=
  ∀ (fn p cl : Nat) (s : State), fn < 128 → p < 64 → cl < 96 →
    let d := s.dev
    let x := partOf d p
    let others (d' : Dev) : Prop := ∀ y, y ≠ p → partOf d' y = partOf d y
    (partOfFn d fn = none → Gives (.fnReset fn) s d) ∧
    (partOfFn d fn = some p → x.exist = true → x.fn = fn →
      (x.resetting = true → Gives (.fnReset fn) s d) ∧
      (x.resetting = false → d.partOp.any (fun o => o.part == p && o.op != 2) = true →
        Answers (.fnReset fn) s (fun d' => partOf d' p = { x with resetAgain := true } ∧ others d' ∧ d' = { d with parts := d'.parts })) ∧
      (x.resetting = false → d.partOp.any (fun o => o.part == p && o.op != 2) = false →
        let starts (c : Instr) := Answers c s (fun d' => partOf d' p = { x with resetting := true } ∧ others d' ∧
          d'.msixPba.all (fun e => e.1 / 4096 != fn) = true ∧ frozenPart d' p = false ∧ d'.comp = d.comp ∧ d'.cmds = d.cmds)
        starts (.fnReset fn) ∧ (d.boot.step = 6 → fn % 64 ≠ 0 → starts (.flr fn)))) ∧
    (d.boot.step ≠ 6 → fn % 64 ≠ 0 → Answers (.flr fn) s (fun d' => d'.boot.deferred = d.boot.deferred ++ [fn] ∧
      d'.msixPba.all (fun e => e.1 / 4096 != fn) = true ∧ d'.parts = d.parts ∧ d'.comp = d.comp)) ∧
    (fn % 64 = 0 → Answers (.flr fn) s (fun d' => tget 0 d'.numVfs (fn / 64) = 0 ∧ d'.comp = d.comp ∧ d'.cmds = d.cmds ∧
      ∀ y, (partOf d y).exist = true → (partOf d y).fn / 64 = fn / 64 → (partOf d y).fn % 64 ≠ 0 → (partOf d' y).destroying = true)) ∧
    ((x.exist = false ∨ x.resetting = false ∨ x.zeroing = true) → Gives (.partitionReset p) s d) ∧
    (x.exist = true → x.resetting = true → x.zeroing = false → Answers (.partitionReset p) s (fun d' =>
      partOf d' p = { x with zeroing := true } ∧ others d' ∧ frozenPart d' p = false ∧
      d'.tabVers.all (fun e => e.1 / 1024 != p) = true ∧ d'.keyed.all (fun e => e.part != p) = true ∧
      d'.fab.outs.all (fun o => o.part != p) = true ∧
      (∀ c, c < 4096 → (ctxOf d c).exist = true → (ctxOf d c).owner = p → (ctxOf d' c).exist = false) ∧
      (∀ f, f < 576 → bitOf x.frames f = true → zeroLeft d' p = true))) ∧
    ((x.zeroing = false ∨ zeroLeft d p = true) → Gives (.partitionResetDone p) s d) ∧
    (x.zeroing = true → zeroLeft d p = false → Answers (.partitionResetDone p) s (fun d' =>
      partOf d' p = (if x.destroying then {} else { x with resetting := false, zeroing := false }) ∧ others d' ∧
      ctrVal d' .partResets p 0 = ctrVal d .partResets p 0 + 1 ∧
      (∀ q, q / 64 = x.fn → pairOf d' q = {}) ∧ (∀ r, r / 32 = x.fn → rringOf d' r = {}) ∧
      (∀ c, c < 96 → bitOf x.clusters c = true → (clusterOf d' c).zeroing = false) ∧
      (x.destroying = false → d'.partOp = d.partOp ∧ ∀ a, fnPage x.fn ≤ a → a < fnPage x.fn + 0x1000 → regVal d' a = regResetOf a))) ∧
    Answers (.clusterReset cl) s (fun d' =>
      clusterPower d' cl = (if clusterPower d cl ≤ 1 then 1 else 3) ∧ (∀ y, y ≠ cl → clusterPower d' y = clusterPower d y) ∧
      (∀ i, (invOf d i).cluster = cl → (invOf d i).mask ≠ 0 → invOf d' i = {}) ∧
      (∀ c, c / 8 = cl → (coreOf d' c).spad = [] ∧ (coreOf d' c).inv = 0) ∧
      d'.edge.credits.all (fun e => e.1 / 4 != cl) = true ∧ d'.parts = d.parts)

/-- R580 to R587, Table 19.3. -/
def Obligations.ClusterPowerStates : Prop :=
  ∀ (cl dom : Nat) (s : State), cl < 96 → dom < 147 →
    let d := s.dev
    let p := clusterPower d cl
    let pol := regVal d (rPwrPolicy cl)
    let k := clusterOf d cl
    let now := beat d
    let becomes (c : Instr) (n : Nat) : Prop := Answers c s (fun d' => clusterOf d' cl = { k with power := n, idleFrom := now } ∧
      (∀ y, y ≠ cl → clusterOf d' y = clusterOf d y) ∧
      d' = { d with comp := { d.comp with clusters := d'.comp.clusters }, pwr := d'.pwr } ∧ d'.pwr.wakes = d.pwr.wakes)
    let off : Prop := Answers (.clusterOffEntry cl) s (fun d' => clusterPower d' cl = 3 ∧ (∀ y, y ≠ cl → clusterOf d' y = clusterOf d y) ∧
      (∀ c, c / 8 = cl → (coreOf d' c).spad = [] ∧ (coreOf d' c).windows = []) ∧ (tabWf {} d.comp.cores = true → ∀ c, c / 8 ≠ cl → coreOf d' c = coreOf d c) ∧
      d'.edge.credits.all (fun e => e.1 / 4 != cl) = true ∧ d'.store = d.store ∧ d'.regs = d.regs)
    let g := thawGroup dom
    let ready (x : Nat) : Prop := (tget 0 d.pwr.lastStart g = 0 ∨ tget 0 d.pwr.lastStart g - 1 + 5000 ≤ now) ∧ (x = 0 ∨ chargeFits d g x = true)
    (p = 0 → clusterBusy d cl = false → becomes (.clusterIdleEntry cl) 1) ∧
    (p ≠ 0 ∨ clusterBusy d cl = true → Gives (.clusterIdleEntry cl) s d) ∧
    (p = 1 → bitOf pol 0 = true → triggered d cl = false → k.idleFrom + max 1 (bitsOf pol 2 14) * 1000 ≤ now → becomes (.clusterRetainEntry cl) 2) ∧
    (p ≠ 1 ∨ bitOf pol 0 = false ∨ triggered d cl = true ∨ now < k.idleFrom + max 1 (bitsOf pol 2 14) * 1000 → Gives (.clusterRetainEntry cl) s d) ∧
    (p ≠ 3 → clusterOwner d cl = none → off) ∧
    (p = 2 → bitOf pol 1 = true → triggered d cl = false → windowsOpen d cl = false →
      k.idleFrom + max 1 (bitsOf pol 16 16) * 1000000 ≤ now → off) ∧
    (p = 3 ∨ ((clusterOwner d cl).isSome = true ∧ (p ≠ 2 ∨ bitOf pol 1 = false ∨ triggered d cl = true ∨ windowsOpen d cl = true)) →
      Gives (.clusterOffEntry cl) s d) ∧
    (p = 1 → k.zeroing = false → headOfGroup d (cl, false) = true → chargeFits d (cl / 24) (8 * (20 + curStep d cl)) = true →
      Answers (.idleExit cl) s (fun d' => clusterPower d' cl = 0 ∧ (∀ y, y ≠ cl → clusterOf d' y = clusterOf d y) ∧
        charged d' (cl / 24) = charged d (cl / 24) + 8 * (20 + curStep d cl) ∧ d'.pwr.queue = d.pwr.queue.erase (cl, false) ∧
        d' = { d with comp := { d.comp with clusters := d'.comp.clusters }, pwr := d'.pwr })) ∧
    (p = 1 → (k.zeroing = true ∨ headOfGroup d (cl, false) = false ∨ chargeFits d (cl / 24) (8 * (20 + curStep d cl)) = false) →
      Gives (.idleExit cl) s d) ∧
    (p = 0 → Gives (.thawWakeRequest cl) s d) ∧
    (p = 1 → d.pwr.queue.any (fun x => x.1 == cl) = false →
      Gives (.thawWakeRequest cl) s { d with pwr := { d.pwr with queue := d.pwr.queue ++ [(cl, false)] } }) ∧
    ((2 ≤ p ∧ dom = cl ∨ 96 ≤ dom ∧ tget false d.pwr.on dom = false) →
      if domainDead d dom || d.pwr.wakes.any (fun w => w.dom == dom) then Gives (.thawWakeRequest dom) s d
      else Gives (.thawWakeRequest dom) s { d with pwr := { d.pwr with wakes := d.pwr.wakes ++ [{ dom }] } }) ∧
    (96 ≤ dom → tget false d.pwr.on dom = true → Gives (.thawWakeRequest dom) s d) ∧
    (∀ w, d.pwr.wakes.find? (fun w => thawGroup w.dom == g && w.started.isNone) = some w → w.dom = dom → (waking d g).length < 4 →
      ready (wakeCharge dom) → Answers (.wakeStart dom) s (fun d' =>
        d'.pwr.wakes = d.pwr.wakes.map (fun v => if v.dom = dom then { v with started := some now } else v) ∧
        tget 0 d'.pwr.lastStart g = now + 1 ∧ charged d' g = charged d g + wakeCharge dom ∧ d' = { d with pwr := d'.pwr })) ∧
    (4 ≤ (waking d g).length ∨ ¬ ready (wakeCharge dom) → Gives (.wakeStart dom) s d) ∧
    (d.pwr.wakes.all (fun w => w.dom != dom || w.started.isNone) = true → Gives (.wakeDone dom) s d ∧ Gives (.domainFailed dom) s d) ∧
    (∀ w at_, d.pwr.wakes.find? (fun w => w.dom == dom) = some w → w.started = some at_ →
      Answers (.wakeDone dom) s (fun d' => d'.pwr.wakes = d.pwr.wakes.erase w ∧
        (dom < 96 → clusterPower d' dom = 1 ∧ curStep d' dom = targetStep d dom) ∧ (96 ≤ dom → tget false d'.pwr.on dom = true) ∧
        (∀ y, y ≠ dom → clusterOf d' y = clusterOf d y ∧ tget false d'.pwr.on y = tget false d.pwr.on y) ∧ d'.regs = d.regs ∧ d'.comp.cores = d.comp.cores) ∧
      (at_ + 100000 ≤ now → Answers (.domainFailed dom) s (fun d' => d'.pwr.wakes = d.pwr.wakes.erase w ∧ domainDead d' dom = true ∧
        d'.isl.log.getLast?.map (fun e => e.code) = some 0x119 ∧ d'.isl.alert = true ∧ d'.comp = d.comp ∧
        (dom < 96 → d'.boot = d.boot) ∧ (96 ≤ dom → d'.boot.fault = true ∧ d'.boot.ready = false))))

/-- R531, R534, R588 to R593, R599. -/
def Obligations.ClocksAndCapping : Prop :=
  ∀ (cl val w : Nat) (temps : List Int) (volts : List Nat) (s : State), cl < 96 → val < 2 ^ 32 → w < 65536 → temps.length = 112 →
    let d := s.dev
    let t := min 50 (val % 128)
    let v := groupVolt d (cl / 24)
    let write := Instr.clockStepWrite cl val
    let alone (d' : Dev) : Prop := (∀ y, y ≠ cl → curStep d' y = curStep d y) ∧ d' = { d with regs := d'.regs, pwr := d'.pwr } ∧
      (∀ a, a ≠ rClkCfg cl → regVal d' a = regVal d a)
    let raise := Instr.clockRaise cl
    let due := tget 0 d.pwr.raiseDue cl
    let x := 8 * (targetStep d cl - curStep d cl)
    let est := (d.pwr.est ++ [w]).drop (d.pwr.est.length + 1 - 8)
    let avg := est.sum / 8
    let may (last gap : Nat) : Prop := last = 0 ∨ last + gap ≤ beat d
    (d.boot.step ≠ 6 → Answers write s (fun d' => d'.pwr = d.pwr ∧ regVal d' (rClkCfg cl) = regVal d (rClkCfg cl))) ∧
    (d.boot.step = 6 → wholeDie d (cl / 6) = false → tget false d.isl.down (96 + cl / 6) = false →
      (t ≤ curStep d cl → Answers write s (fun d' => alone d' ∧ targetStep d' cl = t ∧ curStep d' cl = t)) ∧
      (curStep d cl < t → clusterPower d cl ≤ 1 → v < stepVolt t → Answers write s (fun d' => alone d' ∧ targetStep d' cl = t ∧
        curStep d' cl = curStep d cl ∧ tget 0 d'.pwr.raiseDue cl = beat d + (stepVolt t - v) * 200 + 10000 + 1)) ∧
      (curStep d cl < t → clusterPower d cl = 1 → stepVolt t ≤ v → Answers write s (fun d' => alone d' ∧ targetStep d' cl = t ∧ curStep d' cl = t))) ∧
    (d.boot.step = 6 → wholeDie d (cl / 6) = true → Answers write s (fun d' => ∀ k, k < 6 → targetStep d' (6 * (cl / 6) + k) = t)) ∧
    (due ≠ 0 → beat d < due - 1 → Gives raise s d) ∧
    (due ≠ 0 → due - 1 ≤ beat d → clusterPower d cl ≠ 0 →
      Answers raise s (fun d' => alone d' ∧ curStep d' cl = targetStep d cl ∧ tget 0 d'.pwr.raiseDue cl = 0)) ∧
    (due = 0 → headOfGroup d (cl, true) = true → chargeFits d (cl / 24) x = true →
      Answers raise s (fun d' => alone d' ∧ curStep d' cl = targetStep d cl ∧ d'.pwr.queue = d.pwr.queue.erase (cl, true) ∧
        charged d' (cl / 24) = charged d (cl / 24) + x)) ∧
    (due = 0 → (headOfGroup d (cl, true) = false ∨ chargeFits d (cl / 24) x = false) → Gives raise s d) ∧
    Answers (.powerEstimateUpdate w) s (fun d' => d'.pwr.est = est ∧
      (limitW d < avg → 2 < d.pwr.duty → may d.pwr.lastDuty 3000 → d'.pwr.duty = d.pwr.duty - 1 ∧ d'.pwr.lastDuty = beat d) ∧
      (limitW d < avg → (d.pwr.duty ≤ 2 ∨ ¬ may d.pwr.lastDuty 3000) → d'.pwr.duty = d.pwr.duty) ∧
      (avg ≤ limitW d → 97 * limitW d ≤ avg * 100 → d'.pwr.duty = d.pwr.duty ∧ d'.pwr.calmFrom = none) ∧
      (d.pwr.throtOn = true → 2 < d.pwr.thermDuty → may d.pwr.lastTherm 3000 → d'.pwr.thermDuty = d.pwr.thermDuty - 1) ∧
      (2 ≤ d.pwr.duty → d.pwr.duty ≤ 16 → 2 ≤ d'.pwr.duty ∧ d'.pwr.duty ≤ 16) ∧
      (2 ≤ d.pwr.thermDuty → d.pwr.thermDuty ≤ 16 → 2 ≤ d'.pwr.thermDuty ∧ d'.pwr.thermDuty ≤ 16) ∧
      d'.isl.log = d.isl.log ∧ d'.comp = d.comp ∧ d'.regs = d.regs) ∧
    (∀ b, d.isl.capBeat = some b → d.pwr.duty < 16 → d.isl.capLogged = false → b + 1000000000 ≤ beat d →
      Answers .powerCap s (fun d' => bitOf (regVal d' rPwrStatus) 18 = true ∧ d'.isl.capLogged = true ∧
        d'.isl.log.getLast?.map (fun e => e.code) = some 0x109 ∧ d'.pwr = d.pwr ∧ d'.comp = d.comp)) ∧
    ((d.isl.capBeat = none ∨ d.pwr.duty = 16 ∨ d.isl.capLogged = true) → Gives .powerCap s d) ∧
    (∀ fw, Answers (.powerLimitWrite val fw) s (fun d' => regFld d' rPwrLimit 0 12 = max 1200 (min (val % 4096) (otpCfg d).powerW) ∧
      ctrVal d' .fwBound 3 0 = ctrVal d .fwBound 3 0 + (if fw && decide ((otpCfg d).powerW < val % 4096) then 1 else 0) ∧
      (∀ a, a ≠ rPwrLimit → regVal d' a = regVal d a) ∧ d'.pwr = d.pwr ∧ d'.comp = d.comp)) ∧
    Answers (.sensorSample temps volts) s (fun d' => (∀ k, k < 112 → tempQ d' k = lget 0 temps k) ∧ (∀ k, tget 0 d'.isl.volts k = lget 0 volts k) ∧
      (let h := (hottest d').2
       (4 * (tjWarn d : Int) ≤ h → d'.pwr.warnOn = true) ∧ (h < 4 * (tjWarn d : Int) - 12 → d'.pwr.warnOn = false) ∧
       (4 * (tjThrottle d : Int) ≤ h → d'.pwr.throtOn = true) ∧ (h < 4 * (tjThrottle d : Int) - 12 → d'.pwr.throtOn = false) ∧
       (4 * (tjWarn d : Int) ≤ h → d.pwr.warnOn = false → bitOf (regVal d' rThermStatus) 14 = true ∧
         d'.isl.log.getLast?.map (fun e => e.code) = some 0x118)) ∧ d'.comp = d.comp ∧ d'.store = d.store) ∧
    Gives (.vrmTelemetry w) s { d with isl := { d.isl with powerW := w } }

/-- R594, R600 to R606, R613, R650; that a rail fault wipes as a warm reset does is the model's reading (log entry 68: thermal
trips and rail faults). -/
def Obligations.DeviceResets : Prop :=
  ∀ (straps sensor rail port : Nat) (temps : List Int) (perst : Bool) (s : State),
    straps < 64 → sensor < 112 → rail < 12 → port < 2 → temps.length = 112 →
    let d := s.dev
    let empty (d' : Dev) : Prop := d'.edge = {} ∧ d'.comp = {} ∧ d'.store = {} ∧ d'.fab = {} ∧ d'.pwr = {} ∧ d'.ep = {} ∧ d'.obs = {} ∧
      d'.cmds = [] ∧ d'.parts = State.reset.dev.parts ∧ d'.ctxs = [] ∧ d'.tabVers = [] ∧ d'.keyed = [] ∧ d'.pairs = [] ∧ d'.rrings = [] ∧ d'.ctr = []
    let cleared (d' : Dev) : Prop := d'.edge = {} ∧ d'.comp = {} ∧ d'.store = {} ∧ d'.fab = {} ∧ d'.pwr = {} ∧ d'.ep = {} ∧ d'.obs = {} ∧
      d'.cmds = [] ∧ d'.parts = State.reset.dev.parts ∧ d'.ctxs = [] ∧ d'.tabVers = [] ∧ d'.keyed = [] ∧ d'.pairs = [] ∧ d'.rrings = [] ∧
      d'.otp = d.otp ∧ d'.hostMem = d.hostMem
    let regsWarm (d' : Dev) : Prop := ∀ a sp, regSpec a = some sp → a ≠ rPwrLimit →
      regVal d' a = if sp.level = 0 then regVal d a else sp.reset
    let lastLog (d' : Dev) : Option Nat := d'.isl.log.getLast?.map (fun e => e.code)
    Answers (.coldReset straps temps) s (fun d' => empty { d' with ctr := [] } ∧ d'.pins = { straps } ∧ (∀ k, k < 112 → tempQ d' k = lget 0 temps k) ∧
      d'.time = {} ∧ d'.isl.nor = d.isl.nor ∧ d'.isl.slotA = d.isl.slotA ∧ d'.isl.slotB = d.isl.slotB ∧ d'.otp.life = d.otp.life ∧
      d'.otp.fuses = d.otp.fuses ∧ d'.hostMem = d.hostMem ∧ d'.boot.step = 1 ∧ d'.boot.ready = false ∧ d'.boot.tripped = false ∧ d'.boot.cause = 0 ∧
      ∀ a, a ≠ rPwrLimit → regVal d' a = regResetOf a) ∧
    (d.boot.inReset = false → d.boot.aonLost = false → Answers .sysRstNAssert s (fun d' => cleared d' ∧ regsWarm d' ∧
      d'.boot.inReset = true ∧ d'.boot.step = 0 ∧ d'.boot.ready = false ∧ d'.boot.cause = 1 ∧ d'.boot.tripped = d.boot.tripped ∧
      d'.isl = { d.isl with nonce := none, holdFrom := some (beat d), heldLogged := false } ∧
      d'.time.beat = d.time.beat ∧ d'.time.todNs = d.time.todNs ∧ d'.pins = { d.pins with sysrefLost := false })) ∧
    ((d.boot.inReset = true ∨ d.boot.aonLost = true) → Gives .sysRstNAssert s d) ∧
    (d.boot.inReset = false → Gives .sysRstNRelease s d) ∧
    (d.boot.inReset = true → d.boot.tripped = true → Gives .sysRstNRelease s
      { d with boot := { d.boot with inReset := false }, isl := { d.isl with holdFrom := none } }) ∧
    (d.boot.inReset = true → d.boot.tripped = false → d.boot.aonLost = false → d.boot.stackDead = false → Answers .sysRstNRelease s (fun d' =>
      d'.boot.inReset = false ∧ d'.boot.step = 1 ∧ d'.isl.holdFrom = none ∧ d'.boot.gen = nextGen d.otp ∧ d'.parts = d.parts ∧ d'.regs = d.regs)) ∧
    (∀ b, d.isl.holdFrom = some b → d.boot.inReset = true → d.isl.heldLogged = false → b + 5000000000 ≤ beat d → Answers .resetHeld s (fun d' =>
      bitOf (regVal d' rResetCause) 2 = true ∧ lastLog d' = some 0x101 ∧ d'.isl.heldLogged = true ∧ d'.boot = d.boot ∧ d'.otp = d.otp)) ∧
    ((d.isl.holdFrom = none ∨ d.boot.inReset = false ∨ d.isl.heldLogged = true) → Gives .resetHeld s d) ∧
    (d.boot.tripped = true → Gives (.thermalTrip sensor) s d) ∧
    (d.boot.tripped = false → Answers (.thermalTrip sensor) s (fun d' => cleared d' ∧ regsWarm d' ∧ d'.boot.tripped = true ∧ d'.boot.fault = true ∧
      d'.boot.step = 0 ∧ d'.boot.ready = false ∧ lastLog d' = some 0x108 ∧ d'.isl.alert = true)) ∧
    Answers (.railFault rail) s (fun d' => cleared d' ∧ regsWarm d' ∧ d'.boot.fault = true ∧ d'.boot.ready = false ∧ d'.boot.step = 0 ∧ lastLog d' = some 0x11A) ∧
    Answers .vddAonLoss s (fun d' => empty d' ∧ d'.boot.aonLost = true ∧ d'.boot.ready = false ∧ d'.isl.log = [] ∧ d'.isl.nor = d.isl.nor ∧ d'.otp = d.otp) ∧
    Answers (.portReset port perst) s (fun d' =>
      pcieOf d' port = { perst := (pcieOf d port).perst || perst } ∧ (∀ y, y ≠ port → pcieOf d' y = pcieOf d y) ∧
      tget 0 d'.numVfs port = 0 ∧ (∀ y, y ≠ port → tget 0 d'.numVfs y = tget 0 d.numVfs y) ∧ d'.comp = d.comp ∧ d'.cmds = d.cmds ∧
      (d.boot.step ≠ 6 → d'.parts = d.parts) ∧
      (d.boot.step = 6 → ∀ p, (partOf d p).exist = true → (partOf d p).fn / 64 = port →
        ((partOf d' p).resetting = true ∨ (partOf d' p).resetAgain = true) ∧ ((partOf d p).fn % 64 ≠ 0 → (partOf d' p).destroying = true))) ∧
    Answers (.perstDeassert port) s (fun d' => pcieOf d' port = { pcieOf d port with perst := false } ∧
      (∀ y, y ≠ port → pcieOf d' y = pcieOf d y) ∧ d' = { d with pcie := d'.pcie }) ∧
    (if pcieEnabled d port && !(pcieOf d port).perst && decide (3 ≤ d.boot.step) then Answers (.pcieLinkUp port) s (fun d' =>
        pcieOf d' port = { pcieOf d port with linkUp := true } ∧ d' = { d with pcie := d'.pcie })
      else Gives (.pcieLinkUp port) s d) ∧
    (if (pcieOf d port).linkUp then Answers (.pcieConfigReady port) s (fun d' =>
        pcieOf d' port = { pcieOf d port with built := true } ∧ d' = { d with pcie := d'.pcie })
      else Gives (.pcieConfigReady port) s d)

/-- R540, R541, R579, R608 to R614, R618. -/
def Obligations.BootSteps : Prop :=
  ∀ (bad k : Nat) (clean : Bool) (temps : List Int) (s : State), bad < 2 ^ 12 → k < 8 → temps.length = 112 →
    let d := s.dev
    let b := d.boot
    let done := Instr.bootStepDone bad clean
    let idle := d.pwr.wakes.isEmpty
    let hot := temps.any (fun t => decide (420 ≤ t))
    let enters (n : Nat) : Prop := Answers done s (fun d' => d'.boot = { b with step := n } ∧
      (∀ w ∈ bootWakes d n, domainDead d' w = true ∨ d'.pwr.wakes.any (fun x => x.dom == w) = true) ∧ d'.regs = d.regs ∧ d'.edge = d.edge)
    (b.hold = false → Gives (.thermalHoldCheck temps) s d) ∧
    (b.hold = true → hot = true → Answers (.thermalHoldCheck temps) s (fun d' => d'.boot = b ∧ (∀ j, j < 112 → tempQ d' j = lget 0 temps j) ∧ d'.comp = d.comp)) ∧
    (b.hold = true → hot = false → Answers (.thermalHoldCheck temps) s (fun d' => d'.boot.hold = false ∧ d'.boot.step = b.step ∧
      ((d'.boot.failed = true ∧ d'.boot.failCause = 1) ∨
        (d'.boot.rails = 1 ∧ d'.boot.railsGood = 0 ∧ ∃ x, d'.isl.running = some x ∧ bundleValid d x = true)))) ∧
    (bootAt d 1 = true → b.railsGood < b.rails →
      Gives .railPowerGood s { d with boot := { b with railsGood := b.railsGood + 1, rails := min 11 (b.rails + 1) } } ∧
      Answers .railFailed s (fun d' => d'.boot = { b with rails := b.railsGood, failed := true, failCause := 3 } ∧
        d'.isl.log.getLast?.map (fun e => e.code) = some 0x11A ∧ d'.comp = d.comp)) ∧
    ((bootAt d 1 = false ∨ b.rails ≤ b.railsGood) → Gives .railPowerGood s d ∧ Gives .railFailed s d) ∧
    (bootAt d b.step = false ∨ (b.step = 1 ∧ b.railsGood ≠ 11) ∨ (2 ≤ b.step ∧ idle = false) → Gives done s d) ∧
    (bootAt d b.step = true →
      (b.step = 1 → b.railsGood = 11 → enters 2) ∧ (b.step = 2 → idle = true → enters 3) ∧
      (b.step = 3 → idle = true →
        (bad ≠ 0 → Answers done s (fun d' => d'.boot = { b with fault := true, ready := false, failed := true, failCause := 4, stackDead := true })) ∧
        (bad = 0 → b.wiping = true → clean = false → Answers done s (fun d' => d'.boot = { b with failed := true, failCause := 7 })) ∧
        (bad = 0 → b.wiping = false ∨ clean = true → enters 4 ∧ Answers done s (fun d' => ∀ m, m < 12 → (stackOf d' m).trained = true))) ∧
      (b.step = 4 → idle = true → Answers done s (fun d' => d'.boot = { b with step := 5 } ∧ d'.regs = d.regs)) ∧
      (b.step = 5 → idle = true → Answers done s (fun d' => d'.boot.step = 6 ∧ d'.boot.ready = true ∧ d'.boot.wiping = false ∧ d'.boot.deferred = [] ∧
        (b.wiping = true → d'.otp.wipeDone = true) ∧
        (d.isl.fwPending = true → d.isl.running = some (1 - d.isl.active % 2) → d'.isl.active = 1 - d.isl.active % 2 ∧ d'.isl.fwPending = false)))) ∧
    Gives .trstN s { d with pins := { d.pins with jtag := if jtagOk d 1 then 1 else 0 } } ∧
    (jtagOk d k = false → Gives (.jtagInstruction k) s { d with pins := { d.pins with jtag := 0 } }) ∧
    (jtagOk d k = true → k ≠ 7 → Gives (.jtagInstruction k) s { d with pins := { d.pins with jtag := k } }) ∧
    (jtagOk d 7 = true → Answers (.jtagInstruction 7) s (fun d' => d'.pins = { d.pins with jtag := 7 } ∧ d'.otp = { d.otp with life := d'.otp.life } ∧
      d'.otp.life = d.otp.life.map (fun c => setBits c 0 1 1))) ∧
    (lcState d = 4 → jtagOk d k = false) ∧ (lcState d = 0 → jtagOk d k = decide (6 ≤ k))

/-- R27, R28, R597, R633, R636, R659, R662, R663. -/
def Obligations.PackageFaultsAndQueueResets : Prop :=
  ∀ (a b unit straps cl ctx : Nat) (again training : Bool) (tkts pairs rings : List Nat) (s : State),
    bridged a b = true → straps < 64 → cl < 96 → ctx < 4096 → pairs.all (fun q => decide (q < 8192)) = true → rings.all (fun r => decide (r < 4096)) = true →
    let d := s.dev
    let k := bridgeNo a b
    let atBoot := training && decide (1 ≤ d.boot.step ∧ d.boot.step < 6) && !d.boot.failed
    let lastLog (d' : Dev) : Option Nat := d'.isl.log.getLast?.map (fun e => e.code)
    let reset (kind : Nat) := Instr.queueReset kind unit tkts pairs rings
    let x := ctxOf d ctx
    let key := 4096 * cl + ctx
    Answers (.bridgeReplay a b again) s (fun d' => ctrVal d' .bridgeReplays k 0 = ctrVal d .bridgeReplays k 0 + 1 ∧
      tget 0 d'.bridges k = (if again then tget 0 d.bridges k + 1 else 1) ∧ (∀ y, y ≠ k → tget 0 d'.bridges y = tget 0 d.bridges y) ∧
      d' = { d with ctr := d'.ctr, bridges := d'.bridges }) ∧
    ((atBoot = true ∨ 16 ≤ tget 0 d.bridges k) → Answers (.bridgeFailed a b training) s (fun d' => d'.boot.fault = true ∧ d'.boot.ready = false ∧
      lastLog d' = some 0x102 ∧ (atBoot = true → d'.boot.failed = true ∧ d'.boot.failCause = 5) ∧ d'.comp = d.comp ∧ d'.cmds = d.cmds)) ∧
    (atBoot = false → tget 0 d.bridges k < 16 → Gives (.bridgeFailed a b training) s d) ∧
    (d.pins.sysrefLost = true → Gives .sysrefLost s d) ∧
    (d.pins.sysrefLost = false → Answers .sysrefLost s (fun d' => d'.pins = { d.pins with sysrefLost := true } ∧ bitOf (regVal d' rClkStatus) 1 = true ∧
      d'.boot.fault = true ∧ lastLog d' = some 0x11B ∧ d'.comp = d.comp)) ∧
    Gives .smbusSclLowTimeout s { d with isl := { d.isl with smbusBusy := false } } ∧
    (straps = d.pins.straps % 64 → Gives (.strapCheck straps) s d) ∧
    (straps ≠ d.pins.straps % 64 → Answers (.strapCheck straps) s (fun d' => bitOf (regVal d' rStraps) 6 = true ∧
      (∀ r, r ≠ rStraps → regVal d' r = regVal d r) ∧ d' = { d with regs := d'.regs })) ∧
    (unit < 768 → (invOf d (coreOf d unit).inv).mask ≠ 0 → Answers (reset 0) s (fun d' => invOf d' (coreOf d unit).inv = {} ∧ d'.parts = d.parts)) ∧
    (unit < 96 → Answers (reset 1) s (fun d' => (∀ i, (invOf d i).cluster = unit → (invOf d i).mask ≠ 0 → invOf d' i = {}) ∧ d'.parts = d.parts)) ∧
    (unit < 2 → Answers (reset 2) s (fun d' => ∀ q ∈ pairs, (pairOf d' q).error = true)) ∧
    (unit < 16 → Answers (reset 3) s (fun d' => tget [] d'.store.coal unit = [])) ∧
    (unit < 4 → Answers (reset 4) s (fun d' => tget [] d'.edge.flowOut unit = [] ∧ (∀ y, y ≠ unit → tget [] d'.edge.flowOut y = tget [] d.edge.flowOut y) ∧
      (tget [] d'.edge.flowIn unit).length = (tget [] d.edge.flowIn unit).length +
        ((tget [] d.edge.flowOut unit).filter (fun m => match m with | .lookup _ _ _ _ => true | _ => false)).length ∧
      lastLog d' = some 0x10F ∧ d'.comp = d.comp)) ∧
    (unit < 12 → Answers (reset 5) s (fun d' => ∀ r ∈ rings, (rringOf d' r).error = true)) ∧
    (unit < 2048 → Answers (reset 6) s (fun d' => (queueOf d' (unit / 16) (unit % 16)).items = [])) ∧
    (unit < 16 → Answers (reset 7) s (fun d' => tget [] d'.edge.pipes unit = [] ∧ (∀ y, y ≠ unit → tget [] d'.edge.pipes y = tget [] d.edge.pipes y) ∧
      lastLog d' = some 0x10F)) ∧
    (unit < 64 → Answers (reset 8) s (fun d' => d'.boot.fault = true ∧ d'.boot.ready = false ∧ lastLog d' = some 0x10F ∧ d'.comp = d.comp)) ∧
    (unit < 20 → (linkState d unit ≠ 3 → Answers (reset 9) s (fun d' => d'.fab = d.fab ∧ lastLog d' = some 0x10F)) ∧
      (linkState d unit = 3 → Answers (reset 9) s (fun d' => linkState d' unit ≠ 3))) ∧
    (evalSum d cl ctx = none → Gives (.stragglerEval cl ctx) s d) ∧
    (∀ sum, evalSum d cl ctx = some sum → x.exist = true → 2 ≤ x.clusters.length → x.clusters.contains cl = true → tget 0 d.obs.evalN key % 1000 = 0 →
      let m := median (x.clusters.filterMap (fun c => evalSum d c ctx))
      (tget false d.obs.slow key = false → 110 * m ≤ 100 * sum → Answers (.stragglerEval cl ctx) s (fun d' => tget false d'.obs.slow key = true ∧ d'.comp = d.comp)) ∧
      (tget false d.obs.slow key = false → 100 * sum < 110 * m → Gives (.stragglerEval cl ctx) s d) ∧
      (tget false d.obs.slow key = true → 100 * sum ≤ 105 * m → Answers (.stragglerEval cl ctx) s (fun d' => tget false d'.obs.slow key = false ∧ d'.comp = d.comp)) ∧
      (tget false d.obs.slow key = true → 105 * m < 100 * sum → Gives (.stragglerEval cl ctx) s d))

/-- R615 to R618, R620 to R622, R624. -/
def Obligations.MailboxAndLifeCycle : Prop :=
  ∀ (port : Nat) (ok : Bool) (s : State), port < 2 →
    let d := s.dev
    let n := regFld d rMboxLen 0 17
    let v := Config.freeValue d.free 30 0 % 2 ^ 64
    let shown (d' : Dev) (st : Status) : Prop := regFld d' rMboxStatus 16 16 = st.code ∧ regFld d' rMboxStatus 0 1 = 0 ∧
      regFld d' rMboxStatus 4 1 = 1 ∧ d'.isl.mbox = none
    let ended (c : Instr) (st : Status) (o : Otp) : Prop := Answers c s (fun d' => shown d' st ∧ d'.otp = o ∧ d'.comp = d.comp ∧ d'.time = d.time)
    let fits (p : List Byte) : Bool := cfgRange p && nextSlot d == some (fldOf p 4 1) && cfgTightens (otpCfg d) (cfgOf p)
    let burnt (k : Nat) : Otp := { d.otp with life := d.otp.life.map (fun c => setBits c k 1 1) }
    let warm (d' : Dev) : Prop := d'.boot.cause = 2 ∧ d'.boot.ready = false ∧ d'.cmds = [] ∧ d'.comp = {} ∧ d'.edge = {} ∧ d'.hostMem = d.hostMem
    Answers .nonceDraw s (fun d' => d'.isl.nonce = some v ∧ d'.isl.nonceHi = v / 2 ^ 32 ∧ d'.out = d.out ++ [.readData 0x100214 (v % 2 ^ 32)] ∧
      d'.otp = d.otp ∧ d'.regs = d.regs) ∧
    (regFld d rMboxStatus 0 1 = 1 → Gives (.mailboxGo port) s d) ∧
    (regFld d rMboxStatus 0 1 = 0 → n < 64 ∨ 65536 < n → ended (.mailboxGo port) .invalidField d.otp) ∧
    (regFld d rMboxStatus 0 1 = 0 → 64 ≤ n → n ≤ 65536 → dmaOk d (64 * port) (base64 d rMboxAddr) n false = false →
      ended (.mailboxGo port) .accessDenied d.otp) ∧
    Answers (.mailboxGo port) s (fun d' => d'.otp = d.otp ∧ d'.boot = d.boot ∧
      (regFld d rMboxStatus 0 1 = 0 → 64 ≤ n → n ≤ 65536 → dmaOk d (64 * port) (base64 d rMboxAddr) n false = true → d'.isl.nonce = none)) ∧
    (mboxOf d 1 = none → Gives (.cfgWrite ok) s d) ∧ (mboxOf d 2 = none → Gives .lcOwn s d) ∧ (mboxOf d 3 = none → Gives .lcReturn s d) ∧
    (mboxOf d 4 = none → Gives .lcVoid s d) ∧ (mboxOf d 5 = none → Gives .debugToken s d) ∧
    (∀ p, mboxOf d 1 = some p →
      (otpFrozen d = true → ended (.cfgWrite ok) .noSpace d.otp) ∧
      (otpFrozen d = false → fits p = false → ended (.cfgWrite ok) .invalidField d.otp) ∧
      (otpFrozen d = false → fits p = true → Answers (.cfgWrite ok) s (fun d' => shown d' (if ok then .ok else .dataError) ∧
        tget {} d'.otp.gens (fldOf p 4 1) = (if ok then { valid := true, used := true, cfg := cfgOf p } else { used := true }) ∧
        (∀ g, g ≠ fldOf p 4 1 → tget {} d'.otp.gens g = tget {} d.otp.gens g) ∧ d'.otp = { d.otp with gens := d'.otp.gens } ∧
        d'.boot = d.boot))) ∧
    (∀ p, mboxOf d 2 = some p → ended .lcOwn .ok { burnt 1 with ownerRoot := Config.sha384 p }) ∧
    (∀ p, mboxOf d 3 = some p → Answers .lcReturn s (fun d' => warm d' ∧ d'.otp.life = (burnt 2).life)) ∧
    (∀ p, mboxOf d 4 = some p → Answers .lcVoid s (fun d' => warm d' ∧ d'.otp.life = (burnt 3).life)) ∧
    (∀ p, mboxOf d 5 = some p → Answers .debugToken s (fun d' => shown d' .ok ∧ d'.boot = { d.boot with token := true } ∧ d'.otp = d.otp))

/-- R540, R542, R543, R545; the completion codes are the model's choice (log entry 71). -/
def Obligations.FirmwareUpdates : Prop :=
  ∀ (m off sess : Nat) (bytes : List Byte) (s : State), m < 16 → off + bytes.length ≤ 28 * 2 ^ 20 → off < 2 ^ 32 →
    let d := s.dev
    let bodies (c : Instr) (body : List Byte) (p : Dev → Prop) : Prop :=
      Answers c s (fun d' => d'.out = d.out ++ [.mgmt m body] ∧ d'.otp = d.otp ∧ d'.regs = d.regs ∧ d'.comp = d.comp ∧ p d')
    let r : MaintReq := { act := 7, obj := 0xFFFF, src := 4, limit := beat d + maintLimit 7, args := [0, 0, 0, m] }
    let inactive := 1 - d.isl.active % 2
    let keeps (d' : Dev) : Prop := slotOf d' (1 - inactive) = slotOf d (1 - inactive) ∧ d'.isl.active = d.isl.active
    (islandServes d = false → Gives (.requestUpdate m) s d ∧ Gives (.firmwareData m off bytes) s d ∧ Gives (.verifyComplete m) s d ∧
      Gives (.activateFirmware m) s d ∧ Gives (.cancelUpdate m) s d ∧ Gives (.rollbackCommit m sess) s d) ∧
    (islandServes d = true →
      (d.isl.update.isSome = true → bodies (.requestUpdate m) (toLe 2 0x81) (fun d' => d'.isl = d.isl ∧ d'.maint = d.maint)) ∧
      (d.isl.update = none → maintBlocked d d.maint r = true → Answers (.requestUpdate m) s (fun d' =>
        d'.maint = d.maint ++ [r] ∧ d'.isl.update = some { medium := m } ∧ keeps d' ∧ d'.out = d.out)) ∧
      (d.isl.update = none → maintBlocked d d.maint r = false → bodies (.requestUpdate m) (toLe 2 0) (fun d' =>
        d'.maint = d.maint ++ [{ r with granted := true }] ∧ d'.isl.update = some { medium := m, granted := true } ∧ d'.isl.fwPending = false ∧ keeps d')) ∧
      (updateBy d m = true →
        Answers (.firmwareData m off bytes) s (fun d' => keeps d' ∧ (∀ a, tget 0 (slotOf d' inactive) a =
            if off ≤ a ∧ a < off + bytes.length then (bytes[a - off]?).getD 0 else tget 0 (slotOf d inactive) a) ∧
          d'.isl.update.all (fun u => !u.verified) = true ∧ d' = { d with isl := d'.isl } ∧ d'.isl.fwPending = d.isl.fwPending) ∧
        bodies (.verifyComplete m) (toLe 2 (if bundleValid d inactive then 0 else 1)) (fun d' =>
          d'.isl = { d.isl with update := d.isl.update.map (fun u => { u with verified := bundleValid d inactive }) }) ∧
        (d.isl.update.any (fun u => u.verified) = true → bodies (.activateFirmware m) (toLe 2 0) (fun d' =>
          d'.isl = { d.isl with update := none, fwPending := true, attempts := 3 } ∧ d'.maint.all (fun x => x.act != 7) = true)) ∧
        (d.isl.update.any (fun u => u.verified) = false → bodies (.activateFirmware m) (toLe 2 0x84) (fun d' => d'.isl = d.isl)) ∧
        bodies (.cancelUpdate m) (toLe 2 0) (fun d' => slotOf d' inactive = [] ∧ keeps d' ∧ d'.isl.update = none ∧ d'.maint.all (fun x => x.act != 7) = true)) ∧
      (updateBy d m = false → Gives (.firmwareData m off bytes) s d ∧ Gives (.verifyComplete m) s d ∧
        bodies (.activateFirmware m) (toLe 2 0x80) (fun d' => d'.isl = d.isl)) ∧
      (authed d m sess = false → bodies (.rollbackCommit m sess) (toLe 2 Status.accessDenied.code) (fun d' => d'.maint = d.maint ∧ d'.isl = d.isl)) ∧
      (authed d m sess = true → d.isl.fwPending = true → bodies (.rollbackCommit m sess) (toLe 2 Status.invalidField.code) (fun d' => d'.maint = d.maint ∧ d'.isl = d.isl)) ∧
      (authed d m sess = true → d.isl.fwPending = false → d.isl.running = some (d.isl.active % 2) →
        (d.isl.runSv ≤ floorOf d → bodies (.rollbackCommit m sess) (toLe 2 0) (fun d' => d'.maint = d.maint ∧ d'.isl = d.isl)) ∧
        (floorOf d < d.isl.runSv → Answers (.rollbackCommit m sess) s (fun d' => d'.otp = d.otp ∧ d'.out = d.out ∧
          ∃ x, d'.maint = d.maint ++ [x] ∧ x.act = 8 ∧ x.args = [1, 0, 0, m] ∧ x.granted = !maintBlocked d d.maint { x with granted := false }))))

/-- R535, R538, R544 to R546; the layouts of the bodies are the model's choice (log entry 71). -/
def Obligations.ManagementMessages : Prop :=
  ∀ (m sess mask first n act obj pch bank row cmd arg kind : Nat) (auth : Bool) (s : State),
    m < 16 → mask < 2 ^ 32 → first < 2 ^ 32 → n < 2 ^ 16 → act < 2 ^ 16 → obj < 2 ^ 16 → pch < 256 → bank < 256 → row < 2 ^ 16 → cmd < 256 → arg < 256 → kind < 3 →
    let d := s.dev
    let up := islandUp d
    let serves := islandServes d
    let told (c : Instr) (body : List Byte) (x : Island) : Prop :=
      Gives c s { d with isl := x, out := d.out ++ [.mgmt m body] }
    let maint := Instr.maint m sess act obj pch bank row
    let eid := if cmd = 1 ∧ bitOf d.pins.straps 5 = false then arg else d.isl.eid
    (up = false → Gives (.statusMsg m) s d ∧ Gives (.mctpControl m cmd arg) s d) ∧
    (up = true → told (.statusMsg m) (toLe 2 0 ++ statusBlock d) d.isl ∧
      told (.mctpControl m cmd arg) (toLe 1 cmd ++ [0] ++ toLe 1 (if bitOf d.pins.straps 5 then 0x20 + d.pins.straps % 8 else eid)) { d.isl with eid }) ∧
    (statusBlock d).length = 16 ∧ (∀ e : LogEntry, e.payload.length = 14 → (logBytes e).length = 32) ∧
    Gives (.alertAck 0) s { d with isl := { d.isl with alert := false } } ∧
    (serves = false → Gives (.logRead m first n) s d ∧ Gives (.troubleRead m) s d ∧ Gives (.troubleClear m sess mask) s d ∧ Gives maint s d ∧
      Gives (.pldmMonitoring m kind arg) s d ∧ Gives (.spdmMessage m kind arg auth) s d ∧ (m ≠ 0 → Gives (.alertAck m) s d)) ∧
    (serves = true →
      told (.logRead m first n) (toLe 2 0 ++ ((d.isl.log.drop first).take n).flatMap logBytes) d.isl ∧
      told (.troubleRead m) (toLe 2 0 ++ (List.range 32).flatMap (fun k => toLe 2 (tget 0 d.isl.trouble k))) d.isl ∧
      (m ≠ 0 → told (.alertAck m) (toLe 2 0) { d.isl with alert := false }) ∧
      told (.pldmMonitoring m 0 arg) (toLe 1 0 ++ toLe 2 (sensorReading d arg)) d.isl ∧
      told (.pldmMonitoring m 3 arg) [0] { d.isl with receiver := some arg } ∧
      told (.spdmMessage m 0 arg auth) [0] { d.isl with sessions := d.isl.sessions ++ [{ medium := m, auth := auth && !d.otp.ownerRoot.isEmpty }] } ∧
      told (.spdmMessage m 2 4 auth) (toLe 1 0 ++ toLe 1 d.otp.fuses ++ toLe 1 d.isl.runSv) d.isl ∧
      Answers (.spdmMessage m 1 arg auth) s (fun d' => authed d' m arg = false) ∧
      (authed d m sess = false → told (.troubleClear m sess mask) (toLe 2 Status.accessDenied.code) d.isl) ∧
      (authed d m sess = true → Answers (.troubleClear m sess mask) s (fun d' =>
        (∀ k, k < 32 → tget 0 d'.isl.trouble k = if bitOf mask k then 0 else tget 0 d.isl.trouble k) ∧
        d'.isl.log.getLast?.map (fun e => e.code) = some 0x116 ∧ d'.out = d.out ++ [.mgmt m (toLe 2 0)] ∧
        d' = { d with isl := d'.isl, out := d'.out, ctr := d'.ctr })) ∧
      (d.boot.inReset = true → Gives maint s d) ∧
      (d.boot.inReset = false → authed d m sess = false → told maint (toLe 2 Status.accessDenied.code) d.isl) ∧
      (d.boot.inReset = false → authed d m sess = true → maintBad d act obj [pch, bank, row] = true → told maint (toLe 2 Status.invalidField.code) d.isl) ∧
      (d.boot.inReset = false → authed d m sess = true → maintBad d act obj [pch, bank, row] = false → Answers maint s (fun d' =>
        ∃ x ∈ d'.maint, x.act = act ∧ x.obj = obj ∧ x.src = 1 ∧ x.args = [pch, bank, row, m] ∧ x.limit = beat d + maintLimit act)))

/-- R529, R530, R532, R533, R536, R538. -/
def Obligations.ControlCoresAndLogs : Prop :=
  ∀ (i bp q cls : Nat) (bytes : List Byte) (s : State), bp < 128 → q < 8 → cls < 4 → 60 ≤ bytes.length → bytes.length ≤ 9596 →
    let d := s.dev
    let lastLog (d' : Dev) : Option Nat := d'.isl.log.getLast?.map (fun e => e.code)
    let counted (k : Nat) (d' : Dev) : Prop := ctrVal d' .fwCoreFault k 0 = ctrVal d .fwCoreFault k 0 + 1
    let fails (k : Nat) (p : Dev → Prop) : Prop :=
      Answers (.controlCoreTimeout k i) s (fun d' => counted k d' ∧ p d') ∧ Answers (.controlCoreTrap k i) s (fun d' => counted k d' ∧ p d')
    let inactive := 1 - d.isl.active % 2
    let frame := Instr.controlCoreFrame cls bp q bytes
    let len := bytes.length + 4
    let rate : Int := (rateOf d bp / 200 : Nat)
    let poor := decide (bkLevel 65536 rate (beat d) (tget {} d.isl.guardP bp) < (4 * (len + 20) : Nat)) ||
      decide (bkLevel 32000 1 (beat d) (tget {} d.isl.guardE (bp / 32)) < 500)
    (i < 16 → fails 1 (fun d' => tget false d'.isl.down (96 + i) = true ∧ lastLog d' = some 0x10A ∧ d'.comp = d.comp ∧ d'.boot = d.boot)) ∧
    (i < 8 → fails 2 (fun d' => tget false d'.isl.down (112 + i) = true ∧ lastLog d' = some 0x10A ∧ d'.comp = d.comp ∧ d'.boot = d.boot)) ∧
    (i < 16 → fails 3 (fun d' => d'.boot.fault = true ∧ d'.boot.ready = false ∧ lastLog d' = some 0x10A ∧ d'.comp = d.comp)) ∧
    (i < 96 → Answers (.controlCoreTimeout 0 i) s (fun d' => clusterPower d' i = (if clusterPower d i ≤ 1 then 1 else 3) ∧ lastLog d' = some 0x10A ∧ d'.boot = d.boot) ∧
      Answers (.controlCoreTrap 0 i) s (fun d' => clusterPower d' i = (if clusterPower d i ≤ 1 then 1 else 3) ∧ lastLog d' = some 0x10A ∧ d'.boot = d.boot)) ∧
    (i < 16 → Answers (.controlCoreRestarted 1 i) s (fun d' => tget false d'.isl.down (96 + i) = false ∧
      (∀ y, y ≠ 96 + i → tget false d'.isl.down y = tget false d.isl.down y) ∧ d' = { d with isl := d'.isl, pwr := d'.pwr })) ∧
    (i < 8 → Answers (.controlCoreRestarted 2 i) s (fun d' => tget false d'.isl.down (112 + i) = false ∧
      (∀ y, y ≠ 112 + i → tget false d'.isl.down y = tget false d.isl.down y) ∧ d' = { d with isl := d'.isl })) ∧
    Answers .islandLockstep s (fun d' => d'.isl.restarting = true ∧ d'.isl.sessions = [] ∧ d'.isl.update = none ∧ d'.maint.all (fun r => r.act != 7) = true ∧
      slotOf d' (1 - inactive) = slotOf d (1 - inactive) ∧
      slotOf d' inactive = (if d.isl.update.any (fun u => u.granted) then [] else slotOf d inactive) ∧ d'.comp = d.comp ∧ d'.otp = d.otp) ∧
    (d.isl.restarting = false → Gives .islandRestarted s d) ∧
    (d.isl.restarting = true → Answers .islandRestarted s (fun d' => d'.isl.restarting = false ∧ lastLog d' = some 0x10B ∧ d'.boot = d.boot)) ∧
    (macInBlock d (beNat ((bytes.drop 6).take 6)) = false → Answers frame s (fun d' =>
      ctrVal d' .guardMacDrop bp 0 = ctrVal d .guardMacDrop bp 0 + 1 ∧ ctrVal d' .fwBound cls 0 = ctrVal d .fwBound cls 0 + 1 ∧ d'.edge = d.edge)) ∧
    (macInBlock d (beNat ((bytes.drop 6).take 6)) = true →
      (poor = true → Gives frame s (bump .guardDrop bp 0 d)) ∧
      (poor = false → Answers frame s (fun d' =>
        tget {} d'.isl.guardP bp = bkTake 65536 rate (beat d) (4 * (len + 20) : Nat) (tget {} d.isl.guardP bp) ∧
        tget {} d'.isl.guardE (bp / 32) = bkTake 32000 1 (beat d) 500 (tget {} d.isl.guardE (bp / 32)) ∧ d'.comp = d.comp ∧
        (provided d bp = true → (bpOf d bp).txHold = false → (bpOf d bp).link = true →
          (admitTo d bp q (cellsOf len) 128 0 false).isSome = true →
            (queueOf d' bp q).items.length = (queueOf d bp q).items.length + 1)))) ∧
    Answers .eventLogPersist s (fun d' => d'.isl = { d.isl with nor := d'.isl.nor, unsaved := [] } ∧ d' = { d with isl := d'.isl } ∧
      (d.isl.nor.length + d.isl.unsaved.length ≤ 131072 → d'.isl.nor = d.isl.nor ++ d.isl.unsaved)) ∧
    Gives .troublePersist s { d with isl := { d.isl with troubleNor := d.isl.trouble, troubleSince := none } }

/-- R546 to R548, R550, R62, R496. -/
def Obligations.MaintenanceArbiter : Prop :=
  ∀ (q t p link obj out : Nat) (s : State), q < 8192 → p < 32 → link < 20 → obj < 0x10000 → out < 3 →
    let d := s.dev
    let c := cmdOf d t
    let act := cmdFld c 24 2
    let o := if act = 3 ∨ act = 4 then cmdFld c 32 2 else cmdFld c 32 1
    let r : MaintReq := { act, obj := o, src := 0, tkt := t, limit := beat d + maintLimit act, args := [cmdFld c 36 1, cmdFld c 37 1, cmdFld c 38 2] }
    let recal (act obj : Nat) : MaintReq := { act, obj, src := 2, limit := beat d + maintLimit act }
    let has (act obj : Nat) : Option MaintReq := d.maint.find? (fun x => x.act == act && x.obj == obj && x.granted)
    let done (act : Nat) := Instr.maintActivityDone act obj out
    let sa (x : MaintReq) (k : Nat) := k % 4 * 64 + lget 0 x.args 0 * 256 + k / 4 * 2 ^ 14 + lget 0 x.args 1 * 2 ^ 16 + lget 0 x.args 2 * 2 ^ 20
    (cmdReady d 0x70 q t = true →
      (maintBad d act o r.args = true → Gives (.maintRequest q t) s (complete t .invalidField 0 d)) ∧
      (maintBad d act o r.args = false → maintBlocked d d.maint r = true → Answers (.maintRequest q t) s (fun d' =>
        cmdOf d' t = { c with st := 1 } ∧ d'.maint = d.maint ++ [r] ∧ d' = { d with cmds := d'.cmds, maint := d'.maint })) ∧
      (maintBad d act o r.args = false → maintBlocked d d.maint r = false → 4 ≤ act → Answers (.maintRequest q t) s (fun d' =>
        cmdOf d' t = { c with st := 1 } ∧ d'.maint = d.maint ++ [{ r with granted := true }] ∧
        ctrVal d' .maintGranted act 0 = ctrVal d .maintGranted act 0 + 1 ∧ d'.comp = d.comp ∧ d'.regs = d.regs))) ∧
    (5 ≤ d.boot.step →
      (otpPortOff d p = true → Gives (.portForceRecal p) s d) ∧
      (otpPortOff d p = false → maintBlocked d d.maint (recal 1 p) = true → Gives (.portForceRecal p) s { d with maint := d.maint ++ [recal 1 p] }) ∧
      (otpPortOff d p = false → maintBlocked d d.maint (recal 1 p) = false → Answers (.portForceRecal p) s (fun d' =>
        { recal 1 p with granted := true } ∈ d'.maint ∧ (maintJoins d (recal 1 p) = false → (physOf d' p).calBusy = true ∧
          ∀ bp ∈ bpsOf p, (bpOf d' bp).link = false))) ∧
      (jodonOff d link = true → Gives (.jodonForceRecal link) s d) ∧
      (jodonOff d link = false → maintBlocked d d.maint (recal 2 link) = true → Gives (.jodonForceRecal link) s { d with maint := d.maint ++ [recal 2 link] }) ∧
      (jodonOff d link = false → maintBlocked d d.maint (recal 2 link) = false → maintJoins d (recal 2 link) = false → Answers (.jodonForceRecal link) s (fun d' =>
        { recal 2 link with granted := true } ∈ d'.maint ∧ (linkOf d' link).forced = true ∧ linkState d' link ≠ 3))) ∧
    (∀ x, grantable d [] d.maint = some x → ∃ pre post, d.maint = pre ++ x :: post ∧ x.granted = false ∧ maintBlocked d pre x = false) ∧
    (grantable d [] d.maint = none → Gives .maintGrant s d) ∧
    (∀ x, grantable d [] d.maint = some x → 3 ≤ x.act → x.act ≠ 0x102 → Answers .maintGrant s (fun d' => { x with granted := true } ∈ d'.maint ∧
      ctrVal d' .maintGranted x.act 0 = ctrVal d .maintGranted x.act 0 + 1 ∧ d'.cmds = d.cmds ∧ d'.maint.length = d.maint.length)) ∧
    (d.maint.all (fun x => x.granted || decide (beat d < x.limit)) = true → Gives .maintWaitExpire s d) ∧
    (∀ x, d.maint.find? (fun x => !x.granted && decide (x.limit ≤ beat d)) = some x → 1 ≤ x.act → x.act ≤ 6 → Answers .maintWaitExpire s (fun d' =>
      d'.maint = d.maint.erase x ∧ bitOf (regVal d' rMaintStatus) 10 = true ∧ d'.isl.log.getLast?.map (fun e => e.code) = some 0x115 ∧
      (x.tkt = 0 → ctrVal d' .maintRefused x.act 0 = ctrVal d .maintRefused x.act 0 + 1 ∧ d'.cmds = d.cmds) ∧ d'.comp = d.comp)) ∧
    (∀ a, a < 0x103 → has a obj = none → Gives (done a) s d) ∧
    (∀ x, has 3 obj = some x → Answers (done 3) s (fun d' => d'.maint = d.maint.erase x ∧
      (out = 1 → d'.isl.log.getLast?.map (fun e => e.code) = some 0x111 ∧ d'.comp = d.comp) ∧
      (out ≠ 1 → d'.isl.log = d.isl.log ∧ ∀ core, core / 8 = obj → (coreOf d' core).pregs.all (fun g => g.st != 3) = true))) ∧
    (∀ x, has 4 obj = some x → Answers (done 4) s (fun d' => d'.maint = d.maint.erase x ∧ d'.comp = d.comp ∧
      (out = 1 → d'.isl.log.getLast?.map (fun e => e.code) = some 0x111))) ∧
    (∀ a, (a = 5 ∨ a = 6) → ∀ x, has a obj = some x → Answers (done a) s (fun d' => d'.maint = d.maint.erase x ∧ d'.store.hbm = d.store.hbm ∧
      (out ≠ 2 → ∀ k, k < 16 → tget false d'.store.poison (hbmUnmap d obj (sa x k) / 64) = true) ∧
      (out = 2 → d'.store.poison = d.store.poison))) ∧
    (∀ x, has 8 obj = some x → x.args.headD 0 = 1 → Answers (done 8) s (fun d' => d'.maint = d.maint.erase x ∧
      d'.otp = { d.otp with fuses := max d.otp.fuses d.isl.runSv } ∧ d'.isl.log.getLast?.map (fun e => e.code) = some 0x114)) ∧
    (∀ x, has 1 obj = some x → (physOf d obj).calBusy = false → Answers (done 1) s (fun d' =>
      d'.maint.all (fun y => !(y.act == 1 && y.obj == obj && y.granted)) = true)) ∧
    (∀ x, has 2 obj = some x → (linkOf d obj).forced = false → Answers (done 2) s (fun d' =>
      d'.maint.all (fun y => !(y.act == 2 && y.obj == obj && y.granted)) = true))

/-- R523, R637, R638, R640 to R642. -/
def Obligations.MultiFunctionPins : Prop :=
  ∀ (n val : Nat) (fw : Bool) (s : State), n < 32 → val < 2 ^ 32 →
    let d := s.dev
    let f := bitsOf val 0 3
    let m := mfioOf d n
    let now := beat d
    let write := Instr.mfioCfgWrite n val fw
    let others (d' : Dev) : Prop := (∀ y, y ≠ n → mfioOf d' y = mfioOf d y) ∧ d'.comp = d.comp ∧ d'.boot = d.boot
    (10 < n → 6 ≤ f → Answers write s (fun d' => d'.pins = d.pins ∧ bitOf (regVal d' (rMfioStat n)) 2 = true ∧
      regVal d' (rMfioCfg n) = regVal d (rMfioCfg n) ∧ d' = { d with regs := d'.regs })) ∧
    (10 < n → f < 6 → m.next.getD m.func = f → Answers write s (fun d' => d'.pins = d.pins ∧ regFld d' (rMfioCfg n) 0 5 = val % 32 ∧ d' = { d with regs := d'.regs })) ∧
    (10 < n → f < 6 → m.next.getD m.func ≠ f → Answers write s (fun d' => others d' ∧ regFld d' (rMfioCfg n) 0 5 = val % 32 ∧
      (mfioOf d' n).next = some f ∧ (mfioOf d' n).func = m.func ∧
      ((m.func = 4 ∧ ppsOut d = true ∧ m.skipPulse = false ∧ (m.next.isSome && m.parkEnd.isSome) = false) → (mfioOf d' n).parkEnd = none) ∧
      (¬ (m.func = 4 ∧ ppsOut d = true ∧ m.skipPulse = false ∧ (m.next.isSome && m.parkEnd.isSome) = false) →
        (mfioOf d' n).parkEnd = some (now + parkNs d) ∧ mfioDrive d' n = none))) ∧
    (n ≤ 10 → Answers write s (fun d' => d'.pins = d.pins ∧ d'.comp = d.comp ∧
      (bitsOf val 0 4 ≠ 6 → fw = true → ctrVal d' .fwBound 3 0 = ctrVal d .fwBound 3 0 + 1) ∧
      (bitsOf val 0 4 ≠ 6 → bitOf (regVal d' (rMfioStat n)) 2 = true) ∧ regFld d' (rMfioCfg n) 4 1 = bitsOf val 4 1)) ∧
    (∀ g stop, m.next = some g → m.parkEnd = some stop →
      (now < stop → Gives (.mfioParkEnd n) s d) ∧
      (stop ≤ now → Answers (.mfioParkEnd n) s (fun d' => others d' ∧ (mfioOf d' n).func = g ∧ (mfioOf d' n).next = none ∧ (mfioOf d' n).tach = 0 ∧
        d' = { d with pins := d'.pins }))) ∧
    (m.next = none ∨ m.parkEnd = none → Gives (.mfioParkEnd n) s d) ∧
    ((m.func ≠ 5 ∨ parked m = true) → Gives (.fanTachEdge n) s d ∧ Gives (.tachWindow n) s d) ∧
    (m.func = 5 → parked m = false →
      (m.lastEdge.all (fun b => decide (b + 20000 ≤ now)) = true → Answers (.fanTachEdge n) s (fun d' => others d' ∧
        mfioOf d' n = { m with level := false, tach := m.tach + 1, lastEdge := some now } ∧ d' = { d with pins := d'.pins })) ∧
      (m.lastEdge.any (fun b => decide (now < b + 20000)) = true → Answers (.fanTachEdge n) s (fun d' => others d' ∧ (mfioOf d' n).tach = m.tach ∧
        (mfioOf d' n).lastEdge = m.lastEdge)) ∧
      (m.winFrom + 1000000000 ≤ now → Answers (.tachWindow n) s (fun d' => others d' ∧ regFld d' (rMfioStat n) 16 16 = min 65535 m.tach ∧
        (mfioOf d' n).tach = 0 ∧ (mfioOf d' n).winFrom = m.winFrom + 1000000000)) ∧
      (now < m.winFrom + 1000000000 → Gives (.tachWindow n) s d)) ∧
    (d.time.todNs % 1000000000 ≤ 1 → d.time.outRise.all (fun b => decide (b + 500000000 ≤ now)) = true → Answers .ppsOutEdge s (fun d' =>
      d'.time = { d.time with outRise := some now, outHigh := true, outWidth := max 1 (min 500000 (regFld d rTodCtrl 5 20)) * 1000 } ∧
      d' = { d with time := d'.time, pins := d'.pins })) ∧
    ((1 < d.time.todNs % 1000000000 ∨ d.time.outRise.any (fun b => decide (now < b + 500000000)) = true) → Gives .ppsOutEdge s d) ∧
    (∀ b, d.time.outRise = some b →
      (d.time.outHigh = true → b + d.time.outWidth ≤ now → Answers .ppsOutPulseEnd s (fun d' => d'.time = { d.time with outHigh := false } ∧
        (tabWf none d.pins.mfio = true → ∀ y, (mfioOf d' y).func = (mfioOf d y).func ∧ (mfioOf d' y).next = (mfioOf d y).next ∧
          ((mfioOf d y).next.isSome = true → (mfioOf d' y).parkEnd.isSome = true)) ∧ d' = { d with time := d'.time, pins := d'.pins })) ∧
      (d.time.outHigh = false ∨ now < b + d.time.outWidth → Gives .ppsOutPulseEnd s d))

/-- R490, R493 to R496, R499, R508, R524, R531. -/
def Obligations.JodonLinks : Prop :=
  ∀ (n pkg plink tag : Nat) (en fw ok signal same : Bool) (s : State), n < 20 → pkg < 8 → plink < 20 → tag < 2 ^ 32 →
    let d := s.dev
    let l := linkOf d n
    let st := linkState d n
    let now := beat d
    let enable := Instr.jodonEnableWrite n en fw
    let phase := Instr.jodonTrainingPhaseEnd n ok signal
    let becomes (c : Instr) (l' : Link) : Prop := Answers c s (fun d' => linkOf d' n = l' ∧ (∀ y, y ≠ n → linkOf d' y = linkOf d y) ∧
      d' = { d with fab := { d.fab with links := d'.fab.links } })
    let lost (c : Instr) : Prop := Answers c s (fun d' => linkState d' n = 1 ∧ (linkOf d' n).tx = [] ∧ (linkOf d' n).rx = [] ∧
      (linkOf d' n).downs = min 65535 (l.downs + 1) ∧ d'.fab.outs.all (fun o => o.link != n) = true ∧
      d'.fab.pins.all (fun p => p.link != n || p.dead.isSome) = true ∧ (∀ y, y ≠ n → linkOf d' y = linkOf d y))
    let ident := Instr.jodonIdent n pkg plink (tag % 2 ^ 24) same
    let cause := identCause d pkg (tag % 2 ^ 24) same
    (5 ≤ d.boot.step →
      (jodonOff d n = true → (fw = false → Gives enable s d) ∧
        (fw = true → Answers enable s (fun d' => ctrVal d' .fwBound 2 0 = ctrVal d .fwBound 2 0 + 1 ∧ d'.fab = d.fab ∧ d'.regs = d.regs))) ∧
      (jodonOff d n = false →
        (en = bitOf (regVal d (rJodonCfg n)) 0 → Gives enable s d) ∧
        (en = true → bitOf (regVal d (rJodonCfg n)) 0 = false → Answers enable s (fun d' =>
          linkOf d' n = { l with state := 1, phase := 1, since := now } ∧ linkState d' n = 1 ∧ (∀ y, y ≠ n → linkOf d' y = linkOf d y))) ∧
        (en = false → bitOf (regVal d (rJodonCfg n)) 0 = true → Answers enable s (fun d' => linkState d' n = 0 ∧ (linkOf d' n).logged = [] ∧
          (st = 3 → d'.fab.outs.all (fun o => o.link != n) = true) ∧ (∀ y, y ≠ n → linkOf d' y = linkOf d y)))) ∧
      (st = 3 → lost (.jodonRetrain n)) ∧ (st ≠ 3 → Gives (.jodonRetrain n) s d)) ∧
    (d.boot.step < 5 → Answers enable s (fun d' => d'.fab = d.fab ∧ regVal d' (rJodonCfg n) = regVal d (rJodonCfg n))) ∧
    (st ≠ 1 → Gives phase s d ∧ Gives ident s d) ∧
    (st = 1 →
      (ok = false → signal = true → becomes phase { l with phase := 1 }) ∧
      (ok = false → signal = false → becomes phase { l with state := 2, phase := 1, since := now }) ∧
      (ok = true → l.phase = 1 → becomes phase { l with phase := if l.calibrated && !l.recalDue && !l.forced then 3 else 2 }) ∧
      (ok = true → l.phase = 2 → becomes phase { l with phase := 3, calibrated := true, recalDue := false, forced := false, calTemp := edgeTemp d (n / 5) }) ∧
      (ok = true → (l.phase = 3 ∨ l.phase = 4) → becomes phase { l with phase := l.phase + 1 }) ∧
      (ok = true → l.phase = 5 → Gives phase s d) ∧
      (l.phase ≠ 5 → Gives ident s d) ∧
      (l.phase = 5 → cause = 0 → becomes ident { l with
          state := 3, phase := 1, since := now, partner := pkg, partnerLink := plink, cause := 0, logged := [], rxNext := 0, acked := 65535,
          replays := 0, credC := 256, credQ := 4096, credP := 4096, tx := [], rx := [], flits := [] }) ∧
      (l.phase = 5 → cause ≠ 0 → Answers ident s (fun d' => (linkOf d' n).state = 4 ∧ (linkOf d' n).cause = cause ∧ (linkOf d' n).logged.contains cause = true ∧
        (l.logged.contains cause = true → d'.isl = d.isl) ∧
        (l.logged.contains cause = false → d'.isl.log.getLast?.map (fun e => e.code) = some 0x112) ∧ (∀ y, y ≠ n → linkOf d' y = linkOf d y)))) ∧
    ((st = 2 ∧ l.since + 1000000 ≤ now ∨ st = 4 ∧ l.since + 1000000000 ≤ now) →
      becomes (.jodonRetryTimer n) { l with state := 1, phase := 1, since := now }) ∧
    ((st = 2 ∧ now < l.since + 1000000 ∨ st = 4 ∧ now < l.since + 1000000000 ∨ (st ≠ 2 ∧ st ≠ 4)) → Gives (.jodonRetryTimer n) s d) ∧
    (st = 3 → 16 ≤ l.replays → lost (.jodonLinkFail n)) ∧ (st ≠ 3 ∨ l.replays < 16 → Gives (.jodonLinkFail n) s d) ∧
    Answers (.jodonPinHoldExpire n) s (fun d' => d' = { d with fab := { d.fab with pins := d'.fab.pins } } ∧
      ∀ p, p ∈ d'.fab.pins ↔ p ∈ d.fab.pins ∧ ¬ (p.link = n ∧ ∃ b, p.dead = some b ∧ b + 1000000 ≤ now)) ∧
    (d.fab.outs.all (fun o => o.tag != tag) = true → Gives (.jodonTimeout tag) s d) ∧
    (∀ o, d.fab.outs.find? (fun o => o.tag == tag) = some o →
      (now < o.sent + 10000000 ∨ linkState d o.link ≠ 3 → Gives (.jodonTimeout tag) s d) ∧
      (o.sent + 10000000 ≤ now → linkState d o.link = 3 → Answers (.jodonTimeout tag) s (fun d' => d'.fab.outs = d.fab.outs.erase o ∧
        (o.write = true → o.msg.isSome = true → (faultQOf d' (outFn d o)).overflow = true ∨
          (faultQOf d' (outFn d o)).keys.contains (o.pkg, o.core, o.win) = true) ∧ d'.fab.links = d.fab.links)))

/-- R498 to R500, R503, R505 to R507. -/
def Obligations.JodonTraffic : Prop :=
  ∀ (n fec hw : Nat) (bytes : List Byte) (s : State), n < 20 → fec < 3 → bytes.length = 5140 →
    let d := s.dev
    let l := linkOf d n
    let fld (o k : Nat) := leNat ((bytes.drop (5120 + o)).take k)
    let good := decide (fec ≠ 2) && decide (fld 16 4 = crc32c 0xFFFFFFFF (bytes.take 5136)) && decide (fld 0 2 = l.rxNext)
    let block := Instr.jodonBlockReceive n fec bytes
    let memSame (d' : Dev) : Prop := ∀ c, (coreOf d' c).spad = (coreOf d c).spad
    let find (type : Nat) := rxFind d n (fun m => m.type == type)
    let target (c : Instr) (type : Nat) : Prop :=
      (find type = none → Gives c s d) ∧
      (∀ m, find type = some m → clusterPower d (m.core / 8) = 2 → Gives c s (wakeRequest (m.core / 8) d)) ∧
      (∀ m, find type = some m → clusterPower d (m.core / 8) ≠ 2 → m.core < 768 → winCheck d (msgAccess m) true ≠ 0 →
        Answers c s (fun d' => memSame d' ∧ (linkOf d' n).rx = l.rx.erase m ∧ regVal d' (rWinFault m.core) % 16 = winCheck d (msgAccess m) true ∧
          d'.store = d.store ∧ d' = msgReply n (if type = 0x61 then 0x63 else 0x66) (winCheck d (msgAccess m) true) [] m
            (winRefuse (msgAccess m) (winCheck d (msgAccess m) true) (rxTake n m d)))) ∧
      (∀ m, find type = some m → clusterPower d (m.core / 8) ≠ 2 → 768 ≤ m.core →
        Gives c s (msgReply n (if type = 0x61 then 0x63 else 0x66) 5 [] m (rxTake n m d)))
    let answer (c : Instr) (type : Nat) : Prop :=
      (find type = none → Gives c s d) ∧
      (∀ m, find type = some m → outOf d m = none → Gives c s (rxTake n m d)) ∧
      (∀ m o, find type = some m → outOf d m = some o → Answers c s (fun d' => (linkOf d' n).rx = l.rx.erase m ∧ d'.fab.outs = d.fab.outs.erase o ∧
        (∀ y, y ≠ n → linkOf d' y = linkOf d y) ∧ d'.fab.pins = d.fab.pins))
    (linkState d n ≠ 3 → Gives block s d) ∧
    (linkState d n = 3 → good = false → Answers block s (fun d' => d'.fab = d.fab ∧ d'.out = d.out ++ [.jodonNak n ((l.rxNext + 65535) % 65536)] ∧
      ctrVal d' .jodonBlocksRx n 0 = ctrVal d .jodonBlocksRx n 0 + 1 ∧ d' = { d with ctr := d'.ctr, out := d'.out })) ∧
    (linkState d n = 3 → good = true → Answers block s (fun d' => (linkOf d' n).rxNext = (l.rxNext + 1) % 65536 ∧ (linkOf d' n).acked = fld 2 2 ∧
      (∃ more, (linkOf d' n).rx = l.rx ++ more) ∧ (linkOf d' n).state = l.state ∧ (∀ y, y ≠ n → linkOf d' y = linkOf d y) ∧
      d'.fab.outs = d.fab.outs ∧ d'.comp = d.comp)) ∧
    target (.jodonWrite n) 0x61 ∧ target (.jodonReadReq n hw) 0x64 ∧
    (∀ m, find 0x61 = some m → clusterPower d (m.core / 8) ≠ 2 → m.core < 768 → winCheck d (msgAccess m) true = 0 → Answers (.jodonWrite n) s (fun d' =>
      (coreOf d' m.core).spad = writeRows (coreOf d m.core).spad (winRows d (msgAccess m)) 0 m.data ∧
      (∀ c, c ≠ m.core → coreOf d' c = coreOf d c) ∧ d' = msgReply n 0x62 0 [] m (winApply (msgAccess m) (rxTake n m d)))) ∧
    (∀ m, find 0x64 = some m → clusterPower d (m.core / 8) ≠ 2 → m.core < 768 → winCheck d (msgAccess m) true = 0 →
      (hw ≠ 3 → Answers (.jodonReadReq n hw) s (fun d' => memSame d' ∧
        d' = msgReply n 0x65 0 (winData d (msgAccess m)) m (winCountIn (msgAccess m) (rxTake n m d)))) ∧
      (hw = 3 → Answers (.jodonReadReq n hw) s (fun d' => memSame d' ∧ (linkOf d' n).rx = l.rx.erase m ∧
        ctrVal d' .spadParity m.core 0 = ctrVal d .spadParity m.core 0 + 1))) ∧
    answer (.jodonWriteAck n) 0x62 ∧ answer (.jodonFaultNotice n) 0x63 ∧ answer (.jodonReadData n) 0x65 ∧ answer (.jodonReadErr n) 0x66 ∧
    (∀ m o w, find 0x62 = some m → outOf d m = some o → o.msg = some w → winWaits d w = true →
      Gives (.jodonWriteAck n) s (writeAnswer w (winLeave w (dropOut o (rxTake n m d))))) ∧
    (∀ m o, find 0x63 = some m → outOf d m = some o → o.msg.isSome = true → Answers (.jodonFaultNotice n) s (fun d' =>
      (faultQOf d' (outFn d o)).overflow = true ∨ (faultQOf d' (outFn d o)).keys.contains (o.pkg, o.core, o.win) = true)) ∧
    (∀ m o w, find 0x65 = some m → outOf d m = some o → o.msg = some w → winWaits d w = true →
      Gives (.jodonReadData n) s (readAnswer { w with data := m.data } (winLeave w (dropOut o (rxTake n m d))))) ∧
    (∀ m o, find 0x65 = some m → outOf d m = some o → o.msg = none → cmdLive d o.tkt = true → Answers (.jodonReadData n) s (fun d' =>
      hbmBytes d' (cmdFld (cmdOf d o.tkt) 32 8 + 512 * o.off) m.data.length = m.data)) ∧
    (∀ m o w, find 0x66 = some m → outOf d m = some o → o.msg = some w → winWaits d w = true →
      Gives (.jodonReadErr n) s (readAnswer { w with cause := if 1 ≤ m.cause ∧ m.cause ≤ 6 then m.cause else 16 } (winLeave w (dropOut o (rxTake n m d)))))

/-- R510 to R516. That the Beat loaded is t1 plus the link delay is the model's reading (log entry 62). -/
def Obligations.BeatSynchronisation : Prop :=
  ∀ (n : Nat) (s : State), n < 20 →
    let d := s.dev
    let x := nbrOf d n
    let now := beat d
    let send := Instr.beatSyncSend n
    (linkState d n = 3 → (x.sent = 0 ∨ x.sent + 1000000 ≤ now) → Answers send s (fun d' => nbrOf d' n = { x with sent := now } ∧
      (∀ y, y ≠ n → nbrOf d' y = nbrOf d y ∧ linkOf d' y = linkOf d y) ∧ d'.comp = d.comp ∧
      d' = linkSend n { type := 0x68, src := ownPkg d, dst := (linkOf d n).partner, extra := syncBytes (rootId d) d.time.hops now x.t2 now }
        (modNbr n (fun y => { y with sent := now }) d))) ∧
    (linkState d n ≠ 3 ∨ (x.sent ≠ 0 ∧ now < x.sent + 1000000) → Gives send s d) ∧
    (rxFind d n (fun m => m.type == 0x68) = none → Gives (.beatSync n) s d) ∧
    (∀ m, rxFind d n (fun m => m.type == 0x68) = some m →
      let f (o k : Nat) : Nat := leNat ((m.extra.drop o).take k)
      let echo := x.sent ≠ 0 ∧ f 16 8 ≠ 0
      let delay : Int := if echo then (((now : Int) - x.sent) - ((f 8 8 : Int) - f 16 8)) / 2 else 0
      Answers (.beatSync n) s (fun d' => (linkOf d' n).rx = (linkOf d n).rx.erase m ∧
        nbrOf d' n = { x with root := f 0 1 % 8, hops := f 1 1 % 8, pkg := m.src, t1 := f 8 8, t2 := now, heard := true } ∧
        (∀ y, y ≠ n → nbrOf d' y = nbrOf d y) ∧ rootId d' ≤ ownPkg d ∧ (heardOn d').all (fun e => decide (rootId d' ≤ e.2.root)) = true ∧
        (rootId d' < rootId d → d.boot.ready = false → d'.time.beat = ((f 8 8 : Int) + max 0 delay).toNat % 2 ^ 64 ∧
          bitOf (regVal d' rBeatStatus) 9 = true ∧ d'.isl.log.all (fun e => e.unsync) = true) ∧
        (¬ (rootId d' < rootId d ∧ d.boot.ready = false) → d'.time.beat = d.time.beat ∧ d'.isl = d.isl) ∧
        (-100000 ≤ d.time.steer → d.time.steer ≤ 100000 → -100000 ≤ d'.time.steer ∧ d'.time.steer ≤ 100000) ∧
        d'.time.todNs = d.time.todNs ∧ d'.comp = d.comp)) ∧
    ((upLinks d).isEmpty = true → d.time.noLinkSince + 10000000 ≤ now → Answers .beatAlone s (fun d' => rootId d' = ownPkg d ∧
      d'.time = { d.time with root := none, hops := 0, bstate := 0, upLink := none, steer := 0, offset := 0, inSync := 0, nbrs := [] } ∧
      d' = { d with time := d'.time })) ∧
    ((upLinks d).isEmpty = false ∨ now < d.time.noLinkSince + 10000000 → Gives .beatAlone s d) ∧
    Gives .beatRead s { d with time := { d.time with beatHi := d.time.beat / 2 ^ 32, snap := d.time.todNs }
                               out := d.out ++ [.readData 0x6004 (d.time.beat % 2 ^ 32)] }

/-- R517, R520 to R523, R525. -/
def Obligations.TimeOfDay : Prop :=
  ∀ (val : Word32) (go : Nat) (s : State), go < 2 ^ 32 →
    let d := s.dev
    let t := d.time
    let now := beat d
    let off := signedOf 32 val.toNat
    let gap (b : Nat) := decide (b + 999999000 ≤ now ∧ now ≤ b + 1000001000)
    let late (b : Nat) := (now - b) % 1000000000
    let presents (x : Int) (t' : Time) : Prop :=
      (-500000 < x → x < 500000 → t'.slew = x ∧ t'.slewing = decide (x ≠ 0) ∧ t'.stepPend = none) ∧
      ((x ≤ -500000 ∨ 500000 ≤ x) → t'.slew = 0 ∧ t'.slewing = false ∧ t'.stepPend = some x)
    let only (d' : Dev) : Prop := d' = { d with time := d'.time } ∧ d'.time.beat = t.beat ∧ d'.time.todNs = t.todNs
    Gives .todRead s { d with time := { t with todSec := t.todNs / 1000000000 }, out := d.out ++ [.readData 0x6010 (t.todNs % 1000000000)] } ∧
    Gives .ref10mLost s { d with time := { t with refValid := false, refSeen := false } } ∧
    Gives .ref10mValid s { d with time := { t with refValid := regFld d rTodCtrl 1 1 == 1, refSeen := true } } ∧
    (regFld d rTodCtrl 0 1 = 0 → Gives .ppsInEdge s { d with time := { t with ppsNs := t.todNs % 1000000000 } }) ∧
    (regFld d rTodCtrl 0 1 = 1 → t.ppsValid = false →
      (t.ppsLast.any gap = false → t.ppsGood < 2 → Answers .ppsInEdge s (fun d' => only d' ∧ d'.time.ppsValid = false ∧ d'.time.ppsGood = 1 ∧ d'.time.ppsLast = some now)) ∧
      (t.ppsLast.any gap = true → 2 ≤ t.ppsGood → Answers .ppsInEdge s (fun d' => only d' ∧ d'.time.ppsValid = true ∧ d'.time.ppsLast = some now ∧
        presents (edgeOffset t.todNs) d'.time ∧ (d'.time.stepPend = none → t.stepSec = none → d'.time.tstate = 1)))) ∧
    (regFld d rTodCtrl 0 1 = 1 → t.ppsValid = true → ∀ b, t.ppsLast = some b →
      ((late b ≤ 1000000 ∨ 999000000 ≤ late b) → Answers .ppsInEdge s (fun d' => only d' ∧ d'.time.ppsLast = some now ∧ presents (edgeOffset t.todNs) d'.time)) ∧
      (1000000 < late b → late b < 999000000 → Gives .ppsInEdge s { d with time := { t with ppsNs := t.todNs % 1000000000 } })) ∧
    (∀ b, t.ppsLast = some b →
      (t.ppsValid = true → b + 2001000000 ≤ now → Answers .ppsInLost s (fun d' => d'.time.ppsValid = false ∧ d'.time.ppsGood = 0 ∧
        (t.swValid = false → t.tstate = 1 → d'.time.tstate = 2) ∧ ctrVal d' .ppsInMissing 0 0 = ctrVal d .ppsInMissing 0 0 + 1 ∧
        d' = { d with time := d'.time, ctr := d'.ctr })) ∧
      (t.ppsValid = false ∨ now < b + 2001000000 → Gives .ppsInLost s d)) ∧
    (t.swValid = true → t.swLast + max 1 (regFld d rTodCtrl 25 7) * 1000000000 ≤ now → Answers .swRefTimeout s (fun d' => only d' ∧ d'.time.swValid = false ∧
      (t.ppsValid = false → t.tstate = 1 → d'.time.tstate = 2))) ∧
    (t.swValid = false ∨ now < t.swLast + max 1 (regFld d rTodCtrl 25 7) * 1000000000 → Gives .swRefTimeout s d) ∧
    (t.ppsValid = true → Answers (.todAdj val) s (fun d' => d'.time = t ∧ bitOf (regVal d' rTodStatus) 8 = true ∧ d' = { d with regs := d'.regs })) ∧
    (t.ppsValid = false → Answers (.todAdj val) s (fun d' => only d' ∧ presents off d'.time ∧ d'.time.swLast = now ∧
      d'.time.swValid = (regFld d rTodCtrl 2 1 == 1) ∧ (regFld d rTodCtrl 2 1 = 1 → d'.time.stepPend = none → t.stepSec = none → d'.time.tstate = 1))) ∧
    Answers (.todSetGo go) s (fun d' => regFld d' rTodSetHi 0 16 = go % 65536 ∧
      d'.time = (if bitOf go 31 then { t with stepSec := some (regVal d rTodSetLo + go % 65536 * 2 ^ 32) } else t) ∧ d' = { d with time := d'.time, regs := d'.regs }) ∧
    (stepDue d = false → Gives .todStepApply s d) ∧
    (stepDue d = true → Answers .todStepApply s (fun d' =>
      d'.time.todNs = (match t.stepSec with | some x => x * 1000000000 | none => (newTod d).toNat % (2 ^ 48 * 1000000000)) ∧
      d'.time.stepPend = none ∧ d'.time.stepSec = none ∧ d'.time.slew = 0 ∧ d'.time.beat = t.beat ∧ d'.time.outRise = some now ∧ d'.time.outHigh = true ∧
      bitOf (regVal d' rTodStatus) 7 = true ∧ regFld d' rTodCtrl 3 1 = 0 ∧ ctrVal d' .todSteps 0 0 = ctrVal d .todSteps 0 0 + 1 ∧
      (∀ fn, partFn d 0 = some fn → (tget [] d'.recPend (32 * fn + 16)).length = (tget [] d.recPend (32 * fn + 16)).length + 1) ∧ d'.comp = d.comp)) ∧
    (t.slew = 0 → Gives .todSlewDone s { d with time := { t with slewing := false } }) ∧ (t.slew ≠ 0 → Gives .todSlewDone s d)

/-- R556 to R559, R563 to R565. -/
def Obligations.CountersAndGongs : Prop :=
  ∀ (q t n : Nat) (s : State), q < 8192 → n < 20 →
    let d := s.dev
    let m := cmdOf d t
    let w := cmdFld m 24 4
    let me := if cmdFn m % 64 = 0 then none else some (cmdPart d m)
    let x := groupRecs d me (cmdFn m) (bitsOf w 0 8) (bitsOf w 8 8) (bitOf w 16)
    let fit := min x.2.length ((cmdFld m 28 4 - 64) / x.1)
    let read := Instr.countersRead q t
    let pod := cmdFld m 24 1 == 1
    let when_ := beat d + (if pod then 20000 else 1000)
    (cmdReady d 0x50 q t = true →
      (countersBad d m = true → Gives read s (complete t .invalidField 0 d)) ∧
      (countersBad d m = false → me.isSome = true → groupPf (bitsOf w 0 8) = true → Gives read s (complete t .accessDenied 0 d)) ∧
      (countersBad d m = false → (me.isSome = false ∨ groupPf (bitsOf w 0 8) = false) → bitOf w 17 = false → ∃ hdr : List Byte,
        hdr.length = 64 ∧ hdr.take 2 = toLe 1 0x71 ++ toLe 1 (bitsOf w 0 8) ∧
        (let bs := hdr ++ (x.2.take fit).flatten
         (dmaOk d (cmdFn m) (cmdFld m 32 8) bs.length true = false → Gives read s (complete t .accessDenied 0 d)) ∧
         (dmaOk d (cmdFn m) (cmdFld m 32 8) bs.length true = true →
           Gives read s (complete t .ok bs.length (hostWrite (cmdFn m) (cmdFld m 32 8) bs d)))))) ∧
    (cmdReady d 0x51 q t = true → Answers (.gong q t) s (fun d' => cmdOf d' t = { m with st := 1 } ∧ d'.obs.nextSeq = (d.obs.nextSeq + 1) % 2 ^ 32 ∧
      d'.obs.seen = (ownPkg d, d.obs.nextSeq) :: d.obs.seen ∧
      (d.obs.gong = none → d'.obs.gong = some { at_ := when_, origin := ownPkg d, seq := d.obs.nextSeq }) ∧
      (∃ g, d'.obs.gong = some g ∧ g.at_ ≤ when_ ∧ ∀ h, d.obs.gong = some h → g.at_ ≤ h.at_) ∧ (pod = false → d'.fab = d.fab) ∧ d'.frozen = d.frozen ∧ d'.comp = d.comp)) ∧
    (d.obs.gong = none → Gives .gongLatch s d) ∧
    (∀ g, d.obs.gong = some g →
      (beat d < g.at_ → Gives .gongLatch s d) ∧
      (g.at_ ≤ beat d → Answers .gongLatch s (fun d' => d'.frozen = d.ctr ∧ d'.obs.frozenTags = d.obs.tags ∧ d'.obs.frozenOver = d.obs.tagsOver ∧
        d'.obs.gong = none ∧ d'.obs.hasFrozen = true ∧ d'.obs.lastT = g.at_ ∧ d'.obs.lastOrigin = g.origin ∧ d'.obs.latched = (d.obs.latched + 1) % 65536 ∧
        (d.cmds.all (fun e => opcodeOf e.2 != 0x51 || e.2.st != 1) = true →
          ctrVal d' .gongs 0 0 = ctrVal d .gongs 0 0 + 1 ∧ d'.cmds = d.cmds) ∧ d'.comp = d.comp))) ∧
    (rxFind d n (fun m => m.type == 0x67) = none → Gives (.jodonGong n) s d) ∧
    (∀ msg, rxFind d n (fun m => m.type == 0x67) = some msg →
      let f (o k : Nat) : Nat := leNat ((msg.extra.drop o).take k)
      let pair := (f 8 1 % 8, f 12 4)
      (d.obs.seen.contains pair = true → Gives (.jodonGong n) s (rxTake n msg d)) ∧
      (d.obs.seen.contains pair = false → Answers (.jodonGong n) s (fun d' => (linkOf d' n).rx = (linkOf d n).rx.erase msg ∧ d'.obs.seen = pair :: d.obs.seen ∧
        (beat d ≤ f 0 8 → d'.obs.gong.any (fun g => decide (g.at_ ≤ f 0 8)) = true ∧ d'.frozen = d.frozen) ∧
        (f 0 8 < beat d → d.obs.gong = none → d'.obs.gong = none ∧ d'.obs.hasFrozen = true ∧ d'.obs.lastT = f 0 8 ∧ d'.obs.lastLate = true) ∧ d'.comp = d.comp)))

/-- R567 to R572. -/
def Obligations.DumpsAndWatchdogs : Prop :=
  ∀ (q t core p : Nat) (s : State), q < 8192 → core < 768 → p < 64 →
    let d := s.dev
    let m := cmdOf d t
    let ctx := cmdFld m 8 2
    let arm := Instr.tensorDumpArm q t
    let live := d.obs.arms.filter (fun a => cmdLive d a.tkt)
    let full := 256 ≤ live.length ∨ 4 ≤ (live.filter (fun a => a.ctx == ctx)).length
    let fire := Instr.watchdogFire core
    let k := coreOf d core
    (cmdReady d 0x52 q t = true →
      (ctxMine d m = false → Gives arm s (complete t .noContext 0 d)) ∧
      (ctxMine d m = true → cmdFld m 28 4 < ctrVal d .invocations ctx 0 → Gives arm s (complete t .invalidField 0 d)) ∧
      (ctxMine d m = true → ctrVal d .invocations ctx 0 ≤ cmdFld m 28 4 → full → Gives arm s (complete t .noSpace 0 d)) ∧
      (ctxMine d m = true → ctrVal d .invocations ctx 0 ≤ cmdFld m 28 4 → ¬ full → Answers arm s (fun d' => cmdOf d' t = { m with st := 1 } ∧
        d'.obs = { d.obs with arms := d.obs.arms ++ [{ tkt := t, ctx, handle := cmdFld m 24 2, step := cmdFld m 28 4 }] } ∧
        d' = { d with cmds := d'.cmds, obs := d'.obs }))) ∧
    (d.obs.arms.find? (fun a => a.tkt == t) = none → Gives (.tensorDumpWrite t) s d) ∧
    (∀ a, d.obs.arms.find? (fun a => a.tkt == t) = some a →
      (a.done = false ∨ cmdLive d t = false ∨ frozenPart d (cmdPart d m) = true → Gives (.tensorDumpWrite t) s d) ∧
      (a.done = true → cmdLive d t = true → frozenPart d (cmdPart d m) = false → ∃ bs : List Byte, bs.length ≤ cmdFld m 40 4 ∧
        (dmaOk d (cmdFn m) (cmdFld m 32 8) bs.length true = true → Gives (.tensorDumpWrite t) s (complete t .ok bs.length (hostWrite (cmdFn m) (cmdFld m 32 8) bs d))) ∧
        (dmaOk d (cmdFn m) (cmdFld m 32 8) bs.length true = false → Gives (.tensorDumpWrite t) s (complete t .accessDenied 0 d)))) ∧
    (corePart d core = none → Gives fire s d) ∧
    (∀ y, corePart d core = some y →
      (watchdogCause d core y = 0 ∨ frozenPart d y = true → Gives fire s d) ∧
      (watchdogCause d core y ≠ 0 → frozenPart d y = false → Answers fire s (fun d' => frozenPart d' y = true ∧
        tget none d'.obs.frozen y = some { cause := watchdogCause d core y, core, ctx := (invOf d k.inv).ctx, layer := k.layer, operator := k.operator, pc := k.pc, fire := beat d } ∧
        (∀ z, z ≠ y → frozenPart d' z = frozenPart d z) ∧ d'.cmds = d.cmds ∧ d'.parts = d.parts))) ∧
    (tget none d.obs.frozen p = none → Gives (.rimeDumpDone p) s d) ∧
    (∀ f, tget none d.obs.frozen p = some f →
      (f.dumped = true → Gives (.rimeDumpDone p) s d) ∧
      (f.dumped = false → (partOf d p).fn < 128 → Answers (.rimeDumpDone p) s (fun d' => tget none d'.obs.frozen p = some { f with dumped := true } ∧
        (∀ z, z ≠ p → tget none d'.obs.frozen z = tget none d.obs.frozen z) ∧
        d'.isl.log.getLast?.map (fun e => e.code) = some 0x117 ∧ ctrVal d' .rimeDumps p 0 = ctrVal d .rimeDumps p 0 + 1 ∧
        (tget [] d'.recPend (32 * (partOf d p).fn + 16)).length = (tget [] d.recPend (32 * (partOf d p).fn + 16)).length + 1 ∧
        d'.comp = d.comp ∧ d'.cmds = d.cmds)))

/-- R319, R321, R322, R328, R330, R331. -/
def Obligations.DecodeSteps : Prop :=
  (∀ (x : SeqRun) (d : Dev), hbmBytes (commitSeq x d) (x.desc + 8) 4 = toLe 4 (x.length + 1)) ∧
  ∀ (q t : Nat) (s : State), q < 8192 →
    let d := s.dev
    let m := cmdOf d t
    let ctx := cmdFld m 8 2
    let v := ctxVer d ctx m.tag
    let step := Instr.decodeStep q t
    let ds := stepDescs d m
    let d1 := pcieRead (cmdFn m) (8 * ds.length) d
    let rs := ds.map (fun x => seqCheck d1 (cmdPart d m) x true v.decode)
    let known := ctxMine d m && v.present && !(ctxOf d ctx).feedback
    let ok := dmaOk d (cmdFn m) (cmdFld m 32 8) (8 * cmdFld m 24 1) false && dmaOk d (cmdFn m) (cmdFld m 40 8) (cmdFld m 48 4) true
    (cmdReady d 0x22 q t = true →
      (known = false → Gives step s (complete t .noContext 0 d)) ∧
      (known = true → ok = false → Gives step s (complete t .accessDenied 0 d)) ∧
      (known = true → ok = true → stepWaits d t m = true → Gives step s d) ∧
      (known = true → ok = true → stepWaits d t m = false →
        ((v.decode = none ∨ ds.eraseDups.length ≠ ds.length) → Gives step s (complete t .invalidField 0 d1)) ∧
        (v.decode.isSome = true → ds.eraseDups.length = ds.length →
          (∀ r, rs.find? (fun r => r.1 != .ok) = some r → Gives step s (complete t r.1 0 d1)) ∧
          (rs.all (fun r => r.1 == .ok) = true → Answers step s (fun d' => cmdOf d' t = { m with st := 1 } ∧ decOf d' t = { seqs := rs.map (·.2) } ∧
            d'.store.hbm = d.store.hbm ∧ d'.comp = d.comp ∧ d'.regs = d.regs))))) ∧
    (m.st = 1 → m.q = q → opcodeOf m = 0x22 → frozenPart d (cmdPart d m) = false →
      let all := m.launched.isSome && (cmdInvs d t).isEmpty && (decOf d t).seqs.all (fun x => decide (x.outs.length = x.nLayers))
      (all = true → Gives step s (complete t .ok (m.aux.headD 0) ((decOf d t).seqs.foldl (fun d x => commitSeq x d) d))) ∧
      (all = false → Gives step s d))

/-- R332 to R335, R337, R340, R344, R347, R348. -/
def Obligations.AttentionUnits : Prop :=
  ∀ (die t b l shard val : Nat) (qs kv : List (List Nat)) (ps : List (Nat × Nat × List Nat × Bool)) (s : State),
    die < 4 → b < 16 → l < 128 → shard < 8 → val < 2 ^ 32 → (qs ++ kv).all (·.all (fun c => decide (c < 2 ^ 32))) = true →
    ps.all (fun p => decide (p.1 < 2 ^ 32) && decide (p.2.1 < 2 ^ 32) && p.2.2.1.all (fun c => decide (c < 2 ^ 32))) = true →
    let d := s.dev
    let seqs := (decOf d t).seqs
    let x := lget {} seqs b
    let query := Instr.attnQuery die (.step t b) l qs kv false
    let answered := (tget none x.parts (8 * l + die)).isSome
    let shaped := decide (b < seqs.length) && decide (l < x.nLayers) && decide (qs.length = x.nKv * x.qPer) && qs.all (fun r => r.length == x.hd)
    let arrive (kind : Nat) := Instr.attnPartialArrive t b l kind shard ps
    let far : List AttnPart := ps.map (fun p => { m := p.1, l := p.2.1, o := attnPartial.padOut x.hd p.2.2.1, nan := p.2.2.2 })
    let n := val % 256
    let d8 := setFld (rAttnCfg die) 8 1 (bitsOf val 8 1) d
    let held := (d.parts.map (fun p => if p.2.exist then lget 0 p.2.sram die else 0)).sum
    ((cmdOf d t).st ≠ 1 → Gives query s d) ∧
    ((cmdOf d t).st = 1 → (stepLive d t = false ∨ shaped = false ∨ answered = true) → Gives query s d) ∧
    ((cmdOf d t).st = 1 → stepLive d t = true → shaped = true → answered = false → x.tail = false →
      let r := attendDie x die l qs d
      (r.bad = false → Answers query s (fun d' => (tget none (lget {} (decOf d' t).seqs b).parts (8 * l + die)) = some r.parts ∧
        (lget {} (decOf d' t).seqs b).unitsRead = x.unitsRead + r.units ∧ (lget {} (decOf d' t).seqs b).unitsSkipped = x.unitsSkipped + r.skipped ∧
        (∀ y, y ≠ b → lget {} (decOf d' t).seqs y = lget {} seqs y) ∧ (∀ k, k ≠ t → decOf d' k = decOf d k) ∧ d'.store.hbm = d.store.hbm ∧ d'.cmds = d.cmds)) ∧
      (r.bad = true → Gives query s (stepFails t .dataError (bump .kvDataError die 0 (setFld (rAttnStatus die) 2 1 1
        (bumpN .attnUnitsRead die 0 r.units (bumpN .attnUnitsSkipped die 0 r.skipped (bumpN .attnBytes die 0 r.bytes r.dev)))))))) ∧
    ((cmdOf d t).st = 1 → stepLive d t = true → shaped = true → answered = false → x.tail = true → (l = 0 ∨ (tget none x.outs (l - 1)).isSome = true) →
      kv.length = x.nKv → kv.all (fun r => r.length == 2 * x.hd) = true →
      let codes := match tget none x.kv l with | some c => c | none => kv.map (tokenCodes x.fmt)
      let d1 := if (tget none x.kv l).isNone then writeToken x l codes (modSeq t b (fun y => { y with kv := tput none y.kv l (some codes) }) d) else d
      let r := attendDie x die l qs d1
      (r.bad = false → Answers query s (fun d' => (tget none (lget {} (decOf d' t).seqs b).parts (8 * l + die)) = some r.parts ∧
        (tget none (lget {} (decOf d' t).seqs b).kv l) = some codes ∧
        (die = 0 → (tget none (lget {} (decOf d' t).seqs b).parts (8 * l + 4)) = some (attendToken x codes qs)) ∧
        (∀ y, y ≠ b → lget {} (decOf d' t).seqs y = lget {} seqs y) ∧ d'.cmds = d.cmds))) ∧
    ((stepLive d t = false ∨ seqs.length ≤ b) → ∀ kind, kind < 5 → Gives (arrive kind) s d) ∧
    (stepLive d t = true → b < seqs.length → l < x.nLayers → x.tail = true →
      (layerOut x l = none → Gives (arrive 0) s d) ∧
      (∀ o, layerOut x l = some o → Gives (arrive 0) s (modSeq t b (fun y => { y with outs := tput none y.outs l (some o) }) d)) ∧
      ((tget none x.far (8 * l + shard)).isSome = true → Gives (arrive 1) s d) ∧
      (shard < x.nShards → shard ≠ x.shard → ps.length = x.nKv * x.qPer → tget none x.far (8 * l + shard) = none →
        Answers (arrive 1) s (fun d' => tget none (lget {} (decOf d' t).seqs b).far (8 * l + shard) = some far ∧
          (∀ y, y ≠ b → lget {} (decOf d' t).seqs y = lget {} seqs y) ∧ (∀ k, k ≠ t → decOf d' k = decOf d k) ∧
          (layerOut { x with far := tput none x.far (8 * l + shard) (some far) } l = none → (lget {} (decOf d' t).seqs b).outs = x.outs) ∧
          (∀ o, layerOut { x with far := tput none x.far (8 * l + shard) (some far) } l = some o → tget none (lget {} (decOf d' t).seqs b).outs l = some o)))) ∧
    (stepLive d t = true → b < seqs.length → t < 2 ^ 40 →
      Gives (arrive 2) s (stopCmd t (match shard with | 0 => .linkDown | 1 => .windowFault | _ => .dataError) d) ∧ Gives (arrive 3) s d) ∧
    (4 ≤ d.boot.step →
      (n = regFld d (rAttnCfg die) 0 8 → Gives (.attnCfgWrite die val) s d8) ∧
      (n ≠ regFld d (rAttnCfg die) 0 8 → (attnBusy d die = true ∨ 192 < min 128 n + held) → Gives (.attnCfgWrite die val) s (setFld (rAttnStatus die) 1 1 1 d8)) ∧
      (n ≠ regFld d (rAttnCfg die) 0 8 → attnBusy d die = false → min 128 n + held ≤ 192 → Answers (.attnCfgWrite die val) s (fun d' =>
        regFld d' (rAttnCfg die) 0 8 = n ∧ regFld d' (rAttnCfg die) 8 1 = bitsOf val 8 1 ∧ d' = { d with regs := d'.regs })))

/-- R352 to R356, R362, R364, R368, R369. -/
def Obligations.TrainingSteps : Prop :=
  ∀ (q t : Nat) (fits hw : Bool) (init : List (List (Option Int × List Nat))) (grads : List (List (Int × List Nat))) (s : State), q < 8192 →
    wellFormed (.trainStep q t fits init) = true → wellFormed (.trainCommit q t grads hw) = true →
    let d := s.dev
    let m := cmdOf d t
    let id := cmdFld m 8 2
    let start := Instr.trainStep q t fits init
    let used := if cmdFld m 24 1 = 1 then min (cmdFld m 28 4) (ctxOf d (cmdFld m 26 2)).buf.recs.length else cmdFld m 28 4
    let commit := Instr.trainCommit q t grads hw
    let mine := decide (m.q = q) && decide (opcodeOf m = 0x23) && !frozenPart d (cmdPart d m)
    (cmdReady d 0x23 q t = true →
      (∀ st, trainRefused d m = some st → lrRefused d m = false → Gives start s (complete t st 0 d)) ∧
      (∀ st, trainRefused d m = some st → lrRefused d m = true → Gives start s (complete t st 0 (bump .trainLrRefused id 0 d))) ∧
      (∀ n tag, trainRefused d m = none → d.ep.stage = some (n, tag) →
        (used = 0 → Gives start s (complete t .ok 0 d)) ∧
        (used ≠ 0 → ownStaging d id tag = false → (fits = false ∨ sharesFit d (ctxOf d id) (ctxVer d id d.ep.curTag) = false) →
          Gives start s (complete t .noSpace 0 d)) ∧
        (used ≠ 0 → (ownStaging d id tag = true ∨ (fits = true ∧ sharesFit d (ctxOf d id) (ctxVer d id d.ep.curTag) = true)) → tag ≠ d.ep.curTag →
          Answers start s (fun d' => cmdOf d' t = { m with st := 1, aux := [0, n, used, 0] } ∧ ctxVer d' id d.ep.curTag = ctxVer d id d.ep.curTag ∧
            (ownStaging d id tag = true → (ctxVer d' id tag).vid = (ctxVer d id tag).vid) ∧ (ownStaging d id tag = false → (ctxVer d' id tag).vid = t) ∧
            (∀ y, y ≠ id → ctxOf d' y = ctxOf d y) ∧ d'.ep = d.ep ∧ d'.store.hbm = d.store.hbm)))) ∧
    (mine = false ∨ m.st = 0 → Gives commit s d) ∧
    (mine = true → m.st ≠ 0 → hw = true → Gives commit s (trainStop t .dataError d)) ∧
    (mine = true → hw = false → m.st = 4 → ∀ n tag, d.ep.stage = some (n, tag) →
      let v := ctxVer d id tag
      let loaded := d.comp.clusters.any (fun e => e.2.reload.contains v.vid) = false
      (¬ loaded → Gives commit s d) ∧
      (loaded → Answers commit s (fun d' => (ctxVer d' id tag).step = v.step + 1 ∧ (ctxVer d' id tag).tstate = v.tstate ∧
        d'.maint.all (fun r => r.tkt != t || t == 0) = true ∧ d'.comp.clusters = d.comp.clusters))) ∧
    (mine = true → hw = false → m.st = 1 → m.launched.isSome = true → cmdInvs d t = [] → ∀ n tag, d.ep.stage = some (n, tag) →
      let v := ctxVer d id tag
      let r := updateAll v m grads
      let cap := trainFld v 8 4
      let tooFar := isNan32 r.2.2 || vLt (f32Val (fpMul 15 cap cap)) (f32Val r.2.2)
      (n ≠ lget 0 m.aux 1 → Gives commit s (complete t .epochStale 0 d)) ∧
      (n = lget 0 m.aux 1 → gradsFit v grads = false → Gives commit s d) ∧
      (n = lget 0 m.aux 1 → gradsFit v grads = true →
        (r.2.1 = true → Gives commit s (complete t .dataError 0 (bump .trainNonfinite id 0 d))) ∧
        (r.2.1 = false → tooFar = true → Gives commit s (complete t .invalidField 0 (takeRecords m (bump .trainNormRefused id 0 d)))) ∧
        (r.2.1 = false → tooFar = false → maintBlocked d d.maint { act := 0x102, obj := id, src := 3, tkt := t, limit := beat d + 100000000 } = true →
          Answers commit s (fun d' => cmdOf d' t = { m with st := 3, aux := [0, lget 0 m.aux 1, lget 0 m.aux 2, r.2.2] } ∧
            (∀ tg, ctxVer d' id tg = ctxVer d id tg) ∧ (ctxOf d' id).work = trainedVersion v r.1 ∧
            d'.maint = d.maint ++ [{ act := 0x102, obj := id, src := 3, tkt := t, limit := beat d + 100000000 }]))))

/-- R16, R18, R436, R437, R439, R440, R613. -/
def Obligations.RegisterWrites : Prop :=
  (∀ (sp : RegSpec) (old v i : Nat), sp.rw < 2 ^ 32 → sp.w1c < 2 ^ 32 → sp.w1s < 2 ^ 32 → old < 2 ^ 32 → v < 2 ^ 32 → i < 32 →
    sp.rw &&& sp.w1c = 0 → sp.w1s &&& (sp.rw ||| sp.w1c) = 0 →
    bitOf (plainWrite sp old v) i = (if bitOf sp.rw i then bitOf v i else if bitOf sp.w1c i then bitOf old i && !bitOf v i
      else bitOf old i || (bitOf sp.w1s i && bitOf v i))) ∧
  ∀ (fn off val p cl pair : Nat) (fw : Bool) (s : State), fn < 128 → val < 2 ^ 32 → off % 4 = 0 → off < (if fn % 64 = 0 then 2 ^ 26 else 4096) →
    p < 64 → cl < 96 → pair < 64 →
    let d := s.dev
    let a := barAddr fn off
    let write (at_ : Nat) := Instr.registerWrite 0 at_ val fw
    let plain (at_ : Nat) (sp : RegSpec) : Prop := Answers (write at_) s (fun d' => regVal d' at_ = plainWrite sp (regVal d at_) val ∧
      (∀ y, y ≠ at_ → regVal d' y = regVal d y) ∧ d' = { d with regs := d'.regs })
    (regSpec a = none ∨ blockUp d a = false → Answers (.registerWrite fn off val fw) s (fun d' => d' = accessFaultOf fn 0 off 4 d ∧
      d'.comp = d.comp ∧ d'.store = d.store ∧ d'.pins = d.pins ∧ d'.pwr = d.pwr ∧ d'.parts = d.parts)) ∧
    (d.boot.step = 6 → ∀ sp, regSpec (rPwrPolicy cl) = some sp → plain (rPwrPolicy cl) sp) ∧
    (∀ sp, regSpec rThermCfg = some sp → plain rThermCfg sp) ∧
    (∀ sp, regSpec (rWdog p) = some sp → plain (rWdog p) sp) ∧
    (∀ sp, regSpec rMfioPark = some sp → plain rMfioPark sp) ∧
    (∀ sp, regSpec rMboxLen = some sp → plain rMboxLen sp) ∧
    (rSqBase pair < 2 ^ 26 → rSqBase pair % 4 = 0 → (pairOf d pair).enabled = true → Answers (write (rSqBase pair)) s (fun d' =>
      d'.regs = d.regs ∧ (pairOf d' pair).cfgErr = true ∧ (∀ y, y ≠ pair → pairOf d' y = pairOf d y) ∧ d' = { d with pairs := d'.pairs }))

/-- The queue is the model's form of a sequence of commands (log entry 1). -/
def Obligations.StepRunsFront : Prop :=
  ∀ (c : Instr) (rest : List Instr) (d : Dev), step { dev := d, pending := c :: rest } = exec c { dev := d, pending := rest }

/-- R510, R517, R521, R522; that a step on an empty queue is one nanosecond is the model's choice (log entry 8). -/
def Obligations.IdleStepsPassTime : Prop :=
  ∀ (d : Dev),
    let t := d.time
    let m := 2 ^ 48 * 1000000000
    ∃ d', step { dev := d } = .next { dev := d' } ∧
      (∃ k, k ≤ 2 ∧ d'.time.beat = (t.beat + k) % 2 ^ 64) ∧
      (t.steer = 0 → -1000000000 < t.bacc → t.bacc < 1000000000 → d'.time.beat = (t.beat + 1) % 2 ^ 64 ∧ d'.time.bacc = t.bacc) ∧
      (∃ k, k ≤ 3 ∧ d'.time.todNs = (t.todNs + k) % m) ∧
      (t.slew = 0 → t.tstate = 1 → -1000000000 < t.tacc → t.tacc < 1000000000 → -1000000000 < t.sacc → t.sacc < 1000000000 →
        d'.time.todNs = (t.todNs + 1) % m) ∧
      (-1000000000 < t.sacc → t.sacc < 1000000000 → d'.time.slew.natAbs ≤ t.slew.natAbs) ∧
      (t.lockSecs.length ≤ 16 → d'.time.lockSecs.length ≤ 16) ∧
      d'.regs = d.regs ∧ d'.hostMem = d.hostMem ∧ d'.store = d.store ∧ d'.edge = d.edge ∧ d'.fab = d.fab ∧ d'.ep = d.ep ∧ d'.parts = d.parts ∧
      d'.cmds = d.cmds ∧ d'.comp = d.comp ∧ d'.isl = d.isl ∧ d'.otp = d.otp ∧ d'.pins = d.pins ∧ d'.out = d.out

/-- R16, R397, R475, R510, R600, R613; OTP, NOR and memory contents at reset are the model's choice (log entries 3 and 6). -/
def Obligations.ResetState : Prop :=
  let d := State.reset.dev
  State.reset.pending = [] ∧ (∀ a, regVal d a = regResetOf a) ∧ (∀ c i j, ctrVal d c i j = 0) ∧ d.time.beat = 0 ∧ d.time.todNs = 0 ∧
    d.cmds = [] ∧ d.ctxs = [] ∧ d.tabVers = [] ∧ d.keyed = [] ∧ d.edge.rules = [] ∧ d.edge.frames = [] ∧ d.ep.cur = 1 ∧ d.ep.curTag = 0 ∧ d.ep.stage = some (2, 1) ∧ d.ep.drain = none ∧
    epochsOk d.ep = true ∧ d.fab.outs = [] ∧ d.isl.log = [] ∧ d.boot.ready = false ∧ d.boot.step = 0 ∧
    (∀ p, (partOf d p).exist = true → p < 2 ∧ (partOf d p).fn = 64 * p) ∧ memoriesOk d = true

/-- No ordinary data ends a run; the queue is the model's form of a sequence of commands. -/
def Obligations.QueuesRunToTheirEnd : Prop :=
  (∀ s : State, (∀ r, step s ≠ .refused r) ∧ (∀ f, step s = .fault f → ∃ c rest, s.pending = c :: rest ∧ wellFormed c = false)) ∧
  (∀ (n : Nat) (s : State), s.pending.all wellFormed = true →
    ∃ t, Host.Core.run Sys2Proof.core n s = .next t ∧ t.pending = s.pending.drop n ∧ t.pending.all wellFormed = true)

/-- R543, R602, R615 to R618, R622. -/
def Obligations.OtpOnlyGrows : Prop :=
  ∀ s t : State, step s = .next t →
    let o := s.dev.otp
    let o' := t.dev.otp
    o'.serial = o.serial ∧ o'.fwKeys = o.fwKeys ∧ o'.fwRevoked = o.fwRevoked ∧ o'.plynhar = o.plynhar ∧ o'.arrays = o.arrays ∧ o'.maps = o.maps ∧
    o.fuses ≤ o'.fuses ∧ o'.life.length = o.life.length ∧ (∀ j k, bitOf (lget 0 o.life j) k = true → bitOf (lget 0 o'.life j) k = true) ∧
    (∀ g, (tget {} o.gens g).used = true → (tget {} o'.gens g).used = true) ∧ (o.wipeDone = true → o'.wipeDone = true)

/-- That memory is a canonical list whose unlisted bytes read as zero is the model's choice (log entry 3). -/
def Obligations.MemoriesStayCanonical : Prop := Kept (fun s => memoriesOk s.dev = true)
end

