-- ==== Sys2Proof/Laws/Bits.lean ====
section
/-! SUPPORT. Laws of bit fields, of little-endian byte strings and of the reflected CRCs. -/

namespace Sys2Proof.Laws

open Sys2Proof.Machine

@[simp] theorem length_toLe (n v : Nat) : (toLe n v).length = n := by
  induction n generalizing v with
  | zero => rfl
  | succ n ih => simp [toLe, ih]

/-- Writing `n` bytes and reading them back keeps the low 8n bits. -/
theorem leNat_toLe (n v : Nat) : leNat (toLe n v) = v % 256 ^ n := by
  induction n generalizing v with
  | zero => simp [toLe, leNat, Nat.mod_one]
  | succ n ih =>
    simp only [toLe, leNat, ih, BitVec.toNat_ofNat]
    rw [show 256 ^ (n + 1) = 256 * 256 ^ n by rw [Nat.pow_succ, Nat.mul_comm], Nat.mod_mul]

theorem leNat_lt (bs : List Byte) : leNat bs < 256 ^ bs.length := by
  induction bs with
  | nil => simp [leNat]
  | cons b bs ih =>
    have hb := b.isLt
    simp only [leNat, List.length_cons, Nat.pow_succ]
    omega

/-- Reading a byte string and writing it back changes nothing. -/
theorem toLe_leNat (bs : List Byte) : toLe bs.length (leNat bs) = bs := by
  induction bs with
  | nil => rfl
  | cons b bs ih =>
    have hb := b.isLt
    have h : (b.toNat + 256 * leNat bs) / 256 = leNat bs := by omega
    simp only [List.length_cons, toLe, leNat, h, ih, List.cons.injEq, and_true]
    apply BitVec.eq_of_toNat_eq
    simp only [BitVec.toNat_ofNat]
    omega

theorem crcReflSteps_lt (p n c : Nat) (hp : p < 2 ^ 32) (hc : c < 2 ^ 32) : crcReflSteps p n c < 2 ^ 32 := by
  induction n generalizing c with
  | zero => exact hc
  | succ n ih =>
    apply ih
    have h : c / 2 < 2 ^ 32 := by omega
    split
    · exact Nat.xor_lt_two_pow h hp
    · exact h

/-- A reflected CRC of 32 bits stays a 32-bit number. -/
theorem crcRefl_lt (p init : Nat) (bs : List Byte) (hp : p < 2 ^ 32) (hi : init < 2 ^ 32) : crcRefl p init bs < 2 ^ 32 := by
  unfold crcRefl
  induction bs generalizing init with
  | nil => exact hi
  | cons b bs ih =>
    have hb : b.toNat < 2 ^ 32 := by have := b.isLt; omega
    exact ih _ (crcReflSteps_lt p 8 _ hp (Nat.xor_lt_two_pow hi hb))

end Sys2Proof.Laws
end

