-- ==== Sys2Proof/Laws/State.lean ====
section
/-! SUPPORT. What each update of the device leaves in each of its fields: the field it changes, and every other as it was. -/

namespace Sys2Proof.Machine

@[simp] theorem setReg_time (a v : Nat) (d : Dev) : (setReg a v d).time = d.time := (rfl)
@[simp] theorem setReg_regs (a v : Nat) (d : Dev) : (setReg a v d).regs = tput (regResetOf a) d.regs a v := (rfl)
@[simp] theorem setReg_ctr (a v : Nat) (d : Dev) : (setReg a v d).ctr = d.ctr := (rfl)
@[simp] theorem setReg_frozen (a v : Nat) (d : Dev) : (setReg a v d).frozen = d.frozen := (rfl)
@[simp] theorem setReg_hostMem (a v : Nat) (d : Dev) : (setReg a v d).hostMem = d.hostMem := (rfl)
@[simp] theorem setReg_edge (a v : Nat) (d : Dev) : (setReg a v d).edge = d.edge := (rfl)
@[simp] theorem setReg_out (a v : Nat) (d : Dev) : (setReg a v d).out = d.out := (rfl)
@[simp] theorem setReg_ctxs (a v : Nat) (d : Dev) : (setReg a v d).ctxs = d.ctxs := (rfl)
@[simp] theorem setReg_recPend (a v : Nat) (d : Dev) : (setReg a v d).recPend = d.recPend := (rfl)
@[simp] theorem setReg_comp (a v : Nat) (d : Dev) : (setReg a v d).comp = d.comp := (rfl)
@[simp] theorem setReg_store (a v : Nat) (d : Dev) : (setReg a v d).store = d.store := (rfl)
@[simp] theorem setReg_ep (a v : Nat) (d : Dev) : (setReg a v d).ep = d.ep := (rfl)
@[simp] theorem setReg_parts (a v : Nat) (d : Dev) : (setReg a v d).parts = d.parts := (rfl)
@[simp] theorem setReg_partOp (a v : Nat) (d : Dev) : (setReg a v d).partOp = d.partOp := (rfl)
@[simp] theorem setReg_pairs (a v : Nat) (d : Dev) : (setReg a v d).pairs = d.pairs := (rfl)
@[simp] theorem setReg_rrings (a v : Nat) (d : Dev) : (setReg a v d).rrings = d.rrings := (rfl)
@[simp] theorem setReg_cmds (a v : Nat) (d : Dev) : (setReg a v d).cmds = d.cmds := (rfl)
@[simp] theorem setReg_nextTkt (a v : Nat) (d : Dev) : (setReg a v d).nextTkt = d.nextTkt := (rfl)
@[simp] theorem setReg_msixOn (a v : Nat) (d : Dev) : (setReg a v d).msixOn = d.msixOn := (rfl)
@[simp] theorem setReg_msixPba (a v : Nat) (d : Dev) : (setReg a v d).msixPba = d.msixPba := (rfl)
@[simp] theorem setReg_errUp (a v : Nat) (d : Dev) : (setReg a v d).errUp = d.errUp := (rfl)
@[simp] theorem setReg_tabVers (a v : Nat) (d : Dev) : (setReg a v d).tabVers = d.tabVers := (rfl)
@[simp] theorem setReg_maint (a v : Nat) (d : Dev) : (setReg a v d).maint = d.maint := (rfl)
@[simp] theorem setReg_keyed (a v : Nat) (d : Dev) : (setReg a v d).keyed = d.keyed := (rfl)
@[simp] theorem setReg_txBk (a v : Nat) (d : Dev) : (setReg a v d).txBk = d.txBk := (rfl)
@[simp] theorem setReg_numVfs (a v : Nat) (d : Dev) : (setReg a v d).numVfs = d.numVfs := (rfl)
@[simp] theorem setReg_pcie (a v : Nat) (d : Dev) : (setReg a v d).pcie = d.pcie := (rfl)
@[simp] theorem setReg_fab (a v : Nat) (d : Dev) : (setReg a v d).fab = d.fab := (rfl)
@[simp] theorem setReg_isl (a v : Nat) (d : Dev) : (setReg a v d).isl = d.isl := (rfl)
@[simp] theorem setReg_otp (a v : Nat) (d : Dev) : (setReg a v d).otp = d.otp := (rfl)
@[simp] theorem setReg_boot (a v : Nat) (d : Dev) : (setReg a v d).boot = d.boot := (rfl)
@[simp] theorem setReg_pwr (a v : Nat) (d : Dev) : (setReg a v d).pwr = d.pwr := (rfl)
@[simp] theorem setReg_pins (a v : Nat) (d : Dev) : (setReg a v d).pins = d.pins := (rfl)
@[simp] theorem setReg_obs (a v : Nat) (d : Dev) : (setReg a v d).obs = d.obs := (rfl)
@[simp] theorem setReg_bridges (a v : Nat) (d : Dev) : (setReg a v d).bridges = d.bridges := (rfl)
@[simp] theorem setReg_free (a v : Nat) (d : Dev) : (setReg a v d).free = d.free := (rfl)

@[simp] theorem setFld_time (a lo w x : Nat) (d : Dev) : (setFld a lo w x d).time = d.time := (rfl)
@[simp] theorem setFld_ctr (a lo w x : Nat) (d : Dev) : (setFld a lo w x d).ctr = d.ctr := (rfl)
@[simp] theorem setFld_frozen (a lo w x : Nat) (d : Dev) : (setFld a lo w x d).frozen = d.frozen := (rfl)
@[simp] theorem setFld_hostMem (a lo w x : Nat) (d : Dev) : (setFld a lo w x d).hostMem = d.hostMem := (rfl)
@[simp] theorem setFld_edge (a lo w x : Nat) (d : Dev) : (setFld a lo w x d).edge = d.edge := (rfl)
@[simp] theorem setFld_out (a lo w x : Nat) (d : Dev) : (setFld a lo w x d).out = d.out := (rfl)
@[simp] theorem setFld_ctxs (a lo w x : Nat) (d : Dev) : (setFld a lo w x d).ctxs = d.ctxs := (rfl)
@[simp] theorem setFld_recPend (a lo w x : Nat) (d : Dev) : (setFld a lo w x d).recPend = d.recPend := (rfl)
@[simp] theorem setFld_comp (a lo w x : Nat) (d : Dev) : (setFld a lo w x d).comp = d.comp := (rfl)
@[simp] theorem setFld_store (a lo w x : Nat) (d : Dev) : (setFld a lo w x d).store = d.store := (rfl)
@[simp] theorem setFld_ep (a lo w x : Nat) (d : Dev) : (setFld a lo w x d).ep = d.ep := (rfl)
@[simp] theorem setFld_parts (a lo w x : Nat) (d : Dev) : (setFld a lo w x d).parts = d.parts := (rfl)
@[simp] theorem setFld_partOp (a lo w x : Nat) (d : Dev) : (setFld a lo w x d).partOp = d.partOp := (rfl)
@[simp] theorem setFld_pairs (a lo w x : Nat) (d : Dev) : (setFld a lo w x d).pairs = d.pairs := (rfl)
@[simp] theorem setFld_rrings (a lo w x : Nat) (d : Dev) : (setFld a lo w x d).rrings = d.rrings := (rfl)
@[simp] theorem setFld_cmds (a lo w x : Nat) (d : Dev) : (setFld a lo w x d).cmds = d.cmds := (rfl)
@[simp] theorem setFld_nextTkt (a lo w x : Nat) (d : Dev) : (setFld a lo w x d).nextTkt = d.nextTkt := (rfl)
@[simp] theorem setFld_msixOn (a lo w x : Nat) (d : Dev) : (setFld a lo w x d).msixOn = d.msixOn := (rfl)
@[simp] theorem setFld_msixPba (a lo w x : Nat) (d : Dev) : (setFld a lo w x d).msixPba = d.msixPba := (rfl)
@[simp] theorem setFld_errUp (a lo w x : Nat) (d : Dev) : (setFld a lo w x d).errUp = d.errUp := (rfl)
@[simp] theorem setFld_tabVers (a lo w x : Nat) (d : Dev) : (setFld a lo w x d).tabVers = d.tabVers := (rfl)
@[simp] theorem setFld_maint (a lo w x : Nat) (d : Dev) : (setFld a lo w x d).maint = d.maint := (rfl)
@[simp] theorem setFld_keyed (a lo w x : Nat) (d : Dev) : (setFld a lo w x d).keyed = d.keyed := (rfl)
@[simp] theorem setFld_txBk (a lo w x : Nat) (d : Dev) : (setFld a lo w x d).txBk = d.txBk := (rfl)
@[simp] theorem setFld_numVfs (a lo w x : Nat) (d : Dev) : (setFld a lo w x d).numVfs = d.numVfs := (rfl)
@[simp] theorem setFld_pcie (a lo w x : Nat) (d : Dev) : (setFld a lo w x d).pcie = d.pcie := (rfl)
@[simp] theorem setFld_fab (a lo w x : Nat) (d : Dev) : (setFld a lo w x d).fab = d.fab := (rfl)
@[simp] theorem setFld_isl (a lo w x : Nat) (d : Dev) : (setFld a lo w x d).isl = d.isl := (rfl)
@[simp] theorem setFld_otp (a lo w x : Nat) (d : Dev) : (setFld a lo w x d).otp = d.otp := (rfl)
@[simp] theorem setFld_boot (a lo w x : Nat) (d : Dev) : (setFld a lo w x d).boot = d.boot := (rfl)
@[simp] theorem setFld_pwr (a lo w x : Nat) (d : Dev) : (setFld a lo w x d).pwr = d.pwr := (rfl)
@[simp] theorem setFld_pins (a lo w x : Nat) (d : Dev) : (setFld a lo w x d).pins = d.pins := (rfl)
@[simp] theorem setFld_obs (a lo w x : Nat) (d : Dev) : (setFld a lo w x d).obs = d.obs := (rfl)
@[simp] theorem setFld_bridges (a lo w x : Nat) (d : Dev) : (setFld a lo w x d).bridges = d.bridges := (rfl)
@[simp] theorem setFld_free (a lo w x : Nat) (d : Dev) : (setFld a lo w x d).free = d.free := (rfl)

@[simp] theorem bumpN_time (c : Ctr) (i j n : Nat) (d : Dev) : (bumpN c i j n d).time = d.time := (rfl)
@[simp] theorem bumpN_regs (c : Ctr) (i j n : Nat) (d : Dev) : (bumpN c i j n d).regs = d.regs := (rfl)
@[simp] theorem bumpN_ctr (c : Ctr) (i j n : Nat) (d : Dev) : (bumpN c i j n d).ctr = tmod 0 d.ctr (ctrKey c i j) (· + n) := (rfl)
@[simp] theorem bumpN_frozen (c : Ctr) (i j n : Nat) (d : Dev) : (bumpN c i j n d).frozen = d.frozen := (rfl)
@[simp] theorem bumpN_hostMem (c : Ctr) (i j n : Nat) (d : Dev) : (bumpN c i j n d).hostMem = d.hostMem := (rfl)
@[simp] theorem bumpN_edge (c : Ctr) (i j n : Nat) (d : Dev) : (bumpN c i j n d).edge = d.edge := (rfl)
@[simp] theorem bumpN_out (c : Ctr) (i j n : Nat) (d : Dev) : (bumpN c i j n d).out = d.out := (rfl)
@[simp] theorem bumpN_ctxs (c : Ctr) (i j n : Nat) (d : Dev) : (bumpN c i j n d).ctxs = d.ctxs := (rfl)
@[simp] theorem bumpN_recPend (c : Ctr) (i j n : Nat) (d : Dev) : (bumpN c i j n d).recPend = d.recPend := (rfl)
@[simp] theorem bumpN_comp (c : Ctr) (i j n : Nat) (d : Dev) : (bumpN c i j n d).comp = d.comp := (rfl)
@[simp] theorem bumpN_store (c : Ctr) (i j n : Nat) (d : Dev) : (bumpN c i j n d).store = d.store := (rfl)
@[simp] theorem bumpN_ep (c : Ctr) (i j n : Nat) (d : Dev) : (bumpN c i j n d).ep = d.ep := (rfl)
@[simp] theorem bumpN_parts (c : Ctr) (i j n : Nat) (d : Dev) : (bumpN c i j n d).parts = d.parts := (rfl)
@[simp] theorem bumpN_partOp (c : Ctr) (i j n : Nat) (d : Dev) : (bumpN c i j n d).partOp = d.partOp := (rfl)
@[simp] theorem bumpN_pairs (c : Ctr) (i j n : Nat) (d : Dev) : (bumpN c i j n d).pairs = d.pairs := (rfl)
@[simp] theorem bumpN_rrings (c : Ctr) (i j n : Nat) (d : Dev) : (bumpN c i j n d).rrings = d.rrings := (rfl)
@[simp] theorem bumpN_cmds (c : Ctr) (i j n : Nat) (d : Dev) : (bumpN c i j n d).cmds = d.cmds := (rfl)
@[simp] theorem bumpN_nextTkt (c : Ctr) (i j n : Nat) (d : Dev) : (bumpN c i j n d).nextTkt = d.nextTkt := (rfl)
@[simp] theorem bumpN_msixOn (c : Ctr) (i j n : Nat) (d : Dev) : (bumpN c i j n d).msixOn = d.msixOn := (rfl)
@[simp] theorem bumpN_msixPba (c : Ctr) (i j n : Nat) (d : Dev) : (bumpN c i j n d).msixPba = d.msixPba := (rfl)
@[simp] theorem bumpN_errUp (c : Ctr) (i j n : Nat) (d : Dev) : (bumpN c i j n d).errUp = d.errUp := (rfl)
@[simp] theorem bumpN_tabVers (c : Ctr) (i j n : Nat) (d : Dev) : (bumpN c i j n d).tabVers = d.tabVers := (rfl)
@[simp] theorem bumpN_maint (c : Ctr) (i j n : Nat) (d : Dev) : (bumpN c i j n d).maint = d.maint := (rfl)
@[simp] theorem bumpN_keyed (c : Ctr) (i j n : Nat) (d : Dev) : (bumpN c i j n d).keyed = d.keyed := (rfl)
@[simp] theorem bumpN_txBk (c : Ctr) (i j n : Nat) (d : Dev) : (bumpN c i j n d).txBk = d.txBk := (rfl)
@[simp] theorem bumpN_numVfs (c : Ctr) (i j n : Nat) (d : Dev) : (bumpN c i j n d).numVfs = d.numVfs := (rfl)
@[simp] theorem bumpN_pcie (c : Ctr) (i j n : Nat) (d : Dev) : (bumpN c i j n d).pcie = d.pcie := (rfl)
@[simp] theorem bumpN_fab (c : Ctr) (i j n : Nat) (d : Dev) : (bumpN c i j n d).fab = d.fab := (rfl)
@[simp] theorem bumpN_isl (c : Ctr) (i j n : Nat) (d : Dev) : (bumpN c i j n d).isl = d.isl := (rfl)
@[simp] theorem bumpN_otp (c : Ctr) (i j n : Nat) (d : Dev) : (bumpN c i j n d).otp = d.otp := (rfl)
@[simp] theorem bumpN_boot (c : Ctr) (i j n : Nat) (d : Dev) : (bumpN c i j n d).boot = d.boot := (rfl)
@[simp] theorem bumpN_pwr (c : Ctr) (i j n : Nat) (d : Dev) : (bumpN c i j n d).pwr = d.pwr := (rfl)
@[simp] theorem bumpN_pins (c : Ctr) (i j n : Nat) (d : Dev) : (bumpN c i j n d).pins = d.pins := (rfl)
@[simp] theorem bumpN_obs (c : Ctr) (i j n : Nat) (d : Dev) : (bumpN c i j n d).obs = d.obs := (rfl)
@[simp] theorem bumpN_bridges (c : Ctr) (i j n : Nat) (d : Dev) : (bumpN c i j n d).bridges = d.bridges := (rfl)
@[simp] theorem bumpN_free (c : Ctr) (i j n : Nat) (d : Dev) : (bumpN c i j n d).free = d.free := (rfl)

@[simp] theorem bump_time (c : Ctr) (i j : Nat) (d : Dev) : (bump c i j d).time = d.time := (rfl)
@[simp] theorem bump_regs (c : Ctr) (i j : Nat) (d : Dev) : (bump c i j d).regs = d.regs := (rfl)
@[simp] theorem bump_frozen (c : Ctr) (i j : Nat) (d : Dev) : (bump c i j d).frozen = d.frozen := (rfl)
@[simp] theorem bump_hostMem (c : Ctr) (i j : Nat) (d : Dev) : (bump c i j d).hostMem = d.hostMem := (rfl)
@[simp] theorem bump_edge (c : Ctr) (i j : Nat) (d : Dev) : (bump c i j d).edge = d.edge := (rfl)
@[simp] theorem bump_out (c : Ctr) (i j : Nat) (d : Dev) : (bump c i j d).out = d.out := (rfl)
@[simp] theorem bump_ctxs (c : Ctr) (i j : Nat) (d : Dev) : (bump c i j d).ctxs = d.ctxs := (rfl)
@[simp] theorem bump_recPend (c : Ctr) (i j : Nat) (d : Dev) : (bump c i j d).recPend = d.recPend := (rfl)
@[simp] theorem bump_comp (c : Ctr) (i j : Nat) (d : Dev) : (bump c i j d).comp = d.comp := (rfl)
@[simp] theorem bump_store (c : Ctr) (i j : Nat) (d : Dev) : (bump c i j d).store = d.store := (rfl)
@[simp] theorem bump_ep (c : Ctr) (i j : Nat) (d : Dev) : (bump c i j d).ep = d.ep := (rfl)
@[simp] theorem bump_parts (c : Ctr) (i j : Nat) (d : Dev) : (bump c i j d).parts = d.parts := (rfl)
@[simp] theorem bump_partOp (c : Ctr) (i j : Nat) (d : Dev) : (bump c i j d).partOp = d.partOp := (rfl)
@[simp] theorem bump_pairs (c : Ctr) (i j : Nat) (d : Dev) : (bump c i j d).pairs = d.pairs := (rfl)
@[simp] theorem bump_rrings (c : Ctr) (i j : Nat) (d : Dev) : (bump c i j d).rrings = d.rrings := (rfl)
@[simp] theorem bump_cmds (c : Ctr) (i j : Nat) (d : Dev) : (bump c i j d).cmds = d.cmds := (rfl)
@[simp] theorem bump_nextTkt (c : Ctr) (i j : Nat) (d : Dev) : (bump c i j d).nextTkt = d.nextTkt := (rfl)
@[simp] theorem bump_msixOn (c : Ctr) (i j : Nat) (d : Dev) : (bump c i j d).msixOn = d.msixOn := (rfl)
@[simp] theorem bump_msixPba (c : Ctr) (i j : Nat) (d : Dev) : (bump c i j d).msixPba = d.msixPba := (rfl)
@[simp] theorem bump_errUp (c : Ctr) (i j : Nat) (d : Dev) : (bump c i j d).errUp = d.errUp := (rfl)
@[simp] theorem bump_tabVers (c : Ctr) (i j : Nat) (d : Dev) : (bump c i j d).tabVers = d.tabVers := (rfl)
@[simp] theorem bump_maint (c : Ctr) (i j : Nat) (d : Dev) : (bump c i j d).maint = d.maint := (rfl)
@[simp] theorem bump_keyed (c : Ctr) (i j : Nat) (d : Dev) : (bump c i j d).keyed = d.keyed := (rfl)
@[simp] theorem bump_txBk (c : Ctr) (i j : Nat) (d : Dev) : (bump c i j d).txBk = d.txBk := (rfl)
@[simp] theorem bump_numVfs (c : Ctr) (i j : Nat) (d : Dev) : (bump c i j d).numVfs = d.numVfs := (rfl)
@[simp] theorem bump_pcie (c : Ctr) (i j : Nat) (d : Dev) : (bump c i j d).pcie = d.pcie := (rfl)
@[simp] theorem bump_fab (c : Ctr) (i j : Nat) (d : Dev) : (bump c i j d).fab = d.fab := (rfl)
@[simp] theorem bump_isl (c : Ctr) (i j : Nat) (d : Dev) : (bump c i j d).isl = d.isl := (rfl)
@[simp] theorem bump_otp (c : Ctr) (i j : Nat) (d : Dev) : (bump c i j d).otp = d.otp := (rfl)
@[simp] theorem bump_boot (c : Ctr) (i j : Nat) (d : Dev) : (bump c i j d).boot = d.boot := (rfl)
@[simp] theorem bump_pwr (c : Ctr) (i j : Nat) (d : Dev) : (bump c i j d).pwr = d.pwr := (rfl)
@[simp] theorem bump_pins (c : Ctr) (i j : Nat) (d : Dev) : (bump c i j d).pins = d.pins := (rfl)
@[simp] theorem bump_obs (c : Ctr) (i j : Nat) (d : Dev) : (bump c i j d).obs = d.obs := (rfl)
@[simp] theorem bump_bridges (c : Ctr) (i j : Nat) (d : Dev) : (bump c i j d).bridges = d.bridges := (rfl)
@[simp] theorem bump_free (c : Ctr) (i j : Nat) (d : Dev) : (bump c i j d).free = d.free := (rfl)

@[simp] theorem emit_time (o : Out) (d : Dev) : (emit o d).time = d.time := (rfl)
@[simp] theorem emit_regs (o : Out) (d : Dev) : (emit o d).regs = d.regs := (rfl)
@[simp] theorem emit_ctr (o : Out) (d : Dev) : (emit o d).ctr = d.ctr := (rfl)
@[simp] theorem emit_frozen (o : Out) (d : Dev) : (emit o d).frozen = d.frozen := (rfl)
@[simp] theorem emit_hostMem (o : Out) (d : Dev) : (emit o d).hostMem = d.hostMem := (rfl)
@[simp] theorem emit_edge (o : Out) (d : Dev) : (emit o d).edge = d.edge := (rfl)
@[simp] theorem emit_out (o : Out) (d : Dev) : (emit o d).out = d.out ++ [o] := (rfl)
@[simp] theorem emit_ctxs (o : Out) (d : Dev) : (emit o d).ctxs = d.ctxs := (rfl)
@[simp] theorem emit_recPend (o : Out) (d : Dev) : (emit o d).recPend = d.recPend := (rfl)
@[simp] theorem emit_comp (o : Out) (d : Dev) : (emit o d).comp = d.comp := (rfl)
@[simp] theorem emit_store (o : Out) (d : Dev) : (emit o d).store = d.store := (rfl)
@[simp] theorem emit_ep (o : Out) (d : Dev) : (emit o d).ep = d.ep := (rfl)
@[simp] theorem emit_parts (o : Out) (d : Dev) : (emit o d).parts = d.parts := (rfl)
@[simp] theorem emit_partOp (o : Out) (d : Dev) : (emit o d).partOp = d.partOp := (rfl)
@[simp] theorem emit_pairs (o : Out) (d : Dev) : (emit o d).pairs = d.pairs := (rfl)
@[simp] theorem emit_rrings (o : Out) (d : Dev) : (emit o d).rrings = d.rrings := (rfl)
@[simp] theorem emit_cmds (o : Out) (d : Dev) : (emit o d).cmds = d.cmds := (rfl)
@[simp] theorem emit_nextTkt (o : Out) (d : Dev) : (emit o d).nextTkt = d.nextTkt := (rfl)
@[simp] theorem emit_msixOn (o : Out) (d : Dev) : (emit o d).msixOn = d.msixOn := (rfl)
@[simp] theorem emit_msixPba (o : Out) (d : Dev) : (emit o d).msixPba = d.msixPba := (rfl)
@[simp] theorem emit_errUp (o : Out) (d : Dev) : (emit o d).errUp = d.errUp := (rfl)
@[simp] theorem emit_tabVers (o : Out) (d : Dev) : (emit o d).tabVers = d.tabVers := (rfl)
@[simp] theorem emit_maint (o : Out) (d : Dev) : (emit o d).maint = d.maint := (rfl)
@[simp] theorem emit_keyed (o : Out) (d : Dev) : (emit o d).keyed = d.keyed := (rfl)
@[simp] theorem emit_txBk (o : Out) (d : Dev) : (emit o d).txBk = d.txBk := (rfl)
@[simp] theorem emit_numVfs (o : Out) (d : Dev) : (emit o d).numVfs = d.numVfs := (rfl)
@[simp] theorem emit_pcie (o : Out) (d : Dev) : (emit o d).pcie = d.pcie := (rfl)
@[simp] theorem emit_fab (o : Out) (d : Dev) : (emit o d).fab = d.fab := (rfl)
@[simp] theorem emit_isl (o : Out) (d : Dev) : (emit o d).isl = d.isl := (rfl)
@[simp] theorem emit_otp (o : Out) (d : Dev) : (emit o d).otp = d.otp := (rfl)
@[simp] theorem emit_boot (o : Out) (d : Dev) : (emit o d).boot = d.boot := (rfl)
@[simp] theorem emit_pwr (o : Out) (d : Dev) : (emit o d).pwr = d.pwr := (rfl)
@[simp] theorem emit_pins (o : Out) (d : Dev) : (emit o d).pins = d.pins := (rfl)
@[simp] theorem emit_obs (o : Out) (d : Dev) : (emit o d).obs = d.obs := (rfl)
@[simp] theorem emit_bridges (o : Out) (d : Dev) : (emit o d).bridges = d.bridges := (rfl)
@[simp] theorem emit_free (o : Out) (d : Dev) : (emit o d).free = d.free := (rfl)

@[simp] theorem freshStep_time (d : Dev) : (freshStep d).time = d.time := (rfl)
@[simp] theorem freshStep_regs (d : Dev) : (freshStep d).regs = d.regs := (rfl)
@[simp] theorem freshStep_ctr (d : Dev) : (freshStep d).ctr = d.ctr := (rfl)
@[simp] theorem freshStep_frozen (d : Dev) : (freshStep d).frozen = d.frozen := (rfl)
@[simp] theorem freshStep_hostMem (d : Dev) : (freshStep d).hostMem = d.hostMem := (rfl)
@[simp] theorem freshStep_edge (d : Dev) : (freshStep d).edge = d.edge := (rfl)
@[simp] theorem freshStep_out (d : Dev) : (freshStep d).out = d.out := (rfl)
@[simp] theorem freshStep_ctxs (d : Dev) : (freshStep d).ctxs = d.ctxs := (rfl)
@[simp] theorem freshStep_recPend (d : Dev) : (freshStep d).recPend = d.recPend := (rfl)
@[simp] theorem freshStep_comp (d : Dev) : (freshStep d).comp = d.comp := (rfl)
@[simp] theorem freshStep_store (d : Dev) : (freshStep d).store = d.store := (rfl)
@[simp] theorem freshStep_ep (d : Dev) : (freshStep d).ep = d.ep := (rfl)
@[simp] theorem freshStep_parts (d : Dev) : (freshStep d).parts = d.parts := (rfl)
@[simp] theorem freshStep_partOp (d : Dev) : (freshStep d).partOp = d.partOp := (rfl)
@[simp] theorem freshStep_pairs (d : Dev) : (freshStep d).pairs = d.pairs := (rfl)
@[simp] theorem freshStep_rrings (d : Dev) : (freshStep d).rrings = d.rrings := (rfl)
@[simp] theorem freshStep_cmds (d : Dev) : (freshStep d).cmds = d.cmds := (rfl)
@[simp] theorem freshStep_nextTkt (d : Dev) : (freshStep d).nextTkt = d.nextTkt := (rfl)
@[simp] theorem freshStep_msixOn (d : Dev) : (freshStep d).msixOn = d.msixOn := (rfl)
@[simp] theorem freshStep_msixPba (d : Dev) : (freshStep d).msixPba = d.msixPba := (rfl)
@[simp] theorem freshStep_errUp (d : Dev) : (freshStep d).errUp = d.errUp := (rfl)
@[simp] theorem freshStep_tabVers (d : Dev) : (freshStep d).tabVers = d.tabVers := (rfl)
@[simp] theorem freshStep_maint (d : Dev) : (freshStep d).maint = d.maint := (rfl)
@[simp] theorem freshStep_keyed (d : Dev) : (freshStep d).keyed = d.keyed := (rfl)
@[simp] theorem freshStep_txBk (d : Dev) : (freshStep d).txBk = d.txBk := (rfl)
@[simp] theorem freshStep_numVfs (d : Dev) : (freshStep d).numVfs = d.numVfs := (rfl)
@[simp] theorem freshStep_pcie (d : Dev) : (freshStep d).pcie = d.pcie := (rfl)
@[simp] theorem freshStep_fab (d : Dev) : (freshStep d).fab = d.fab := (rfl)
@[simp] theorem freshStep_isl (d : Dev) : (freshStep d).isl = d.isl := (rfl)
@[simp] theorem freshStep_otp (d : Dev) : (freshStep d).otp = d.otp := (rfl)
@[simp] theorem freshStep_boot (d : Dev) : (freshStep d).boot = d.boot := (rfl)
@[simp] theorem freshStep_pwr (d : Dev) : (freshStep d).pwr = d.pwr := (rfl)
@[simp] theorem freshStep_pins (d : Dev) : (freshStep d).pins = d.pins := (rfl)
@[simp] theorem freshStep_obs (d : Dev) : (freshStep d).obs = d.obs := (rfl)
@[simp] theorem freshStep_bridges (d : Dev) : (freshStep d).bridges = d.bridges := (rfl)
@[simp] theorem freshStep_free (d : Dev) : (freshStep d).free = d.free + 1 := (rfl)

@[simp] theorem postRec_time (fn r : Nat) (x : Rec) (d : Dev) : (postRec fn r x d).time = d.time := (rfl)
@[simp] theorem postRec_regs (fn r : Nat) (x : Rec) (d : Dev) : (postRec fn r x d).regs = d.regs := (rfl)
@[simp] theorem postRec_ctr (fn r : Nat) (x : Rec) (d : Dev) : (postRec fn r x d).ctr = d.ctr := (rfl)
@[simp] theorem postRec_frozen (fn r : Nat) (x : Rec) (d : Dev) : (postRec fn r x d).frozen = d.frozen := (rfl)
@[simp] theorem postRec_hostMem (fn r : Nat) (x : Rec) (d : Dev) : (postRec fn r x d).hostMem = d.hostMem := (rfl)
@[simp] theorem postRec_edge (fn r : Nat) (x : Rec) (d : Dev) : (postRec fn r x d).edge = d.edge := (rfl)
@[simp] theorem postRec_out (fn r : Nat) (x : Rec) (d : Dev) : (postRec fn r x d).out = d.out := (rfl)
@[simp] theorem postRec_ctxs (fn r : Nat) (x : Rec) (d : Dev) : (postRec fn r x d).ctxs = d.ctxs := (rfl)
@[simp] theorem postRec_recPend (fn r : Nat) (x : Rec) (d : Dev) : (postRec fn r x d).recPend = tmod [] d.recPend (32 * fn + r) (· ++ [x]) := (rfl)
@[simp] theorem postRec_comp (fn r : Nat) (x : Rec) (d : Dev) : (postRec fn r x d).comp = d.comp := (rfl)
@[simp] theorem postRec_store (fn r : Nat) (x : Rec) (d : Dev) : (postRec fn r x d).store = d.store := (rfl)
@[simp] theorem postRec_ep (fn r : Nat) (x : Rec) (d : Dev) : (postRec fn r x d).ep = d.ep := (rfl)
@[simp] theorem postRec_parts (fn r : Nat) (x : Rec) (d : Dev) : (postRec fn r x d).parts = d.parts := (rfl)
@[simp] theorem postRec_partOp (fn r : Nat) (x : Rec) (d : Dev) : (postRec fn r x d).partOp = d.partOp := (rfl)
@[simp] theorem postRec_pairs (fn r : Nat) (x : Rec) (d : Dev) : (postRec fn r x d).pairs = d.pairs := (rfl)
@[simp] theorem postRec_rrings (fn r : Nat) (x : Rec) (d : Dev) : (postRec fn r x d).rrings = d.rrings := (rfl)
@[simp] theorem postRec_cmds (fn r : Nat) (x : Rec) (d : Dev) : (postRec fn r x d).cmds = d.cmds := (rfl)
@[simp] theorem postRec_nextTkt (fn r : Nat) (x : Rec) (d : Dev) : (postRec fn r x d).nextTkt = d.nextTkt := (rfl)
@[simp] theorem postRec_msixOn (fn r : Nat) (x : Rec) (d : Dev) : (postRec fn r x d).msixOn = d.msixOn := (rfl)
@[simp] theorem postRec_msixPba (fn r : Nat) (x : Rec) (d : Dev) : (postRec fn r x d).msixPba = d.msixPba := (rfl)
@[simp] theorem postRec_errUp (fn r : Nat) (x : Rec) (d : Dev) : (postRec fn r x d).errUp = d.errUp := (rfl)
@[simp] theorem postRec_tabVers (fn r : Nat) (x : Rec) (d : Dev) : (postRec fn r x d).tabVers = d.tabVers := (rfl)
@[simp] theorem postRec_maint (fn r : Nat) (x : Rec) (d : Dev) : (postRec fn r x d).maint = d.maint := (rfl)
@[simp] theorem postRec_keyed (fn r : Nat) (x : Rec) (d : Dev) : (postRec fn r x d).keyed = d.keyed := (rfl)
@[simp] theorem postRec_txBk (fn r : Nat) (x : Rec) (d : Dev) : (postRec fn r x d).txBk = d.txBk := (rfl)
@[simp] theorem postRec_numVfs (fn r : Nat) (x : Rec) (d : Dev) : (postRec fn r x d).numVfs = d.numVfs := (rfl)
@[simp] theorem postRec_pcie (fn r : Nat) (x : Rec) (d : Dev) : (postRec fn r x d).pcie = d.pcie := (rfl)
@[simp] theorem postRec_fab (fn r : Nat) (x : Rec) (d : Dev) : (postRec fn r x d).fab = d.fab := (rfl)
@[simp] theorem postRec_isl (fn r : Nat) (x : Rec) (d : Dev) : (postRec fn r x d).isl = d.isl := (rfl)
@[simp] theorem postRec_otp (fn r : Nat) (x : Rec) (d : Dev) : (postRec fn r x d).otp = d.otp := (rfl)
@[simp] theorem postRec_boot (fn r : Nat) (x : Rec) (d : Dev) : (postRec fn r x d).boot = d.boot := (rfl)
@[simp] theorem postRec_pwr (fn r : Nat) (x : Rec) (d : Dev) : (postRec fn r x d).pwr = d.pwr := (rfl)
@[simp] theorem postRec_pins (fn r : Nat) (x : Rec) (d : Dev) : (postRec fn r x d).pins = d.pins := (rfl)
@[simp] theorem postRec_obs (fn r : Nat) (x : Rec) (d : Dev) : (postRec fn r x d).obs = d.obs := (rfl)
@[simp] theorem postRec_bridges (fn r : Nat) (x : Rec) (d : Dev) : (postRec fn r x d).bridges = d.bridges := (rfl)
@[simp] theorem postRec_free (fn r : Nat) (x : Rec) (d : Dev) : (postRec fn r x d).free = d.free := (rfl)

@[simp] theorem onEdge_time (f : Edge → Edge) (d : Dev) : (onEdge f d).time = d.time := (rfl)
@[simp] theorem onEdge_regs (f : Edge → Edge) (d : Dev) : (onEdge f d).regs = d.regs := (rfl)
@[simp] theorem onEdge_ctr (f : Edge → Edge) (d : Dev) : (onEdge f d).ctr = d.ctr := (rfl)
@[simp] theorem onEdge_frozen (f : Edge → Edge) (d : Dev) : (onEdge f d).frozen = d.frozen := (rfl)
@[simp] theorem onEdge_hostMem (f : Edge → Edge) (d : Dev) : (onEdge f d).hostMem = d.hostMem := (rfl)
@[simp] theorem onEdge_edge (f : Edge → Edge) (d : Dev) : (onEdge f d).edge = f d.edge := (rfl)
@[simp] theorem onEdge_out (f : Edge → Edge) (d : Dev) : (onEdge f d).out = d.out := (rfl)
@[simp] theorem onEdge_ctxs (f : Edge → Edge) (d : Dev) : (onEdge f d).ctxs = d.ctxs := (rfl)
@[simp] theorem onEdge_recPend (f : Edge → Edge) (d : Dev) : (onEdge f d).recPend = d.recPend := (rfl)
@[simp] theorem onEdge_comp (f : Edge → Edge) (d : Dev) : (onEdge f d).comp = d.comp := (rfl)
@[simp] theorem onEdge_store (f : Edge → Edge) (d : Dev) : (onEdge f d).store = d.store := (rfl)
@[simp] theorem onEdge_ep (f : Edge → Edge) (d : Dev) : (onEdge f d).ep = d.ep := (rfl)
@[simp] theorem onEdge_parts (f : Edge → Edge) (d : Dev) : (onEdge f d).parts = d.parts := (rfl)
@[simp] theorem onEdge_partOp (f : Edge → Edge) (d : Dev) : (onEdge f d).partOp = d.partOp := (rfl)
@[simp] theorem onEdge_pairs (f : Edge → Edge) (d : Dev) : (onEdge f d).pairs = d.pairs := (rfl)
@[simp] theorem onEdge_rrings (f : Edge → Edge) (d : Dev) : (onEdge f d).rrings = d.rrings := (rfl)
@[simp] theorem onEdge_cmds (f : Edge → Edge) (d : Dev) : (onEdge f d).cmds = d.cmds := (rfl)
@[simp] theorem onEdge_nextTkt (f : Edge → Edge) (d : Dev) : (onEdge f d).nextTkt = d.nextTkt := (rfl)
@[simp] theorem onEdge_msixOn (f : Edge → Edge) (d : Dev) : (onEdge f d).msixOn = d.msixOn := (rfl)
@[simp] theorem onEdge_msixPba (f : Edge → Edge) (d : Dev) : (onEdge f d).msixPba = d.msixPba := (rfl)
@[simp] theorem onEdge_errUp (f : Edge → Edge) (d : Dev) : (onEdge f d).errUp = d.errUp := (rfl)
@[simp] theorem onEdge_tabVers (f : Edge → Edge) (d : Dev) : (onEdge f d).tabVers = d.tabVers := (rfl)
@[simp] theorem onEdge_maint (f : Edge → Edge) (d : Dev) : (onEdge f d).maint = d.maint := (rfl)
@[simp] theorem onEdge_keyed (f : Edge → Edge) (d : Dev) : (onEdge f d).keyed = d.keyed := (rfl)
@[simp] theorem onEdge_txBk (f : Edge → Edge) (d : Dev) : (onEdge f d).txBk = d.txBk := (rfl)
@[simp] theorem onEdge_numVfs (f : Edge → Edge) (d : Dev) : (onEdge f d).numVfs = d.numVfs := (rfl)
@[simp] theorem onEdge_pcie (f : Edge → Edge) (d : Dev) : (onEdge f d).pcie = d.pcie := (rfl)
@[simp] theorem onEdge_fab (f : Edge → Edge) (d : Dev) : (onEdge f d).fab = d.fab := (rfl)
@[simp] theorem onEdge_isl (f : Edge → Edge) (d : Dev) : (onEdge f d).isl = d.isl := (rfl)
@[simp] theorem onEdge_otp (f : Edge → Edge) (d : Dev) : (onEdge f d).otp = d.otp := (rfl)
@[simp] theorem onEdge_boot (f : Edge → Edge) (d : Dev) : (onEdge f d).boot = d.boot := (rfl)
@[simp] theorem onEdge_pwr (f : Edge → Edge) (d : Dev) : (onEdge f d).pwr = d.pwr := (rfl)
@[simp] theorem onEdge_pins (f : Edge → Edge) (d : Dev) : (onEdge f d).pins = d.pins := (rfl)
@[simp] theorem onEdge_obs (f : Edge → Edge) (d : Dev) : (onEdge f d).obs = d.obs := (rfl)
@[simp] theorem onEdge_bridges (f : Edge → Edge) (d : Dev) : (onEdge f d).bridges = d.bridges := (rfl)
@[simp] theorem onEdge_free (f : Edge → Edge) (d : Dev) : (onEdge f d).free = d.free := (rfl)

@[simp] theorem onComp_time (f : Compute → Compute) (d : Dev) : (onComp f d).time = d.time := (rfl)
@[simp] theorem onComp_regs (f : Compute → Compute) (d : Dev) : (onComp f d).regs = d.regs := (rfl)
@[simp] theorem onComp_ctr (f : Compute → Compute) (d : Dev) : (onComp f d).ctr = d.ctr := (rfl)
@[simp] theorem onComp_frozen (f : Compute → Compute) (d : Dev) : (onComp f d).frozen = d.frozen := (rfl)
@[simp] theorem onComp_hostMem (f : Compute → Compute) (d : Dev) : (onComp f d).hostMem = d.hostMem := (rfl)
@[simp] theorem onComp_edge (f : Compute → Compute) (d : Dev) : (onComp f d).edge = d.edge := (rfl)
@[simp] theorem onComp_out (f : Compute → Compute) (d : Dev) : (onComp f d).out = d.out := (rfl)
@[simp] theorem onComp_ctxs (f : Compute → Compute) (d : Dev) : (onComp f d).ctxs = d.ctxs := (rfl)
@[simp] theorem onComp_recPend (f : Compute → Compute) (d : Dev) : (onComp f d).recPend = d.recPend := (rfl)
@[simp] theorem onComp_comp (f : Compute → Compute) (d : Dev) : (onComp f d).comp = f d.comp := (rfl)
@[simp] theorem onComp_store (f : Compute → Compute) (d : Dev) : (onComp f d).store = d.store := (rfl)
@[simp] theorem onComp_ep (f : Compute → Compute) (d : Dev) : (onComp f d).ep = d.ep := (rfl)
@[simp] theorem onComp_parts (f : Compute → Compute) (d : Dev) : (onComp f d).parts = d.parts := (rfl)
@[simp] theorem onComp_partOp (f : Compute → Compute) (d : Dev) : (onComp f d).partOp = d.partOp := (rfl)
@[simp] theorem onComp_pairs (f : Compute → Compute) (d : Dev) : (onComp f d).pairs = d.pairs := (rfl)
@[simp] theorem onComp_rrings (f : Compute → Compute) (d : Dev) : (onComp f d).rrings = d.rrings := (rfl)
@[simp] theorem onComp_cmds (f : Compute → Compute) (d : Dev) : (onComp f d).cmds = d.cmds := (rfl)
@[simp] theorem onComp_nextTkt (f : Compute → Compute) (d : Dev) : (onComp f d).nextTkt = d.nextTkt := (rfl)
@[simp] theorem onComp_msixOn (f : Compute → Compute) (d : Dev) : (onComp f d).msixOn = d.msixOn := (rfl)
@[simp] theorem onComp_msixPba (f : Compute → Compute) (d : Dev) : (onComp f d).msixPba = d.msixPba := (rfl)
@[simp] theorem onComp_errUp (f : Compute → Compute) (d : Dev) : (onComp f d).errUp = d.errUp := (rfl)
@[simp] theorem onComp_tabVers (f : Compute → Compute) (d : Dev) : (onComp f d).tabVers = d.tabVers := (rfl)
@[simp] theorem onComp_maint (f : Compute → Compute) (d : Dev) : (onComp f d).maint = d.maint := (rfl)
@[simp] theorem onComp_keyed (f : Compute → Compute) (d : Dev) : (onComp f d).keyed = d.keyed := (rfl)
@[simp] theorem onComp_txBk (f : Compute → Compute) (d : Dev) : (onComp f d).txBk = d.txBk := (rfl)
@[simp] theorem onComp_numVfs (f : Compute → Compute) (d : Dev) : (onComp f d).numVfs = d.numVfs := (rfl)
@[simp] theorem onComp_pcie (f : Compute → Compute) (d : Dev) : (onComp f d).pcie = d.pcie := (rfl)
@[simp] theorem onComp_fab (f : Compute → Compute) (d : Dev) : (onComp f d).fab = d.fab := (rfl)
@[simp] theorem onComp_isl (f : Compute → Compute) (d : Dev) : (onComp f d).isl = d.isl := (rfl)
@[simp] theorem onComp_otp (f : Compute → Compute) (d : Dev) : (onComp f d).otp = d.otp := (rfl)
@[simp] theorem onComp_boot (f : Compute → Compute) (d : Dev) : (onComp f d).boot = d.boot := (rfl)
@[simp] theorem onComp_pwr (f : Compute → Compute) (d : Dev) : (onComp f d).pwr = d.pwr := (rfl)
@[simp] theorem onComp_pins (f : Compute → Compute) (d : Dev) : (onComp f d).pins = d.pins := (rfl)
@[simp] theorem onComp_obs (f : Compute → Compute) (d : Dev) : (onComp f d).obs = d.obs := (rfl)
@[simp] theorem onComp_bridges (f : Compute → Compute) (d : Dev) : (onComp f d).bridges = d.bridges := (rfl)
@[simp] theorem onComp_free (f : Compute → Compute) (d : Dev) : (onComp f d).free = d.free := (rfl)

@[simp] theorem onStore_time (f : Store → Store) (d : Dev) : (onStore f d).time = d.time := (rfl)
@[simp] theorem onStore_regs (f : Store → Store) (d : Dev) : (onStore f d).regs = d.regs := (rfl)
@[simp] theorem onStore_ctr (f : Store → Store) (d : Dev) : (onStore f d).ctr = d.ctr := (rfl)
@[simp] theorem onStore_frozen (f : Store → Store) (d : Dev) : (onStore f d).frozen = d.frozen := (rfl)
@[simp] theorem onStore_hostMem (f : Store → Store) (d : Dev) : (onStore f d).hostMem = d.hostMem := (rfl)
@[simp] theorem onStore_edge (f : Store → Store) (d : Dev) : (onStore f d).edge = d.edge := (rfl)
@[simp] theorem onStore_out (f : Store → Store) (d : Dev) : (onStore f d).out = d.out := (rfl)
@[simp] theorem onStore_ctxs (f : Store → Store) (d : Dev) : (onStore f d).ctxs = d.ctxs := (rfl)
@[simp] theorem onStore_recPend (f : Store → Store) (d : Dev) : (onStore f d).recPend = d.recPend := (rfl)
@[simp] theorem onStore_comp (f : Store → Store) (d : Dev) : (onStore f d).comp = d.comp := (rfl)
@[simp] theorem onStore_store (f : Store → Store) (d : Dev) : (onStore f d).store = f d.store := (rfl)
@[simp] theorem onStore_ep (f : Store → Store) (d : Dev) : (onStore f d).ep = d.ep := (rfl)
@[simp] theorem onStore_parts (f : Store → Store) (d : Dev) : (onStore f d).parts = d.parts := (rfl)
@[simp] theorem onStore_partOp (f : Store → Store) (d : Dev) : (onStore f d).partOp = d.partOp := (rfl)
@[simp] theorem onStore_pairs (f : Store → Store) (d : Dev) : (onStore f d).pairs = d.pairs := (rfl)
@[simp] theorem onStore_rrings (f : Store → Store) (d : Dev) : (onStore f d).rrings = d.rrings := (rfl)
@[simp] theorem onStore_cmds (f : Store → Store) (d : Dev) : (onStore f d).cmds = d.cmds := (rfl)
@[simp] theorem onStore_nextTkt (f : Store → Store) (d : Dev) : (onStore f d).nextTkt = d.nextTkt := (rfl)
@[simp] theorem onStore_msixOn (f : Store → Store) (d : Dev) : (onStore f d).msixOn = d.msixOn := (rfl)
@[simp] theorem onStore_msixPba (f : Store → Store) (d : Dev) : (onStore f d).msixPba = d.msixPba := (rfl)
@[simp] theorem onStore_errUp (f : Store → Store) (d : Dev) : (onStore f d).errUp = d.errUp := (rfl)
@[simp] theorem onStore_tabVers (f : Store → Store) (d : Dev) : (onStore f d).tabVers = d.tabVers := (rfl)
@[simp] theorem onStore_maint (f : Store → Store) (d : Dev) : (onStore f d).maint = d.maint := (rfl)
@[simp] theorem onStore_keyed (f : Store → Store) (d : Dev) : (onStore f d).keyed = d.keyed := (rfl)
@[simp] theorem onStore_txBk (f : Store → Store) (d : Dev) : (onStore f d).txBk = d.txBk := (rfl)
@[simp] theorem onStore_numVfs (f : Store → Store) (d : Dev) : (onStore f d).numVfs = d.numVfs := (rfl)
@[simp] theorem onStore_pcie (f : Store → Store) (d : Dev) : (onStore f d).pcie = d.pcie := (rfl)
@[simp] theorem onStore_fab (f : Store → Store) (d : Dev) : (onStore f d).fab = d.fab := (rfl)
@[simp] theorem onStore_isl (f : Store → Store) (d : Dev) : (onStore f d).isl = d.isl := (rfl)
@[simp] theorem onStore_otp (f : Store → Store) (d : Dev) : (onStore f d).otp = d.otp := (rfl)
@[simp] theorem onStore_boot (f : Store → Store) (d : Dev) : (onStore f d).boot = d.boot := (rfl)
@[simp] theorem onStore_pwr (f : Store → Store) (d : Dev) : (onStore f d).pwr = d.pwr := (rfl)
@[simp] theorem onStore_pins (f : Store → Store) (d : Dev) : (onStore f d).pins = d.pins := (rfl)
@[simp] theorem onStore_obs (f : Store → Store) (d : Dev) : (onStore f d).obs = d.obs := (rfl)
@[simp] theorem onStore_bridges (f : Store → Store) (d : Dev) : (onStore f d).bridges = d.bridges := (rfl)
@[simp] theorem onStore_free (f : Store → Store) (d : Dev) : (onStore f d).free = d.free := (rfl)

@[simp] theorem onTime_time (f : Time → Time) (d : Dev) : (onTime f d).time = f d.time := (rfl)
@[simp] theorem onTime_regs (f : Time → Time) (d : Dev) : (onTime f d).regs = d.regs := (rfl)
@[simp] theorem onTime_ctr (f : Time → Time) (d : Dev) : (onTime f d).ctr = d.ctr := (rfl)
@[simp] theorem onTime_frozen (f : Time → Time) (d : Dev) : (onTime f d).frozen = d.frozen := (rfl)
@[simp] theorem onTime_hostMem (f : Time → Time) (d : Dev) : (onTime f d).hostMem = d.hostMem := (rfl)
@[simp] theorem onTime_edge (f : Time → Time) (d : Dev) : (onTime f d).edge = d.edge := (rfl)
@[simp] theorem onTime_out (f : Time → Time) (d : Dev) : (onTime f d).out = d.out := (rfl)
@[simp] theorem onTime_ctxs (f : Time → Time) (d : Dev) : (onTime f d).ctxs = d.ctxs := (rfl)
@[simp] theorem onTime_recPend (f : Time → Time) (d : Dev) : (onTime f d).recPend = d.recPend := (rfl)
@[simp] theorem onTime_comp (f : Time → Time) (d : Dev) : (onTime f d).comp = d.comp := (rfl)
@[simp] theorem onTime_store (f : Time → Time) (d : Dev) : (onTime f d).store = d.store := (rfl)
@[simp] theorem onTime_ep (f : Time → Time) (d : Dev) : (onTime f d).ep = d.ep := (rfl)
@[simp] theorem onTime_parts (f : Time → Time) (d : Dev) : (onTime f d).parts = d.parts := (rfl)
@[simp] theorem onTime_partOp (f : Time → Time) (d : Dev) : (onTime f d).partOp = d.partOp := (rfl)
@[simp] theorem onTime_pairs (f : Time → Time) (d : Dev) : (onTime f d).pairs = d.pairs := (rfl)
@[simp] theorem onTime_rrings (f : Time → Time) (d : Dev) : (onTime f d).rrings = d.rrings := (rfl)
@[simp] theorem onTime_cmds (f : Time → Time) (d : Dev) : (onTime f d).cmds = d.cmds := (rfl)
@[simp] theorem onTime_nextTkt (f : Time → Time) (d : Dev) : (onTime f d).nextTkt = d.nextTkt := (rfl)
@[simp] theorem onTime_msixOn (f : Time → Time) (d : Dev) : (onTime f d).msixOn = d.msixOn := (rfl)
@[simp] theorem onTime_msixPba (f : Time → Time) (d : Dev) : (onTime f d).msixPba = d.msixPba := (rfl)
@[simp] theorem onTime_errUp (f : Time → Time) (d : Dev) : (onTime f d).errUp = d.errUp := (rfl)
@[simp] theorem onTime_tabVers (f : Time → Time) (d : Dev) : (onTime f d).tabVers = d.tabVers := (rfl)
@[simp] theorem onTime_maint (f : Time → Time) (d : Dev) : (onTime f d).maint = d.maint := (rfl)
@[simp] theorem onTime_keyed (f : Time → Time) (d : Dev) : (onTime f d).keyed = d.keyed := (rfl)
@[simp] theorem onTime_txBk (f : Time → Time) (d : Dev) : (onTime f d).txBk = d.txBk := (rfl)
@[simp] theorem onTime_numVfs (f : Time → Time) (d : Dev) : (onTime f d).numVfs = d.numVfs := (rfl)
@[simp] theorem onTime_pcie (f : Time → Time) (d : Dev) : (onTime f d).pcie = d.pcie := (rfl)
@[simp] theorem onTime_fab (f : Time → Time) (d : Dev) : (onTime f d).fab = d.fab := (rfl)
@[simp] theorem onTime_isl (f : Time → Time) (d : Dev) : (onTime f d).isl = d.isl := (rfl)
@[simp] theorem onTime_otp (f : Time → Time) (d : Dev) : (onTime f d).otp = d.otp := (rfl)
@[simp] theorem onTime_boot (f : Time → Time) (d : Dev) : (onTime f d).boot = d.boot := (rfl)
@[simp] theorem onTime_pwr (f : Time → Time) (d : Dev) : (onTime f d).pwr = d.pwr := (rfl)
@[simp] theorem onTime_pins (f : Time → Time) (d : Dev) : (onTime f d).pins = d.pins := (rfl)
@[simp] theorem onTime_obs (f : Time → Time) (d : Dev) : (onTime f d).obs = d.obs := (rfl)
@[simp] theorem onTime_bridges (f : Time → Time) (d : Dev) : (onTime f d).bridges = d.bridges := (rfl)
@[simp] theorem onTime_free (f : Time → Time) (d : Dev) : (onTime f d).free = d.free := (rfl)

@[simp] theorem onEp_time (f : Epochs → Epochs) (d : Dev) : (onEp f d).time = d.time := (rfl)
@[simp] theorem onEp_regs (f : Epochs → Epochs) (d : Dev) : (onEp f d).regs = d.regs := (rfl)
@[simp] theorem onEp_ctr (f : Epochs → Epochs) (d : Dev) : (onEp f d).ctr = d.ctr := (rfl)
@[simp] theorem onEp_frozen (f : Epochs → Epochs) (d : Dev) : (onEp f d).frozen = d.frozen := (rfl)
@[simp] theorem onEp_hostMem (f : Epochs → Epochs) (d : Dev) : (onEp f d).hostMem = d.hostMem := (rfl)
@[simp] theorem onEp_edge (f : Epochs → Epochs) (d : Dev) : (onEp f d).edge = d.edge := (rfl)
@[simp] theorem onEp_out (f : Epochs → Epochs) (d : Dev) : (onEp f d).out = d.out := (rfl)
@[simp] theorem onEp_ctxs (f : Epochs → Epochs) (d : Dev) : (onEp f d).ctxs = d.ctxs := (rfl)
@[simp] theorem onEp_recPend (f : Epochs → Epochs) (d : Dev) : (onEp f d).recPend = d.recPend := (rfl)
@[simp] theorem onEp_comp (f : Epochs → Epochs) (d : Dev) : (onEp f d).comp = d.comp := (rfl)
@[simp] theorem onEp_store (f : Epochs → Epochs) (d : Dev) : (onEp f d).store = d.store := (rfl)
@[simp] theorem onEp_ep (f : Epochs → Epochs) (d : Dev) : (onEp f d).ep = f d.ep := (rfl)
@[simp] theorem onEp_parts (f : Epochs → Epochs) (d : Dev) : (onEp f d).parts = d.parts := (rfl)
@[simp] theorem onEp_partOp (f : Epochs → Epochs) (d : Dev) : (onEp f d).partOp = d.partOp := (rfl)
@[simp] theorem onEp_pairs (f : Epochs → Epochs) (d : Dev) : (onEp f d).pairs = d.pairs := (rfl)
@[simp] theorem onEp_rrings (f : Epochs → Epochs) (d : Dev) : (onEp f d).rrings = d.rrings := (rfl)
@[simp] theorem onEp_cmds (f : Epochs → Epochs) (d : Dev) : (onEp f d).cmds = d.cmds := (rfl)
@[simp] theorem onEp_nextTkt (f : Epochs → Epochs) (d : Dev) : (onEp f d).nextTkt = d.nextTkt := (rfl)
@[simp] theorem onEp_msixOn (f : Epochs → Epochs) (d : Dev) : (onEp f d).msixOn = d.msixOn := (rfl)
@[simp] theorem onEp_msixPba (f : Epochs → Epochs) (d : Dev) : (onEp f d).msixPba = d.msixPba := (rfl)
@[simp] theorem onEp_errUp (f : Epochs → Epochs) (d : Dev) : (onEp f d).errUp = d.errUp := (rfl)
@[simp] theorem onEp_tabVers (f : Epochs → Epochs) (d : Dev) : (onEp f d).tabVers = d.tabVers := (rfl)
@[simp] theorem onEp_maint (f : Epochs → Epochs) (d : Dev) : (onEp f d).maint = d.maint := (rfl)
@[simp] theorem onEp_keyed (f : Epochs → Epochs) (d : Dev) : (onEp f d).keyed = d.keyed := (rfl)
@[simp] theorem onEp_txBk (f : Epochs → Epochs) (d : Dev) : (onEp f d).txBk = d.txBk := (rfl)
@[simp] theorem onEp_numVfs (f : Epochs → Epochs) (d : Dev) : (onEp f d).numVfs = d.numVfs := (rfl)
@[simp] theorem onEp_pcie (f : Epochs → Epochs) (d : Dev) : (onEp f d).pcie = d.pcie := (rfl)
@[simp] theorem onEp_fab (f : Epochs → Epochs) (d : Dev) : (onEp f d).fab = d.fab := (rfl)
@[simp] theorem onEp_isl (f : Epochs → Epochs) (d : Dev) : (onEp f d).isl = d.isl := (rfl)
@[simp] theorem onEp_otp (f : Epochs → Epochs) (d : Dev) : (onEp f d).otp = d.otp := (rfl)
@[simp] theorem onEp_boot (f : Epochs → Epochs) (d : Dev) : (onEp f d).boot = d.boot := (rfl)
@[simp] theorem onEp_pwr (f : Epochs → Epochs) (d : Dev) : (onEp f d).pwr = d.pwr := (rfl)
@[simp] theorem onEp_pins (f : Epochs → Epochs) (d : Dev) : (onEp f d).pins = d.pins := (rfl)
@[simp] theorem onEp_obs (f : Epochs → Epochs) (d : Dev) : (onEp f d).obs = d.obs := (rfl)
@[simp] theorem onEp_bridges (f : Epochs → Epochs) (d : Dev) : (onEp f d).bridges = d.bridges := (rfl)
@[simp] theorem onEp_free (f : Epochs → Epochs) (d : Dev) : (onEp f d).free = d.free := (rfl)

@[simp] theorem onFab_time (f : Fabric → Fabric) (d : Dev) : (onFab f d).time = d.time := (rfl)
@[simp] theorem onFab_regs (f : Fabric → Fabric) (d : Dev) : (onFab f d).regs = d.regs := (rfl)
@[simp] theorem onFab_ctr (f : Fabric → Fabric) (d : Dev) : (onFab f d).ctr = d.ctr := (rfl)
@[simp] theorem onFab_frozen (f : Fabric → Fabric) (d : Dev) : (onFab f d).frozen = d.frozen := (rfl)
@[simp] theorem onFab_hostMem (f : Fabric → Fabric) (d : Dev) : (onFab f d).hostMem = d.hostMem := (rfl)
@[simp] theorem onFab_edge (f : Fabric → Fabric) (d : Dev) : (onFab f d).edge = d.edge := (rfl)
@[simp] theorem onFab_out (f : Fabric → Fabric) (d : Dev) : (onFab f d).out = d.out := (rfl)
@[simp] theorem onFab_ctxs (f : Fabric → Fabric) (d : Dev) : (onFab f d).ctxs = d.ctxs := (rfl)
@[simp] theorem onFab_recPend (f : Fabric → Fabric) (d : Dev) : (onFab f d).recPend = d.recPend := (rfl)
@[simp] theorem onFab_comp (f : Fabric → Fabric) (d : Dev) : (onFab f d).comp = d.comp := (rfl)
@[simp] theorem onFab_store (f : Fabric → Fabric) (d : Dev) : (onFab f d).store = d.store := (rfl)
@[simp] theorem onFab_ep (f : Fabric → Fabric) (d : Dev) : (onFab f d).ep = d.ep := (rfl)
@[simp] theorem onFab_parts (f : Fabric → Fabric) (d : Dev) : (onFab f d).parts = d.parts := (rfl)
@[simp] theorem onFab_partOp (f : Fabric → Fabric) (d : Dev) : (onFab f d).partOp = d.partOp := (rfl)
@[simp] theorem onFab_pairs (f : Fabric → Fabric) (d : Dev) : (onFab f d).pairs = d.pairs := (rfl)
@[simp] theorem onFab_rrings (f : Fabric → Fabric) (d : Dev) : (onFab f d).rrings = d.rrings := (rfl)
@[simp] theorem onFab_cmds (f : Fabric → Fabric) (d : Dev) : (onFab f d).cmds = d.cmds := (rfl)
@[simp] theorem onFab_nextTkt (f : Fabric → Fabric) (d : Dev) : (onFab f d).nextTkt = d.nextTkt := (rfl)
@[simp] theorem onFab_msixOn (f : Fabric → Fabric) (d : Dev) : (onFab f d).msixOn = d.msixOn := (rfl)
@[simp] theorem onFab_msixPba (f : Fabric → Fabric) (d : Dev) : (onFab f d).msixPba = d.msixPba := (rfl)
@[simp] theorem onFab_errUp (f : Fabric → Fabric) (d : Dev) : (onFab f d).errUp = d.errUp := (rfl)
@[simp] theorem onFab_tabVers (f : Fabric → Fabric) (d : Dev) : (onFab f d).tabVers = d.tabVers := (rfl)
@[simp] theorem onFab_maint (f : Fabric → Fabric) (d : Dev) : (onFab f d).maint = d.maint := (rfl)
@[simp] theorem onFab_keyed (f : Fabric → Fabric) (d : Dev) : (onFab f d).keyed = d.keyed := (rfl)
@[simp] theorem onFab_txBk (f : Fabric → Fabric) (d : Dev) : (onFab f d).txBk = d.txBk := (rfl)
@[simp] theorem onFab_numVfs (f : Fabric → Fabric) (d : Dev) : (onFab f d).numVfs = d.numVfs := (rfl)
@[simp] theorem onFab_pcie (f : Fabric → Fabric) (d : Dev) : (onFab f d).pcie = d.pcie := (rfl)
@[simp] theorem onFab_fab (f : Fabric → Fabric) (d : Dev) : (onFab f d).fab = f d.fab := (rfl)
@[simp] theorem onFab_isl (f : Fabric → Fabric) (d : Dev) : (onFab f d).isl = d.isl := (rfl)
@[simp] theorem onFab_otp (f : Fabric → Fabric) (d : Dev) : (onFab f d).otp = d.otp := (rfl)
@[simp] theorem onFab_boot (f : Fabric → Fabric) (d : Dev) : (onFab f d).boot = d.boot := (rfl)
@[simp] theorem onFab_pwr (f : Fabric → Fabric) (d : Dev) : (onFab f d).pwr = d.pwr := (rfl)
@[simp] theorem onFab_pins (f : Fabric → Fabric) (d : Dev) : (onFab f d).pins = d.pins := (rfl)
@[simp] theorem onFab_obs (f : Fabric → Fabric) (d : Dev) : (onFab f d).obs = d.obs := (rfl)
@[simp] theorem onFab_bridges (f : Fabric → Fabric) (d : Dev) : (onFab f d).bridges = d.bridges := (rfl)
@[simp] theorem onFab_free (f : Fabric → Fabric) (d : Dev) : (onFab f d).free = d.free := (rfl)

@[simp] theorem onIsl_time (f : Island → Island) (d : Dev) : (onIsl f d).time = d.time := (rfl)
@[simp] theorem onIsl_regs (f : Island → Island) (d : Dev) : (onIsl f d).regs = d.regs := (rfl)
@[simp] theorem onIsl_ctr (f : Island → Island) (d : Dev) : (onIsl f d).ctr = d.ctr := (rfl)
@[simp] theorem onIsl_frozen (f : Island → Island) (d : Dev) : (onIsl f d).frozen = d.frozen := (rfl)
@[simp] theorem onIsl_hostMem (f : Island → Island) (d : Dev) : (onIsl f d).hostMem = d.hostMem := (rfl)
@[simp] theorem onIsl_edge (f : Island → Island) (d : Dev) : (onIsl f d).edge = d.edge := (rfl)
@[simp] theorem onIsl_out (f : Island → Island) (d : Dev) : (onIsl f d).out = d.out := (rfl)
@[simp] theorem onIsl_ctxs (f : Island → Island) (d : Dev) : (onIsl f d).ctxs = d.ctxs := (rfl)
@[simp] theorem onIsl_recPend (f : Island → Island) (d : Dev) : (onIsl f d).recPend = d.recPend := (rfl)
@[simp] theorem onIsl_comp (f : Island → Island) (d : Dev) : (onIsl f d).comp = d.comp := (rfl)
@[simp] theorem onIsl_store (f : Island → Island) (d : Dev) : (onIsl f d).store = d.store := (rfl)
@[simp] theorem onIsl_ep (f : Island → Island) (d : Dev) : (onIsl f d).ep = d.ep := (rfl)
@[simp] theorem onIsl_parts (f : Island → Island) (d : Dev) : (onIsl f d).parts = d.parts := (rfl)
@[simp] theorem onIsl_partOp (f : Island → Island) (d : Dev) : (onIsl f d).partOp = d.partOp := (rfl)
@[simp] theorem onIsl_pairs (f : Island → Island) (d : Dev) : (onIsl f d).pairs = d.pairs := (rfl)
@[simp] theorem onIsl_rrings (f : Island → Island) (d : Dev) : (onIsl f d).rrings = d.rrings := (rfl)
@[simp] theorem onIsl_cmds (f : Island → Island) (d : Dev) : (onIsl f d).cmds = d.cmds := (rfl)
@[simp] theorem onIsl_nextTkt (f : Island → Island) (d : Dev) : (onIsl f d).nextTkt = d.nextTkt := (rfl)
@[simp] theorem onIsl_msixOn (f : Island → Island) (d : Dev) : (onIsl f d).msixOn = d.msixOn := (rfl)
@[simp] theorem onIsl_msixPba (f : Island → Island) (d : Dev) : (onIsl f d).msixPba = d.msixPba := (rfl)
@[simp] theorem onIsl_errUp (f : Island → Island) (d : Dev) : (onIsl f d).errUp = d.errUp := (rfl)
@[simp] theorem onIsl_tabVers (f : Island → Island) (d : Dev) : (onIsl f d).tabVers = d.tabVers := (rfl)
@[simp] theorem onIsl_maint (f : Island → Island) (d : Dev) : (onIsl f d).maint = d.maint := (rfl)
@[simp] theorem onIsl_keyed (f : Island → Island) (d : Dev) : (onIsl f d).keyed = d.keyed := (rfl)
@[simp] theorem onIsl_txBk (f : Island → Island) (d : Dev) : (onIsl f d).txBk = d.txBk := (rfl)
@[simp] theorem onIsl_numVfs (f : Island → Island) (d : Dev) : (onIsl f d).numVfs = d.numVfs := (rfl)
@[simp] theorem onIsl_pcie (f : Island → Island) (d : Dev) : (onIsl f d).pcie = d.pcie := (rfl)
@[simp] theorem onIsl_fab (f : Island → Island) (d : Dev) : (onIsl f d).fab = d.fab := (rfl)
@[simp] theorem onIsl_isl (f : Island → Island) (d : Dev) : (onIsl f d).isl = f d.isl := (rfl)
@[simp] theorem onIsl_otp (f : Island → Island) (d : Dev) : (onIsl f d).otp = d.otp := (rfl)
@[simp] theorem onIsl_boot (f : Island → Island) (d : Dev) : (onIsl f d).boot = d.boot := (rfl)
@[simp] theorem onIsl_pwr (f : Island → Island) (d : Dev) : (onIsl f d).pwr = d.pwr := (rfl)
@[simp] theorem onIsl_pins (f : Island → Island) (d : Dev) : (onIsl f d).pins = d.pins := (rfl)
@[simp] theorem onIsl_obs (f : Island → Island) (d : Dev) : (onIsl f d).obs = d.obs := (rfl)
@[simp] theorem onIsl_bridges (f : Island → Island) (d : Dev) : (onIsl f d).bridges = d.bridges := (rfl)
@[simp] theorem onIsl_free (f : Island → Island) (d : Dev) : (onIsl f d).free = d.free := (rfl)

@[simp] theorem onOtp_time (f : Otp → Otp) (d : Dev) : (onOtp f d).time = d.time := (rfl)
@[simp] theorem onOtp_regs (f : Otp → Otp) (d : Dev) : (onOtp f d).regs = d.regs := (rfl)
@[simp] theorem onOtp_ctr (f : Otp → Otp) (d : Dev) : (onOtp f d).ctr = d.ctr := (rfl)
@[simp] theorem onOtp_frozen (f : Otp → Otp) (d : Dev) : (onOtp f d).frozen = d.frozen := (rfl)
@[simp] theorem onOtp_hostMem (f : Otp → Otp) (d : Dev) : (onOtp f d).hostMem = d.hostMem := (rfl)
@[simp] theorem onOtp_edge (f : Otp → Otp) (d : Dev) : (onOtp f d).edge = d.edge := (rfl)
@[simp] theorem onOtp_out (f : Otp → Otp) (d : Dev) : (onOtp f d).out = d.out := (rfl)
@[simp] theorem onOtp_ctxs (f : Otp → Otp) (d : Dev) : (onOtp f d).ctxs = d.ctxs := (rfl)
@[simp] theorem onOtp_recPend (f : Otp → Otp) (d : Dev) : (onOtp f d).recPend = d.recPend := (rfl)
@[simp] theorem onOtp_comp (f : Otp → Otp) (d : Dev) : (onOtp f d).comp = d.comp := (rfl)
@[simp] theorem onOtp_store (f : Otp → Otp) (d : Dev) : (onOtp f d).store = d.store := (rfl)
@[simp] theorem onOtp_ep (f : Otp → Otp) (d : Dev) : (onOtp f d).ep = d.ep := (rfl)
@[simp] theorem onOtp_parts (f : Otp → Otp) (d : Dev) : (onOtp f d).parts = d.parts := (rfl)
@[simp] theorem onOtp_partOp (f : Otp → Otp) (d : Dev) : (onOtp f d).partOp = d.partOp := (rfl)
@[simp] theorem onOtp_pairs (f : Otp → Otp) (d : Dev) : (onOtp f d).pairs = d.pairs := (rfl)
@[simp] theorem onOtp_rrings (f : Otp → Otp) (d : Dev) : (onOtp f d).rrings = d.rrings := (rfl)
@[simp] theorem onOtp_cmds (f : Otp → Otp) (d : Dev) : (onOtp f d).cmds = d.cmds := (rfl)
@[simp] theorem onOtp_nextTkt (f : Otp → Otp) (d : Dev) : (onOtp f d).nextTkt = d.nextTkt := (rfl)
@[simp] theorem onOtp_msixOn (f : Otp → Otp) (d : Dev) : (onOtp f d).msixOn = d.msixOn := (rfl)
@[simp] theorem onOtp_msixPba (f : Otp → Otp) (d : Dev) : (onOtp f d).msixPba = d.msixPba := (rfl)
@[simp] theorem onOtp_errUp (f : Otp → Otp) (d : Dev) : (onOtp f d).errUp = d.errUp := (rfl)
@[simp] theorem onOtp_tabVers (f : Otp → Otp) (d : Dev) : (onOtp f d).tabVers = d.tabVers := (rfl)
@[simp] theorem onOtp_maint (f : Otp → Otp) (d : Dev) : (onOtp f d).maint = d.maint := (rfl)
@[simp] theorem onOtp_keyed (f : Otp → Otp) (d : Dev) : (onOtp f d).keyed = d.keyed := (rfl)
@[simp] theorem onOtp_txBk (f : Otp → Otp) (d : Dev) : (onOtp f d).txBk = d.txBk := (rfl)
@[simp] theorem onOtp_numVfs (f : Otp → Otp) (d : Dev) : (onOtp f d).numVfs = d.numVfs := (rfl)
@[simp] theorem onOtp_pcie (f : Otp → Otp) (d : Dev) : (onOtp f d).pcie = d.pcie := (rfl)
@[simp] theorem onOtp_fab (f : Otp → Otp) (d : Dev) : (onOtp f d).fab = d.fab := (rfl)
@[simp] theorem onOtp_isl (f : Otp → Otp) (d : Dev) : (onOtp f d).isl = d.isl := (rfl)
@[simp] theorem onOtp_otp (f : Otp → Otp) (d : Dev) : (onOtp f d).otp = f d.otp := (rfl)
@[simp] theorem onOtp_boot (f : Otp → Otp) (d : Dev) : (onOtp f d).boot = d.boot := (rfl)
@[simp] theorem onOtp_pwr (f : Otp → Otp) (d : Dev) : (onOtp f d).pwr = d.pwr := (rfl)
@[simp] theorem onOtp_pins (f : Otp → Otp) (d : Dev) : (onOtp f d).pins = d.pins := (rfl)
@[simp] theorem onOtp_obs (f : Otp → Otp) (d : Dev) : (onOtp f d).obs = d.obs := (rfl)
@[simp] theorem onOtp_bridges (f : Otp → Otp) (d : Dev) : (onOtp f d).bridges = d.bridges := (rfl)
@[simp] theorem onOtp_free (f : Otp → Otp) (d : Dev) : (onOtp f d).free = d.free := (rfl)

@[simp] theorem onBoot_time (f : Boot → Boot) (d : Dev) : (onBoot f d).time = d.time := (rfl)
@[simp] theorem onBoot_regs (f : Boot → Boot) (d : Dev) : (onBoot f d).regs = d.regs := (rfl)
@[simp] theorem onBoot_ctr (f : Boot → Boot) (d : Dev) : (onBoot f d).ctr = d.ctr := (rfl)
@[simp] theorem onBoot_frozen (f : Boot → Boot) (d : Dev) : (onBoot f d).frozen = d.frozen := (rfl)
@[simp] theorem onBoot_hostMem (f : Boot → Boot) (d : Dev) : (onBoot f d).hostMem = d.hostMem := (rfl)
@[simp] theorem onBoot_edge (f : Boot → Boot) (d : Dev) : (onBoot f d).edge = d.edge := (rfl)
@[simp] theorem onBoot_out (f : Boot → Boot) (d : Dev) : (onBoot f d).out = d.out := (rfl)
@[simp] theorem onBoot_ctxs (f : Boot → Boot) (d : Dev) : (onBoot f d).ctxs = d.ctxs := (rfl)
@[simp] theorem onBoot_recPend (f : Boot → Boot) (d : Dev) : (onBoot f d).recPend = d.recPend := (rfl)
@[simp] theorem onBoot_comp (f : Boot → Boot) (d : Dev) : (onBoot f d).comp = d.comp := (rfl)
@[simp] theorem onBoot_store (f : Boot → Boot) (d : Dev) : (onBoot f d).store = d.store := (rfl)
@[simp] theorem onBoot_ep (f : Boot → Boot) (d : Dev) : (onBoot f d).ep = d.ep := (rfl)
@[simp] theorem onBoot_parts (f : Boot → Boot) (d : Dev) : (onBoot f d).parts = d.parts := (rfl)
@[simp] theorem onBoot_partOp (f : Boot → Boot) (d : Dev) : (onBoot f d).partOp = d.partOp := (rfl)
@[simp] theorem onBoot_pairs (f : Boot → Boot) (d : Dev) : (onBoot f d).pairs = d.pairs := (rfl)
@[simp] theorem onBoot_rrings (f : Boot → Boot) (d : Dev) : (onBoot f d).rrings = d.rrings := (rfl)
@[simp] theorem onBoot_cmds (f : Boot → Boot) (d : Dev) : (onBoot f d).cmds = d.cmds := (rfl)
@[simp] theorem onBoot_nextTkt (f : Boot → Boot) (d : Dev) : (onBoot f d).nextTkt = d.nextTkt := (rfl)
@[simp] theorem onBoot_msixOn (f : Boot → Boot) (d : Dev) : (onBoot f d).msixOn = d.msixOn := (rfl)
@[simp] theorem onBoot_msixPba (f : Boot → Boot) (d : Dev) : (onBoot f d).msixPba = d.msixPba := (rfl)
@[simp] theorem onBoot_errUp (f : Boot → Boot) (d : Dev) : (onBoot f d).errUp = d.errUp := (rfl)
@[simp] theorem onBoot_tabVers (f : Boot → Boot) (d : Dev) : (onBoot f d).tabVers = d.tabVers := (rfl)
@[simp] theorem onBoot_maint (f : Boot → Boot) (d : Dev) : (onBoot f d).maint = d.maint := (rfl)
@[simp] theorem onBoot_keyed (f : Boot → Boot) (d : Dev) : (onBoot f d).keyed = d.keyed := (rfl)
@[simp] theorem onBoot_txBk (f : Boot → Boot) (d : Dev) : (onBoot f d).txBk = d.txBk := (rfl)
@[simp] theorem onBoot_numVfs (f : Boot → Boot) (d : Dev) : (onBoot f d).numVfs = d.numVfs := (rfl)
@[simp] theorem onBoot_pcie (f : Boot → Boot) (d : Dev) : (onBoot f d).pcie = d.pcie := (rfl)
@[simp] theorem onBoot_fab (f : Boot → Boot) (d : Dev) : (onBoot f d).fab = d.fab := (rfl)
@[simp] theorem onBoot_isl (f : Boot → Boot) (d : Dev) : (onBoot f d).isl = d.isl := (rfl)
@[simp] theorem onBoot_otp (f : Boot → Boot) (d : Dev) : (onBoot f d).otp = d.otp := (rfl)
@[simp] theorem onBoot_boot (f : Boot → Boot) (d : Dev) : (onBoot f d).boot = f d.boot := (rfl)
@[simp] theorem onBoot_pwr (f : Boot → Boot) (d : Dev) : (onBoot f d).pwr = d.pwr := (rfl)
@[simp] theorem onBoot_pins (f : Boot → Boot) (d : Dev) : (onBoot f d).pins = d.pins := (rfl)
@[simp] theorem onBoot_obs (f : Boot → Boot) (d : Dev) : (onBoot f d).obs = d.obs := (rfl)
@[simp] theorem onBoot_bridges (f : Boot → Boot) (d : Dev) : (onBoot f d).bridges = d.bridges := (rfl)
@[simp] theorem onBoot_free (f : Boot → Boot) (d : Dev) : (onBoot f d).free = d.free := (rfl)

@[simp] theorem onPwr_time (f : Power → Power) (d : Dev) : (onPwr f d).time = d.time := (rfl)
@[simp] theorem onPwr_regs (f : Power → Power) (d : Dev) : (onPwr f d).regs = d.regs := (rfl)
@[simp] theorem onPwr_ctr (f : Power → Power) (d : Dev) : (onPwr f d).ctr = d.ctr := (rfl)
@[simp] theorem onPwr_frozen (f : Power → Power) (d : Dev) : (onPwr f d).frozen = d.frozen := (rfl)
@[simp] theorem onPwr_hostMem (f : Power → Power) (d : Dev) : (onPwr f d).hostMem = d.hostMem := (rfl)
@[simp] theorem onPwr_edge (f : Power → Power) (d : Dev) : (onPwr f d).edge = d.edge := (rfl)
@[simp] theorem onPwr_out (f : Power → Power) (d : Dev) : (onPwr f d).out = d.out := (rfl)
@[simp] theorem onPwr_ctxs (f : Power → Power) (d : Dev) : (onPwr f d).ctxs = d.ctxs := (rfl)
@[simp] theorem onPwr_recPend (f : Power → Power) (d : Dev) : (onPwr f d).recPend = d.recPend := (rfl)
@[simp] theorem onPwr_comp (f : Power → Power) (d : Dev) : (onPwr f d).comp = d.comp := (rfl)
@[simp] theorem onPwr_store (f : Power → Power) (d : Dev) : (onPwr f d).store = d.store := (rfl)
@[simp] theorem onPwr_ep (f : Power → Power) (d : Dev) : (onPwr f d).ep = d.ep := (rfl)
@[simp] theorem onPwr_parts (f : Power → Power) (d : Dev) : (onPwr f d).parts = d.parts := (rfl)
@[simp] theorem onPwr_partOp (f : Power → Power) (d : Dev) : (onPwr f d).partOp = d.partOp := (rfl)
@[simp] theorem onPwr_pairs (f : Power → Power) (d : Dev) : (onPwr f d).pairs = d.pairs := (rfl)
@[simp] theorem onPwr_rrings (f : Power → Power) (d : Dev) : (onPwr f d).rrings = d.rrings := (rfl)
@[simp] theorem onPwr_cmds (f : Power → Power) (d : Dev) : (onPwr f d).cmds = d.cmds := (rfl)
@[simp] theorem onPwr_nextTkt (f : Power → Power) (d : Dev) : (onPwr f d).nextTkt = d.nextTkt := (rfl)
@[simp] theorem onPwr_msixOn (f : Power → Power) (d : Dev) : (onPwr f d).msixOn = d.msixOn := (rfl)
@[simp] theorem onPwr_msixPba (f : Power → Power) (d : Dev) : (onPwr f d).msixPba = d.msixPba := (rfl)
@[simp] theorem onPwr_errUp (f : Power → Power) (d : Dev) : (onPwr f d).errUp = d.errUp := (rfl)
@[simp] theorem onPwr_tabVers (f : Power → Power) (d : Dev) : (onPwr f d).tabVers = d.tabVers := (rfl)
@[simp] theorem onPwr_maint (f : Power → Power) (d : Dev) : (onPwr f d).maint = d.maint := (rfl)
@[simp] theorem onPwr_keyed (f : Power → Power) (d : Dev) : (onPwr f d).keyed = d.keyed := (rfl)
@[simp] theorem onPwr_txBk (f : Power → Power) (d : Dev) : (onPwr f d).txBk = d.txBk := (rfl)
@[simp] theorem onPwr_numVfs (f : Power → Power) (d : Dev) : (onPwr f d).numVfs = d.numVfs := (rfl)
@[simp] theorem onPwr_pcie (f : Power → Power) (d : Dev) : (onPwr f d).pcie = d.pcie := (rfl)
@[simp] theorem onPwr_fab (f : Power → Power) (d : Dev) : (onPwr f d).fab = d.fab := (rfl)
@[simp] theorem onPwr_isl (f : Power → Power) (d : Dev) : (onPwr f d).isl = d.isl := (rfl)
@[simp] theorem onPwr_otp (f : Power → Power) (d : Dev) : (onPwr f d).otp = d.otp := (rfl)
@[simp] theorem onPwr_boot (f : Power → Power) (d : Dev) : (onPwr f d).boot = d.boot := (rfl)
@[simp] theorem onPwr_pwr (f : Power → Power) (d : Dev) : (onPwr f d).pwr = f d.pwr := (rfl)
@[simp] theorem onPwr_pins (f : Power → Power) (d : Dev) : (onPwr f d).pins = d.pins := (rfl)
@[simp] theorem onPwr_obs (f : Power → Power) (d : Dev) : (onPwr f d).obs = d.obs := (rfl)
@[simp] theorem onPwr_bridges (f : Power → Power) (d : Dev) : (onPwr f d).bridges = d.bridges := (rfl)
@[simp] theorem onPwr_free (f : Power → Power) (d : Dev) : (onPwr f d).free = d.free := (rfl)

@[simp] theorem onPins_time (f : Pins → Pins) (d : Dev) : (onPins f d).time = d.time := (rfl)
@[simp] theorem onPins_regs (f : Pins → Pins) (d : Dev) : (onPins f d).regs = d.regs := (rfl)
@[simp] theorem onPins_ctr (f : Pins → Pins) (d : Dev) : (onPins f d).ctr = d.ctr := (rfl)
@[simp] theorem onPins_frozen (f : Pins → Pins) (d : Dev) : (onPins f d).frozen = d.frozen := (rfl)
@[simp] theorem onPins_hostMem (f : Pins → Pins) (d : Dev) : (onPins f d).hostMem = d.hostMem := (rfl)
@[simp] theorem onPins_edge (f : Pins → Pins) (d : Dev) : (onPins f d).edge = d.edge := (rfl)
@[simp] theorem onPins_out (f : Pins → Pins) (d : Dev) : (onPins f d).out = d.out := (rfl)
@[simp] theorem onPins_ctxs (f : Pins → Pins) (d : Dev) : (onPins f d).ctxs = d.ctxs := (rfl)
@[simp] theorem onPins_recPend (f : Pins → Pins) (d : Dev) : (onPins f d).recPend = d.recPend := (rfl)
@[simp] theorem onPins_comp (f : Pins → Pins) (d : Dev) : (onPins f d).comp = d.comp := (rfl)
@[simp] theorem onPins_store (f : Pins → Pins) (d : Dev) : (onPins f d).store = d.store := (rfl)
@[simp] theorem onPins_ep (f : Pins → Pins) (d : Dev) : (onPins f d).ep = d.ep := (rfl)
@[simp] theorem onPins_parts (f : Pins → Pins) (d : Dev) : (onPins f d).parts = d.parts := (rfl)
@[simp] theorem onPins_partOp (f : Pins → Pins) (d : Dev) : (onPins f d).partOp = d.partOp := (rfl)
@[simp] theorem onPins_pairs (f : Pins → Pins) (d : Dev) : (onPins f d).pairs = d.pairs := (rfl)
@[simp] theorem onPins_rrings (f : Pins → Pins) (d : Dev) : (onPins f d).rrings = d.rrings := (rfl)
@[simp] theorem onPins_cmds (f : Pins → Pins) (d : Dev) : (onPins f d).cmds = d.cmds := (rfl)
@[simp] theorem onPins_nextTkt (f : Pins → Pins) (d : Dev) : (onPins f d).nextTkt = d.nextTkt := (rfl)
@[simp] theorem onPins_msixOn (f : Pins → Pins) (d : Dev) : (onPins f d).msixOn = d.msixOn := (rfl)
@[simp] theorem onPins_msixPba (f : Pins → Pins) (d : Dev) : (onPins f d).msixPba = d.msixPba := (rfl)
@[simp] theorem onPins_errUp (f : Pins → Pins) (d : Dev) : (onPins f d).errUp = d.errUp := (rfl)
@[simp] theorem onPins_tabVers (f : Pins → Pins) (d : Dev) : (onPins f d).tabVers = d.tabVers := (rfl)
@[simp] theorem onPins_maint (f : Pins → Pins) (d : Dev) : (onPins f d).maint = d.maint := (rfl)
@[simp] theorem onPins_keyed (f : Pins → Pins) (d : Dev) : (onPins f d).keyed = d.keyed := (rfl)
@[simp] theorem onPins_txBk (f : Pins → Pins) (d : Dev) : (onPins f d).txBk = d.txBk := (rfl)
@[simp] theorem onPins_numVfs (f : Pins → Pins) (d : Dev) : (onPins f d).numVfs = d.numVfs := (rfl)
@[simp] theorem onPins_pcie (f : Pins → Pins) (d : Dev) : (onPins f d).pcie = d.pcie := (rfl)
@[simp] theorem onPins_fab (f : Pins → Pins) (d : Dev) : (onPins f d).fab = d.fab := (rfl)
@[simp] theorem onPins_isl (f : Pins → Pins) (d : Dev) : (onPins f d).isl = d.isl := (rfl)
@[simp] theorem onPins_otp (f : Pins → Pins) (d : Dev) : (onPins f d).otp = d.otp := (rfl)
@[simp] theorem onPins_boot (f : Pins → Pins) (d : Dev) : (onPins f d).boot = d.boot := (rfl)
@[simp] theorem onPins_pwr (f : Pins → Pins) (d : Dev) : (onPins f d).pwr = d.pwr := (rfl)
@[simp] theorem onPins_pins (f : Pins → Pins) (d : Dev) : (onPins f d).pins = f d.pins := (rfl)
@[simp] theorem onPins_obs (f : Pins → Pins) (d : Dev) : (onPins f d).obs = d.obs := (rfl)
@[simp] theorem onPins_bridges (f : Pins → Pins) (d : Dev) : (onPins f d).bridges = d.bridges := (rfl)
@[simp] theorem onPins_free (f : Pins → Pins) (d : Dev) : (onPins f d).free = d.free := (rfl)

@[simp] theorem onObs_time (f : Observe → Observe) (d : Dev) : (onObs f d).time = d.time := (rfl)
@[simp] theorem onObs_regs (f : Observe → Observe) (d : Dev) : (onObs f d).regs = d.regs := (rfl)
@[simp] theorem onObs_ctr (f : Observe → Observe) (d : Dev) : (onObs f d).ctr = d.ctr := (rfl)
@[simp] theorem onObs_frozen (f : Observe → Observe) (d : Dev) : (onObs f d).frozen = d.frozen := (rfl)
@[simp] theorem onObs_hostMem (f : Observe → Observe) (d : Dev) : (onObs f d).hostMem = d.hostMem := (rfl)
@[simp] theorem onObs_edge (f : Observe → Observe) (d : Dev) : (onObs f d).edge = d.edge := (rfl)
@[simp] theorem onObs_out (f : Observe → Observe) (d : Dev) : (onObs f d).out = d.out := (rfl)
@[simp] theorem onObs_ctxs (f : Observe → Observe) (d : Dev) : (onObs f d).ctxs = d.ctxs := (rfl)
@[simp] theorem onObs_recPend (f : Observe → Observe) (d : Dev) : (onObs f d).recPend = d.recPend := (rfl)
@[simp] theorem onObs_comp (f : Observe → Observe) (d : Dev) : (onObs f d).comp = d.comp := (rfl)
@[simp] theorem onObs_store (f : Observe → Observe) (d : Dev) : (onObs f d).store = d.store := (rfl)
@[simp] theorem onObs_ep (f : Observe → Observe) (d : Dev) : (onObs f d).ep = d.ep := (rfl)
@[simp] theorem onObs_parts (f : Observe → Observe) (d : Dev) : (onObs f d).parts = d.parts := (rfl)
@[simp] theorem onObs_partOp (f : Observe → Observe) (d : Dev) : (onObs f d).partOp = d.partOp := (rfl)
@[simp] theorem onObs_pairs (f : Observe → Observe) (d : Dev) : (onObs f d).pairs = d.pairs := (rfl)
@[simp] theorem onObs_rrings (f : Observe → Observe) (d : Dev) : (onObs f d).rrings = d.rrings := (rfl)
@[simp] theorem onObs_cmds (f : Observe → Observe) (d : Dev) : (onObs f d).cmds = d.cmds := (rfl)
@[simp] theorem onObs_nextTkt (f : Observe → Observe) (d : Dev) : (onObs f d).nextTkt = d.nextTkt := (rfl)
@[simp] theorem onObs_msixOn (f : Observe → Observe) (d : Dev) : (onObs f d).msixOn = d.msixOn := (rfl)
@[simp] theorem onObs_msixPba (f : Observe → Observe) (d : Dev) : (onObs f d).msixPba = d.msixPba := (rfl)
@[simp] theorem onObs_errUp (f : Observe → Observe) (d : Dev) : (onObs f d).errUp = d.errUp := (rfl)
@[simp] theorem onObs_tabVers (f : Observe → Observe) (d : Dev) : (onObs f d).tabVers = d.tabVers := (rfl)
@[simp] theorem onObs_maint (f : Observe → Observe) (d : Dev) : (onObs f d).maint = d.maint := (rfl)
@[simp] theorem onObs_keyed (f : Observe → Observe) (d : Dev) : (onObs f d).keyed = d.keyed := (rfl)
@[simp] theorem onObs_txBk (f : Observe → Observe) (d : Dev) : (onObs f d).txBk = d.txBk := (rfl)
@[simp] theorem onObs_numVfs (f : Observe → Observe) (d : Dev) : (onObs f d).numVfs = d.numVfs := (rfl)
@[simp] theorem onObs_pcie (f : Observe → Observe) (d : Dev) : (onObs f d).pcie = d.pcie := (rfl)
@[simp] theorem onObs_fab (f : Observe → Observe) (d : Dev) : (onObs f d).fab = d.fab := (rfl)
@[simp] theorem onObs_isl (f : Observe → Observe) (d : Dev) : (onObs f d).isl = d.isl := (rfl)
@[simp] theorem onObs_otp (f : Observe → Observe) (d : Dev) : (onObs f d).otp = d.otp := (rfl)
@[simp] theorem onObs_boot (f : Observe → Observe) (d : Dev) : (onObs f d).boot = d.boot := (rfl)
@[simp] theorem onObs_pwr (f : Observe → Observe) (d : Dev) : (onObs f d).pwr = d.pwr := (rfl)
@[simp] theorem onObs_pins (f : Observe → Observe) (d : Dev) : (onObs f d).pins = d.pins := (rfl)
@[simp] theorem onObs_obs (f : Observe → Observe) (d : Dev) : (onObs f d).obs = f d.obs := (rfl)
@[simp] theorem onObs_bridges (f : Observe → Observe) (d : Dev) : (onObs f d).bridges = d.bridges := (rfl)
@[simp] theorem onObs_free (f : Observe → Observe) (d : Dev) : (onObs f d).free = d.free := (rfl)

end Sys2Proof.Machine
end

