-- ==== Sys2Proof/Laws/Tab.lean ====
section
/-! SUPPORT. Laws of sparse tables: what is read after a write, and the canonical form that every write keeps. -/

namespace Sys2Proof.Machine

variable {α : Type}

@[simp] theorem tget_nil (d : α) (k : Nat) : tget d ([] : Tab α) k = d := rfl

theorem tget_tdel_same (d : α) (t : Tab α) (k : Nat) : tget d (tdel t k) k = d := by
  induction t with
  | nil => rfl
  | cons e t ih =>
    simp only [tdel]; split
    · exact ih
    · simp only [tget]; rw [if_neg ‹_›]; exact ih

theorem tget_tdel_other (d : α) (t : Tab α) {j k : Nat} (h : j ≠ k) : tget d (tdel t k) j = tget d t j := by
  induction t with
  | nil => rfl
  | cons e t ih =>
    simp only [tdel, tget]; split
    · rename_i he; rw [ih, if_neg (fun hj => h (hj.symm.trans he))]
    · simp only [tget]; rw [ih]

theorem tget_tins_same (d : α) (t : Tab α) (k : Nat) (v : α) : tget d (tins t k v) k = v := by
  induction t with
  | nil => simp [tins, tget]
  | cons e t ih =>
    simp only [tins]; split
    · simp [tget]
    · split
      · simp [tget]
      · simp only [tget]; rw [if_neg ‹_›]; exact ih

theorem tget_tins_other (d : α) (t : Tab α) {j k : Nat} (v : α) (h : j ≠ k) : tget d (tins t k v) j = tget d t j := by
  induction t with
  | nil => simp [tins, tget, Ne.symm h]
  | cons e t ih =>
    simp only [tins]; split
    · rename_i he; simp only [tget]; rw [if_neg (Ne.symm h), if_neg (fun hj => h (hj.symm.trans he))]
    · split
      · simp only [tget]; rw [if_neg (Ne.symm h)]
      · simp only [tget]; rw [ih]

variable [DecidableEq α]

/-- A read of the key just written. -/
@[simp] theorem tget_tput_same (d : α) (t : Tab α) (k : Nat) (v : α) : tget d (tput d t k v) k = v := by
  unfold tput; split
  · rename_i h; rw [tget_tdel_same, h]
  · exact tget_tins_same d t k v

/-- A read of another key. -/
theorem tget_tput_other (d : α) (t : Tab α) {j k : Nat} (v : α) (h : j ≠ k) : tget d (tput d t k v) j = tget d t j := by
  unfold tput; split
  · exact tget_tdel_other d t h
  · exact tget_tins_other d t v h

/-- Any read after a write. -/
theorem tget_tput (d : α) (t : Tab α) (j k : Nat) (v : α) : tget d (tput d t k v) j = if j = k then v else tget d t j := by
  split
  · rename_i h; rw [h]; exact tget_tput_same d t k v
  · exact tget_tput_other d t v ‹_›

@[simp] theorem tget_tmod_same (d : α) (t : Tab α) (k : Nat) (f : α → α) : tget d (tmod d t k f) k = f (tget d t k) :=
  tget_tput_same d t k _

theorem tget_tmod_other (d : α) (t : Tab α) {j k : Nat} (f : α → α) (h : j ≠ k) : tget d (tmod d t k f) j = tget d t j :=
  tget_tput_other d t _ h

/-- Any read after a change. -/
theorem tget_tmod (d : α) (t : Tab α) (j k : Nat) (f : α → α) :
    tget d (tmod d t k f) j = if j = k then f (tget d t k) else tget d t j := tget_tput d t j k _

omit [DecidableEq α] in
theorem risingFrom_mono (t : Tab α) {a b : Nat} (h : a ≤ b) (hr : risingFrom b t = true) : risingFrom a t = true := by
  cases t with
  | nil => rfl
  | cons e t => simp only [risingFrom, Bool.and_eq_true, decide_eq_true_eq] at hr ⊢; exact ⟨Nat.le_trans h hr.1, hr.2⟩

omit [DecidableEq α] in
theorem risingFrom_tdel (t : Tab α) (k lo : Nat) (h : risingFrom lo t = true) : risingFrom lo (tdel t k) = true := by
  induction t generalizing lo with
  | nil => rfl
  | cons e t ih =>
    simp only [risingFrom, Bool.and_eq_true, decide_eq_true_eq] at h
    simp only [tdel]; split
    · exact risingFrom_mono _ (Nat.le_succ_of_le h.1) (ih _ h.2)
    · simp only [risingFrom, Bool.and_eq_true, decide_eq_true_eq]; exact ⟨h.1, ih _ h.2⟩

omit [DecidableEq α] in
theorem risingFrom_tins (t : Tab α) (k lo : Nat) (v : α) (hk : lo ≤ k) (h : risingFrom lo t = true) :
    risingFrom lo (tins t k v) = true := by
  induction t generalizing lo with
  | nil => simp [tins, risingFrom, hk]
  | cons e t ih =>
    simp only [risingFrom, Bool.and_eq_true, decide_eq_true_eq] at h
    simp only [tins]; split
    · rename_i he; simp only [risingFrom, Bool.and_eq_true, decide_eq_true_eq]; exact ⟨hk, he ▸ h.2⟩
    · split
      · simp only [risingFrom, Bool.and_eq_true, decide_eq_true_eq]; exact ⟨hk, by omega, h.2⟩
      · simp only [risingFrom, Bool.and_eq_true, decide_eq_true_eq]; exact ⟨h.1, ih _ (by omega) h.2⟩

omit [DecidableEq α] in
theorem all_tdel (p : Nat × α → Bool) (t : Tab α) (k : Nat) (h : t.all p = true) : (tdel t k).all p = true := by
  induction t with
  | nil => rfl
  | cons e t ih =>
    simp only [List.all_cons, Bool.and_eq_true] at h
    simp only [tdel]; split
    · exact ih h.2
    · simp only [List.all_cons, Bool.and_eq_true]; exact ⟨h.1, ih h.2⟩

omit [DecidableEq α] in
theorem all_tins (p : Nat × α → Bool) (t : Tab α) (k : Nat) (v : α) (hv : p (k, v) = true) (h : t.all p = true) :
    (tins t k v).all p = true := by
  induction t with
  | nil => simp [tins, hv]
  | cons e t ih =>
    simp only [List.all_cons, Bool.and_eq_true] at h
    simp only [tins]; split
    · simp only [List.all_cons, Bool.and_eq_true]; exact ⟨hv, h.2⟩
    · split
      · simp only [List.all_cons, Bool.and_eq_true]; exact ⟨hv, h.1, h.2⟩
      · simp only [List.all_cons, Bool.and_eq_true]; exact ⟨h.1, ih h.2⟩

/-- A write keeps the canonical form. -/
theorem tabWf_tput (d : α) (t : Tab α) (k : Nat) (v : α) (h : tabWf d t = true) : tabWf d (tput d t k v) = true := by
  simp only [tabWf, Bool.and_eq_true] at h ⊢
  unfold tput; split
  · exact ⟨risingFrom_tdel t k 0 h.1, all_tdel _ t k h.2⟩
  · rename_i hv; exact ⟨risingFrom_tins t k 0 v (Nat.zero_le _) h.1, all_tins _ t k v (by simpa using hv) h.2⟩

/-- A change keeps the canonical form. -/
theorem tabWf_tmod (d : α) (t : Tab α) (k : Nat) (f : α → α) (h : tabWf d t = true) : tabWf d (tmod d t k f) = true :=
  tabWf_tput d t k _ h

theorem tabWf_tputBytes (t : Tab Byte) (a : Nat) (bs : List Byte) (h : tabWf 0 t = true) : tabWf 0 (tputBytes t a bs) = true := by
  induction bs generalizing t a with
  | nil => exact h
  | cons b bs ih => exact ih _ _ (tabWf_tput 0 t a b h)

/-- A byte read after bytes were written: the byte written where one was, else as before. -/
theorem tget_tputBytes (t : Tab Byte) (a x : Nat) (bs : List Byte) :
    tget 0 (tputBytes t a bs) x = if a ≤ x ∧ x < a + bs.length then lget 0 bs (x - a) else tget 0 t x := by
  induction bs generalizing t a with
  | nil => rw [if_neg (by simp only [List.length_nil]; omega)]; rfl
  | cons b bs ih =>
    rw [tputBytes, ih, tget_tput]
    by_cases h1 : a + 1 ≤ x ∧ x < a + 1 + bs.length
    · rw [if_pos h1, if_pos (by simp only [List.length_cons]; omega)]
      have : x - a = (x - (a + 1)) + 1 := by omega
      rw [this]; simp [lget]
    · rw [if_neg h1]
      by_cases h2 : x = a
      · subst h2; simp [lget]
      · rw [if_neg h2, if_neg (by simp only [List.length_cons]; omega)]

/-- Bytes read back where they were written. -/
theorem tbytes_tputBytes (t : Tab Byte) (a : Nat) (bs : List Byte) : tbytes (tputBytes t a bs) a bs.length = bs := by
  have key : ∀ (n : Nat) (t : Tab Byte) (b : Nat), tbytes t b n = (List.range n).map (fun i => tget 0 t (b + i)) := by
    intro n; induction n with
    | zero => intro t b; rfl
    | succ n ih =>
      intro t b
      rw [tbytes, ih, List.range_succ_eq_map, List.map_cons, List.map_map]
      simp only [Nat.add_zero]; congr 1
      apply List.map_congr_left; intro i _; simp only [Function.comp]; congr 1; omega
  rw [key]
  apply List.ext_getElem
  · simp
  · intro i h1 h2
    simp only [List.getElem_map, List.getElem_range]
    rw [tget_tputBytes, if_pos (by omega), Nat.add_sub_cancel_left]
    simp [lget, h2]

end Sys2Proof.Machine
end

