-- ==== Sys2Proof/Laws/Cells.lean ====
section
/-! SUPPORT. What the operations on keyed parts of the device (ports, frames, parsers, cores, rings, commands, ...) do: the entry
changed, every other entry as it was, no other part changed, and no field of the device but theirs. -/

namespace Sys2Proof.Machine

/-- A register read after a write. -/
theorem regVal_setReg (a v x : Nat) (d : Dev) : regVal (setReg a v d) x = if x = a then v else regVal d x := by
  unfold regVal
  by_cases h : x = a
  · subst h; simp
  · rw [setReg_regs, if_neg h, tput]; split
    · exact tget_tdel_other _ _ h
    · exact tget_tins_other _ _ _ h

@[simp] theorem regVal_setReg_same (a v : Nat) (d : Dev) : regVal (setReg a v d) a = v := by simp [regVal_setReg]
theorem regVal_setReg_other {a x : Nat} (v : Nat) (d : Dev) (h : x ≠ a) : regVal (setReg a v d) x = regVal d x := by simp [regVal_setReg, h]

/-- A register read after a field was written. -/
theorem regVal_setFld (a lo w v x : Nat) (d : Dev) :
    regVal (setFld a lo w v d) x = if x = a then setBits (regVal d a) lo w v else regVal d x := regVal_setReg _ _ _ _

/-- Counters' keys are their own: a counter's number, and its two indices below 2^24. -/
theorem ctrKey_inj {c c' : Ctr} {i i' j j' : Nat} (hi : i < 2 ^ 24) (hi' : i' < 2 ^ 24) (hj : j < 2 ^ 24) (hj' : j' < 2 ^ 24)
    (h : ctrKey c i j = ctrKey c' i' j') : c = c' ∧ i = i' ∧ j = j' := by
  unfold ctrKey Ctr.code at h
  have hc : c.ctorIdx = c'.ctorIdx := by omega
  refine ⟨?_, by omega, by omega⟩
  have := congrArg Ctr.ofNat hc
  simpa [Ctr.ofNat_ctorIdx] using this

/-- A counter read after one was raised. -/
theorem ctrVal_bumpN (c c' : Ctr) (i j n i' j' : Nat) (d : Dev) :
    ctrVal (bumpN c i j n d) c' i' j' = if ctrKey c' i' j' = ctrKey c i j then ctrVal d c i j + n else ctrVal d c' i' j' := by
  unfold ctrVal; simp only [bumpN_ctr, tget_tmod]

@[simp] theorem ctrVal_bumpN_same (c : Ctr) (i j n : Nat) (d : Dev) : ctrVal (bumpN c i j n d) c i j = ctrVal d c i j + n := by
  simp [ctrVal_bumpN]

@[simp] theorem ctrVal_bump_same (c : Ctr) (i j : Nat) (d : Dev) : ctrVal (bump c i j d) c i j = ctrVal d c i j + 1 :=
  ctrVal_bumpN_same c i j 1 d

@[simp] theorem regVal_bumpN (c : Ctr) (i j n a : Nat) (d : Dev) : regVal (bumpN c i j n d) a = regVal d a := rfl
@[simp] theorem regVal_bump (c : Ctr) (i j a : Nat) (d : Dev) : regVal (bump c i j d) a = regVal d a := rfl
@[simp] theorem regVal_emit (o : Out) (a : Nat) (d : Dev) : regVal (emit o d) a = regVal d a := rfl
@[simp] theorem ctrVal_setReg (a v : Nat) (c : Ctr) (i j : Nat) (d : Dev) : ctrVal (setReg a v d) c i j = ctrVal d c i j := rfl
@[simp] theorem ctrVal_setFld (a lo w v : Nat) (c : Ctr) (i j : Nat) (d : Dev) : ctrVal (setFld a lo w v d) c i j = ctrVal d c i j := rfl

/-- `modBp` changes one entry. -/
theorem bpOf_modBp (k : Nat) (f : Bp → Bp) (x : Nat) (d : Dev) : bpOf (modBp k f d) x = if x = k then f (bpOf d k) else bpOf d x := tget_tmod _ _ _ _ _
@[simp] theorem bpOf_modBp_at (k : Nat) (f : Bp → Bp) (d : Dev) : bpOf (modBp k f d) k = f (bpOf d k) := by simp [bpOf_modBp]
theorem bpOf_modBp_off {x k : Nat} (f : Bp → Bp) (d : Dev) (h : x ≠ k) : bpOf (modBp k f d) x = bpOf d x := by simp [bpOf_modBp, h]
@[simp] theorem modBp_reads (k : Nat) (f : Bp → Bp) (d : Dev) :
    (∀ x, physOf (modBp k f d) x = physOf d x) ∧ (∀ x, frameOf (modBp k f d) x = frameOf d x) ∧
    (∀ x, gatesOf (modBp k f d) x = gatesOf d x) ∧ (∀ x, coreOf (modBp k f d) x = coreOf d x) ∧
    (∀ x, clusterOf (modBp k f d) x = clusterOf d x) ∧ (∀ x, invOf (modBp k f d) x = invOf d x) ∧
    (∀ x, ctxOf (modBp k f d) x = ctxOf d x) ∧ (∀ x, partOf (modBp k f d) x = partOf d x) ∧ (∀ x, pairOf (modBp k f d) x = pairOf d x) ∧
    (∀ x, rringOf (modBp k f d) x = rringOf d x) ∧ (∀ x, cmdOf (modBp k f d) x = cmdOf d x) ∧ (∀ x, pcieOf (modBp k f d) x = pcieOf d x) ∧
    (∀ x, linkOf (modBp k f d) x = linkOf d x) ∧ (∀ x, faultQOf (modBp k f d) x = faultQOf d x) ∧
    (∀ x, nbrOf (modBp k f d) x = nbrOf d x) ∧ (∀ x, dirOf (modBp k f d) x = dirOf d x) ∧ (∀ x, stackOf (modBp k f d) x = stackOf d x) ∧
    (∀ x, parserOf (modBp k f d) x = parserOf d x) ∧ (∀ x, wayOf (modBp k f d) x = wayOf d x) ∧ (∀ x, ftAt (modBp k f d) x = ftAt d x) ∧
    (∀ x, ruleAt (modBp k f d) x = ruleAt d x) ∧ (∀ x, regVal (modBp k f d) x = regVal d x) ∧
    (∀ c i j, ctrVal (modBp k f d) c i j = ctrVal d c i j) :=
  ⟨fun _ => rfl, fun _ => rfl, fun _ => rfl, fun _ => rfl, fun _ => rfl, fun _ => rfl, fun _ => rfl, fun _ => rfl, fun _ => rfl, fun _ => rfl, fun _ => rfl, fun _ => rfl, fun _ => rfl, fun _ => rfl, fun _ => rfl, fun _ => rfl, fun _ => rfl, fun _ => rfl, fun _ => rfl, fun _ => rfl, fun _ => rfl, fun _ => rfl, fun _ _ _ => rfl⟩
@[simp] theorem modBp_keeps (k : Nat) (f : Bp → Bp) (d : Dev) :
    (modBp k f d).time = d.time ∧ (modBp k f d).regs = d.regs ∧ (modBp k f d).ctr = d.ctr ∧ (modBp k f d).frozen = d.frozen ∧
    (modBp k f d).hostMem = d.hostMem ∧ (modBp k f d).out = d.out ∧ (modBp k f d).ctxs = d.ctxs ∧ (modBp k f d).recPend = d.recPend ∧
    (modBp k f d).comp = d.comp ∧ (modBp k f d).store = d.store ∧ (modBp k f d).ep = d.ep ∧ (modBp k f d).parts = d.parts ∧
    (modBp k f d).partOp = d.partOp ∧ (modBp k f d).pairs = d.pairs ∧ (modBp k f d).rrings = d.rrings ∧ (modBp k f d).cmds = d.cmds ∧
    (modBp k f d).nextTkt = d.nextTkt ∧ (modBp k f d).msixOn = d.msixOn ∧ (modBp k f d).msixPba = d.msixPba ∧
    (modBp k f d).errUp = d.errUp ∧ (modBp k f d).tabVers = d.tabVers ∧ (modBp k f d).maint = d.maint ∧ (modBp k f d).keyed = d.keyed ∧
    (modBp k f d).txBk = d.txBk ∧ (modBp k f d).numVfs = d.numVfs ∧ (modBp k f d).pcie = d.pcie ∧ (modBp k f d).fab = d.fab ∧
    (modBp k f d).isl = d.isl ∧ (modBp k f d).otp = d.otp ∧ (modBp k f d).boot = d.boot ∧ (modBp k f d).pwr = d.pwr ∧
    (modBp k f d).pins = d.pins ∧ (modBp k f d).obs = d.obs ∧ (modBp k f d).bridges = d.bridges ∧ (modBp k f d).free = d.free :=
  ⟨rfl, rfl, rfl, rfl, rfl, rfl, rfl, rfl, rfl, rfl, rfl, rfl, rfl, rfl, rfl, rfl, rfl, rfl, rfl, rfl, rfl, rfl, rfl, rfl, rfl, rfl, rfl, rfl, rfl, rfl, rfl, rfl, rfl, rfl, rfl⟩

/-- `modPhys` changes one entry. -/
theorem physOf_modPhys (k : Nat) (f : PhysPort → PhysPort) (x : Nat) (d : Dev) : physOf (modPhys k f d) x = if x = k then f (physOf d k) else physOf d x := tget_tmod _ _ _ _ _
@[simp] theorem physOf_modPhys_at (k : Nat) (f : PhysPort → PhysPort) (d : Dev) : physOf (modPhys k f d) k = f (physOf d k) := by simp [physOf_modPhys]
theorem physOf_modPhys_off {x k : Nat} (f : PhysPort → PhysPort) (d : Dev) (h : x ≠ k) : physOf (modPhys k f d) x = physOf d x := by simp [physOf_modPhys, h]
@[simp] theorem modPhys_reads (k : Nat) (f : PhysPort → PhysPort) (d : Dev) :
    (∀ x, bpOf (modPhys k f d) x = bpOf d x) ∧ (∀ x, frameOf (modPhys k f d) x = frameOf d x) ∧
    (∀ x, gatesOf (modPhys k f d) x = gatesOf d x) ∧ (∀ x, coreOf (modPhys k f d) x = coreOf d x) ∧
    (∀ x, clusterOf (modPhys k f d) x = clusterOf d x) ∧ (∀ x, invOf (modPhys k f d) x = invOf d x) ∧
    (∀ x, ctxOf (modPhys k f d) x = ctxOf d x) ∧ (∀ x, partOf (modPhys k f d) x = partOf d x) ∧
    (∀ x, pairOf (modPhys k f d) x = pairOf d x) ∧ (∀ x, rringOf (modPhys k f d) x = rringOf d x) ∧
    (∀ x, cmdOf (modPhys k f d) x = cmdOf d x) ∧ (∀ x, pcieOf (modPhys k f d) x = pcieOf d x) ∧
    (∀ x, linkOf (modPhys k f d) x = linkOf d x) ∧ (∀ x, faultQOf (modPhys k f d) x = faultQOf d x) ∧
    (∀ x, nbrOf (modPhys k f d) x = nbrOf d x) ∧ (∀ x, dirOf (modPhys k f d) x = dirOf d x) ∧
    (∀ x, stackOf (modPhys k f d) x = stackOf d x) ∧ (∀ x, parserOf (modPhys k f d) x = parserOf d x) ∧
    (∀ x, wayOf (modPhys k f d) x = wayOf d x) ∧ (∀ x, ftAt (modPhys k f d) x = ftAt d x) ∧ (∀ x, ruleAt (modPhys k f d) x = ruleAt d x) ∧
    (∀ x, regVal (modPhys k f d) x = regVal d x) ∧ (∀ c i j, ctrVal (modPhys k f d) c i j = ctrVal d c i j) :=
  ⟨fun _ => rfl, fun _ => rfl, fun _ => rfl, fun _ => rfl, fun _ => rfl, fun _ => rfl, fun _ => rfl, fun _ => rfl, fun _ => rfl, fun _ => rfl, fun _ => rfl, fun _ => rfl, fun _ => rfl, fun _ => rfl, fun _ => rfl, fun _ => rfl, fun _ => rfl, fun _ => rfl, fun _ => rfl, fun _ => rfl, fun _ => rfl, fun _ => rfl, fun _ _ _ => rfl⟩
@[simp] theorem modPhys_keeps (k : Nat) (f : PhysPort → PhysPort) (d : Dev) :
    (modPhys k f d).time = d.time ∧ (modPhys k f d).regs = d.regs ∧ (modPhys k f d).ctr = d.ctr ∧ (modPhys k f d).frozen = d.frozen ∧
    (modPhys k f d).hostMem = d.hostMem ∧ (modPhys k f d).out = d.out ∧ (modPhys k f d).ctxs = d.ctxs ∧
    (modPhys k f d).recPend = d.recPend ∧ (modPhys k f d).comp = d.comp ∧ (modPhys k f d).store = d.store ∧ (modPhys k f d).ep = d.ep ∧
    (modPhys k f d).parts = d.parts ∧ (modPhys k f d).partOp = d.partOp ∧ (modPhys k f d).pairs = d.pairs ∧
    (modPhys k f d).rrings = d.rrings ∧ (modPhys k f d).cmds = d.cmds ∧ (modPhys k f d).nextTkt = d.nextTkt ∧
    (modPhys k f d).msixOn = d.msixOn ∧ (modPhys k f d).msixPba = d.msixPba ∧ (modPhys k f d).errUp = d.errUp ∧
    (modPhys k f d).tabVers = d.tabVers ∧ (modPhys k f d).maint = d.maint ∧ (modPhys k f d).keyed = d.keyed ∧
    (modPhys k f d).txBk = d.txBk ∧ (modPhys k f d).numVfs = d.numVfs ∧ (modPhys k f d).pcie = d.pcie ∧ (modPhys k f d).fab = d.fab ∧
    (modPhys k f d).isl = d.isl ∧ (modPhys k f d).otp = d.otp ∧ (modPhys k f d).boot = d.boot ∧ (modPhys k f d).pwr = d.pwr ∧
    (modPhys k f d).pins = d.pins ∧ (modPhys k f d).obs = d.obs ∧ (modPhys k f d).bridges = d.bridges ∧ (modPhys k f d).free = d.free :=
  ⟨rfl, rfl, rfl, rfl, rfl, rfl, rfl, rfl, rfl, rfl, rfl, rfl, rfl, rfl, rfl, rfl, rfl, rfl, rfl, rfl, rfl, rfl, rfl, rfl, rfl, rfl, rfl, rfl, rfl, rfl, rfl, rfl, rfl, rfl, rfl⟩

/-- `modFrame` changes one entry. -/
theorem frameOf_modFrame (k : Nat) (f : Frame → Frame) (x : Nat) (d : Dev) : frameOf (modFrame k f d) x = if x = k then f (frameOf d k) else frameOf d x := tget_tmod _ _ _ _ _
@[simp] theorem frameOf_modFrame_at (k : Nat) (f : Frame → Frame) (d : Dev) : frameOf (modFrame k f d) k = f (frameOf d k) := by simp [frameOf_modFrame]
theorem frameOf_modFrame_off {x k : Nat} (f : Frame → Frame) (d : Dev) (h : x ≠ k) : frameOf (modFrame k f d) x = frameOf d x := by simp [frameOf_modFrame, h]
@[simp] theorem modFrame_reads (k : Nat) (f : Frame → Frame) (d : Dev) :
    (∀ x, bpOf (modFrame k f d) x = bpOf d x) ∧ (∀ x, physOf (modFrame k f d) x = physOf d x) ∧
    (∀ x, gatesOf (modFrame k f d) x = gatesOf d x) ∧ (∀ x, coreOf (modFrame k f d) x = coreOf d x) ∧
    (∀ x, clusterOf (modFrame k f d) x = clusterOf d x) ∧ (∀ x, invOf (modFrame k f d) x = invOf d x) ∧
    (∀ x, ctxOf (modFrame k f d) x = ctxOf d x) ∧ (∀ x, partOf (modFrame k f d) x = partOf d x) ∧
    (∀ x, pairOf (modFrame k f d) x = pairOf d x) ∧ (∀ x, rringOf (modFrame k f d) x = rringOf d x) ∧
    (∀ x, cmdOf (modFrame k f d) x = cmdOf d x) ∧ (∀ x, pcieOf (modFrame k f d) x = pcieOf d x) ∧
    (∀ x, linkOf (modFrame k f d) x = linkOf d x) ∧ (∀ x, faultQOf (modFrame k f d) x = faultQOf d x) ∧
    (∀ x, nbrOf (modFrame k f d) x = nbrOf d x) ∧ (∀ x, dirOf (modFrame k f d) x = dirOf d x) ∧
    (∀ x, stackOf (modFrame k f d) x = stackOf d x) ∧ (∀ x, parserOf (modFrame k f d) x = parserOf d x) ∧
    (∀ x, wayOf (modFrame k f d) x = wayOf d x) ∧ (∀ x, ftAt (modFrame k f d) x = ftAt d x) ∧
    (∀ x, ruleAt (modFrame k f d) x = ruleAt d x) ∧ (∀ x, regVal (modFrame k f d) x = regVal d x) ∧
    (∀ c i j, ctrVal (modFrame k f d) c i j = ctrVal d c i j) :=
  ⟨fun _ => rfl, fun _ => rfl, fun _ => rfl, fun _ => rfl, fun _ => rfl, fun _ => rfl, fun _ => rfl, fun _ => rfl, fun _ => rfl, fun _ => rfl, fun _ => rfl, fun _ => rfl, fun _ => rfl, fun _ => rfl, fun _ => rfl, fun _ => rfl, fun _ => rfl, fun _ => rfl, fun _ => rfl, fun _ => rfl, fun _ => rfl, fun _ => rfl, fun _ _ _ => rfl⟩
@[simp] theorem modFrame_keeps (k : Nat) (f : Frame → Frame) (d : Dev) :
    (modFrame k f d).time = d.time ∧ (modFrame k f d).regs = d.regs ∧ (modFrame k f d).ctr = d.ctr ∧ (modFrame k f d).frozen = d.frozen ∧
    (modFrame k f d).hostMem = d.hostMem ∧ (modFrame k f d).out = d.out ∧ (modFrame k f d).ctxs = d.ctxs ∧
    (modFrame k f d).recPend = d.recPend ∧ (modFrame k f d).comp = d.comp ∧ (modFrame k f d).store = d.store ∧ (modFrame k f d).ep = d.ep ∧
    (modFrame k f d).parts = d.parts ∧ (modFrame k f d).partOp = d.partOp ∧ (modFrame k f d).pairs = d.pairs ∧
    (modFrame k f d).rrings = d.rrings ∧ (modFrame k f d).cmds = d.cmds ∧ (modFrame k f d).nextTkt = d.nextTkt ∧
    (modFrame k f d).msixOn = d.msixOn ∧ (modFrame k f d).msixPba = d.msixPba ∧ (modFrame k f d).errUp = d.errUp ∧
    (modFrame k f d).tabVers = d.tabVers ∧ (modFrame k f d).maint = d.maint ∧ (modFrame k f d).keyed = d.keyed ∧
    (modFrame k f d).txBk = d.txBk ∧ (modFrame k f d).numVfs = d.numVfs ∧ (modFrame k f d).pcie = d.pcie ∧ (modFrame k f d).fab = d.fab ∧
    (modFrame k f d).isl = d.isl ∧ (modFrame k f d).otp = d.otp ∧ (modFrame k f d).boot = d.boot ∧ (modFrame k f d).pwr = d.pwr ∧
    (modFrame k f d).pins = d.pins ∧ (modFrame k f d).obs = d.obs ∧ (modFrame k f d).bridges = d.bridges ∧ (modFrame k f d).free = d.free :=
  ⟨rfl, rfl, rfl, rfl, rfl, rfl, rfl, rfl, rfl, rfl, rfl, rfl, rfl, rfl, rfl, rfl, rfl, rfl, rfl, rfl, rfl, rfl, rfl, rfl, rfl, rfl, rfl, rfl, rfl, rfl, rfl, rfl, rfl, rfl, rfl⟩

/-- `modGates` changes one entry. -/
theorem gatesOf_modGates (k : Nat) (f : Gates → Gates) (x : Nat) (d : Dev) : gatesOf (modGates k f d) x = if x = k then f (gatesOf d k) else gatesOf d x := tget_tmod _ _ _ _ _
@[simp] theorem gatesOf_modGates_at (k : Nat) (f : Gates → Gates) (d : Dev) : gatesOf (modGates k f d) k = f (gatesOf d k) := by simp [gatesOf_modGates]
theorem gatesOf_modGates_off {x k : Nat} (f : Gates → Gates) (d : Dev) (h : x ≠ k) : gatesOf (modGates k f d) x = gatesOf d x := by simp [gatesOf_modGates, h]
@[simp] theorem modGates_reads (k : Nat) (f : Gates → Gates) (d : Dev) :
    (∀ x, bpOf (modGates k f d) x = bpOf d x) ∧ (∀ x, physOf (modGates k f d) x = physOf d x) ∧
    (∀ x, frameOf (modGates k f d) x = frameOf d x) ∧ (∀ x, coreOf (modGates k f d) x = coreOf d x) ∧
    (∀ x, clusterOf (modGates k f d) x = clusterOf d x) ∧ (∀ x, invOf (modGates k f d) x = invOf d x) ∧
    (∀ x, ctxOf (modGates k f d) x = ctxOf d x) ∧ (∀ x, partOf (modGates k f d) x = partOf d x) ∧
    (∀ x, pairOf (modGates k f d) x = pairOf d x) ∧ (∀ x, rringOf (modGates k f d) x = rringOf d x) ∧
    (∀ x, cmdOf (modGates k f d) x = cmdOf d x) ∧ (∀ x, pcieOf (modGates k f d) x = pcieOf d x) ∧
    (∀ x, linkOf (modGates k f d) x = linkOf d x) ∧ (∀ x, faultQOf (modGates k f d) x = faultQOf d x) ∧
    (∀ x, nbrOf (modGates k f d) x = nbrOf d x) ∧ (∀ x, dirOf (modGates k f d) x = dirOf d x) ∧
    (∀ x, stackOf (modGates k f d) x = stackOf d x) ∧ (∀ x, parserOf (modGates k f d) x = parserOf d x) ∧
    (∀ x, wayOf (modGates k f d) x = wayOf d x) ∧ (∀ x, ftAt (modGates k f d) x = ftAt d x) ∧
    (∀ x, ruleAt (modGates k f d) x = ruleAt d x) ∧ (∀ x, regVal (modGates k f d) x = regVal d x) ∧
    (∀ c i j, ctrVal (modGates k f d) c i j = ctrVal d c i j) :=
  ⟨fun _ => rfl, fun _ => rfl, fun _ => rfl, fun _ => rfl, fun _ => rfl, fun _ => rfl, fun _ => rfl, fun _ => rfl, fun _ => rfl, fun _ => rfl, fun _ => rfl, fun _ => rfl, fun _ => rfl, fun _ => rfl, fun _ => rfl, fun _ => rfl, fun _ => rfl, fun _ => rfl, fun _ => rfl, fun _ => rfl, fun _ => rfl, fun _ => rfl, fun _ _ _ => rfl⟩
@[simp] theorem modGates_keeps (k : Nat) (f : Gates → Gates) (d : Dev) :
    (modGates k f d).time = d.time ∧ (modGates k f d).regs = d.regs ∧ (modGates k f d).ctr = d.ctr ∧ (modGates k f d).frozen = d.frozen ∧
    (modGates k f d).hostMem = d.hostMem ∧ (modGates k f d).out = d.out ∧ (modGates k f d).ctxs = d.ctxs ∧
    (modGates k f d).recPend = d.recPend ∧ (modGates k f d).comp = d.comp ∧ (modGates k f d).store = d.store ∧ (modGates k f d).ep = d.ep ∧
    (modGates k f d).parts = d.parts ∧ (modGates k f d).partOp = d.partOp ∧ (modGates k f d).pairs = d.pairs ∧
    (modGates k f d).rrings = d.rrings ∧ (modGates k f d).cmds = d.cmds ∧ (modGates k f d).nextTkt = d.nextTkt ∧
    (modGates k f d).msixOn = d.msixOn ∧ (modGates k f d).msixPba = d.msixPba ∧ (modGates k f d).errUp = d.errUp ∧
    (modGates k f d).tabVers = d.tabVers ∧ (modGates k f d).maint = d.maint ∧ (modGates k f d).keyed = d.keyed ∧
    (modGates k f d).txBk = d.txBk ∧ (modGates k f d).numVfs = d.numVfs ∧ (modGates k f d).pcie = d.pcie ∧ (modGates k f d).fab = d.fab ∧
    (modGates k f d).isl = d.isl ∧ (modGates k f d).otp = d.otp ∧ (modGates k f d).boot = d.boot ∧ (modGates k f d).pwr = d.pwr ∧
    (modGates k f d).pins = d.pins ∧ (modGates k f d).obs = d.obs ∧ (modGates k f d).bridges = d.bridges ∧ (modGates k f d).free = d.free :=
  ⟨rfl, rfl, rfl, rfl, rfl, rfl, rfl, rfl, rfl, rfl, rfl, rfl, rfl, rfl, rfl, rfl, rfl, rfl, rfl, rfl, rfl, rfl, rfl, rfl, rfl, rfl, rfl, rfl, rfl, rfl, rfl, rfl, rfl, rfl, rfl⟩

/-- `modCore` changes one entry. -/
theorem coreOf_modCore (k : Nat) (f : Core → Core) (x : Nat) (d : Dev) : coreOf (modCore k f d) x = if x = k then f (coreOf d k) else coreOf d x := tget_tmod _ _ _ _ _
@[simp] theorem coreOf_modCore_at (k : Nat) (f : Core → Core) (d : Dev) : coreOf (modCore k f d) k = f (coreOf d k) := by simp [coreOf_modCore]
theorem coreOf_modCore_off {x k : Nat} (f : Core → Core) (d : Dev) (h : x ≠ k) : coreOf (modCore k f d) x = coreOf d x := by simp [coreOf_modCore, h]
@[simp] theorem modCore_reads (k : Nat) (f : Core → Core) (d : Dev) :
    (∀ x, bpOf (modCore k f d) x = bpOf d x) ∧ (∀ x, physOf (modCore k f d) x = physOf d x) ∧
    (∀ x, frameOf (modCore k f d) x = frameOf d x) ∧ (∀ x, gatesOf (modCore k f d) x = gatesOf d x) ∧
    (∀ x, clusterOf (modCore k f d) x = clusterOf d x) ∧ (∀ x, invOf (modCore k f d) x = invOf d x) ∧
    (∀ x, ctxOf (modCore k f d) x = ctxOf d x) ∧ (∀ x, partOf (modCore k f d) x = partOf d x) ∧
    (∀ x, pairOf (modCore k f d) x = pairOf d x) ∧ (∀ x, rringOf (modCore k f d) x = rringOf d x) ∧
    (∀ x, cmdOf (modCore k f d) x = cmdOf d x) ∧ (∀ x, pcieOf (modCore k f d) x = pcieOf d x) ∧
    (∀ x, linkOf (modCore k f d) x = linkOf d x) ∧ (∀ x, faultQOf (modCore k f d) x = faultQOf d x) ∧
    (∀ x, nbrOf (modCore k f d) x = nbrOf d x) ∧ (∀ x, dirOf (modCore k f d) x = dirOf d x) ∧
    (∀ x, stackOf (modCore k f d) x = stackOf d x) ∧ (∀ x, parserOf (modCore k f d) x = parserOf d x) ∧
    (∀ x, wayOf (modCore k f d) x = wayOf d x) ∧ (∀ x, ftAt (modCore k f d) x = ftAt d x) ∧ (∀ x, ruleAt (modCore k f d) x = ruleAt d x) ∧
    (∀ x, regVal (modCore k f d) x = regVal d x) ∧ (∀ c i j, ctrVal (modCore k f d) c i j = ctrVal d c i j) :=
  ⟨fun _ => rfl, fun _ => rfl, fun _ => rfl, fun _ => rfl, fun _ => rfl, fun _ => rfl, fun _ => rfl, fun _ => rfl, fun _ => rfl, fun _ => rfl, fun _ => rfl, fun _ => rfl, fun _ => rfl, fun _ => rfl, fun _ => rfl, fun _ => rfl, fun _ => rfl, fun _ => rfl, fun _ => rfl, fun _ => rfl, fun _ => rfl, fun _ => rfl, fun _ _ _ => rfl⟩
@[simp] theorem modCore_keeps (k : Nat) (f : Core → Core) (d : Dev) :
    (modCore k f d).time = d.time ∧ (modCore k f d).regs = d.regs ∧ (modCore k f d).ctr = d.ctr ∧ (modCore k f d).frozen = d.frozen ∧
    (modCore k f d).hostMem = d.hostMem ∧ (modCore k f d).edge = d.edge ∧ (modCore k f d).out = d.out ∧ (modCore k f d).ctxs = d.ctxs ∧
    (modCore k f d).recPend = d.recPend ∧ (modCore k f d).store = d.store ∧ (modCore k f d).ep = d.ep ∧ (modCore k f d).parts = d.parts ∧
    (modCore k f d).partOp = d.partOp ∧ (modCore k f d).pairs = d.pairs ∧ (modCore k f d).rrings = d.rrings ∧
    (modCore k f d).cmds = d.cmds ∧ (modCore k f d).nextTkt = d.nextTkt ∧ (modCore k f d).msixOn = d.msixOn ∧
    (modCore k f d).msixPba = d.msixPba ∧ (modCore k f d).errUp = d.errUp ∧ (modCore k f d).tabVers = d.tabVers ∧
    (modCore k f d).maint = d.maint ∧ (modCore k f d).keyed = d.keyed ∧ (modCore k f d).txBk = d.txBk ∧ (modCore k f d).numVfs = d.numVfs ∧
    (modCore k f d).pcie = d.pcie ∧ (modCore k f d).fab = d.fab ∧ (modCore k f d).isl = d.isl ∧ (modCore k f d).otp = d.otp ∧
    (modCore k f d).boot = d.boot ∧ (modCore k f d).pwr = d.pwr ∧ (modCore k f d).pins = d.pins ∧ (modCore k f d).obs = d.obs ∧
    (modCore k f d).bridges = d.bridges ∧ (modCore k f d).free = d.free :=
  ⟨rfl, rfl, rfl, rfl, rfl, rfl, rfl, rfl, rfl, rfl, rfl, rfl, rfl, rfl, rfl, rfl, rfl, rfl, rfl, rfl, rfl, rfl, rfl, rfl, rfl, rfl, rfl, rfl, rfl, rfl, rfl, rfl, rfl, rfl, rfl⟩

/-- `modCluster` changes one entry. -/
theorem clusterOf_modCluster (k : Nat) (f : Cluster → Cluster) (x : Nat) (d : Dev) : clusterOf (modCluster k f d) x = if x = k then f (clusterOf d k) else clusterOf d x := tget_tmod _ _ _ _ _
@[simp] theorem clusterOf_modCluster_at (k : Nat) (f : Cluster → Cluster) (d : Dev) : clusterOf (modCluster k f d) k = f (clusterOf d k) := by simp [clusterOf_modCluster]
theorem clusterOf_modCluster_off {x k : Nat} (f : Cluster → Cluster) (d : Dev) (h : x ≠ k) : clusterOf (modCluster k f d) x = clusterOf d x := by simp [clusterOf_modCluster, h]
@[simp] theorem modCluster_reads (k : Nat) (f : Cluster → Cluster) (d : Dev) :
    (∀ x, bpOf (modCluster k f d) x = bpOf d x) ∧ (∀ x, physOf (modCluster k f d) x = physOf d x) ∧
    (∀ x, frameOf (modCluster k f d) x = frameOf d x) ∧ (∀ x, gatesOf (modCluster k f d) x = gatesOf d x) ∧
    (∀ x, coreOf (modCluster k f d) x = coreOf d x) ∧ (∀ x, invOf (modCluster k f d) x = invOf d x) ∧
    (∀ x, ctxOf (modCluster k f d) x = ctxOf d x) ∧ (∀ x, partOf (modCluster k f d) x = partOf d x) ∧
    (∀ x, pairOf (modCluster k f d) x = pairOf d x) ∧ (∀ x, rringOf (modCluster k f d) x = rringOf d x) ∧
    (∀ x, cmdOf (modCluster k f d) x = cmdOf d x) ∧ (∀ x, pcieOf (modCluster k f d) x = pcieOf d x) ∧
    (∀ x, linkOf (modCluster k f d) x = linkOf d x) ∧ (∀ x, faultQOf (modCluster k f d) x = faultQOf d x) ∧
    (∀ x, nbrOf (modCluster k f d) x = nbrOf d x) ∧ (∀ x, dirOf (modCluster k f d) x = dirOf d x) ∧
    (∀ x, stackOf (modCluster k f d) x = stackOf d x) ∧ (∀ x, parserOf (modCluster k f d) x = parserOf d x) ∧
    (∀ x, wayOf (modCluster k f d) x = wayOf d x) ∧ (∀ x, ftAt (modCluster k f d) x = ftAt d x) ∧
    (∀ x, ruleAt (modCluster k f d) x = ruleAt d x) ∧ (∀ x, regVal (modCluster k f d) x = regVal d x) ∧
    (∀ c i j, ctrVal (modCluster k f d) c i j = ctrVal d c i j) :=
  ⟨fun _ => rfl, fun _ => rfl, fun _ => rfl, fun _ => rfl, fun _ => rfl, fun _ => rfl, fun _ => rfl, fun _ => rfl, fun _ => rfl, fun _ => rfl, fun _ => rfl, fun _ => rfl, fun _ => rfl, fun _ => rfl, fun _ => rfl, fun _ => rfl, fun _ => rfl, fun _ => rfl, fun _ => rfl, fun _ => rfl, fun _ => rfl, fun _ => rfl, fun _ _ _ => rfl⟩
@[simp] theorem modCluster_keeps (k : Nat) (f : Cluster → Cluster) (d : Dev) :
    (modCluster k f d).time = d.time ∧ (modCluster k f d).regs = d.regs ∧ (modCluster k f d).ctr = d.ctr ∧
    (modCluster k f d).frozen = d.frozen ∧ (modCluster k f d).hostMem = d.hostMem ∧ (modCluster k f d).edge = d.edge ∧
    (modCluster k f d).out = d.out ∧ (modCluster k f d).ctxs = d.ctxs ∧ (modCluster k f d).recPend = d.recPend ∧
    (modCluster k f d).store = d.store ∧ (modCluster k f d).ep = d.ep ∧ (modCluster k f d).parts = d.parts ∧
    (modCluster k f d).partOp = d.partOp ∧ (modCluster k f d).pairs = d.pairs ∧ (modCluster k f d).rrings = d.rrings ∧
    (modCluster k f d).cmds = d.cmds ∧ (modCluster k f d).nextTkt = d.nextTkt ∧ (modCluster k f d).msixOn = d.msixOn ∧
    (modCluster k f d).msixPba = d.msixPba ∧ (modCluster k f d).errUp = d.errUp ∧ (modCluster k f d).tabVers = d.tabVers ∧
    (modCluster k f d).maint = d.maint ∧ (modCluster k f d).keyed = d.keyed ∧ (modCluster k f d).txBk = d.txBk ∧
    (modCluster k f d).numVfs = d.numVfs ∧ (modCluster k f d).pcie = d.pcie ∧ (modCluster k f d).fab = d.fab ∧
    (modCluster k f d).isl = d.isl ∧ (modCluster k f d).otp = d.otp ∧ (modCluster k f d).boot = d.boot ∧ (modCluster k f d).pwr = d.pwr ∧
    (modCluster k f d).pins = d.pins ∧ (modCluster k f d).obs = d.obs ∧ (modCluster k f d).bridges = d.bridges ∧
    (modCluster k f d).free = d.free :=
  ⟨rfl, rfl, rfl, rfl, rfl, rfl, rfl, rfl, rfl, rfl, rfl, rfl, rfl, rfl, rfl, rfl, rfl, rfl, rfl, rfl, rfl, rfl, rfl, rfl, rfl, rfl, rfl, rfl, rfl, rfl, rfl, rfl, rfl, rfl, rfl⟩

/-- `modInv` changes one entry. -/
theorem invOf_modInv (k : Nat) (f : Inv → Inv) (x : Nat) (d : Dev) : invOf (modInv k f d) x = if x = k then f (invOf d k) else invOf d x := tget_tmod _ _ _ _ _
@[simp] theorem invOf_modInv_at (k : Nat) (f : Inv → Inv) (d : Dev) : invOf (modInv k f d) k = f (invOf d k) := by simp [invOf_modInv]
theorem invOf_modInv_off {x k : Nat} (f : Inv → Inv) (d : Dev) (h : x ≠ k) : invOf (modInv k f d) x = invOf d x := by simp [invOf_modInv, h]
@[simp] theorem modInv_reads (k : Nat) (f : Inv → Inv) (d : Dev) :
    (∀ x, bpOf (modInv k f d) x = bpOf d x) ∧ (∀ x, physOf (modInv k f d) x = physOf d x) ∧ (∀ x, frameOf (modInv k f d) x = frameOf d x) ∧
    (∀ x, gatesOf (modInv k f d) x = gatesOf d x) ∧ (∀ x, coreOf (modInv k f d) x = coreOf d x) ∧
    (∀ x, clusterOf (modInv k f d) x = clusterOf d x) ∧ (∀ x, ctxOf (modInv k f d) x = ctxOf d x) ∧
    (∀ x, partOf (modInv k f d) x = partOf d x) ∧ (∀ x, pairOf (modInv k f d) x = pairOf d x) ∧
    (∀ x, rringOf (modInv k f d) x = rringOf d x) ∧ (∀ x, cmdOf (modInv k f d) x = cmdOf d x) ∧
    (∀ x, pcieOf (modInv k f d) x = pcieOf d x) ∧ (∀ x, linkOf (modInv k f d) x = linkOf d x) ∧
    (∀ x, faultQOf (modInv k f d) x = faultQOf d x) ∧ (∀ x, nbrOf (modInv k f d) x = nbrOf d x) ∧
    (∀ x, dirOf (modInv k f d) x = dirOf d x) ∧ (∀ x, stackOf (modInv k f d) x = stackOf d x) ∧
    (∀ x, parserOf (modInv k f d) x = parserOf d x) ∧ (∀ x, wayOf (modInv k f d) x = wayOf d x) ∧ (∀ x, ftAt (modInv k f d) x = ftAt d x) ∧
    (∀ x, ruleAt (modInv k f d) x = ruleAt d x) ∧ (∀ x, regVal (modInv k f d) x = regVal d x) ∧
    (∀ c i j, ctrVal (modInv k f d) c i j = ctrVal d c i j) :=
  ⟨fun _ => rfl, fun _ => rfl, fun _ => rfl, fun _ => rfl, fun _ => rfl, fun _ => rfl, fun _ => rfl, fun _ => rfl, fun _ => rfl, fun _ => rfl, fun _ => rfl, fun _ => rfl, fun _ => rfl, fun _ => rfl, fun _ => rfl, fun _ => rfl, fun _ => rfl, fun _ => rfl, fun _ => rfl, fun _ => rfl, fun _ => rfl, fun _ => rfl, fun _ _ _ => rfl⟩
@[simp] theorem modInv_keeps (k : Nat) (f : Inv → Inv) (d : Dev) :
    (modInv k f d).time = d.time ∧ (modInv k f d).regs = d.regs ∧ (modInv k f d).ctr = d.ctr ∧ (modInv k f d).frozen = d.frozen ∧
    (modInv k f d).hostMem = d.hostMem ∧ (modInv k f d).edge = d.edge ∧ (modInv k f d).out = d.out ∧ (modInv k f d).ctxs = d.ctxs ∧
    (modInv k f d).recPend = d.recPend ∧ (modInv k f d).store = d.store ∧ (modInv k f d).ep = d.ep ∧ (modInv k f d).parts = d.parts ∧
    (modInv k f d).partOp = d.partOp ∧ (modInv k f d).pairs = d.pairs ∧ (modInv k f d).rrings = d.rrings ∧ (modInv k f d).cmds = d.cmds ∧
    (modInv k f d).nextTkt = d.nextTkt ∧ (modInv k f d).msixOn = d.msixOn ∧ (modInv k f d).msixPba = d.msixPba ∧
    (modInv k f d).errUp = d.errUp ∧ (modInv k f d).tabVers = d.tabVers ∧ (modInv k f d).maint = d.maint ∧ (modInv k f d).keyed = d.keyed ∧
    (modInv k f d).txBk = d.txBk ∧ (modInv k f d).numVfs = d.numVfs ∧ (modInv k f d).pcie = d.pcie ∧ (modInv k f d).fab = d.fab ∧
    (modInv k f d).isl = d.isl ∧ (modInv k f d).otp = d.otp ∧ (modInv k f d).boot = d.boot ∧ (modInv k f d).pwr = d.pwr ∧
    (modInv k f d).pins = d.pins ∧ (modInv k f d).obs = d.obs ∧ (modInv k f d).bridges = d.bridges ∧ (modInv k f d).free = d.free :=
  ⟨rfl, rfl, rfl, rfl, rfl, rfl, rfl, rfl, rfl, rfl, rfl, rfl, rfl, rfl, rfl, rfl, rfl, rfl, rfl, rfl, rfl, rfl, rfl, rfl, rfl, rfl, rfl, rfl, rfl, rfl, rfl, rfl, rfl, rfl, rfl⟩

/-- `modCtx` changes one entry. -/
theorem ctxOf_modCtx (k : Nat) (f : Context → Context) (x : Nat) (d : Dev) : ctxOf (modCtx k f d) x = if x = k then f (ctxOf d k) else ctxOf d x := tget_tmod _ _ _ _ _
@[simp] theorem ctxOf_modCtx_at (k : Nat) (f : Context → Context) (d : Dev) : ctxOf (modCtx k f d) k = f (ctxOf d k) := by simp [ctxOf_modCtx]
theorem ctxOf_modCtx_off {x k : Nat} (f : Context → Context) (d : Dev) (h : x ≠ k) : ctxOf (modCtx k f d) x = ctxOf d x := by simp [ctxOf_modCtx, h]
@[simp] theorem modCtx_reads (k : Nat) (f : Context → Context) (d : Dev) :
    (∀ x, bpOf (modCtx k f d) x = bpOf d x) ∧ (∀ x, physOf (modCtx k f d) x = physOf d x) ∧ (∀ x, frameOf (modCtx k f d) x = frameOf d x) ∧
    (∀ x, gatesOf (modCtx k f d) x = gatesOf d x) ∧ (∀ x, coreOf (modCtx k f d) x = coreOf d x) ∧
    (∀ x, clusterOf (modCtx k f d) x = clusterOf d x) ∧ (∀ x, invOf (modCtx k f d) x = invOf d x) ∧
    (∀ x, partOf (modCtx k f d) x = partOf d x) ∧ (∀ x, pairOf (modCtx k f d) x = pairOf d x) ∧
    (∀ x, rringOf (modCtx k f d) x = rringOf d x) ∧ (∀ x, cmdOf (modCtx k f d) x = cmdOf d x) ∧
    (∀ x, pcieOf (modCtx k f d) x = pcieOf d x) ∧ (∀ x, linkOf (modCtx k f d) x = linkOf d x) ∧
    (∀ x, faultQOf (modCtx k f d) x = faultQOf d x) ∧ (∀ x, nbrOf (modCtx k f d) x = nbrOf d x) ∧
    (∀ x, dirOf (modCtx k f d) x = dirOf d x) ∧ (∀ x, stackOf (modCtx k f d) x = stackOf d x) ∧
    (∀ x, parserOf (modCtx k f d) x = parserOf d x) ∧ (∀ x, wayOf (modCtx k f d) x = wayOf d x) ∧ (∀ x, ftAt (modCtx k f d) x = ftAt d x) ∧
    (∀ x, ruleAt (modCtx k f d) x = ruleAt d x) ∧ (∀ x, regVal (modCtx k f d) x = regVal d x) ∧
    (∀ c i j, ctrVal (modCtx k f d) c i j = ctrVal d c i j) :=
  ⟨fun _ => rfl, fun _ => rfl, fun _ => rfl, fun _ => rfl, fun _ => rfl, fun _ => rfl, fun _ => rfl, fun _ => rfl, fun _ => rfl, fun _ => rfl, fun _ => rfl, fun _ => rfl, fun _ => rfl, fun _ => rfl, fun _ => rfl, fun _ => rfl, fun _ => rfl, fun _ => rfl, fun _ => rfl, fun _ => rfl, fun _ => rfl, fun _ => rfl, fun _ _ _ => rfl⟩
@[simp] theorem modCtx_keeps (k : Nat) (f : Context → Context) (d : Dev) :
    (modCtx k f d).time = d.time ∧ (modCtx k f d).regs = d.regs ∧ (modCtx k f d).ctr = d.ctr ∧ (modCtx k f d).frozen = d.frozen ∧
    (modCtx k f d).hostMem = d.hostMem ∧ (modCtx k f d).edge = d.edge ∧ (modCtx k f d).out = d.out ∧ (modCtx k f d).recPend = d.recPend ∧
    (modCtx k f d).comp = d.comp ∧ (modCtx k f d).store = d.store ∧ (modCtx k f d).ep = d.ep ∧ (modCtx k f d).parts = d.parts ∧
    (modCtx k f d).partOp = d.partOp ∧ (modCtx k f d).pairs = d.pairs ∧ (modCtx k f d).rrings = d.rrings ∧ (modCtx k f d).cmds = d.cmds ∧
    (modCtx k f d).nextTkt = d.nextTkt ∧ (modCtx k f d).msixOn = d.msixOn ∧ (modCtx k f d).msixPba = d.msixPba ∧
    (modCtx k f d).errUp = d.errUp ∧ (modCtx k f d).tabVers = d.tabVers ∧ (modCtx k f d).maint = d.maint ∧ (modCtx k f d).keyed = d.keyed ∧
    (modCtx k f d).txBk = d.txBk ∧ (modCtx k f d).numVfs = d.numVfs ∧ (modCtx k f d).pcie = d.pcie ∧ (modCtx k f d).fab = d.fab ∧
    (modCtx k f d).isl = d.isl ∧ (modCtx k f d).otp = d.otp ∧ (modCtx k f d).boot = d.boot ∧ (modCtx k f d).pwr = d.pwr ∧
    (modCtx k f d).pins = d.pins ∧ (modCtx k f d).obs = d.obs ∧ (modCtx k f d).bridges = d.bridges ∧ (modCtx k f d).free = d.free :=
  ⟨rfl, rfl, rfl, rfl, rfl, rfl, rfl, rfl, rfl, rfl, rfl, rfl, rfl, rfl, rfl, rfl, rfl, rfl, rfl, rfl, rfl, rfl, rfl, rfl, rfl, rfl, rfl, rfl, rfl, rfl, rfl, rfl, rfl, rfl, rfl⟩

/-- `modPart` changes one entry. -/
theorem partOf_modPart (k : Nat) (f : Part → Part) (x : Nat) (d : Dev) : partOf (modPart k f d) x = if x = k then f (partOf d k) else partOf d x := tget_tmod _ _ _ _ _
@[simp] theorem partOf_modPart_at (k : Nat) (f : Part → Part) (d : Dev) : partOf (modPart k f d) k = f (partOf d k) := by simp [partOf_modPart]
theorem partOf_modPart_off {x k : Nat} (f : Part → Part) (d : Dev) (h : x ≠ k) : partOf (modPart k f d) x = partOf d x := by simp [partOf_modPart, h]
@[simp] theorem modPart_reads (k : Nat) (f : Part → Part) (d : Dev) :
    (∀ x, bpOf (modPart k f d) x = bpOf d x) ∧ (∀ x, physOf (modPart k f d) x = physOf d x) ∧
    (∀ x, frameOf (modPart k f d) x = frameOf d x) ∧ (∀ x, gatesOf (modPart k f d) x = gatesOf d x) ∧
    (∀ x, coreOf (modPart k f d) x = coreOf d x) ∧ (∀ x, clusterOf (modPart k f d) x = clusterOf d x) ∧
    (∀ x, invOf (modPart k f d) x = invOf d x) ∧ (∀ x, ctxOf (modPart k f d) x = ctxOf d x) ∧
    (∀ x, pairOf (modPart k f d) x = pairOf d x) ∧ (∀ x, rringOf (modPart k f d) x = rringOf d x) ∧
    (∀ x, cmdOf (modPart k f d) x = cmdOf d x) ∧ (∀ x, pcieOf (modPart k f d) x = pcieOf d x) ∧
    (∀ x, linkOf (modPart k f d) x = linkOf d x) ∧ (∀ x, faultQOf (modPart k f d) x = faultQOf d x) ∧
    (∀ x, nbrOf (modPart k f d) x = nbrOf d x) ∧ (∀ x, dirOf (modPart k f d) x = dirOf d x) ∧
    (∀ x, stackOf (modPart k f d) x = stackOf d x) ∧ (∀ x, parserOf (modPart k f d) x = parserOf d x) ∧
    (∀ x, wayOf (modPart k f d) x = wayOf d x) ∧ (∀ x, ftAt (modPart k f d) x = ftAt d x) ∧ (∀ x, ruleAt (modPart k f d) x = ruleAt d x) ∧
    (∀ x, regVal (modPart k f d) x = regVal d x) ∧ (∀ c i j, ctrVal (modPart k f d) c i j = ctrVal d c i j) :=
  ⟨fun _ => rfl, fun _ => rfl, fun _ => rfl, fun _ => rfl, fun _ => rfl, fun _ => rfl, fun _ => rfl, fun _ => rfl, fun _ => rfl, fun _ => rfl, fun _ => rfl, fun _ => rfl, fun _ => rfl, fun _ => rfl, fun _ => rfl, fun _ => rfl, fun _ => rfl, fun _ => rfl, fun _ => rfl, fun _ => rfl, fun _ => rfl, fun _ => rfl, fun _ _ _ => rfl⟩
@[simp] theorem modPart_keeps (k : Nat) (f : Part → Part) (d : Dev) :
    (modPart k f d).time = d.time ∧ (modPart k f d).regs = d.regs ∧ (modPart k f d).ctr = d.ctr ∧ (modPart k f d).frozen = d.frozen ∧
    (modPart k f d).hostMem = d.hostMem ∧ (modPart k f d).edge = d.edge ∧ (modPart k f d).out = d.out ∧ (modPart k f d).ctxs = d.ctxs ∧
    (modPart k f d).recPend = d.recPend ∧ (modPart k f d).comp = d.comp ∧ (modPart k f d).store = d.store ∧ (modPart k f d).ep = d.ep ∧
    (modPart k f d).partOp = d.partOp ∧ (modPart k f d).pairs = d.pairs ∧ (modPart k f d).rrings = d.rrings ∧
    (modPart k f d).cmds = d.cmds ∧ (modPart k f d).nextTkt = d.nextTkt ∧ (modPart k f d).msixOn = d.msixOn ∧
    (modPart k f d).msixPba = d.msixPba ∧ (modPart k f d).errUp = d.errUp ∧ (modPart k f d).tabVers = d.tabVers ∧
    (modPart k f d).maint = d.maint ∧ (modPart k f d).keyed = d.keyed ∧ (modPart k f d).txBk = d.txBk ∧ (modPart k f d).numVfs = d.numVfs ∧
    (modPart k f d).pcie = d.pcie ∧ (modPart k f d).fab = d.fab ∧ (modPart k f d).isl = d.isl ∧ (modPart k f d).otp = d.otp ∧
    (modPart k f d).boot = d.boot ∧ (modPart k f d).pwr = d.pwr ∧ (modPart k f d).pins = d.pins ∧ (modPart k f d).obs = d.obs ∧
    (modPart k f d).bridges = d.bridges ∧ (modPart k f d).free = d.free :=
  ⟨rfl, rfl, rfl, rfl, rfl, rfl, rfl, rfl, rfl, rfl, rfl, rfl, rfl, rfl, rfl, rfl, rfl, rfl, rfl, rfl, rfl, rfl, rfl, rfl, rfl, rfl, rfl, rfl, rfl, rfl, rfl, rfl, rfl, rfl, rfl⟩

/-- `modPair` changes one entry. -/
theorem pairOf_modPair (k : Nat) (f : Pair → Pair) (x : Nat) (d : Dev) : pairOf (modPair k f d) x = if x = k then f (pairOf d k) else pairOf d x := tget_tmod _ _ _ _ _
@[simp] theorem pairOf_modPair_at (k : Nat) (f : Pair → Pair) (d : Dev) : pairOf (modPair k f d) k = f (pairOf d k) := by simp [pairOf_modPair]
theorem pairOf_modPair_off {x k : Nat} (f : Pair → Pair) (d : Dev) (h : x ≠ k) : pairOf (modPair k f d) x = pairOf d x := by simp [pairOf_modPair, h]
@[simp] theorem modPair_reads (k : Nat) (f : Pair → Pair) (d : Dev) :
    (∀ x, bpOf (modPair k f d) x = bpOf d x) ∧ (∀ x, physOf (modPair k f d) x = physOf d x) ∧
    (∀ x, frameOf (modPair k f d) x = frameOf d x) ∧ (∀ x, gatesOf (modPair k f d) x = gatesOf d x) ∧
    (∀ x, coreOf (modPair k f d) x = coreOf d x) ∧ (∀ x, clusterOf (modPair k f d) x = clusterOf d x) ∧
    (∀ x, invOf (modPair k f d) x = invOf d x) ∧ (∀ x, ctxOf (modPair k f d) x = ctxOf d x) ∧
    (∀ x, partOf (modPair k f d) x = partOf d x) ∧ (∀ x, rringOf (modPair k f d) x = rringOf d x) ∧
    (∀ x, cmdOf (modPair k f d) x = cmdOf d x) ∧ (∀ x, pcieOf (modPair k f d) x = pcieOf d x) ∧
    (∀ x, linkOf (modPair k f d) x = linkOf d x) ∧ (∀ x, faultQOf (modPair k f d) x = faultQOf d x) ∧
    (∀ x, nbrOf (modPair k f d) x = nbrOf d x) ∧ (∀ x, dirOf (modPair k f d) x = dirOf d x) ∧
    (∀ x, stackOf (modPair k f d) x = stackOf d x) ∧ (∀ x, parserOf (modPair k f d) x = parserOf d x) ∧
    (∀ x, wayOf (modPair k f d) x = wayOf d x) ∧ (∀ x, ftAt (modPair k f d) x = ftAt d x) ∧ (∀ x, ruleAt (modPair k f d) x = ruleAt d x) ∧
    (∀ x, regVal (modPair k f d) x = regVal d x) ∧ (∀ c i j, ctrVal (modPair k f d) c i j = ctrVal d c i j) :=
  ⟨fun _ => rfl, fun _ => rfl, fun _ => rfl, fun _ => rfl, fun _ => rfl, fun _ => rfl, fun _ => rfl, fun _ => rfl, fun _ => rfl, fun _ => rfl, fun _ => rfl, fun _ => rfl, fun _ => rfl, fun _ => rfl, fun _ => rfl, fun _ => rfl, fun _ => rfl, fun _ => rfl, fun _ => rfl, fun _ => rfl, fun _ => rfl, fun _ => rfl, fun _ _ _ => rfl⟩
@[simp] theorem modPair_keeps (k : Nat) (f : Pair → Pair) (d : Dev) :
    (modPair k f d).time = d.time ∧ (modPair k f d).regs = d.regs ∧ (modPair k f d).ctr = d.ctr ∧ (modPair k f d).frozen = d.frozen ∧
    (modPair k f d).hostMem = d.hostMem ∧ (modPair k f d).edge = d.edge ∧ (modPair k f d).out = d.out ∧ (modPair k f d).ctxs = d.ctxs ∧
    (modPair k f d).recPend = d.recPend ∧ (modPair k f d).comp = d.comp ∧ (modPair k f d).store = d.store ∧ (modPair k f d).ep = d.ep ∧
    (modPair k f d).parts = d.parts ∧ (modPair k f d).partOp = d.partOp ∧ (modPair k f d).rrings = d.rrings ∧
    (modPair k f d).cmds = d.cmds ∧ (modPair k f d).nextTkt = d.nextTkt ∧ (modPair k f d).msixOn = d.msixOn ∧
    (modPair k f d).msixPba = d.msixPba ∧ (modPair k f d).errUp = d.errUp ∧ (modPair k f d).tabVers = d.tabVers ∧
    (modPair k f d).maint = d.maint ∧ (modPair k f d).keyed = d.keyed ∧ (modPair k f d).txBk = d.txBk ∧ (modPair k f d).numVfs = d.numVfs ∧
    (modPair k f d).pcie = d.pcie ∧ (modPair k f d).fab = d.fab ∧ (modPair k f d).isl = d.isl ∧ (modPair k f d).otp = d.otp ∧
    (modPair k f d).boot = d.boot ∧ (modPair k f d).pwr = d.pwr ∧ (modPair k f d).pins = d.pins ∧ (modPair k f d).obs = d.obs ∧
    (modPair k f d).bridges = d.bridges ∧ (modPair k f d).free = d.free :=
  ⟨rfl, rfl, rfl, rfl, rfl, rfl, rfl, rfl, rfl, rfl, rfl, rfl, rfl, rfl, rfl, rfl, rfl, rfl, rfl, rfl, rfl, rfl, rfl, rfl, rfl, rfl, rfl, rfl, rfl, rfl, rfl, rfl, rfl, rfl, rfl⟩

/-- `modRRing` changes one entry. -/
theorem rringOf_modRRing (k : Nat) (f : RRing → RRing) (x : Nat) (d : Dev) : rringOf (modRRing k f d) x = if x = k then f (rringOf d k) else rringOf d x := tget_tmod _ _ _ _ _
@[simp] theorem rringOf_modRRing_at (k : Nat) (f : RRing → RRing) (d : Dev) : rringOf (modRRing k f d) k = f (rringOf d k) := by simp [rringOf_modRRing]
theorem rringOf_modRRing_off {x k : Nat} (f : RRing → RRing) (d : Dev) (h : x ≠ k) : rringOf (modRRing k f d) x = rringOf d x := by simp [rringOf_modRRing, h]
@[simp] theorem modRRing_reads (k : Nat) (f : RRing → RRing) (d : Dev) :
    (∀ x, bpOf (modRRing k f d) x = bpOf d x) ∧ (∀ x, physOf (modRRing k f d) x = physOf d x) ∧
    (∀ x, frameOf (modRRing k f d) x = frameOf d x) ∧ (∀ x, gatesOf (modRRing k f d) x = gatesOf d x) ∧
    (∀ x, coreOf (modRRing k f d) x = coreOf d x) ∧ (∀ x, clusterOf (modRRing k f d) x = clusterOf d x) ∧
    (∀ x, invOf (modRRing k f d) x = invOf d x) ∧ (∀ x, ctxOf (modRRing k f d) x = ctxOf d x) ∧
    (∀ x, partOf (modRRing k f d) x = partOf d x) ∧ (∀ x, pairOf (modRRing k f d) x = pairOf d x) ∧
    (∀ x, cmdOf (modRRing k f d) x = cmdOf d x) ∧ (∀ x, pcieOf (modRRing k f d) x = pcieOf d x) ∧
    (∀ x, linkOf (modRRing k f d) x = linkOf d x) ∧ (∀ x, faultQOf (modRRing k f d) x = faultQOf d x) ∧
    (∀ x, nbrOf (modRRing k f d) x = nbrOf d x) ∧ (∀ x, dirOf (modRRing k f d) x = dirOf d x) ∧
    (∀ x, stackOf (modRRing k f d) x = stackOf d x) ∧ (∀ x, parserOf (modRRing k f d) x = parserOf d x) ∧
    (∀ x, wayOf (modRRing k f d) x = wayOf d x) ∧ (∀ x, ftAt (modRRing k f d) x = ftAt d x) ∧
    (∀ x, ruleAt (modRRing k f d) x = ruleAt d x) ∧ (∀ x, regVal (modRRing k f d) x = regVal d x) ∧
    (∀ c i j, ctrVal (modRRing k f d) c i j = ctrVal d c i j) :=
  ⟨fun _ => rfl, fun _ => rfl, fun _ => rfl, fun _ => rfl, fun _ => rfl, fun _ => rfl, fun _ => rfl, fun _ => rfl, fun _ => rfl, fun _ => rfl, fun _ => rfl, fun _ => rfl, fun _ => rfl, fun _ => rfl, fun _ => rfl, fun _ => rfl, fun _ => rfl, fun _ => rfl, fun _ => rfl, fun _ => rfl, fun _ => rfl, fun _ => rfl, fun _ _ _ => rfl⟩
@[simp] theorem modRRing_keeps (k : Nat) (f : RRing → RRing) (d : Dev) :
    (modRRing k f d).time = d.time ∧ (modRRing k f d).regs = d.regs ∧ (modRRing k f d).ctr = d.ctr ∧ (modRRing k f d).frozen = d.frozen ∧
    (modRRing k f d).hostMem = d.hostMem ∧ (modRRing k f d).edge = d.edge ∧ (modRRing k f d).out = d.out ∧ (modRRing k f d).ctxs = d.ctxs ∧
    (modRRing k f d).recPend = d.recPend ∧ (modRRing k f d).comp = d.comp ∧ (modRRing k f d).store = d.store ∧ (modRRing k f d).ep = d.ep ∧
    (modRRing k f d).parts = d.parts ∧ (modRRing k f d).partOp = d.partOp ∧ (modRRing k f d).pairs = d.pairs ∧
    (modRRing k f d).cmds = d.cmds ∧ (modRRing k f d).nextTkt = d.nextTkt ∧ (modRRing k f d).msixOn = d.msixOn ∧
    (modRRing k f d).msixPba = d.msixPba ∧ (modRRing k f d).errUp = d.errUp ∧ (modRRing k f d).tabVers = d.tabVers ∧
    (modRRing k f d).maint = d.maint ∧ (modRRing k f d).keyed = d.keyed ∧ (modRRing k f d).txBk = d.txBk ∧
    (modRRing k f d).numVfs = d.numVfs ∧ (modRRing k f d).pcie = d.pcie ∧ (modRRing k f d).fab = d.fab ∧ (modRRing k f d).isl = d.isl ∧
    (modRRing k f d).otp = d.otp ∧ (modRRing k f d).boot = d.boot ∧ (modRRing k f d).pwr = d.pwr ∧ (modRRing k f d).pins = d.pins ∧
    (modRRing k f d).obs = d.obs ∧ (modRRing k f d).bridges = d.bridges ∧ (modRRing k f d).free = d.free :=
  ⟨rfl, rfl, rfl, rfl, rfl, rfl, rfl, rfl, rfl, rfl, rfl, rfl, rfl, rfl, rfl, rfl, rfl, rfl, rfl, rfl, rfl, rfl, rfl, rfl, rfl, rfl, rfl, rfl, rfl, rfl, rfl, rfl, rfl, rfl, rfl⟩

/-- `modCmd` changes one entry. -/
theorem cmdOf_modCmd (k : Nat) (f : Cmd → Cmd) (x : Nat) (d : Dev) : cmdOf (modCmd k f d) x = if x = k then f (cmdOf d k) else cmdOf d x := tget_tmod _ _ _ _ _
@[simp] theorem cmdOf_modCmd_at (k : Nat) (f : Cmd → Cmd) (d : Dev) : cmdOf (modCmd k f d) k = f (cmdOf d k) := by simp [cmdOf_modCmd]
theorem cmdOf_modCmd_off {x k : Nat} (f : Cmd → Cmd) (d : Dev) (h : x ≠ k) : cmdOf (modCmd k f d) x = cmdOf d x := by simp [cmdOf_modCmd, h]
@[simp] theorem modCmd_reads (k : Nat) (f : Cmd → Cmd) (d : Dev) :
    (∀ x, bpOf (modCmd k f d) x = bpOf d x) ∧ (∀ x, physOf (modCmd k f d) x = physOf d x) ∧ (∀ x, frameOf (modCmd k f d) x = frameOf d x) ∧
    (∀ x, gatesOf (modCmd k f d) x = gatesOf d x) ∧ (∀ x, coreOf (modCmd k f d) x = coreOf d x) ∧
    (∀ x, clusterOf (modCmd k f d) x = clusterOf d x) ∧ (∀ x, invOf (modCmd k f d) x = invOf d x) ∧
    (∀ x, ctxOf (modCmd k f d) x = ctxOf d x) ∧ (∀ x, partOf (modCmd k f d) x = partOf d x) ∧ (∀ x, pairOf (modCmd k f d) x = pairOf d x) ∧
    (∀ x, rringOf (modCmd k f d) x = rringOf d x) ∧ (∀ x, pcieOf (modCmd k f d) x = pcieOf d x) ∧
    (∀ x, linkOf (modCmd k f d) x = linkOf d x) ∧ (∀ x, faultQOf (modCmd k f d) x = faultQOf d x) ∧
    (∀ x, nbrOf (modCmd k f d) x = nbrOf d x) ∧ (∀ x, dirOf (modCmd k f d) x = dirOf d x) ∧ (∀ x, stackOf (modCmd k f d) x = stackOf d x) ∧
    (∀ x, parserOf (modCmd k f d) x = parserOf d x) ∧ (∀ x, wayOf (modCmd k f d) x = wayOf d x) ∧ (∀ x, ftAt (modCmd k f d) x = ftAt d x) ∧
    (∀ x, ruleAt (modCmd k f d) x = ruleAt d x) ∧ (∀ x, regVal (modCmd k f d) x = regVal d x) ∧
    (∀ c i j, ctrVal (modCmd k f d) c i j = ctrVal d c i j) :=
  ⟨fun _ => rfl, fun _ => rfl, fun _ => rfl, fun _ => rfl, fun _ => rfl, fun _ => rfl, fun _ => rfl, fun _ => rfl, fun _ => rfl, fun _ => rfl, fun _ => rfl, fun _ => rfl, fun _ => rfl, fun _ => rfl, fun _ => rfl, fun _ => rfl, fun _ => rfl, fun _ => rfl, fun _ => rfl, fun _ => rfl, fun _ => rfl, fun _ => rfl, fun _ _ _ => rfl⟩
@[simp] theorem modCmd_keeps (k : Nat) (f : Cmd → Cmd) (d : Dev) :
    (modCmd k f d).time = d.time ∧ (modCmd k f d).regs = d.regs ∧ (modCmd k f d).ctr = d.ctr ∧ (modCmd k f d).frozen = d.frozen ∧
    (modCmd k f d).hostMem = d.hostMem ∧ (modCmd k f d).edge = d.edge ∧ (modCmd k f d).out = d.out ∧ (modCmd k f d).ctxs = d.ctxs ∧
    (modCmd k f d).recPend = d.recPend ∧ (modCmd k f d).comp = d.comp ∧ (modCmd k f d).store = d.store ∧ (modCmd k f d).ep = d.ep ∧
    (modCmd k f d).parts = d.parts ∧ (modCmd k f d).partOp = d.partOp ∧ (modCmd k f d).pairs = d.pairs ∧ (modCmd k f d).rrings = d.rrings ∧
    (modCmd k f d).nextTkt = d.nextTkt ∧ (modCmd k f d).msixOn = d.msixOn ∧ (modCmd k f d).msixPba = d.msixPba ∧
    (modCmd k f d).errUp = d.errUp ∧ (modCmd k f d).tabVers = d.tabVers ∧ (modCmd k f d).maint = d.maint ∧ (modCmd k f d).keyed = d.keyed ∧
    (modCmd k f d).txBk = d.txBk ∧ (modCmd k f d).numVfs = d.numVfs ∧ (modCmd k f d).pcie = d.pcie ∧ (modCmd k f d).fab = d.fab ∧
    (modCmd k f d).isl = d.isl ∧ (modCmd k f d).otp = d.otp ∧ (modCmd k f d).boot = d.boot ∧ (modCmd k f d).pwr = d.pwr ∧
    (modCmd k f d).pins = d.pins ∧ (modCmd k f d).obs = d.obs ∧ (modCmd k f d).bridges = d.bridges ∧ (modCmd k f d).free = d.free :=
  ⟨rfl, rfl, rfl, rfl, rfl, rfl, rfl, rfl, rfl, rfl, rfl, rfl, rfl, rfl, rfl, rfl, rfl, rfl, rfl, rfl, rfl, rfl, rfl, rfl, rfl, rfl, rfl, rfl, rfl, rfl, rfl, rfl, rfl, rfl, rfl⟩

/-- `modPcie` changes one entry. -/
theorem pcieOf_modPcie (k : Nat) (f : PciePort → PciePort) (x : Nat) (d : Dev) : pcieOf (modPcie k f d) x = if x = k then f (pcieOf d k) else pcieOf d x := tget_tmod _ _ _ _ _
@[simp] theorem pcieOf_modPcie_at (k : Nat) (f : PciePort → PciePort) (d : Dev) : pcieOf (modPcie k f d) k = f (pcieOf d k) := by simp [pcieOf_modPcie]
theorem pcieOf_modPcie_off {x k : Nat} (f : PciePort → PciePort) (d : Dev) (h : x ≠ k) : pcieOf (modPcie k f d) x = pcieOf d x := by simp [pcieOf_modPcie, h]
@[simp] theorem modPcie_reads (k : Nat) (f : PciePort → PciePort) (d : Dev) :
    (∀ x, bpOf (modPcie k f d) x = bpOf d x) ∧ (∀ x, physOf (modPcie k f d) x = physOf d x) ∧
    (∀ x, frameOf (modPcie k f d) x = frameOf d x) ∧ (∀ x, gatesOf (modPcie k f d) x = gatesOf d x) ∧
    (∀ x, coreOf (modPcie k f d) x = coreOf d x) ∧ (∀ x, clusterOf (modPcie k f d) x = clusterOf d x) ∧
    (∀ x, invOf (modPcie k f d) x = invOf d x) ∧ (∀ x, ctxOf (modPcie k f d) x = ctxOf d x) ∧
    (∀ x, partOf (modPcie k f d) x = partOf d x) ∧ (∀ x, pairOf (modPcie k f d) x = pairOf d x) ∧
    (∀ x, rringOf (modPcie k f d) x = rringOf d x) ∧ (∀ x, cmdOf (modPcie k f d) x = cmdOf d x) ∧
    (∀ x, linkOf (modPcie k f d) x = linkOf d x) ∧ (∀ x, faultQOf (modPcie k f d) x = faultQOf d x) ∧
    (∀ x, nbrOf (modPcie k f d) x = nbrOf d x) ∧ (∀ x, dirOf (modPcie k f d) x = dirOf d x) ∧
    (∀ x, stackOf (modPcie k f d) x = stackOf d x) ∧ (∀ x, parserOf (modPcie k f d) x = parserOf d x) ∧
    (∀ x, wayOf (modPcie k f d) x = wayOf d x) ∧ (∀ x, ftAt (modPcie k f d) x = ftAt d x) ∧ (∀ x, ruleAt (modPcie k f d) x = ruleAt d x) ∧
    (∀ x, regVal (modPcie k f d) x = regVal d x) ∧ (∀ c i j, ctrVal (modPcie k f d) c i j = ctrVal d c i j) :=
  ⟨fun _ => rfl, fun _ => rfl, fun _ => rfl, fun _ => rfl, fun _ => rfl, fun _ => rfl, fun _ => rfl, fun _ => rfl, fun _ => rfl, fun _ => rfl, fun _ => rfl, fun _ => rfl, fun _ => rfl, fun _ => rfl, fun _ => rfl, fun _ => rfl, fun _ => rfl, fun _ => rfl, fun _ => rfl, fun _ => rfl, fun _ => rfl, fun _ => rfl, fun _ _ _ => rfl⟩
@[simp] theorem modPcie_keeps (k : Nat) (f : PciePort → PciePort) (d : Dev) :
    (modPcie k f d).time = d.time ∧ (modPcie k f d).regs = d.regs ∧ (modPcie k f d).ctr = d.ctr ∧ (modPcie k f d).frozen = d.frozen ∧
    (modPcie k f d).hostMem = d.hostMem ∧ (modPcie k f d).edge = d.edge ∧ (modPcie k f d).out = d.out ∧ (modPcie k f d).ctxs = d.ctxs ∧
    (modPcie k f d).recPend = d.recPend ∧ (modPcie k f d).comp = d.comp ∧ (modPcie k f d).store = d.store ∧ (modPcie k f d).ep = d.ep ∧
    (modPcie k f d).parts = d.parts ∧ (modPcie k f d).partOp = d.partOp ∧ (modPcie k f d).pairs = d.pairs ∧
    (modPcie k f d).rrings = d.rrings ∧ (modPcie k f d).cmds = d.cmds ∧ (modPcie k f d).nextTkt = d.nextTkt ∧
    (modPcie k f d).msixOn = d.msixOn ∧ (modPcie k f d).msixPba = d.msixPba ∧ (modPcie k f d).errUp = d.errUp ∧
    (modPcie k f d).tabVers = d.tabVers ∧ (modPcie k f d).maint = d.maint ∧ (modPcie k f d).keyed = d.keyed ∧
    (modPcie k f d).txBk = d.txBk ∧ (modPcie k f d).numVfs = d.numVfs ∧ (modPcie k f d).fab = d.fab ∧ (modPcie k f d).isl = d.isl ∧
    (modPcie k f d).otp = d.otp ∧ (modPcie k f d).boot = d.boot ∧ (modPcie k f d).pwr = d.pwr ∧ (modPcie k f d).pins = d.pins ∧
    (modPcie k f d).obs = d.obs ∧ (modPcie k f d).bridges = d.bridges ∧ (modPcie k f d).free = d.free :=
  ⟨rfl, rfl, rfl, rfl, rfl, rfl, rfl, rfl, rfl, rfl, rfl, rfl, rfl, rfl, rfl, rfl, rfl, rfl, rfl, rfl, rfl, rfl, rfl, rfl, rfl, rfl, rfl, rfl, rfl, rfl, rfl, rfl, rfl, rfl, rfl⟩

/-- `modLink` changes one entry. -/
theorem linkOf_modLink (k : Nat) (f : Link → Link) (x : Nat) (d : Dev) : linkOf (modLink k f d) x = if x = k then f (linkOf d k) else linkOf d x := tget_tmod _ _ _ _ _
@[simp] theorem linkOf_modLink_at (k : Nat) (f : Link → Link) (d : Dev) : linkOf (modLink k f d) k = f (linkOf d k) := by simp [linkOf_modLink]
theorem linkOf_modLink_off {x k : Nat} (f : Link → Link) (d : Dev) (h : x ≠ k) : linkOf (modLink k f d) x = linkOf d x := by simp [linkOf_modLink, h]
@[simp] theorem modLink_reads (k : Nat) (f : Link → Link) (d : Dev) :
    (∀ x, bpOf (modLink k f d) x = bpOf d x) ∧ (∀ x, physOf (modLink k f d) x = physOf d x) ∧
    (∀ x, frameOf (modLink k f d) x = frameOf d x) ∧ (∀ x, gatesOf (modLink k f d) x = gatesOf d x) ∧
    (∀ x, coreOf (modLink k f d) x = coreOf d x) ∧ (∀ x, clusterOf (modLink k f d) x = clusterOf d x) ∧
    (∀ x, invOf (modLink k f d) x = invOf d x) ∧ (∀ x, ctxOf (modLink k f d) x = ctxOf d x) ∧
    (∀ x, partOf (modLink k f d) x = partOf d x) ∧ (∀ x, pairOf (modLink k f d) x = pairOf d x) ∧
    (∀ x, rringOf (modLink k f d) x = rringOf d x) ∧ (∀ x, cmdOf (modLink k f d) x = cmdOf d x) ∧
    (∀ x, pcieOf (modLink k f d) x = pcieOf d x) ∧ (∀ x, faultQOf (modLink k f d) x = faultQOf d x) ∧
    (∀ x, nbrOf (modLink k f d) x = nbrOf d x) ∧ (∀ x, dirOf (modLink k f d) x = dirOf d x) ∧
    (∀ x, stackOf (modLink k f d) x = stackOf d x) ∧ (∀ x, parserOf (modLink k f d) x = parserOf d x) ∧
    (∀ x, wayOf (modLink k f d) x = wayOf d x) ∧ (∀ x, ftAt (modLink k f d) x = ftAt d x) ∧ (∀ x, ruleAt (modLink k f d) x = ruleAt d x) ∧
    (∀ x, regVal (modLink k f d) x = regVal d x) ∧ (∀ c i j, ctrVal (modLink k f d) c i j = ctrVal d c i j) :=
  ⟨fun _ => rfl, fun _ => rfl, fun _ => rfl, fun _ => rfl, fun _ => rfl, fun _ => rfl, fun _ => rfl, fun _ => rfl, fun _ => rfl, fun _ => rfl, fun _ => rfl, fun _ => rfl, fun _ => rfl, fun _ => rfl, fun _ => rfl, fun _ => rfl, fun _ => rfl, fun _ => rfl, fun _ => rfl, fun _ => rfl, fun _ => rfl, fun _ => rfl, fun _ _ _ => rfl⟩
@[simp] theorem modLink_keeps (k : Nat) (f : Link → Link) (d : Dev) :
    (modLink k f d).time = d.time ∧ (modLink k f d).regs = d.regs ∧ (modLink k f d).ctr = d.ctr ∧ (modLink k f d).frozen = d.frozen ∧
    (modLink k f d).hostMem = d.hostMem ∧ (modLink k f d).edge = d.edge ∧ (modLink k f d).out = d.out ∧ (modLink k f d).ctxs = d.ctxs ∧
    (modLink k f d).recPend = d.recPend ∧ (modLink k f d).comp = d.comp ∧ (modLink k f d).store = d.store ∧ (modLink k f d).ep = d.ep ∧
    (modLink k f d).parts = d.parts ∧ (modLink k f d).partOp = d.partOp ∧ (modLink k f d).pairs = d.pairs ∧
    (modLink k f d).rrings = d.rrings ∧ (modLink k f d).cmds = d.cmds ∧ (modLink k f d).nextTkt = d.nextTkt ∧
    (modLink k f d).msixOn = d.msixOn ∧ (modLink k f d).msixPba = d.msixPba ∧ (modLink k f d).errUp = d.errUp ∧
    (modLink k f d).tabVers = d.tabVers ∧ (modLink k f d).maint = d.maint ∧ (modLink k f d).keyed = d.keyed ∧
    (modLink k f d).txBk = d.txBk ∧ (modLink k f d).numVfs = d.numVfs ∧ (modLink k f d).pcie = d.pcie ∧ (modLink k f d).isl = d.isl ∧
    (modLink k f d).otp = d.otp ∧ (modLink k f d).boot = d.boot ∧ (modLink k f d).pwr = d.pwr ∧ (modLink k f d).pins = d.pins ∧
    (modLink k f d).obs = d.obs ∧ (modLink k f d).bridges = d.bridges ∧ (modLink k f d).free = d.free :=
  ⟨rfl, rfl, rfl, rfl, rfl, rfl, rfl, rfl, rfl, rfl, rfl, rfl, rfl, rfl, rfl, rfl, rfl, rfl, rfl, rfl, rfl, rfl, rfl, rfl, rfl, rfl, rfl, rfl, rfl, rfl, rfl, rfl, rfl, rfl, rfl⟩

/-- `modFaultQ` changes one entry. -/
theorem faultQOf_modFaultQ (k : Nat) (f : FaultQ → FaultQ) (x : Nat) (d : Dev) : faultQOf (modFaultQ k f d) x = if x = k then f (faultQOf d k) else faultQOf d x := tget_tmod _ _ _ _ _
@[simp] theorem faultQOf_modFaultQ_at (k : Nat) (f : FaultQ → FaultQ) (d : Dev) : faultQOf (modFaultQ k f d) k = f (faultQOf d k) := by simp [faultQOf_modFaultQ]
theorem faultQOf_modFaultQ_off {x k : Nat} (f : FaultQ → FaultQ) (d : Dev) (h : x ≠ k) : faultQOf (modFaultQ k f d) x = faultQOf d x := by simp [faultQOf_modFaultQ, h]
@[simp] theorem modFaultQ_reads (k : Nat) (f : FaultQ → FaultQ) (d : Dev) :
    (∀ x, bpOf (modFaultQ k f d) x = bpOf d x) ∧ (∀ x, physOf (modFaultQ k f d) x = physOf d x) ∧
    (∀ x, frameOf (modFaultQ k f d) x = frameOf d x) ∧ (∀ x, gatesOf (modFaultQ k f d) x = gatesOf d x) ∧
    (∀ x, coreOf (modFaultQ k f d) x = coreOf d x) ∧ (∀ x, clusterOf (modFaultQ k f d) x = clusterOf d x) ∧
    (∀ x, invOf (modFaultQ k f d) x = invOf d x) ∧ (∀ x, ctxOf (modFaultQ k f d) x = ctxOf d x) ∧
    (∀ x, partOf (modFaultQ k f d) x = partOf d x) ∧ (∀ x, pairOf (modFaultQ k f d) x = pairOf d x) ∧
    (∀ x, rringOf (modFaultQ k f d) x = rringOf d x) ∧ (∀ x, cmdOf (modFaultQ k f d) x = cmdOf d x) ∧
    (∀ x, pcieOf (modFaultQ k f d) x = pcieOf d x) ∧ (∀ x, linkOf (modFaultQ k f d) x = linkOf d x) ∧
    (∀ x, nbrOf (modFaultQ k f d) x = nbrOf d x) ∧ (∀ x, dirOf (modFaultQ k f d) x = dirOf d x) ∧
    (∀ x, stackOf (modFaultQ k f d) x = stackOf d x) ∧ (∀ x, parserOf (modFaultQ k f d) x = parserOf d x) ∧
    (∀ x, wayOf (modFaultQ k f d) x = wayOf d x) ∧ (∀ x, ftAt (modFaultQ k f d) x = ftAt d x) ∧
    (∀ x, ruleAt (modFaultQ k f d) x = ruleAt d x) ∧ (∀ x, regVal (modFaultQ k f d) x = regVal d x) ∧
    (∀ c i j, ctrVal (modFaultQ k f d) c i j = ctrVal d c i j) :=
  ⟨fun _ => rfl, fun _ => rfl, fun _ => rfl, fun _ => rfl, fun _ => rfl, fun _ => rfl, fun _ => rfl, fun _ => rfl, fun _ => rfl, fun _ => rfl, fun _ => rfl, fun _ => rfl, fun _ => rfl, fun _ => rfl, fun _ => rfl, fun _ => rfl, fun _ => rfl, fun _ => rfl, fun _ => rfl, fun _ => rfl, fun _ => rfl, fun _ => rfl, fun _ _ _ => rfl⟩
@[simp] theorem modFaultQ_keeps (k : Nat) (f : FaultQ → FaultQ) (d : Dev) :
    (modFaultQ k f d).time = d.time ∧ (modFaultQ k f d).regs = d.regs ∧ (modFaultQ k f d).ctr = d.ctr ∧
    (modFaultQ k f d).frozen = d.frozen ∧ (modFaultQ k f d).hostMem = d.hostMem ∧ (modFaultQ k f d).edge = d.edge ∧
    (modFaultQ k f d).out = d.out ∧ (modFaultQ k f d).ctxs = d.ctxs ∧ (modFaultQ k f d).recPend = d.recPend ∧
    (modFaultQ k f d).comp = d.comp ∧ (modFaultQ k f d).store = d.store ∧ (modFaultQ k f d).ep = d.ep ∧ (modFaultQ k f d).parts = d.parts ∧
    (modFaultQ k f d).partOp = d.partOp ∧ (modFaultQ k f d).pairs = d.pairs ∧ (modFaultQ k f d).rrings = d.rrings ∧
    (modFaultQ k f d).cmds = d.cmds ∧ (modFaultQ k f d).nextTkt = d.nextTkt ∧ (modFaultQ k f d).msixOn = d.msixOn ∧
    (modFaultQ k f d).msixPba = d.msixPba ∧ (modFaultQ k f d).errUp = d.errUp ∧ (modFaultQ k f d).tabVers = d.tabVers ∧
    (modFaultQ k f d).maint = d.maint ∧ (modFaultQ k f d).keyed = d.keyed ∧ (modFaultQ k f d).txBk = d.txBk ∧
    (modFaultQ k f d).numVfs = d.numVfs ∧ (modFaultQ k f d).pcie = d.pcie ∧ (modFaultQ k f d).isl = d.isl ∧ (modFaultQ k f d).otp = d.otp ∧
    (modFaultQ k f d).boot = d.boot ∧ (modFaultQ k f d).pwr = d.pwr ∧ (modFaultQ k f d).pins = d.pins ∧ (modFaultQ k f d).obs = d.obs ∧
    (modFaultQ k f d).bridges = d.bridges ∧ (modFaultQ k f d).free = d.free :=
  ⟨rfl, rfl, rfl, rfl, rfl, rfl, rfl, rfl, rfl, rfl, rfl, rfl, rfl, rfl, rfl, rfl, rfl, rfl, rfl, rfl, rfl, rfl, rfl, rfl, rfl, rfl, rfl, rfl, rfl, rfl, rfl, rfl, rfl, rfl, rfl⟩

/-- `modNbr` changes one entry. -/
theorem nbrOf_modNbr (k : Nat) (f : Neighbour → Neighbour) (x : Nat) (d : Dev) : nbrOf (modNbr k f d) x = if x = k then f (nbrOf d k) else nbrOf d x := tget_tmod _ _ _ _ _
@[simp] theorem nbrOf_modNbr_at (k : Nat) (f : Neighbour → Neighbour) (d : Dev) : nbrOf (modNbr k f d) k = f (nbrOf d k) := by simp [nbrOf_modNbr]
theorem nbrOf_modNbr_off {x k : Nat} (f : Neighbour → Neighbour) (d : Dev) (h : x ≠ k) : nbrOf (modNbr k f d) x = nbrOf d x := by simp [nbrOf_modNbr, h]
@[simp] theorem modNbr_reads (k : Nat) (f : Neighbour → Neighbour) (d : Dev) :
    (∀ x, bpOf (modNbr k f d) x = bpOf d x) ∧ (∀ x, physOf (modNbr k f d) x = physOf d x) ∧ (∀ x, frameOf (modNbr k f d) x = frameOf d x) ∧
    (∀ x, gatesOf (modNbr k f d) x = gatesOf d x) ∧ (∀ x, coreOf (modNbr k f d) x = coreOf d x) ∧
    (∀ x, clusterOf (modNbr k f d) x = clusterOf d x) ∧ (∀ x, invOf (modNbr k f d) x = invOf d x) ∧
    (∀ x, ctxOf (modNbr k f d) x = ctxOf d x) ∧ (∀ x, partOf (modNbr k f d) x = partOf d x) ∧ (∀ x, pairOf (modNbr k f d) x = pairOf d x) ∧
    (∀ x, rringOf (modNbr k f d) x = rringOf d x) ∧ (∀ x, cmdOf (modNbr k f d) x = cmdOf d x) ∧
    (∀ x, pcieOf (modNbr k f d) x = pcieOf d x) ∧ (∀ x, linkOf (modNbr k f d) x = linkOf d x) ∧
    (∀ x, faultQOf (modNbr k f d) x = faultQOf d x) ∧ (∀ x, dirOf (modNbr k f d) x = dirOf d x) ∧
    (∀ x, stackOf (modNbr k f d) x = stackOf d x) ∧ (∀ x, parserOf (modNbr k f d) x = parserOf d x) ∧
    (∀ x, wayOf (modNbr k f d) x = wayOf d x) ∧ (∀ x, ftAt (modNbr k f d) x = ftAt d x) ∧ (∀ x, ruleAt (modNbr k f d) x = ruleAt d x) ∧
    (∀ x, regVal (modNbr k f d) x = regVal d x) ∧ (∀ c i j, ctrVal (modNbr k f d) c i j = ctrVal d c i j) :=
  ⟨fun _ => rfl, fun _ => rfl, fun _ => rfl, fun _ => rfl, fun _ => rfl, fun _ => rfl, fun _ => rfl, fun _ => rfl, fun _ => rfl, fun _ => rfl, fun _ => rfl, fun _ => rfl, fun _ => rfl, fun _ => rfl, fun _ => rfl, fun _ => rfl, fun _ => rfl, fun _ => rfl, fun _ => rfl, fun _ => rfl, fun _ => rfl, fun _ => rfl, fun _ _ _ => rfl⟩
@[simp] theorem modNbr_keeps (k : Nat) (f : Neighbour → Neighbour) (d : Dev) :
    (modNbr k f d).regs = d.regs ∧ (modNbr k f d).ctr = d.ctr ∧ (modNbr k f d).frozen = d.frozen ∧ (modNbr k f d).hostMem = d.hostMem ∧
    (modNbr k f d).edge = d.edge ∧ (modNbr k f d).out = d.out ∧ (modNbr k f d).ctxs = d.ctxs ∧ (modNbr k f d).recPend = d.recPend ∧
    (modNbr k f d).comp = d.comp ∧ (modNbr k f d).store = d.store ∧ (modNbr k f d).ep = d.ep ∧ (modNbr k f d).parts = d.parts ∧
    (modNbr k f d).partOp = d.partOp ∧ (modNbr k f d).pairs = d.pairs ∧ (modNbr k f d).rrings = d.rrings ∧ (modNbr k f d).cmds = d.cmds ∧
    (modNbr k f d).nextTkt = d.nextTkt ∧ (modNbr k f d).msixOn = d.msixOn ∧ (modNbr k f d).msixPba = d.msixPba ∧
    (modNbr k f d).errUp = d.errUp ∧ (modNbr k f d).tabVers = d.tabVers ∧ (modNbr k f d).maint = d.maint ∧ (modNbr k f d).keyed = d.keyed ∧
    (modNbr k f d).txBk = d.txBk ∧ (modNbr k f d).numVfs = d.numVfs ∧ (modNbr k f d).pcie = d.pcie ∧ (modNbr k f d).fab = d.fab ∧
    (modNbr k f d).isl = d.isl ∧ (modNbr k f d).otp = d.otp ∧ (modNbr k f d).boot = d.boot ∧ (modNbr k f d).pwr = d.pwr ∧
    (modNbr k f d).pins = d.pins ∧ (modNbr k f d).obs = d.obs ∧ (modNbr k f d).bridges = d.bridges ∧ (modNbr k f d).free = d.free :=
  ⟨rfl, rfl, rfl, rfl, rfl, rfl, rfl, rfl, rfl, rfl, rfl, rfl, rfl, rfl, rfl, rfl, rfl, rfl, rfl, rfl, rfl, rfl, rfl, rfl, rfl, rfl, rfl, rfl, rfl, rfl, rfl, rfl, rfl, rfl, rfl⟩

/-- `modDir` changes one entry. -/
theorem dirOf_modDir (k : Nat) (f : DirLine → DirLine) (x : Nat) (d : Dev) : dirOf (modDir k f d) x = if x = k then f (dirOf d k) else dirOf d x := tget_tmod _ _ _ _ _
@[simp] theorem dirOf_modDir_at (k : Nat) (f : DirLine → DirLine) (d : Dev) : dirOf (modDir k f d) k = f (dirOf d k) := by simp [dirOf_modDir]
theorem dirOf_modDir_off {x k : Nat} (f : DirLine → DirLine) (d : Dev) (h : x ≠ k) : dirOf (modDir k f d) x = dirOf d x := by simp [dirOf_modDir, h]
@[simp] theorem modDir_reads (k : Nat) (f : DirLine → DirLine) (d : Dev) :
    (∀ x, bpOf (modDir k f d) x = bpOf d x) ∧ (∀ x, physOf (modDir k f d) x = physOf d x) ∧ (∀ x, frameOf (modDir k f d) x = frameOf d x) ∧
    (∀ x, gatesOf (modDir k f d) x = gatesOf d x) ∧ (∀ x, coreOf (modDir k f d) x = coreOf d x) ∧
    (∀ x, clusterOf (modDir k f d) x = clusterOf d x) ∧ (∀ x, invOf (modDir k f d) x = invOf d x) ∧
    (∀ x, ctxOf (modDir k f d) x = ctxOf d x) ∧ (∀ x, partOf (modDir k f d) x = partOf d x) ∧ (∀ x, pairOf (modDir k f d) x = pairOf d x) ∧
    (∀ x, rringOf (modDir k f d) x = rringOf d x) ∧ (∀ x, cmdOf (modDir k f d) x = cmdOf d x) ∧
    (∀ x, pcieOf (modDir k f d) x = pcieOf d x) ∧ (∀ x, linkOf (modDir k f d) x = linkOf d x) ∧
    (∀ x, faultQOf (modDir k f d) x = faultQOf d x) ∧ (∀ x, nbrOf (modDir k f d) x = nbrOf d x) ∧
    (∀ x, stackOf (modDir k f d) x = stackOf d x) ∧ (∀ x, parserOf (modDir k f d) x = parserOf d x) ∧
    (∀ x, wayOf (modDir k f d) x = wayOf d x) ∧ (∀ x, ftAt (modDir k f d) x = ftAt d x) ∧ (∀ x, ruleAt (modDir k f d) x = ruleAt d x) ∧
    (∀ x, regVal (modDir k f d) x = regVal d x) ∧ (∀ c i j, ctrVal (modDir k f d) c i j = ctrVal d c i j) :=
  ⟨fun _ => rfl, fun _ => rfl, fun _ => rfl, fun _ => rfl, fun _ => rfl, fun _ => rfl, fun _ => rfl, fun _ => rfl, fun _ => rfl, fun _ => rfl, fun _ => rfl, fun _ => rfl, fun _ => rfl, fun _ => rfl, fun _ => rfl, fun _ => rfl, fun _ => rfl, fun _ => rfl, fun _ => rfl, fun _ => rfl, fun _ => rfl, fun _ => rfl, fun _ _ _ => rfl⟩
@[simp] theorem modDir_keeps (k : Nat) (f : DirLine → DirLine) (d : Dev) :
    (modDir k f d).time = d.time ∧ (modDir k f d).regs = d.regs ∧ (modDir k f d).ctr = d.ctr ∧ (modDir k f d).frozen = d.frozen ∧
    (modDir k f d).hostMem = d.hostMem ∧ (modDir k f d).edge = d.edge ∧ (modDir k f d).out = d.out ∧ (modDir k f d).ctxs = d.ctxs ∧
    (modDir k f d).recPend = d.recPend ∧ (modDir k f d).comp = d.comp ∧ (modDir k f d).ep = d.ep ∧ (modDir k f d).parts = d.parts ∧
    (modDir k f d).partOp = d.partOp ∧ (modDir k f d).pairs = d.pairs ∧ (modDir k f d).rrings = d.rrings ∧ (modDir k f d).cmds = d.cmds ∧
    (modDir k f d).nextTkt = d.nextTkt ∧ (modDir k f d).msixOn = d.msixOn ∧ (modDir k f d).msixPba = d.msixPba ∧
    (modDir k f d).errUp = d.errUp ∧ (modDir k f d).tabVers = d.tabVers ∧ (modDir k f d).maint = d.maint ∧ (modDir k f d).keyed = d.keyed ∧
    (modDir k f d).txBk = d.txBk ∧ (modDir k f d).numVfs = d.numVfs ∧ (modDir k f d).pcie = d.pcie ∧ (modDir k f d).fab = d.fab ∧
    (modDir k f d).isl = d.isl ∧ (modDir k f d).otp = d.otp ∧ (modDir k f d).boot = d.boot ∧ (modDir k f d).pwr = d.pwr ∧
    (modDir k f d).pins = d.pins ∧ (modDir k f d).obs = d.obs ∧ (modDir k f d).bridges = d.bridges ∧ (modDir k f d).free = d.free :=
  ⟨rfl, rfl, rfl, rfl, rfl, rfl, rfl, rfl, rfl, rfl, rfl, rfl, rfl, rfl, rfl, rfl, rfl, rfl, rfl, rfl, rfl, rfl, rfl, rfl, rfl, rfl, rfl, rfl, rfl, rfl, rfl, rfl, rfl, rfl, rfl⟩

/-- `modStack` changes one entry. -/
theorem stackOf_modStack (k : Nat) (f : Stack → Stack) (x : Nat) (d : Dev) : stackOf (modStack k f d) x = if x = k then f (stackOf d k) else stackOf d x := tget_tmod _ _ _ _ _
@[simp] theorem stackOf_modStack_at (k : Nat) (f : Stack → Stack) (d : Dev) : stackOf (modStack k f d) k = f (stackOf d k) := by simp [stackOf_modStack]
theorem stackOf_modStack_off {x k : Nat} (f : Stack → Stack) (d : Dev) (h : x ≠ k) : stackOf (modStack k f d) x = stackOf d x := by simp [stackOf_modStack, h]
@[simp] theorem modStack_reads (k : Nat) (f : Stack → Stack) (d : Dev) :
    (∀ x, bpOf (modStack k f d) x = bpOf d x) ∧ (∀ x, physOf (modStack k f d) x = physOf d x) ∧
    (∀ x, frameOf (modStack k f d) x = frameOf d x) ∧ (∀ x, gatesOf (modStack k f d) x = gatesOf d x) ∧
    (∀ x, coreOf (modStack k f d) x = coreOf d x) ∧ (∀ x, clusterOf (modStack k f d) x = clusterOf d x) ∧
    (∀ x, invOf (modStack k f d) x = invOf d x) ∧ (∀ x, ctxOf (modStack k f d) x = ctxOf d x) ∧
    (∀ x, partOf (modStack k f d) x = partOf d x) ∧ (∀ x, pairOf (modStack k f d) x = pairOf d x) ∧
    (∀ x, rringOf (modStack k f d) x = rringOf d x) ∧ (∀ x, cmdOf (modStack k f d) x = cmdOf d x) ∧
    (∀ x, pcieOf (modStack k f d) x = pcieOf d x) ∧ (∀ x, linkOf (modStack k f d) x = linkOf d x) ∧
    (∀ x, faultQOf (modStack k f d) x = faultQOf d x) ∧ (∀ x, nbrOf (modStack k f d) x = nbrOf d x) ∧
    (∀ x, dirOf (modStack k f d) x = dirOf d x) ∧ (∀ x, parserOf (modStack k f d) x = parserOf d x) ∧
    (∀ x, wayOf (modStack k f d) x = wayOf d x) ∧ (∀ x, ftAt (modStack k f d) x = ftAt d x) ∧
    (∀ x, ruleAt (modStack k f d) x = ruleAt d x) ∧ (∀ x, regVal (modStack k f d) x = regVal d x) ∧
    (∀ c i j, ctrVal (modStack k f d) c i j = ctrVal d c i j) :=
  ⟨fun _ => rfl, fun _ => rfl, fun _ => rfl, fun _ => rfl, fun _ => rfl, fun _ => rfl, fun _ => rfl, fun _ => rfl, fun _ => rfl, fun _ => rfl, fun _ => rfl, fun _ => rfl, fun _ => rfl, fun _ => rfl, fun _ => rfl, fun _ => rfl, fun _ => rfl, fun _ => rfl, fun _ => rfl, fun _ => rfl, fun _ => rfl, fun _ => rfl, fun _ _ _ => rfl⟩
@[simp] theorem modStack_keeps (k : Nat) (f : Stack → Stack) (d : Dev) :
    (modStack k f d).time = d.time ∧ (modStack k f d).regs = d.regs ∧ (modStack k f d).ctr = d.ctr ∧ (modStack k f d).frozen = d.frozen ∧
    (modStack k f d).hostMem = d.hostMem ∧ (modStack k f d).edge = d.edge ∧ (modStack k f d).out = d.out ∧ (modStack k f d).ctxs = d.ctxs ∧
    (modStack k f d).recPend = d.recPend ∧ (modStack k f d).comp = d.comp ∧ (modStack k f d).ep = d.ep ∧ (modStack k f d).parts = d.parts ∧
    (modStack k f d).partOp = d.partOp ∧ (modStack k f d).pairs = d.pairs ∧ (modStack k f d).rrings = d.rrings ∧
    (modStack k f d).cmds = d.cmds ∧ (modStack k f d).nextTkt = d.nextTkt ∧ (modStack k f d).msixOn = d.msixOn ∧
    (modStack k f d).msixPba = d.msixPba ∧ (modStack k f d).errUp = d.errUp ∧ (modStack k f d).tabVers = d.tabVers ∧
    (modStack k f d).maint = d.maint ∧ (modStack k f d).keyed = d.keyed ∧ (modStack k f d).txBk = d.txBk ∧
    (modStack k f d).numVfs = d.numVfs ∧ (modStack k f d).pcie = d.pcie ∧ (modStack k f d).fab = d.fab ∧ (modStack k f d).isl = d.isl ∧
    (modStack k f d).otp = d.otp ∧ (modStack k f d).boot = d.boot ∧ (modStack k f d).pwr = d.pwr ∧ (modStack k f d).pins = d.pins ∧
    (modStack k f d).obs = d.obs ∧ (modStack k f d).bridges = d.bridges ∧ (modStack k f d).free = d.free :=
  ⟨rfl, rfl, rfl, rfl, rfl, rfl, rfl, rfl, rfl, rfl, rfl, rfl, rfl, rfl, rfl, rfl, rfl, rfl, rfl, rfl, rfl, rfl, rfl, rfl, rfl, rfl, rfl, rfl, rfl, rfl, rfl, rfl, rfl, rfl, rfl⟩

/-- `setParser` changes one entry. -/
theorem parserOf_setParser (k : Nat) (v : Parser) (x : Nat) (d : Dev) : parserOf (setParser k v d) x = if x = k then v else parserOf d x := tget_tput _ _ _ _ _
@[simp] theorem parserOf_setParser_at (k : Nat) (v : Parser) (d : Dev) : parserOf (setParser k v d) k = v := by simp [parserOf_setParser]
theorem parserOf_setParser_off {x k : Nat} (v : Parser) (d : Dev) (h : x ≠ k) : parserOf (setParser k v d) x = parserOf d x := by simp [parserOf_setParser, h]
@[simp] theorem setParser_reads (k : Nat) (v : Parser) (d : Dev) :
    (∀ x, bpOf (setParser k v d) x = bpOf d x) ∧ (∀ x, physOf (setParser k v d) x = physOf d x) ∧
    (∀ x, frameOf (setParser k v d) x = frameOf d x) ∧ (∀ x, gatesOf (setParser k v d) x = gatesOf d x) ∧
    (∀ x, coreOf (setParser k v d) x = coreOf d x) ∧ (∀ x, clusterOf (setParser k v d) x = clusterOf d x) ∧
    (∀ x, invOf (setParser k v d) x = invOf d x) ∧ (∀ x, ctxOf (setParser k v d) x = ctxOf d x) ∧
    (∀ x, partOf (setParser k v d) x = partOf d x) ∧ (∀ x, pairOf (setParser k v d) x = pairOf d x) ∧
    (∀ x, rringOf (setParser k v d) x = rringOf d x) ∧ (∀ x, cmdOf (setParser k v d) x = cmdOf d x) ∧
    (∀ x, pcieOf (setParser k v d) x = pcieOf d x) ∧ (∀ x, linkOf (setParser k v d) x = linkOf d x) ∧
    (∀ x, faultQOf (setParser k v d) x = faultQOf d x) ∧ (∀ x, nbrOf (setParser k v d) x = nbrOf d x) ∧
    (∀ x, dirOf (setParser k v d) x = dirOf d x) ∧ (∀ x, stackOf (setParser k v d) x = stackOf d x) ∧
    (∀ x, wayOf (setParser k v d) x = wayOf d x) ∧ (∀ x, ftAt (setParser k v d) x = ftAt d x) ∧
    (∀ x, ruleAt (setParser k v d) x = ruleAt d x) ∧ (∀ x, regVal (setParser k v d) x = regVal d x) ∧
    (∀ c i j, ctrVal (setParser k v d) c i j = ctrVal d c i j) :=
  ⟨fun _ => rfl, fun _ => rfl, fun _ => rfl, fun _ => rfl, fun _ => rfl, fun _ => rfl, fun _ => rfl, fun _ => rfl, fun _ => rfl, fun _ => rfl, fun _ => rfl, fun _ => rfl, fun _ => rfl, fun _ => rfl, fun _ => rfl, fun _ => rfl, fun _ => rfl, fun _ => rfl, fun _ => rfl, fun _ => rfl, fun _ => rfl, fun _ => rfl, fun _ _ _ => rfl⟩
@[simp] theorem setParser_keeps (k : Nat) (v : Parser) (d : Dev) :
    (setParser k v d).time = d.time ∧ (setParser k v d).regs = d.regs ∧ (setParser k v d).ctr = d.ctr ∧
    (setParser k v d).frozen = d.frozen ∧ (setParser k v d).hostMem = d.hostMem ∧ (setParser k v d).out = d.out ∧
    (setParser k v d).ctxs = d.ctxs ∧ (setParser k v d).recPend = d.recPend ∧ (setParser k v d).comp = d.comp ∧
    (setParser k v d).store = d.store ∧ (setParser k v d).ep = d.ep ∧ (setParser k v d).parts = d.parts ∧
    (setParser k v d).partOp = d.partOp ∧ (setParser k v d).pairs = d.pairs ∧ (setParser k v d).rrings = d.rrings ∧
    (setParser k v d).cmds = d.cmds ∧ (setParser k v d).nextTkt = d.nextTkt ∧ (setParser k v d).msixOn = d.msixOn ∧
    (setParser k v d).msixPba = d.msixPba ∧ (setParser k v d).errUp = d.errUp ∧ (setParser k v d).tabVers = d.tabVers ∧
    (setParser k v d).maint = d.maint ∧ (setParser k v d).keyed = d.keyed ∧ (setParser k v d).txBk = d.txBk ∧
    (setParser k v d).numVfs = d.numVfs ∧ (setParser k v d).pcie = d.pcie ∧ (setParser k v d).fab = d.fab ∧ (setParser k v d).isl = d.isl ∧
    (setParser k v d).otp = d.otp ∧ (setParser k v d).boot = d.boot ∧ (setParser k v d).pwr = d.pwr ∧ (setParser k v d).pins = d.pins ∧
    (setParser k v d).obs = d.obs ∧ (setParser k v d).bridges = d.bridges ∧ (setParser k v d).free = d.free :=
  ⟨rfl, rfl, rfl, rfl, rfl, rfl, rfl, rfl, rfl, rfl, rfl, rfl, rfl, rfl, rfl, rfl, rfl, rfl, rfl, rfl, rfl, rfl, rfl, rfl, rfl, rfl, rfl, rfl, rfl, rfl, rfl, rfl, rfl, rfl, rfl⟩

/-- `setWay` changes one entry. -/
theorem wayOf_setWay (k : Nat) (v : FlowWay) (x : Nat) (d : Dev) : wayOf (setWay k v d) x = if x = k then v else wayOf d x := tget_tput _ _ _ _ _
@[simp] theorem wayOf_setWay_at (k : Nat) (v : FlowWay) (d : Dev) : wayOf (setWay k v d) k = v := by simp [wayOf_setWay]
theorem wayOf_setWay_off {x k : Nat} (v : FlowWay) (d : Dev) (h : x ≠ k) : wayOf (setWay k v d) x = wayOf d x := by simp [wayOf_setWay, h]
@[simp] theorem setWay_reads (k : Nat) (v : FlowWay) (d : Dev) :
    (∀ x, bpOf (setWay k v d) x = bpOf d x) ∧ (∀ x, physOf (setWay k v d) x = physOf d x) ∧ (∀ x, frameOf (setWay k v d) x = frameOf d x) ∧
    (∀ x, gatesOf (setWay k v d) x = gatesOf d x) ∧ (∀ x, coreOf (setWay k v d) x = coreOf d x) ∧
    (∀ x, clusterOf (setWay k v d) x = clusterOf d x) ∧ (∀ x, invOf (setWay k v d) x = invOf d x) ∧
    (∀ x, ctxOf (setWay k v d) x = ctxOf d x) ∧ (∀ x, partOf (setWay k v d) x = partOf d x) ∧ (∀ x, pairOf (setWay k v d) x = pairOf d x) ∧
    (∀ x, rringOf (setWay k v d) x = rringOf d x) ∧ (∀ x, cmdOf (setWay k v d) x = cmdOf d x) ∧
    (∀ x, pcieOf (setWay k v d) x = pcieOf d x) ∧ (∀ x, linkOf (setWay k v d) x = linkOf d x) ∧
    (∀ x, faultQOf (setWay k v d) x = faultQOf d x) ∧ (∀ x, nbrOf (setWay k v d) x = nbrOf d x) ∧
    (∀ x, dirOf (setWay k v d) x = dirOf d x) ∧ (∀ x, stackOf (setWay k v d) x = stackOf d x) ∧
    (∀ x, parserOf (setWay k v d) x = parserOf d x) ∧ (∀ x, ftAt (setWay k v d) x = ftAt d x) ∧
    (∀ x, ruleAt (setWay k v d) x = ruleAt d x) ∧ (∀ x, regVal (setWay k v d) x = regVal d x) ∧
    (∀ c i j, ctrVal (setWay k v d) c i j = ctrVal d c i j) :=
  ⟨fun _ => rfl, fun _ => rfl, fun _ => rfl, fun _ => rfl, fun _ => rfl, fun _ => rfl, fun _ => rfl, fun _ => rfl, fun _ => rfl, fun _ => rfl, fun _ => rfl, fun _ => rfl, fun _ => rfl, fun _ => rfl, fun _ => rfl, fun _ => rfl, fun _ => rfl, fun _ => rfl, fun _ => rfl, fun _ => rfl, fun _ => rfl, fun _ => rfl, fun _ _ _ => rfl⟩
@[simp] theorem setWay_keeps (k : Nat) (v : FlowWay) (d : Dev) :
    (setWay k v d).time = d.time ∧ (setWay k v d).regs = d.regs ∧ (setWay k v d).ctr = d.ctr ∧ (setWay k v d).frozen = d.frozen ∧
    (setWay k v d).hostMem = d.hostMem ∧ (setWay k v d).out = d.out ∧ (setWay k v d).ctxs = d.ctxs ∧ (setWay k v d).recPend = d.recPend ∧
    (setWay k v d).comp = d.comp ∧ (setWay k v d).store = d.store ∧ (setWay k v d).ep = d.ep ∧ (setWay k v d).parts = d.parts ∧
    (setWay k v d).partOp = d.partOp ∧ (setWay k v d).pairs = d.pairs ∧ (setWay k v d).rrings = d.rrings ∧ (setWay k v d).cmds = d.cmds ∧
    (setWay k v d).nextTkt = d.nextTkt ∧ (setWay k v d).msixOn = d.msixOn ∧ (setWay k v d).msixPba = d.msixPba ∧
    (setWay k v d).errUp = d.errUp ∧ (setWay k v d).tabVers = d.tabVers ∧ (setWay k v d).maint = d.maint ∧ (setWay k v d).keyed = d.keyed ∧
    (setWay k v d).txBk = d.txBk ∧ (setWay k v d).numVfs = d.numVfs ∧ (setWay k v d).pcie = d.pcie ∧ (setWay k v d).fab = d.fab ∧
    (setWay k v d).isl = d.isl ∧ (setWay k v d).otp = d.otp ∧ (setWay k v d).boot = d.boot ∧ (setWay k v d).pwr = d.pwr ∧
    (setWay k v d).pins = d.pins ∧ (setWay k v d).obs = d.obs ∧ (setWay k v d).bridges = d.bridges ∧ (setWay k v d).free = d.free :=
  ⟨rfl, rfl, rfl, rfl, rfl, rfl, rfl, rfl, rfl, rfl, rfl, rfl, rfl, rfl, rfl, rfl, rfl, rfl, rfl, rfl, rfl, rfl, rfl, rfl, rfl, rfl, rfl, rfl, rfl, rfl, rfl, rfl, rfl, rfl, rfl⟩

/-- `setFt` changes one entry. -/
theorem ftAt_setFt (k : Nat) (v : FlowEntry) (x : Nat) (d : Dev) : ftAt (setFt k v d) x = if x = k then v else ftAt d x := tget_tput _ _ _ _ _
@[simp] theorem ftAt_setFt_at (k : Nat) (v : FlowEntry) (d : Dev) : ftAt (setFt k v d) k = v := by simp [ftAt_setFt]
theorem ftAt_setFt_off {x k : Nat} (v : FlowEntry) (d : Dev) (h : x ≠ k) : ftAt (setFt k v d) x = ftAt d x := by simp [ftAt_setFt, h]
@[simp] theorem setFt_reads (k : Nat) (v : FlowEntry) (d : Dev) :
    (∀ x, bpOf (setFt k v d) x = bpOf d x) ∧ (∀ x, physOf (setFt k v d) x = physOf d x) ∧ (∀ x, frameOf (setFt k v d) x = frameOf d x) ∧
    (∀ x, gatesOf (setFt k v d) x = gatesOf d x) ∧ (∀ x, coreOf (setFt k v d) x = coreOf d x) ∧
    (∀ x, clusterOf (setFt k v d) x = clusterOf d x) ∧ (∀ x, invOf (setFt k v d) x = invOf d x) ∧
    (∀ x, ctxOf (setFt k v d) x = ctxOf d x) ∧ (∀ x, partOf (setFt k v d) x = partOf d x) ∧ (∀ x, pairOf (setFt k v d) x = pairOf d x) ∧
    (∀ x, rringOf (setFt k v d) x = rringOf d x) ∧ (∀ x, cmdOf (setFt k v d) x = cmdOf d x) ∧ (∀ x, pcieOf (setFt k v d) x = pcieOf d x) ∧
    (∀ x, linkOf (setFt k v d) x = linkOf d x) ∧ (∀ x, faultQOf (setFt k v d) x = faultQOf d x) ∧
    (∀ x, nbrOf (setFt k v d) x = nbrOf d x) ∧ (∀ x, dirOf (setFt k v d) x = dirOf d x) ∧ (∀ x, stackOf (setFt k v d) x = stackOf d x) ∧
    (∀ x, parserOf (setFt k v d) x = parserOf d x) ∧ (∀ x, wayOf (setFt k v d) x = wayOf d x) ∧
    (∀ x, ruleAt (setFt k v d) x = ruleAt d x) ∧ (∀ x, regVal (setFt k v d) x = regVal d x) ∧
    (∀ c i j, ctrVal (setFt k v d) c i j = ctrVal d c i j) :=
  ⟨fun _ => rfl, fun _ => rfl, fun _ => rfl, fun _ => rfl, fun _ => rfl, fun _ => rfl, fun _ => rfl, fun _ => rfl, fun _ => rfl, fun _ => rfl, fun _ => rfl, fun _ => rfl, fun _ => rfl, fun _ => rfl, fun _ => rfl, fun _ => rfl, fun _ => rfl, fun _ => rfl, fun _ => rfl, fun _ => rfl, fun _ => rfl, fun _ => rfl, fun _ _ _ => rfl⟩
@[simp] theorem setFt_keeps (k : Nat) (v : FlowEntry) (d : Dev) :
    (setFt k v d).time = d.time ∧ (setFt k v d).regs = d.regs ∧ (setFt k v d).ctr = d.ctr ∧ (setFt k v d).frozen = d.frozen ∧
    (setFt k v d).hostMem = d.hostMem ∧ (setFt k v d).out = d.out ∧ (setFt k v d).ctxs = d.ctxs ∧ (setFt k v d).recPend = d.recPend ∧
    (setFt k v d).comp = d.comp ∧ (setFt k v d).store = d.store ∧ (setFt k v d).ep = d.ep ∧ (setFt k v d).parts = d.parts ∧
    (setFt k v d).partOp = d.partOp ∧ (setFt k v d).pairs = d.pairs ∧ (setFt k v d).rrings = d.rrings ∧ (setFt k v d).cmds = d.cmds ∧
    (setFt k v d).nextTkt = d.nextTkt ∧ (setFt k v d).msixOn = d.msixOn ∧ (setFt k v d).msixPba = d.msixPba ∧
    (setFt k v d).errUp = d.errUp ∧ (setFt k v d).tabVers = d.tabVers ∧ (setFt k v d).maint = d.maint ∧ (setFt k v d).keyed = d.keyed ∧
    (setFt k v d).txBk = d.txBk ∧ (setFt k v d).numVfs = d.numVfs ∧ (setFt k v d).pcie = d.pcie ∧ (setFt k v d).fab = d.fab ∧
    (setFt k v d).isl = d.isl ∧ (setFt k v d).otp = d.otp ∧ (setFt k v d).boot = d.boot ∧ (setFt k v d).pwr = d.pwr ∧
    (setFt k v d).pins = d.pins ∧ (setFt k v d).obs = d.obs ∧ (setFt k v d).bridges = d.bridges ∧ (setFt k v d).free = d.free :=
  ⟨rfl, rfl, rfl, rfl, rfl, rfl, rfl, rfl, rfl, rfl, rfl, rfl, rfl, rfl, rfl, rfl, rfl, rfl, rfl, rfl, rfl, rfl, rfl, rfl, rfl, rfl, rfl, rfl, rfl, rfl, rfl, rfl, rfl, rfl, rfl⟩

/-- `setRule` changes one entry. -/
theorem ruleAt_setRule (k : Nat) (v : RuleSlot) (x : Nat) (d : Dev) : ruleAt (setRule k v d) x = if x = k then v else ruleAt d x := tget_tput _ _ _ _ _
@[simp] theorem ruleAt_setRule_at (k : Nat) (v : RuleSlot) (d : Dev) : ruleAt (setRule k v d) k = v := by simp [ruleAt_setRule]
theorem ruleAt_setRule_off {x k : Nat} (v : RuleSlot) (d : Dev) (h : x ≠ k) : ruleAt (setRule k v d) x = ruleAt d x := by simp [ruleAt_setRule, h]
@[simp] theorem setRule_reads (k : Nat) (v : RuleSlot) (d : Dev) :
    (∀ x, bpOf (setRule k v d) x = bpOf d x) ∧ (∀ x, physOf (setRule k v d) x = physOf d x) ∧
    (∀ x, frameOf (setRule k v d) x = frameOf d x) ∧ (∀ x, gatesOf (setRule k v d) x = gatesOf d x) ∧
    (∀ x, coreOf (setRule k v d) x = coreOf d x) ∧ (∀ x, clusterOf (setRule k v d) x = clusterOf d x) ∧
    (∀ x, invOf (setRule k v d) x = invOf d x) ∧ (∀ x, ctxOf (setRule k v d) x = ctxOf d x) ∧
    (∀ x, partOf (setRule k v d) x = partOf d x) ∧ (∀ x, pairOf (setRule k v d) x = pairOf d x) ∧
    (∀ x, rringOf (setRule k v d) x = rringOf d x) ∧ (∀ x, cmdOf (setRule k v d) x = cmdOf d x) ∧
    (∀ x, pcieOf (setRule k v d) x = pcieOf d x) ∧ (∀ x, linkOf (setRule k v d) x = linkOf d x) ∧
    (∀ x, faultQOf (setRule k v d) x = faultQOf d x) ∧ (∀ x, nbrOf (setRule k v d) x = nbrOf d x) ∧
    (∀ x, dirOf (setRule k v d) x = dirOf d x) ∧ (∀ x, stackOf (setRule k v d) x = stackOf d x) ∧
    (∀ x, parserOf (setRule k v d) x = parserOf d x) ∧ (∀ x, wayOf (setRule k v d) x = wayOf d x) ∧
    (∀ x, ftAt (setRule k v d) x = ftAt d x) ∧ (∀ x, regVal (setRule k v d) x = regVal d x) ∧
    (∀ c i j, ctrVal (setRule k v d) c i j = ctrVal d c i j) :=
  ⟨fun _ => rfl, fun _ => rfl, fun _ => rfl, fun _ => rfl, fun _ => rfl, fun _ => rfl, fun _ => rfl, fun _ => rfl, fun _ => rfl, fun _ => rfl, fun _ => rfl, fun _ => rfl, fun _ => rfl, fun _ => rfl, fun _ => rfl, fun _ => rfl, fun _ => rfl, fun _ => rfl, fun _ => rfl, fun _ => rfl, fun _ => rfl, fun _ => rfl, fun _ _ _ => rfl⟩
@[simp] theorem setRule_keeps (k : Nat) (v : RuleSlot) (d : Dev) :
    (setRule k v d).time = d.time ∧ (setRule k v d).regs = d.regs ∧ (setRule k v d).ctr = d.ctr ∧ (setRule k v d).frozen = d.frozen ∧
    (setRule k v d).hostMem = d.hostMem ∧ (setRule k v d).out = d.out ∧ (setRule k v d).ctxs = d.ctxs ∧
    (setRule k v d).recPend = d.recPend ∧ (setRule k v d).comp = d.comp ∧ (setRule k v d).store = d.store ∧ (setRule k v d).ep = d.ep ∧
    (setRule k v d).parts = d.parts ∧ (setRule k v d).partOp = d.partOp ∧ (setRule k v d).pairs = d.pairs ∧
    (setRule k v d).rrings = d.rrings ∧ (setRule k v d).cmds = d.cmds ∧ (setRule k v d).nextTkt = d.nextTkt ∧
    (setRule k v d).msixOn = d.msixOn ∧ (setRule k v d).msixPba = d.msixPba ∧ (setRule k v d).errUp = d.errUp ∧
    (setRule k v d).tabVers = d.tabVers ∧ (setRule k v d).maint = d.maint ∧ (setRule k v d).keyed = d.keyed ∧
    (setRule k v d).txBk = d.txBk ∧ (setRule k v d).numVfs = d.numVfs ∧ (setRule k v d).pcie = d.pcie ∧ (setRule k v d).fab = d.fab ∧
    (setRule k v d).isl = d.isl ∧ (setRule k v d).otp = d.otp ∧ (setRule k v d).boot = d.boot ∧ (setRule k v d).pwr = d.pwr ∧
    (setRule k v d).pins = d.pins ∧ (setRule k v d).obs = d.obs ∧ (setRule k v d).bridges = d.bridges ∧ (setRule k v d).free = d.free :=
  ⟨rfl, rfl, rfl, rfl, rfl, rfl, rfl, rfl, rfl, rfl, rfl, rfl, rfl, rfl, rfl, rfl, rfl, rfl, rfl, rfl, rfl, rfl, rfl, rfl, rfl, rfl, rfl, rfl, rfl, rfl, rfl, rfl, rfl, rfl, rfl⟩

end Sys2Proof.Machine
end

