-- ==== Sys2Proof/Laws/Commands.lean ====
section
/-! SUPPORT. For every command: what its well-formedness asks, and the meaning that exec gives it. -/

namespace Sys2Proof.Machine

theorem wf_frameReceive (bp : Nat) (total : Nat) (bytes : List Byte) :
    wellFormed (.frameReceive bp total bytes) = (within [(bp, 128)]) := rfl
theorem exec_frameReceive (bp : Nat) (total : Nat) (bytes : List Byte) (s : State) :
    exec (.frameReceive bp total bytes) s = execFrameReceive bp total bytes s := rfl
theorem wf_frameBytesArrive (bp : Nat) (bytes : List Byte) :
    wellFormed (.frameBytesArrive bp bytes) = (within [(bp, 128)]) := rfl
theorem exec_frameBytesArrive (bp : Nat) (bytes : List Byte) (s : State) :
    exec (.frameBytesArrive bp bytes) s = execFrameBytesArrive bp bytes s := rfl
theorem wf_frameEnd (bp : Nat) (bytes : List Byte) (fcsBad : Bool) (fecBad : Bool) (fecCorrected : Bool) :
    wellFormed (.frameEnd bp bytes fcsBad fecBad fecCorrected) = (within [(bp, 128)]) := rfl
theorem exec_frameEnd (bp : Nat) (bytes : List Byte) (fcsBad : Bool) (fecBad : Bool) (fecCorrected : Bool) (s : State) :
    exec (.frameEnd bp bytes fcsBad fecBad fecCorrected) s = execFrameEnd bp bytes fcsBad fecBad fecCorrected s := rfl
theorem wf_macControlFrameReceive (bp : Nat) (bytes : List Byte) :
    wellFormed (.macControlFrameReceive bp bytes) = (within [(bp, 128)]) := rfl
theorem exec_macControlFrameReceive (bp : Nat) (bytes : List Byte) (s : State) :
    exec (.macControlFrameReceive bp bytes) s = execMacControlFrameReceive bp bytes s := rfl
theorem wf_pauseExpire (bp : Nat) (queue : Nat) :
    wellFormed (.pauseExpire bp queue) = (within [(bp, 128), (queue, 16)]) := rfl
theorem exec_pauseExpire (bp : Nat) (queue : Nat) (s : State) :
    exec (.pauseExpire bp queue) s = execPauseExpire bp queue s := rfl
theorem wf_parserDispatch (pa : Nat) :
    wellFormed (.parserDispatch pa) = (within [(pa, 1280)]) := rfl
theorem exec_parserDispatch (pa : Nat) (s : State) :
    exec (.parserDispatch pa) s = execParserDispatch pa s := rfl
theorem wf_claveLdb (pa : Nat) (gd : Nat) (off : Nat) :
    wellFormed (.claveLdb pa gd off) = (within [(pa, 1280), (gd, 16), (off, 512)]) := rfl
theorem exec_claveLdb (pa : Nat) (gd : Nat) (off : Nat) (s : State) :
    exec (.claveLdb pa gd off) s = execClaveLdb pa gd off s := rfl
theorem wf_claveLdh (pa : Nat) (gd : Nat) (off : Nat) :
    wellFormed (.claveLdh pa gd off) = (within [(pa, 1280), (gd, 16), (off, 512)]) := rfl
theorem exec_claveLdh (pa : Nat) (gd : Nat) (off : Nat) (s : State) :
    exec (.claveLdh pa gd off) s = execClaveLdh pa gd off s := rfl
theorem wf_claveLdw (pa : Nat) (gd : Nat) (off : Nat) :
    wellFormed (.claveLdw pa gd off) = (within [(pa, 1280), (gd, 16), (off, 512)]) := rfl
theorem exec_claveLdw (pa : Nat) (gd : Nat) (off : Nat) (s : State) :
    exec (.claveLdw pa gd off) s = execClaveLdw pa gd off s := rfl
theorem wf_claveLdbf (pa : Nat) (gd : Nat) (off : Nat) (pos : Nat) (len : Nat) :
    wellFormed (.claveLdbf pa gd off pos len) = (within [(pa, 1280), (gd, 16), (off, 512)] && decide (1 ≤ len ∧ pos + len ≤ 32)) := rfl
theorem exec_claveLdbf (pa : Nat) (gd : Nat) (off : Nat) (pos : Nat) (len : Nat) (s : State) :
    exec (.claveLdbf pa gd off pos len) s = execClaveLdbf pa gd off pos len s := rfl
theorem wf_claveAdv (pa : Nat) (imm : Nat) :
    wellFormed (.claveAdv pa imm) = (within [(pa, 1280), (imm, 512)]) := rfl
theorem exec_claveAdv (pa : Nat) (imm : Nat) (s : State) :
    exec (.claveAdv pa imm) s = execClaveAdv pa imm s := rfl
theorem wf_claveAdvr (pa : Nat) (gs : Nat) (sh : Nat) :
    wellFormed (.claveAdvr pa gs sh) = (within [(pa, 1280), (gs, 16), (sh, 4)]) := rfl
theorem exec_claveAdvr (pa : Nat) (gs : Nat) (sh : Nat) (s : State) :
    exec (.claveAdvr pa gs sh) s = execClaveAdvr pa gs sh s := rfl
theorem wf_claveSetc (pa : Nat) (gs : Nat) :
    wellFormed (.claveSetc pa gs) = (within [(pa, 1280), (gs, 16)]) := rfl
theorem exec_claveSetc (pa : Nat) (gs : Nat) (s : State) :
    exec (.claveSetc pa gs) s = execClaveSetc pa gs s := rfl
theorem wf_claveGetc (pa : Nat) (gd : Nat) :
    wellFormed (.claveGetc pa gd) = (within [(pa, 1280), (gd, 16)]) := rfl
theorem exec_claveGetc (pa : Nat) (gd : Nat) (s : State) :
    exec (.claveGetc pa gd) s = execClaveGetc pa gd s := rfl
theorem wf_claveMovi (pa : Nat) (gd : Nat) (imm : BitVec 16) :
    wellFormed (.claveMovi pa gd imm) = (within [(pa, 1280), (gd, 16)]) := rfl
theorem exec_claveMovi (pa : Nat) (gd : Nat) (imm : BitVec 16) (s : State) :
    exec (.claveMovi pa gd imm) s = execClaveMovi pa gd imm s := rfl
theorem wf_claveMovhi (pa : Nat) (gd : Nat) (imm : BitVec 16) :
    wellFormed (.claveMovhi pa gd imm) = (within [(pa, 1280), (gd, 16)]) := rfl
theorem exec_claveMovhi (pa : Nat) (gd : Nat) (imm : BitVec 16) (s : State) :
    exec (.claveMovhi pa gd imm) s = execClaveMovhi pa gd imm s := rfl
theorem wf_claveMov (pa : Nat) (gd : Nat) (gs : Nat) :
    wellFormed (.claveMov pa gd gs) = (within [(pa, 1280), (gd, 16), (gs, 16)]) := rfl
theorem exec_claveMov (pa : Nat) (gd : Nat) (gs : Nat) (s : State) :
    exec (.claveMov pa gd gs) s = execClaveMov pa gd gs s := rfl
theorem wf_claveAdd (pa : Nat) (gd : Nat) (ga : Nat) (gb : Nat) :
    wellFormed (.claveAdd pa gd ga gb) = (within [(pa, 1280), (gd, 16), (ga, 16), (gb, 16)]) := rfl
theorem exec_claveAdd (pa : Nat) (gd : Nat) (ga : Nat) (gb : Nat) (s : State) :
    exec (.claveAdd pa gd ga gb) s = execClaveAdd pa gd ga gb s := rfl
theorem wf_claveSub (pa : Nat) (gd : Nat) (ga : Nat) (gb : Nat) :
    wellFormed (.claveSub pa gd ga gb) = (within [(pa, 1280), (gd, 16), (ga, 16), (gb, 16)]) := rfl
theorem exec_claveSub (pa : Nat) (gd : Nat) (ga : Nat) (gb : Nat) (s : State) :
    exec (.claveSub pa gd ga gb) s = execClaveSub pa gd ga gb s := rfl
theorem wf_claveAddi (pa : Nat) (gd : Nat) (gs : Nat) (imm : BitVec 16) :
    wellFormed (.claveAddi pa gd gs imm) = (within [(pa, 1280), (gd, 16), (gs, 16)]) := rfl
theorem exec_claveAddi (pa : Nat) (gd : Nat) (gs : Nat) (imm : BitVec 16) (s : State) :
    exec (.claveAddi pa gd gs imm) s = execClaveAddi pa gd gs imm s := rfl
theorem wf_claveAnd (pa : Nat) (gd : Nat) (ga : Nat) (gb : Nat) :
    wellFormed (.claveAnd pa gd ga gb) = (within [(pa, 1280), (gd, 16), (ga, 16), (gb, 16)]) := rfl
theorem exec_claveAnd (pa : Nat) (gd : Nat) (ga : Nat) (gb : Nat) (s : State) :
    exec (.claveAnd pa gd ga gb) s = execClaveAnd pa gd ga gb s := rfl
theorem wf_claveOr (pa : Nat) (gd : Nat) (ga : Nat) (gb : Nat) :
    wellFormed (.claveOr pa gd ga gb) = (within [(pa, 1280), (gd, 16), (ga, 16), (gb, 16)]) := rfl
theorem exec_claveOr (pa : Nat) (gd : Nat) (ga : Nat) (gb : Nat) (s : State) :
    exec (.claveOr pa gd ga gb) s = execClaveOr pa gd ga gb s := rfl
theorem wf_claveXor (pa : Nat) (gd : Nat) (ga : Nat) (gb : Nat) :
    wellFormed (.claveXor pa gd ga gb) = (within [(pa, 1280), (gd, 16), (ga, 16), (gb, 16)]) := rfl
theorem exec_claveXor (pa : Nat) (gd : Nat) (ga : Nat) (gb : Nat) (s : State) :
    exec (.claveXor pa gd ga gb) s = execClaveXor pa gd ga gb s := rfl
theorem wf_claveAndi (pa : Nat) (gd : Nat) (gs : Nat) (imm : BitVec 16) :
    wellFormed (.claveAndi pa gd gs imm) = (within [(pa, 1280), (gd, 16), (gs, 16)]) := rfl
theorem exec_claveAndi (pa : Nat) (gd : Nat) (gs : Nat) (imm : BitVec 16) (s : State) :
    exec (.claveAndi pa gd gs imm) s = execClaveAndi pa gd gs imm s := rfl
theorem wf_claveOri (pa : Nat) (gd : Nat) (gs : Nat) (imm : BitVec 16) :
    wellFormed (.claveOri pa gd gs imm) = (within [(pa, 1280), (gd, 16), (gs, 16)]) := rfl
theorem exec_claveOri (pa : Nat) (gd : Nat) (gs : Nat) (imm : BitVec 16) (s : State) :
    exec (.claveOri pa gd gs imm) s = execClaveOri pa gd gs imm s := rfl
theorem wf_claveShl (pa : Nat) (gd : Nat) (gs : Nat) (imm5 : Nat) :
    wellFormed (.claveShl pa gd gs imm5) = (within [(pa, 1280), (gd, 16), (gs, 16), (imm5, 32)]) := rfl
theorem exec_claveShl (pa : Nat) (gd : Nat) (gs : Nat) (imm5 : Nat) (s : State) :
    exec (.claveShl pa gd gs imm5) s = execClaveShl pa gd gs imm5 s := rfl
theorem wf_claveShr (pa : Nat) (gd : Nat) (gs : Nat) (imm5 : Nat) :
    wellFormed (.claveShr pa gd gs imm5) = (within [(pa, 1280), (gd, 16), (gs, 16), (imm5, 32)]) := rfl
theorem exec_claveShr (pa : Nat) (gd : Nat) (gs : Nat) (imm5 : Nat) (s : State) :
    exec (.claveShr pa gd gs imm5) s = execClaveShr pa gd gs imm5 s := rfl
theorem wf_claveBeq (pa : Nat) (gs : Nat) (imm : BitVec 16) (target : Nat) :
    wellFormed (.claveBeq pa gs imm target) = (within [(pa, 1280), (gs, 16), (target, 16384)]) := rfl
theorem exec_claveBeq (pa : Nat) (gs : Nat) (imm : BitVec 16) (target : Nat) (s : State) :
    exec (.claveBeq pa gs imm target) s = execClaveBeq pa gs imm target s := rfl
theorem wf_claveBne (pa : Nat) (gs : Nat) (imm : BitVec 16) (target : Nat) :
    wellFormed (.claveBne pa gs imm target) = (within [(pa, 1280), (gs, 16), (target, 16384)]) := rfl
theorem exec_claveBne (pa : Nat) (gs : Nat) (imm : BitVec 16) (target : Nat) (s : State) :
    exec (.claveBne pa gs imm target) s = execClaveBne pa gs imm target s := rfl
theorem wf_claveBlt (pa : Nat) (gs : Nat) (imm : BitVec 16) (target : Nat) :
    wellFormed (.claveBlt pa gs imm target) = (within [(pa, 1280), (gs, 16), (target, 16384)]) := rfl
theorem exec_claveBlt (pa : Nat) (gs : Nat) (imm : BitVec 16) (target : Nat) (s : State) :
    exec (.claveBlt pa gs imm target) s = execClaveBlt pa gs imm target s := rfl
theorem wf_claveBge (pa : Nat) (gs : Nat) (imm : BitVec 16) (target : Nat) :
    wellFormed (.claveBge pa gs imm target) = (within [(pa, 1280), (gs, 16), (target, 16384)]) := rfl
theorem exec_claveBge (pa : Nat) (gs : Nat) (imm : BitVec 16) (target : Nat) (s : State) :
    exec (.claveBge pa gs imm target) s = execClaveBge pa gs imm target s := rfl
theorem wf_claveBeqr (pa : Nat) (ga : Nat) (gb : Nat) (target : Nat) :
    wellFormed (.claveBeqr pa ga gb target) = (within [(pa, 1280), (ga, 16), (gb, 16), (target, 16384)]) := rfl
theorem exec_claveBeqr (pa : Nat) (ga : Nat) (gb : Nat) (target : Nat) (s : State) :
    exec (.claveBeqr pa ga gb target) s = execClaveBeqr pa ga gb target s := rfl
theorem wf_claveBner (pa : Nat) (ga : Nat) (gb : Nat) (target : Nat) :
    wellFormed (.claveBner pa ga gb target) = (within [(pa, 1280), (ga, 16), (gb, 16), (target, 16384)]) := rfl
theorem exec_claveBner (pa : Nat) (ga : Nat) (gb : Nat) (target : Nat) (s : State) :
    exec (.claveBner pa ga gb target) s = execClaveBner pa ga gb target s := rfl
theorem wf_claveJmp (pa : Nat) (target : Nat) :
    wellFormed (.claveJmp pa target) = (within [(pa, 1280), (target, 16384)]) := rfl
theorem exec_claveJmp (pa : Nat) (target : Nat) (s : State) :
    exec (.claveJmp pa target) s = execClaveJmp pa target s := rfl
theorem wf_claveSwitch (pa : Nat) (gs : Nat) (targets : List Nat) :
    wellFormed (.claveSwitch pa gs targets) = (within [(pa, 1280), (gs, 16)] && targets.length == 16 && targets.all (fun t => decide (t < 16384))) := rfl
theorem exec_claveSwitch (pa : Nat) (gs : Nat) (targets : List Nat) (s : State) :
    exec (.claveSwitch pa gs targets) s = execClaveSwitch pa gs targets s := rfl
theorem wf_claveCall (pa : Nat) (target : Nat) :
    wellFormed (.claveCall pa target) = (within [(pa, 1280), (target, 16384)]) := rfl
theorem exec_claveCall (pa : Nat) (target : Nat) (s : State) :
    exec (.claveCall pa target) s = execClaveCall pa target s := rfl
theorem wf_claveRet (pa : Nat) :
    wellFormed (.claveRet pa) = (within [(pa, 1280)]) := rfl
theorem exec_claveRet (pa : Nat) (s : State) :
    exec (.claveRet pa) s = execClaveRet pa s := rfl
theorem wf_claveHdr (pa : Nat) (type : Nat) :
    wellFormed (.claveHdr pa type) = (within [(pa, 1280), (type, 64)]) := rfl
theorem exec_claveHdr (pa : Nat) (type : Nat) (s : State) :
    exec (.claveHdr pa type) s = execClaveHdr pa type s := rfl
theorem wf_claveKeyb (pa : Nat) (gs : Nat) (bits : Nat) :
    wellFormed (.claveKeyb pa gs bits) = (within [(pa, 1280), (gs, 16)] && decide (1 ≤ bits ∧ bits ≤ 32)) := rfl
theorem exec_claveKeyb (pa : Nat) (gs : Nat) (bits : Nat) (s : State) :
    exec (.claveKeyb pa gs bits) s = execClaveKeyb pa gs bits s := rfl
theorem wf_claveKeyf (pa : Nat) (off : Nat) (len : Nat) :
    wellFormed (.claveKeyf pa off len) = (within [(pa, 1280), (off, 512)] && decide (1 ≤ len ∧ len ≤ 16)) := rfl
theorem exec_claveKeyf (pa : Nat) (off : Nat) (len : Nat) (s : State) :
    exec (.claveKeyf pa off len) s = execClaveKeyf pa off len s := rfl
theorem wf_claveFld (pa : Nat) (fn : Nat) (gs : Nat) :
    wellFormed (.claveFld pa fn gs) = (within [(pa, 1280), (fn, 64), (gs, 16)]) := rfl
theorem exec_claveFld (pa : Nat) (fn : Nat) (gs : Nat) (s : State) :
    exec (.claveFld pa fn gs) s = execClaveFld pa fn gs s := rfl
theorem wf_claveFldp (pa : Nat) (fn : Nat) (off : Nat) (len : Nat) :
    wellFormed (.claveFldp pa fn off len) = (within [(pa, 1280), (fn, 64), (off, 512)] && decide (1 ≤ len ∧ len ≤ 4)) := rfl
theorem exec_claveFldp (pa : Nat) (fn : Nat) (off : Nat) (len : Nat) (s : State) :
    exec (.claveFldp pa fn off len) s = execClaveFldp pa fn off len s := rfl
theorem wf_claveCrc (pa : Nat) (gd : Nat) (off : Nat) (len : Nat) :
    wellFormed (.claveCrc pa gd off len) = (within [(pa, 1280), (gd, 16), (off, 512)] && decide (1 ≤ len ∧ len ≤ 64)) := rfl
theorem exec_claveCrc (pa : Nat) (gd : Nat) (off : Nat) (len : Nat) (s : State) :
    exec (.claveCrc pa gd off len) s = execClaveCrc pa gd off len s := rfl
theorem wf_claveCsum (pa : Nat) (gd : Nat) (off : Nat) (len : Nat) :
    wellFormed (.claveCsum pa gd off len) = (within [(pa, 1280), (gd, 16), (off, 512)] && decide (2 ≤ len ∧ len ≤ 64 ∧ len % 2 = 0)) := rfl
theorem exec_claveCsum (pa : Nat) (gd : Nat) (off : Nat) (len : Nat) (s : State) :
    exec (.claveCsum pa gd off len) s = execClaveCsum pa gd off len s := rfl
theorem wf_claveTbl (pa : Nat) (gd : Nat) (gs : Nat) (t : Nat) :
    wellFormed (.claveTbl pa gd gs t) = (within [(pa, 1280), (gd, 16), (gs, 16), (t, 16)]) := rfl
theorem exec_claveTbl (pa : Nat) (gd : Nat) (gs : Nat) (t : Nat) (s : State) :
    exec (.claveTbl pa gd gs t) s = execClaveTbl pa gd gs t s := rfl
theorem wf_claveEnc (pa : Nat) (fn : Nat) (gs : Nat) (e : Nat) :
    wellFormed (.claveEnc pa fn gs e) = (within [(pa, 1280), (fn, 64), (gs, 16), (e, 256)]) := rfl
theorem exec_claveEnc (pa : Nat) (fn : Nat) (gs : Nat) (e : Nat) (s : State) :
    exec (.claveEnc pa fn gs e) s = execClaveEnc pa fn gs e s := rfl
theorem wf_claveMeta (pa : Nat) (gd : Nat) (sel : Nat) :
    wellFormed (.claveMeta pa gd sel) = (within [(pa, 1280), (gd, 16), (sel, 5)]) := rfl
theorem exec_claveMeta (pa : Nat) (gd : Nat) (sel : Nat) (s : State) :
    exec (.claveMeta pa gd sel) s = execClaveMeta pa gd sel s := rfl
theorem wf_claveSetm (pa : Nat) (sel : Nat) (gs : Nat) :
    wellFormed (.claveSetm pa sel gs) = (within [(pa, 1280), (sel, 2), (gs, 16)]) := rfl
theorem exec_claveSetm (pa : Nat) (sel : Nat) (gs : Nat) (s : State) :
    exec (.claveSetm pa sel gs) s = execClaveSetm pa sel gs s := rfl
theorem wf_claveDone (pa : Nat) :
    wellFormed (.claveDone pa) = (within [(pa, 1280)]) := rfl
theorem exec_claveDone (pa : Nat) (s : State) :
    exec (.claveDone pa) s = execClaveDone pa s := rfl
theorem wf_claveFail (pa : Nat) (code : Nat) :
    wellFormed (.claveFail pa code) = (within [(pa, 1280), (code, 0x80)] && decide (0x40 ≤ code)) := rfl
theorem exec_claveFail (pa : Nat) (code : Nat) (s : State) :
    exec (.claveFail pa code) s = execClaveFail pa code s := rfl
theorem wf_claveSlow (pa : Nat) (code : Nat) :
    wellFormed (.claveSlow pa code) = (within [(pa, 1280), (code, 0x100)] && decide (0x80 ≤ code)) := rfl
theorem exec_claveSlow (pa : Nat) (code : Nat) (s : State) :
    exec (.claveSlow pa code) s = execClaveSlow pa code s := rfl
theorem wf_claveNop (pa : Nat) :
    wellFormed (.claveNop pa) = (within [(pa, 1280)]) := rfl
theorem exec_claveNop (pa : Nat) (s : State) :
    exec (.claveNop pa) s = execClaveNop pa s := rfl
theorem wf_parseBudget (pa : Nat) :
    wellFormed (.parseBudget pa) = (within [(pa, 1280)]) := rfl
theorem exec_parseBudget (pa : Nat) (s : State) :
    exec (.parseBudget pa) s = execParseBudget pa s := rfl
theorem wf_matchRelease (bp : Nat) :
    wellFormed (.matchRelease bp) = (within [(bp, 128)]) := rfl
theorem exec_matchRelease (bp : Nat) (s : State) :
    exec (.matchRelease bp) s = execMatchRelease bp s := rfl
theorem wf_pfcRefresh (bp : Nat) (prio : Nat) :
    wellFormed (.pfcRefresh bp prio) = (within [(bp, 128), (prio, 9)]) := rfl
theorem exec_pfcRefresh (bp : Nat) (prio : Nat) (s : State) :
    exec (.pfcRefresh bp prio) s = execPfcRefresh bp prio s := rfl
theorem wf_flowMissAnswer (die : Nat) :
    wellFormed (.flowMissAnswer die) = (within [(die, 4)]) := rfl
theorem exec_flowMissAnswer (die : Nat) (s : State) :
    exec (.flowMissAnswer die) s = execFlowMissAnswer die s := rfl
theorem wf_flowLookupOrInsert (die : Nat) :
    wellFormed (.flowLookupOrInsert die) = (within [(die, 4)]) := rfl
theorem exec_flowLookupOrInsert (die : Nat) (s : State) :
    exec (.flowLookupOrInsert die) s = execFlowLookupOrInsert die s := rfl
theorem wf_flowWriteback (die : Nat) :
    wellFormed (.flowWriteback die) = (within [(die, 4)]) := rfl
theorem exec_flowWriteback (die : Nat) (s : State) :
    exec (.flowWriteback die) s = execFlowWriteback die s := rfl
theorem wf_flowCacheFlush (die : Nat) :
    wellFormed (.flowCacheFlush die) = (within [(die, 4)]) := rfl
theorem exec_flowCacheFlush (die : Nat) (s : State) :
    exec (.flowCacheFlush die) s = execFlowCacheFlush die s := rfl
theorem wf_flowAgingScan (die : Nat) :
    wellFormed (.flowAgingScan die) = (within [(die, 4)]) := rfl
theorem exec_flowAgingScan (die : Nat) (s : State) :
    exec (.flowAgingScan die) s = execFlowAgingScan die s := rfl
theorem wf_flowAgingCandidate (die : Nat) :
    wellFormed (.flowAgingCandidate die) = (within [(die, 4)]) := rfl
theorem exec_flowAgingCandidate (die : Nat) (s : State) :
    exec (.flowAgingCandidate die) s = execFlowAgingCandidate die s := rfl
theorem wf_flowAgingConfirm (die : Nat) :
    wellFormed (.flowAgingConfirm die) = (within [(die, 4)]) := rfl
theorem exec_flowAgingConfirm (die : Nat) (s : State) :
    exec (.flowAgingConfirm die) s = execFlowAgingConfirm die s := rfl
theorem wf_stashReinsert (die : Nat) :
    wellFormed (.stashReinsert die) = (within [(die, 4)]) := rfl
theorem exec_stashReinsert (die : Nat) (s : State) :
    exec (.stashReinsert die) s = execStashReinsert die s := rfl
theorem wf_ruleSweepDone (die : Nat) :
    wellFormed (.ruleSweepDone die) = (within [(die, 4)]) := rfl
theorem exec_ruleSweepDone (die : Nat) (s : State) :
    exec (.ruleSweepDone die) s = execRuleSweepDone die s := rfl
theorem wf_deepRequestIssue (die : Nat) :
    wellFormed (.deepRequestIssue die) = (within [(die, 4)]) := rfl
theorem exec_deepRequestIssue (die : Nat) (s : State) :
    exec (.deepRequestIssue die) s = execDeepRequestIssue die s := rfl
theorem wf_deepDeadline (die : Nat) (req : Nat) :
    wellFormed (.deepDeadline die req) = (within [(die, 4), (req, 0x10000)]) := rfl
theorem exec_deepDeadline (die : Nat) (req : Nat) (s : State) :
    exec (.deepDeadline die req) s = execDeepDeadline die req s := rfl
theorem wf_inferenceResult (die : Nat) (req : Nat) (status : Nat) (verdict : Nat) (score : Nat) (outputs : List Word32) :
    wellFormed (.inferenceResult die req status verdict score outputs) = (within [(die, 4), (req, 65536), (status, 65536), (verdict, 65536), (score, 65536)]) := rfl
theorem exec_inferenceResult (die : Nat) (req : Nat) (status : Nat) (verdict : Nat) (score : Nat) (outputs : List Word32) (s : State) :
    exec (.inferenceResult die req status verdict score outputs) s = execInferenceResult die req status verdict score outputs s := rfl
theorem wf_inferenceRequest (die : Nat) (req : Nat) :
    wellFormed (.inferenceRequest die req) = (within [(die, 4), (req, 65536)]) := rfl
theorem exec_inferenceRequest (die : Nat) (req : Nat) (s : State) :
    exec (.inferenceRequest die req) s = execInferenceRequest die req s := rfl
theorem wf_txSelect (bp : Nat) :
    wellFormed (.txSelect bp) = (within [(bp, 128)]) := rfl
theorem exec_txSelect (bp : Nat) (s : State) :
    exec (.txSelect bp) s = execTxSelect bp s := rfl
theorem wf_txDone (bp : Nat) :
    wellFormed (.txDone bp) = (within [(bp, 128)]) := rfl
theorem exec_txDone (bp : Nat) (s : State) :
    exec (.txDone bp) s = execTxDone bp s := rfl
theorem wf_gateEdge (bp : Nat) :
    wellFormed (.gateEdge bp) = (within [(bp, 128)]) := rfl
theorem exec_gateEdge (bp : Nat) (s : State) :
    exec (.gateEdge bp) s = execGateEdge bp s := rfl
theorem wf_gateListSwap (bp : Nat) :
    wellFormed (.gateListSwap bp) = (within [(bp, 128)]) := rfl
theorem exec_gateListSwap (bp : Nat) (s : State) :
    exec (.gateListSwap bp) s = execGateListSwap bp s := rfl
theorem wf_gateSwapArm (bp : Nat) (val : Nat) :
    wellFormed (.gateSwapArm bp val) = (within [(bp, 128), (val, 0x100000000)]) := rfl
theorem exec_gateSwapArm (bp : Nat) (val : Nat) (s : State) :
    exec (.gateSwapArm bp val) s = execGateSwapArm bp val s := rfl
theorem wf_samplePeriodEnd (bp : Nat) :
    wellFormed (.samplePeriodEnd bp) = (within [(bp, 128)]) := rfl
theorem exec_samplePeriodEnd (bp : Nat) (s : State) :
    exec (.samplePeriodEnd bp) s = execSamplePeriodEnd bp s := rfl
theorem wf_bufferCfgWrite (addr : Nat) (val : Nat) :
    wellFormed (.bufferCfgWrite addr val) = (within [(addr, 0x2000000), (val, 0x100000000)] && decide (0x1000000 ≤ addr ∧ addr % 4 = 0)) := rfl
theorem exec_bufferCfgWrite (addr : Nat) (val : Nat) (s : State) :
    exec (.bufferCfgWrite addr val) s = execBufferCfgWrite addr val s := rfl
theorem wf_interDieFrameArrive (src : Nat) (dst : Nat) :
    wellFormed (.interDieFrameArrive src dst) = (within [(src, 4), (dst, 4)]) := rfl
theorem exec_interDieFrameArrive (src : Nat) (dst : Nat) (s : State) :
    exec (.interDieFrameArrive src dst) s = execInterDieFrameArrive src dst s := rfl
theorem wf_portCfgWrite (p : Nat) (val : Nat) :
    wellFormed (.portCfgWrite p val) = (within [(p, 32), (val, 0x100000000)]) := rfl
theorem exec_portCfgWrite (p : Nat) (val : Nat) (s : State) :
    exec (.portCfgWrite p val) s = execPortCfgWrite p val s := rfl
theorem wf_portForceRecal (p : Nat) :
    wellFormed (.portForceRecal p) = (within [(p, 32)]) := rfl
theorem exec_portForceRecal (p : Nat) (s : State) :
    exec (.portForceRecal p) s = execPortForceRecal p s := rfl
theorem wf_portMacWrite (p : Nat) (sem : Nat) (val : Nat) (fw : Bool) :
    wellFormed (.portMacWrite p sem val fw) = (within [(p, 32), (sem, 4), (val, 0x100000000)]) := rfl
theorem exec_portMacWrite (p : Nat) (sem : Nat) (val : Nat) (fw : Bool) (s : State) :
    exec (.portMacWrite p sem val fw) s = execPortMacWrite p sem val fw s := rfl
theorem wf_ruleSeedWrite (die : Nat) (val : Nat) :
    wellFormed (.ruleSeedWrite die val) = (within [(die, 4), (val, 0x100000000)]) := rfl
theorem exec_ruleSeedWrite (die : Nat) (val : Nat) (s : State) :
    exec (.ruleSeedWrite die val) s = execRuleSeedWrite die val s := rfl
theorem wf_flowSeedWrite (die : Nat) (val : Nat) :
    wellFormed (.flowSeedWrite die val) = (within [(die, 4), (val, 0x100000000)]) := rfl
theorem exec_flowSeedWrite (die : Nat) (val : Nat) (s : State) :
    exec (.flowSeedWrite die val) s = execFlowSeedWrite die val s := rfl
theorem wf_laneLockLoss (p : Nat) (lane : Nat) :
    wellFormed (.laneLockLoss p lane) = (within [(p, 32), (lane, 4)]) := rfl
theorem exec_laneLockLoss (p : Nat) (lane : Nat) (s : State) :
    exec (.laneLockLoss p lane) s = execLaneLockLoss p lane s := rfl
theorem wf_calibrationDone (p : Nat) :
    wellFormed (.calibrationDone p) = (within [(p, 32)]) := rfl
theorem exec_calibrationDone (p : Nat) (s : State) :
    exec (.calibrationDone p) s = execCalibrationDone p s := rfl
theorem wf_linkUp (bp : Nat) :
    wellFormed (.linkUp bp) = (within [(bp, 128)]) := rfl
theorem exec_linkUp (bp : Nat) (s : State) :
    exec (.linkUp bp) s = execLinkUp bp s := rfl
theorem wf_txHoldIdlesDone (bp : Nat) :
    wellFormed (.txHoldIdlesDone bp) = (within [(bp, 128)]) := rfl
theorem exec_txHoldIdlesDone (bp : Nat) (s : State) :
    exec (.txHoldIdlesDone bp) s = execTxHoldIdlesDone bp s := rfl
theorem wf_txHoldTimeout (bp : Nat) :
    wellFormed (.txHoldTimeout bp) = (within [(bp, 128)]) := rfl
theorem exec_txHoldTimeout (bp : Nat) (s : State) :
    exec (.txHoldTimeout bp) s = execTxHoldTimeout bp s := rfl
theorem wf_linkDown (bp : Nat) :
    wellFormed (.linkDown bp) = (within [(bp, 128)]) := rfl
theorem exec_linkDown (bp : Nat) (s : State) :
    exec (.linkDown bp) s = execLinkDown bp s := rfl
theorem wf_egressDiscardDone (bp : Nat) :
    wellFormed (.egressDiscardDone bp) = (within [(bp, 128)]) := rfl
theorem exec_egressDiscardDone (bp : Nat) (s : State) :
    exec (.egressDiscardDone bp) s = execEgressDiscardDone bp s := rfl
theorem wf_txRefLost (die : Nat) (ref : Nat) :
    wellFormed (.txRefLost die ref) = (within [(die, 4), (ref, 2)]) := rfl
theorem exec_txRefLost (die : Nat) (ref : Nat) (s : State) :
    exec (.txRefLost die ref) s = execTxRefLost die ref s := rfl
theorem wf_txRefReturn (die : Nat) (ref : Nat) :
    wellFormed (.txRefReturn die ref) = (within [(die, 4), (ref, 2)]) := rfl
theorem exec_txRefReturn (die : Nat) (ref : Nat) (s : State) :
    exec (.txRefReturn die ref) s = execTxRefReturn die ref s := rfl
theorem wf_invocationLaunch (cluster : Nat) (mask : Nat) (ctx : Nat) (tag : Nat) (serve : Serve) (handles : List (List Nat)) (programs : List Nat) :
    wellFormed (.invocationLaunch cluster mask ctx tag serve handles programs) = (within [(cluster, 96), (mask, 256), (ctx, 4096), (tag, 3)] && decide (1 ≤ mask)) := rfl
theorem exec_invocationLaunch (cluster : Nat) (mask : Nat) (ctx : Nat) (tag : Nat) (serve : Serve) (handles : List (List Nat)) (programs : List Nat) (s : State) :
    exec (.invocationLaunch cluster mask ctx tag serve handles programs) s = execInvocationLaunch cluster mask ctx tag serve handles programs s := rfl
theorem wf_engineStart (core : Nat) (e : Nat) :
    wellFormed (.engineStart core e) = (within [(core, 768), (e, 12)]) := rfl
theorem exec_engineStart (core : Nat) (e : Nat) (s : State) :
    exec (.engineStart core e) s = execEngineStart core e s := rfl
theorem wf_engineComplete (core : Nat) (e : Nat) :
    wellFormed (.engineComplete core e) = (within [(core, 768), (e, 12)]) := rfl
theorem exec_engineComplete (core : Nat) (e : Nat) (s : State) :
    exec (.engineComplete core e) s = execEngineComplete core e s := rfl
theorem wf_scalarAdd (core : Nat) (rd : Nat) (ra : Nat) (rb : Nat) :
    wellFormed (.scalarAdd core rd ra rb) = (within [(core, 768), (rd, 32), (ra, 32), (rb, 32)]) := rfl
theorem exec_scalarAdd (core : Nat) (rd : Nat) (ra : Nat) (rb : Nat) (s : State) :
    exec (.scalarAdd core rd ra rb) s = execScalarAdd core rd ra rb s := rfl
theorem wf_scalarSub (core : Nat) (rd : Nat) (ra : Nat) (rb : Nat) :
    wellFormed (.scalarSub core rd ra rb) = (within [(core, 768), (rd, 32), (ra, 32), (rb, 32)]) := rfl
theorem exec_scalarSub (core : Nat) (rd : Nat) (ra : Nat) (rb : Nat) (s : State) :
    exec (.scalarSub core rd ra rb) s = execScalarSub core rd ra rb s := rfl
theorem wf_scalarAnd (core : Nat) (rd : Nat) (ra : Nat) (rb : Nat) :
    wellFormed (.scalarAnd core rd ra rb) = (within [(core, 768), (rd, 32), (ra, 32), (rb, 32)]) := rfl
theorem exec_scalarAnd (core : Nat) (rd : Nat) (ra : Nat) (rb : Nat) (s : State) :
    exec (.scalarAnd core rd ra rb) s = execScalarAnd core rd ra rb s := rfl
theorem wf_scalarOr (core : Nat) (rd : Nat) (ra : Nat) (rb : Nat) :
    wellFormed (.scalarOr core rd ra rb) = (within [(core, 768), (rd, 32), (ra, 32), (rb, 32)]) := rfl
theorem exec_scalarOr (core : Nat) (rd : Nat) (ra : Nat) (rb : Nat) (s : State) :
    exec (.scalarOr core rd ra rb) s = execScalarOr core rd ra rb s := rfl
theorem wf_scalarXor (core : Nat) (rd : Nat) (ra : Nat) (rb : Nat) :
    wellFormed (.scalarXor core rd ra rb) = (within [(core, 768), (rd, 32), (ra, 32), (rb, 32)]) := rfl
theorem exec_scalarXor (core : Nat) (rd : Nat) (ra : Nat) (rb : Nat) (s : State) :
    exec (.scalarXor core rd ra rb) s = execScalarXor core rd ra rb s := rfl
theorem wf_scalarShl (core : Nat) (rd : Nat) (ra : Nat) (rb : Nat) :
    wellFormed (.scalarShl core rd ra rb) = (within [(core, 768), (rd, 32), (ra, 32), (rb, 32)]) := rfl
theorem exec_scalarShl (core : Nat) (rd : Nat) (ra : Nat) (rb : Nat) (s : State) :
    exec (.scalarShl core rd ra rb) s = execScalarShl core rd ra rb s := rfl
theorem wf_scalarShr (core : Nat) (rd : Nat) (ra : Nat) (rb : Nat) :
    wellFormed (.scalarShr core rd ra rb) = (within [(core, 768), (rd, 32), (ra, 32), (rb, 32)]) := rfl
theorem exec_scalarShr (core : Nat) (rd : Nat) (ra : Nat) (rb : Nat) (s : State) :
    exec (.scalarShr core rd ra rb) s = execScalarShr core rd ra rb s := rfl
theorem wf_sar (core : Nat) (rd : Nat) (ra : Nat) (rb : Nat) :
    wellFormed (.sar core rd ra rb) = (within [(core, 768), (rd, 32), (ra, 32), (rb, 32)]) := rfl
theorem exec_sar (core : Nat) (rd : Nat) (ra : Nat) (rb : Nat) (s : State) :
    exec (.sar core rd ra rb) s = execSar core rd ra rb s := rfl
theorem wf_cmp (core : Nat) (ra : Nat) (rb : Nat) :
    wellFormed (.cmp core ra rb) = (within [(core, 768), (ra, 32), (rb, 32)]) := rfl
theorem exec_cmp (core : Nat) (ra : Nat) (rb : Nat) (s : State) :
    exec (.cmp core ra rb) s = execCmp core ra rb s := rfl
theorem wf_li (core : Nat) (rd : Nat) (imm : Word64) :
    wellFormed (.li core rd imm) = (within [(core, 768), (rd, 32)]) := rfl
theorem exec_li (core : Nat) (rd : Nat) (imm : Word64) (s : State) :
    exec (.li core rd imm) s = execLi core rd imm s := rfl
theorem wf_mul (core : Nat) (rd : Nat) (ra : Nat) (rb : Nat) :
    wellFormed (.mul core rd ra rb) = (within [(core, 768), (rd, 32), (ra, 32), (rb, 32)]) := rfl
theorem exec_mul (core : Nat) (rd : Nat) (ra : Nat) (rb : Nat) (s : State) :
    exec (.mul core rd ra rb) s = execMul core rd ra rb s := rfl
theorem wf_br (core : Nat) (cond : Cond) (target : Nat) :
    wellFormed (.br core cond target) = (within [(core, 768)]) := rfl
theorem exec_br (core : Nat) (cond : Cond) (target : Nat) (s : State) :
    exec (.br core cond target) s = execBr core cond target s := rfl
theorem wf_scalarJmp (core : Nat) (target : Nat) :
    wellFormed (.scalarJmp core target) = (within [(core, 768)]) := rfl
theorem exec_scalarJmp (core : Nat) (target : Nat) (s : State) :
    exec (.scalarJmp core target) s = execScalarJmp core target s := rfl
theorem wf_scalarCall (core : Nat) (target : Nat) :
    wellFormed (.scalarCall core target) = (within [(core, 768)]) := rfl
theorem exec_scalarCall (core : Nat) (target : Nat) (s : State) :
    exec (.scalarCall core target) s = execScalarCall core target s := rfl
theorem wf_scalarRet (core : Nat) :
    wellFormed (.scalarRet core) = (within [(core, 768)]) := rfl
theorem exec_scalarRet (core : Nat) (s : State) :
    exec (.scalarRet core) s = execScalarRet core s := rfl
theorem wf_loop (core : Nat) (count : Nat) (body : Nat) :
    wellFormed (.loop core count body) = (within [(core, 768)]) := rfl
theorem exec_loop (core : Nat) (count : Nat) (body : Nat) (s : State) :
    exec (.loop core count body) s = execLoop core count body s := rfl
theorem wf_halt (core : Nat) :
    wellFormed (.halt core) = (within [(core, 768)]) := rfl
theorem exec_halt (core : Nat) (s : State) :
    exec (.halt core) s = execHalt core s := rfl
theorem wf_mm (core : Nat) (x : MmOp) (hw : Nat) :
    wellFormed (.mm core x hw) = (within [(core, 768), (hw, 5)] && mmWf x) := rfl
theorem exec_mm (core : Nat) (x : MmOp) (hw : Nat) (s : State) :
    exec (.mm core x hw) s = execMm core x hw s := rfl
theorem wf_mmG4 (core : Nat) (x : MmOp) (hw : Nat) :
    wellFormed (.mmG4 core x hw) = (within [(core, 768), (hw, 5)] && mmWf x) := rfl
theorem exec_mmG4 (core : Nat) (x : MmOp) (hw : Nat) (s : State) :
    exec (.mmG4 core x hw) s = execMmG4 core x hw s := rfl
theorem wf_as (core : Nat) (x : AsOp) :
    wellFormed (.as core x) = (within [(core, 768)] && asWf x) := rfl
theorem exec_as (core : Nat) (x : AsOp) (s : State) :
    exec (.as core x) s = execAs core x s := rfl
theorem wf_asld (core : Nat) (x : AsOp) :
    wellFormed (.asld core x) = (within [(core, 768)] && asWf x) := rfl
theorem exec_asld (core : Nat) (x : AsOp) (s : State) :
    exec (.asld core x) s = execAsld core x s := rfl
theorem wf_op (core : Nat) (x : OpOp) :
    wellFormed (.op core x) = (within [(core, 768)] && opWf x) := rfl
theorem exec_op (core : Nat) (x : OpOp) (s : State) :
    exec (.op core x) s = execOp core x s := rfl
theorem wf_accOut (core : Nat) (x : AccOut) :
    wellFormed (.accOut core x) = (within [(core, 768)] && accWf x) := rfl
theorem exec_accOut (core : Nat) (x : AccOut) (s : State) :
    exec (.accOut core x) s = execAccOut core x s := rfl
theorem wf_accClr (core : Nat) (arr : Nat) (base : Nat) (n : Nat) (tok : Option Nat) :
    wellFormed (.accClr core arr base n tok) = (within [(core, 768), (arr, 8)] && tokWf tok) := rfl
theorem exec_accClr (core : Nat) (arr : Nat) (base : Nat) (n : Nat) (tok : Option Nat) (s : State) :
    exec (.accClr core arr base n tok) s = execAccClr core arr base n tok s := rfl
theorem wf_vld (core : Nat) (vd : Nat) (src : Ref) (hw : Nat) (tok : Option Nat) :
    wellFormed (.vld core vd src hw tok) = (within [(core, 768), (vd, 32), (hw, 5)] && refWf src && tokWf tok) := rfl
theorem exec_vld (core : Nat) (vd : Nat) (src : Ref) (hw : Nat) (tok : Option Nat) (s : State) :
    exec (.vld core vd src hw tok) s = execVld core vd src hw tok s := rfl
theorem wf_vst (core : Nat) (vs : Nat) (dst : Ref) (tok : Option Nat) :
    wellFormed (.vst core vs dst tok) = (within [(core, 768), (vs, 32)] && refWf dst && tokWf tok) := rfl
theorem exec_vst (core : Nat) (vs : Nat) (dst : Ref) (tok : Option Nat) (s : State) :
    exec (.vst core vs dst tok) s = execVst core vs dst tok s := rfl
theorem wf_vectorElementwise (core : Nat) (o : VecOp) (fmt : Nat) (vd : Nat) (va : Nat) (vb : Nat) (vc : Nat) (tok : Option Nat) :
    wellFormed (.vectorElementwise core o fmt vd va vb vc tok) = (within [(core, 768), (fmt, 16), (vd, 32), (va, 32), (vb, 32), (vc, 32)] && tokWf tok) := rfl
theorem exec_vectorElementwise (core : Nat) (o : VecOp) (fmt : Nat) (vd : Nat) (va : Nat) (vb : Nat) (vc : Nat) (tok : Option Nat) (s : State) :
    exec (.vectorElementwise core o fmt vd va vb vc tok) s = execVectorElementwise core o fmt vd va vb vc tok s := rfl
theorem wf_vred (core : Nat) (kind : Nat) (fmt : Nat) (vd : Nat) (va : Nat) (tok : Option Nat) :
    wellFormed (.vred core kind fmt vd va tok) = (within [(core, 768), (kind, 4), (fmt, 16), (vd, 32), (va, 32)] && tokWf tok) := rfl
theorem exec_vred (core : Nat) (kind : Nat) (fmt : Nat) (vd : Nat) (va : Nat) (tok : Option Nat) (s : State) :
    exec (.vred core kind fmt vd va tok) s = execVred core kind fmt vd va tok s := rfl
theorem wf_vcvt (core : Nat) (x : CvtOp) :
    wellFormed (.vcvt core x) = (within [(core, 768)] && cvtWf x) := rfl
theorem exec_vcvt (core : Nat) (x : CvtOp) (s : State) :
    exec (.vcvt core x) s = execVcvt core x s := rfl
theorem wf_vrq (core : Nat) (x : CvtOp) :
    wellFormed (.vrq core x) = (within [(core, 768)] && cvtWf x) := rfl
theorem exec_vrq (core : Nat) (x : CvtOp) (s : State) :
    exec (.vrq core x) s = execVrq core x s := rfl
theorem wf_vlut (core : Nat) (vd : Nat) (va : Nat) (tab : Ref) (tok : Option Nat) :
    wellFormed (.vlut core vd va tab tok) = (within [(core, 768), (vd, 32), (va, 32)] && refWf tab && tokWf tok) := rfl
theorem exec_vlut (core : Nat) (vd : Nat) (va : Nat) (tab : Ref) (tok : Option Nat) (s : State) :
    exec (.vlut core vd va tab tok) s = execVlut core vd va tab tok s := rfl
theorem wf_vectorPermute (core : Nat) (kind : Nat) (w : Nat) (vd : Nat) (va : Nat) (vb : Nat) (n : Nat) (tok : Option Nat) :
    wellFormed (.vectorPermute core kind w vd va vb n tok) = (within [(core, 768), (kind, 3), (vd, 32), (va, 32), (vb, 32), (n, 128 / w)] && (w == 1 || w == 2 || w == 4) && tokWf tok) := rfl
theorem exec_vectorPermute (core : Nat) (kind : Nat) (w : Nat) (vd : Nat) (va : Nat) (vb : Nat) (n : Nat) (tok : Option Nat) (s : State) :
    exec (.vectorPermute core kind w vd va vb n tok) s = execVectorPermute core kind w vd va vb n tok s := rfl
theorem wf_pealLoad (core : Nat) (store : Nat) (src : Ref) (n : Nat) (dst : Nat) (tok : Option Nat) :
    wellFormed (.pealLoad core store src n dst tok) = (within [(core, 768), (store, 3)] && refWf src && tokWf tok) := rfl
theorem exec_pealLoad (core : Nat) (store : Nat) (src : Ref) (n : Nat) (dst : Nat) (tok : Option Nat) (s : State) :
    exec (.pealLoad core store src n dst tok) s = execPealLoad core store src n dst tok s := rfl
theorem wf_pealEval (core : Nat) (x : PealOp) (hw : Nat) :
    wellFormed (.pealEval core x hw) = (within [(core, 768), (hw, 5)] && refWf x.vec && refWf x.res && tokWf x.tok) := rfl
theorem exec_pealEval (core : Nat) (x : PealOp) (hw : Nat) (s : State) :
    exec (.pealEval core x hw) s = execPealEval core x hw s := rfl
theorem wf_dmaIn (core : Nat) (x : DmaOp) :
    wellFormed (.dmaIn core x) = (within [(core, 768)] && dmaWf x) := rfl
theorem exec_dmaIn (core : Nat) (x : DmaOp) (s : State) :
    exec (.dmaIn core x) s = execDmaIn core x s := rfl
theorem wf_dmaOut (core : Nat) (x : DmaOp) :
    wellFormed (.dmaOut core x) = (within [(core, 768)] && dmaWf x) := rfl
theorem exec_dmaOut (core : Nat) (x : DmaOp) (s : State) :
    exec (.dmaOut core x) s = execDmaOut core x s := rfl
theorem wf_dmaComplete (core : Nat) :
    wellFormed (.dmaComplete core) = (within [(core, 768)]) := rfl
theorem exec_dmaComplete (core : Nat) (s : State) :
    exec (.dmaComplete core) s = execDmaComplete core s := rfl
theorem wf_gather (core : Nat) (x : GatherOp) :
    wellFormed (.gather core x) = (within [(core, 768)] && gatherWf x) := rfl
theorem exec_gather (core : Nat) (x : GatherOp) (s : State) :
    exec (.gather core x) s = execGather core x s := rfl
theorem wf_gatherComplete (core : Nat) :
    wellFormed (.gatherComplete core) = (within [(core, 768)]) := rfl
theorem exec_gatherComplete (core : Nat) (s : State) :
    exec (.gatherComplete core) s = execGatherComplete core s := rfl
theorem wf_winRd (core : Nat) (pkg : Nat) (target : Nat) (win : Nat) (row : Nat) (n : Nat) (dst : Ref) (tok : Option Nat) :
    wellFormed (.winRd core pkg target win row n dst tok) = (within [(core, 768), (pkg, 8), (target, 768), (win, 8)] && refWf dst && tokWf tok) := rfl
theorem exec_winRd (core : Nat) (pkg : Nat) (target : Nat) (win : Nat) (row : Nat) (n : Nat) (dst : Ref) (tok : Option Nat) (s : State) :
    exec (.winRd core pkg target win row n dst tok) s = execWinRd core pkg target win row n dst tok s := rfl
theorem wf_winWr (core : Nat) (pkg : Nat) (target : Nat) (win : Nat) (row : Nat) (n : Nat) (src : Ref) (tok : Option Nat) :
    wellFormed (.winWr core pkg target win row n src tok) = (within [(core, 768), (pkg, 8), (target, 768), (win, 8)] && refWf src && tokWf tok) := rfl
theorem exec_winWr (core : Nat) (pkg : Nat) (target : Nat) (win : Nat) (row : Nat) (n : Nat) (src : Ref) (tok : Option Nat) (s : State) :
    exec (.winWr core pkg target win row n src tok) s = execWinWr core pkg target win row n src tok s := rfl
theorem wf_sld (core : Nat) (rd : Nat) (src : Ref) (width : Nat) (hw : Nat) (tok : Option Nat) :
    wellFormed (.sld core rd src width hw tok) = (within [(core, 768), (rd, 32), (hw, 5)] && refWf src && (width == 1 || width == 2 || width == 4 || width == 8) && tokWf tok) := rfl
theorem exec_sld (core : Nat) (rd : Nat) (src : Ref) (width : Nat) (hw : Nat) (tok : Option Nat) (s : State) :
    exec (.sld core rd src width hw tok) s = execSld core rd src width hw tok s := rfl
theorem wf_sst (core : Nat) (rs : Nat) (dst : Ref) (width : Nat) (tok : Option Nat) :
    wellFormed (.sst core rs dst width tok) = (within [(core, 768), (rs, 32)] && refWf dst && (width == 1 || width == 2 || width == 4 || width == 8) && tokWf tok) := rfl
theorem exec_sst (core : Nat) (rs : Nat) (dst : Ref) (width : Nat) (tok : Option Nat) (s : State) :
    exec (.sst core rs dst width tok) s = execSst core rs dst width tok s := rfl
theorem wf_fill (core : Nat) (dst : Ref) (n : Nat) (pattern : Word32) (tok : Option Nat) :
    wellFormed (.fill core dst n pattern tok) = (within [(core, 768)] && refWf dst && tokWf tok) := rfl
theorem exec_fill (core : Nat) (dst : Ref) (n : Nat) (pattern : Word32) (tok : Option Nat) (s : State) :
    exec (.fill core dst n pattern tok) s = execFill core dst n pattern tok s := rfl
theorem wf_copy (core : Nat) (src : Ref) (dst : Ref) (arr : Nat) (n : Nat) (tok : Option Nat) :
    wellFormed (.copy core src dst arr n tok) = (within [(core, 768), (arr, 8)] && refWf src && refWf dst && tokWf tok) := rfl
theorem exec_copy (core : Nat) (src : Ref) (dst : Ref) (arr : Nat) (n : Nat) (tok : Option Nat) (s : State) :
    exec (.copy core src dst arr n tok) s = execCopy core src dst arr n tok s := rfl
theorem wf_tcopy (core : Nat) (src : Ref) (dst : Ref) (w : Nat) (tok : Option Nat) :
    wellFormed (.tcopy core src dst w tok) = (within [(core, 768)] && refWf src && refWf dst && tokWf tok) := rfl
theorem exec_tcopy (core : Nat) (src : Ref) (dst : Ref) (w : Nat) (tok : Option Nat) (s : State) :
    exec (.tcopy core src dst w tok) s = execTcopy core src dst w tok s := rfl
theorem wf_sread (core : Nat) (src : Ref) (dst : Ref) (n : Nat) (w : Nat) (start : Nat) (stride : Nat) (tok : Option Nat) :
    wellFormed (.sread core src dst n w start stride tok) = (within [(core, 768)] && refWf src && refWf dst && tokWf tok) := rfl
theorem exec_sread (core : Nat) (src : Ref) (dst : Ref) (n : Nat) (w : Nat) (start : Nat) (stride : Nat) (tok : Option Nat) (s : State) :
    exec (.sread core src dst n w start stride tok) s = execSread core src dst n w start stride tok s := rfl
theorem wf_tokWait (core : Nat) (k : Nat) (n : Nat) :
    wellFormed (.tokWait core k n) = (within [(core, 768), (k, 32), (n, 256)]) := rfl
theorem exec_tokWait (core : Nat) (k : Nat) (n : Nat) (s : State) :
    exec (.tokWait core k n) s = execTokWait core k n s := rfl
theorem wf_bar (core : Nat) (b : Nat) :
    wellFormed (.bar core b) = (within [(core, 768), (b, 4)]) := rfl
theorem exec_bar (core : Nat) (b : Nat) (s : State) :
    exec (.bar core b) s = execBar core b s := rfl
theorem wf_sig (core : Nat) (sem : Nat) (n : Nat) :
    wellFormed (.sig core sem n) = (within [(core, 768), (sem, 16), (n, 256)] && decide (1 ≤ n)) := rfl
theorem exec_sig (core : Nat) (sem : Nat) (n : Nat) (s : State) :
    exec (.sig core sem n) s = execSig core sem n s := rfl
theorem wf_sigR (core : Nat) (cluster : Nat) (sem : Nat) (n : Nat) :
    wellFormed (.sigR core cluster sem n) = (within [(core, 768), (cluster, 96), (sem, 16), (n, 256)] && decide (1 ≤ n)) := rfl
theorem exec_sigR (core : Nat) (cluster : Nat) (sem : Nat) (n : Nat) (s : State) :
    exec (.sigR core cluster sem n) s = execSigR core cluster sem n s := rfl
theorem wf_swait (core : Nat) (sem : Nat) (n : Nat) :
    wellFormed (.swait core sem n) = (within [(core, 768), (sem, 16), (n, 65536)]) := rfl
theorem exec_swait (core : Nat) (sem : Nat) (n : Nat) (s : State) :
    exec (.swait core sem n) s = execSwait core sem n s := rfl
theorem wf_mark (core : Nat) (layer : Nat) (operator : Nat) :
    wellFormed (.mark core layer operator) = (within [(core, 768), (layer, 0x10000), (operator, 0x10000)]) := rfl
theorem exec_mark (core : Nat) (layer : Nat) (operator : Nat) (s : State) :
    exec (.mark core layer operator) s = execMark core layer operator s := rfl
theorem wf_remoteSignalArrive (cluster : Nat) :
    wellFormed (.remoteSignalArrive cluster) = (within [(cluster, 96)]) := rfl
theorem exec_remoteSignalArrive (cluster : Nat) (s : State) :
    exec (.remoteSignalArrive cluster) s = execRemoteSignalArrive cluster s := rfl
theorem wf_barrierControllerArrive (cluster : Nat) (b : Nat) :
    wellFormed (.barrierControllerArrive cluster b) = (within [(cluster, 96), (b, 4)]) := rfl
theorem exec_barrierControllerArrive (cluster : Nat) (b : Nat) (s : State) :
    exec (.barrierControllerArrive cluster b) s = execBarrierControllerArrive cluster b s := rfl
theorem wf_barrierMaskWrite (cluster : Nat) (b : Nat) (mask : Nat) :
    wellFormed (.barrierMaskWrite cluster b mask) = (within [(cluster, 96), (b, 4), (mask, 512)]) := rfl
theorem exec_barrierMaskWrite (cluster : Nat) (b : Nat) (mask : Nat) (s : State) :
    exec (.barrierMaskWrite cluster b mask) s = execBarrierMaskWrite cluster b mask s := rfl
theorem wf_icacheLineFill (core : Nat) :
    wellFormed (.icacheLineFill core) = (within [(core, 768)]) := rfl
theorem exec_icacheLineFill (core : Nat) (s : State) :
    exec (.icacheLineFill core) s = execIcacheLineFill core s := rfl
theorem wf_windowOpen (q : Nat) (t : Nat) :
    wellFormed (.windowOpen q t) = (within [(q, 8192)]) := rfl
theorem exec_windowOpen (q : Nat) (t : Nat) (s : State) :
    exec (.windowOpen q t) s = execWindowOpen q t s := rfl
theorem wf_windowClose (q : Nat) (t : Nat) :
    wellFormed (.windowClose q t) = (within [(q, 8192)]) := rfl
theorem exec_windowClose (q : Nat) (t : Nat) (s : State) :
    exec (.windowClose q t) s = execWindowClose q t s := rfl
theorem wf_windowCloseDrained (q : Nat) (t : Nat) :
    wellFormed (.windowCloseDrained q t) = (within [(q, 8192)]) := rfl
theorem exec_windowCloseDrained (q : Nat) (t : Nat) (s : State) :
    exec (.windowCloseDrained q t) s = execWindowCloseDrained q t s := rfl
theorem wf_windowAccessArrive (core : Nat) (hw : Nat) :
    wellFormed (.windowAccessArrive core hw) = (within [(core, 768), (hw, 5)]) := rfl
theorem exec_windowAccessArrive (core : Nat) (hw : Nat) (s : State) :
    exec (.windowAccessArrive core hw) s = execWindowAccessArrive core hw s := rfl
theorem wf_winRdReply (core : Nat) :
    wellFormed (.winRdReply core) = (within [(core, 768)]) := rfl
theorem exec_winRdReply (core : Nat) (s : State) :
    exec (.winRdReply core) s = execWinRdReply core s := rfl
theorem wf_winWrAck (core : Nat) :
    wellFormed (.winWrAck core) = (within [(core, 768)]) := rfl
theorem exec_winWrAck (core : Nat) (s : State) :
    exec (.winWrAck core) s = execWinWrAck core s := rfl
theorem wf_winFaultNotice (core : Nat) :
    wellFormed (.winFaultNotice core) = (within [(core, 768)]) := rfl
theorem exec_winFaultNotice (core : Nat) (s : State) :
    exec (.winFaultNotice core) s = execWinFaultNotice core s := rfl
theorem wf_clusterZeroDone (cluster : Nat) :
    wellFormed (.clusterZeroDone cluster) = (within [(cluster, 96)]) := rfl
theorem exec_clusterZeroDone (cluster : Nat) (s : State) :
    exec (.clusterZeroDone cluster) s = execClusterZeroDone cluster s := rfl
theorem wf_residentReload (cluster : Nat) (ctx : Nat) (tag : Nat) (rows : List (Nat × Nat × List Byte)) :
    wellFormed (.residentReload cluster ctx tag rows) = (within [(cluster, 96), (ctx, 4096), (tag, 3)]) := rfl
theorem exec_residentReload (cluster : Nat) (ctx : Nat) (tag : Nat) (rows : List (Nat × Nat × List Byte)) (s : State) :
    exec (.residentReload cluster ctx tag rows) s = execResidentReload cluster ctx tag rows s := rfl
theorem wf_pealPatrol (core : Nat) (share : Nat) (err : Nat) :
    wellFormed (.pealPatrol core share err) = (within [(core, 768), (err, 3)]) := rfl
theorem exec_pealPatrol (core : Nat) (share : Nat) (err : Nat) (s : State) :
    exec (.pealPatrol core share err) s = execPealPatrol core share err s := rfl
theorem wf_pealScrubReload (core : Nat) (ctx : Nat) (tag : Nat) (share : Nat) (treeBase : Nat) (nodeBase : Nat) (leafBase : Nat) :
    wellFormed (.pealScrubReload core ctx tag share treeBase nodeBase leafBase) = (within [(core, 768), (ctx, 4096), (tag, 3)]) := rfl
theorem exec_pealScrubReload (core : Nat) (ctx : Nat) (tag : Nat) (share : Nat) (treeBase : Nat) (nodeBase : Nat) (leafBase : Nat) (s : State) :
    exec (.pealScrubReload core ctx tag share treeBase nodeBase leafBase) s = execPealScrubReload core ctx tag share treeBase nodeBase leafBase s := rfl
theorem wf_sqDoorbell (q : Nat) (val : Word64) :
    wellFormed (.sqDoorbell q val) = (within [(q, 8192)]) := rfl
theorem exec_sqDoorbell (q : Nat) (val : Word64) (s : State) :
    exec (.sqDoorbell q val) s = execSqDoorbell q val s := rfl
theorem wf_cqDoorbell (q : Nat) (val : Word64) :
    wellFormed (.cqDoorbell q val) = (within [(q, 8192)]) := rfl
theorem exec_cqDoorbell (q : Nat) (val : Word64) (s : State) :
    exec (.cqDoorbell q val) s = execCqDoorbell q val s := rfl
theorem wf_rqDoorbell (fn : Nat) (r : Nat) (val : Word64) :
    wellFormed (.rqDoorbell fn r val) = (within [(fn, 128), (r, 19)]) := rfl
theorem exec_rqDoorbell (fn : Nat) (r : Nat) (val : Word64) (s : State) :
    exec (.rqDoorbell fn r val) s = execRqDoorbell fn r val s := rfl
theorem wf_sqFetch (q : Nat) :
    wellFormed (.sqFetch q) = (within [(q, 8192)]) := rfl
theorem exec_sqFetch (q : Nat) (s : State) :
    exec (.sqFetch q) s = execSqFetch q s := rfl
theorem wf_fence (q : Nat) (t : Nat) :
    wellFormed (.fence q t) = (within [(q, 8192)]) := rfl
theorem exec_fence (q : Nat) (t : Nat) (s : State) :
    exec (.fence q t) s = execFence q t s := rfl
theorem wf_run (q : Nat) (t : Nat) :
    wellFormed (.run q t) = (within [(q, 8192)]) := rfl
theorem exec_run (q : Nat) (t : Nat) (s : State) :
    exec (.run q t) s = execRun q t s := rfl
theorem wf_runTrees (q : Nat) (t : Nat) :
    wellFormed (.runTrees q t) = (within [(q, 8192)]) := rfl
theorem exec_runTrees (q : Nat) (t : Nat) (s : State) :
    exec (.runTrees q t) s = execRunTrees q t s := rfl
theorem wf_txFrame (q : Nat) (t : Nat) :
    wellFormed (.txFrame q t) = (within [(q, 8192)]) := rfl
theorem exec_txFrame (q : Nat) (t : Nat) (s : State) :
    exec (.txFrame q t) s = execTxFrame q t s := rfl
theorem wf_txFrameEnqueue (q : Nat) (t : Nat) :
    wellFormed (.txFrameEnqueue q t) = (within [(q, 8192)]) := rfl
theorem exec_txFrameEnqueue (q : Nat) (t : Nat) (s : State) :
    exec (.txFrameEnqueue q t) s = execTxFrameEnqueue q t s := rfl
theorem wf_remoteCopy (q : Nat) (t : Nat) :
    wellFormed (.remoteCopy q t) = (within [(q, 8192)]) := rfl
theorem exec_remoteCopy (q : Nat) (t : Nat) (s : State) :
    exec (.remoteCopy q t) s = execRemoteCopy q t s := rfl
theorem wf_commandDeadline (q : Nat) (t : Nat) :
    wellFormed (.commandDeadline q t) = (within [(q, 8192)]) := rfl
theorem exec_commandDeadline (q : Nat) (t : Nat) (s : State) :
    exec (.commandDeadline q t) s = execCommandDeadline q t s := rfl
theorem wf_recordDeliver (fn : Nat) (r : Nat) :
    wellFormed (.recordDeliver fn r) = (within [(fn, 128), (r, 19)]) := rfl
theorem exec_recordDeliver (fn : Nat) (r : Nat) (s : State) :
    exec (.recordDeliver fn r) s = execRecordDeliver fn r s := rfl
theorem wf_irqDelayExpire (fn : Nat) (ring : Nat) :
    wellFormed (.irqDelayExpire fn ring) = (within [(fn, 128), (ring, 83)]) := rfl
theorem exec_irqDelayExpire (fn : Nat) (ring : Nat) (s : State) :
    exec (.irqDelayExpire fn ring) s = execIrqDelayExpire fn ring s := rfl
theorem wf_msixUnmask (fn : Nat) (vec : Nat) :
    wellFormed (.msixUnmask fn vec) = (within [(fn, 128), (vec, 2048)]) := rfl
theorem exec_msixUnmask (fn : Nat) (vec : Nat) (s : State) :
    exec (.msixUnmask fn vec) s = execMsixUnmask fn vec s := rfl
theorem wf_ringEnable (fn : Nat) (ring : Nat) (val : Nat) :
    wellFormed (.ringEnable fn ring val) = (within [(fn, 128), (ring, 83), (val, 0x100000000)]) := rfl
theorem exec_ringEnable (fn : Nat) (ring : Nat) (val : Nat) (s : State) :
    exec (.ringEnable fn ring val) s = execRingEnable fn ring val s := rfl
theorem wf_ringDisable (fn : Nat) (ring : Nat) (val : Nat) :
    wellFormed (.ringDisable fn ring val) = (within [(fn, 128), (ring, 83), (val, 0x100000000)]) := rfl
theorem exec_ringDisable (fn : Nat) (ring : Nat) (val : Nat) (s : State) :
    exec (.ringDisable fn ring val) s = execRingDisable fn ring val s := rfl
theorem wf_accessFault (fn : Nat) (bar : Nat) (off : Nat) (len : Nat) :
    wellFormed (.accessFault fn bar off len) = (within [(fn, 128), (bar, 2), (len, 4097)]) := rfl
theorem exec_accessFault (fn : Nat) (bar : Nat) (off : Nat) (len : Nat) (s : State) :
    exec (.accessFault fn bar off len) s = execAccessFault fn bar off len s := rfl
theorem wf_pcieCompletionTimeout (fn : Nat) (read : Nat) :
    wellFormed (.pcieCompletionTimeout fn read) = (within [(fn, 128), (read, 65)]) := rfl
theorem exec_pcieCompletionTimeout (fn : Nat) (read : Nat) (s : State) :
    exec (.pcieCompletionTimeout fn read) s = execPcieCompletionTimeout fn read s := rfl
theorem wf_hbmAccess (owner : Nat) (addr : Nat) (kind : Nat) (data : List Byte) (err : Nat) :
    wellFormed (.hbmAccess owner addr kind data err) = (within [(owner, 65), (kind, 2), (err, 5)]) := rfl
theorem exec_hbmAccess (owner : Nat) (addr : Nat) (kind : Nat) (data : List Byte) (err : Nat) (s : State) :
    exec (.hbmAccess owner addr kind data err) s = execHbmAccess owner addr kind data err s := rfl
theorem wf_stackTempReport (stack : Nat) (temp : Nat) :
    wellFormed (.stackTempReport stack temp) = (within [(stack, 12), (temp, 256)]) := rfl
theorem exec_stackTempReport (stack : Nat) (temp : Nat) (s : State) :
    exec (.stackTempReport stack temp) s = execStackTempReport stack temp s := rfl
theorem wf_coalescerServe (die : Nat) (stack : Nat) (pch : Nat) (bank : Nat) :
    wellFormed (.coalescerServe die stack pch bank) = (within [(die, 4), (stack, 3), (pch, 64), (bank, 16)]) := rfl
theorem exec_coalescerServe (die : Nat) (stack : Nat) (pch : Nat) (bank : Nat) (s : State) :
    exec (.coalescerServe die stack pch bank) s = execCoalescerServe die stack pch bank s := rfl
theorem wf_coalescerMaxWait (die : Nat) (stack : Nat) (pch : Nat) (bank : Nat) :
    wellFormed (.coalescerMaxWait die stack pch bank) = (within [(die, 4), (stack, 3), (pch, 64), (bank, 16)]) := rfl
theorem exec_coalescerMaxWait (die : Nat) (stack : Nat) (pch : Nat) (bank : Nat) (s : State) :
    exec (.coalescerMaxWait die stack pch bank) s = execCoalescerMaxWait die stack pch bank s := rfl
theorem wf_sramPatrol (die : Nat) (region : Nat) (idx : Nat) (err : Nat) :
    wellFormed (.sramPatrol die region idx err) = (within [(die, 4), (region, 4), (err, 3)]) := rfl
theorem exec_sramPatrol (die : Nat) (region : Nat) (idx : Nat) (err : Nat) (s : State) :
    exec (.sramPatrol die region idx err) s = execSramPatrol die region idx err s := rfl
theorem wf_hbmScrub (die : Nat) (addr : Nat) (err : Nat) :
    wellFormed (.hbmScrub die addr err) = (within [(die, 4), (err, 5)]) := rfl
theorem exec_hbmScrub (die : Nat) (addr : Nat) (err : Nat) (s : State) :
    exec (.hbmScrub die addr err) s = execHbmScrub die addr err s := rfl
theorem wf_rowmodeWrite (r : Nat) (val : Nat) :
    wellFormed (.rowmodeWrite r val) = (within [(r, 48), (val, 0x100000000)]) := rfl
theorem exec_rowmodeWrite (r : Nat) (val : Nat) (s : State) :
    exec (.rowmodeWrite r val) s = execRowmodeWrite r val s := rfl
theorem wf_frameZeroDone (die : Nat) :
    wellFormed (.frameZeroDone die) = (within [(die, 4)]) := rfl
theorem exec_frameZeroDone (die : Nat) (s : State) :
    exec (.frameZeroDone die) s = execFrameZeroDone die s := rfl
theorem wf_directoryRequest (die : Nat) (line : Nat) (l2 : Nat) (kind : Nat) (val : Nat) :
    wellFormed (.directoryRequest die line l2 kind val) = (within [(die, 16), (line, 32768), (l2, 8), (kind, 2)]) := rfl
theorem exec_directoryRequest (die : Nat) (line : Nat) (l2 : Nat) (kind : Nat) (val : Nat) (s : State) :
    exec (.directoryRequest die line l2 kind val) s = execDirectoryRequest die line l2 kind val s := rfl
theorem wf_directoryWriteback (die : Nat) (line : Nat) (l2 : Nat) :
    wellFormed (.directoryWriteback die line l2) = (within [(die, 16), (line, 32768), (l2, 8)]) := rfl
theorem exec_directoryWriteback (die : Nat) (line : Nat) (l2 : Nat) (s : State) :
    exec (.directoryWriteback die line l2) s = execDirectoryWriteback die line l2 s := rfl
theorem wf_snoopResponse (die : Nat) (line : Nat) (l2 : Nat) :
    wellFormed (.snoopResponse die line l2) = (within [(die, 16), (line, 32768), (l2, 8)]) := rfl
theorem exec_snoopResponse (die : Nat) (line : Nat) (l2 : Nat) (s : State) :
    exec (.snoopResponse die line l2) s = execSnoopResponse die line l2 s := rfl
theorem wf_ruleWrite (q : Nat) (t : Nat) :
    wellFormed (.ruleWrite q t) = (within [(q, 8192)]) := rfl
theorem exec_ruleWrite (q : Nat) (t : Nat) (s : State) :
    exec (.ruleWrite q t) s = execRuleWrite q t s := rfl
theorem wf_ruleDelete (q : Nat) (t : Nat) :
    wellFormed (.ruleDelete q t) = (within [(q, 8192)]) := rfl
theorem exec_ruleDelete (q : Nat) (t : Nat) (s : State) :
    exec (.ruleDelete q t) s = execRuleDelete q t s := rfl
theorem wf_flipEpoch (q : Nat) (t : Nat) :
    wellFormed (.flipEpoch q t) = (within [(q, 8192)]) := rfl
theorem exec_flipEpoch (q : Nat) (t : Nat) (s : State) :
    exec (.flipEpoch q t) s = execFlipEpoch q t s := rfl
theorem wf_epochHoldEnd :
    wellFormed (.epochHoldEnd) = (true) := rfl
theorem exec_epochHoldEnd (s : State) :
    exec (.epochHoldEnd) s = execEpochHoldEnd s := rfl
theorem wf_epochHoldTimeout :
    wellFormed (.epochHoldTimeout) = (true) := rfl
theorem exec_epochHoldTimeout (s : State) :
    exec (.epochHoldTimeout) s = execEpochHoldTimeout s := rfl
theorem wf_epochSwitch (die : Nat) :
    wellFormed (.epochSwitch die) = (within [(die, 4)]) := rfl
theorem exec_epochSwitch (die : Nat) (s : State) :
    exec (.epochSwitch die) s = execEpochSwitch die s := rfl
theorem wf_epochSwitchAck :
    wellFormed (.epochSwitchAck) = (true) := rfl
theorem exec_epochSwitchAck (s : State) :
    exec (.epochSwitchAck) s = execEpochSwitchAck s := rfl
theorem wf_retireWait (q : Nat) (t : Nat) :
    wellFormed (.retireWait q t) = (within [(q, 8192)]) := rfl
theorem exec_retireWait (q : Nat) (t : Nat) (s : State) :
    exec (.retireWait q t) s = execRetireWait q t s := rfl
theorem wf_retireWaitTimeout (q : Nat) (t : Nat) :
    wellFormed (.retireWaitTimeout q t) = (within [(q, 8192)]) := rfl
theorem exec_retireWaitTimeout (q : Nat) (t : Nat) (s : State) :
    exec (.retireWaitTimeout q t) s = execRetireWaitTimeout q t s := rfl
theorem wf_retireForce (q : Nat) (t : Nat) :
    wellFormed (.retireForce q t) = (within [(q, 8192)]) := rfl
theorem exec_retireForce (q : Nat) (t : Nat) (s : State) :
    exec (.retireForce q t) s = execRetireForce q t s := rfl
theorem wf_retireAbandon (q : Nat) (t : Nat) :
    wellFormed (.retireAbandon q t) = (within [(q, 8192)]) := rfl
theorem exec_retireAbandon (q : Nat) (t : Nat) (s : State) :
    exec (.retireAbandon q t) s = execRetireAbandon q t s := rfl
theorem wf_epochRetire :
    wellFormed (.epochRetire) = (true) := rfl
theorem exec_epochRetire (s : State) :
    exec (.epochRetire) s = execEpochRetire s := rfl
theorem wf_stagingOpen :
    wellFormed (.stagingOpen) = (true) := rfl
theorem exec_stagingOpen (s : State) :
    exec (.stagingOpen) s = execStagingOpen s := rfl
theorem wf_loadTable (q : Nat) (t : Nat) (bank : BankImage) :
    wellFormed (.loadTable q t bank) = (within [(q, 8192)]) := rfl
theorem exec_loadTable (q : Nat) (t : Nat) (bank : BankImage) (s : State) :
    exec (.loadTable q t bank) s = execLoadTable q t bank s := rfl
theorem wf_loadImage (q : Nat) (t : Nat) (fits : Bool) :
    wellFormed (.loadImage q t fits) = (within [(q, 8192)]) := rfl
theorem exec_loadImage (q : Nat) (t : Nat) (fits : Bool) (s : State) :
    exec (.loadImage q t fits) s = execLoadImage q t fits s := rfl
theorem wf_bulkCommit (q : Nat) (t : Nat) :
    wellFormed (.bulkCommit q t) = (within [(q, 8192)]) := rfl
theorem exec_bulkCommit (q : Nat) (t : Nat) (s : State) :
    exec (.bulkCommit q t) s = execBulkCommit q t s := rfl
theorem wf_contextCreate (q : Nat) (t : Nat) :
    wellFormed (.contextCreate q t) = (within [(q, 8192)]) := rfl
theorem exec_contextCreate (q : Nat) (t : Nat) (s : State) :
    exec (.contextCreate q t) s = execContextCreate q t s := rfl
theorem wf_contextDestroy (q : Nat) (t : Nat) :
    wellFormed (.contextDestroy q t) = (within [(q, 8192)]) := rfl
theorem exec_contextDestroy (q : Nat) (t : Nat) (s : State) :
    exec (.contextDestroy q t) s = execContextDestroy q t s := rfl
theorem wf_partCreate (port : Nat) (part : Nat) :
    wellFormed (.partCreate port part) = (within [(port, 2), (part, 64)]) := rfl
theorem exec_partCreate (port : Nat) (part : Nat) (s : State) :
    exec (.partCreate port part) s = execPartCreate port part s := rfl
theorem wf_partResize (port : Nat) (part : Nat) :
    wellFormed (.partResize port part) = (within [(port, 2), (part, 64)]) := rfl
theorem exec_partResize (port : Nat) (part : Nat) (s : State) :
    exec (.partResize port part) s = execPartResize port part s := rfl
theorem wf_partDestroy (port : Nat) (part : Nat) :
    wellFormed (.partDestroy port part) = (within [(port, 2), (part, 64)]) := rfl
theorem exec_partDestroy (port : Nat) (part : Nat) (s : State) :
    exec (.partDestroy port part) s = execPartDestroy port part s := rfl
theorem wf_partDescFetchDone (err : Bool) (held : Nat) :
    wellFormed (.partDescFetchDone err held) = (true) := rfl
theorem exec_partDescFetchDone (err : Bool) (held : Nat) (s : State) :
    exec (.partDescFetchDone err held) s = execPartDescFetchDone err held s := rfl
theorem wf_fnReset (fn : Nat) :
    wellFormed (.fnReset fn) = (within [(fn, 128)]) := rfl
theorem exec_fnReset (fn : Nat) (s : State) :
    exec (.fnReset fn) s = execFnReset fn s := rfl
theorem wf_flr (fn : Nat) :
    wellFormed (.flr fn) = (within [(fn, 128)]) := rfl
theorem exec_flr (fn : Nat) (s : State) :
    exec (.flr fn) s = execFlr fn s := rfl
theorem wf_vfRemoval (port : Nat) (n : Nat) :
    wellFormed (.vfRemoval port n) = (within [(port, 2), (n, 64)]) := rfl
theorem exec_vfRemoval (port : Nat) (n : Nat) (s : State) :
    exec (.vfRemoval port n) s = execVfRemoval port n s := rfl
theorem wf_vfEnable (port : Nat) (n : Nat) :
    wellFormed (.vfEnable port n) = (within [(port, 2), (n, 64)]) := rfl
theorem exec_vfEnable (port : Nat) (n : Nat) (s : State) :
    exec (.vfEnable port n) s = execVfEnable port n s := rfl
theorem wf_partitionReset (part : Nat) :
    wellFormed (.partitionReset part) = (within [(part, 64)]) := rfl
theorem exec_partitionReset (part : Nat) (s : State) :
    exec (.partitionReset part) s = execPartitionReset part s := rfl
theorem wf_partitionResetDone (part : Nat) :
    wellFormed (.partitionResetDone part) = (within [(part, 64)]) := rfl
theorem exec_partitionResetDone (part : Nat) (s : State) :
    exec (.partitionResetDone part) s = execPartitionResetDone part s := rfl
theorem wf_clusterReset (cluster : Nat) :
    wellFormed (.clusterReset cluster) = (within [(cluster, 96)]) := rfl
theorem exec_clusterReset (cluster : Nat) (s : State) :
    exec (.clusterReset cluster) s = execClusterReset cluster s := rfl
theorem wf_jodonEnableWrite (link : Nat) (en : Bool) (fw : Bool) :
    wellFormed (.jodonEnableWrite link en fw) = (within [(link, 20)]) := rfl
theorem exec_jodonEnableWrite (link : Nat) (en : Bool) (fw : Bool) (s : State) :
    exec (.jodonEnableWrite link en fw) s = execJodonEnableWrite link en fw s := rfl
theorem wf_jodonRetrain (link : Nat) :
    wellFormed (.jodonRetrain link) = (within [(link, 20)]) := rfl
theorem exec_jodonRetrain (link : Nat) (s : State) :
    exec (.jodonRetrain link) s = execJodonRetrain link s := rfl
theorem wf_jodonForceRecal (link : Nat) :
    wellFormed (.jodonForceRecal link) = (within [(link, 20)]) := rfl
theorem exec_jodonForceRecal (link : Nat) (s : State) :
    exec (.jodonForceRecal link) s = execJodonForceRecal link s := rfl
theorem wf_jodonTrainingPhaseEnd (link : Nat) (ok : Bool) (signal : Bool) :
    wellFormed (.jodonTrainingPhaseEnd link ok signal) = (within [(link, 20)]) := rfl
theorem exec_jodonTrainingPhaseEnd (link : Nat) (ok : Bool) (signal : Bool) (s : State) :
    exec (.jodonTrainingPhaseEnd link ok signal) s = execJodonTrainingPhaseEnd link ok signal s := rfl
theorem wf_jodonIdent (link : Nat) (pkg : Nat) (plink : Nat) (tag : Nat) (same : Bool) :
    wellFormed (.jodonIdent link pkg plink tag same) = (within [(link, 20), (pkg, 8), (plink, 20), (tag, 0x1000000)]) := rfl
theorem exec_jodonIdent (link : Nat) (pkg : Nat) (plink : Nat) (tag : Nat) (same : Bool) (s : State) :
    exec (.jodonIdent link pkg plink tag same) s = execJodonIdent link pkg plink tag same s := rfl
theorem wf_jodonRetryTimer (link : Nat) :
    wellFormed (.jodonRetryTimer link) = (within [(link, 20)]) := rfl
theorem exec_jodonRetryTimer (link : Nat) (s : State) :
    exec (.jodonRetryTimer link) s = execJodonRetryTimer link s := rfl
theorem wf_jodonBlockReceive (link : Nat) (fec : Nat) (bytes : List Byte) :
    wellFormed (.jodonBlockReceive link fec bytes) = (within [(link, 20), (fec, 3)] && bytes.length == 5140) := rfl
theorem exec_jodonBlockReceive (link : Nat) (fec : Nat) (bytes : List Byte) (s : State) :
    exec (.jodonBlockReceive link fec bytes) s = execJodonBlockReceive link fec bytes s := rfl
theorem wf_jodonLinkFail (link : Nat) :
    wellFormed (.jodonLinkFail link) = (within [(link, 20)]) := rfl
theorem exec_jodonLinkFail (link : Nat) (s : State) :
    exec (.jodonLinkFail link) s = execJodonLinkFail link s := rfl
theorem wf_jodonWrite (link : Nat) :
    wellFormed (.jodonWrite link) = (within [(link, 20)]) := rfl
theorem exec_jodonWrite (link : Nat) (s : State) :
    exec (.jodonWrite link) s = execJodonWrite link s := rfl
theorem wf_jodonWriteAck (link : Nat) :
    wellFormed (.jodonWriteAck link) = (within [(link, 20)]) := rfl
theorem exec_jodonWriteAck (link : Nat) (s : State) :
    exec (.jodonWriteAck link) s = execJodonWriteAck link s := rfl
theorem wf_jodonFaultNotice (link : Nat) :
    wellFormed (.jodonFaultNotice link) = (within [(link, 20)]) := rfl
theorem exec_jodonFaultNotice (link : Nat) (s : State) :
    exec (.jodonFaultNotice link) s = execJodonFaultNotice link s := rfl
theorem wf_jodonReadReq (link : Nat) (hw : Nat) :
    wellFormed (.jodonReadReq link hw) = (within [(link, 20)]) := rfl
theorem exec_jodonReadReq (link : Nat) (hw : Nat) (s : State) :
    exec (.jodonReadReq link hw) s = execJodonReadReq link hw s := rfl
theorem wf_jodonReadData (link : Nat) :
    wellFormed (.jodonReadData link) = (within [(link, 20)]) := rfl
theorem exec_jodonReadData (link : Nat) (s : State) :
    exec (.jodonReadData link) s = execJodonReadData link s := rfl
theorem wf_jodonReadErr (link : Nat) :
    wellFormed (.jodonReadErr link) = (within [(link, 20)]) := rfl
theorem exec_jodonReadErr (link : Nat) (s : State) :
    exec (.jodonReadErr link) s = execJodonReadErr link s := rfl
theorem wf_jodonTimeout (tag : Nat) :
    wellFormed (.jodonTimeout tag) = (within [(tag, 0x100000000)]) := rfl
theorem exec_jodonTimeout (tag : Nat) (s : State) :
    exec (.jodonTimeout tag) s = execJodonTimeout tag s := rfl
theorem wf_jodonPinHoldExpire (link : Nat) :
    wellFormed (.jodonPinHoldExpire link) = (within [(link, 20)]) := rfl
theorem exec_jodonPinHoldExpire (link : Nat) (s : State) :
    exec (.jodonPinHoldExpire link) s = execJodonPinHoldExpire link s := rfl
theorem wf_beatSyncSend (link : Nat) :
    wellFormed (.beatSyncSend link) = (within [(link, 20)]) := rfl
theorem exec_beatSyncSend (link : Nat) (s : State) :
    exec (.beatSyncSend link) s = execBeatSyncSend link s := rfl
theorem wf_beatSync (link : Nat) :
    wellFormed (.beatSync link) = (within [(link, 20)]) := rfl
theorem exec_beatSync (link : Nat) (s : State) :
    exec (.beatSync link) s = execBeatSync link s := rfl
theorem wf_beatAlone :
    wellFormed (.beatAlone) = (true) := rfl
theorem exec_beatAlone (s : State) :
    exec (.beatAlone) s = execBeatAlone s := rfl
theorem wf_beatRead :
    wellFormed (.beatRead) = (true) := rfl
theorem exec_beatRead (s : State) :
    exec (.beatRead) s = execBeatRead s := rfl
theorem wf_todRead :
    wellFormed (.todRead) = (true) := rfl
theorem exec_todRead (s : State) :
    exec (.todRead) s = execTodRead s := rfl
theorem wf_ppsInEdge :
    wellFormed (.ppsInEdge) = (true) := rfl
theorem exec_ppsInEdge (s : State) :
    exec (.ppsInEdge) s = execPpsInEdge s := rfl
theorem wf_ppsInLost :
    wellFormed (.ppsInLost) = (true) := rfl
theorem exec_ppsInLost (s : State) :
    exec (.ppsInLost) s = execPpsInLost s := rfl
theorem wf_ref10mLost :
    wellFormed (.ref10mLost) = (true) := rfl
theorem exec_ref10mLost (s : State) :
    exec (.ref10mLost) s = execRef10mLost s := rfl
theorem wf_ref10mValid :
    wellFormed (.ref10mValid) = (true) := rfl
theorem exec_ref10mValid (s : State) :
    exec (.ref10mValid) s = execRef10mValid s := rfl
theorem wf_swRefTimeout :
    wellFormed (.swRefTimeout) = (true) := rfl
theorem exec_swRefTimeout (s : State) :
    exec (.swRefTimeout) s = execSwRefTimeout s := rfl
theorem wf_todAdj (val : Word32) :
    wellFormed (.todAdj val) = (true) := rfl
theorem exec_todAdj (val : Word32) (s : State) :
    exec (.todAdj val) s = execTodAdj val s := rfl
theorem wf_todSetGo (val : Nat) :
    wellFormed (.todSetGo val) = (within [(val, 0x100000000)]) := rfl
theorem exec_todSetGo (val : Nat) (s : State) :
    exec (.todSetGo val) s = execTodSetGo val s := rfl
theorem wf_todStepApply :
    wellFormed (.todStepApply) = (true) := rfl
theorem exec_todStepApply (s : State) :
    exec (.todStepApply) s = execTodStepApply s := rfl
theorem wf_todSlewDone :
    wellFormed (.todSlewDone) = (true) := rfl
theorem exec_todSlewDone (s : State) :
    exec (.todSlewDone) s = execTodSlewDone s := rfl
theorem wf_ppsOutEdge :
    wellFormed (.ppsOutEdge) = (true) := rfl
theorem exec_ppsOutEdge (s : State) :
    exec (.ppsOutEdge) s = execPpsOutEdge s := rfl
theorem wf_ppsOutPulseEnd :
    wellFormed (.ppsOutPulseEnd) = (true) := rfl
theorem exec_ppsOutPulseEnd (s : State) :
    exec (.ppsOutPulseEnd) s = execPpsOutPulseEnd s := rfl
theorem wf_mfioCfgWrite (n : Nat) (val : Nat) (fw : Bool) :
    wellFormed (.mfioCfgWrite n val fw) = (within [(n, 32), (val, 0x100000000)]) := rfl
theorem exec_mfioCfgWrite (n : Nat) (val : Nat) (fw : Bool) (s : State) :
    exec (.mfioCfgWrite n val fw) s = execMfioCfgWrite n val fw s := rfl
theorem wf_mfioParkEnd (n : Nat) :
    wellFormed (.mfioParkEnd n) = (within [(n, 32)]) := rfl
theorem exec_mfioParkEnd (n : Nat) (s : State) :
    exec (.mfioParkEnd n) s = execMfioParkEnd n s := rfl
theorem wf_tachWindow (n : Nat) :
    wellFormed (.tachWindow n) = (within [(n, 32)]) := rfl
theorem exec_tachWindow (n : Nat) (s : State) :
    exec (.tachWindow n) s = execTachWindow n s := rfl
theorem wf_fanTachEdge (n : Nat) :
    wellFormed (.fanTachEdge n) = (within [(n, 32)]) := rfl
theorem exec_fanTachEdge (n : Nat) (s : State) :
    exec (.fanTachEdge n) s = execFanTachEdge n s := rfl
theorem wf_strapCheck (straps : Nat) :
    wellFormed (.strapCheck straps) = (within [(straps, 64)]) := rfl
theorem exec_strapCheck (straps : Nat) (s : State) :
    exec (.strapCheck straps) s = execStrapCheck straps s := rfl
theorem wf_controlCoreTimeout (cls : Nat) (i : Nat) :
    wellFormed (.controlCoreTimeout cls i) = (within [(cls, 4), (i, lget 0 [96, 16, 8, 16] cls)]) := rfl
theorem exec_controlCoreTimeout (cls : Nat) (i : Nat) (s : State) :
    exec (.controlCoreTimeout cls i) s = execControlCoreTimeout cls i s := rfl
theorem wf_controlCoreTrap (cls : Nat) (i : Nat) :
    wellFormed (.controlCoreTrap cls i) = (within [(cls, 4), (i, lget 0 [96, 16, 8, 16] cls)]) := rfl
theorem exec_controlCoreTrap (cls : Nat) (i : Nat) (s : State) :
    exec (.controlCoreTrap cls i) s = execControlCoreTrap cls i s := rfl
theorem wf_islandLockstep :
    wellFormed (.islandLockstep) = (true) := rfl
theorem exec_islandLockstep (s : State) :
    exec (.islandLockstep) s = execIslandLockstep s := rfl
theorem wf_controlCoreFrame (cls : Nat) (bp : Nat) (q : Nat) (bytes : List Byte) :
    wellFormed (.controlCoreFrame cls bp q bytes) = (within [(cls, 4), (bp, 128), (q, 8)] && decide (60 ≤ bytes.length ∧ bytes.length ≤ 9596)) := rfl
theorem exec_controlCoreFrame (cls : Nat) (bp : Nat) (q : Nat) (bytes : List Byte) (s : State) :
    exec (.controlCoreFrame cls bp q bytes) s = execControlCoreFrame cls bp q bytes s := rfl
theorem wf_sensorSample (temps : List Int) (volts : List Nat) :
    wellFormed (.sensorSample temps volts) = (temps.length == 112) := rfl
theorem exec_sensorSample (temps : List Int) (volts : List Nat) (s : State) :
    exec (.sensorSample temps volts) s = execSensorSample temps volts s := rfl
theorem wf_vrmTelemetry (w : Nat) :
    wellFormed (.vrmTelemetry w) = (within [(w, 65536)]) := rfl
theorem exec_vrmTelemetry (w : Nat) (s : State) :
    exec (.vrmTelemetry w) s = execVrmTelemetry w s := rfl
theorem wf_eventLogPersist :
    wellFormed (.eventLogPersist) = (true) := rfl
theorem exec_eventLogPersist (s : State) :
    exec (.eventLogPersist) s = execEventLogPersist s := rfl
theorem wf_troublePersist :
    wellFormed (.troublePersist) = (true) := rfl
theorem exec_troublePersist (s : State) :
    exec (.troublePersist) s = execTroublePersist s := rfl
theorem wf_alertAck (m : Nat) :
    wellFormed (.alertAck m) = (within [(m, 16)]) := rfl
theorem exec_alertAck (m : Nat) (s : State) :
    exec (.alertAck m) s = execAlertAck m s := rfl
theorem wf_requestUpdate (m : Nat) :
    wellFormed (.requestUpdate m) = (within [(m, 16)]) := rfl
theorem exec_requestUpdate (m : Nat) (s : State) :
    exec (.requestUpdate m) s = execRequestUpdate m s := rfl
theorem wf_firmwareData (m : Nat) (off : Nat) (bytes : List Byte) :
    wellFormed (.firmwareData m off bytes) = (within [(m, 16), (off, 0x100000000)]) := rfl
theorem exec_firmwareData (m : Nat) (off : Nat) (bytes : List Byte) (s : State) :
    exec (.firmwareData m off bytes) s = execFirmwareData m off bytes s := rfl
theorem wf_verifyComplete (m : Nat) :
    wellFormed (.verifyComplete m) = (within [(m, 16)]) := rfl
theorem exec_verifyComplete (m : Nat) (s : State) :
    exec (.verifyComplete m) s = execVerifyComplete m s := rfl
theorem wf_activateFirmware (m : Nat) :
    wellFormed (.activateFirmware m) = (within [(m, 16)]) := rfl
theorem exec_activateFirmware (m : Nat) (s : State) :
    exec (.activateFirmware m) s = execActivateFirmware m s := rfl
theorem wf_cancelUpdate (m : Nat) :
    wellFormed (.cancelUpdate m) = (within [(m, 16)]) := rfl
theorem exec_cancelUpdate (m : Nat) (s : State) :
    exec (.cancelUpdate m) s = execCancelUpdate m s := rfl
theorem wf_rollbackCommit (m : Nat) (sess : Nat) :
    wellFormed (.rollbackCommit m sess) = (within [(m, 16)]) := rfl
theorem exec_rollbackCommit (m : Nat) (sess : Nat) (s : State) :
    exec (.rollbackCommit m sess) s = execRollbackCommit m sess s := rfl
theorem wf_troubleClear (m : Nat) (sess : Nat) (mask : Nat) :
    wellFormed (.troubleClear m sess mask) = (within [(m, 16), (mask, 0x100000000)]) := rfl
theorem exec_troubleClear (m : Nat) (sess : Nat) (mask : Nat) (s : State) :
    exec (.troubleClear m sess mask) s = execTroubleClear m sess mask s := rfl
theorem wf_statusMsg (m : Nat) :
    wellFormed (.statusMsg m) = (within [(m, 16)]) := rfl
theorem exec_statusMsg (m : Nat) (s : State) :
    exec (.statusMsg m) s = execStatusMsg m s := rfl
theorem wf_logRead (m : Nat) (first : Nat) (n : Nat) :
    wellFormed (.logRead m first n) = (within [(m, 16), (first, 0x100000000), (n, 0x10000)]) := rfl
theorem exec_logRead (m : Nat) (first : Nat) (n : Nat) (s : State) :
    exec (.logRead m first n) s = execLogRead m first n s := rfl
theorem wf_troubleRead (m : Nat) :
    wellFormed (.troubleRead m) = (within [(m, 16)]) := rfl
theorem exec_troubleRead (m : Nat) (s : State) :
    exec (.troubleRead m) s = execTroubleRead m s := rfl
theorem wf_maint (m : Nat) (sess : Nat) (act : Nat) (obj : Nat) (pch : Nat) (bank : Nat) (row : Nat) :
    wellFormed (.maint m sess act obj pch bank row) = (within [(m, 16), (act, 0x10000), (obj, 0x10000), (pch, 256), (bank, 256), (row, 0x10000)]) := rfl
theorem exec_maint (m : Nat) (sess : Nat) (act : Nat) (obj : Nat) (pch : Nat) (bank : Nat) (row : Nat) (s : State) :
    exec (.maint m sess act obj pch bank row) s = execMaint m sess act obj pch bank row s := rfl
theorem wf_mctpControl (m : Nat) (cmd : Nat) (arg : Nat) :
    wellFormed (.mctpControl m cmd arg) = (within [(m, 16), (cmd, 256), (arg, 256)]) := rfl
theorem exec_mctpControl (m : Nat) (cmd : Nat) (arg : Nat) (s : State) :
    exec (.mctpControl m cmd arg) s = execMctpControl m cmd arg s := rfl
theorem wf_pldmMonitoring (m : Nat) (kind : Nat) (arg : Nat) :
    wellFormed (.pldmMonitoring m kind arg) = (within [(m, 16), (kind, 4), (arg, 0x10000)]) := rfl
theorem exec_pldmMonitoring (m : Nat) (kind : Nat) (arg : Nat) (s : State) :
    exec (.pldmMonitoring m kind arg) s = execPldmMonitoring m kind arg s := rfl
theorem wf_spdmMessage (m : Nat) (kind : Nat) (arg : Nat) (auth : Bool) :
    wellFormed (.spdmMessage m kind arg auth) = (within [(m, 16), (kind, 3)]) := rfl
theorem exec_spdmMessage (m : Nat) (kind : Nat) (arg : Nat) (auth : Bool) (s : State) :
    exec (.spdmMessage m kind arg auth) s = execSpdmMessage m kind arg auth s := rfl
theorem wf_maintGrant :
    wellFormed (.maintGrant) = (true) := rfl
theorem exec_maintGrant (s : State) :
    exec (.maintGrant) s = execMaintGrant s := rfl
theorem wf_maintWaitExpire :
    wellFormed (.maintWaitExpire) = (true) := rfl
theorem exec_maintWaitExpire (s : State) :
    exec (.maintWaitExpire) s = execMaintWaitExpire s := rfl
theorem wf_maintActivityDone (act : Nat) (obj : Nat) (outcome : Nat) :
    wellFormed (.maintActivityDone act obj outcome) = (within [(act, 0x103), (obj, 0x10000), (outcome, 3)]) := rfl
theorem exec_maintActivityDone (act : Nat) (obj : Nat) (outcome : Nat) (s : State) :
    exec (.maintActivityDone act obj outcome) s = execMaintActivityDone act obj outcome s := rfl
theorem wf_clusterIdleEntry (cl : Nat) :
    wellFormed (.clusterIdleEntry cl) = (within [(cl, 96)]) := rfl
theorem exec_clusterIdleEntry (cl : Nat) (s : State) :
    exec (.clusterIdleEntry cl) s = execClusterIdleEntry cl s := rfl
theorem wf_clusterRetainEntry (cl : Nat) :
    wellFormed (.clusterRetainEntry cl) = (within [(cl, 96)]) := rfl
theorem exec_clusterRetainEntry (cl : Nat) (s : State) :
    exec (.clusterRetainEntry cl) s = execClusterRetainEntry cl s := rfl
theorem wf_clusterOffEntry (cl : Nat) :
    wellFormed (.clusterOffEntry cl) = (within [(cl, 96)]) := rfl
theorem exec_clusterOffEntry (cl : Nat) (s : State) :
    exec (.clusterOffEntry cl) s = execClusterOffEntry cl s := rfl
theorem wf_thawWakeRequest (dom : Nat) :
    wellFormed (.thawWakeRequest dom) = (within [(dom, 147)]) := rfl
theorem exec_thawWakeRequest (dom : Nat) (s : State) :
    exec (.thawWakeRequest dom) s = execThawWakeRequest dom s := rfl
theorem wf_wakeStart (dom : Nat) :
    wellFormed (.wakeStart dom) = (within [(dom, 147)]) := rfl
theorem exec_wakeStart (dom : Nat) (s : State) :
    exec (.wakeStart dom) s = execWakeStart dom s := rfl
theorem wf_wakeDone (dom : Nat) :
    wellFormed (.wakeDone dom) = (within [(dom, 147)]) := rfl
theorem exec_wakeDone (dom : Nat) (s : State) :
    exec (.wakeDone dom) s = execWakeDone dom s := rfl
theorem wf_domainFailed (dom : Nat) :
    wellFormed (.domainFailed dom) = (within [(dom, 147)]) := rfl
theorem exec_domainFailed (dom : Nat) (s : State) :
    exec (.domainFailed dom) s = execDomainFailed dom s := rfl
theorem wf_idleExit (cl : Nat) :
    wellFormed (.idleExit cl) = (within [(cl, 96)]) := rfl
theorem exec_idleExit (cl : Nat) (s : State) :
    exec (.idleExit cl) s = execIdleExit cl s := rfl
theorem wf_clockStepWrite (cl : Nat) (val : Nat) :
    wellFormed (.clockStepWrite cl val) = (within [(cl, 96), (val, 0x100000000)]) := rfl
theorem exec_clockStepWrite (cl : Nat) (val : Nat) (s : State) :
    exec (.clockStepWrite cl val) s = execClockStepWrite cl val s := rfl
theorem wf_clockRaise (cl : Nat) :
    wellFormed (.clockRaise cl) = (within [(cl, 96)]) := rfl
theorem exec_clockRaise (cl : Nat) (s : State) :
    exec (.clockRaise cl) s = execClockRaise cl s := rfl
theorem wf_powerEstimateUpdate (w : Nat) :
    wellFormed (.powerEstimateUpdate w) = (within [(w, 65536)]) := rfl
theorem exec_powerEstimateUpdate (w : Nat) (s : State) :
    exec (.powerEstimateUpdate w) s = execPowerEstimateUpdate w s := rfl
theorem wf_powerCap :
    wellFormed (.powerCap) = (true) := rfl
theorem exec_powerCap (s : State) :
    exec (.powerCap) s = execPowerCap s := rfl
theorem wf_powerLimitWrite (val : Nat) (fw : Bool) :
    wellFormed (.powerLimitWrite val fw) = (within [(val, 0x100000000)]) := rfl
theorem exec_powerLimitWrite (val : Nat) (fw : Bool) (s : State) :
    exec (.powerLimitWrite val fw) s = execPowerLimitWrite val fw s := rfl
theorem wf_thermalTrip (sensor : Nat) :
    wellFormed (.thermalTrip sensor) = (within [(sensor, 112)]) := rfl
theorem exec_thermalTrip (sensor : Nat) (s : State) :
    exec (.thermalTrip sensor) s = execThermalTrip sensor s := rfl
theorem wf_queueReset (kind : Nat) (unit : Nat) (tkts : List Nat) (pairs : List Nat) (rings : List Nat) :
    wellFormed (.queueReset kind unit tkts pairs rings) = (within [(kind, 10), (unit, lget 0 [768, 96, 2, 16, 4, 12, 2048, 16, 64, 20] kind)] && pairs.all (fun q => decide (q < 8192)) && rings.all (fun r => decide (r < 4096))) := rfl
theorem exec_queueReset (kind : Nat) (unit : Nat) (tkts : List Nat) (pairs : List Nat) (rings : List Nat) (s : State) :
    exec (.queueReset kind unit tkts pairs rings) s = execQueueReset kind unit tkts pairs rings s := rfl
theorem wf_coldReset (straps : Nat) (temps : List Int) :
    wellFormed (.coldReset straps temps) = (within [(straps, 64)] && temps.length == 112) := rfl
theorem exec_coldReset (straps : Nat) (temps : List Int) (s : State) :
    exec (.coldReset straps temps) s = execColdReset straps temps s := rfl
theorem wf_sysRstNAssert :
    wellFormed (.sysRstNAssert) = (true) := rfl
theorem exec_sysRstNAssert (s : State) :
    exec (.sysRstNAssert) s = execSysRstNAssert s := rfl
theorem wf_sysRstNRelease :
    wellFormed (.sysRstNRelease) = (true) := rfl
theorem exec_sysRstNRelease (s : State) :
    exec (.sysRstNRelease) s = execSysRstNRelease s := rfl
theorem wf_resetHeld :
    wellFormed (.resetHeld) = (true) := rfl
theorem exec_resetHeld (s : State) :
    exec (.resetHeld) s = execResetHeld s := rfl
theorem wf_portReset (port : Nat) (perst : Bool) :
    wellFormed (.portReset port perst) = (within [(port, 2)]) := rfl
theorem exec_portReset (port : Nat) (perst : Bool) (s : State) :
    exec (.portReset port perst) s = execPortReset port perst s := rfl
theorem wf_perstDeassert (port : Nat) :
    wellFormed (.perstDeassert port) = (within [(port, 2)]) := rfl
theorem exec_perstDeassert (port : Nat) (s : State) :
    exec (.perstDeassert port) s = execPerstDeassert port s := rfl
theorem wf_pcieConfigReady (port : Nat) :
    wellFormed (.pcieConfigReady port) = (within [(port, 2)]) := rfl
theorem exec_pcieConfigReady (port : Nat) (s : State) :
    exec (.pcieConfigReady port) s = execPcieConfigReady port s := rfl
theorem wf_trstN :
    wellFormed (.trstN) = (true) := rfl
theorem exec_trstN (s : State) :
    exec (.trstN) s = execTrstN s := rfl
theorem wf_jtagInstruction (k : Nat) :
    wellFormed (.jtagInstruction k) = (within [(k, 8)]) := rfl
theorem exec_jtagInstruction (k : Nat) (s : State) :
    exec (.jtagInstruction k) s = execJtagInstruction k s := rfl
theorem wf_thermalHoldCheck (temps : List Int) :
    wellFormed (.thermalHoldCheck temps) = (temps.length == 112) := rfl
theorem exec_thermalHoldCheck (temps : List Int) (s : State) :
    exec (.thermalHoldCheck temps) s = execThermalHoldCheck temps s := rfl
theorem wf_railPowerGood :
    wellFormed (.railPowerGood) = (true) := rfl
theorem exec_railPowerGood (s : State) :
    exec (.railPowerGood) s = execRailPowerGood s := rfl
theorem wf_railFailed :
    wellFormed (.railFailed) = (true) := rfl
theorem exec_railFailed (s : State) :
    exec (.railFailed) s = execRailFailed s := rfl
theorem wf_bootStepDone (bad : Nat) (clean : Bool) :
    wellFormed (.bootStepDone bad clean) = (within [(bad, 0x1000)]) := rfl
theorem exec_bootStepDone (bad : Nat) (clean : Bool) (s : State) :
    exec (.bootStepDone bad clean) s = execBootStepDone bad clean s := rfl
theorem wf_mailboxGo (port : Nat) :
    wellFormed (.mailboxGo port) = (within [(port, 2)]) := rfl
theorem exec_mailboxGo (port : Nat) (s : State) :
    exec (.mailboxGo port) s = execMailboxGo port s := rfl
theorem wf_cfgWrite (ok : Bool) :
    wellFormed (.cfgWrite ok) = (true) := rfl
theorem exec_cfgWrite (ok : Bool) (s : State) :
    exec (.cfgWrite ok) s = execCfgWrite ok s := rfl
theorem wf_lcOwn :
    wellFormed (.lcOwn) = (true) := rfl
theorem exec_lcOwn (s : State) :
    exec (.lcOwn) s = execLcOwn s := rfl
theorem wf_lcReturn :
    wellFormed (.lcReturn) = (true) := rfl
theorem exec_lcReturn (s : State) :
    exec (.lcReturn) s = execLcReturn s := rfl
theorem wf_lcVoid :
    wellFormed (.lcVoid) = (true) := rfl
theorem exec_lcVoid (s : State) :
    exec (.lcVoid) s = execLcVoid s := rfl
theorem wf_debugToken :
    wellFormed (.debugToken) = (true) := rfl
theorem exec_debugToken (s : State) :
    exec (.debugToken) s = execDebugToken s := rfl
theorem wf_nonceDraw :
    wellFormed (.nonceDraw) = (true) := rfl
theorem exec_nonceDraw (s : State) :
    exec (.nonceDraw) s = execNonceDraw s := rfl
theorem wf_controlCoreRestarted (cls : Nat) (i : Nat) :
    wellFormed (.controlCoreRestarted cls i) = (decide (cls = 1 ∧ i < 16 ∨ cls = 2 ∧ i < 8)) := rfl
theorem exec_controlCoreRestarted (cls : Nat) (i : Nat) (s : State) :
    exec (.controlCoreRestarted cls i) s = execControlCoreRestarted cls i s := rfl
theorem wf_islandRestarted :
    wellFormed (.islandRestarted) = (true) := rfl
theorem exec_islandRestarted (s : State) :
    exec (.islandRestarted) s = execIslandRestarted s := rfl
theorem wf_pcieLinkUp (port : Nat) :
    wellFormed (.pcieLinkUp port) = (within [(port, 2)]) := rfl
theorem exec_pcieLinkUp (port : Nat) (s : State) :
    exec (.pcieLinkUp port) s = execPcieLinkUp port s := rfl
theorem wf_maintRequest (q : Nat) (t : Nat) :
    wellFormed (.maintRequest q t) = (within [(q, 8192)]) := rfl
theorem exec_maintRequest (q : Nat) (t : Nat) (s : State) :
    exec (.maintRequest q t) s = execMaintRequest q t s := rfl
theorem wf_bridgeReplay (a : Nat) (b : Nat) (again : Bool) :
    wellFormed (.bridgeReplay a b again) = (decide (a < 25 ∧ b < 25 ∧ ((a / 5 = b / 5 ∧ (a + 1 = b ∨ b + 1 = a)) ∨ a + 5 = b ∨ b + 5 = a))) := rfl
theorem exec_bridgeReplay (a : Nat) (b : Nat) (again : Bool) (s : State) :
    exec (.bridgeReplay a b again) s = execBridgeReplay a b again s := rfl
theorem wf_bridgeFailed (a : Nat) (b : Nat) (training : Bool) :
    wellFormed (.bridgeFailed a b training) = (decide (a < 25 ∧ b < 25 ∧ ((a / 5 = b / 5 ∧ (a + 1 = b ∨ b + 1 = a)) ∨ a + 5 = b ∨ b + 5 = a))) := rfl
theorem exec_bridgeFailed (a : Nat) (b : Nat) (training : Bool) (s : State) :
    exec (.bridgeFailed a b training) s = execBridgeFailed a b training s := rfl
theorem wf_railFault (rail : Nat) :
    wellFormed (.railFault rail) = (within [(rail, 12)]) := rfl
theorem exec_railFault (rail : Nat) (s : State) :
    exec (.railFault rail) s = execRailFault rail s := rfl
theorem wf_vddAonLoss :
    wellFormed (.vddAonLoss) = (true) := rfl
theorem exec_vddAonLoss (s : State) :
    exec (.vddAonLoss) s = execVddAonLoss s := rfl
theorem wf_sysrefLost :
    wellFormed (.sysrefLost) = (true) := rfl
theorem exec_sysrefLost (s : State) :
    exec (.sysrefLost) s = execSysrefLost s := rfl
theorem wf_smbusSclLowTimeout :
    wellFormed (.smbusSclLowTimeout) = (true) := rfl
theorem exec_smbusSclLowTimeout (s : State) :
    exec (.smbusSclLowTimeout) s = execSmbusSclLowTimeout s := rfl
theorem wf_stragglerEval (cl : Nat) (ctx : Nat) :
    wellFormed (.stragglerEval cl ctx) = (within [(cl, 96), (ctx, 4096)]) := rfl
theorem exec_stragglerEval (cl : Nat) (ctx : Nat) (s : State) :
    exec (.stragglerEval cl ctx) s = execStragglerEval cl ctx s := rfl
theorem wf_decodeStep (q : Nat) (t : Nat) :
    wellFormed (.decodeStep q t) = (within [(q, 8192)]) := rfl
theorem exec_decodeStep (q : Nat) (t : Nat) (s : State) :
    exec (.decodeStep q t) s = execDecodeStep q t s := rfl
theorem wf_attnQuery (die : Nat) (src : AttnSrc) (layer : Nat) (qs : List (List Nat)) (kv : List (List Nat)) (hw : Bool) :
    wellFormed (.attnQuery die src layer qs kv hw) = (within [(die, 4), (layer, 128)] && (match src with | .step _ b => decide (b < 16) | .shard p x => within [(p, 64), (x, 2 ^ 40)]) && (qs ++ kv).all (·.all (fun c => decide (c < 2 ^ 32)))) := rfl
theorem exec_attnQuery (die : Nat) (src : AttnSrc) (layer : Nat) (qs : List (List Nat)) (kv : List (List Nat)) (hw : Bool) (s : State) :
    exec (.attnQuery die src layer qs kv hw) s = execAttnQuery die src layer qs kv hw s := rfl
theorem wf_attnPartialArrive (k : Nat) (b : Nat) (layer : Nat) (kind : Nat) (shard : Nat) (ps : List (Nat × Nat × List Nat × Bool)) :
    wellFormed (.attnPartialArrive k b layer kind shard ps) = (within [(b, 16), (layer, 128), (kind, 5), (shard, 8)] && ps.all (fun p => within [(p.1, 2 ^ 32), (p.2.1, 2 ^ 32)] && p.2.2.1.all (fun c => decide (c < 2 ^ 32)))) := rfl
theorem exec_attnPartialArrive (k : Nat) (b : Nat) (layer : Nat) (kind : Nat) (shard : Nat) (ps : List (Nat × Nat × List Nat × Bool)) (s : State) :
    exec (.attnPartialArrive k b layer kind shard ps) s = execAttnPartialArrive k b layer kind shard ps s := rfl
theorem wf_attnCfgWrite (die : Nat) (val : Nat) :
    wellFormed (.attnCfgWrite die val) = (within [(die, 4), (val, 2 ^ 32)]) := rfl
theorem exec_attnCfgWrite (die : Nat) (val : Nat) (s : State) :
    exec (.attnCfgWrite die val) s = execAttnCfgWrite die val s := rfl
theorem wf_trainStep (q : Nat) (t : Nat) (fits : Bool) (init : List (List (Option Int × List Nat))) :
    wellFormed (.trainStep q t fits init) = (within [(q, 8192)] && init.all (·.all (fun r => (match r.1 with | some e => decide (-64 ≤ e ∧ e ≤ 63) | none => true) && r.2.all (fun c => decide (c < 65536))))) := rfl
theorem exec_trainStep (q : Nat) (t : Nat) (fits : Bool) (init : List (List (Option Int × List Nat))) (s : State) :
    exec (.trainStep q t fits init) s = execTrainStep q t fits init s := rfl
theorem wf_trainCommit (q : Nat) (t : Nat) (grads : List (List (Int × List Nat))) (hw : Bool) :
    wellFormed (.trainCommit q t grads hw) = (within [(q, 8192)] && grads.all (·.all (fun r => decide (-64 ≤ r.1 ∧ r.1 ≤ 63) && r.2.all (fun c => decide (c < 256))))) := rfl
theorem exec_trainCommit (q : Nat) (t : Nat) (grads : List (List (Int × List Nat))) (hw : Bool) (s : State) :
    exec (.trainCommit q t grads hw) s = execTrainCommit q t grads hw s := rfl
theorem wf_countersRead (q : Nat) (t : Nat) :
    wellFormed (.countersRead q t) = (within [(q, 8192)]) := rfl
theorem exec_countersRead (q : Nat) (t : Nat) (s : State) :
    exec (.countersRead q t) s = execCountersRead q t s := rfl
theorem wf_gong (q : Nat) (t : Nat) :
    wellFormed (.gong q t) = (within [(q, 8192)]) := rfl
theorem exec_gong (q : Nat) (t : Nat) (s : State) :
    exec (.gong q t) s = execGong q t s := rfl
theorem wf_tensorDumpArm (q : Nat) (t : Nat) :
    wellFormed (.tensorDumpArm q t) = (within [(q, 8192)]) := rfl
theorem exec_tensorDumpArm (q : Nat) (t : Nat) (s : State) :
    exec (.tensorDumpArm q t) s = execTensorDumpArm q t s := rfl
theorem wf_registerWrite (fn : Nat) (off : Nat) (val : Nat) (fw : Bool) :
    wellFormed (.registerWrite fn off val fw) = (within [(fn, 128), (off, if fn % 64 = 0 then 2 ^ 26 else 4096), (val, 2 ^ 32)] && off % 4 == 0) := rfl
theorem exec_registerWrite (fn : Nat) (off : Nat) (val : Nat) (fw : Bool) (s : State) :
    exec (.registerWrite fn off val fw) s = execRegisterWrite fn off val fw s := rfl
theorem wf_jodonGong (link : Nat) :
    wellFormed (.jodonGong link) = (within [(link, 20)]) := rfl
theorem exec_jodonGong (link : Nat) (s : State) :
    exec (.jodonGong link) s = execJodonGong link s := rfl
theorem wf_gongLatch :
    wellFormed (.gongLatch) = (true) := rfl
theorem exec_gongLatch (s : State) :
    exec (.gongLatch) s = execGongLatch s := rfl
theorem wf_tensorDumpWrite (t : Nat) :
    wellFormed (.tensorDumpWrite t) = (true) := rfl
theorem exec_tensorDumpWrite (t : Nat) (s : State) :
    exec (.tensorDumpWrite t) s = execTensorDumpWrite t s := rfl
theorem wf_watchdogFire (core : Nat) :
    wellFormed (.watchdogFire core) = (within [(core, 768)]) := rfl
theorem exec_watchdogFire (core : Nat) (s : State) :
    exec (.watchdogFire core) s = execWatchdogFire core s := rfl
theorem wf_rimeDumpDone (p : Nat) :
    wellFormed (.rimeDumpDone p) = (within [(p, 64)]) := rfl
theorem exec_rimeDumpDone (p : Nat) (s : State) :
    exec (.rimeDumpDone p) s = execRimeDumpDone p s := rfl

end Sys2Proof.Machine
end

