-- ==== Sys2Proof/Laws/Cores.lean ====
section
/-! SUPPORT. What the shared operations of a Tabla core do: cores read back, issue on a ready core, and going on. -/

namespace Sys2Proof.Laws

open Sys2Proof.Machine Sys2Proof.Safety

theorem run_next {i : Instr} {f : Dev → Dev} {s : State} (h : wellFormed i = true) : run i f s = .next { s with dev := f s.dev } := by
  simp [run, runIf, h]

theorem runIf_next {f : Dev → Dev} {s : State} {ok : Bool} (h : ok = true) : runIf ok f s = .next { s with dev := f s.dev } := by
  simp [runIf, h]

@[simp] theorem coreOf_modCore_same (c : Nat) (f : Core → Core) (d : Dev) : coreOf (modCore c f d) c = f (coreOf d c) := by
  simp [coreOf, modCore, onComp]

theorem coreOf_modCore_other {c x : Nat} (f : Core → Core) (d : Dev) (h : x ≠ c) : coreOf (modCore c f d) x = coreOf d x := by
  simp [coreOf, modCore, onComp, tget_tmod_other _ _ _ h]

@[simp] theorem coreOf_modInv (i x : Nat) (f : Inv → Inv) (d : Dev) : coreOf (modInv i f d) x = coreOf d x := rfl
@[simp] theorem coreOf_modCluster (cl x : Nat) (f : Cluster → Cluster) (d : Dev) : coreOf (modCluster cl f d) x = coreOf d x := rfl
@[simp] theorem coreOf_bumpN (k : Ctr) (i j n x : Nat) (d : Dev) : coreOf (bumpN k i j n d) x = coreOf d x := rfl
@[simp] theorem coreOf_setReg (a v x : Nat) (d : Dev) : coreOf (setReg a v d) x = coreOf d x := rfl
@[simp] theorem coreOf_freshStep (x : Nat) (d : Dev) : coreOf (freshStep d) x = coreOf d x := rfl

theorem coreOf_waitStop (c x : Nat) (d : Dev) : coreOf (waitStop c d) x = coreOf d x := by
  unfold waitStop; split <;> rfl

/-- Going on moves the core past its instruction. -/
@[simp] theorem coreOf_advance_same (c : Nat) (d : Dev) : coreOf (advance c d) c = passed (coreOf d c) := by
  simp [advance, passed, coreOf_waitStop]

theorem coreOf_advance_other {c x : Nat} (d : Dev) (h : x ≠ c) : coreOf (advance c d) x = coreOf d x := by
  rw [advance, coreOf_modCore_other _ _ h, coreOf_waitStop]

/-- A ready core issues: the effect acts on the device with the fetch noted. -/
theorem issue_ready {d : Dev} {c : Nat} (h : coreReady d c = true) (i : Instr) (f : Dev → Dev) : issue c i f d = f (fetched c d) := by
  simp only [coreReady, Bool.and_eq_true, bne_iff_ne, ne_eq, Bool.not_eq_true', Option.isNone_iff_eq_none] at h
  obtain ⟨⟨⟨⟨h1, h2⟩, -⟩, h4⟩, h5⟩ := h
  unfold issue fetched
  simp only [h1, h2, h4, Option.isSome_none, Bool.false_eq_true, or_self, if_false]
  split at h5
  · rename_i hc; simp only [hc, h5, if_true]
  · rename_i hc
    have h6 : ¬ progLen d c ≤ (coreOf d c).pc := by simpa using h5
    simp [hc, h6]

/-- What cores other than `c` and other units see of a fetch: nothing. -/
theorem coreKept_fetched (c : Nat) (d : Dev) : CoreKept c d (fetched c d) := by
  refine ⟨fun x hx => ?_, fun j => ?_, ?_⟩
  · unfold fetched issued; rw [coreOf_modCore_other _ _ hx]; split
    · exact coreOf_modCore_other _ _ hx
    · rfl
  · unfold fetched issued; split <;> rfl
  · unfold fetched issued; split <;> rfl

theorem coreKept_trans {c : Nat} {d d1 d2 : Dev} (h1 : CoreKept c d d1) (h2 : CoreKept c d1 d2) : CoreKept c d d2 := by
  obtain ⟨a1, b1, e1⟩ := h1
  obtain ⟨a2, b2, e2⟩ := h2
  refine ⟨fun x hx => (a2 x hx).trans (a1 x hx), fun j => ?_, ?_⟩
  · have := b1 j; have h := b2 j
    revert this h
    cases invOf d2 j; cases invOf d1 j; cases invOf d j
    simp only [Inv.mk.injEq]
    intro h1 h2
    obtain ⟨p1, p2, p3, p4, p5, p6, p7, p8, p9, p10, p11, -, -⟩ := h1
    obtain ⟨q1, q2, q3, q4, q5, q6, q7, q8, q9, q10, q11, -, -⟩ := h2
    simp [p1, p2, p3, p4, p5, p6, p7, p8, p9, p10, p11, q1, q2, q3, q4, q5, q6, q7, q8, q9, q10, q11]
  · rw [e2, e1]

theorem coreKept_modCore (c : Nat) (f : Core → Core) (d : Dev) : CoreKept c d (modCore c f d) :=
  ⟨fun _ hx => coreOf_modCore_other _ _ hx, fun _ => rfl, rfl⟩

theorem coreKept_waitStop (c : Nat) (d : Dev) : CoreKept c d (waitStop c d) := by
  unfold waitStop
  split
  · refine ⟨fun _ _ => rfl, fun j => ?_, rfl⟩
    simp only [invOf, modInv, onComp]
    by_cases hj : j = (coreOf d c).inv
    · subst hj; rw [tget_tmod_same]
    · rw [tget_tmod_other _ _ _ hj]
  · exact ⟨fun _ _ => rfl, fun _ => rfl, rfl⟩

theorem coreKept_advance (c : Nat) (d : Dev) : CoreKept c d (advance c d) :=
  coreKept_trans (coreKept_waitStop c d) (coreKept_modCore c _ _)

theorem coreKept_freshStep (c : Nat) (d : Dev) : CoreKept c d (freshStep d) := ⟨fun _ _ => rfl, fun _ => rfl, rfl⟩

/-- An instruction whose effect on the fetched device gives its core as `k` and keeps the rest completes so. -/
theorem coreDoes_of {i : Instr} {c : Nat} {s : State} {f : Dev → Dev} {k : Core} (hx : exec i s = run i (issue c i f) s)
    (hw : wellFormed i = true) (hk : coreOf (f (fetched c s.dev)) c = k) (hf : CoreKept c (fetched c s.dev) (f (fetched c s.dev))) :
    CoreDoes i c s k := by
  intro hr
  refine ⟨f (fetched c s.dev), ?_, hk, coreKept_trans (coreKept_fetched c s.dev) hf⟩
  unfold Gives; rw [hx, run_next hw, issue_ready hr]

end Sys2Proof.Laws
end

