-- ==== Sys2Proof/Laws/Frames.lean ====
section
/-! SUPPORT. Frames of the shared operations: for each, the fields of the device that it leaves as they were. -/

namespace Sys2Proof.Machine

@[simp] theorem when_time (b : Bool) (f : Dev → Dev) (d : Dev) (h : (f d).time = d.time) : (when b f d).time = d.time := by
  unfold when; split <;> simp [h]
@[simp] theorem foldl_time {α : Type} (l : List α) (f : Dev → α → Dev) (d : Dev) (h : ∀ d x, (f d x).time = d.time) :
    (l.foldl f d).time = d.time := by
  induction l generalizing d with
  | nil => rfl
  | cons x l ih => simp [ih, h]
@[simp] theorem forEach_time {α : Type} (l : List α) (f : α → Dev → Dev) (d : Dev) (h : ∀ x d, (f x d).time = d.time) :
    (forEach l f d).time = d.time := by simp [forEach, h]
@[simp] theorem when_regs (b : Bool) (f : Dev → Dev) (d : Dev) (h : (f d).regs = d.regs) : (when b f d).regs = d.regs := by
  unfold when; split <;> simp [h]
@[simp] theorem foldl_regs {α : Type} (l : List α) (f : Dev → α → Dev) (d : Dev) (h : ∀ d x, (f d x).regs = d.regs) :
    (l.foldl f d).regs = d.regs := by
  induction l generalizing d with
  | nil => rfl
  | cons x l ih => simp [ih, h]
@[simp] theorem forEach_regs {α : Type} (l : List α) (f : α → Dev → Dev) (d : Dev) (h : ∀ x d, (f x d).regs = d.regs) :
    (forEach l f d).regs = d.regs := by simp [forEach, h]
@[simp] theorem when_ctr (b : Bool) (f : Dev → Dev) (d : Dev) (h : (f d).ctr = d.ctr) : (when b f d).ctr = d.ctr := by
  unfold when; split <;> simp [h]
@[simp] theorem foldl_ctr {α : Type} (l : List α) (f : Dev → α → Dev) (d : Dev) (h : ∀ d x, (f d x).ctr = d.ctr) :
    (l.foldl f d).ctr = d.ctr := by
  induction l generalizing d with
  | nil => rfl
  | cons x l ih => simp [ih, h]
@[simp] theorem forEach_ctr {α : Type} (l : List α) (f : α → Dev → Dev) (d : Dev) (h : ∀ x d, (f x d).ctr = d.ctr) :
    (forEach l f d).ctr = d.ctr := by simp [forEach, h]
@[simp] theorem when_frozen (b : Bool) (f : Dev → Dev) (d : Dev) (h : (f d).frozen = d.frozen) : (when b f d).frozen = d.frozen := by
  unfold when; split <;> simp [h]
@[simp] theorem foldl_frozen {α : Type} (l : List α) (f : Dev → α → Dev) (d : Dev) (h : ∀ d x, (f d x).frozen = d.frozen) :
    (l.foldl f d).frozen = d.frozen := by
  induction l generalizing d with
  | nil => rfl
  | cons x l ih => simp [ih, h]
@[simp] theorem forEach_frozen {α : Type} (l : List α) (f : α → Dev → Dev) (d : Dev) (h : ∀ x d, (f x d).frozen = d.frozen) :
    (forEach l f d).frozen = d.frozen := by simp [forEach, h]
@[simp] theorem when_hostMem (b : Bool) (f : Dev → Dev) (d : Dev) (h : (f d).hostMem = d.hostMem) : (when b f d).hostMem = d.hostMem := by
  unfold when; split <;> simp [h]
@[simp] theorem foldl_hostMem {α : Type} (l : List α) (f : Dev → α → Dev) (d : Dev) (h : ∀ d x, (f d x).hostMem = d.hostMem) :
    (l.foldl f d).hostMem = d.hostMem := by
  induction l generalizing d with
  | nil => rfl
  | cons x l ih => simp [ih, h]
@[simp] theorem forEach_hostMem {α : Type} (l : List α) (f : α → Dev → Dev) (d : Dev) (h : ∀ x d, (f x d).hostMem = d.hostMem) :
    (forEach l f d).hostMem = d.hostMem := by simp [forEach, h]
@[simp] theorem when_edge (b : Bool) (f : Dev → Dev) (d : Dev) (h : (f d).edge = d.edge) : (when b f d).edge = d.edge := by
  unfold when; split <;> simp [h]
@[simp] theorem foldl_edge {α : Type} (l : List α) (f : Dev → α → Dev) (d : Dev) (h : ∀ d x, (f d x).edge = d.edge) :
    (l.foldl f d).edge = d.edge := by
  induction l generalizing d with
  | nil => rfl
  | cons x l ih => simp [ih, h]
@[simp] theorem forEach_edge {α : Type} (l : List α) (f : α → Dev → Dev) (d : Dev) (h : ∀ x d, (f x d).edge = d.edge) :
    (forEach l f d).edge = d.edge := by simp [forEach, h]
@[simp] theorem when_out (b : Bool) (f : Dev → Dev) (d : Dev) (h : (f d).out = d.out) : (when b f d).out = d.out := by
  unfold when; split <;> simp [h]
@[simp] theorem foldl_out {α : Type} (l : List α) (f : Dev → α → Dev) (d : Dev) (h : ∀ d x, (f d x).out = d.out) :
    (l.foldl f d).out = d.out := by
  induction l generalizing d with
  | nil => rfl
  | cons x l ih => simp [ih, h]
@[simp] theorem forEach_out {α : Type} (l : List α) (f : α → Dev → Dev) (d : Dev) (h : ∀ x d, (f x d).out = d.out) :
    (forEach l f d).out = d.out := by simp [forEach, h]
@[simp] theorem when_ctxs (b : Bool) (f : Dev → Dev) (d : Dev) (h : (f d).ctxs = d.ctxs) : (when b f d).ctxs = d.ctxs := by
  unfold when; split <;> simp [h]
@[simp] theorem foldl_ctxs {α : Type} (l : List α) (f : Dev → α → Dev) (d : Dev) (h : ∀ d x, (f d x).ctxs = d.ctxs) :
    (l.foldl f d).ctxs = d.ctxs := by
  induction l generalizing d with
  | nil => rfl
  | cons x l ih => simp [ih, h]
@[simp] theorem forEach_ctxs {α : Type} (l : List α) (f : α → Dev → Dev) (d : Dev) (h : ∀ x d, (f x d).ctxs = d.ctxs) :
    (forEach l f d).ctxs = d.ctxs := by simp [forEach, h]
@[simp] theorem when_recPend (b : Bool) (f : Dev → Dev) (d : Dev) (h : (f d).recPend = d.recPend) : (when b f d).recPend = d.recPend := by
  unfold when; split <;> simp [h]
@[simp] theorem foldl_recPend {α : Type} (l : List α) (f : Dev → α → Dev) (d : Dev) (h : ∀ d x, (f d x).recPend = d.recPend) :
    (l.foldl f d).recPend = d.recPend := by
  induction l generalizing d with
  | nil => rfl
  | cons x l ih => simp [ih, h]
@[simp] theorem forEach_recPend {α : Type} (l : List α) (f : α → Dev → Dev) (d : Dev) (h : ∀ x d, (f x d).recPend = d.recPend) :
    (forEach l f d).recPend = d.recPend := by simp [forEach, h]
@[simp] theorem when_comp (b : Bool) (f : Dev → Dev) (d : Dev) (h : (f d).comp = d.comp) : (when b f d).comp = d.comp := by
  unfold when; split <;> simp [h]
@[simp] theorem foldl_comp {α : Type} (l : List α) (f : Dev → α → Dev) (d : Dev) (h : ∀ d x, (f d x).comp = d.comp) :
    (l.foldl f d).comp = d.comp := by
  induction l generalizing d with
  | nil => rfl
  | cons x l ih => simp [ih, h]
@[simp] theorem forEach_comp {α : Type} (l : List α) (f : α → Dev → Dev) (d : Dev) (h : ∀ x d, (f x d).comp = d.comp) :
    (forEach l f d).comp = d.comp := by simp [forEach, h]
@[simp] theorem when_store (b : Bool) (f : Dev → Dev) (d : Dev) (h : (f d).store = d.store) : (when b f d).store = d.store := by
  unfold when; split <;> simp [h]
@[simp] theorem foldl_store {α : Type} (l : List α) (f : Dev → α → Dev) (d : Dev) (h : ∀ d x, (f d x).store = d.store) :
    (l.foldl f d).store = d.store := by
  induction l generalizing d with
  | nil => rfl
  | cons x l ih => simp [ih, h]
@[simp] theorem forEach_store {α : Type} (l : List α) (f : α → Dev → Dev) (d : Dev) (h : ∀ x d, (f x d).store = d.store) :
    (forEach l f d).store = d.store := by simp [forEach, h]
@[simp] theorem when_ep (b : Bool) (f : Dev → Dev) (d : Dev) (h : (f d).ep = d.ep) : (when b f d).ep = d.ep := by
  unfold when; split <;> simp [h]
@[simp] theorem foldl_ep {α : Type} (l : List α) (f : Dev → α → Dev) (d : Dev) (h : ∀ d x, (f d x).ep = d.ep) :
    (l.foldl f d).ep = d.ep := by
  induction l generalizing d with
  | nil => rfl
  | cons x l ih => simp [ih, h]
@[simp] theorem forEach_ep {α : Type} (l : List α) (f : α → Dev → Dev) (d : Dev) (h : ∀ x d, (f x d).ep = d.ep) :
    (forEach l f d).ep = d.ep := by simp [forEach, h]
@[simp] theorem when_parts (b : Bool) (f : Dev → Dev) (d : Dev) (h : (f d).parts = d.parts) : (when b f d).parts = d.parts := by
  unfold when; split <;> simp [h]
@[simp] theorem foldl_parts {α : Type} (l : List α) (f : Dev → α → Dev) (d : Dev) (h : ∀ d x, (f d x).parts = d.parts) :
    (l.foldl f d).parts = d.parts := by
  induction l generalizing d with
  | nil => rfl
  | cons x l ih => simp [ih, h]
@[simp] theorem forEach_parts {α : Type} (l : List α) (f : α → Dev → Dev) (d : Dev) (h : ∀ x d, (f x d).parts = d.parts) :
    (forEach l f d).parts = d.parts := by simp [forEach, h]
@[simp] theorem when_partOp (b : Bool) (f : Dev → Dev) (d : Dev) (h : (f d).partOp = d.partOp) : (when b f d).partOp = d.partOp := by
  unfold when; split <;> simp [h]
@[simp] theorem foldl_partOp {α : Type} (l : List α) (f : Dev → α → Dev) (d : Dev) (h : ∀ d x, (f d x).partOp = d.partOp) :
    (l.foldl f d).partOp = d.partOp := by
  induction l generalizing d with
  | nil => rfl
  | cons x l ih => simp [ih, h]
@[simp] theorem forEach_partOp {α : Type} (l : List α) (f : α → Dev → Dev) (d : Dev) (h : ∀ x d, (f x d).partOp = d.partOp) :
    (forEach l f d).partOp = d.partOp := by simp [forEach, h]
@[simp] theorem when_pairs (b : Bool) (f : Dev → Dev) (d : Dev) (h : (f d).pairs = d.pairs) : (when b f d).pairs = d.pairs := by
  unfold when; split <;> simp [h]
@[simp] theorem foldl_pairs {α : Type} (l : List α) (f : Dev → α → Dev) (d : Dev) (h : ∀ d x, (f d x).pairs = d.pairs) :
    (l.foldl f d).pairs = d.pairs := by
  induction l generalizing d with
  | nil => rfl
  | cons x l ih => simp [ih, h]
@[simp] theorem forEach_pairs {α : Type} (l : List α) (f : α → Dev → Dev) (d : Dev) (h : ∀ x d, (f x d).pairs = d.pairs) :
    (forEach l f d).pairs = d.pairs := by simp [forEach, h]
@[simp] theorem when_rrings (b : Bool) (f : Dev → Dev) (d : Dev) (h : (f d).rrings = d.rrings) : (when b f d).rrings = d.rrings := by
  unfold when; split <;> simp [h]
@[simp] theorem foldl_rrings {α : Type} (l : List α) (f : Dev → α → Dev) (d : Dev) (h : ∀ d x, (f d x).rrings = d.rrings) :
    (l.foldl f d).rrings = d.rrings := by
  induction l generalizing d with
  | nil => rfl
  | cons x l ih => simp [ih, h]
@[simp] theorem forEach_rrings {α : Type} (l : List α) (f : α → Dev → Dev) (d : Dev) (h : ∀ x d, (f x d).rrings = d.rrings) :
    (forEach l f d).rrings = d.rrings := by simp [forEach, h]
@[simp] theorem when_cmds (b : Bool) (f : Dev → Dev) (d : Dev) (h : (f d).cmds = d.cmds) : (when b f d).cmds = d.cmds := by
  unfold when; split <;> simp [h]
@[simp] theorem foldl_cmds {α : Type} (l : List α) (f : Dev → α → Dev) (d : Dev) (h : ∀ d x, (f d x).cmds = d.cmds) :
    (l.foldl f d).cmds = d.cmds := by
  induction l generalizing d with
  | nil => rfl
  | cons x l ih => simp [ih, h]
@[simp] theorem forEach_cmds {α : Type} (l : List α) (f : α → Dev → Dev) (d : Dev) (h : ∀ x d, (f x d).cmds = d.cmds) :
    (forEach l f d).cmds = d.cmds := by simp [forEach, h]
@[simp] theorem when_nextTkt (b : Bool) (f : Dev → Dev) (d : Dev) (h : (f d).nextTkt = d.nextTkt) : (when b f d).nextTkt = d.nextTkt := by
  unfold when; split <;> simp [h]
@[simp] theorem foldl_nextTkt {α : Type} (l : List α) (f : Dev → α → Dev) (d : Dev) (h : ∀ d x, (f d x).nextTkt = d.nextTkt) :
    (l.foldl f d).nextTkt = d.nextTkt := by
  induction l generalizing d with
  | nil => rfl
  | cons x l ih => simp [ih, h]
@[simp] theorem forEach_nextTkt {α : Type} (l : List α) (f : α → Dev → Dev) (d : Dev) (h : ∀ x d, (f x d).nextTkt = d.nextTkt) :
    (forEach l f d).nextTkt = d.nextTkt := by simp [forEach, h]
@[simp] theorem when_msixOn (b : Bool) (f : Dev → Dev) (d : Dev) (h : (f d).msixOn = d.msixOn) : (when b f d).msixOn = d.msixOn := by
  unfold when; split <;> simp [h]
@[simp] theorem foldl_msixOn {α : Type} (l : List α) (f : Dev → α → Dev) (d : Dev) (h : ∀ d x, (f d x).msixOn = d.msixOn) :
    (l.foldl f d).msixOn = d.msixOn := by
  induction l generalizing d with
  | nil => rfl
  | cons x l ih => simp [ih, h]
@[simp] theorem forEach_msixOn {α : Type} (l : List α) (f : α → Dev → Dev) (d : Dev) (h : ∀ x d, (f x d).msixOn = d.msixOn) :
    (forEach l f d).msixOn = d.msixOn := by simp [forEach, h]
@[simp] theorem when_msixPba (b : Bool) (f : Dev → Dev) (d : Dev) (h : (f d).msixPba = d.msixPba) : (when b f d).msixPba = d.msixPba := by
  unfold when; split <;> simp [h]
@[simp] theorem foldl_msixPba {α : Type} (l : List α) (f : Dev → α → Dev) (d : Dev) (h : ∀ d x, (f d x).msixPba = d.msixPba) :
    (l.foldl f d).msixPba = d.msixPba := by
  induction l generalizing d with
  | nil => rfl
  | cons x l ih => simp [ih, h]
@[simp] theorem forEach_msixPba {α : Type} (l : List α) (f : α → Dev → Dev) (d : Dev) (h : ∀ x d, (f x d).msixPba = d.msixPba) :
    (forEach l f d).msixPba = d.msixPba := by simp [forEach, h]
@[simp] theorem when_errUp (b : Bool) (f : Dev → Dev) (d : Dev) (h : (f d).errUp = d.errUp) : (when b f d).errUp = d.errUp := by
  unfold when; split <;> simp [h]
@[simp] theorem foldl_errUp {α : Type} (l : List α) (f : Dev → α → Dev) (d : Dev) (h : ∀ d x, (f d x).errUp = d.errUp) :
    (l.foldl f d).errUp = d.errUp := by
  induction l generalizing d with
  | nil => rfl
  | cons x l ih => simp [ih, h]
@[simp] theorem forEach_errUp {α : Type} (l : List α) (f : α → Dev → Dev) (d : Dev) (h : ∀ x d, (f x d).errUp = d.errUp) :
    (forEach l f d).errUp = d.errUp := by simp [forEach, h]
@[simp] theorem when_tabVers (b : Bool) (f : Dev → Dev) (d : Dev) (h : (f d).tabVers = d.tabVers) : (when b f d).tabVers = d.tabVers := by
  unfold when; split <;> simp [h]
@[simp] theorem foldl_tabVers {α : Type} (l : List α) (f : Dev → α → Dev) (d : Dev) (h : ∀ d x, (f d x).tabVers = d.tabVers) :
    (l.foldl f d).tabVers = d.tabVers := by
  induction l generalizing d with
  | nil => rfl
  | cons x l ih => simp [ih, h]
@[simp] theorem forEach_tabVers {α : Type} (l : List α) (f : α → Dev → Dev) (d : Dev) (h : ∀ x d, (f x d).tabVers = d.tabVers) :
    (forEach l f d).tabVers = d.tabVers := by simp [forEach, h]
@[simp] theorem when_maint (b : Bool) (f : Dev → Dev) (d : Dev) (h : (f d).maint = d.maint) : (when b f d).maint = d.maint := by
  unfold when; split <;> simp [h]
@[simp] theorem foldl_maint {α : Type} (l : List α) (f : Dev → α → Dev) (d : Dev) (h : ∀ d x, (f d x).maint = d.maint) :
    (l.foldl f d).maint = d.maint := by
  induction l generalizing d with
  | nil => rfl
  | cons x l ih => simp [ih, h]
@[simp] theorem forEach_maint {α : Type} (l : List α) (f : α → Dev → Dev) (d : Dev) (h : ∀ x d, (f x d).maint = d.maint) :
    (forEach l f d).maint = d.maint := by simp [forEach, h]
@[simp] theorem when_keyed (b : Bool) (f : Dev → Dev) (d : Dev) (h : (f d).keyed = d.keyed) : (when b f d).keyed = d.keyed := by
  unfold when; split <;> simp [h]
@[simp] theorem foldl_keyed {α : Type} (l : List α) (f : Dev → α → Dev) (d : Dev) (h : ∀ d x, (f d x).keyed = d.keyed) :
    (l.foldl f d).keyed = d.keyed := by
  induction l generalizing d with
  | nil => rfl
  | cons x l ih => simp [ih, h]
@[simp] theorem forEach_keyed {α : Type} (l : List α) (f : α → Dev → Dev) (d : Dev) (h : ∀ x d, (f x d).keyed = d.keyed) :
    (forEach l f d).keyed = d.keyed := by simp [forEach, h]
@[simp] theorem when_txBk (b : Bool) (f : Dev → Dev) (d : Dev) (h : (f d).txBk = d.txBk) : (when b f d).txBk = d.txBk := by
  unfold when; split <;> simp [h]
@[simp] theorem foldl_txBk {α : Type} (l : List α) (f : Dev → α → Dev) (d : Dev) (h : ∀ d x, (f d x).txBk = d.txBk) :
    (l.foldl f d).txBk = d.txBk := by
  induction l generalizing d with
  | nil => rfl
  | cons x l ih => simp [ih, h]
@[simp] theorem forEach_txBk {α : Type} (l : List α) (f : α → Dev → Dev) (d : Dev) (h : ∀ x d, (f x d).txBk = d.txBk) :
    (forEach l f d).txBk = d.txBk := by simp [forEach, h]
@[simp] theorem when_numVfs (b : Bool) (f : Dev → Dev) (d : Dev) (h : (f d).numVfs = d.numVfs) : (when b f d).numVfs = d.numVfs := by
  unfold when; split <;> simp [h]
@[simp] theorem foldl_numVfs {α : Type} (l : List α) (f : Dev → α → Dev) (d : Dev) (h : ∀ d x, (f d x).numVfs = d.numVfs) :
    (l.foldl f d).numVfs = d.numVfs := by
  induction l generalizing d with
  | nil => rfl
  | cons x l ih => simp [ih, h]
@[simp] theorem forEach_numVfs {α : Type} (l : List α) (f : α → Dev → Dev) (d : Dev) (h : ∀ x d, (f x d).numVfs = d.numVfs) :
    (forEach l f d).numVfs = d.numVfs := by simp [forEach, h]
@[simp] theorem when_pcie (b : Bool) (f : Dev → Dev) (d : Dev) (h : (f d).pcie = d.pcie) : (when b f d).pcie = d.pcie := by
  unfold when; split <;> simp [h]
@[simp] theorem foldl_pcie {α : Type} (l : List α) (f : Dev → α → Dev) (d : Dev) (h : ∀ d x, (f d x).pcie = d.pcie) :
    (l.foldl f d).pcie = d.pcie := by
  induction l generalizing d with
  | nil => rfl
  | cons x l ih => simp [ih, h]
@[simp] theorem forEach_pcie {α : Type} (l : List α) (f : α → Dev → Dev) (d : Dev) (h : ∀ x d, (f x d).pcie = d.pcie) :
    (forEach l f d).pcie = d.pcie := by simp [forEach, h]
@[simp] theorem when_fab (b : Bool) (f : Dev → Dev) (d : Dev) (h : (f d).fab = d.fab) : (when b f d).fab = d.fab := by
  unfold when; split <;> simp [h]
@[simp] theorem foldl_fab {α : Type} (l : List α) (f : Dev → α → Dev) (d : Dev) (h : ∀ d x, (f d x).fab = d.fab) :
    (l.foldl f d).fab = d.fab := by
  induction l generalizing d with
  | nil => rfl
  | cons x l ih => simp [ih, h]
@[simp] theorem forEach_fab {α : Type} (l : List α) (f : α → Dev → Dev) (d : Dev) (h : ∀ x d, (f x d).fab = d.fab) :
    (forEach l f d).fab = d.fab := by simp [forEach, h]
@[simp] theorem when_isl (b : Bool) (f : Dev → Dev) (d : Dev) (h : (f d).isl = d.isl) : (when b f d).isl = d.isl := by
  unfold when; split <;> simp [h]
@[simp] theorem foldl_isl {α : Type} (l : List α) (f : Dev → α → Dev) (d : Dev) (h : ∀ d x, (f d x).isl = d.isl) :
    (l.foldl f d).isl = d.isl := by
  induction l generalizing d with
  | nil => rfl
  | cons x l ih => simp [ih, h]
@[simp] theorem forEach_isl {α : Type} (l : List α) (f : α → Dev → Dev) (d : Dev) (h : ∀ x d, (f x d).isl = d.isl) :
    (forEach l f d).isl = d.isl := by simp [forEach, h]
@[simp] theorem when_otp (b : Bool) (f : Dev → Dev) (d : Dev) (h : (f d).otp = d.otp) : (when b f d).otp = d.otp := by
  unfold when; split <;> simp [h]
@[simp] theorem foldl_otp {α : Type} (l : List α) (f : Dev → α → Dev) (d : Dev) (h : ∀ d x, (f d x).otp = d.otp) :
    (l.foldl f d).otp = d.otp := by
  induction l generalizing d with
  | nil => rfl
  | cons x l ih => simp [ih, h]
@[simp] theorem forEach_otp {α : Type} (l : List α) (f : α → Dev → Dev) (d : Dev) (h : ∀ x d, (f x d).otp = d.otp) :
    (forEach l f d).otp = d.otp := by simp [forEach, h]
@[simp] theorem when_boot (b : Bool) (f : Dev → Dev) (d : Dev) (h : (f d).boot = d.boot) : (when b f d).boot = d.boot := by
  unfold when; split <;> simp [h]
@[simp] theorem foldl_boot {α : Type} (l : List α) (f : Dev → α → Dev) (d : Dev) (h : ∀ d x, (f d x).boot = d.boot) :
    (l.foldl f d).boot = d.boot := by
  induction l generalizing d with
  | nil => rfl
  | cons x l ih => simp [ih, h]
@[simp] theorem forEach_boot {α : Type} (l : List α) (f : α → Dev → Dev) (d : Dev) (h : ∀ x d, (f x d).boot = d.boot) :
    (forEach l f d).boot = d.boot := by simp [forEach, h]
@[simp] theorem when_pwr (b : Bool) (f : Dev → Dev) (d : Dev) (h : (f d).pwr = d.pwr) : (when b f d).pwr = d.pwr := by
  unfold when; split <;> simp [h]
@[simp] theorem foldl_pwr {α : Type} (l : List α) (f : Dev → α → Dev) (d : Dev) (h : ∀ d x, (f d x).pwr = d.pwr) :
    (l.foldl f d).pwr = d.pwr := by
  induction l generalizing d with
  | nil => rfl
  | cons x l ih => simp [ih, h]
@[simp] theorem forEach_pwr {α : Type} (l : List α) (f : α → Dev → Dev) (d : Dev) (h : ∀ x d, (f x d).pwr = d.pwr) :
    (forEach l f d).pwr = d.pwr := by simp [forEach, h]
@[simp] theorem when_pins (b : Bool) (f : Dev → Dev) (d : Dev) (h : (f d).pins = d.pins) : (when b f d).pins = d.pins := by
  unfold when; split <;> simp [h]
@[simp] theorem foldl_pins {α : Type} (l : List α) (f : Dev → α → Dev) (d : Dev) (h : ∀ d x, (f d x).pins = d.pins) :
    (l.foldl f d).pins = d.pins := by
  induction l generalizing d with
  | nil => rfl
  | cons x l ih => simp [ih, h]
@[simp] theorem forEach_pins {α : Type} (l : List α) (f : α → Dev → Dev) (d : Dev) (h : ∀ x d, (f x d).pins = d.pins) :
    (forEach l f d).pins = d.pins := by simp [forEach, h]
@[simp] theorem when_obs (b : Bool) (f : Dev → Dev) (d : Dev) (h : (f d).obs = d.obs) : (when b f d).obs = d.obs := by
  unfold when; split <;> simp [h]
@[simp] theorem foldl_obs {α : Type} (l : List α) (f : Dev → α → Dev) (d : Dev) (h : ∀ d x, (f d x).obs = d.obs) :
    (l.foldl f d).obs = d.obs := by
  induction l generalizing d with
  | nil => rfl
  | cons x l ih => simp [ih, h]
@[simp] theorem forEach_obs {α : Type} (l : List α) (f : α → Dev → Dev) (d : Dev) (h : ∀ x d, (f x d).obs = d.obs) :
    (forEach l f d).obs = d.obs := by simp [forEach, h]
@[simp] theorem when_bridges (b : Bool) (f : Dev → Dev) (d : Dev) (h : (f d).bridges = d.bridges) : (when b f d).bridges = d.bridges := by
  unfold when; split <;> simp [h]
@[simp] theorem foldl_bridges {α : Type} (l : List α) (f : Dev → α → Dev) (d : Dev) (h : ∀ d x, (f d x).bridges = d.bridges) :
    (l.foldl f d).bridges = d.bridges := by
  induction l generalizing d with
  | nil => rfl
  | cons x l ih => simp [ih, h]
@[simp] theorem forEach_bridges {α : Type} (l : List α) (f : α → Dev → Dev) (d : Dev) (h : ∀ x d, (f x d).bridges = d.bridges) :
    (forEach l f d).bridges = d.bridges := by simp [forEach, h]
@[simp] theorem when_free (b : Bool) (f : Dev → Dev) (d : Dev) (h : (f d).free = d.free) : (when b f d).free = d.free := by
  unfold when; split <;> simp [h]
@[simp] theorem foldl_free {α : Type} (l : List α) (f : Dev → α → Dev) (d : Dev) (h : ∀ d x, (f d x).free = d.free) :
    (l.foldl f d).free = d.free := by
  induction l generalizing d with
  | nil => rfl
  | cons x l ih => simp [ih, h]
@[simp] theorem forEach_free {α : Type} (l : List α) (f : α → Dev → Dev) (d : Dev) (h : ∀ x d, (f x d).free = d.free) :
    (forEach l f d).free = d.free := by simp [forEach, h]

@[simp] theorem pcieRead_keeps (fn : Nat) (n : Nat) (d : Dev) :
    (pcieRead fn n d).time = d.time ∧ (pcieRead fn n d).regs = d.regs ∧ (pcieRead fn n d).frozen = d.frozen ∧
    (pcieRead fn n d).hostMem = d.hostMem ∧ (pcieRead fn n d).edge = d.edge ∧ (pcieRead fn n d).out = d.out ∧
    (pcieRead fn n d).ctxs = d.ctxs ∧ (pcieRead fn n d).recPend = d.recPend ∧ (pcieRead fn n d).comp = d.comp ∧
    (pcieRead fn n d).store = d.store ∧ (pcieRead fn n d).ep = d.ep ∧ (pcieRead fn n d).parts = d.parts ∧
    (pcieRead fn n d).partOp = d.partOp ∧ (pcieRead fn n d).pairs = d.pairs ∧ (pcieRead fn n d).rrings = d.rrings ∧
    (pcieRead fn n d).cmds = d.cmds ∧ (pcieRead fn n d).nextTkt = d.nextTkt ∧ (pcieRead fn n d).msixOn = d.msixOn ∧
    (pcieRead fn n d).msixPba = d.msixPba ∧ (pcieRead fn n d).errUp = d.errUp ∧ (pcieRead fn n d).tabVers = d.tabVers ∧
    (pcieRead fn n d).maint = d.maint ∧ (pcieRead fn n d).keyed = d.keyed ∧ (pcieRead fn n d).txBk = d.txBk ∧
    (pcieRead fn n d).numVfs = d.numVfs ∧ (pcieRead fn n d).pcie = d.pcie ∧ (pcieRead fn n d).fab = d.fab ∧ (pcieRead fn n d).isl = d.isl ∧
    (pcieRead fn n d).otp = d.otp ∧ (pcieRead fn n d).boot = d.boot ∧ (pcieRead fn n d).pwr = d.pwr ∧ (pcieRead fn n d).pins = d.pins ∧
    (pcieRead fn n d).obs = d.obs ∧ (pcieRead fn n d).bridges = d.bridges ∧ (pcieRead fn n d).free = d.free := by
  first
  | exact ⟨rfl, rfl, rfl, rfl, rfl, rfl, rfl, rfl, rfl, rfl, rfl, rfl, rfl, rfl, rfl, rfl, rfl, rfl, rfl, rfl, rfl, rfl, rfl, rfl, rfl, rfl, rfl, rfl, rfl, rfl, rfl, rfl, rfl, rfl, rfl⟩
  | unfold pcieRead; try dsimp only
    repeat' (first | (simp; done) | split)

@[simp] theorem hostWrite_keeps (fn : Nat) (a : Nat) (bs : List Byte) (d : Dev) :
    (hostWrite fn a bs d).time = d.time ∧ (hostWrite fn a bs d).regs = d.regs ∧ (hostWrite fn a bs d).frozen = d.frozen ∧
    (hostWrite fn a bs d).edge = d.edge ∧ (hostWrite fn a bs d).out = d.out ∧ (hostWrite fn a bs d).ctxs = d.ctxs ∧
    (hostWrite fn a bs d).recPend = d.recPend ∧ (hostWrite fn a bs d).comp = d.comp ∧ (hostWrite fn a bs d).store = d.store ∧
    (hostWrite fn a bs d).ep = d.ep ∧ (hostWrite fn a bs d).parts = d.parts ∧ (hostWrite fn a bs d).partOp = d.partOp ∧
    (hostWrite fn a bs d).pairs = d.pairs ∧ (hostWrite fn a bs d).rrings = d.rrings ∧ (hostWrite fn a bs d).cmds = d.cmds ∧
    (hostWrite fn a bs d).nextTkt = d.nextTkt ∧ (hostWrite fn a bs d).msixOn = d.msixOn ∧ (hostWrite fn a bs d).msixPba = d.msixPba ∧
    (hostWrite fn a bs d).errUp = d.errUp ∧ (hostWrite fn a bs d).tabVers = d.tabVers ∧ (hostWrite fn a bs d).maint = d.maint ∧
    (hostWrite fn a bs d).keyed = d.keyed ∧ (hostWrite fn a bs d).txBk = d.txBk ∧ (hostWrite fn a bs d).numVfs = d.numVfs ∧
    (hostWrite fn a bs d).pcie = d.pcie ∧ (hostWrite fn a bs d).fab = d.fab ∧ (hostWrite fn a bs d).isl = d.isl ∧
    (hostWrite fn a bs d).otp = d.otp ∧ (hostWrite fn a bs d).boot = d.boot ∧ (hostWrite fn a bs d).pwr = d.pwr ∧
    (hostWrite fn a bs d).pins = d.pins ∧ (hostWrite fn a bs d).obs = d.obs ∧ (hostWrite fn a bs d).bridges = d.bridges ∧
    (hostWrite fn a bs d).free = d.free := by
  first
  | exact ⟨rfl, rfl, rfl, rfl, rfl, rfl, rfl, rfl, rfl, rfl, rfl, rfl, rfl, rfl, rfl, rfl, rfl, rfl, rfl, rfl, rfl, rfl, rfl, rfl, rfl, rfl, rfl, rfl, rfl, rfl, rfl, rfl, rfl, rfl⟩
  | unfold hostWrite; try dsimp only
    repeat' (first | (simp; done) | split)

@[simp] theorem postEvent_keeps (fn : Nat) (code : Nat) (payload : List Byte) (d : Dev) :
    (postEvent fn code payload d).time = d.time ∧ (postEvent fn code payload d).regs = d.regs ∧ (postEvent fn code payload d).ctr = d.ctr ∧
    (postEvent fn code payload d).frozen = d.frozen ∧ (postEvent fn code payload d).hostMem = d.hostMem ∧
    (postEvent fn code payload d).edge = d.edge ∧ (postEvent fn code payload d).out = d.out ∧ (postEvent fn code payload d).ctxs = d.ctxs ∧
    (postEvent fn code payload d).comp = d.comp ∧ (postEvent fn code payload d).store = d.store ∧ (postEvent fn code payload d).ep = d.ep ∧
    (postEvent fn code payload d).parts = d.parts ∧ (postEvent fn code payload d).partOp = d.partOp ∧
    (postEvent fn code payload d).pairs = d.pairs ∧ (postEvent fn code payload d).rrings = d.rrings ∧
    (postEvent fn code payload d).cmds = d.cmds ∧ (postEvent fn code payload d).nextTkt = d.nextTkt ∧
    (postEvent fn code payload d).msixOn = d.msixOn ∧ (postEvent fn code payload d).msixPba = d.msixPba ∧
    (postEvent fn code payload d).errUp = d.errUp ∧ (postEvent fn code payload d).tabVers = d.tabVers ∧
    (postEvent fn code payload d).maint = d.maint ∧ (postEvent fn code payload d).keyed = d.keyed ∧
    (postEvent fn code payload d).txBk = d.txBk ∧ (postEvent fn code payload d).numVfs = d.numVfs ∧
    (postEvent fn code payload d).pcie = d.pcie ∧ (postEvent fn code payload d).fab = d.fab ∧ (postEvent fn code payload d).isl = d.isl ∧
    (postEvent fn code payload d).otp = d.otp ∧ (postEvent fn code payload d).boot = d.boot ∧ (postEvent fn code payload d).pwr = d.pwr ∧
    (postEvent fn code payload d).pins = d.pins ∧ (postEvent fn code payload d).obs = d.obs ∧
    (postEvent fn code payload d).bridges = d.bridges ∧ (postEvent fn code payload d).free = d.free := by
  first
  | exact ⟨rfl, rfl, rfl, rfl, rfl, rfl, rfl, rfl, rfl, rfl, rfl, rfl, rfl, rfl, rfl, rfl, rfl, rfl, rfl, rfl, rfl, rfl, rfl, rfl, rfl, rfl, rfl, rfl, rfl, rfl, rfl, rfl, rfl, rfl, rfl⟩
  | unfold postEvent; try dsimp only
    repeat' (first | (simp; done) | split)

@[simp] theorem logOnly_keeps (code : Nat) (sev : Nat) (site : Nat) (unit : Nat) (payload : List Byte) (d : Dev) :
    (logOnly code sev site unit payload d).time = d.time ∧ (logOnly code sev site unit payload d).regs = d.regs ∧
    (logOnly code sev site unit payload d).frozen = d.frozen ∧ (logOnly code sev site unit payload d).hostMem = d.hostMem ∧
    (logOnly code sev site unit payload d).edge = d.edge ∧ (logOnly code sev site unit payload d).out = d.out ∧
    (logOnly code sev site unit payload d).ctxs = d.ctxs ∧ (logOnly code sev site unit payload d).recPend = d.recPend ∧
    (logOnly code sev site unit payload d).comp = d.comp ∧ (logOnly code sev site unit payload d).store = d.store ∧
    (logOnly code sev site unit payload d).ep = d.ep ∧ (logOnly code sev site unit payload d).parts = d.parts ∧
    (logOnly code sev site unit payload d).partOp = d.partOp ∧ (logOnly code sev site unit payload d).pairs = d.pairs ∧
    (logOnly code sev site unit payload d).rrings = d.rrings ∧ (logOnly code sev site unit payload d).cmds = d.cmds ∧
    (logOnly code sev site unit payload d).nextTkt = d.nextTkt ∧ (logOnly code sev site unit payload d).msixOn = d.msixOn ∧
    (logOnly code sev site unit payload d).msixPba = d.msixPba ∧ (logOnly code sev site unit payload d).errUp = d.errUp ∧
    (logOnly code sev site unit payload d).tabVers = d.tabVers ∧ (logOnly code sev site unit payload d).maint = d.maint ∧
    (logOnly code sev site unit payload d).keyed = d.keyed ∧ (logOnly code sev site unit payload d).txBk = d.txBk ∧
    (logOnly code sev site unit payload d).numVfs = d.numVfs ∧ (logOnly code sev site unit payload d).pcie = d.pcie ∧
    (logOnly code sev site unit payload d).fab = d.fab ∧ (logOnly code sev site unit payload d).otp = d.otp ∧
    (logOnly code sev site unit payload d).boot = d.boot ∧ (logOnly code sev site unit payload d).pwr = d.pwr ∧
    (logOnly code sev site unit payload d).pins = d.pins ∧ (logOnly code sev site unit payload d).obs = d.obs ∧
    (logOnly code sev site unit payload d).bridges = d.bridges ∧ (logOnly code sev site unit payload d).free = d.free :=
  ⟨(bump_time _ _ _ _).trans (onIsl_time _ _), (bump_regs _ _ _ _).trans (onIsl_regs _ _), (bump_frozen _ _ _ _).trans (onIsl_frozen _ _), (bump_hostMem _ _ _ _).trans (onIsl_hostMem _ _), (bump_edge _ _ _ _).trans (onIsl_edge _ _), (bump_out _ _ _ _).trans (onIsl_out _ _), (bump_ctxs _ _ _ _).trans (onIsl_ctxs _ _), (bump_recPend _ _ _ _).trans (onIsl_recPend _ _), (bump_comp _ _ _ _).trans (onIsl_comp _ _), (bump_store _ _ _ _).trans (onIsl_store _ _), (bump_ep _ _ _ _).trans (onIsl_ep _ _), (bump_parts _ _ _ _).trans (onIsl_parts _ _), (bump_partOp _ _ _ _).trans (onIsl_partOp _ _), (bump_pairs _ _ _ _).trans (onIsl_pairs _ _), (bump_rrings _ _ _ _).trans (onIsl_rrings _ _), (bump_cmds _ _ _ _).trans (onIsl_cmds _ _), (bump_nextTkt _ _ _ _).trans (onIsl_nextTkt _ _), (bump_msixOn _ _ _ _).trans (onIsl_msixOn _ _), (bump_msixPba _ _ _ _).trans (onIsl_msixPba _ _), (bump_errUp _ _ _ _).trans (onIsl_errUp _ _), (bump_tabVers _ _ _ _).trans (onIsl_tabVers _ _), (bump_maint _ _ _ _).trans (onIsl_maint _ _), (bump_keyed _ _ _ _).trans (onIsl_keyed _ _), (bump_txBk _ _ _ _).trans (onIsl_txBk _ _), (bump_numVfs _ _ _ _).trans (onIsl_numVfs _ _), (bump_pcie _ _ _ _).trans (onIsl_pcie _ _), (bump_fab _ _ _ _).trans (onIsl_fab _ _), (bump_otp _ _ _ _).trans (onIsl_otp _ _), (bump_boot _ _ _ _).trans (onIsl_boot _ _), (bump_pwr _ _ _ _).trans (onIsl_pwr _ _), (bump_pins _ _ _ _).trans (onIsl_pins _ _), (bump_obs _ _ _ _).trans (onIsl_obs _ _), (bump_bridges _ _ _ _).trans (onIsl_bridges _ _), (bump_free _ _ _ _).trans (onIsl_free _ _)⟩

@[simp] theorem troubleUp_keeps (k : Nat) (d : Dev) :
    (troubleUp k d).time = d.time ∧ (troubleUp k d).regs = d.regs ∧ (troubleUp k d).ctr = d.ctr ∧ (troubleUp k d).frozen = d.frozen ∧
    (troubleUp k d).hostMem = d.hostMem ∧ (troubleUp k d).edge = d.edge ∧ (troubleUp k d).out = d.out ∧ (troubleUp k d).ctxs = d.ctxs ∧
    (troubleUp k d).recPend = d.recPend ∧ (troubleUp k d).comp = d.comp ∧ (troubleUp k d).store = d.store ∧ (troubleUp k d).ep = d.ep ∧
    (troubleUp k d).parts = d.parts ∧ (troubleUp k d).partOp = d.partOp ∧ (troubleUp k d).pairs = d.pairs ∧
    (troubleUp k d).rrings = d.rrings ∧ (troubleUp k d).cmds = d.cmds ∧ (troubleUp k d).nextTkt = d.nextTkt ∧
    (troubleUp k d).msixOn = d.msixOn ∧ (troubleUp k d).msixPba = d.msixPba ∧ (troubleUp k d).errUp = d.errUp ∧
    (troubleUp k d).tabVers = d.tabVers ∧ (troubleUp k d).maint = d.maint ∧ (troubleUp k d).keyed = d.keyed ∧
    (troubleUp k d).txBk = d.txBk ∧ (troubleUp k d).numVfs = d.numVfs ∧ (troubleUp k d).pcie = d.pcie ∧ (troubleUp k d).fab = d.fab ∧
    (troubleUp k d).otp = d.otp ∧ (troubleUp k d).boot = d.boot ∧ (troubleUp k d).pwr = d.pwr ∧ (troubleUp k d).pins = d.pins ∧
    (troubleUp k d).obs = d.obs ∧ (troubleUp k d).bridges = d.bridges ∧ (troubleUp k d).free = d.free := by
  first
  | exact ⟨rfl, rfl, rfl, rfl, rfl, rfl, rfl, rfl, rfl, rfl, rfl, rfl, rfl, rfl, rfl, rfl, rfl, rfl, rfl, rfl, rfl, rfl, rfl, rfl, rfl, rfl, rfl, rfl, rfl, rfl, rfl, rfl, rfl, rfl, rfl⟩
  | unfold troubleUp; try dsimp only
    repeat' (first | (simp; done) | split)

@[simp] theorem alertOn_keeps (code : Nat) (d : Dev) :
    (alertOn code d).time = d.time ∧ (alertOn code d).regs = d.regs ∧ (alertOn code d).ctr = d.ctr ∧ (alertOn code d).frozen = d.frozen ∧
    (alertOn code d).hostMem = d.hostMem ∧ (alertOn code d).edge = d.edge ∧ (alertOn code d).ctxs = d.ctxs ∧
    (alertOn code d).recPend = d.recPend ∧ (alertOn code d).comp = d.comp ∧ (alertOn code d).store = d.store ∧ (alertOn code d).ep = d.ep ∧
    (alertOn code d).parts = d.parts ∧ (alertOn code d).partOp = d.partOp ∧ (alertOn code d).pairs = d.pairs ∧
    (alertOn code d).rrings = d.rrings ∧ (alertOn code d).cmds = d.cmds ∧ (alertOn code d).nextTkt = d.nextTkt ∧
    (alertOn code d).msixOn = d.msixOn ∧ (alertOn code d).msixPba = d.msixPba ∧ (alertOn code d).errUp = d.errUp ∧
    (alertOn code d).tabVers = d.tabVers ∧ (alertOn code d).maint = d.maint ∧ (alertOn code d).keyed = d.keyed ∧
    (alertOn code d).txBk = d.txBk ∧ (alertOn code d).numVfs = d.numVfs ∧ (alertOn code d).pcie = d.pcie ∧ (alertOn code d).fab = d.fab ∧
    (alertOn code d).otp = d.otp ∧ (alertOn code d).boot = d.boot ∧ (alertOn code d).pwr = d.pwr ∧ (alertOn code d).pins = d.pins ∧
    (alertOn code d).obs = d.obs ∧ (alertOn code d).bridges = d.bridges ∧ (alertOn code d).free = d.free := by
  first
  | exact ⟨rfl, rfl, rfl, rfl, rfl, rfl, rfl, rfl, rfl, rfl, rfl, rfl, rfl, rfl, rfl, rfl, rfl, rfl, rfl, rfl, rfl, rfl, rfl, rfl, rfl, rfl, rfl, rfl, rfl, rfl, rfl, rfl, rfl, rfl⟩
  | unfold alertOn; try dsimp only
    repeat' (first | (simp; done) | split)

@[simp] theorem islandLog_keeps (code : Nat) (site : Nat) (unit : Nat) (payload : List Byte) (d : Dev) :
    (islandLog code site unit payload d).time = d.time ∧ (islandLog code site unit payload d).regs = d.regs ∧
    (islandLog code site unit payload d).frozen = d.frozen ∧ (islandLog code site unit payload d).hostMem = d.hostMem ∧
    (islandLog code site unit payload d).edge = d.edge ∧ (islandLog code site unit payload d).ctxs = d.ctxs ∧
    (islandLog code site unit payload d).recPend = d.recPend ∧ (islandLog code site unit payload d).comp = d.comp ∧
    (islandLog code site unit payload d).store = d.store ∧ (islandLog code site unit payload d).ep = d.ep ∧
    (islandLog code site unit payload d).parts = d.parts ∧ (islandLog code site unit payload d).partOp = d.partOp ∧
    (islandLog code site unit payload d).pairs = d.pairs ∧ (islandLog code site unit payload d).rrings = d.rrings ∧
    (islandLog code site unit payload d).cmds = d.cmds ∧ (islandLog code site unit payload d).nextTkt = d.nextTkt ∧
    (islandLog code site unit payload d).msixOn = d.msixOn ∧ (islandLog code site unit payload d).msixPba = d.msixPba ∧
    (islandLog code site unit payload d).errUp = d.errUp ∧ (islandLog code site unit payload d).tabVers = d.tabVers ∧
    (islandLog code site unit payload d).maint = d.maint ∧ (islandLog code site unit payload d).keyed = d.keyed ∧
    (islandLog code site unit payload d).txBk = d.txBk ∧ (islandLog code site unit payload d).numVfs = d.numVfs ∧
    (islandLog code site unit payload d).pcie = d.pcie ∧ (islandLog code site unit payload d).fab = d.fab ∧
    (islandLog code site unit payload d).otp = d.otp ∧ (islandLog code site unit payload d).boot = d.boot ∧
    (islandLog code site unit payload d).pwr = d.pwr ∧ (islandLog code site unit payload d).pins = d.pins ∧
    (islandLog code site unit payload d).obs = d.obs ∧ (islandLog code site unit payload d).bridges = d.bridges ∧
    (islandLog code site unit payload d).free = d.free := by
  first
  | exact ⟨rfl, rfl, rfl, rfl, rfl, rfl, rfl, rfl, rfl, rfl, rfl, rfl, rfl, rfl, rfl, rfl, rfl, rfl, rfl, rfl, rfl, rfl, rfl, rfl, rfl, rfl, rfl, rfl, rfl, rfl, rfl, rfl, rfl⟩
  | unfold islandLog; try dsimp only
    repeat' (first | (simp; done) | split)

@[simp] theorem fwBound_keeps (cls : Nat) (kind : Nat) (d : Dev) :
    (fwBound cls kind d).time = d.time ∧ (fwBound cls kind d).regs = d.regs ∧ (fwBound cls kind d).frozen = d.frozen ∧
    (fwBound cls kind d).hostMem = d.hostMem ∧ (fwBound cls kind d).edge = d.edge ∧ (fwBound cls kind d).out = d.out ∧
    (fwBound cls kind d).ctxs = d.ctxs ∧ (fwBound cls kind d).recPend = d.recPend ∧ (fwBound cls kind d).comp = d.comp ∧
    (fwBound cls kind d).store = d.store ∧ (fwBound cls kind d).ep = d.ep ∧ (fwBound cls kind d).parts = d.parts ∧
    (fwBound cls kind d).partOp = d.partOp ∧ (fwBound cls kind d).pairs = d.pairs ∧ (fwBound cls kind d).rrings = d.rrings ∧
    (fwBound cls kind d).cmds = d.cmds ∧ (fwBound cls kind d).nextTkt = d.nextTkt ∧ (fwBound cls kind d).msixOn = d.msixOn ∧
    (fwBound cls kind d).msixPba = d.msixPba ∧ (fwBound cls kind d).errUp = d.errUp ∧ (fwBound cls kind d).tabVers = d.tabVers ∧
    (fwBound cls kind d).maint = d.maint ∧ (fwBound cls kind d).keyed = d.keyed ∧ (fwBound cls kind d).txBk = d.txBk ∧
    (fwBound cls kind d).numVfs = d.numVfs ∧ (fwBound cls kind d).pcie = d.pcie ∧ (fwBound cls kind d).fab = d.fab ∧
    (fwBound cls kind d).otp = d.otp ∧ (fwBound cls kind d).boot = d.boot ∧ (fwBound cls kind d).pwr = d.pwr ∧
    (fwBound cls kind d).pins = d.pins ∧ (fwBound cls kind d).obs = d.obs ∧ (fwBound cls kind d).bridges = d.bridges ∧
    (fwBound cls kind d).free = d.free := by
  first
  | exact ⟨rfl, rfl, rfl, rfl, rfl, rfl, rfl, rfl, rfl, rfl, rfl, rfl, rfl, rfl, rfl, rfl, rfl, rfl, rfl, rfl, rfl, rfl, rfl, rfl, rfl, rfl, rfl, rfl, rfl, rfl, rfl, rfl, rfl, rfl⟩
  | unfold fwBound; try dsimp only
    repeat' (first | (simp; done) | split)

@[simp] theorem queueWake_keeps (dom : Nat) (d : Dev) :
    (queueWake dom d).time = d.time ∧ (queueWake dom d).regs = d.regs ∧ (queueWake dom d).ctr = d.ctr ∧
    (queueWake dom d).frozen = d.frozen ∧ (queueWake dom d).hostMem = d.hostMem ∧ (queueWake dom d).edge = d.edge ∧
    (queueWake dom d).out = d.out ∧ (queueWake dom d).ctxs = d.ctxs ∧ (queueWake dom d).recPend = d.recPend ∧
    (queueWake dom d).comp = d.comp ∧ (queueWake dom d).store = d.store ∧ (queueWake dom d).ep = d.ep ∧ (queueWake dom d).parts = d.parts ∧
    (queueWake dom d).partOp = d.partOp ∧ (queueWake dom d).pairs = d.pairs ∧ (queueWake dom d).rrings = d.rrings ∧
    (queueWake dom d).cmds = d.cmds ∧ (queueWake dom d).nextTkt = d.nextTkt ∧ (queueWake dom d).msixOn = d.msixOn ∧
    (queueWake dom d).msixPba = d.msixPba ∧ (queueWake dom d).errUp = d.errUp ∧ (queueWake dom d).tabVers = d.tabVers ∧
    (queueWake dom d).maint = d.maint ∧ (queueWake dom d).keyed = d.keyed ∧ (queueWake dom d).txBk = d.txBk ∧
    (queueWake dom d).numVfs = d.numVfs ∧ (queueWake dom d).pcie = d.pcie ∧ (queueWake dom d).fab = d.fab ∧ (queueWake dom d).isl = d.isl ∧
    (queueWake dom d).otp = d.otp ∧ (queueWake dom d).boot = d.boot ∧ (queueWake dom d).pins = d.pins ∧ (queueWake dom d).obs = d.obs ∧
    (queueWake dom d).bridges = d.bridges ∧ (queueWake dom d).free = d.free := by
  first
  | exact ⟨rfl, rfl, rfl, rfl, rfl, rfl, rfl, rfl, rfl, rfl, rfl, rfl, rfl, rfl, rfl, rfl, rfl, rfl, rfl, rfl, rfl, rfl, rfl, rfl, rfl, rfl, rfl, rfl, rfl, rfl, rfl, rfl, rfl, rfl, rfl⟩
  | unfold queueWake; try dsimp only
    repeat' (first | (simp; done) | split)

@[simp] theorem wakeRequest_keeps (cl : Nat) (d : Dev) :
    (wakeRequest cl d).time = d.time ∧ (wakeRequest cl d).regs = d.regs ∧ (wakeRequest cl d).ctr = d.ctr ∧
    (wakeRequest cl d).frozen = d.frozen ∧ (wakeRequest cl d).hostMem = d.hostMem ∧ (wakeRequest cl d).edge = d.edge ∧
    (wakeRequest cl d).out = d.out ∧ (wakeRequest cl d).ctxs = d.ctxs ∧ (wakeRequest cl d).recPend = d.recPend ∧
    (wakeRequest cl d).comp = d.comp ∧ (wakeRequest cl d).store = d.store ∧ (wakeRequest cl d).ep = d.ep ∧
    (wakeRequest cl d).parts = d.parts ∧ (wakeRequest cl d).partOp = d.partOp ∧ (wakeRequest cl d).pairs = d.pairs ∧
    (wakeRequest cl d).rrings = d.rrings ∧ (wakeRequest cl d).cmds = d.cmds ∧ (wakeRequest cl d).nextTkt = d.nextTkt ∧
    (wakeRequest cl d).msixOn = d.msixOn ∧ (wakeRequest cl d).msixPba = d.msixPba ∧ (wakeRequest cl d).errUp = d.errUp ∧
    (wakeRequest cl d).tabVers = d.tabVers ∧ (wakeRequest cl d).maint = d.maint ∧ (wakeRequest cl d).keyed = d.keyed ∧
    (wakeRequest cl d).txBk = d.txBk ∧ (wakeRequest cl d).numVfs = d.numVfs ∧ (wakeRequest cl d).pcie = d.pcie ∧
    (wakeRequest cl d).fab = d.fab ∧ (wakeRequest cl d).isl = d.isl ∧ (wakeRequest cl d).otp = d.otp ∧ (wakeRequest cl d).boot = d.boot ∧
    (wakeRequest cl d).pins = d.pins ∧ (wakeRequest cl d).obs = d.obs ∧ (wakeRequest cl d).bridges = d.bridges ∧
    (wakeRequest cl d).free = d.free := by
  first
  | exact ⟨rfl, rfl, rfl, rfl, rfl, rfl, rfl, rfl, rfl, rfl, rfl, rfl, rfl, rfl, rfl, rfl, rfl, rfl, rfl, rfl, rfl, rfl, rfl, rfl, rfl, rfl, rfl, rfl, rfl, rfl, rfl, rfl, rfl, rfl, rfl⟩
  | unfold wakeRequest; try dsimp only
    repeat' (first | (simp; done) | split)

@[simp] theorem packageFault_keeps (d : Dev) :
    (packageFault d).time = d.time ∧ (packageFault d).regs = d.regs ∧ (packageFault d).ctr = d.ctr ∧ (packageFault d).frozen = d.frozen ∧
    (packageFault d).hostMem = d.hostMem ∧ (packageFault d).edge = d.edge ∧ (packageFault d).out = d.out ∧ (packageFault d).ctxs = d.ctxs ∧
    (packageFault d).recPend = d.recPend ∧ (packageFault d).comp = d.comp ∧ (packageFault d).store = d.store ∧ (packageFault d).ep = d.ep ∧
    (packageFault d).parts = d.parts ∧ (packageFault d).partOp = d.partOp ∧ (packageFault d).pairs = d.pairs ∧
    (packageFault d).rrings = d.rrings ∧ (packageFault d).cmds = d.cmds ∧ (packageFault d).nextTkt = d.nextTkt ∧
    (packageFault d).msixOn = d.msixOn ∧ (packageFault d).msixPba = d.msixPba ∧ (packageFault d).errUp = d.errUp ∧
    (packageFault d).tabVers = d.tabVers ∧ (packageFault d).maint = d.maint ∧ (packageFault d).keyed = d.keyed ∧
    (packageFault d).txBk = d.txBk ∧ (packageFault d).numVfs = d.numVfs ∧ (packageFault d).pcie = d.pcie ∧ (packageFault d).fab = d.fab ∧
    (packageFault d).isl = d.isl ∧ (packageFault d).otp = d.otp ∧ (packageFault d).pwr = d.pwr ∧ (packageFault d).pins = d.pins ∧
    (packageFault d).obs = d.obs ∧ (packageFault d).bridges = d.bridges ∧ (packageFault d).free = d.free := by
  first
  | exact ⟨rfl, rfl, rfl, rfl, rfl, rfl, rfl, rfl, rfl, rfl, rfl, rfl, rfl, rfl, rfl, rfl, rfl, rfl, rfl, rfl, rfl, rfl, rfl, rfl, rfl, rfl, rfl, rfl, rfl, rfl, rfl, rfl, rfl, rfl, rfl⟩
  | unfold packageFault; try dsimp only
    repeat' (first | (simp; done) | split)

@[simp] theorem modQueue_keeps (bp : Nat) (q : Nat) (f : EQueue → EQueue) (d : Dev) :
    (modQueue bp q f d).time = d.time ∧ (modQueue bp q f d).regs = d.regs ∧ (modQueue bp q f d).ctr = d.ctr ∧
    (modQueue bp q f d).frozen = d.frozen ∧ (modQueue bp q f d).hostMem = d.hostMem ∧ (modQueue bp q f d).out = d.out ∧
    (modQueue bp q f d).ctxs = d.ctxs ∧ (modQueue bp q f d).recPend = d.recPend ∧ (modQueue bp q f d).comp = d.comp ∧
    (modQueue bp q f d).store = d.store ∧ (modQueue bp q f d).ep = d.ep ∧ (modQueue bp q f d).parts = d.parts ∧
    (modQueue bp q f d).partOp = d.partOp ∧ (modQueue bp q f d).pairs = d.pairs ∧ (modQueue bp q f d).rrings = d.rrings ∧
    (modQueue bp q f d).cmds = d.cmds ∧ (modQueue bp q f d).nextTkt = d.nextTkt ∧ (modQueue bp q f d).msixOn = d.msixOn ∧
    (modQueue bp q f d).msixPba = d.msixPba ∧ (modQueue bp q f d).errUp = d.errUp ∧ (modQueue bp q f d).tabVers = d.tabVers ∧
    (modQueue bp q f d).maint = d.maint ∧ (modQueue bp q f d).keyed = d.keyed ∧ (modQueue bp q f d).txBk = d.txBk ∧
    (modQueue bp q f d).numVfs = d.numVfs ∧ (modQueue bp q f d).pcie = d.pcie ∧ (modQueue bp q f d).fab = d.fab ∧
    (modQueue bp q f d).isl = d.isl ∧ (modQueue bp q f d).otp = d.otp ∧ (modQueue bp q f d).boot = d.boot ∧
    (modQueue bp q f d).pwr = d.pwr ∧ (modQueue bp q f d).pins = d.pins ∧ (modQueue bp q f d).obs = d.obs ∧
    (modQueue bp q f d).bridges = d.bridges ∧ (modQueue bp q f d).free = d.free := by
  first
  | exact ⟨rfl, rfl, rfl, rfl, rfl, rfl, rfl, rfl, rfl, rfl, rfl, rfl, rfl, rfl, rfl, rfl, rfl, rfl, rfl, rfl, rfl, rfl, rfl, rfl, rfl, rfl, rfl, rfl, rfl, rfl, rfl, rfl, rfl, rfl, rfl⟩
  | unfold modQueue; try dsimp only
    repeat' (first | (simp; done) | split)

@[simp] theorem pfcCheck_keeps (bp : Nat) (prio : Nat) (d : Dev) :
    (pfcCheck bp prio d).time = d.time ∧ (pfcCheck bp prio d).regs = d.regs ∧ (pfcCheck bp prio d).ctr = d.ctr ∧
    (pfcCheck bp prio d).frozen = d.frozen ∧ (pfcCheck bp prio d).hostMem = d.hostMem ∧ (pfcCheck bp prio d).ctxs = d.ctxs ∧
    (pfcCheck bp prio d).recPend = d.recPend ∧ (pfcCheck bp prio d).comp = d.comp ∧ (pfcCheck bp prio d).store = d.store ∧
    (pfcCheck bp prio d).ep = d.ep ∧ (pfcCheck bp prio d).parts = d.parts ∧ (pfcCheck bp prio d).partOp = d.partOp ∧
    (pfcCheck bp prio d).pairs = d.pairs ∧ (pfcCheck bp prio d).rrings = d.rrings ∧ (pfcCheck bp prio d).cmds = d.cmds ∧
    (pfcCheck bp prio d).nextTkt = d.nextTkt ∧ (pfcCheck bp prio d).msixOn = d.msixOn ∧ (pfcCheck bp prio d).msixPba = d.msixPba ∧
    (pfcCheck bp prio d).errUp = d.errUp ∧ (pfcCheck bp prio d).tabVers = d.tabVers ∧ (pfcCheck bp prio d).maint = d.maint ∧
    (pfcCheck bp prio d).keyed = d.keyed ∧ (pfcCheck bp prio d).txBk = d.txBk ∧ (pfcCheck bp prio d).numVfs = d.numVfs ∧
    (pfcCheck bp prio d).pcie = d.pcie ∧ (pfcCheck bp prio d).fab = d.fab ∧ (pfcCheck bp prio d).isl = d.isl ∧
    (pfcCheck bp prio d).otp = d.otp ∧ (pfcCheck bp prio d).boot = d.boot ∧ (pfcCheck bp prio d).pwr = d.pwr ∧
    (pfcCheck bp prio d).pins = d.pins ∧ (pfcCheck bp prio d).obs = d.obs ∧ (pfcCheck bp prio d).bridges = d.bridges ∧
    (pfcCheck bp prio d).free = d.free := by
  first
  | exact ⟨rfl, rfl, rfl, rfl, rfl, rfl, rfl, rfl, rfl, rfl, rfl, rfl, rfl, rfl, rfl, rfl, rfl, rfl, rfl, rfl, rfl, rfl, rfl, rfl, rfl, rfl, rfl, rfl, rfl, rfl, rfl, rfl, rfl, rfl⟩
  | unfold pfcCheck; try dsimp only
    repeat' (first | (simp; done) | split)

@[simp] theorem gcFrame_keeps (fid : Nat) (d : Dev) :
    (gcFrame fid d).time = d.time ∧ (gcFrame fid d).regs = d.regs ∧ (gcFrame fid d).ctr = d.ctr ∧ (gcFrame fid d).frozen = d.frozen ∧
    (gcFrame fid d).hostMem = d.hostMem ∧ (gcFrame fid d).out = d.out ∧ (gcFrame fid d).ctxs = d.ctxs ∧
    (gcFrame fid d).recPend = d.recPend ∧ (gcFrame fid d).comp = d.comp ∧ (gcFrame fid d).store = d.store ∧ (gcFrame fid d).ep = d.ep ∧
    (gcFrame fid d).parts = d.parts ∧ (gcFrame fid d).partOp = d.partOp ∧ (gcFrame fid d).pairs = d.pairs ∧
    (gcFrame fid d).rrings = d.rrings ∧ (gcFrame fid d).cmds = d.cmds ∧ (gcFrame fid d).nextTkt = d.nextTkt ∧
    (gcFrame fid d).msixOn = d.msixOn ∧ (gcFrame fid d).msixPba = d.msixPba ∧ (gcFrame fid d).errUp = d.errUp ∧
    (gcFrame fid d).tabVers = d.tabVers ∧ (gcFrame fid d).maint = d.maint ∧ (gcFrame fid d).keyed = d.keyed ∧
    (gcFrame fid d).txBk = d.txBk ∧ (gcFrame fid d).numVfs = d.numVfs ∧ (gcFrame fid d).pcie = d.pcie ∧ (gcFrame fid d).fab = d.fab ∧
    (gcFrame fid d).isl = d.isl ∧ (gcFrame fid d).otp = d.otp ∧ (gcFrame fid d).boot = d.boot ∧ (gcFrame fid d).pwr = d.pwr ∧
    (gcFrame fid d).pins = d.pins ∧ (gcFrame fid d).obs = d.obs ∧ (gcFrame fid d).bridges = d.bridges ∧ (gcFrame fid d).free = d.free := by
  first
  | exact ⟨rfl, rfl, rfl, rfl, rfl, rfl, rfl, rfl, rfl, rfl, rfl, rfl, rfl, rfl, rfl, rfl, rfl, rfl, rfl, rfl, rfl, rfl, rfl, rfl, rfl, rfl, rfl, rfl, rfl, rfl, rfl, rfl, rfl, rfl, rfl⟩
  | unfold gcFrame; try dsimp only
    repeat' (first | (simp; done) | split)

@[simp] theorem dropFrame_keeps (fid : Nat) (d : Dev) :
    (dropFrame fid d).time = d.time ∧ (dropFrame fid d).regs = d.regs ∧ (dropFrame fid d).ctr = d.ctr ∧
    (dropFrame fid d).frozen = d.frozen ∧ (dropFrame fid d).hostMem = d.hostMem ∧ (dropFrame fid d).out = d.out ∧
    (dropFrame fid d).ctxs = d.ctxs ∧ (dropFrame fid d).recPend = d.recPend ∧ (dropFrame fid d).comp = d.comp ∧
    (dropFrame fid d).store = d.store ∧ (dropFrame fid d).ep = d.ep ∧ (dropFrame fid d).parts = d.parts ∧
    (dropFrame fid d).partOp = d.partOp ∧ (dropFrame fid d).pairs = d.pairs ∧ (dropFrame fid d).rrings = d.rrings ∧
    (dropFrame fid d).cmds = d.cmds ∧ (dropFrame fid d).nextTkt = d.nextTkt ∧ (dropFrame fid d).msixOn = d.msixOn ∧
    (dropFrame fid d).msixPba = d.msixPba ∧ (dropFrame fid d).errUp = d.errUp ∧ (dropFrame fid d).tabVers = d.tabVers ∧
    (dropFrame fid d).maint = d.maint ∧ (dropFrame fid d).keyed = d.keyed ∧ (dropFrame fid d).txBk = d.txBk ∧
    (dropFrame fid d).numVfs = d.numVfs ∧ (dropFrame fid d).pcie = d.pcie ∧ (dropFrame fid d).fab = d.fab ∧ (dropFrame fid d).isl = d.isl ∧
    (dropFrame fid d).otp = d.otp ∧ (dropFrame fid d).boot = d.boot ∧ (dropFrame fid d).pwr = d.pwr ∧ (dropFrame fid d).pins = d.pins ∧
    (dropFrame fid d).obs = d.obs ∧ (dropFrame fid d).bridges = d.bridges ∧ (dropFrame fid d).free = d.free := by
  first
  | exact ⟨rfl, rfl, rfl, rfl, rfl, rfl, rfl, rfl, rfl, rfl, rfl, rfl, rfl, rfl, rfl, rfl, rfl, rfl, rfl, rfl, rfl, rfl, rfl, rfl, rfl, rfl, rfl, rfl, rfl, rfl, rfl, rfl, rfl, rfl, rfl⟩
  | unfold dropFrame; try dsimp only
    repeat' (first | (simp; done) | split)

@[simp] theorem maintAsk_keeps (r : MaintReq) (d : Dev) :
    (maintAsk r d).time = d.time ∧ (maintAsk r d).regs = d.regs ∧ (maintAsk r d).frozen = d.frozen ∧ (maintAsk r d).hostMem = d.hostMem ∧
    (maintAsk r d).edge = d.edge ∧ (maintAsk r d).out = d.out ∧ (maintAsk r d).ctxs = d.ctxs ∧ (maintAsk r d).recPend = d.recPend ∧
    (maintAsk r d).comp = d.comp ∧ (maintAsk r d).store = d.store ∧ (maintAsk r d).ep = d.ep ∧ (maintAsk r d).parts = d.parts ∧
    (maintAsk r d).partOp = d.partOp ∧ (maintAsk r d).pairs = d.pairs ∧ (maintAsk r d).rrings = d.rrings ∧ (maintAsk r d).cmds = d.cmds ∧
    (maintAsk r d).nextTkt = d.nextTkt ∧ (maintAsk r d).msixOn = d.msixOn ∧ (maintAsk r d).msixPba = d.msixPba ∧
    (maintAsk r d).errUp = d.errUp ∧ (maintAsk r d).tabVers = d.tabVers ∧ (maintAsk r d).keyed = d.keyed ∧ (maintAsk r d).txBk = d.txBk ∧
    (maintAsk r d).numVfs = d.numVfs ∧ (maintAsk r d).pcie = d.pcie ∧ (maintAsk r d).fab = d.fab ∧ (maintAsk r d).isl = d.isl ∧
    (maintAsk r d).otp = d.otp ∧ (maintAsk r d).boot = d.boot ∧ (maintAsk r d).pwr = d.pwr ∧ (maintAsk r d).pins = d.pins ∧
    (maintAsk r d).obs = d.obs ∧ (maintAsk r d).bridges = d.bridges ∧ (maintAsk r d).free = d.free := by
  first
  | exact ⟨rfl, rfl, rfl, rfl, rfl, rfl, rfl, rfl, rfl, rfl, rfl, rfl, rfl, rfl, rfl, rfl, rfl, rfl, rfl, rfl, rfl, rfl, rfl, rfl, rfl, rfl, rfl, rfl, rfl, rfl, rfl, rfl, rfl, rfl⟩
  | unfold maintAsk; try dsimp only
    repeat' (first | (simp; done) | split)

@[simp] theorem maintEnd_keeps (t : Nat) (d : Dev) :
    (maintEnd t d).time = d.time ∧ (maintEnd t d).regs = d.regs ∧ (maintEnd t d).ctr = d.ctr ∧ (maintEnd t d).frozen = d.frozen ∧
    (maintEnd t d).hostMem = d.hostMem ∧ (maintEnd t d).edge = d.edge ∧ (maintEnd t d).out = d.out ∧ (maintEnd t d).ctxs = d.ctxs ∧
    (maintEnd t d).recPend = d.recPend ∧ (maintEnd t d).comp = d.comp ∧ (maintEnd t d).store = d.store ∧ (maintEnd t d).ep = d.ep ∧
    (maintEnd t d).parts = d.parts ∧ (maintEnd t d).partOp = d.partOp ∧ (maintEnd t d).pairs = d.pairs ∧ (maintEnd t d).rrings = d.rrings ∧
    (maintEnd t d).cmds = d.cmds ∧ (maintEnd t d).nextTkt = d.nextTkt ∧ (maintEnd t d).msixOn = d.msixOn ∧
    (maintEnd t d).msixPba = d.msixPba ∧ (maintEnd t d).errUp = d.errUp ∧ (maintEnd t d).tabVers = d.tabVers ∧
    (maintEnd t d).keyed = d.keyed ∧ (maintEnd t d).txBk = d.txBk ∧ (maintEnd t d).numVfs = d.numVfs ∧ (maintEnd t d).pcie = d.pcie ∧
    (maintEnd t d).fab = d.fab ∧ (maintEnd t d).isl = d.isl ∧ (maintEnd t d).otp = d.otp ∧ (maintEnd t d).boot = d.boot ∧
    (maintEnd t d).pwr = d.pwr ∧ (maintEnd t d).pins = d.pins ∧ (maintEnd t d).obs = d.obs ∧ (maintEnd t d).bridges = d.bridges ∧
    (maintEnd t d).free = d.free := by
  first
  | exact ⟨rfl, rfl, rfl, rfl, rfl, rfl, rfl, rfl, rfl, rfl, rfl, rfl, rfl, rfl, rfl, rfl, rfl, rfl, rfl, rfl, rfl, rfl, rfl, rfl, rfl, rfl, rfl, rfl, rfl, rfl, rfl, rfl, rfl, rfl, rfl⟩
  | unfold maintEnd; try dsimp only
    repeat' (first | (simp; done) | split)

@[simp] theorem hbmCount_keeps (wr : Bool) (p : Nat) (x : Nat) (n : Nat) (d : Dev) :
    (hbmCount wr p x n d).time = d.time ∧ (hbmCount wr p x n d).regs = d.regs ∧ (hbmCount wr p x n d).frozen = d.frozen ∧
    (hbmCount wr p x n d).hostMem = d.hostMem ∧ (hbmCount wr p x n d).edge = d.edge ∧ (hbmCount wr p x n d).out = d.out ∧
    (hbmCount wr p x n d).ctxs = d.ctxs ∧ (hbmCount wr p x n d).recPend = d.recPend ∧ (hbmCount wr p x n d).comp = d.comp ∧
    (hbmCount wr p x n d).store = d.store ∧ (hbmCount wr p x n d).ep = d.ep ∧ (hbmCount wr p x n d).parts = d.parts ∧
    (hbmCount wr p x n d).partOp = d.partOp ∧ (hbmCount wr p x n d).pairs = d.pairs ∧ (hbmCount wr p x n d).rrings = d.rrings ∧
    (hbmCount wr p x n d).cmds = d.cmds ∧ (hbmCount wr p x n d).nextTkt = d.nextTkt ∧ (hbmCount wr p x n d).msixOn = d.msixOn ∧
    (hbmCount wr p x n d).msixPba = d.msixPba ∧ (hbmCount wr p x n d).errUp = d.errUp ∧ (hbmCount wr p x n d).tabVers = d.tabVers ∧
    (hbmCount wr p x n d).maint = d.maint ∧ (hbmCount wr p x n d).keyed = d.keyed ∧ (hbmCount wr p x n d).txBk = d.txBk ∧
    (hbmCount wr p x n d).numVfs = d.numVfs ∧ (hbmCount wr p x n d).pcie = d.pcie ∧ (hbmCount wr p x n d).fab = d.fab ∧
    (hbmCount wr p x n d).isl = d.isl ∧ (hbmCount wr p x n d).otp = d.otp ∧ (hbmCount wr p x n d).boot = d.boot ∧
    (hbmCount wr p x n d).pwr = d.pwr ∧ (hbmCount wr p x n d).pins = d.pins ∧ (hbmCount wr p x n d).obs = d.obs ∧
    (hbmCount wr p x n d).bridges = d.bridges ∧ (hbmCount wr p x n d).free = d.free := by
  first
  | exact ⟨rfl, rfl, rfl, rfl, rfl, rfl, rfl, rfl, rfl, rfl, rfl, rfl, rfl, rfl, rfl, rfl, rfl, rfl, rfl, rfl, rfl, rfl, rfl, rfl, rfl, rfl, rfl, rfl, rfl, rfl, rfl, rfl, rfl, rfl, rfl⟩
  | unfold hbmCount; try dsimp only
    repeat' (first | (simp; done) | split)

@[simp] theorem hbmPut_keeps (p : Nat) (x : Nat) (bs : List Byte) (d : Dev) :
    (hbmPut p x bs d).time = d.time ∧ (hbmPut p x bs d).regs = d.regs ∧ (hbmPut p x bs d).frozen = d.frozen ∧
    (hbmPut p x bs d).hostMem = d.hostMem ∧ (hbmPut p x bs d).edge = d.edge ∧ (hbmPut p x bs d).out = d.out ∧
    (hbmPut p x bs d).ctxs = d.ctxs ∧ (hbmPut p x bs d).recPend = d.recPend ∧ (hbmPut p x bs d).comp = d.comp ∧
    (hbmPut p x bs d).ep = d.ep ∧ (hbmPut p x bs d).parts = d.parts ∧ (hbmPut p x bs d).partOp = d.partOp ∧
    (hbmPut p x bs d).pairs = d.pairs ∧ (hbmPut p x bs d).rrings = d.rrings ∧ (hbmPut p x bs d).cmds = d.cmds ∧
    (hbmPut p x bs d).nextTkt = d.nextTkt ∧ (hbmPut p x bs d).msixOn = d.msixOn ∧ (hbmPut p x bs d).msixPba = d.msixPba ∧
    (hbmPut p x bs d).errUp = d.errUp ∧ (hbmPut p x bs d).tabVers = d.tabVers ∧ (hbmPut p x bs d).maint = d.maint ∧
    (hbmPut p x bs d).keyed = d.keyed ∧ (hbmPut p x bs d).txBk = d.txBk ∧ (hbmPut p x bs d).numVfs = d.numVfs ∧
    (hbmPut p x bs d).pcie = d.pcie ∧ (hbmPut p x bs d).fab = d.fab ∧ (hbmPut p x bs d).isl = d.isl ∧ (hbmPut p x bs d).otp = d.otp ∧
    (hbmPut p x bs d).boot = d.boot ∧ (hbmPut p x bs d).pwr = d.pwr ∧ (hbmPut p x bs d).pins = d.pins ∧ (hbmPut p x bs d).obs = d.obs ∧
    (hbmPut p x bs d).bridges = d.bridges ∧ (hbmPut p x bs d).free = d.free := by
  first
  | exact ⟨rfl, rfl, rfl, rfl, rfl, rfl, rfl, rfl, rfl, rfl, rfl, rfl, rfl, rfl, rfl, rfl, rfl, rfl, rfl, rfl, rfl, rfl, rfl, rfl, rfl, rfl, rfl, rfl, rfl, rfl, rfl, rfl, rfl, rfl⟩
  | unfold hbmPut; try dsimp only
    repeat' (first | (simp; done) | split)

@[simp] theorem refWrite_keeps (c : Nat) (u : Use) (r : Ref) (bs : List Byte) (d : Dev) :
    (refWrite c u r bs d).time = d.time ∧ (refWrite c u r bs d).regs = d.regs ∧ (refWrite c u r bs d).ctr = d.ctr ∧
    (refWrite c u r bs d).frozen = d.frozen ∧ (refWrite c u r bs d).hostMem = d.hostMem ∧ (refWrite c u r bs d).edge = d.edge ∧
    (refWrite c u r bs d).out = d.out ∧ (refWrite c u r bs d).ctxs = d.ctxs ∧ (refWrite c u r bs d).recPend = d.recPend ∧
    (refWrite c u r bs d).store = d.store ∧ (refWrite c u r bs d).ep = d.ep ∧ (refWrite c u r bs d).parts = d.parts ∧
    (refWrite c u r bs d).partOp = d.partOp ∧ (refWrite c u r bs d).pairs = d.pairs ∧ (refWrite c u r bs d).rrings = d.rrings ∧
    (refWrite c u r bs d).cmds = d.cmds ∧ (refWrite c u r bs d).nextTkt = d.nextTkt ∧ (refWrite c u r bs d).msixOn = d.msixOn ∧
    (refWrite c u r bs d).msixPba = d.msixPba ∧ (refWrite c u r bs d).errUp = d.errUp ∧ (refWrite c u r bs d).tabVers = d.tabVers ∧
    (refWrite c u r bs d).maint = d.maint ∧ (refWrite c u r bs d).keyed = d.keyed ∧ (refWrite c u r bs d).txBk = d.txBk ∧
    (refWrite c u r bs d).numVfs = d.numVfs ∧ (refWrite c u r bs d).pcie = d.pcie ∧ (refWrite c u r bs d).fab = d.fab ∧
    (refWrite c u r bs d).isl = d.isl ∧ (refWrite c u r bs d).otp = d.otp ∧ (refWrite c u r bs d).boot = d.boot ∧
    (refWrite c u r bs d).pwr = d.pwr ∧ (refWrite c u r bs d).pins = d.pins ∧ (refWrite c u r bs d).obs = d.obs ∧
    (refWrite c u r bs d).bridges = d.bridges ∧ (refWrite c u r bs d).free = d.free := by
  first
  | exact ⟨rfl, rfl, rfl, rfl, rfl, rfl, rfl, rfl, rfl, rfl, rfl, rfl, rfl, rfl, rfl, rfl, rfl, rfl, rfl, rfl, rfl, rfl, rfl, rfl, rfl, rfl, rfl, rfl, rfl, rfl, rfl, rfl, rfl, rfl, rfl⟩
  | unfold refWrite; try dsimp only
    repeat' (first | (simp; done) | split)

@[simp] theorem tagAdd_keeps (cl : Nat) (ctx : Nat) (layer : Nat) (op : Nat) (k : Nat) (n : Nat) (d : Dev) :
    (tagAdd cl ctx layer op k n d).time = d.time ∧ (tagAdd cl ctx layer op k n d).regs = d.regs ∧
    (tagAdd cl ctx layer op k n d).ctr = d.ctr ∧ (tagAdd cl ctx layer op k n d).frozen = d.frozen ∧
    (tagAdd cl ctx layer op k n d).hostMem = d.hostMem ∧ (tagAdd cl ctx layer op k n d).edge = d.edge ∧
    (tagAdd cl ctx layer op k n d).out = d.out ∧ (tagAdd cl ctx layer op k n d).ctxs = d.ctxs ∧
    (tagAdd cl ctx layer op k n d).recPend = d.recPend ∧ (tagAdd cl ctx layer op k n d).comp = d.comp ∧
    (tagAdd cl ctx layer op k n d).store = d.store ∧ (tagAdd cl ctx layer op k n d).ep = d.ep ∧
    (tagAdd cl ctx layer op k n d).parts = d.parts ∧ (tagAdd cl ctx layer op k n d).partOp = d.partOp ∧
    (tagAdd cl ctx layer op k n d).pairs = d.pairs ∧ (tagAdd cl ctx layer op k n d).rrings = d.rrings ∧
    (tagAdd cl ctx layer op k n d).cmds = d.cmds ∧ (tagAdd cl ctx layer op k n d).nextTkt = d.nextTkt ∧
    (tagAdd cl ctx layer op k n d).msixOn = d.msixOn ∧ (tagAdd cl ctx layer op k n d).msixPba = d.msixPba ∧
    (tagAdd cl ctx layer op k n d).errUp = d.errUp ∧ (tagAdd cl ctx layer op k n d).tabVers = d.tabVers ∧
    (tagAdd cl ctx layer op k n d).maint = d.maint ∧ (tagAdd cl ctx layer op k n d).keyed = d.keyed ∧
    (tagAdd cl ctx layer op k n d).txBk = d.txBk ∧ (tagAdd cl ctx layer op k n d).numVfs = d.numVfs ∧
    (tagAdd cl ctx layer op k n d).pcie = d.pcie ∧ (tagAdd cl ctx layer op k n d).fab = d.fab ∧
    (tagAdd cl ctx layer op k n d).isl = d.isl ∧ (tagAdd cl ctx layer op k n d).otp = d.otp ∧
    (tagAdd cl ctx layer op k n d).boot = d.boot ∧ (tagAdd cl ctx layer op k n d).pwr = d.pwr ∧
    (tagAdd cl ctx layer op k n d).pins = d.pins ∧ (tagAdd cl ctx layer op k n d).bridges = d.bridges ∧
    (tagAdd cl ctx layer op k n d).free = d.free := by
  first
  | exact ⟨rfl, rfl, rfl, rfl, rfl, rfl, rfl, rfl, rfl, rfl, rfl, rfl, rfl, rfl, rfl, rfl, rfl, rfl, rfl, rfl, rfl, rfl, rfl, rfl, rfl, rfl, rfl, rfl, rfl, rfl, rfl, rfl, rfl, rfl, rfl⟩
  | unfold tagAdd; try dsimp only
    repeat' (first | (simp; done) | split)

@[simp] theorem coreCount_keeps (x : Ctr) (c : Nat) (tg : Nat × Nat) (n : Nat) (d : Dev) :
    (coreCount x c tg n d).time = d.time ∧ (coreCount x c tg n d).regs = d.regs ∧ (coreCount x c tg n d).frozen = d.frozen ∧
    (coreCount x c tg n d).hostMem = d.hostMem ∧ (coreCount x c tg n d).edge = d.edge ∧ (coreCount x c tg n d).out = d.out ∧
    (coreCount x c tg n d).ctxs = d.ctxs ∧ (coreCount x c tg n d).recPend = d.recPend ∧ (coreCount x c tg n d).comp = d.comp ∧
    (coreCount x c tg n d).store = d.store ∧ (coreCount x c tg n d).ep = d.ep ∧ (coreCount x c tg n d).parts = d.parts ∧
    (coreCount x c tg n d).partOp = d.partOp ∧ (coreCount x c tg n d).pairs = d.pairs ∧ (coreCount x c tg n d).rrings = d.rrings ∧
    (coreCount x c tg n d).cmds = d.cmds ∧ (coreCount x c tg n d).nextTkt = d.nextTkt ∧ (coreCount x c tg n d).msixOn = d.msixOn ∧
    (coreCount x c tg n d).msixPba = d.msixPba ∧ (coreCount x c tg n d).errUp = d.errUp ∧ (coreCount x c tg n d).tabVers = d.tabVers ∧
    (coreCount x c tg n d).maint = d.maint ∧ (coreCount x c tg n d).keyed = d.keyed ∧ (coreCount x c tg n d).txBk = d.txBk ∧
    (coreCount x c tg n d).numVfs = d.numVfs ∧ (coreCount x c tg n d).pcie = d.pcie ∧ (coreCount x c tg n d).fab = d.fab ∧
    (coreCount x c tg n d).isl = d.isl ∧ (coreCount x c tg n d).otp = d.otp ∧ (coreCount x c tg n d).boot = d.boot ∧
    (coreCount x c tg n d).pwr = d.pwr ∧ (coreCount x c tg n d).pins = d.pins ∧ (coreCount x c tg n d).bridges = d.bridges ∧
    (coreCount x c tg n d).free = d.free := by
  first
  | exact ⟨rfl, rfl, rfl, rfl, rfl, rfl, rfl, rfl, rfl, rfl, rfl, rfl, rfl, rfl, rfl, rfl, rfl, rfl, rfl, rfl, rfl, rfl, rfl, rfl, rfl, rfl, rfl, rfl, rfl, rfl, rfl, rfl, rfl, rfl⟩
  | unfold coreCount; try dsimp only
    repeat' (first | (simp; done) | split)

@[simp] theorem waitStop_keeps (c : Nat) (d : Dev) :
    (waitStop c d).time = d.time ∧ (waitStop c d).regs = d.regs ∧ (waitStop c d).ctr = d.ctr ∧ (waitStop c d).frozen = d.frozen ∧
    (waitStop c d).hostMem = d.hostMem ∧ (waitStop c d).edge = d.edge ∧ (waitStop c d).out = d.out ∧ (waitStop c d).ctxs = d.ctxs ∧
    (waitStop c d).recPend = d.recPend ∧ (waitStop c d).store = d.store ∧ (waitStop c d).ep = d.ep ∧ (waitStop c d).parts = d.parts ∧
    (waitStop c d).partOp = d.partOp ∧ (waitStop c d).pairs = d.pairs ∧ (waitStop c d).rrings = d.rrings ∧ (waitStop c d).cmds = d.cmds ∧
    (waitStop c d).nextTkt = d.nextTkt ∧ (waitStop c d).msixOn = d.msixOn ∧ (waitStop c d).msixPba = d.msixPba ∧
    (waitStop c d).errUp = d.errUp ∧ (waitStop c d).tabVers = d.tabVers ∧ (waitStop c d).maint = d.maint ∧ (waitStop c d).keyed = d.keyed ∧
    (waitStop c d).txBk = d.txBk ∧ (waitStop c d).numVfs = d.numVfs ∧ (waitStop c d).pcie = d.pcie ∧ (waitStop c d).fab = d.fab ∧
    (waitStop c d).isl = d.isl ∧ (waitStop c d).otp = d.otp ∧ (waitStop c d).boot = d.boot ∧ (waitStop c d).pwr = d.pwr ∧
    (waitStop c d).pins = d.pins ∧ (waitStop c d).obs = d.obs ∧ (waitStop c d).bridges = d.bridges ∧ (waitStop c d).free = d.free := by
  first
  | exact ⟨rfl, rfl, rfl, rfl, rfl, rfl, rfl, rfl, rfl, rfl, rfl, rfl, rfl, rfl, rfl, rfl, rfl, rfl, rfl, rfl, rfl, rfl, rfl, rfl, rfl, rfl, rfl, rfl, rfl, rfl, rfl, rfl, rfl, rfl, rfl⟩
  | unfold waitStop; try dsimp only
    repeat' (first | (simp; done) | split)

@[simp] theorem advance_keeps (c : Nat) (d : Dev) :
    (advance c d).time = d.time ∧ (advance c d).regs = d.regs ∧ (advance c d).ctr = d.ctr ∧ (advance c d).frozen = d.frozen ∧
    (advance c d).hostMem = d.hostMem ∧ (advance c d).edge = d.edge ∧ (advance c d).out = d.out ∧ (advance c d).ctxs = d.ctxs ∧
    (advance c d).recPend = d.recPend ∧ (advance c d).store = d.store ∧ (advance c d).ep = d.ep ∧ (advance c d).parts = d.parts ∧
    (advance c d).partOp = d.partOp ∧ (advance c d).pairs = d.pairs ∧ (advance c d).rrings = d.rrings ∧ (advance c d).cmds = d.cmds ∧
    (advance c d).nextTkt = d.nextTkt ∧ (advance c d).msixOn = d.msixOn ∧ (advance c d).msixPba = d.msixPba ∧
    (advance c d).errUp = d.errUp ∧ (advance c d).tabVers = d.tabVers ∧ (advance c d).maint = d.maint ∧ (advance c d).keyed = d.keyed ∧
    (advance c d).txBk = d.txBk ∧ (advance c d).numVfs = d.numVfs ∧ (advance c d).pcie = d.pcie ∧ (advance c d).fab = d.fab ∧
    (advance c d).isl = d.isl ∧ (advance c d).otp = d.otp ∧ (advance c d).boot = d.boot ∧ (advance c d).pwr = d.pwr ∧
    (advance c d).pins = d.pins ∧ (advance c d).obs = d.obs ∧ (advance c d).bridges = d.bridges ∧ (advance c d).free = d.free := by
  first
  | exact ⟨rfl, rfl, rfl, rfl, rfl, rfl, rfl, rfl, rfl, rfl, rfl, rfl, rfl, rfl, rfl, rfl, rfl, rfl, rfl, rfl, rfl, rfl, rfl, rfl, rfl, rfl, rfl, rfl, rfl, rfl, rfl, rfl, rfl, rfl, rfl⟩
  | unfold advance; try dsimp only
    repeat' (first | (simp; done) | split)

@[simp] theorem copyNote_keeps (t : Nat) (code : Nat) (d : Dev) :
    (copyNote t code d).time = d.time ∧ (copyNote t code d).regs = d.regs ∧ (copyNote t code d).ctr = d.ctr ∧
    (copyNote t code d).frozen = d.frozen ∧ (copyNote t code d).hostMem = d.hostMem ∧ (copyNote t code d).edge = d.edge ∧
    (copyNote t code d).out = d.out ∧ (copyNote t code d).ctxs = d.ctxs ∧ (copyNote t code d).recPend = d.recPend ∧
    (copyNote t code d).store = d.store ∧ (copyNote t code d).ep = d.ep ∧ (copyNote t code d).parts = d.parts ∧
    (copyNote t code d).partOp = d.partOp ∧ (copyNote t code d).pairs = d.pairs ∧ (copyNote t code d).rrings = d.rrings ∧
    (copyNote t code d).nextTkt = d.nextTkt ∧ (copyNote t code d).msixOn = d.msixOn ∧ (copyNote t code d).msixPba = d.msixPba ∧
    (copyNote t code d).errUp = d.errUp ∧ (copyNote t code d).tabVers = d.tabVers ∧ (copyNote t code d).maint = d.maint ∧
    (copyNote t code d).keyed = d.keyed ∧ (copyNote t code d).txBk = d.txBk ∧ (copyNote t code d).numVfs = d.numVfs ∧
    (copyNote t code d).pcie = d.pcie ∧ (copyNote t code d).fab = d.fab ∧ (copyNote t code d).isl = d.isl ∧
    (copyNote t code d).otp = d.otp ∧ (copyNote t code d).boot = d.boot ∧ (copyNote t code d).pwr = d.pwr ∧
    (copyNote t code d).pins = d.pins ∧ (copyNote t code d).obs = d.obs ∧ (copyNote t code d).bridges = d.bridges ∧
    (copyNote t code d).free = d.free := by
  first
  | exact ⟨rfl, rfl, rfl, rfl, rfl, rfl, rfl, rfl, rfl, rfl, rfl, rfl, rfl, rfl, rfl, rfl, rfl, rfl, rfl, rfl, rfl, rfl, rfl, rfl, rfl, rfl, rfl, rfl, rfl, rfl, rfl, rfl, rfl, rfl⟩
  | unfold copyNote; try dsimp only
    repeat' (first | (simp; done) | split)

@[simp] theorem dropOut_keeps (o : JOut) (d : Dev) :
    (dropOut o d).time = d.time ∧ (dropOut o d).regs = d.regs ∧ (dropOut o d).ctr = d.ctr ∧ (dropOut o d).frozen = d.frozen ∧
    (dropOut o d).hostMem = d.hostMem ∧ (dropOut o d).edge = d.edge ∧ (dropOut o d).out = d.out ∧ (dropOut o d).ctxs = d.ctxs ∧
    (dropOut o d).recPend = d.recPend ∧ (dropOut o d).comp = d.comp ∧ (dropOut o d).store = d.store ∧ (dropOut o d).ep = d.ep ∧
    (dropOut o d).parts = d.parts ∧ (dropOut o d).partOp = d.partOp ∧ (dropOut o d).pairs = d.pairs ∧ (dropOut o d).rrings = d.rrings ∧
    (dropOut o d).cmds = d.cmds ∧ (dropOut o d).nextTkt = d.nextTkt ∧ (dropOut o d).msixOn = d.msixOn ∧ (dropOut o d).msixPba = d.msixPba ∧
    (dropOut o d).errUp = d.errUp ∧ (dropOut o d).tabVers = d.tabVers ∧ (dropOut o d).maint = d.maint ∧ (dropOut o d).keyed = d.keyed ∧
    (dropOut o d).txBk = d.txBk ∧ (dropOut o d).numVfs = d.numVfs ∧ (dropOut o d).pcie = d.pcie ∧ (dropOut o d).isl = d.isl ∧
    (dropOut o d).otp = d.otp ∧ (dropOut o d).boot = d.boot ∧ (dropOut o d).pwr = d.pwr ∧ (dropOut o d).pins = d.pins ∧
    (dropOut o d).obs = d.obs ∧ (dropOut o d).bridges = d.bridges ∧ (dropOut o d).free = d.free := by
  first
  | exact ⟨rfl, rfl, rfl, rfl, rfl, rfl, rfl, rfl, rfl, rfl, rfl, rfl, rfl, rfl, rfl, rfl, rfl, rfl, rfl, rfl, rfl, rfl, rfl, rfl, rfl, rfl, rfl, rfl, rfl, rfl, rfl, rfl, rfl, rfl, rfl⟩
  | unfold dropOut; try dsimp only
    repeat' (first | (simp; done) | split)

@[simp] theorem rxTake_keeps (n : Nat) (m : JMsg) (d : Dev) :
    (rxTake n m d).time = d.time ∧ (rxTake n m d).regs = d.regs ∧ (rxTake n m d).ctr = d.ctr ∧ (rxTake n m d).frozen = d.frozen ∧
    (rxTake n m d).hostMem = d.hostMem ∧ (rxTake n m d).edge = d.edge ∧ (rxTake n m d).out = d.out ∧ (rxTake n m d).ctxs = d.ctxs ∧
    (rxTake n m d).recPend = d.recPend ∧ (rxTake n m d).comp = d.comp ∧ (rxTake n m d).store = d.store ∧ (rxTake n m d).ep = d.ep ∧
    (rxTake n m d).parts = d.parts ∧ (rxTake n m d).partOp = d.partOp ∧ (rxTake n m d).pairs = d.pairs ∧ (rxTake n m d).rrings = d.rrings ∧
    (rxTake n m d).cmds = d.cmds ∧ (rxTake n m d).nextTkt = d.nextTkt ∧ (rxTake n m d).msixOn = d.msixOn ∧
    (rxTake n m d).msixPba = d.msixPba ∧ (rxTake n m d).errUp = d.errUp ∧ (rxTake n m d).tabVers = d.tabVers ∧
    (rxTake n m d).maint = d.maint ∧ (rxTake n m d).keyed = d.keyed ∧ (rxTake n m d).txBk = d.txBk ∧ (rxTake n m d).numVfs = d.numVfs ∧
    (rxTake n m d).pcie = d.pcie ∧ (rxTake n m d).isl = d.isl ∧ (rxTake n m d).otp = d.otp ∧ (rxTake n m d).boot = d.boot ∧
    (rxTake n m d).pwr = d.pwr ∧ (rxTake n m d).pins = d.pins ∧ (rxTake n m d).obs = d.obs ∧ (rxTake n m d).bridges = d.bridges ∧
    (rxTake n m d).free = d.free := by
  first
  | exact ⟨rfl, rfl, rfl, rfl, rfl, rfl, rfl, rfl, rfl, rfl, rfl, rfl, rfl, rfl, rfl, rfl, rfl, rfl, rfl, rfl, rfl, rfl, rfl, rfl, rfl, rfl, rfl, rfl, rfl, rfl, rfl, rfl, rfl, rfl, rfl⟩
  | unfold rxTake; try dsimp only
    repeat' (first | (simp; done) | split)

@[simp] theorem setTabVer_keeps (p : Nat) (slot : Nat) (tag : Nat) (v : TabVer) (d : Dev) :
    (setTabVer p slot tag v d).time = d.time ∧ (setTabVer p slot tag v d).regs = d.regs ∧ (setTabVer p slot tag v d).ctr = d.ctr ∧
    (setTabVer p slot tag v d).frozen = d.frozen ∧ (setTabVer p slot tag v d).hostMem = d.hostMem ∧
    (setTabVer p slot tag v d).edge = d.edge ∧ (setTabVer p slot tag v d).out = d.out ∧ (setTabVer p slot tag v d).ctxs = d.ctxs ∧
    (setTabVer p slot tag v d).recPend = d.recPend ∧ (setTabVer p slot tag v d).comp = d.comp ∧
    (setTabVer p slot tag v d).store = d.store ∧ (setTabVer p slot tag v d).ep = d.ep ∧ (setTabVer p slot tag v d).parts = d.parts ∧
    (setTabVer p slot tag v d).partOp = d.partOp ∧ (setTabVer p slot tag v d).pairs = d.pairs ∧
    (setTabVer p slot tag v d).rrings = d.rrings ∧ (setTabVer p slot tag v d).cmds = d.cmds ∧
    (setTabVer p slot tag v d).nextTkt = d.nextTkt ∧ (setTabVer p slot tag v d).msixOn = d.msixOn ∧
    (setTabVer p slot tag v d).msixPba = d.msixPba ∧ (setTabVer p slot tag v d).errUp = d.errUp ∧
    (setTabVer p slot tag v d).maint = d.maint ∧ (setTabVer p slot tag v d).keyed = d.keyed ∧ (setTabVer p slot tag v d).txBk = d.txBk ∧
    (setTabVer p slot tag v d).numVfs = d.numVfs ∧ (setTabVer p slot tag v d).pcie = d.pcie ∧ (setTabVer p slot tag v d).fab = d.fab ∧
    (setTabVer p slot tag v d).isl = d.isl ∧ (setTabVer p slot tag v d).otp = d.otp ∧ (setTabVer p slot tag v d).boot = d.boot ∧
    (setTabVer p slot tag v d).pwr = d.pwr ∧ (setTabVer p slot tag v d).pins = d.pins ∧ (setTabVer p slot tag v d).obs = d.obs ∧
    (setTabVer p slot tag v d).bridges = d.bridges ∧ (setTabVer p slot tag v d).free = d.free := by
  first
  | exact ⟨rfl, rfl, rfl, rfl, rfl, rfl, rfl, rfl, rfl, rfl, rfl, rfl, rfl, rfl, rfl, rfl, rfl, rfl, rfl, rfl, rfl, rfl, rfl, rfl, rfl, rfl, rfl, rfl, rfl, rfl, rfl, rfl, rfl, rfl, rfl⟩
  | unfold setTabVer; try dsimp only
    repeat' (first | (simp; done) | split)

@[simp] theorem modDeep_keeps (die : Nat) (r : Nat) (f : DeepReq → DeepReq) (d : Dev) :
    (modDeep die r f d).time = d.time ∧ (modDeep die r f d).regs = d.regs ∧ (modDeep die r f d).ctr = d.ctr ∧
    (modDeep die r f d).frozen = d.frozen ∧ (modDeep die r f d).hostMem = d.hostMem ∧ (modDeep die r f d).out = d.out ∧
    (modDeep die r f d).ctxs = d.ctxs ∧ (modDeep die r f d).recPend = d.recPend ∧ (modDeep die r f d).comp = d.comp ∧
    (modDeep die r f d).store = d.store ∧ (modDeep die r f d).ep = d.ep ∧ (modDeep die r f d).parts = d.parts ∧
    (modDeep die r f d).partOp = d.partOp ∧ (modDeep die r f d).pairs = d.pairs ∧ (modDeep die r f d).rrings = d.rrings ∧
    (modDeep die r f d).cmds = d.cmds ∧ (modDeep die r f d).nextTkt = d.nextTkt ∧ (modDeep die r f d).msixOn = d.msixOn ∧
    (modDeep die r f d).msixPba = d.msixPba ∧ (modDeep die r f d).errUp = d.errUp ∧ (modDeep die r f d).tabVers = d.tabVers ∧
    (modDeep die r f d).maint = d.maint ∧ (modDeep die r f d).keyed = d.keyed ∧ (modDeep die r f d).txBk = d.txBk ∧
    (modDeep die r f d).numVfs = d.numVfs ∧ (modDeep die r f d).pcie = d.pcie ∧ (modDeep die r f d).fab = d.fab ∧
    (modDeep die r f d).isl = d.isl ∧ (modDeep die r f d).otp = d.otp ∧ (modDeep die r f d).boot = d.boot ∧
    (modDeep die r f d).pwr = d.pwr ∧ (modDeep die r f d).pins = d.pins ∧ (modDeep die r f d).obs = d.obs ∧
    (modDeep die r f d).bridges = d.bridges ∧ (modDeep die r f d).free = d.free := by
  first
  | exact ⟨rfl, rfl, rfl, rfl, rfl, rfl, rfl, rfl, rfl, rfl, rfl, rfl, rfl, rfl, rfl, rfl, rfl, rfl, rfl, rfl, rfl, rfl, rfl, rfl, rfl, rfl, rfl, rfl, rfl, rfl, rfl, rfl, rfl, rfl, rfl⟩
  | unfold modDeep; try dsimp only
    repeat' (first | (simp; done) | split)

@[simp] theorem modFifo_keeps (die : Nat) (f : List Nat → List Nat) (d : Dev) :
    (modFifo die f d).time = d.time ∧ (modFifo die f d).regs = d.regs ∧ (modFifo die f d).ctr = d.ctr ∧
    (modFifo die f d).frozen = d.frozen ∧ (modFifo die f d).hostMem = d.hostMem ∧ (modFifo die f d).out = d.out ∧
    (modFifo die f d).ctxs = d.ctxs ∧ (modFifo die f d).recPend = d.recPend ∧ (modFifo die f d).comp = d.comp ∧
    (modFifo die f d).store = d.store ∧ (modFifo die f d).ep = d.ep ∧ (modFifo die f d).parts = d.parts ∧
    (modFifo die f d).partOp = d.partOp ∧ (modFifo die f d).pairs = d.pairs ∧ (modFifo die f d).rrings = d.rrings ∧
    (modFifo die f d).cmds = d.cmds ∧ (modFifo die f d).nextTkt = d.nextTkt ∧ (modFifo die f d).msixOn = d.msixOn ∧
    (modFifo die f d).msixPba = d.msixPba ∧ (modFifo die f d).errUp = d.errUp ∧ (modFifo die f d).tabVers = d.tabVers ∧
    (modFifo die f d).maint = d.maint ∧ (modFifo die f d).keyed = d.keyed ∧ (modFifo die f d).txBk = d.txBk ∧
    (modFifo die f d).numVfs = d.numVfs ∧ (modFifo die f d).pcie = d.pcie ∧ (modFifo die f d).fab = d.fab ∧ (modFifo die f d).isl = d.isl ∧
    (modFifo die f d).otp = d.otp ∧ (modFifo die f d).boot = d.boot ∧ (modFifo die f d).pwr = d.pwr ∧ (modFifo die f d).pins = d.pins ∧
    (modFifo die f d).obs = d.obs ∧ (modFifo die f d).bridges = d.bridges ∧ (modFifo die f d).free = d.free := by
  first
  | exact ⟨rfl, rfl, rfl, rfl, rfl, rfl, rfl, rfl, rfl, rfl, rfl, rfl, rfl, rfl, rfl, rfl, rfl, rfl, rfl, rfl, rfl, rfl, rfl, rfl, rfl, rfl, rfl, rfl, rfl, rfl, rfl, rfl, rfl, rfl, rfl⟩
  | unfold modFifo; try dsimp only
    repeat' (first | (simp; done) | split)

@[simp] theorem todFollow_keeps (d : Dev) :
    (todFollow d).regs = d.regs ∧ (todFollow d).ctr = d.ctr ∧ (todFollow d).frozen = d.frozen ∧ (todFollow d).hostMem = d.hostMem ∧
    (todFollow d).edge = d.edge ∧ (todFollow d).out = d.out ∧ (todFollow d).ctxs = d.ctxs ∧ (todFollow d).recPend = d.recPend ∧
    (todFollow d).comp = d.comp ∧ (todFollow d).store = d.store ∧ (todFollow d).ep = d.ep ∧ (todFollow d).parts = d.parts ∧
    (todFollow d).partOp = d.partOp ∧ (todFollow d).pairs = d.pairs ∧ (todFollow d).rrings = d.rrings ∧ (todFollow d).cmds = d.cmds ∧
    (todFollow d).nextTkt = d.nextTkt ∧ (todFollow d).msixOn = d.msixOn ∧ (todFollow d).msixPba = d.msixPba ∧
    (todFollow d).errUp = d.errUp ∧ (todFollow d).tabVers = d.tabVers ∧ (todFollow d).maint = d.maint ∧ (todFollow d).keyed = d.keyed ∧
    (todFollow d).txBk = d.txBk ∧ (todFollow d).numVfs = d.numVfs ∧ (todFollow d).pcie = d.pcie ∧ (todFollow d).fab = d.fab ∧
    (todFollow d).isl = d.isl ∧ (todFollow d).otp = d.otp ∧ (todFollow d).boot = d.boot ∧ (todFollow d).pwr = d.pwr ∧
    (todFollow d).pins = d.pins ∧ (todFollow d).obs = d.obs ∧ (todFollow d).bridges = d.bridges ∧ (todFollow d).free = d.free := by
  first
  | exact ⟨rfl, rfl, rfl, rfl, rfl, rfl, rfl, rfl, rfl, rfl, rfl, rfl, rfl, rfl, rfl, rfl, rfl, rfl, rfl, rfl, rfl, rfl, rfl, rfl, rfl, rfl, rfl, rfl, rfl, rfl, rfl, rfl, rfl, rfl, rfl⟩
  | unfold todFollow; try dsimp only
    repeat' (first | (simp; done) | split)

@[simp] theorem present_keeps (off : Int) (d : Dev) :
    (present off d).regs = d.regs ∧ (present off d).ctr = d.ctr ∧ (present off d).frozen = d.frozen ∧ (present off d).hostMem = d.hostMem ∧
    (present off d).edge = d.edge ∧ (present off d).out = d.out ∧ (present off d).ctxs = d.ctxs ∧ (present off d).recPend = d.recPend ∧
    (present off d).comp = d.comp ∧ (present off d).store = d.store ∧ (present off d).ep = d.ep ∧ (present off d).parts = d.parts ∧
    (present off d).partOp = d.partOp ∧ (present off d).pairs = d.pairs ∧ (present off d).rrings = d.rrings ∧
    (present off d).cmds = d.cmds ∧ (present off d).nextTkt = d.nextTkt ∧ (present off d).msixOn = d.msixOn ∧
    (present off d).msixPba = d.msixPba ∧ (present off d).errUp = d.errUp ∧ (present off d).tabVers = d.tabVers ∧
    (present off d).maint = d.maint ∧ (present off d).keyed = d.keyed ∧ (present off d).txBk = d.txBk ∧ (present off d).numVfs = d.numVfs ∧
    (present off d).pcie = d.pcie ∧ (present off d).fab = d.fab ∧ (present off d).isl = d.isl ∧ (present off d).otp = d.otp ∧
    (present off d).boot = d.boot ∧ (present off d).pwr = d.pwr ∧ (present off d).pins = d.pins ∧ (present off d).obs = d.obs ∧
    (present off d).bridges = d.bridges ∧ (present off d).free = d.free := by
  first
  | exact ⟨rfl, rfl, rfl, rfl, rfl, rfl, rfl, rfl, rfl, rfl, rfl, rfl, rfl, rfl, rfl, rfl, rfl, rfl, rfl, rfl, rfl, rfl, rfl, rfl, rfl, rfl, rfl, rfl, rfl, rfl, rfl, rfl, rfl, rfl, rfl⟩
  | unfold present; try dsimp only
    repeat' (first | (simp; done) | split)

@[simp] theorem reply_keeps (m : Nat) (st : Nat) (body : List Byte) (d : Dev) :
    (reply m st body d).time = d.time ∧ (reply m st body d).regs = d.regs ∧ (reply m st body d).ctr = d.ctr ∧
    (reply m st body d).frozen = d.frozen ∧ (reply m st body d).hostMem = d.hostMem ∧ (reply m st body d).edge = d.edge ∧
    (reply m st body d).ctxs = d.ctxs ∧ (reply m st body d).recPend = d.recPend ∧ (reply m st body d).comp = d.comp ∧
    (reply m st body d).store = d.store ∧ (reply m st body d).ep = d.ep ∧ (reply m st body d).parts = d.parts ∧
    (reply m st body d).partOp = d.partOp ∧ (reply m st body d).pairs = d.pairs ∧ (reply m st body d).rrings = d.rrings ∧
    (reply m st body d).cmds = d.cmds ∧ (reply m st body d).nextTkt = d.nextTkt ∧ (reply m st body d).msixOn = d.msixOn ∧
    (reply m st body d).msixPba = d.msixPba ∧ (reply m st body d).errUp = d.errUp ∧ (reply m st body d).tabVers = d.tabVers ∧
    (reply m st body d).maint = d.maint ∧ (reply m st body d).keyed = d.keyed ∧ (reply m st body d).txBk = d.txBk ∧
    (reply m st body d).numVfs = d.numVfs ∧ (reply m st body d).pcie = d.pcie ∧ (reply m st body d).fab = d.fab ∧
    (reply m st body d).isl = d.isl ∧ (reply m st body d).otp = d.otp ∧ (reply m st body d).boot = d.boot ∧
    (reply m st body d).pwr = d.pwr ∧ (reply m st body d).pins = d.pins ∧ (reply m st body d).obs = d.obs ∧
    (reply m st body d).bridges = d.bridges ∧ (reply m st body d).free = d.free := by
  first
  | exact ⟨rfl, rfl, rfl, rfl, rfl, rfl, rfl, rfl, rfl, rfl, rfl, rfl, rfl, rfl, rfl, rfl, rfl, rfl, rfl, rfl, rfl, rfl, rfl, rfl, rfl, rfl, rfl, rfl, rfl, rfl, rfl, rfl, rfl, rfl, rfl⟩
  | unfold reply; try dsimp only
    repeat' (first | (simp; done) | split)

@[simp] theorem plainTo_keeps (a : Nat) (val : Nat) (d : Dev) :
    (plainTo a val d).time = d.time ∧ (plainTo a val d).ctr = d.ctr ∧ (plainTo a val d).frozen = d.frozen ∧
    (plainTo a val d).hostMem = d.hostMem ∧ (plainTo a val d).edge = d.edge ∧ (plainTo a val d).out = d.out ∧
    (plainTo a val d).ctxs = d.ctxs ∧ (plainTo a val d).recPend = d.recPend ∧ (plainTo a val d).comp = d.comp ∧
    (plainTo a val d).store = d.store ∧ (plainTo a val d).ep = d.ep ∧ (plainTo a val d).parts = d.parts ∧
    (plainTo a val d).partOp = d.partOp ∧ (plainTo a val d).pairs = d.pairs ∧ (plainTo a val d).rrings = d.rrings ∧
    (plainTo a val d).cmds = d.cmds ∧ (plainTo a val d).nextTkt = d.nextTkt ∧ (plainTo a val d).msixOn = d.msixOn ∧
    (plainTo a val d).msixPba = d.msixPba ∧ (plainTo a val d).errUp = d.errUp ∧ (plainTo a val d).tabVers = d.tabVers ∧
    (plainTo a val d).maint = d.maint ∧ (plainTo a val d).keyed = d.keyed ∧ (plainTo a val d).txBk = d.txBk ∧
    (plainTo a val d).numVfs = d.numVfs ∧ (plainTo a val d).pcie = d.pcie ∧ (plainTo a val d).fab = d.fab ∧ (plainTo a val d).isl = d.isl ∧
    (plainTo a val d).otp = d.otp ∧ (plainTo a val d).boot = d.boot ∧ (plainTo a val d).pwr = d.pwr ∧ (plainTo a val d).pins = d.pins ∧
    (plainTo a val d).obs = d.obs ∧ (plainTo a val d).bridges = d.bridges ∧ (plainTo a val d).free = d.free := by
  first
  | exact ⟨rfl, rfl, rfl, rfl, rfl, rfl, rfl, rfl, rfl, rfl, rfl, rfl, rfl, rfl, rfl, rfl, rfl, rfl, rfl, rfl, rfl, rfl, rfl, rfl, rfl, rfl, rfl, rfl, rfl, rfl, rfl, rfl, rfl, rfl, rfl⟩
  | unfold plainTo; try dsimp only
    repeat' (first | (simp; done) | split)

end Sys2Proof.Machine
end

