-- ==== Sys2Proof/Laws/Shared.lean ====
section
/-! SUPPORT. What the operations that every family shares do: running a command, a step, a Clave instruction, the start of a ring
command, memory and queues. -/

namespace Sys2Proof.Laws

open Sys2Proof.Machine Sys2Proof.Safety

/-- A meaning answers its effect on the device, or faults where its operands are not in range; it does nothing else. -/
theorem runIf_cases (ok : Bool) (f : Dev → Dev) (s : State) :
    (ok = true ∧ runIf ok f s = .next { s with dev := f s.dev }) ∨ (ok = false ∧ runIf ok f s = .fault .illFormed) := by
  cases ok <;> simp [runIf]

/-- A step takes the command in front, or passes a nanosecond. -/
theorem step_cases (s : State) :
    (s.pending = [] ∧ step s = .next { s with dev := tick s.dev }) ∨
    ∃ c rest, s.pending = c :: rest ∧ step s = exec c { s with pending := rest } := by
  unfold step; split
  · exact .inl ⟨‹_›, rfl⟩
  · exact .inr ⟨_, _, ‹_›, rfl⟩

/-- A meaning that answers the device `d'` answers every property of `d'`. -/
theorem answers_of_gives {c : Instr} {s : State} {d' : Dev} {p : Dev → Prop} (h : Gives c s d') (hp : p d') : Answers c s p := ⟨d', h, hp⟩

/-- A Clave instruction of a parser that stands at it is its effect, applied. -/
theorem claveStep_at {d : Dev} {pa : Nat} {i : Instr} {cost : Nat} (h : claveAt d pa i cost = true) (eff : Dev → Frame → Parser → CRes) :
    claveStep pa i eff d = claveApply pa i (eff d (claveFrame d pa) (parserOf d pa)) d ∧ (parserOf d pa).cycles + cost ≤ 512 := by
  unfold claveAt at h
  split at h
  · rename_i fid hf
    simp only [Bool.and_eq_true, beq_iff_eq, decide_eq_true_eq] at h
    obtain ⟨⟨h1, h2⟩, h3⟩ := h
    refine ⟨?_, h3⟩
    have hfr : claveFrame d pa = frameOf d fid := by simp [claveFrame, hf]
    have hs : (parserOf d pa).stall.isSome = false := by cases hs : (parserOf d pa).stall <;> simp [hs] at h1 ⊢
    unfold bankFor at h2
    rw [hfr]
    simp only [claveStep, hf, h2]
    simp [hs]
  · exact absurd h (by simp)

/-- A Clave instruction that leaves the parser `p'` at `cost` completes with it. -/
theorem clave_completes {s : State} {c i : Instr} {pa cost : Nat} {eff : Dev → Frame → Parser → CRes} {p' : Parser}
    (hx : exec c s = run c (claveStep pa i eff) s) (hw : wellFormed c = true)
    (he : eff s.dev (claveFrame s.dev pa) (parserOf s.dev pa) = .ok p' cost) :
    ClaveDoes c i pa cost s { p' with cycles := (parserOf s.dev pa).cycles + cost } := by
  intro h
  obtain ⟨h1, h2⟩ := claveStep_at h eff
  unfold Gives; rw [hx]; unfold run runIf; rw [if_pos hw, h1, he]
  simp only [claveApply, h2, if_true]

/-- A ring command that is ready starts: its work is done. -/
theorem startCmd_ready {op q t : Nat} {f : Cmd → Dev → Dev} {d : Dev} (h : cmdReady d op q t = true) :
    startCmd op q t f d = f (cmdOf d t) d := by
  simp only [cmdReady, Bool.and_eq_true, beq_iff_eq, Bool.not_eq_true'] at h
  obtain ⟨⟨⟨h1, h2⟩, h3⟩, h4⟩ := h
  simp [startCmd, h1, h2, h3, h4]

/-- A ring command of another pair or opcode, or one that may not start yet, changes nothing. -/
theorem startCmd_not {op q t : Nat} {f : Cmd → Dev → Dev} {d : Dev}
    (h : (cmdOf d t).q ≠ q ∨ opcodeOf (cmdOf d t) ≠ op ∨ startable d t = false) : startCmd op q t f d = d := by
  unfold startCmd; dsimp only; rw [if_neg]
  rintro ⟨a, b, c⟩
  rcases h with h | h | h
  · exact h a
  · exact h b
  · rw [h] at c; exact absurd c (by simp)

/-- A ring command past a deadline that it heeds completes DEADLINE_MISSED. -/
theorem startCmd_late {op q t : Nat} {f : Cmd → Dev → Dev} {d : Dev} (hq : (cmdOf d t).q = q) (ho : opcodeOf (cmdOf d t) = op)
    (hs : startable d t = true) (hl : cmdLate d (cmdOf d t) = true) : startCmd op q t f d = complete t .deadlineMissed 0 d := by
  simp [startCmd, hq, ho, hs, hl]

/-- A completed command that is not outstanding changes nothing. -/
theorem complete_dead {t : Nat} {st : Status} {r : Nat} {d : Dev} (h : cmdLive d t = false) : complete t st r d = d := by
  simp [complete, h]

/-- One queue of a breakout port is changed, and no other. -/
theorem queueOf_modQueue {bp q x y : Nat} (f : EQueue → EQueue) (d : Dev) (hq : q < 16) (hy : y < 16) :
    queueOf (modQueue bp q f d) x y = if x = bp ∧ y = q then f (queueOf d bp q) else queueOf d x y := by
  have e : (16 * x + y = 16 * bp + q) ↔ (x = bp ∧ y = q) := by omega
  unfold queueOf modQueue
  simp only [onEdge_edge, tget_tmod, e]

/-- Host memory keeps its canonical form. -/
theorem hostWrite_wf {d : Dev} (fn a : Nat) (bs : List Byte) (h : tabWf 0 d.hostMem = true) : tabWf 0 (hostWrite fn a bs d).hostMem = true :=
  tabWf_tputBytes _ _ _ h

/-- Memories in canonical form stay so where neither changes. -/
theorem memoriesOk_congr {d d' : Dev} (h1 : d'.hostMem = d.hostMem) (h2 : d'.store.hbm = d.store.hbm) : memoriesOk d' = memoriesOk d := by
  unfold memoriesOk; rw [h1, h2]

end Sys2Proof.Laws
end

