-- ==== Sys2Proof/Tests/Slice0.lean ====
section
/-! SUPPORT. Tests of the model: well-formedness, a state for the premises of each statement, and small checks of commands against
the spec's tables and examples. -/

namespace Sys2Proof.Tests

open Sys2Proof.Machine Sys2Proof.Safety

set_option maxRecDepth 8000

/-! ## Small states -/

/-- A device where a parser stands at `i`, the first instruction of its frame's program. -/
def parsing (i : Instr) (p : Parser := {}) (f : Frame := {}) (pa : Nat := 0) : Dev :=
  { edge := { parsers := [(pa, { p with frame := some 1 })], frames := [(1, f)], banks := [(0, { prog := [i] })] } }

/-- The device after a command; the same device where the command stops. -/
def after (c : Instr) (d : Dev) : Dev := match exec c { dev := d } with | .next s => s.dev | _ => d

/-- The parser after the instruction at which it stands. -/
def parsed (i : Instr) (p : Parser := {}) (f : Frame := {}) : Parser := parserOf (after i (parsing i p f)) 0

/-- A frame whose last byte has arrived, with 128 bytes from 0 upward. -/
def frame128 : Frame := { bytes := (List.range 128).map (BitVec.ofNat 8), len := 132, ended := true, depth := 512 }

/-! ## Well-formedness -/


/-! Every constructor at its highest operands is well-formed. -/


theorem test_wf_accepts_1 : ([.frameReceive 127 0 [],
    .frameBytesArrive 127 [],
    .frameEnd 127 [] false false false,
    .macControlFrameReceive 127 [],
    .pauseExpire 127 15,
    .parserDispatch 1279,
    .claveLdb 1279 15 511,
    .claveLdh 1279 15 511,
    .claveLdw 1279 15 511,
    .claveLdbf 1279 15 511 31 1,
    .claveAdv 1279 511,
    .claveAdvr 1279 15 3,
    .claveSetc 1279 15,
    .claveGetc 1279 15,
    .claveMovi 1279 15 0xFFFF,
    .claveMovhi 1279 15 0xFFFF,
    .claveMov 1279 15 15,
    .claveAdd 1279 15 15 15,
    .claveSub 1279 15 15 15,
    .claveAddi 1279 15 15 0xFFFF,
    .claveAnd 1279 15 15 15,
    .claveOr 1279 15 15 15,
    .claveXor 1279 15 15 15,
    .claveAndi 1279 15 15 0xFFFF,
    .claveOri 1279 15 15 0xFFFF,
    .claveShl 1279 15 15 31,
    .claveShr 1279 15 15 31,
    .claveBeq 1279 15 0xFFFF 16383,
    .claveBne 1279 15 0xFFFF 16383,
    .claveBlt 1279 15 0xFFFF 16383,
    .claveBge 1279 15 0xFFFF 16383,
    .claveBeqr 1279 15 15 16383,
    .claveBner 1279 15 15 16383,
    .claveJmp 1279 16383,
    .claveSwitch 1279 15 (List.replicate 16 16383),
    .claveCall 1279 16383,
    .claveRet 1279,
    .claveHdr 1279 63,
    .claveKeyb 1279 15 32,
    .claveKeyf 1279 511 16,
    .claveFld 1279 63 15,
    .claveFldp 1279 63 511 4,
    .claveCrc 1279 15 511 64,
    .claveCsum 1279 15 511 64,
    .claveTbl 1279 15 15 15,
    .claveEnc 1279 63 15 255,
    .claveMeta 1279 15 4,
    .claveSetm 1279 1 15,
    .claveDone 1279,
    .claveFail 1279 127,
    .claveSlow 1279 255,
    .claveNop 1279,
    .parseBudget 1279,
    .matchRelease 127,
    .pfcRefresh 127 8,
    .flowMissAnswer 3,
    .flowLookupOrInsert 3,
    .flowWriteback 3,
    .flowCacheFlush 3,
    .flowAgingScan 3] : List Instr).all (fun c => wellFormed c) = true := by decide

theorem test_wf_accepts_2 : ([.flowAgingCandidate 3,
    .flowAgingConfirm 3,
    .stashReinsert 3,
    .ruleSweepDone 3,
    .deepRequestIssue 3,
    .deepDeadline 3 65535,
    .inferenceResult 3 65535 65535 65535 65535 [],
    .inferenceRequest 3 65535,
    .txSelect 127,
    .txDone 127,
    .gateEdge 127,
    .gateListSwap 127,
    .gateSwapArm 127 4294967295,
    .samplePeriodEnd 127,
    .bufferCfgWrite 0x1FFFFFC 4294967295,
    .interDieFrameArrive 3 3,
    .portCfgWrite 31 4294967295,
    .portForceRecal 31,
    .portMacWrite 31 3 4294967295 false,
    .ruleSeedWrite 3 4294967295,
    .flowSeedWrite 3 4294967295,
    .laneLockLoss 31 3,
    .calibrationDone 31,
    .linkUp 127,
    .txHoldIdlesDone 127,
    .txHoldTimeout 127,
    .linkDown 127,
    .egressDiscardDone 127,
    .txRefLost 3 1,
    .txRefReturn 3 1,
    .engineStart 767 11,
    .engineComplete 767 11,
    .scalarAdd 767 31 31 31,
    .scalarSub 767 31 31 31,
    .scalarAnd 767 31 31 31,
    .scalarOr 767 31 31 31,
    .scalarXor 767 31 31 31,
    .scalarShl 767 31 31 31,
    .scalarShr 767 31 31 31,
    .sar 767 31 31 31,
    .cmp 767 31 31,
    .li 767 31 0,
    .mul 767 31 31 31,
    .br 767 .eq 0,
    .scalarJmp 767 0,
    .scalarCall 767 0,
    .scalarRet 767,
    .loop 767 0 0,
    .halt 767,
    .mm 767 { arr := 7, wFmt := 15, aFmt := 15, w := [⟨63, 0, 511⟩], a := ⟨63, 0, 511⟩, aStride := 0, m := 0, zw := [⟨63, 0, 511⟩], ps := [⟨63, 0, 511⟩], tok := some 31 } 4,
    .mmG4 767 { arr := 7, wFmt := 15, aFmt := 15, w := [⟨63, 0, 511⟩], a := ⟨63, 0, 511⟩, aStride := 0, m := 0, zw := [⟨63, 0, 511⟩], ps := [⟨63, 0, 511⟩], tok := some 31 } 4,
    .as 767 { arr := 7, wFmt := 15, aFmt := 15, b := 0, act := ⟨63, 0, 511⟩, w := ⟨63, 0, 511⟩, zw := some ⟨63, 0, 511⟩, ps := some ⟨63, 0, 511⟩, tok := some 31 },
    .asld 767 { arr := 7, wFmt := 15, aFmt := 15, b := 0, act := ⟨63, 0, 511⟩, w := ⟨63, 0, 511⟩, zw := some ⟨63, 0, 511⟩, ps := some ⟨63, 0, 511⟩, tok := some 31 },
    .op 767 { arr := 7, wFmt := 15, aFmt := 15, t := 0, x := ⟨63, 0, 511⟩, xStride := 0, g := ⟨63, 0, 511⟩, gStride := 0, zw := some ⟨63, 0, 511⟩, tok := some 31 },
    .accOut 767 { arr := 7, accBase := 0, n := 0, fp := false, dst := ⟨63, 0, 511⟩, vreg := some 31, rq := some { dstFmt := 15, mult := 65535, s0 := 47, srStream := 255, eA := some ⟨63, 0, 511⟩, eW := some ⟨63, 0, 511⟩, dst := .track 15 ⟨63, 0, 511⟩ }, tok := some 31 },
    .accClr 767 7 0 0 (some 31),
    .vld 767 31 ⟨63, 0, 511⟩ 4 (some 31),
    .vst 767 31 ⟨63, 0, 511⟩ (some 31),
    .vectorElementwise 767 .add 15 31 31 31 31 (some 31),
    .vred 767 3 15 31 31 (some 31)] : List Instr).all (fun c => wellFormed c) = true := by decide

theorem test_wf_accepts_3 : ([.vcvt 767 { srcFmt := 15, src := ⟨63, 0, 511⟩, srcStride := 0, dst := ⟨63, 0, 511⟩, dstStride := 0, rows := 0, cols := 0, rq := { dstFmt := 15, dst := .fixed (-64) }, tok := some 31 },
    .vrq 767 { srcFmt := 15, src := ⟨63, 0, 511⟩, srcStride := 0, dst := ⟨63, 0, 511⟩, dstStride := 0, rows := 0, cols := 0, rq := { dstFmt := 15, dst := .fixed (-64) }, tok := some 31 },
    .vlut 767 31 31 ⟨63, 0, 511⟩ (some 31),
    .vectorPermute 767 2 4 31 31 31 0 (some 31),
    .pealLoad 767 2 ⟨63, 0, 511⟩ 0 0 (some 31),
    .pealEval 767 { share := 0, nFeatures := 0, v := 0, vec := ⟨63, 0, 511⟩, res := ⟨63, 0, 511⟩, mode := 0, tok := some 31 } 4,
    .dmaIn 767 { space := 2, sh := ⟨63, 0, 511⟩, loc := ⟨63, 0, 511⟩, n := 0, scale := some (0, ⟨63, 0, 511⟩), tok := some 31 },
    .dmaOut 767 { space := 2, sh := ⟨63, 0, 511⟩, loc := ⟨63, 0, 511⟩, n := 0, scale := some (0, ⟨63, 0, 511⟩), tok := some 31 },
    .dmaComplete 767,
    .gather 767 { slot := 255, keys := ⟨63, 0, 511⟩, n := 0, dst := ⟨63, 0, 511⟩, keyed := some 255, dflt := 0xFFFFFFFF, tok := some 31 },
    .gatherComplete 767,
    .winRd 767 7 767 7 0 0 ⟨63, 0, 511⟩ (some 31),
    .winWr 767 7 767 7 0 0 ⟨63, 0, 511⟩ (some 31),
    .sld 767 31 ⟨63, 0, 511⟩ 8 4 (some 31),
    .sst 767 31 ⟨63, 0, 511⟩ 8 (some 31),
    .fill 767 ⟨63, 0, 511⟩ 0 0 (some 31),
    .copy 767 ⟨63, 0, 511⟩ ⟨63, 0, 511⟩ 7 0 (some 31),
    .tcopy 767 ⟨63, 0, 511⟩ ⟨63, 0, 511⟩ 0 (some 31),
    .sread 767 ⟨63, 0, 511⟩ ⟨63, 0, 511⟩ 0 0 0 0 (some 31),
    .tokWait 767 31 255,
    .bar 767 3,
    .sig 767 15 255,
    .sigR 767 95 15 255,
    .swait 767 15 65535,
    .mark 767 65535 65535,
    .remoteSignalArrive 95,
    .barrierControllerArrive 95 3,
    .barrierMaskWrite 95 3 511,
    .icacheLineFill 767,
    .windowOpen 8191 0,
    .windowClose 8191 0,
    .windowCloseDrained 8191 0,
    .windowAccessArrive 767 4,
    .winRdReply 767,
    .winWrAck 767,
    .winFaultNotice 767,
    .clusterZeroDone 95,
    .pealPatrol 767 0 2,
    .pealScrubReload 767 4095 2 0 0 0 0,
    .sqDoorbell 8191 0,
    .cqDoorbell 8191 0,
    .rqDoorbell 127 18 0,
    .sqFetch 8191,
    .fence 8191 0,
    .run 8191 0,
    .runTrees 8191 0,
    .txFrame 8191 0,
    .txFrameEnqueue 8191 0,
    .remoteCopy 8191 0,
    .commandDeadline 8191 0,
    .recordDeliver 127 18,
    .irqDelayExpire 127 82,
    .msixUnmask 127 2047,
    .ringEnable 127 82 4294967295,
    .ringDisable 127 82 4294967295,
    .accessFault 127 1 0 4096,
    .pcieCompletionTimeout 127 64,
    .hbmAccess 64 0 1 [] 4,
    .stackTempReport 11 255,
    .coalescerServe 3 2 63 15] : List Instr).all (fun c => wellFormed c) = true := by decide

theorem test_wf_accepts_4 : ([.coalescerMaxWait 3 2 63 15,
    .sramPatrol 3 3 0 2,
    .hbmScrub 3 0 4,
    .rowmodeWrite 47 4294967295,
    .frameZeroDone 3,
    .directoryRequest 15 32767 7 1 0,
    .directoryWriteback 15 32767 7,
    .snoopResponse 15 32767 7,
    .ruleWrite 8191 0,
    .ruleDelete 8191 0,
    .flipEpoch 8191 0,
    .epochHoldEnd,
    .epochHoldTimeout,
    .epochSwitch 3,
    .epochSwitchAck,
    .retireWait 8191 0,
    .retireWaitTimeout 8191 0,
    .retireForce 8191 0,
    .retireAbandon 8191 0,
    .epochRetire,
    .stagingOpen,
    .loadTable 8191 0 {},
    .loadImage 8191 0 false,
    .bulkCommit 8191 0,
    .contextCreate 8191 0,
    .contextDestroy 8191 0,
    .partCreate 1 63,
    .partResize 1 63,
    .partDestroy 1 63,
    .partDescFetchDone false 0,
    .fnReset 127,
    .flr 127,
    .vfRemoval 1 63,
    .vfEnable 1 63,
    .partitionReset 63,
    .partitionResetDone 63,
    .clusterReset 95,
    .jodonEnableWrite 19 false false,
    .jodonRetrain 19,
    .jodonForceRecal 19,
    .jodonTrainingPhaseEnd 19 false false,
    .jodonIdent 19 7 19 16777215 false,
    .jodonRetryTimer 19,
    .jodonLinkFail 19,
    .jodonWrite 19,
    .jodonWriteAck 19,
    .jodonFaultNotice 19,
    .jodonReadReq 19 0,
    .jodonReadData 19,
    .jodonReadErr 19,
    .jodonTimeout 4294967295,
    .jodonPinHoldExpire 19,
    .beatSyncSend 19,
    .beatSync 19,
    .beatAlone,
    .beatRead,
    .todRead,
    .ppsInEdge,
    .ppsInLost,
    .ref10mLost] : List Instr).all (fun c => wellFormed c) = true := by decide

theorem test_wf_accepts_5 : ([.ref10mValid,
    .swRefTimeout,
    .todAdj 0,
    .todSetGo 4294967295,
    .todStepApply,
    .todSlewDone,
    .ppsOutEdge,
    .ppsOutPulseEnd,
    .mfioCfgWrite 31 4294967295 false,
    .mfioParkEnd 31,
    .tachWindow 31,
    .fanTachEdge 31,
    .strapCheck 63,
    .controlCoreTimeout 3 15,
    .controlCoreTrap 3 15,
    .islandLockstep,
    .controlCoreFrame 3 127 7 (List.replicate 60 0),
    .sensorSample (List.replicate 112 0) [],
    .vrmTelemetry 65535,
    .eventLogPersist,
    .troublePersist,
    .alertAck 15,
    .requestUpdate 15,
    .firmwareData 15 4294967295 [],
    .verifyComplete 15,
    .activateFirmware 15,
    .cancelUpdate 15,
    .rollbackCommit 15 0,
    .troubleClear 15 0 4294967295,
    .statusMsg 15,
    .logRead 15 4294967295 65535,
    .troubleRead 15,
    .maint 15 0 65535 65535 255 255 65535,
    .mctpControl 15 255 255,
    .pldmMonitoring 15 3 65535,
    .spdmMessage 15 2 0 false,
    .maintGrant,
    .maintWaitExpire,
    .maintActivityDone 258 65535 2,
    .clusterIdleEntry 95,
    .clusterRetainEntry 95,
    .clusterOffEntry 95,
    .thawWakeRequest 146,
    .wakeStart 146,
    .wakeDone 146,
    .domainFailed 146,
    .idleExit 95,
    .clockStepWrite 95 4294967295,
    .clockRaise 95,
    .powerEstimateUpdate 65535,
    .powerCap,
    .powerLimitWrite 4294967295 false,
    .thermalTrip 111,
    .queueReset 9 19 [] [8191] [4095],
    .coldReset 63 (List.replicate 112 0),
    .sysRstNAssert,
    .sysRstNRelease,
    .resetHeld,
    .portReset 1 false,
    .perstDeassert 1] : List Instr).all (fun c => wellFormed c) = true := by decide

theorem test_wf_accepts_6 : ([.pcieConfigReady 1,
    .trstN,
    .jtagInstruction 7,
    .thermalHoldCheck (List.replicate 112 0),
    .railPowerGood,
    .railFailed,
    .bootStepDone 4095 false,
    .mailboxGo 1,
    .cfgWrite false,
    .lcOwn,
    .lcReturn,
    .lcVoid,
    .debugToken,
    .nonceDraw,
    .controlCoreRestarted 2 7,
    .islandRestarted,
    .pcieLinkUp 1,
    .maintRequest 8191 0,
    .bridgeReplay 19 24 false,
    .bridgeFailed 24 23 false,
    .railFault 11,
    .vddAonLoss,
    .sysrefLost,
    .smbusSclLowTimeout,
    .stragglerEval 95 4095,
    .decodeStep 8191 0,
    .attnCfgWrite 3 4294967295,
    .countersRead 8191 0,
    .gong 8191 0,
    .tensorDumpArm 8191 0,
    .registerWrite 127 4092 4294967295 false,
    .jodonGong 19,
    .gongLatch,
    .tensorDumpWrite 0,
    .watchdogFire 767,
    .rimeDumpDone 63,
    .invocationLaunch 95 255 4095 2 .none [] [],
    .residentReload 95 4095 2 [],
    .attnQuery 3 (.step 0 0) 127 [] [] false,
    .attnPartialArrive 0 15 127 4 7 [],
    .trainStep 8191 0 false [],
    .trainCommit 8191 0 [] false] : List Instr).all (fun c => wellFormed c) = true := by decide


/-! One bound passed, or one check failed, is refused. -/


theorem test_wf_refuses_1 : ([.frameReceive 128 0 [],
    .frameBytesArrive 128 [],
    .frameEnd 128 [] false false false,
    .macControlFrameReceive 128 [],
    .pauseExpire 128 15,
    .pauseExpire 127 16,
    .parserDispatch 1280,
    .claveLdb 1280 15 511,
    .claveLdb 1279 16 511,
    .claveLdb 1279 15 512,
    .claveLdh 1280 15 511,
    .claveLdh 1279 16 511,
    .claveLdh 1279 15 512,
    .claveLdw 1280 15 511,
    .claveLdw 1279 16 511,
    .claveLdw 1279 15 512,
    .claveLdbf 1280 15 511 31 1,
    .claveLdbf 1279 16 511 31 1,
    .claveLdbf 1279 15 512 31 1,
    .claveAdv 1280 511,
    .claveAdv 1279 512,
    .claveAdvr 1280 15 3,
    .claveAdvr 1279 16 3,
    .claveAdvr 1279 15 4,
    .claveSetc 1280 15,
    .claveSetc 1279 16,
    .claveGetc 1280 15,
    .claveGetc 1279 16,
    .claveMovi 1280 15 0xFFFF,
    .claveMovi 1279 16 0xFFFF,
    .claveMovhi 1280 15 0xFFFF,
    .claveMovhi 1279 16 0xFFFF,
    .claveMov 1280 15 15,
    .claveMov 1279 16 15,
    .claveMov 1279 15 16,
    .claveAdd 1280 15 15 15,
    .claveAdd 1279 16 15 15,
    .claveAdd 1279 15 16 15,
    .claveAdd 1279 15 15 16,
    .claveSub 1280 15 15 15,
    .claveSub 1279 16 15 15,
    .claveSub 1279 15 16 15,
    .claveSub 1279 15 15 16,
    .claveAddi 1280 15 15 0xFFFF,
    .claveAddi 1279 16 15 0xFFFF,
    .claveAddi 1279 15 16 0xFFFF,
    .claveAnd 1280 15 15 15,
    .claveAnd 1279 16 15 15,
    .claveAnd 1279 15 16 15,
    .claveAnd 1279 15 15 16,
    .claveOr 1280 15 15 15,
    .claveOr 1279 16 15 15,
    .claveOr 1279 15 16 15,
    .claveOr 1279 15 15 16,
    .claveXor 1280 15 15 15,
    .claveXor 1279 16 15 15,
    .claveXor 1279 15 16 15,
    .claveXor 1279 15 15 16,
    .claveAndi 1280 15 15 0xFFFF,
    .claveAndi 1279 16 15 0xFFFF] : List Instr).all (fun c => !wellFormed c) = true := by decide

theorem test_wf_refuses_2 : ([.claveAndi 1279 15 16 0xFFFF,
    .claveOri 1280 15 15 0xFFFF,
    .claveOri 1279 16 15 0xFFFF,
    .claveOri 1279 15 16 0xFFFF,
    .claveShl 1280 15 15 31,
    .claveShl 1279 16 15 31,
    .claveShl 1279 15 16 31,
    .claveShl 1279 15 15 32,
    .claveShr 1280 15 15 31,
    .claveShr 1279 16 15 31,
    .claveShr 1279 15 16 31,
    .claveShr 1279 15 15 32,
    .claveBeq 1280 15 0xFFFF 16383,
    .claveBeq 1279 16 0xFFFF 16383,
    .claveBeq 1279 15 0xFFFF 16384,
    .claveBne 1280 15 0xFFFF 16383,
    .claveBne 1279 16 0xFFFF 16383,
    .claveBne 1279 15 0xFFFF 16384,
    .claveBlt 1280 15 0xFFFF 16383,
    .claveBlt 1279 16 0xFFFF 16383,
    .claveBlt 1279 15 0xFFFF 16384,
    .claveBge 1280 15 0xFFFF 16383,
    .claveBge 1279 16 0xFFFF 16383,
    .claveBge 1279 15 0xFFFF 16384,
    .claveBeqr 1280 15 15 16383,
    .claveBeqr 1279 16 15 16383,
    .claveBeqr 1279 15 16 16383,
    .claveBeqr 1279 15 15 16384,
    .claveBner 1280 15 15 16383,
    .claveBner 1279 16 15 16383,
    .claveBner 1279 15 16 16383,
    .claveBner 1279 15 15 16384,
    .claveJmp 1280 16383,
    .claveJmp 1279 16384,
    .claveSwitch 1280 15 (List.replicate 16 16383),
    .claveSwitch 1279 16 (List.replicate 16 16383),
    .claveCall 1280 16383,
    .claveCall 1279 16384,
    .claveRet 1280,
    .claveHdr 1280 63,
    .claveHdr 1279 64,
    .claveKeyb 1280 15 32,
    .claveKeyb 1279 16 32,
    .claveKeyf 1280 511 16,
    .claveKeyf 1279 512 16,
    .claveFld 1280 63 15,
    .claveFld 1279 64 15,
    .claveFld 1279 63 16,
    .claveFldp 1280 63 511 4,
    .claveFldp 1279 64 511 4,
    .claveFldp 1279 63 512 4,
    .claveCrc 1280 15 511 64,
    .claveCrc 1279 16 511 64,
    .claveCrc 1279 15 512 64,
    .claveCsum 1280 15 511 64,
    .claveCsum 1279 16 511 64,
    .claveCsum 1279 15 512 64,
    .claveTbl 1280 15 15 15,
    .claveTbl 1279 16 15 15,
    .claveTbl 1279 15 16 15] : List Instr).all (fun c => !wellFormed c) = true := by decide

theorem test_wf_refuses_3 : ([.claveTbl 1279 15 15 16,
    .claveEnc 1280 63 15 255,
    .claveEnc 1279 64 15 255,
    .claveEnc 1279 63 16 255,
    .claveEnc 1279 63 15 256,
    .claveMeta 1280 15 4,
    .claveMeta 1279 16 4,
    .claveMeta 1279 15 5,
    .claveSetm 1280 1 15,
    .claveSetm 1279 2 15,
    .claveSetm 1279 1 16,
    .claveDone 1280,
    .claveFail 1280 127,
    .claveFail 1279 128,
    .claveSlow 1280 255,
    .claveSlow 1279 256,
    .claveNop 1280,
    .parseBudget 1280,
    .matchRelease 128,
    .pfcRefresh 128 8,
    .pfcRefresh 127 9,
    .flowMissAnswer 4,
    .flowLookupOrInsert 4,
    .flowWriteback 4,
    .flowCacheFlush 4,
    .flowAgingScan 4,
    .flowAgingCandidate 4,
    .flowAgingConfirm 4,
    .stashReinsert 4,
    .ruleSweepDone 4,
    .deepRequestIssue 4,
    .deepDeadline 4 65535,
    .deepDeadline 3 65536,
    .inferenceResult 4 65535 65535 65535 65535 [],
    .inferenceResult 3 65536 65535 65535 65535 [],
    .inferenceResult 3 65535 65536 65535 65535 [],
    .inferenceResult 3 65535 65535 65536 65535 [],
    .inferenceResult 3 65535 65535 65535 65536 [],
    .inferenceRequest 4 65535,
    .inferenceRequest 3 65536,
    .txSelect 128,
    .txDone 128,
    .gateEdge 128,
    .gateListSwap 128,
    .gateSwapArm 128 4294967295,
    .gateSwapArm 127 4294967296,
    .samplePeriodEnd 128,
    .bufferCfgWrite 33554432 4294967295,
    .bufferCfgWrite 0x1FFFFFC 4294967296,
    .interDieFrameArrive 4 3,
    .interDieFrameArrive 3 4,
    .portCfgWrite 32 4294967295,
    .portCfgWrite 31 4294967296,
    .portForceRecal 32,
    .portMacWrite 32 3 4294967295 false,
    .portMacWrite 31 4 4294967295 false,
    .portMacWrite 31 3 4294967296 false,
    .ruleSeedWrite 4 4294967295,
    .ruleSeedWrite 3 4294967296] : List Instr).all (fun c => !wellFormed c) = true := by decide

theorem test_wf_refuses_4 : ([.flowSeedWrite 4 4294967295,
    .flowSeedWrite 3 4294967296,
    .laneLockLoss 32 3,
    .laneLockLoss 31 4,
    .calibrationDone 32,
    .linkUp 128,
    .txHoldIdlesDone 128,
    .txHoldTimeout 128,
    .linkDown 128,
    .egressDiscardDone 128,
    .txRefLost 4 1,
    .txRefLost 3 2,
    .txRefReturn 4 1,
    .txRefReturn 3 2,
    .engineStart 768 11,
    .engineStart 767 12,
    .engineComplete 768 11,
    .engineComplete 767 12,
    .scalarAdd 768 31 31 31,
    .scalarAdd 767 32 31 31,
    .scalarAdd 767 31 32 31,
    .scalarAdd 767 31 31 32,
    .scalarSub 768 31 31 31,
    .scalarSub 767 32 31 31,
    .scalarSub 767 31 32 31,
    .scalarSub 767 31 31 32,
    .scalarAnd 768 31 31 31,
    .scalarAnd 767 32 31 31,
    .scalarAnd 767 31 32 31,
    .scalarAnd 767 31 31 32,
    .scalarOr 768 31 31 31,
    .scalarOr 767 32 31 31,
    .scalarOr 767 31 32 31,
    .scalarOr 767 31 31 32,
    .scalarXor 768 31 31 31,
    .scalarXor 767 32 31 31,
    .scalarXor 767 31 32 31,
    .scalarXor 767 31 31 32,
    .scalarShl 768 31 31 31,
    .scalarShl 767 32 31 31,
    .scalarShl 767 31 32 31,
    .scalarShl 767 31 31 32,
    .scalarShr 768 31 31 31,
    .scalarShr 767 32 31 31,
    .scalarShr 767 31 32 31,
    .scalarShr 767 31 31 32,
    .sar 768 31 31 31,
    .sar 767 32 31 31,
    .sar 767 31 32 31,
    .sar 767 31 31 32,
    .cmp 768 31 31,
    .cmp 767 32 31,
    .cmp 767 31 32,
    .li 768 31 0,
    .li 767 32 0,
    .mul 768 31 31 31,
    .mul 767 32 31 31,
    .mul 767 31 32 31,
    .mul 767 31 31 32,
    .br 768 .eq 0] : List Instr).all (fun c => !wellFormed c) = true := by decide

theorem test_wf_refuses_5 : ([.scalarJmp 768 0,
    .scalarCall 768 0,
    .scalarRet 768,
    .loop 768 0 0,
    .halt 768,
    .mm 768 { arr := 7, wFmt := 15, aFmt := 15, w := [⟨63, 0, 511⟩], a := ⟨63, 0, 511⟩, aStride := 0, m := 0, zw := [⟨63, 0, 511⟩], ps := [⟨63, 0, 511⟩], tok := some 31 } 4,
    .mm 767 { arr := 7, wFmt := 15, aFmt := 15, w := [⟨63, 0, 511⟩], a := ⟨63, 0, 511⟩, aStride := 0, m := 0, zw := [⟨63, 0, 511⟩], ps := [⟨63, 0, 511⟩], tok := some 31 } 5,
    .mmG4 768 { arr := 7, wFmt := 15, aFmt := 15, w := [⟨63, 0, 511⟩], a := ⟨63, 0, 511⟩, aStride := 0, m := 0, zw := [⟨63, 0, 511⟩], ps := [⟨63, 0, 511⟩], tok := some 31 } 4,
    .mmG4 767 { arr := 7, wFmt := 15, aFmt := 15, w := [⟨63, 0, 511⟩], a := ⟨63, 0, 511⟩, aStride := 0, m := 0, zw := [⟨63, 0, 511⟩], ps := [⟨63, 0, 511⟩], tok := some 31 } 5,
    .as 768 { arr := 7, wFmt := 15, aFmt := 15, b := 0, act := ⟨63, 0, 511⟩, w := ⟨63, 0, 511⟩, zw := some ⟨63, 0, 511⟩, ps := some ⟨63, 0, 511⟩, tok := some 31 },
    .asld 768 { arr := 7, wFmt := 15, aFmt := 15, b := 0, act := ⟨63, 0, 511⟩, w := ⟨63, 0, 511⟩, zw := some ⟨63, 0, 511⟩, ps := some ⟨63, 0, 511⟩, tok := some 31 },
    .op 768 { arr := 7, wFmt := 15, aFmt := 15, t := 0, x := ⟨63, 0, 511⟩, xStride := 0, g := ⟨63, 0, 511⟩, gStride := 0, zw := some ⟨63, 0, 511⟩, tok := some 31 },
    .accOut 768 { arr := 7, accBase := 0, n := 0, fp := false, dst := ⟨63, 0, 511⟩, vreg := some 31, rq := some { dstFmt := 15, mult := 65535, s0 := 47, srStream := 255, eA := some ⟨63, 0, 511⟩, eW := some ⟨63, 0, 511⟩, dst := .track 15 ⟨63, 0, 511⟩ }, tok := some 31 },
    .accClr 768 7 0 0 (some 31),
    .accClr 767 8 0 0 (some 31),
    .vld 768 31 ⟨63, 0, 511⟩ 4 (some 31),
    .vld 767 32 ⟨63, 0, 511⟩ 4 (some 31),
    .vld 767 31 ⟨63, 0, 511⟩ 5 (some 31),
    .vst 768 31 ⟨63, 0, 511⟩ (some 31),
    .vst 767 32 ⟨63, 0, 511⟩ (some 31),
    .vectorElementwise 768 .add 15 31 31 31 31 (some 31),
    .vectorElementwise 767 .add 16 31 31 31 31 (some 31),
    .vectorElementwise 767 .add 15 32 31 31 31 (some 31),
    .vectorElementwise 767 .add 15 31 32 31 31 (some 31),
    .vectorElementwise 767 .add 15 31 31 32 31 (some 31),
    .vectorElementwise 767 .add 15 31 31 31 32 (some 31),
    .vred 768 3 15 31 31 (some 31),
    .vred 767 4 15 31 31 (some 31),
    .vred 767 3 16 31 31 (some 31),
    .vred 767 3 15 32 31 (some 31),
    .vred 767 3 15 31 32 (some 31),
    .vcvt 768 { srcFmt := 15, src := ⟨63, 0, 511⟩, srcStride := 0, dst := ⟨63, 0, 511⟩, dstStride := 0, rows := 0, cols := 0, rq := { dstFmt := 15, dst := .fixed (-64) }, tok := some 31 },
    .vrq 768 { srcFmt := 15, src := ⟨63, 0, 511⟩, srcStride := 0, dst := ⟨63, 0, 511⟩, dstStride := 0, rows := 0, cols := 0, rq := { dstFmt := 15, dst := .fixed (-64) }, tok := some 31 },
    .vlut 768 31 31 ⟨63, 0, 511⟩ (some 31),
    .vlut 767 32 31 ⟨63, 0, 511⟩ (some 31),
    .vlut 767 31 32 ⟨63, 0, 511⟩ (some 31),
    .vectorPermute 768 2 0 31 31 31 0 (some 31),
    .vectorPermute 767 3 0 31 31 31 0 (some 31),
    .vectorPermute 767 2 0 32 31 31 0 (some 31),
    .vectorPermute 767 2 0 31 32 31 0 (some 31),
    .vectorPermute 767 2 0 31 31 32 0 (some 31),
    .pealLoad 768 2 ⟨63, 0, 511⟩ 0 0 (some 31),
    .pealLoad 767 3 ⟨63, 0, 511⟩ 0 0 (some 31),
    .pealEval 768 { share := 0, nFeatures := 0, v := 0, vec := ⟨63, 0, 511⟩, res := ⟨63, 0, 511⟩, mode := 0, tok := some 31 } 4,
    .pealEval 767 { share := 0, nFeatures := 0, v := 0, vec := ⟨63, 0, 511⟩, res := ⟨63, 0, 511⟩, mode := 0, tok := some 31 } 5,
    .dmaIn 768 { space := 2, sh := ⟨63, 0, 511⟩, loc := ⟨63, 0, 511⟩, n := 0, scale := some (0, ⟨63, 0, 511⟩), tok := some 31 },
    .dmaOut 768 { space := 2, sh := ⟨63, 0, 511⟩, loc := ⟨63, 0, 511⟩, n := 0, scale := some (0, ⟨63, 0, 511⟩), tok := some 31 },
    .dmaComplete 768,
    .gather 768 { slot := 255, keys := ⟨63, 0, 511⟩, n := 0, dst := ⟨63, 0, 511⟩, keyed := some 255, dflt := 0xFFFFFFFF, tok := some 31 },
    .gatherComplete 768,
    .winRd 768 7 767 7 0 0 ⟨63, 0, 511⟩ (some 31),
    .winRd 767 8 767 7 0 0 ⟨63, 0, 511⟩ (some 31),
    .winRd 767 7 768 7 0 0 ⟨63, 0, 511⟩ (some 31),
    .winRd 767 7 767 8 0 0 ⟨63, 0, 511⟩ (some 31),
    .winWr 768 7 767 7 0 0 ⟨63, 0, 511⟩ (some 31),
    .winWr 767 8 767 7 0 0 ⟨63, 0, 511⟩ (some 31),
    .winWr 767 7 768 7 0 0 ⟨63, 0, 511⟩ (some 31),
    .winWr 767 7 767 8 0 0 ⟨63, 0, 511⟩ (some 31),
    .sld 768 31 ⟨63, 0, 511⟩ 0 4 (some 31),
    .sld 767 32 ⟨63, 0, 511⟩ 0 4 (some 31)] : List Instr).all (fun c => !wellFormed c) = true := by decide

theorem test_wf_refuses_6 : ([.sld 767 31 ⟨63, 0, 511⟩ 0 5 (some 31),
    .sst 768 31 ⟨63, 0, 511⟩ 0 (some 31),
    .sst 767 32 ⟨63, 0, 511⟩ 0 (some 31),
    .fill 768 ⟨63, 0, 511⟩ 0 0 (some 31),
    .copy 768 ⟨63, 0, 511⟩ ⟨63, 0, 511⟩ 7 0 (some 31),
    .copy 767 ⟨63, 0, 511⟩ ⟨63, 0, 511⟩ 8 0 (some 31),
    .tcopy 768 ⟨63, 0, 511⟩ ⟨63, 0, 511⟩ 0 (some 31),
    .sread 768 ⟨63, 0, 511⟩ ⟨63, 0, 511⟩ 0 0 0 0 (some 31),
    .tokWait 768 31 255,
    .tokWait 767 32 255,
    .tokWait 767 31 256,
    .bar 768 3,
    .bar 767 4,
    .sig 768 15 255,
    .sig 767 16 255,
    .sig 767 15 256,
    .sigR 768 95 15 255,
    .sigR 767 96 15 255,
    .sigR 767 95 16 255,
    .sigR 767 95 15 256,
    .swait 768 15 65535,
    .swait 767 16 65535,
    .swait 767 15 65536,
    .mark 768 65535 65535,
    .mark 767 65536 65535,
    .mark 767 65535 65536,
    .remoteSignalArrive 96,
    .barrierControllerArrive 96 3,
    .barrierControllerArrive 95 4,
    .barrierMaskWrite 96 3 511,
    .barrierMaskWrite 95 4 511,
    .barrierMaskWrite 95 3 512,
    .icacheLineFill 768,
    .windowOpen 8192 0,
    .windowClose 8192 0,
    .windowCloseDrained 8192 0,
    .windowAccessArrive 768 4,
    .windowAccessArrive 767 5,
    .winRdReply 768,
    .winWrAck 768,
    .winFaultNotice 768,
    .clusterZeroDone 96,
    .pealPatrol 768 0 2,
    .pealPatrol 767 0 3,
    .pealScrubReload 768 4095 2 0 0 0 0,
    .pealScrubReload 767 4096 2 0 0 0 0,
    .pealScrubReload 767 4095 3 0 0 0 0,
    .sqDoorbell 8192 0,
    .cqDoorbell 8192 0,
    .rqDoorbell 128 18 0,
    .rqDoorbell 127 19 0,
    .sqFetch 8192,
    .fence 8192 0,
    .run 8192 0,
    .runTrees 8192 0,
    .txFrame 8192 0,
    .txFrameEnqueue 8192 0,
    .remoteCopy 8192 0,
    .commandDeadline 8192 0,
    .recordDeliver 128 18] : List Instr).all (fun c => !wellFormed c) = true := by decide

theorem test_wf_refuses_7 : ([.recordDeliver 127 19,
    .irqDelayExpire 128 82,
    .irqDelayExpire 127 83,
    .msixUnmask 128 2047,
    .msixUnmask 127 2048,
    .ringEnable 128 82 4294967295,
    .ringEnable 127 83 4294967295,
    .ringEnable 127 82 4294967296,
    .ringDisable 128 82 4294967295,
    .ringDisable 127 83 4294967295,
    .ringDisable 127 82 4294967296,
    .accessFault 128 1 0 4096,
    .accessFault 127 2 0 4096,
    .accessFault 127 1 0 4097,
    .pcieCompletionTimeout 128 64,
    .pcieCompletionTimeout 127 65,
    .hbmAccess 65 0 1 [] 4,
    .hbmAccess 64 0 2 [] 4,
    .hbmAccess 64 0 1 [] 5,
    .stackTempReport 12 255,
    .stackTempReport 11 256,
    .coalescerServe 4 2 63 15,
    .coalescerServe 3 3 63 15,
    .coalescerServe 3 2 64 15,
    .coalescerServe 3 2 63 16,
    .coalescerMaxWait 4 2 63 15,
    .coalescerMaxWait 3 3 63 15,
    .coalescerMaxWait 3 2 64 15,
    .coalescerMaxWait 3 2 63 16,
    .sramPatrol 4 3 0 2,
    .sramPatrol 3 4 0 2,
    .sramPatrol 3 3 0 3,
    .hbmScrub 4 0 4,
    .hbmScrub 3 0 5,
    .rowmodeWrite 48 4294967295,
    .rowmodeWrite 47 4294967296,
    .frameZeroDone 4,
    .directoryRequest 16 32767 7 1 0,
    .directoryRequest 15 32768 7 1 0,
    .directoryRequest 15 32767 8 1 0,
    .directoryRequest 15 32767 7 2 0,
    .directoryWriteback 16 32767 7,
    .directoryWriteback 15 32768 7,
    .directoryWriteback 15 32767 8,
    .snoopResponse 16 32767 7,
    .snoopResponse 15 32768 7,
    .snoopResponse 15 32767 8,
    .ruleWrite 8192 0,
    .ruleDelete 8192 0,
    .flipEpoch 8192 0,
    .epochSwitch 4,
    .retireWait 8192 0,
    .retireWaitTimeout 8192 0,
    .retireForce 8192 0,
    .retireAbandon 8192 0,
    .loadTable 8192 0 {},
    .loadImage 8192 0 false,
    .bulkCommit 8192 0,
    .contextCreate 8192 0,
    .contextDestroy 8192 0] : List Instr).all (fun c => !wellFormed c) = true := by decide

theorem test_wf_refuses_8 : ([.partCreate 2 63,
    .partCreate 1 64,
    .partResize 2 63,
    .partResize 1 64,
    .partDestroy 2 63,
    .partDestroy 1 64,
    .fnReset 128,
    .flr 128,
    .vfRemoval 2 63,
    .vfRemoval 1 64,
    .vfEnable 2 63,
    .vfEnable 1 64,
    .partitionReset 64,
    .partitionResetDone 64,
    .clusterReset 96,
    .jodonEnableWrite 20 false false,
    .jodonRetrain 20,
    .jodonForceRecal 20,
    .jodonTrainingPhaseEnd 20 false false,
    .jodonIdent 20 7 19 16777215 false,
    .jodonIdent 19 8 19 16777215 false,
    .jodonIdent 19 7 20 16777215 false,
    .jodonIdent 19 7 19 16777216 false,
    .jodonRetryTimer 20,
    .jodonBlockReceive 20 2 (List.replicate 5140 0),
    .jodonBlockReceive 19 3 (List.replicate 5140 0),
    .jodonLinkFail 20,
    .jodonWrite 20,
    .jodonWriteAck 20,
    .jodonFaultNotice 20,
    .jodonReadReq 20 0,
    .jodonReadData 20,
    .jodonReadErr 20,
    .jodonTimeout 4294967296,
    .jodonPinHoldExpire 20,
    .beatSyncSend 20,
    .beatSync 20,
    .todSetGo 4294967296,
    .mfioCfgWrite 32 4294967295 false,
    .mfioCfgWrite 31 4294967296 false,
    .mfioParkEnd 32,
    .tachWindow 32,
    .fanTachEdge 32,
    .strapCheck 64,
    .controlCoreTimeout 4 15,
    .controlCoreTrap 4 15,
    .controlCoreFrame 4 127 7 (List.replicate 60 0),
    .controlCoreFrame 3 128 7 (List.replicate 60 0),
    .controlCoreFrame 3 127 8 (List.replicate 60 0),
    .vrmTelemetry 65536,
    .alertAck 16,
    .requestUpdate 16,
    .firmwareData 16 4294967295 [],
    .firmwareData 15 4294967296 [],
    .verifyComplete 16,
    .activateFirmware 16,
    .cancelUpdate 16,
    .rollbackCommit 16 0,
    .troubleClear 16 0 4294967295,
    .troubleClear 15 0 4294967296] : List Instr).all (fun c => !wellFormed c) = true := by decide

theorem test_wf_refuses_9 : ([.statusMsg 16,
    .logRead 16 4294967295 65535,
    .logRead 15 4294967296 65535,
    .logRead 15 4294967295 65536,
    .troubleRead 16,
    .maint 16 0 65535 65535 255 255 65535,
    .maint 15 0 65536 65535 255 255 65535,
    .maint 15 0 65535 65536 255 255 65535,
    .maint 15 0 65535 65535 256 255 65535,
    .maint 15 0 65535 65535 255 256 65535,
    .maint 15 0 65535 65535 255 255 65536,
    .mctpControl 16 255 255,
    .mctpControl 15 256 255,
    .mctpControl 15 255 256,
    .pldmMonitoring 16 3 65535,
    .pldmMonitoring 15 4 65535,
    .pldmMonitoring 15 3 65536,
    .spdmMessage 16 2 0 false,
    .spdmMessage 15 3 0 false,
    .maintActivityDone 259 65535 2,
    .maintActivityDone 258 65536 2,
    .maintActivityDone 258 65535 3,
    .clusterIdleEntry 96,
    .clusterRetainEntry 96,
    .clusterOffEntry 96,
    .thawWakeRequest 147,
    .wakeStart 147,
    .wakeDone 147,
    .domainFailed 147,
    .idleExit 96,
    .clockStepWrite 96 4294967295,
    .clockStepWrite 95 4294967296,
    .clockRaise 96,
    .powerEstimateUpdate 65536,
    .powerLimitWrite 4294967296 false,
    .thermalTrip 112,
    .queueReset 10 19 [] [8191] [4095],
    .coldReset 64 (List.replicate 112 0),
    .portReset 2 false,
    .perstDeassert 2,
    .pcieConfigReady 2,
    .jtagInstruction 8,
    .bootStepDone 4096 false,
    .mailboxGo 2,
    .pcieLinkUp 2,
    .maintRequest 8192 0,
    .railFault 12,
    .stragglerEval 96 4095,
    .stragglerEval 95 4096,
    .decodeStep 8192 0,
    .attnCfgWrite 4 4294967295,
    .attnCfgWrite 3 4294967296,
    .countersRead 8192 0,
    .gong 8192 0,
    .tensorDumpArm 8192 0,
    .registerWrite 128 4092 4294967295 false,
    .registerWrite 127 4092 4294967296 false,
    .jodonGong 20,
    .watchdogFire 768,
    .rimeDumpDone 64] : List Instr).all (fun c => !wellFormed c) = true := by decide

theorem test_wf_refuses_10 : ([.invocationLaunch 96 255 4095 2 .none [] [],
    .invocationLaunch 95 256 4095 2 .none [] [],
    .invocationLaunch 95 255 4096 2 .none [] [],
    .invocationLaunch 95 255 4095 3 .none [] [],
    .residentReload 96 4095 2 [],
    .residentReload 95 4096 2 [],
    .residentReload 95 4095 3 [],
    .attnQuery 4 (.step 0 0) 127 [] [] false,
    .attnQuery 3 (.step 0 0) 128 [] [] false,
    .attnPartialArrive 0 16 127 4 7 [],
    .attnPartialArrive 0 15 128 4 7 [],
    .attnPartialArrive 0 15 127 5 7 [],
    .attnPartialArrive 0 15 127 4 8 [],
    .trainStep 8192 0 false [],
    .trainCommit 8192 0 [] false,
    .claveLdbf 0 0 0 31 2,
    .claveLdbf 0 0 0 0 0,
    .claveSwitch 0 0 [],
    .claveSwitch 0 0 (16384 :: List.replicate 15 0),
    .claveKeyb 0 0 0,
    .claveKeyb 0 0 33,
    .claveKeyf 0 0 0,
    .claveKeyf 0 0 17,
    .claveFldp 0 0 0 5,
    .claveFldp 0 0 0 0,
    .claveCrc 0 0 0 65,
    .claveCrc 0 0 0 0,
    .claveCsum 0 0 0 0,
    .claveCsum 0 0 0 66,
    .claveCsum 0 0 0 3,
    .claveFail 0 0x3F,
    .claveFail 0 0x80,
    .claveSlow 0 0x7F,
    .claveSlow 0 0x100,
    .bufferCfgWrite 0xFFFFFC 0,
    .bufferCfgWrite 0x1000002 0,
    .bufferCfgWrite 0x2000000 0,
    .invocationLaunch 0 0 0 0 .none [] [],
    .sig 0 0 0,
    .sigR 0 0 0 0,
    .jodonBlockReceive 0 0 [],
    .controlCoreTimeout 0 96,
    .controlCoreTimeout 3 16,
    .controlCoreTrap 1 16,
    .controlCoreTrap 2 8,
    .controlCoreTimeout 4 0,
    .controlCoreFrame 0 0 0 [],
    .sensorSample [] [],
    .coldReset 0 [],
    .thermalHoldCheck [],
    .controlCoreRestarted 0 0,
    .controlCoreRestarted 1 16,
    .controlCoreRestarted 2 8,
    .bridgeReplay 4 5 true,
    .bridgeReplay 0 25 true,
    .bridgeFailed 0 6 true,
    .registerWrite 0 2 0 false,
    .registerWrite 1 4096 0 false,
    .registerWrite 0 0x4000000 0 false,
    .registerWrite 128 0 0 false] : List Instr).all (fun c => !wellFormed c) = true := by decide

theorem test_wf_refuses_11 : ([.queueReset 10 0 [] [] [],
    .queueReset 0 768 [] [] [],
    .queueReset 9 20 [] [] [],
    .queueReset 0 0 [] [8192] [],
    .queueReset 0 0 [] [] [4096],
    .mm 0 { arr := 8, wFmt := 7, aFmt := 7, w := [], a := ⟨0, 0, 0⟩, aStride := 0, m := 0 } 0,
    .mmG4 0 { arr := 0, wFmt := 7, aFmt := 16, w := [], a := ⟨0, 0, 0⟩, aStride := 0, m := 0 } 0,
    .mm 0 { arr := 0, wFmt := 7, aFmt := 7, w := [⟨64, 0, 0⟩], a := ⟨0, 0, 0⟩, aStride := 0, m := 0 } 0,
    .as 0 { arr := 0, wFmt := 16, aFmt := 7, b := 0, act := ⟨0, 0, 0⟩ },
    .asld 0 { arr := 0, wFmt := 7, aFmt := 7, b := 0, act := ⟨0, 0, 512⟩ },
    .op 0 { arr := 0, wFmt := 7, aFmt := 7, t := 0, x := ⟨64, 0, 0⟩, xStride := 0, g := ⟨0, 0, 0⟩, gStride := 0 },
    .accOut 0 { arr := 8, accBase := 0, n := 0, fp := false },
    .accOut 0 { arr := 0, accBase := 0, n := 0, fp := false, vreg := some 32 },
    .accOut 0 { arr := 0, accBase := 0, n := 0, fp := false, rq := some { dstFmt := 7, s0 := 48 } },
    .accClr 0 0 0 0 (some 32),
    .vcvt 0 { srcFmt := 16, src := ⟨0, 0, 0⟩, srcStride := 0, dst := ⟨0, 0, 0⟩, dstStride := 0, rows := 0, cols := 0, rq := { dstFmt := 7 } },
    .vrq 0 { srcFmt := 14, src := ⟨0, 0, 0⟩, srcStride := 0, dst := ⟨0, 0, 0⟩, dstStride := 0, rows := 0, cols := 0, rq := { dstFmt := 7, dst := .fixed 64 } },
    .vrq 0 { srcFmt := 14, src := ⟨0, 0, 0⟩, srcStride := 0, dst := ⟨0, 0, 0⟩, dstStride := 0, rows := 0, cols := 0, rq := { dstFmt := 7, dst := .track 16 ⟨0, 0, 0⟩ } },
    .vld 0 0 ⟨64, 0, 0⟩ 0 none,
    .vst 0 0 ⟨0, 0, 512⟩ none,
    .vred 0 0 0 0 0 (some 32),
    .vlut 0 0 0 ⟨64, 0, 0⟩ none,
    .vectorElementwise 0 .add 0 0 0 0 0 (some 32),
    .vectorPermute 0 0 3 0 0 0 0 none,
    .vectorPermute 0 0 4 0 0 0 32 none,
    .pealLoad 0 0 ⟨64, 0, 0⟩ 0 0 none,
    .pealEval 0 { share := 0, nFeatures := 0, v := 0, vec := ⟨64, 0, 0⟩, res := ⟨0, 0, 0⟩, mode := 0 } 0,
    .dmaIn 0 { space := 3, loc := ⟨0, 0, 0⟩, n := 0 },
    .dmaOut 0 { space := 0, loc := ⟨64, 0, 0⟩, n := 0 },
    .gather 0 { slot := 256, keys := ⟨0, 0, 0⟩, n := 0, dst := ⟨0, 0, 0⟩ },
    .winRd 0 0 0 0 0 0 ⟨64, 0, 0⟩ none,
    .winWr 0 0 0 0 0 0 ⟨64, 0, 0⟩ none,
    .sld 0 0 ⟨0, 0, 0⟩ 3 0 none,
    .sst 0 0 ⟨0, 0, 0⟩ 16 none,
    .fill 0 ⟨64, 0, 0⟩ 0 0 none,
    .copy 0 ⟨64, 0, 0⟩ ⟨0, 0, 0⟩ 0 0 none,
    .tcopy 0 ⟨0, 0, 0⟩ ⟨64, 0, 0⟩ 0 none,
    .sread 0 ⟨64, 0, 0⟩ ⟨0, 0, 0⟩ 0 0 0 0 none,
    .attnQuery 0 (.step 0 16) 0 [] [] false,
    .attnQuery 0 (.shard 64 0) 0 [] [] false,
    .attnQuery 0 (.step 0 0) 0 [[2 ^ 32]] [] false,
    .attnPartialArrive 0 0 0 0 0 [(2 ^ 32, 0, [], false)],
    .attnPartialArrive 0 0 0 0 0 [(0, 0, [2 ^ 32], false)],
    .trainStep 0 0 true [[(some 64, [])]],
    .trainStep 0 0 true [[(none, [65536])]],
    .trainCommit 0 0 [[(-65, [])]] false,
    .trainCommit 0 0 [[(0, [256])]] false] : List Instr).all (fun c => !wellFormed c) = true := by decide

/-! ## Clave -/

/-- Premises of ClaveRegisterInstructions and ClaveControlInstructions: on the last parser, with just enough cycles left. -/
theorem witness_clave_registers :
    ([(.claveGetc 0 15, 1), (.claveMovi 0 15 0xFFFF, 1), (.claveMovhi 0 15 0xFFFF, 1), (.claveMov 0 15 15, 1), (.claveAdd 0 15 15 15, 1),
      (.claveSub 0 15 15 15, 1), (.claveAddi 0 15 15 1, 1), (.claveAnd 0 15 15 15, 1), (.claveOr 0 0 0 0, 1), (.claveXor 0 0 0 0, 1),
      (.claveAndi 0 0 0 0, 1), (.claveOri 0 0 0 0, 1), (.claveShl 0 0 0 31, 1), (.claveShr 0 0 0 31, 1), (.claveTbl 0 0 0 15, 3),
      (.claveFld 0 63 15, 1), (.claveEnc 0 63 15 255, 4), (.claveSetm 0 1 15, 1), (.claveSetm 0 0 0, 1), (.claveNop 0, 1)] : List (Instr × Nat)).all
      (fun x => claveAt (parsing x.1 { cycles := 512 - x.2 } {} 1279) 1279 x.1 x.2) = true := by decide

theorem witness_clave_control :
    ([(.claveBeq 0 15 0xFFFF 16383, 2), (.claveBne 0 15 0 16383, 2), (.claveBlt 0 15 0 16383, 2), (.claveBge 0 15 0 16383, 2),
      (.claveBeqr 0 15 15 16383, 2), (.claveBner 0 15 15 16383, 2), (.claveJmp 0 16383, 2), (.claveSwitch 0 15 (List.replicate 16 16383), 2),
      (.claveCall 0 16383, 2), (.claveRet 0, 2), (.claveAdv 0 511, 1), (.claveAdvr 0 15 3, 1), (.claveSetc 0 15, 1), (.claveHdr 0 63, 1)]
      : List (Instr × Nat)).all (fun x => claveAt (parsing x.1 { cycles := 512 - x.2 } {} 1279) 1279 x.1 x.2) = true := by decide

/-- A branch and a return: taken or not, an empty stack or not; a cursor at and past 511. -/
theorem witness_clave_control_cases :
    ((greg {} 15).toNat = 0 ∧ greg ({ g := [(15, 1)] } : Parser) 15 ≠ greg {} 15 ∧ ({ calls := [1, 2, 3] } : Parser).calls.length < 4 ∧
      ¬ ({ calls := [1, 2, 3, 4] } : Parser).calls.length < 4 ∧ ({ cursor := 0 } : Parser).cursor + 511 ≤ 511 ∧
      ¬ ({ cursor := 1 } : Parser).cursor + 511 ≤ 511 ∧ (List.replicate 11 (0, 0)).length < 12 ∧ ¬ (List.replicate 12 (0, 0)).length < 12) := by
  decide

/-- Premises of ClaveFrameReads, and each case of a read: inside the window, past the end, past the depth, still arriving. -/
theorem witness_clave_reads :
    ([(.claveLdb 0 15 511, 1), (.claveLdh 0 15 511, 1), (.claveLdw 0 15 511, 1), (.claveLdbf 0 15 511 31 1, 1), (.claveLdbf 0 0 0 0 32, 1),
      (.claveKeyf 0 511 16, 1), (.claveKeyf 0 0 1, 1), (.claveFldp 0 63 511 4, 1), (.claveFldp 0 0 0 1, 1), (.claveCrc 0 15 511 64, 4),
      (.claveCrc 0 0 0 1, 1), (.claveCsum 0 15 511 64, 4), (.claveCsum 0 0 0 2, 1), (.claveKeyb 0 15 32, 1), (.claveKeyb 0 0 1, 1),
      (.claveMeta 0 15 0, 1), (.claveMeta 0 15 4, 1)] : List (Instr × Nat)).all
      (fun x => claveAt (parsing x.1 { cycles := 512 - x.2 } frame128 1279) 1279 x.1 x.2) = true := by decide

theorem witness_clave_read_cases :
    (0 + 124 + 4 ≤ min frame128.depth frame128.bytes.length ∧ ¬ 0 + 125 + 4 ≤ min frame128.depth frame128.bytes.length ∧
      frame128.ended = true ∧ ({ frame128 with ended := false } : Frame).depth ≤ 0 + 512 ∧ ¬ ({ frame128 with ended := false } : Frame).depth ≤ 0 + 511) := by
  decide

/-- Premises of ClaveProgramEnds: DONE, FAIL and SLOW at their ends, and a budget spent. -/
theorem witness_clave_ends :
    ([(.claveDone 0, 1), (.claveFail 0 0x40, 1), (.claveFail 0 0x7F, 1), (.claveSlow 0 0x80, 1), (.claveSlow 0 0xFF, 1)] : List (Instr × Nat)).all
      (fun x => claveAt (parsing x.1 { cycles := 512 - x.2 } {} 1279) 1279 x.1 x.2) = true := by decide

/-- ADD wraps, SUB below zero, MOVHI keeps the low half, shifts drop bits (Table 2.8). -/
theorem test_clave_arithmetic :
    greg (parsed (.claveAdd 0 2 0 1) { g := [(0, 0xFFFFFFFF), (1, 2)] }) 2 = 1 ∧
    greg (parsed (.claveSub 0 2 0 1) { g := [(1, 2)] }) 2 = 0xFFFFFFFE ∧
    greg (parsed (.claveMovhi 0 2 0xABCD) { g := [(2, 0x12345678)] }) 2 = 0xABCD5678 ∧
    greg (parsed (.claveAddi 0 2 1 0xFFFF) { g := [(1, 1)] }) 2 = 0x10000 ∧
    greg (parsed (.claveShl 0 2 1 31) { g := [(1, 3)] }) 2 = 0x80000000 ∧
    greg (parsed (.claveShr 0 2 1 31) { g := [(1, 0x80000000)] }) 2 = 1 := by decide

/-- Loads are in network order; LDBF takes bits from the least significant of the word (Table 2.8). -/
theorem test_clave_loads :
    greg (parsed (.claveLdw 0 2 4) { cursor := 8 } frame128) 2 = 0x0C0D0E0F ∧
    greg (parsed (.claveLdh 0 2 126) {} frame128) 2 = 0x7E7F ∧
    greg (parsed (.claveLdbf 0 2 4 4 8) { cursor := 8 } frame128) 2 = 0xE0 := by decide

/-- A taken branch costs 2 packet cycles and a branch not taken 1; CALL pushes the next index. -/
theorem test_clave_branches :
    (parsed (.claveBeq 0 1 0 77)).pc = 77 ∧ (parsed (.claveBeq 0 1 0 77)).cycles = 2 ∧ (parsed (.claveBne 0 1 0 77)).pc = 1 ∧
    (parsed (.claveBne 0 1 0 77)).cycles = 1 ∧ (parsed (.claveCall 0 9)).calls = [1] ∧ (parsed (.claveCall 0 9)).pc = 9 := by decide

/-- An access past the window of a frame still arriving stalls; KEYB appends the most significant bit first. -/
theorem test_clave_stall_and_key :
    (parsed (.claveLdb 0 1 128) {} { frame128 with ended := false }).stall = some (.claveLdb 0 1 128) ∧
    (parsed (.claveKeyb 0 1 3) { g := [(1, 6)], key := [true] }).key = [true, true, true, false] := by decide

/-- CRC-32C of "123456789" continued from 0xFFFFFFFF is 0x1CF96D7C before the customary inversion (R68; RFC 3720). -/
theorem test_clave_crc :
    greg (parsed (.claveCrc 0 1 0 9) { g := [(1, 0xFFFFFFFF)] } { bytes := [49, 50, 51, 52, 53, 54, 55, 56, 57], ended := true, depth := 512 }) 1
      = 0x1CF96D7C := by decide


/-! ## Ports -/

theorem witness_clave_budget : (parserOf (parsing (.claveNop 0) {} {} 1279) 1279).frame.isSome = true := by decide

/-- Port 31 enabled at 4 × 200G with PAUSE, its four links up and its lanes locked. -/
def portUp : Dev :=
  { regs := [(rPortCfg 31, 0xF64002)]
    edge := { bps := [124, 125, 126, 127].map (fun b => (b, { link := true, calibrated := true, idleFrom := some 0, cfg := 0xF64002 }))
              phys := [(31, { laneLock := 15, everCal := true })] } }

/-- The same with frame 7 arriving at port 127, waiting in its pipeline. -/
def portRx : Dev :=
  { portUp with edge := { portUp.edge with frames := [(7, { bp := 127, bytes := List.replicate 128 0, len := 200 })], nextFrame := 8,
                                           pipes := [(15, [7])], bps := tput {} portUp.edge.bps 127 { bpOf portUp 127 with rx := some 7 } } }

theorem witness_port_receive :
    bpEnabled portUp 127 = true ∧ (bpOf portUp 127).link = true ∧ (bpOf portUp 127).rx = none ∧ (tget [] portUp.edge.pipes 15).length < 256 ∧
    (List.replicate 60 (0 : Byte)).length + 4 ≤ maxFrameOf portUp 31 := by decide

theorem witness_port_busy :
    256 ≤ (tget [] ({ portUp with edge := { portUp.edge with pipes := [(15, List.replicate 256 1)] } } : Dev).edge.pipes 15).length := by decide

theorem witness_port_bytes :
    (bpOf portRx 127).rx = some 7 ∧ (frameOf portRx 7).ended = false ∧ (frameOf portRx 7).bytes.length + 4 + 4 ≤ (frameOf portRx 7).maxFrame ∧
    (frameOf portRx 7).bp = 127 := by decide

theorem witness_port_dispatch :
    (parserOf portRx 1279).frame = none ∧
    (tget [] portRx.edge.pipes (1279 / 80)).find? (fun k => (frameOf portRx k).ended || decide (128 ≤ (frameOf portRx k).bytes.length)
        || decide (64 ≤ (frameOf portRx k).len ∧ (frameOf portRx k).len - 4 ≤ (frameOf portRx k).bytes.length)) = some 7 := by decide

/-- A PAUSE frame: opcode 1 at byte 14, 0xFFFF quanta. -/
def pauseBytes : List Byte := List.replicate 14 0 ++ [0, 1, 0xFF, 0xFF]

theorem witness_port_pause : pauseModeOf portUp 127 = 1 ∧ word16 pauseBytes 14 = 1 ∧ tget 0 (bpOf portUp 127).pauseEnd 15 ≤ beat portUp := by decide

/-- A PAUSE of 65,535 quanta at 200 Gb/s lasts 167,769.6 ns, rounded up (R168). -/
theorem test_port_pause : tget 0 (bpOf (after (.macControlFrameReceive 127 pauseBytes) portUp) 127).pauseEnd 15 = 167770 := by decide

/-- A frame is received, its bytes follow, and it ends; a dispatched parser starts at its entry. -/
theorem test_port_receive :
    (bpOf (after (.frameReceive 127 200 [1, 2, 3]) portUp) 127).rx = some 1 ∧
    (frameOf (after (.frameBytesArrive 127 [9, 9]) portRx) 7).bytes.length = 130 ∧
    (bpOf (after (.frameEnd 127 [9] true true false) portRx) 127).rx = none ∧
    (parserOf (after (.parserDispatch 1279) portRx) 1279).frame = some 7 := by decide

/-- A port in TX_HOLD since Beat 0 with frames waiting, 20 ms later. -/
def portHeld : Dev :=
  { portUp with time := { beat := 20000000 }
                edge := { portUp.edge with
                  bps := tput {} portUp.edge.bps 127 { bpOf portUp 127 with txHold := true, discarding := true }
                  queues := [(16 * 127 + 15, { items := [{}] })]
                  phys := tput {} portUp.edge.phys 31 { laneLock := 15, everCal := true, recalDue := true, refLost := true } } }

theorem witness_links_up : bpEnabled portUp 127 = true ∧ lanesLocked portUp 127 = true ∧ (physOf portUp 31).calBusy = false := by decide

theorem witness_links_hold :
    (bpOf portHeld 127).idleFrom = some 0 ∧ (bpOf portHeld 127).txHold = true ∧ (bpOf portHeld 127).link = true ∧
    (bpOf portHeld 127).calibrated = true ∧ lanesLocked portHeld 127 = true ∧ 0 + 1000 ≤ beat portHeld ∧
    regFld portHeld (rPortTxhold 31) 16 16 ≠ 0 ∧
    (bpOf portHeld 127).holdFrom + 100000 * regFld portHeld (rPortTxhold 31) 16 16 ≤ beat portHeld := by decide

theorem witness_links_down : (bpOf portUp 127).link = true ∧ (bpOf portUp 127).txHold = false := by decide

theorem witness_links_lanes : (lanesOf (breakoutOf portUp 127) 3).contains 3 = true ∧ bpEnabled portUp 127 = true := by decide

theorem witness_links_discard :
    (bpOf portHeld 127).discarding = true ∧ (physOf portHeld 31).recalDue = true ∧
    anyLink ({ portHeld with edge := { portHeld.edge with bps := [] } }) 31 = false := by decide

theorem witness_links_reference : (physOf portHeld 31).refLost = true ∧ refOf portHeld 31 = 0 ∧ bpEnabled portHeld 127 = true := by decide

/-- Hold times out at 10 ms and empties the queues; a lost lane holds its port and takes its link down. -/
theorem test_links :
    (bpOf (after (.txHoldTimeout 127) portHeld) 127).txHold = false ∧ (queueOf (after (.txHoldTimeout 127) portHeld) 127 15).items = [] ∧
    (bpOf (after (.laneLockLoss 31 3) portUp) 127).txHold = true ∧ (bpOf (after (.laneLockLoss 31 3) portUp) 127).link = false := by decide

theorem witness_edge_registers :
    State.reset.dev.boot.step < 5 ∧ 5 ≤ ({ boot := { step := 5 } } : Dev).boot.step ∧ bitOf (2 ^ 32 - 1 - 2 ^ 24) 24 = false ∧
    (bpOf ({} : Dev) 127).link = false ∧ cfgReserved 0x60000 3 = false ∧ macInBlock ({} : Dev) (macLoOf {} 127 + 0 * 2 ^ 32) = true ∧
    macInBlock ({} : Dev) (macLoOf {} 127 + 65535 * 2 ^ 32) = false := by decide

theorem witness_edge_buffers :
    sharedOk (setReg (rQBuf 127 15) ((regVal {} (rQBuf 127 15) &&& 0x80000) + (0 &&& 0xFFF7FFFF)) {}) 3 = true ∧
    sharedOk (setReg (rQBuf 127 15) ((regVal {} (rQBuf 127 15) &&& 0x80000) + (0xFFFF &&& 0xFFF7FFFF)) {}) 3 = false := by decide


/-! ## Flow tables, match, verdicts and egress -/

/-- Die 3 with messages in both directions, a learned flow of tag 5, and a Beat of 700 s. -/
def flowDev (out : List FlowMsg) (inn : List FlowBack) : Dev :=
  { time := { beat := 700000000000 }
    edge := { flowOut := [(3, out)], flowIn := [(3, inn)], flowTab := [(ftKey 3 5 0, { valid := true, tag := 5 })]
              misses := [(4096 * 3 + 4095, { tag := 5, frames := [9] })]
              fcache := [(setBase 3 5 + 15, { entry := { valid := true, tag := 5, lastSeen := 1 }, dirty := true })] } }

theorem witness_flow_lookup :
    ftFind (flowDev [.lookup 5 0 0 1] []) 3 5 = some (ftKey 3 5 0) ∧ ftFind (flowDev [.lookup 6 0 0 1] []) 3 6 = none ∧
    flowCount (flowDev [.lookup 6 0 0 1] []) 3 < 4194304 ∧
    (insertFlow 3 { valid := true, tag := 6, firstSeen := 1, lastSeen := 1 } (flowPop 3 (flowDev [.lookup 6 0 0 1] []))).isSome = true ∧
    tget [] (flowDev [.lookup 5 0 0 1] []).edge.flowOut 3 = .lookup 5 0 0 1 :: [] ∧ agingNow (flowDev [.lookup 5 0 0 1] []) 3 5 = false ∧
    agingNow (flowDev [.lookup 5 0 0 1, .confirm 5 0] []) 3 5 = true := by decide

theorem tcount_replicate {α : Type} (p : Nat → α → Bool) (k : Nat) (v : α) (n : Nat) (h : p k v = true) :
    tcount p (List.replicate n (k, v)) = n := by
  unfold tcount
  rw [List.filter_eq_self.2 (fun x hx => by rw [List.eq_of_mem_replicate hx]; exact h), List.length_replicate]

theorem tget_replicate {α : Type} (d v : α) (j k n : Nat) (h : j ≠ k) : tget d (List.replicate n (j, v)) k = d := by
  induction n with
  | zero => rfl
  | succ n ih => rw [List.replicate_succ, tget, if_neg h, ih]

/-- A full flow table that lacks tag 0 (its entries have tag 1 and stand at bucket 9 of die 0). -/
theorem witness_flow_full :
    let d : Dev := { edge := { flowOut := [(0, [.lookup 0 0 0 1])], flowTab := List.replicate 4194304 (36, { valid := true, tag := 1 }) } }
    ftFind d 0 0 = none ∧ agingNow d 0 0 = false ∧ 4194304 ≤ flowCount d 0 := by
  intro d
  have h (k : Nat) (hk : 36 ≠ k) : ftAt d k = {} := tget_replicate _ _ _ _ _ hk
  constructor
  · rw [ftFind, List.find?_eq_none]
    intro k hk
    rw [h k (fun e => by subst e; revert hk; decide)]; decide
  · exact ⟨rfl, Nat.le_of_eq (tcount_replicate _ _ _ _ (by decide)).symm⟩

theorem witness_flow_messages :
    tget [] (flowDev [.writeback { valid := true, tag := 5, packets := 2 }] []).edge.flowOut 3 = .writeback { valid := true, tag := 5, packets := 2 } :: [] ∧
    tget [] (flowDev [.confirm 5 0] []).edge.flowOut 3 = .confirm 5 0 :: [] ∧ isIdle (flowDev [] []) 3 (ftAt (flowDev [] []) (ftKey 3 5 0)) = true ∧
    tget [] (flowDev [] [.candidate 5 0 1]).edge.flowIn 3 = .candidate 5 0 1 :: [] ∧
    cacheFind (flowDev [] [.candidate 5 0 1]) 3 5 = some (setBase 3 5 + 15) ∧ cacheFind (flowDev [] []) 3 6 = none ∧
    later32 1 0 = true ∧ later32 1 1 = false ∧ missFind (flowDev [] [.answer 5 none false]) 3 5 = some (4096 * 3 + 4095) ∧
    missFind (flowDev [] [.answer 6 none false]) 3 6 = none := by decide

/-- A miss is learned and answered; an idle entry that is confirmed is aged; a candidate touched since is written back (R109, R111). -/
theorem test_flow :
    tget [] (after (.flowLookupOrInsert 3) (flowDev [.lookup 6 0 0 7] [])).edge.flowIn 3
      = [.answer 6 (some { valid := true, tag := 6, firstSeen := 7, lastSeen := 7 }) true] ∧
    ftFind (after (.flowAgingConfirm 3) (flowDev [.confirm 5 0] [])) 3 5 = none ∧
    tget [] (after (.flowAgingCandidate 3) (flowDev [] [.candidate 5 0 0])).edge.flowOut 3
      = [.writeback { valid := true, tag := 5, lastSeen := 1 }] ∧
    tget [] (after (.flowAgingCandidate 3) (flowDev [] [.candidate 5 0 1])).edge.flowOut 3 = [.confirm 5 0] := by decide

/-- Breakout port 127 with a parsed frame first in order; a rule in the last stash slot of die 3, of table 15; deep request 65,535 of die 3. -/
def deepDev (q : DeepReq) (now : Nat) : Dev :=
  { time := { beat := now }
    ctxs := [(4095, { exist := true, clusters := [95], versions := [(0, { present := true })] })]
    edge := { bps := [(127, { order := [1], link := true })]
              frames := [(1, { bp := 127, stage := .parsed, ended := true, bytes := List.replicate 60 0, len := 64, depth := 512 })]
              rules := [(stashKey 3 15, { used := true, table := 15, key := [1] })]
              deep := [(65536 * 3 + 65535, { q with used := true, context := 4095 })], deepFifo := [(3, [65535])] }
    comp := { clusters := [(95, { power := 0 })] } }

theorem witness_match :
    (bpOf (deepDev {} 0) 127).order = 1 :: [] ∧ (frameOf (deepDev {} 0) 1).stage = .parsed ∧ (frameOf (deepDev {} 0) 1).ended = true ∧
    (frameOf (deepDev {} 0) 1).bp = 127 ∧ (ruleAt (deepDev {} 0) (stashKey 3 15)).used = true ∧
    (List.range 15).all (fun j => !(ruleAt (deepDev {} 0) (stashKey 3 j)).used) = true ∧
    (ruleAt (deepDev {} 0) (stashKey 3 15)).second = false ∧ (ruleAt (deepDev {} 0) (stashKey 3 15)).wide = false ∧
    (insertBuckets 3 (ruleAt (deepDev {} 0) (stashKey 3 15)) (0, 0) (deepDev {} 0)).isSome = true := by decide

theorem witness_deep :
    fifoOf (deepDev {} 1) 3 = 65535 :: [] ∧ (deepOf (deepDev { deadline := 0 } 1) 3 65535).deadline < beat (deepDev {} 1) ∧
    pickCluster (deepDev { deadline := 1 } 1) 3 (ctxOf (deepDev {} 1) 4095).clusters = some 95 ∧
    beat (deepDev {} 1) ≤ (deepOf (deepDev { deadline := 1 } 1) 3 65535).deadline ∧
    issueTok ≤ bkLevel (256 * issueTok) 1 1 (tget {} (deepDev {} 1).edge.deepBk 3) ∧
    (deepOf (deepDev { issued := true } 1) 3 65535).used = true ∧ frozenCluster (deepDev {} 1) 95 = false ∧
    clusterPower (deepDev {} 1) 95 = 0 ∧ (ctxOf (deepDev {} 1) 4095).exist = true ∧ (ctxVer (deepDev {} 1) 4095 0).present = true ∧
    (ctxVer (deepDev {} 1) 4095 0).fb = none ∧ (deepOf (deepDev {} 1) 3 65535).settled = false := by decide

/-- A request issues at its deadline and not a nanosecond later; its result gives the credit back (R140, R142, R146). -/
theorem test_deep :
    (deepOf (after (.deepRequestIssue 3) (deepDev { deadline := 1 } 1)) 3 65535).cluster = 95 ∧
    creditsUsed (after (.deepRequestIssue 3) (deepDev { deadline := 1 } 1)) 3 95 = 1 ∧
    (deepOf (after (.deepRequestIssue 3) (deepDev { deadline := 1 } 2)) 3 65535).used = false ∧
    (deepOf (after (.inferenceResult 3 65535 0 0 0 []) (deepDev { deadline := 1, issued := true, arrived := true, cluster := 95 } 0)) 3 65535).used
      = false := by decide

/-- Port 127 up with 64-byte frames in queues 0 and 15; `strict` makes queue 15 strict. -/
def egressDev (strict : Bool) : Dev :=
  { portUp with regs := portUp.regs ++ (if strict then [(rQCfg 127 15, 24 * 65536 + 15)] else []) ++ [(rSampleCfg 127, 0xFFFF0001)]
                edge := { portUp.edge with queues := [(16 * 127, { items := [{}] }), (16 * 127 + 15, { items := [{ len := 65 }] })]
                                           interDie := [(0, 127, 0, {})], pfcX := [(16 * 127 + 8, true), (16 * 127, true)] } }

theorem witness_egress_select :
    (bpOf (egressDev true) 127).link = true ∧ (bpOf (egressDev true) 127).txHold = false ∧ bpEnabled (egressDev true) 127 = true ∧
    txOf (egressDev true) 127 = none ∧ gateEn (egressDev true) 127 = false ∧ eligible (egressDev true) 127 15 = true ∧
    isStrict (egressDev true) 127 15 = true ∧
    (List.range 16).all (fun x => !(eligible (egressDev false) 127 x && isStrict (egressDev false) 127 x)) = true ∧
    eligible (egressDev false) 127 0 = true ∧ (dwrr (egressDev false) 127 4096 (bpOf (egressDev false) 127)).1.isSome = true ∧
    (queueOf (egressDev true) 127 15).items = { len := 65 } :: [] := by decide

theorem witness_egress_done :
    txOf ({ egressDev true with edge := { (egressDev true).edge with txNow := [(127, some {})] } }) 127 = some {} ∧ ({} : EItem).whole = true ∧
    (egressDev true).edge.interDie.find? (fun x => x.1 == 0 && x.2.1 / 32 == 3) = some (0, 127, 0, {}) ∧
    tget false (egressDev true).edge.pfcX (16 * 127 + 8) = true ∧ regFld (egressDev true) (rSampleCfg 127) 0 16 ≠ 0 := by decide

/-- Frames of 2,049 cells in a queue of priority 0 of port 127, and xoff and xon of 0. -/
theorem witness_egress_refresh :
    let d : Dev := { egressDev true with regs := [(rPfcThresh 127, 0)], edge := { (egressDev true).edge with queues := [(16 * 127, { items := [{ src := some 1, cells := 2049, inBp := 127 }] })] } }
    tget false d.edge.pfcX (16 * 127 + 0) = true ∧
    min (4 * regFld d (rPfcThresh 127) 16 16) (4 * regFld d (rPfcThresh 127) 0 16) < pfcCount d 127 0 := by decide

/-- The strict queue 15 goes first and pays no deficit; without strict queues the first round finds queue 0 without its quantum, and
queue 15 pays 85 bytes of its 1,536 (R163, R164). -/
theorem test_egress :
    tget 0 (after (.txSelect 127) (egressDev true)).edge.txQueue 127 = 15 ∧
    tget 0 (bpOf (after (.txSelect 127) (egressDev true)) 127).deficit 15 = 0 ∧
    tget 0 (after (.txSelect 127) (egressDev false)).edge.txQueue 127 = 15 ∧
    tget 0 (bpOf (after (.txSelect 127) (egressDev false)) 127).deficit 15 = 1451 := by decide

/-- Gates of port 127 with a swap pending for 5 s, at 5 s; the edge dies are up. -/
def gateDev (pending : Bool) : Dev :=
  { time := { todNs := 5000000000 }, boot := { step := 5 }, edge := { gates := [(127, { pending, due := 5000000000 })] } }

theorem witness_gates :
    5 ≤ (gateDev true).boot.step ∧ bitOf 2 1 = true ∧ (gatesOf (gateDev false) 127).pending = false ∧ (gatesOf (gateDev true) 127).pending = true ∧
    (gatesOf (gateDev true) 127).due ≤ (gateDev true).time.todNs := by decide

/-- A swap armed at 5 s for base 0 and a cycle of 1 ms is due at once; a list length out of range acts as 256 (R174). -/
theorem test_gates :
    (gatesOf (after (.gateSwapArm 127 0x2022) (gateDev false)) 127).due = 5000000000 ∧
    (gatesOf (after (.gateListSwap 127) (gateDev true)) 127).bank = true ∧
    bitOf (regVal (after (.gateSwapArm 127 2) (gateDev true)) (rGateCtrl 127)) 4 = true := by decide


/-! ## Tabla cores -/

/-- Core 767 with state `k` runs invocation 1 of a context whose program has 16 instructions; `cached` is its cache mode. -/
def coreDev (k : Core := {}) (cached : Bool := false) : Dev :=
  { ctxs := [(0, { exist := true, clusters := [95], versions := [(0, { present := true, progs := [16], cached })] })]
    parts := [(0, { pfPart 0 with clusters := 2 ^ 95 }), (1, pfPart 1)]
    comp := { cores := [(767, { k with inv := 1 })], clusters := [(95, { power := 0 })]
              invs := [(1, { cluster := 95, mask := 128, running := 128 })] } }

/-- The core after an instruction. -/
def cored (i : Instr) (k : Core := {}) : Core := coreOf (after i (coreDev k)) 767

theorem witness_core_scalar :
    coreReady (coreDev { pc := 15 }) 767 = true ∧ coreReady (coreDev { pc := 15, icache := [(3, [3])] } true) 767 = true ∧
    sreg { regs := [(31, 63)] } 31 < 64 ∧ ¬ sreg { regs := [(31, 64)] } 31 < 64 := by decide

theorem witness_core_control :
    (coreAt (coreDev { calls := [7] }) 767).calls = 7 :: [] ∧ (coreAt (coreDev { loops := List.replicate 3 (0, 0, 0) }) 767).loops.length < 4 ∧
    drained (coreAt (coreDev { engines := [(0, { run := [{ instr := .accClr 767 0 0 1 none, layer := 0, op := 0 }] })] }) 767) = false ∧
    drained (coreAt (coreDev) 767) = true ∧ (coreAt (coreDev) 767).winLate = [] ∧
    setBits (invOf (coreDev) 1).running 7 1 0 = 0 ∧ (invOf (coreDev) 1).mask ≠ 0 ∧
    setBits (invOf ({ coreDev with comp := { (coreDev).comp with invs := [(1, { mask := 129, running := 129 })] } } : Dev) 1).running 7 1 0 ≠ 0 := by decide

theorem witness_core_faults :
    physArray (coreDev) 767 8 = none ∧ (physArray (coreDev) 767 7).isSome = true ∧ 64 < 64 + 1 ∧ arrayFmt 7 = true ∧ arrayFmt 13 = true ∧
    fmtIsInt 7 ≠ fmtIsInt 13 ∧ (invOf (coreDev) 1).mask = 2 ^ (767 % 8) ∧ (invOf (coreDev) 1).cluster = 767 / 8 ∧
    (invOf (coreDev) 1).serve = .none ∧ (engOf (coreAt (coreDev) 767) 10).run = [] ∧ (coreAt (coreDev) 767).calls = [] ∧
    4 ≤ (coreAt (coreDev { loops := List.replicate 4 (0, 0, 0) }) 767).loops.length ∧
    engFault (fetched 767 (coreDev)) 767 (.accClr 767 7 63 2 none) = some .accRange ∧
    (coreOf (coreDev { pc := 16 }) 767).stall = none ∧ frozenCluster (coreDev) 95 = false ∧ (coreVer (coreDev) 767).cached = false ∧
    progLen (coreDev { pc := 16 }) 767 ≤ 16 := by decide

/-- Scalar arithmetic wraps at 64 bits, s0 stays 0, SAR keeps the sign (Table 6.2). -/
theorem test_core_scalar :
    sreg (cored (.scalarAdd 767 1 2 3) { regs := [(2, 2 ^ 64 - 1), (3, 2)] }) 1 = 1 ∧
    sreg (cored (.scalarSub 767 1 2 3) { regs := [(3, 1)] }) 1 = 2 ^ 64 - 1 ∧ sreg (cored (.li 767 0 5)) 0 = 0 ∧
    sreg (cored (.sar 767 1 2 3) { regs := [(2, 2 ^ 63), (3, 63)] }) 1 = 2 ^ 64 - 1 ∧
    sreg (cored (.mul 767 1 2 3) { regs := [(2, 2 ^ 63), (3, 3)] }) 1 = 2 ^ 63 := by decide

/-- A LOOP of 2 runs its body twice; RET pops; a fifth loop and an empty RET are ILLEGAL_INSTR, which end the invocation. -/
theorem test_core_control :
    (cored (.loop 767 2 1)).loops = [(1, 2, 2)] ∧ (cored (.li 767 1 0) { pc := 1, loops := [(1, 2, 2)] }).pc = 1 ∧
    (cored (.li 767 1 0) { pc := 1, loops := [(1, 2, 1)] }).pc = 2 ∧ (cored (.scalarRet 767) { calls := [9] }).pc = 9 ∧
    regVal (after (.scalarRet 767) (coreDev { pc := 3 })) (rCoreFault 767) = Cause.illegalInstr.code + 16 + 3 * 256 ∧
    (cored (.scalarRet 767)).inv = 0 := by decide

/-- Cluster 95 with barrier 3 of T6 and T7, where T6 waits; semaphore 15 at 65,535 and a waiter of 3 on semaphore 8. -/
def syncDev : Dev :=
  { coreDev with comp := { (coreDev).comp with
      cores := [(765, { inv := 1, stall := some (.swait 765 8 3) }), (766, { inv := 1, stall := some (.bar 766 3) }), (767, { inv := 1, tokens := [(31, 2)] })]
      clusters := [(95, { power := 0, bars := [(2, { mask := 256 + 128, arrived := 128 }), (3, { mask := 192, arrived := 64 })], sems := [(15, { value := 65535 })]
                          sigIn := [{ src := 0, sem := 15, n := 1, part := 0 }] })] } }

theorem witness_sync :
    (coreAt syncDev 767).winLate.contains (some 31) = false ∧ coreReady syncDev 767 = true ∧ bitOf (barOf syncDev 95 3).mask 7 = true ∧
    (List.range 8).all (fun w => (semWait syncDev 95 15 w).isNone) = true ∧ semWait syncDev 95 8 5 = some 3 ∧
    (List.range 8).all (fun w => w == 5 || (semWait syncDev 95 8 w).isNone) = true ∧ 3 ≤ (semOf syncDev 95 8).value + 3 ∧
    (clusterOf syncDev 95).sigIn = { src := 0, sem := 15, n := 1, part := 0 } :: [] ∧ ownsCluster syncDev 0 95 = true ∧ ownsCluster syncDev 1 95 = false ∧
    (coreOf syncDev 0).inv = 0 ∧ frozenCluster syncDev 95 = false ∧ bitOf (barOf syncDev 95 2).mask 8 = true ∧
    setBits (barOf ({ syncDev with comp := { syncDev.comp with clusters := [(95, { bars := [(2, { mask := 257 })] })] } }) 95 2).arrived 8 1 1 ≠ 257 ∧
    (barOf syncDev 95 2).arrived ≠ 0 ∧ (511 : Nat) ≠ (barOf syncDev 95 2).mask ∧ (barOf syncDev 95 0).arrived = 0 := by decide

theorem witness_icache :
    (coreOf (coreDev { fetchMiss := true, stall := some (.li 767 31 1) } true) 767).inv ≠ 0 ∧
    (coreOf (coreDev { fetchMiss := true, stall := some (.li 767 31 1) } true) 767).stall = some (.li 767 31 1) ∧
    (coreVer (coreDev {} true) 767).cached = true ∧ frozenCluster (coreDev {} true) 95 = false := by decide

/-- The last arrival opens the barrier for both; SIG saturates at 65,535 and counts; a signal wakes the waiter it satisfies. -/
theorem test_sync :
    (coreOf (after (.bar 767 3) syncDev) 766).stall = none ∧ (coreOf (after (.bar 767 3) syncDev) 766).pc = 1 ∧
    (barOf (after (.bar 767 3) syncDev) 95 3).arrived = 0 ∧ (semOf (after (.sig 767 15 1) syncDev) 95 15).value = 65535 ∧
    ctrVal (after (.sig 767 15 1) syncDev) .semOverflowEvents 760 0 = 1 ∧ (coreOf (after (.sig 767 8 3) syncDev) 765).pc = 1 ∧
    (semOf (after (.sig 767 8 3) syncDev) 95 8).last = 5 ∧ tget 0 (coreOf (after (.tokWait 767 31 2) syncDev) 767).tokens 31 = 0 := by decide


/-! ## Engines, scratchpad and arrays -/

/-- Handle 63: LOCAL, interleaved over 12 banks from row 0, 768 rows, writable; handle 0 the same, read only. -/
def handleAll : Nat := 1 + 12 * 32 + 768 * 2 ^ 33

/-- Core 767 with all of its scratchpad behind handles 63 and, read only, 0; its partition owns every cluster. -/
def engDev (k : Core := {}) : Dev :=
  { coreDev { k with handles := [(0, handleAll + 4), (63, handleAll)] } with
    parts := [(0, { pfPart 0 with clusters := 2 ^ 96 - 1, frames := 1 })] }

/-- An operand of handle 63 at row `r`. -/
def at63 (r : Nat) : Ref := { h := 63, row := r }

/-- INT8 operands of an MM of 2 rows on array 7, to accumulator rows 62 and 63. -/
def mmOp : MmOp := { arr := 7, wFmt := 7, aFmt := 7, w := [at63 0], a := at63 1, aStride := 16, m := 2, accBase := 62 }

theorem witness_engine_starts :
    ([.mm 767 mmOp 0, .mmG4 767 { mmOp with arr := 4, w := [at63 0, at63 1, at63 2, at63 3] } 1,
      .as 767 { arr := 7, wFmt := 7, aFmt := 7, b := 16, act := at63 0, w := at63 1, accBase := 63 }, .asld 767 { arr := 7, wFmt := 7, aFmt := 7, b := 1, act := at63 0 },
      .op 767 { arr := 0, wFmt := 13, aFmt := 13, t := 1, x := at63 0, xStride := 32, g := at63 1, gStride := 32, accBase := 48 },
      .accOut 767 { arr := 7, accBase := 63, n := 1, fp := false, dst := at63 0 }, .accClr 767 7 63 1 (some 31), .vld 767 31 (at63 767) 1 none,
      .vst 767 31 (at63 767) none, .vectorElementwise 767 .fma 15 31 0 0 0 none, .vectorElementwise 767 .select 7 0 0 0 0 none,
      .vred 767 0 7 31 0 none, .vcvt 767 { srcFmt := 15, src := at63 0, srcStride := 64, dst := at63 1, dstStride := 16, rows := 1, cols := 16, rq := { dstFmt := 7 } },
      .vrq 767 { srcFmt := 14, src := at63 0, srcStride := 64, dst := at63 1, dstStride := 16, rows := 1, cols := 16, rq := { dstFmt := 7 } },
      .vlut 767 31 0 (at63 0) none, .vectorPermute 767 2 4 0 0 0 31 none, .pealLoad 767 0 (at63 0) 1 0 none,
      .pealEval 767 { share := 0, nFeatures := 1, v := 1, vec := at63 0, res := at63 1, mode := 0 } 1,
      .dmaIn 767 { space := 1, loc := at63 0, n := 1 }, .dmaOut 767 { space := 2, loc := at63 767, n := 1 },
      .gather 767 { slot := 255, keys := at63 0, n := 1, dst := at63 1 }, .winRd 767 0 0 7 0 8 (at63 760) none, .winWr 767 7 767 0 0 1 (at63 0) none,
      .sld 767 31 (at63 767) 8 1 none, .sst 767 0 (at63 0) 1 none, .fill 767 (at63 767) 1 0xFFFFFFFF none, .copy 767 (at63 0) (at63 1) 0 1 none,
      .tcopy 767 (at63 0) (at63 16) 4 none, .sread 767 (at63 0) (at63 767) 1 4 0 1 none] : List Instr).all
      (fun i => wellFormed i && startsNow (engDev) 767 i) = true := by decide

/-- An ACC.CLR in a queue or running on array 7's engine, and full queues. -/
def clr (tok : Option Nat) : EngOp := { instr := .accClr 767 7 0 1 tok, layer := 0, op := 0 }

theorem witness_engine_queues :
    enginesOf (engNote 767 (clr none).instr (fetched 767 (engDev))) 767 (clr none).instr = [7] ∧ engineCore (clr none).instr = some 767 ∧
    (engOf (coreOf (engDev { engines := [(7, { run := [clr none] })] }) 767) 7).run ≠ [] ∧
    engFault (fetched 767 (engDev { engines := [(7, { run := [clr none] })] })) 767 (clr none).instr = none ∧
    (engOf (coreOf (engDev { engines := [(7, { queue := List.replicate 8 (clr none) })] }) 767) 7).queue.length = 8 ∧
    canStart (engDev { engines := [(7, { queue := [clr none] })] }) 767 (clr none) = true ∧ frozenCluster (engDev) 95 = false ∧
    (coreOf (engDev) 767).stall = none ∧ tokenOf (clr none).instr = none ∧ tokenOf (clr (some 31)).instr = some 31 ∧
    tget 0 (coreOf (engDev { tokens := [(31, 254)] }) 767).tokens 31 < 255 ∧
    (coreOf (engDev { stall := some (.tokWait 767 31 255), tokens := [(31, 254)] }) 767).stall = some (.tokWait 767 31 255) ∧
    (255 : Nat) ≤ tget 0 (coreOf (engDev { tokens := [(31, 254)] }) 767).tokens 31 + 1 := by decide

/-- The effect of ACC.CLR leaves its core's wait as it was, whatever the device. -/
theorem witness_engine_start_keeps (d : Dev) :
    (coreOf (engEff 767 (0, 0) (clr none).instr d) 767).stall = (coreOf d 767).stall := by
  simp only [clr, engEff, accClrEff]
  split
  · rfl
  · simp [Laws.coreOf_modCore_same, setAccRow]

/-- A DMA between HBM frame 0 and row 767. -/
def dmaOp : DmaOp := { space := 1, addr := 0, loc := at63 767, n := 1 }

theorem witness_dma :
    corePart (engDev) 767 = some 0 ∧ (refRows (engDev) 767 .dma { dmaOp.loc with off := 0 } 512 true).isSome = true ∧
    ((refRows (engDev) 767 .dma { dmaOp.loc with off := 0 } 512 true).getD []).Nodup ∧ frameOk (engDev) 0 0 512 = true ∧ hbmBad (engDev) 0 512 = false ∧
    hbmWriteOk (engDev) 0 0 512 = true ∧ refOk (engDev) 767 .dma { dmaOp.loc with off := 0 } 512 false = true ∧
    (engOf (coreOf (engDev { engines := [(10, { run := [{ instr := .dmaIn 767 dmaOp, layer := 0, op := 0 }] })] }) 767) 10).run.find?
      (fun i => (dmaOf i.instr).isSome) = some { instr := .dmaIn 767 dmaOp, layer := 0, op := 0 } := by decide

/-- A GATHER of nothing missing. -/
def gatherOp : GatherOp := { slot := 0, keys := at63 0, n := 1, dst := at63 1 }

theorem witness_gather :
    (engOf (coreOf (engDev { engines := [(10, { run := [{ instr := .gather 767 gatherOp, layer := 0, op := 0 }] })] }) 767) 10).run.find? isGather
      = some { instr := .gather 767 gatherOp, layer := 0, op := 0 } ∧ tokenOf (.gather 767 gatherOp) = none ∧
    tget none ({ engDev with store := { gathers := [(767, some { op := gatherOp })] } } : Dev).store.gathers 767 = some { op := gatherOp } := by decide

/-- A token granted at completion wakes the wait it satisfies; an instruction for a busy engine waits in its queue, and stalls at a
full one. -/
theorem test_engines :
    (coreOf (after (.engineComplete 767 7) (engDev { engines := [(7, { run := [clr (some 31)] })], stall := some (.tokWait 767 31 1) })) 767).pc = 1 ∧
    (engOf (coreOf (after (.accClr 767 7 0 1 none) (engDev { engines := [(7, { run := [clr none] })] })) 767) 7).queue.length = 1 ∧
    (coreOf (after (.accClr 767 7 0 1 none) (engDev { engines := [(7, { queue := List.replicate 8 (clr none) })] })) 767).stall = some (.accClr 767 7 0 1 none) := by
  decide

theorem witness_spad :
    refRows (engDev) 767 .seq (at63 767) 512 true = some [767] ∧ (List.replicate 512 (0 : Byte)).length = 512 ∧
    (hEnt (tget 0 (coreOf (engDev) 767).handles 0)).readOnly = true ∧ (hEnt (tget 0 (coreOf (engDev) 767).handles 1)).valid = false ∧
    (hEnt (tget 0 (coreOf (engDev) 767).handles 63)).rows ≤ 768 ∧ (List.replicate 32 (2 ^ 32 - 1)).length = 1024 / 32 ∧
    (fmtInfo 7).qmin ≤ intOfCode 7 127 + intOfCode 7 0 ∧ intOfCode 7 127 + intOfCode 7 0 ≤ (fmtInfo 7).qmax ∧ (127 : Nat) < 2 ^ (fmtInfo 7).bits := by decide

/-- 2 × 3 in the first column of an INT8 tile adds 6 to accumulator row 62; saturation at the INT32 bounds (R194, R196). -/
theorem test_arrays :
    lget 0 (accRow (coreOf (after (.mm 767 mmOp 0) (engDev { spad := [(0, 2), (512, 3)], acc := [(1024 * 7 + 16 * 62, 10)] })) 767) 7 62) 0 = 16 ∧
    (accAdd true 0x7FFFFFFF (vInt 1)) = (0x7FFFFFFF, true) ∧ (accAdd true 0x80000000 (vInt (-1))) = (0x80000000, true) := by decide

theorem witness_arrays :
    physArray (engDev) 767 (7 + 0) = some 7 ∧ mmOp.ps = [] ∧ mmOp.accBase + mmOp.m ≤ 64 ∧ (63 : Nat) + 1 ≤ 64 := by decide


/-! ## Windows, Peal stores and clusters -/

/-- `n` zero bytes with fields (offset, length, value) written over them. -/
def fieldBytes (n : Nat) (fs : List (Nat × Nat × Nat)) : List Byte :=
  fs.foldl (fun bs x => bs.take x.1 ++ toLe x.2.1 x.2.2 ++ bs.drop (x.1 + x.2.1)) (zeroBytes n)

/-- A submission-queue entry. -/
def sqe (fs : List (Nat × Nat × Nat)) : List Byte := fieldBytes 64 fs

/-- Command 5 of pair 8191, whose function is bound to partition 63, which owns cluster 95. -/
def cmdDev (fs : List (Nat × Nat × Nat)) (k : Core := {}) (st : Nat := 0) (power : Nat := 0) : Dev :=
  { parts := [(0, { pfPart 0 with clusters := 1 }), (63, { pfPart 0 with fn := 127, clusters := 2 ^ 95, frames := 1 })]
    cmds := [(5, { q := 8191, bytes := sqe fs, st })]
    comp := { cores := [(767, k)], clusters := [(95, { power })] } }

/-- Window 7 of core 767: all of its scratchpad, readable, for partition 63. -/
def win7 : Window := { isOpen := true, base := 0, rows := 768, rd := true, part := 63 }

theorem witness_window_commands :
    cmdReady (cmdDev [(0, 1, 0x40), (26, 2, 768)]) 0x40 8191 5 = true ∧
    (let m := cmdOf (cmdDev [(0, 1, 0x40), (26, 2, 768)]) 5; cmdFld m 26 2 = 768) ∧
    (let d := cmdDev [(0, 1, 0x40), (26, 2, 7)]; cmdReady d 0x40 8191 5 = true ∧ cmdPart d (cmdOf d 5) = 63 ∧ ownsCluster d 63 (7 / 8) = false) ∧
    (let d := cmdDev [(0, 1, 0x40), (24, 1, 7), (25, 1, 6), (26, 2, 767), (28, 2, 767), (30, 2, 1)]
     let m := cmdOf d 5
     cmdReady d 0x40 8191 5 = true ∧ cmdFld m 26 2 = 767 ∧ ownsCluster d (cmdPart d m) 95 = true ∧ cmdFld m 24 1 = 7 ∧ cmdFld m 30 2 = 1 ∧
     cmdFld m 28 2 + cmdFld m 30 2 ≤ localRows d 767 ∧ cmdFld m 25 1 % 4 ≠ 0 ∧ (winOf d 767 7).isOpen = false) ∧
    (let d := cmdDev [(0, 1, 0x41), (24, 1, 7), (26, 2, 767)] { windows := [(7, win7)] }
     cmdReady d 0x41 8191 5 = true ∧ ownsCluster d (cmdPart d (cmdOf d 5)) 95 = true ∧ (winOf d 767 7).isOpen = true ∧ (winOf d 767 6).isOpen = false) ∧
    (let m := cmdOf (cmdDev [(0, 1, 0x41)] {} 1) 5; m.q = 8191 ∧ opcodeOf m = 0x41 ∧ m.st = 1) := by decide

/-- An access of core 767 to rows 760 to 767 of its window 7. -/
def winMsg : WinMsg := { src := 767, dst := 767, win := 7, row := 760, n := 8, write := false, part := 63 }

/-- Core 767 with window 7, window messages on their way in and back, and the window instruction of `a` at its DMA engine. -/
def winDev (back : List WinMsg) (a : WinMsg) (w : Window := win7) (power : Nat := 0) : Dev :=
  { cmdDev [] with comp := {
      cores := [(767, { inv := 1, windows := [(7, w)], engines := [(10, { run := [{ instr := winInstr a, layer := 0, op := 0 }] })] })]
      clusters := [(95, { power })], winIn := [a], winBack := back } }

theorem witness_windows :
    (let d := winDev [] winMsg; d.comp.winIn.find? (fun m => m.dst == 767 && m.pkg == ownPkg d) = some winMsg ∧ clusterPower d 95 ≠ 2 ∧
      winCheck d winMsg false = 0) ∧
    (let d := winDev [] winMsg {}; d.comp.winIn.find? (fun m => m.dst == 767 && m.pkg == ownPkg d) = some winMsg ∧ winCheck d winMsg false ≠ 0) ∧
    (let a := { winMsg with write := true, data := [1] }; let d := winDev [] a { win7 with wr := true }
      d.comp.winIn.find? (fun m => m.dst == 767 && m.pkg == ownPkg d) = some a ∧ winCheck d a false = 0) ∧
    (let d := winDev [] winMsg win7 2; d.comp.winIn.find? (fun m => m.dst == 767 && m.pkg == ownPkg d) = some winMsg ∧ clusterPower d 95 = 2) := by decide

theorem witness_window_answers :
    (let d := winDev [winMsg] winMsg; (coreOf d 767).stall = none ∧ winWaits d winMsg = true ∧ (coreOf d 767).inv ≠ 0 ∧
      d.comp.winBack.find? (fun m => m.src == 767 && !m.write) = some winMsg ∧ winMsg.cause = 0 ∧ winMsg.tok = none) ∧
    (let a := { winMsg with write := true, tok := some 31 }; let d := winDev [a] a
      (coreOf d 767).stall = none ∧ winWaits d a = true ∧ (coreOf d 767).inv ≠ 0 ∧
      d.comp.winBack.find? (fun m => m.src == 767 && (m.write && m.cause == 0)) = some a ∧ tget 0 (coreOf d 767).tokens 31 < 255) ∧
    (let a := { winMsg with write := true, cause := 5 }; let d := winDev [a] a
      winWaits d a = true ∧ d.comp.winBack.find? (fun m => m.src == 767 && (m.write && m.cause != 0)) = some a) := by decide

/-- Context 4095 with cluster 95, whose version of tag 2 is present under ID 9. -/
def launchDev (cl : Cluster := { power := 0 }) (k : Core := {}) (sh : List Share := []) : Dev :=
  { cmdDev [] with ctxs := [(4095, { exist := true, clusters := [95], versions := [(2, { present := true, vid := 9, shares := sh })] })]
                   comp := { cores := [(767, k)], clusters := [(95, cl)] } }

theorem witness_launch :
    launchOk (launchDev) 95 255 4095 2 .none = true ∧ launchOk (launchDev) 95 1 4095 2 .none = true ∧
    launchOk (launchDev { power := 2 }) 95 255 4095 2 .none = false ∧ bitOf 1 0 = true ∧ bitOf 1 7 = false := by decide

theorem witness_cluster_reload :
    (let d := launchDev {} { pregs := [{ ctx := 4095, vid := 9, share := 0, st := 2 }] } [{ leaves := [1], trees := [{}], nodes := [{}] }]
     (coreOf d 767).pregs.any (fun r => r.ctx == 4095 && r.vid == (ctxVer d 4095 2).vid && r.share == 0) = true) ∧
    (let d := launchDev { power := 0, reload := [9] }
     (clusterOf d 95).reload.contains (ctxVer d 4095 2).vid = true ∧ (clusterOf d 95).zeroing = false ∧ 767 / 8 = 95 ∧ 767 < localRows d 767) ∧
    (List.replicate 512 (1 : Byte)).length = 512 := by decide

/-- An access beyond the window is refused with cause 2, which WIN_FAULT holds as kind 18 beside the window's number. -/
theorem test_windows :
    (let d := after (.windowAccessArrive 767 0) (winDev [] { winMsg with row := 761 })
     bitsOf (regVal d (rWinFault 767)) 0 5 = 18 ∧ bitsOf (regVal d (rWinFault 767)) 5 3 = 7 ∧ (lget winMsg d.comp.winBack 0).cause = 2) ∧
    (winOf (after (.windowOpen 8191 5) (cmdDev [(0, 1, 0x40), (24, 1, 7), (25, 1, 1), (26, 2, 767), (30, 2, 768)])) 767 7) = win7 ∧
    (coreOf (after (.invocationLaunch 95 128 4095 2 .none [] []) (launchDev { power := 0 } { pc := 9, calls := [1] })) 767).pc = 0 := by decide


/-! ## Rings -/

/-- Function 127 (port 1, VF 63) after boot with pair 8191, record ring 16 and one DMA window of `pages` pages from 0 that it may read and
write: the SQ at 0, the CQ at 1024. -/
def ringDev (p : Pair := {}) (g : RRing := {}) (fs : List (Nat × Nat × Nat) := []) (st : Nat := 0) (pages : Nat := 1) : Dev :=
  setReg (rRqBase 127 16) 2048 (setReg (rCqBase 8191) 1024
    { cmdDev fs {} st with
      regs := [(0x4008, pages), (0x400C, 1 + 2 + 4 + 8 + 63 * 16)], boot := { step := 6 }
      cmds := if fs.isEmpty then [] else (cmdDev fs {} st).cmds, nextTkt := 6
      pairs := [(8191, p)], rrings := [(32 * 127 + 16, g)] })

theorem witness_doorbells :
    (let p := pairOf (ringDev { enabled := true }) 8191
     let g := rringOf (ringDev {} { enabled := true }) 4080
     p.enabled = true ∧ p.error = false ∧ g.enabled = true ∧ g.error = false) ∧
    (pairOf (ringDev) 8191).enabled = false ∧ (rringOf (ringDev) 4080).enabled = false ∧ outstanding (ringDev) 8191 = 0 ∧
    (pairOf (ringDev { enabled := true, error := true }) 8191).error = true ∧ (rringOf (ringDev {} { enabled := true, error := true }) 4080).error = true ∧
    sqDepth (ringDev) 8191 = 16 ∧ cqDepth (ringDev) 8191 = 16 ∧ rqDepth (ringDev) 4080 = 16 ∧
    pairCfgOk (ringDev) 8191 (setBits 0 0 1 1 % 2 ^ 20) = true ∧ pairCfgOk (ringDev) 8191 (setBits (12 * 2) 0 1 1 % 2 ^ 20) = false ∧
    rringCfgOk (ringDev) 4080 (setBits 0 0 1 1 % 2 ^ 31) = true ∧
    regVal (ringDev) (rRingCfg 8191) / 2 = setBits 1 0 1 0 % 2 ^ 20 / 2 ∧ regVal (ringDev) (rRqCfg 127 16) / 2 = setBits (2 ^ 19 + 1) 0 1 0 % 2 ^ 31 / 2 := by decide

/-- The pair with one entry at the head of its SQ. -/
def fetchDev (fs : List (Nat × Nat × Nat)) (pages : Nat := 1) : Dev :=
  hostWrite 127 0 (sqe fs) (ringDev { enabled := true, sqTail := 1 } {} [] 0 pages)

theorem witness_fetch :
    mayFetch (ringDev) 8191 = false ∧
    (let d := fetchDev [(0, 1, 1)]; mayFetch d 8191 = true ∧ dmaOk d 127 (base64 d (rSqBase 8191) + 64 * (pairOf d 8191).sqHead) 64 false = true) ∧
    (let d := fetchDev [] 0; mayFetch d 8191 = true ∧ dmaOk d 127 (base64 d (rSqBase 8191) + 64 * (pairOf d 8191).sqHead) 64 false = false) ∧
    knownOpcode (opcodeOf (fetchedCmd (fetchDev [(0, 1, 3)]) 8191)) = false ∧
    (let d := fetchDev [(0, 1, 2), (24, 1, 2)]; let c := fetchedCmd d 8191; knownOpcode (opcodeOf c) = true ∧ (reservedOk c && rangesOk d c) = false) ∧
    (let d := fetchDev [(0, 1, 0x70)]; let c := fetchedCmd d 8191
     knownOpcode (opcodeOf c) = true ∧ (reservedOk c && rangesOk d c) = true ∧ pfOnly c = true ∧ 8191 / 64 % 64 ≠ 0 ∧ opcodeOf c ≠ 0x12) ∧
    (let d := fetchDev [(0, 1, 0x20), (12, 4, 3)]; let c := fetchedCmd d 8191
     (reservedOk c && rangesOk d c) = true ∧ pfOnly c = false ∧ isStamped (opcodeOf c) = true ∧ selectEpoch d (cmdFld c 12 4) = none) ∧
    (let d := fetchDev [(0, 1, 0x20), (12, 4, 2)]; let c := fetchedCmd d 8191
     (reservedOk c && rangesOk d c) = true ∧ (isStamped (opcodeOf c) && (selectEpoch d (cmdFld c 12 4)).isNone) = false ∧ opcodeOf c ≠ 1) := by decide

theorem witness_completion :
    (let d := ringDev {} {} [(0, 1, 0x20)]
     cmdLive d 5 = true ∧ d.boot.fault = false ∧ frozenPart d (cmdPart d (cmdOf d 5)) = false ∧
     d.cmds.all (fun e => !(e.2.q == 8191 && opcodeOf e.2 == 2)) = true ∧ dmaOk d 127 (base64 d (rCqBase 8191) + 32 * (pairOf d 8191).cqTail) 32 true = true) ∧
    (let d := ringDev {} {} [(0, 1, 0x20)] 0 0
     cmdLive d 5 = true ∧ dmaOk d 127 (base64 d (rCqBase 8191) + 32 * (pairOf d 8191).cqTail) 32 true = false) ∧
    frozenPart { ringDev with obs := { frozen := [(0, some { cause := 0, core := 0, ctx := 0, layer := 0, operator := 0, pc := 0, fire := 0 })] } } 0 = true := by
  decide

/-- The ring's device with context 4095 of partition 63, present under tag 0. -/
def runDev (fs : List (Nat × Nat × Nat)) (pages : Nat := 1) : Dev :=
  { ringDev {} {} fs 0 pages with
    ctxs := [(4095, { exist := true, owner := 63, versions := [(0, { present := true, par := { nFeatures := 1, nOut := 1 } })] })] }

theorem witness_runs :
    (let d := runDev [(0, 1, 0x20), (8, 2, 4095), (56, 4, 4096), (60, 4, 64)]
     let m := cmdOf d 5
     let v := ctxVer d (cmdFld m 8 2) m.tag
     cmdReady d 0x20 8191 5 = true ∧ (ctxMine d m && v.present && !(ctxOf d (cmdFld m 8 2)).feedback) = true ∧
     rangeOk d m (bitOf (cmdFld m 1 1) 2) false (cmdFld m 32 8) 4096 = true ∧ rangeOk d m (bitOf (cmdFld m 1 1) 3) true (cmdFld m 40 8) 64 = true) ∧
    (let d := runDev [(0, 1, 0x20), (8, 2, 4095), (56, 4, 4097)]
     let m := cmdOf d 5
     cmdReady d 0x20 8191 5 = true ∧ rangeOk d m (bitOf (cmdFld m 1 1) 2) false (cmdFld m 32 8) 4097 = false) ∧
    (let d := runDev [(0, 1, 0x20), (8, 2, 4094)]
     let m := cmdOf d 5
     cmdReady d 0x20 8191 5 = true ∧ ctxMine d m = false) ∧
    (let d := runDev [(0, 1, 0x21), (8, 2, 4095), (48, 4, 64)]
     let m := cmdOf d 5
     let v := ctxVer d (cmdFld m 8 2) m.tag
     cmdReady d 0x21 8191 5 = true ∧ rangeOk d m (bitOf (cmdFld m 1 1) 2) false (cmdFld m 32 8) (cmdFld m 48 4 * (ceilDiv (2 * v.par.nFeatures) 64 * 64)) = true ∧
     rangeOk d m (bitOf (cmdFld m 1 1) 3) true (cmdFld m 40 8) (cmdFld m 48 4 * v.par.nOut * 4) = true) := by decide

theorem witness_fences :
    (let d := ringDev {} {} [(0, 1, 2)]; cmdReady d 2 8191 5 = true ∧ cmdFld (cmdOf d 5) 24 1 = 0 ∧ d.cmds.any (fun e => e.2.q == 8191 && decide (e.1 < 5)) = false) ∧
    (let d := { ringDev {} {} [(0, 1, 2)] with cmds := [(4, { q := 8191, bytes := sqe [(0, 1, 1)] }), (5, { q := 8191, bytes := sqe [(0, 1, 2)] })] }
     cmdReady d 2 8191 5 = true ∧ d.cmds.any (fun e => e.2.q == 8191 && decide (e.1 < 5)) = true) ∧
    (let d := ringDev {} {} [(0, 1, 2), (24, 1, 1), (32, 2, 0), (34, 2, 767), (36, 1, 7)]
     let m := cmdOf d 5
     cmdReady d 2 8191 5 = true ∧ cmdFld m 24 1 ≠ 0 ∧ cmdFld m 32 2 = ownPkg d ∧ (faultQOf d (cmdFn m)).keys.contains (fenceKey m) = false ∧
     d.cmds.any (fun e => decide (e.1 < 5) && cmdFn e.2 == cmdFn m && opcodeOf e.2 == 0x42 && copyKey e.2 == fenceKey m) = false ∧
     (faultQOf d (cmdFn m)).overflow = false) := by decide

/-- A TX_FRAME of 60 bytes to package port 31, queue 15, of a partition that may use them, on a breakout port whose link is up. -/
def txDev (st : Nat := 0) (ports : Nat := 2 ^ 31) (bk : Tab Bucket := []) : Dev :=
  let d := setReg (rQBuf 124 15) 1 (setReg (rPortCfg 31) 0x100000 (ringDev {} {} [(0, 1, 0x30), (24, 1, 31), (25, 1, 15), (26, 2, 60)] st))
  { d with
    parts := [(0, pfPart 0), (63, { pfPart 0 with fn := 127, clusters := 2 ^ 95, frames := 1, txPorts := ports })], txBk := bk
    edge := { bps := [(124, { link := true, cfg := regVal d (rPortCfg 31) })] } }

theorem witness_transmit :
    (let d := txDev
     let m := cmdOf d 5
     cmdReady d 0x30 8191 5 = true ∧ cmdFld m 24 1 % 32 * 4 + cmdFld m 24 1 / 32 % 4 = 124 ∧
     (bitOf (partOf d 63).txPorts 31 && bitOf (partOf d 63).txQueues 15 && dmaOk d 127 (cmdFld m 32 8) 60 false) = true ∧
     d.cmds.any (fun e => decide (e.1 < 5) && e.2.q == 8191 && opcodeOf e.2 == 0x30 && cmdFld e.2 24 1 == cmdFld m 24 1) = false ∧
     ((60 + 4 : Nat) : Int) * txTok ≤ bkLevel (65536 * txTok) 6400000 (beat d) (tget {} d.txBk (4 * 63 + 124 / 32)) ∧
     bpEnabled d 124 = true ∧ provided d 124 = true ∧ (bpOf d 124).txHold = false ∧ (bpOf d 124).link = true ∧
     admitTo d 124 15 (cellsOf 64) 128 0 false = some .reserved) ∧
    (let d := txDev 0 1; cmdReady d 0x30 8191 5 = true ∧ bitOf (partOf d 63).txPorts 31 = false) ∧
    (let d := txDev 1; let m := cmdOf d 5; m.q = 8191 ∧ opcodeOf m = 0x30 ∧ m.st = 1 ∧ cmdLate d m = false) ∧
    (let d := txDev 0 (2 ^ 31) [(4 * 63 + 3, { lvl := some 0, last := 0 })]
     bkLevel (65536 * txTok) 6400000 (beat d) (tget {} d.txBk (4 * 63 + 124 / 32)) < ((60 + 4 : Nat) : Int) * txTok) := by decide

/-- A REMOTE_COPY of 8 rows from HBM frame 0 to rows 760 to 767 of window 7 of core 767. -/
def copyDev : Dev :=
  let d := ringDev {} {} [(0, 1, 0x42), (26, 2, 767), (28, 1, 7), (40, 4, 760), (44, 4, 8)]
  { d with comp := { cores := [(767, { windows := [(7, { win7 with wr := true })] })], clusters := [(95, { power := 0 })] } }

theorem witness_remote_copy :
    (let d := copyDev
     let m := cmdOf d 5
     cmdReady d 0x42 8191 5 = true ∧ cmdFld m 24 1 = 0 ∧ cmdFld m 44 4 = 8 ∧ cmdFld m 30 2 = ownPkg d ∧ clusterPower d (767 / 8) ≠ 2 ∧
     d.cmds.any (fun e => decide (e.1 < 5) && e.2.q == 8191 && opcodeOf e.2 == 0x42 && copyKey e.2 == copyKey m && e.2.st == 0) = false ∧
     frameOk d (cmdPart d m) (cmdFld m 32 8) (512 * 8) = true ∧ hbmBad d (cmdFld m 32 8) (512 * 8) = false ∧
     winCheck d { src := 1023, dst := 767, pkg := 64, win := 7, row := 760, n := 8, write := true, part := cmdPart d m } false = 0) := by decide

theorem witness_deadlines :
    (let d := { ringDev {} {} [(0, 1, 0x20), (16, 4, 1)] with time := { beat := 1001 } }
     let m := cmdOf d 5
     m.q = 8191 ∧ cmdLive d 5 = true ∧ cmdLate d m = true ∧ opcodeOf m ≠ 0x23 ∧ m.st ≤ 1 ∧ cmdInvs d 5 = []) ∧
    cmdInvs { ringDev with comp := { invs := [(7, { serve := .cmd 5 })] } } 5 = [7] := by decide

theorem witness_records :
    (let d := { ringDev {} { enabled := true, head := 1, tail := 15, lost := 3 } with recPend := [(4080, [.event 2 0 [1], .event 3 0 []])] }
     let g := rringOf d 4080
     tget [] d.recPend 4080 = .event 2 0 [1] :: [.event 3 0 []] ∧ (g.enabled && !g.error && fnReady d 127 && decide ((g.tail + 1) % rqDepth d 4080 ≠ g.head)) = true ∧
     dmaOk d 127 (base64 d (rRqBase 127 16) + rqSlot d 4080 * g.tail) (rqSlot d 4080) true = true) ∧
    (let d := { ringDev {} { enabled := true, head := 0, tail := 15 } with recPend := [(4080, [.event 2 0 []])] }
     let g := rringOf d 4080
     tget [] d.recPend 4080 = [.event 2 0 []] ∧ (g.enabled && !g.error && fnReady d 127 && decide ((g.tail + 1) % rqDepth d 4080 ≠ g.head)) = false) ∧
    (let d := { setReg (rRingIrq 8191) (1 * 256) (ringDev { enabled := true, unann := 1 }) with time := { beat := 1000 } }
     let irq := regVal d (rRingIrq 8191)
     (pairOf d 8191).unann ≠ 0 ∧ bitOf irq 24 = false ∧ bitsOf irq 8 16 ≠ 0 ∧ (pairOf d 8191).unannFrom + 1000 * bitsOf irq 8 16 ≤ beat d ∧ fnReady d 127 = true) ∧
    (let d := ringDev { enabled := true, sqTail := 1 }
     (pairOf d 8191).enabled = true ∧ (pairOf d 8191).error = false ∧ (pairOf d 8191).sqHead ≠ (pairOf d 8191).sqTail ∧ fnReady d 127 = true ∧
     frozenPart d ((partOfFn d 127).getD 64) = false) ∧
    faultKind (ringDev) 127 1 0 8 = 0 ∧ faultKind (ringDev) 127 1 0 4 = 3 ∧ faultKind (ringDev) 127 0 0 8 = 1 := by decide

/-- A NOP's completion: the CQ entry's phase bit starts at 1 (R455); a doorbell of the depth is an error (R451). -/
theorem test_rings :
    (let d := after (.sqFetch 8191) (fetchDev [(0, 1, 1), (2, 2, 0x1234)])
     hostRead d 1 1024 4 = [0x34, 0x12, 0, 0] ∧ hostRead d 1 1055 1 = [1] ∧ (pairOf d 8191).cqTail = 1) ∧
    (pairOf (after (.sqDoorbell 8191 16) (ringDev { enabled := true })) 8191).error = true ∧
    (pairOf (after (.sqDoorbell 8191 15) (ringDev { enabled := true })) 8191).sqTail = 15 ∧
    regVal (after (.accessFault 127 1 0 4) (ringDev)) rAccessFault = 1 + 3 * 2 + 16 + 63 * 32 + 2048 + 65536 := by decide


/-! ## Store dies and directories -/

/-- Partition 63 owns the last frame. -/
def hbmDev (ctl : Nat := 0) : Dev :=
  { parts := [(63, { exist := true, fn := 127, frames := 2 ^ 250 * 2 ^ 250 * 2 ^ 75 })], regs := [(rScrubCfg 3, ctl)], boot := { step := 4 } }

theorem witness_hbm :
    ((64 : Nat) = 64 ∨ frameOk (hbmDev) 64 0 64 = true) ∧ hbmWriteOk (hbmDev) 63 (575 * 2 ^ 30 + 2 ^ 30 - 2) [1, 2].length = true ∧
    frameOk (hbmDev) 63 (576 * 2 ^ 30 - 64) 64 = true ∧ hbmWriteOk (hbmDev) 63 (576 * 2 ^ 30 - 1) 2 = false ∧ frameOk (hbmDev) 0 0 64 = false ∧
    (575 * 2 ^ 30 + 2 ^ 30 - 1 : Nat) < 576 * 2 ^ 30 ∧ bitOf (regVal (hbmDev 1) (rScrubCfg 3)) 0 = true ∧ hbmDie (hbmDev 1) (576 * 2 ^ 30 - 1) = 3 ∧
    bitOf (regVal (hbmDev 0) (rScrubCfg 3)) 0 = false ∧ tempLevel 0 100 = 3 ∧ (stackOf (hbmDev) 11).level ≠ 3 ∧
    4 ≤ (hbmDev).boot.step ∧ bitOf 7 3 = false ∧ bitOf 2 3 = false ∧ rowInUse (hbmDev) 47 = true ∧ rowInUse (hbmDev) 0 = false ∧ 2 % 4 ≠ 3 := by decide

/-- A burst of bank 1024 × 11 + 16 × 63 + 15 that core 767 waits for. -/
def burst : Burst := { addr := 64, stack := 11, sa := 63 * 2 ^ 8 + 15 * 2 ^ 16, since := 0, cores := [767] }

/-- Store die 3 with that burst pending for a GATHER. -/
def coalDev (t : Nat) : Dev :=
  { store := { coal := [(3, [burst])], gathers := [(767, some { op := gatherOp, missing := [64] })], zeroQ := [(3, [{ part := 0, frame := 575 }])] }, time := { beat := t } }

theorem witness_gather_service :
    nextBurst (coalDev 0) 3 (1024 * (3 * 3 + 2) + 16 * 63 + 15) false = some (burst, 1) ∧ burst.cores.Nodup ∧
    nextBurst (coalDev 0) 3 (1024 * (3 * 3 + 2) + 16 * 63 + 15) true = none ∧ nextBurst (coalDev 0) 3 0 false = none ∧
    nextBurst (coalDev 60000) 3 (1024 * (3 * 3 + 2) + 16 * 63 + 15) true = some (burst, 1) ∧ 767 ∈ burst.cores ∧
    tget none (coalDev 0).store.gathers 767 = some { op := gatherOp, missing := [64] } ∧
    tget [] (coalDev 0).store.zeroQ 3 = [{ part := 0, frame := 575 }] ∧ (coalDev 0).partOp = none ∧
    [({ part := 0, slot := 0, key := [], value := [], birth := 0 } : KeyedEntry)][0]? = some { part := 0, slot := 0, key := [], value := [], birth := 0 } := by decide

/-- The last line of the last directory and a copy of it in L2 7. -/
def dirDev (l : DirLine) (c : L2Line := {}) : Dev :=
  { store := { dir := [(lineKey 15 32767, l)], l2 := [(8 * lineKey 15 32767 + 7, c)] } }

theorem witness_directory :
    (let l := dirOf (dirDev { busy := some (0, 1, 9), snoops := 128 }) (lineKey 15 32767)
     l.busy.isSome = true ∧ l.busy = some (0, 1, 9) ∧ l.held = [] ∧ bitOf l.snoops 7 = true ∧ setBits l.snoops 7 1 0 = 0 ∧ (0 : Nat) ≠ 7) ∧
    (l2Of (dirDev {} { state := 2, data := 5 }) (lineKey 15 32767) 7).wb = false ∧ (l2Of (dirDev {} { state := 2, data := 5 }) (lineKey 15 32767) 7).state = 2 ∧
    (l2Of (dirDev {} { state := 2, data := 5, wb := true }) (lineKey 15 32767) 7).wb = true ∧
    (let l := dirOf (dirDev { state := 1, present := 129 }) (lineKey 15 32767)
     l.busy = none ∧ l.held = [] ∧ l.state ≠ 2 ∧ setBits l.present 0 1 0 ≠ 0) ∧
    setBits (dirOf (dirDev { state := 2, present := 128 }) (lineKey 15 32767)).present 7 1 0 = 0 := by decide

/-- Row mode 0 interleaves 4 KiB over twelve stacks, mode 1 over three, mode 2 over none (Table 12.1); 98 °C keeps level 3. -/
theorem test_store :
    hbmMap (hbmDev) 4096 = (1, 0) ∧ hbmMap (hbmDev) (12 * 4096 + 5) = (0, 4096 + 5) ∧
    hbmMap { hbmDev with regs := [(rRowmode 0, 1)] } (3 * 2 ^ 30 + 4096) = (4, 0) ∧ hbmMap { hbmDev with regs := [(rRowmode 0, 2)] } (2 ^ 30 + 4096) = (1, 4096) ∧
    tempLevel 3 98 = 3 ∧ tempLevel 3 97 = 2 ∧ tempLevel 0 84 = 0 := by decide

/-- A read-unique invalidates the other copy: the owner is Modified with the new value (R391, R393). -/
theorem test_directory :
    (let d := after (.snoopResponse 15 32767 7) (dirDev { busy := some (0, 1, 9), snoops := 128, state := 1, present := 128 } { state := 1, data := 5 })
     l2Of d (lineKey 15 32767) 7 = {} ∧ l2Of d (lineKey 15 32767) 0 = { state := 2, data := 9 }) := by decide


/-! ## Epochs, tables, images and contexts -/

/-- A flip (or an abandon) of ticket 5 that holds since Beat 0. -/
def flip5 (f : Flip := { tkt := 5, abandon := false, since := 0, held := true }) : Flip := f

/-- Command 5 with the epochs `e` at Beat `t`. -/
def epochDev (fs : List (Nat × Nat × Nat)) (e : Epochs := {}) (t : Nat := 0) (st : Nat := 0) : Dev :=
  { ringDev {} {} fs st with ep := e, time := { beat := t } }

theorem witness_flips :
    cmdReady (epochDev [(0, 1, 0x12)]) 0x12 8191 5 = true ∧ (epochDev [(0, 1, 0x12)]).ep.stage = some (2, 1) ∧ (epochDev [(0, 1, 0x12)]).ep.drain = none ∧
    (let d := epochDev [(0, 1, 0x12), (12, 4, 3)]; cmdReady d 0x12 8191 5 = true ∧ cmdFld (cmdOf d 5) 12 4 ≠ 0 ∧ cmdFld (cmdOf d 5) 12 4 ≠ 2) ∧
    (let d := epochDev [(0, 1, 0x12), (12, 4, 2)]; cmdReady d 0x12 8191 5 = true ∧ cmdFld (cmdOf d 5) 12 4 = 2 ∧
      maintBlocked d d.maint { act := 0x100, obj := 0xFFFF, src := 3, tkt := 5, limit := beat d + holdLimitNs d } = false) ∧
    (let d := epochDev [(0, 1, 0x12)] { stage := none, drain := some (1, 0), cur := 2, curTag := 1 }; cmdReady d 0x12 8191 5 = true ∧ d.ep.stage = none) := by decide

theorem witness_holds :
    (let d := epochDev [(0, 1, 0x12)] { flip := some (flip5) } 0 1
     (flip5).held = true ∧ (flip5).switching = false ∧ (flip5).abandon = false ∧ trainCommitting d = false ∧ d.cmds.all (fun e => !isBulk e.2) = true ∧
     epochsOk d.ep = true ∧ beat d < (flip5).since + holdLimitNs d) ∧
    (let d := epochDev [(0, 1, 0x12)] { flip := some (flip5) } 1000000000 1; (flip5).since + holdLimitNs d ≤ beat d ∧ (flip5).held = true) ∧
    (let f := { flip5 with switching := true, dies := 15 }; f.switching = true ∧ f.dies = 15) ∧
    (let f := { flip5 with abandon := true }; let d := epochDev [(0, 1, 0x13), (24, 1, 2)] { flip := some f } 0 1
     f.abandon = true ∧ d.cmds.all (fun e => !isBulk e.2 && opcodeOf e.2 != 0x23) = true) := by decide

/-- Epoch 1 drains behind epoch 2. -/
def draining (ready : Bool := true) : Epochs := { cur := 2, curTag := 1, stage := none, drain := some (1, 0), drainReady := ready }

theorem witness_retire :
    (let d := epochDev [(0, 1, 0x13), (12, 4, 1)] (draining)
     cmdReady d 0x13 8191 5 = true ∧ cmdFld (cmdOf d 5) 24 1 = 0 ∧ retireStale (cmdOf d 5) d.ep.drain = false) ∧
    (let d := epochDev [(0, 1, 0x13), (12, 4, 2)] (draining); cmdReady d 0x13 8191 5 = true ∧ retireStale (cmdOf d 5) d.ep.drain = true) ∧
    (let d := epochDev [(0, 1, 0x13), (24, 1, 1)] { draining with drain := some (1, 2) }
     cmdReady d 0x13 8191 5 = true ∧ cmdFld (cmdOf d 5) 24 1 = 1 ∧ retireStale (cmdOf d 5) d.ep.drain = false ∧ d.ep.drain = some (1, 2) ∧
     d.cmds.all (fun e => e.2.tag != 2) = true ∧ d.comp.invs.all (fun e => e.2.tag != 2) = true) ∧
    (let d := epochDev [(0, 1, 0x13), (24, 1, 1)]; cmdReady d 0x13 8191 5 = true ∧ retireStale (cmdOf d 5) d.ep.drain = false ∧ d.ep.drain = none) ∧
    (let d := epochDev [(0, 1, 0x13), (24, 1, 2)]
     cmdReady d 0x13 8191 5 = true ∧ cmdFld (cmdOf d 5) 24 1 = 2 ∧ (d.ep.stage.isNone || d.ep.flip.isSome || d.ep.opening.isSome) = false ∧
     retireStale (cmdOf d 5) d.ep.stage = false) ∧
    (let d := epochDev [(0, 1, 0x13), (24, 1, 2)] (draining)
     cmdReady d 0x13 8191 5 = true ∧ (d.ep.stage.isNone || d.ep.flip.isSome || d.ep.opening.isSome) = true) ∧
    (let d := epochDev [(0, 1, 0x13), (28, 4, 1)] (draining) 1000 1
     let m := cmdOf d 5
     d.ep.drain = some (1, 0) ∧ m.q = 8191 ∧ opcodeOf m = 0x13 ∧ cmdFld m 24 1 = 0 ∧ m.st = 1 ∧ cmdFld m 28 4 ≠ 0 ∧
     m.aux.headD 0 + cmdFld m 28 4 * 1000 ≤ beat d) := by decide

theorem witness_epoch_sweep :
    (let d : Dev := { ep := draining }; d.ep.drain = some (1, 0) ∧ d.ep.drainReady = true ∧ inFlight d 0 = 0 ∧ d.ep.curTag < 3) ∧
    (let d := epochDev [(0, 1, 0x20)] (draining); inFlight d 0 ≠ 0) ∧
    (let d : Dev := { ep := { stage := none, opening := some 5 }, edge := { sweepBusy := [(3, true)] } }
     d.ep.opening = some 5 ∧ d.edge.sweepBusy ≠ [] ∧ tget false d.edge.sweepBusy 3 = true ∧ tget false d.edge.sweepBusy 0 = false) := by decide

/-- A miss record for table 15 of edge die 3 that keeps action 0, read from host memory at 0; its partition owns the table. -/
def ruleDev (op : Nat) (pages : Nat := 1) : Dev :=
  let d := ringDev {} {} [(0, 1, op), (28, 4, 1)] 0 pages
  let d := { d with parts := [(0, pfPart 0), (63, { pfPart 0 with fn := 127, ruleTables := [0, 0, 0, 2 ^ 15] })] }
  hostWrite 127 0 [1, 0x8F] d

theorem witness_rules :
    (let d := ruleDev 0x31
     let m := cmdOf d 5
     let r := ruleRecord d m 0
     cmdReady d 0x31 8191 5 = true ∧ dmaOk d (cmdFn m) (cmdFld m 32 8) (128 * cmdFld m 28 4) false = true ∧ cmdFld m 28 4 = 1 ∧
     (isStaging d m && retireStale m d.ep.stage) = false ∧ fldOf r 0 1 = 1 ∧ (List.range 4).filter (bitOf (fldOf r 1 1 / 16)) = [3] ∧
     fldOf r 1 1 % 16 = 15 ∧ tableOwner d 3 15 = some (cmdPart d m) ∧ bitOf (fldOf r 3 1) 1 = false ∧ bitOf (fldOf r 3 1) 2 = false ∧
     recordRefused d m r false = none) ∧
    (let d := ruleDev 0x32
     let m := cmdOf d 5
     cmdReady d 0x32 8191 5 = true ∧ dmaOk d (cmdFn m) (cmdFld m 32 8) (128 * cmdFld m 28 4) false = true ∧
     (isStaging d m && retireStale m d.ep.stage) = false ∧ recordRefused d m (ruleRecord d m 0) true = none) ∧
    (let d := ruleDev 0x31 0; cmdReady d 0x31 8191 5 = true ∧ dmaOk d 127 0 128 false = false) ∧
    (let d := ruleDev 0x32 0; cmdReady d 0x32 8191 5 = true ∧ dmaOk d 127 0 128 false = false) ∧
    ([{ action := 7, birth := 1, death := 0, opn := true }] : List MissVer).all (fun m => m.opn || !visible m.birth m.death m.opn 2) = true := by decide

/-- Whether a source answers `b`. -/
def gives (r : HbmRes (List Byte)) (b : List Byte) : Bool := match r with | .ok x => x == b | _ => false

theorem gives_eq (r : HbmRes (List Byte)) (b : List Byte) (h : gives r b = true) : r = .ok b := by
  cases r <;> simp_all [gives]

theorem witness_tables :
    (let d := epochDev [(0, 1, 0x11), (27, 1, 8)]
     let m := cmdOf d 5
     cmdReady d 0x11 8191 5 = true ∧ d.ep.stage = some (2, 1) ∧ retireStale m d.ep.stage = false ∧
     gives (sourceBytes d m (cmdFld m 25 1 == 1) (cmdFld m 32 8) (cmdFld m 40 8)) [] = true ∧ cmdFld m 24 1 = 0 ∧ bankRefused {} = none ∧
     bankRefused { encArea := [1] } = some .invalidField) ∧
    (let d := epochDev [(0, 1, 0x11), (24, 1, 1), (30, 2, 32), (40, 8, 1), (56, 4, 2)]
     let m := cmdOf d 5
     let len := max (cmdFld m 40 8) (cmdFld m 30 2 * cmdFld m 56 4)
     cmdReady d 0x11 8191 5 = true ∧ cmdFld m 24 1 = 1 ∧ gives (sourceBytes d m (cmdFld m 25 1 == 1) (cmdFld m 32 8) (cmdFld m 40 8)) [0] = true ∧
     frameOk d (cmdPart d m) (cmdFld m 48 8) len = true ∧ regionLive d (cmdPart d m) (cmdFld m 48 8) len = false ∧ inCacheable d (cmdFld m 48 8) len = false) ∧
    (let d := epochDev [(0, 1, 0x11)] (draining); cmdReady d 0x11 8191 5 = true ∧ d.ep.stage = none) ∧
    (let d := epochDev [(0, 1, 0x11), (24, 1, 1)] {} 0 1; let m := cmdOf d 5
     m.q = 8191 ∧ m.st = 1 ∧ opcodeOf m = 0x11 ∧ d.ep.stage = some (2, 1)) ∧
    (let d := epochDev [(0, 1, 0x10)] {} 0 1; let m := cmdOf d 5
     m.q = 8191 ∧ m.st = 1 ∧ opcodeOf m = 0x10 ∧ d.ep.stage = some (2, 1)) := by decide

/-- The device where context 4095 of partition 63 exists. -/
def ctxDev (fs : List (Nat × Nat × Nat)) (owner : Nat := 63) (serve : List (Nat × Inv) := []) : Dev :=
  let d := epochDev fs
  { d with ctxs := [(4095, { exist := true, owner, clusters := [95] })], comp := { d.comp with invs := serve } }

theorem witness_contexts :
    (let d := ctxDev [(0, 1, 0x60), (43, 1, 0x80)]
     let m := cmdOf d 5
     cmdReady d 0x60 8191 5 = true ∧ (List.range 96).filter (bitOf (cmdFld m 32 12)) = [95] ∧ [95].all (ownsCluster d (cmdPart d m)) = true ∧
     tcount (fun _ x => x.exist) d.ctxs < 4096 ∧ tcount (fun _ x => x.exist && x.owner == cmdPart d m) d.ctxs < (partOf d (cmdPart d m)).ctxQuota ∧
     (ctxOf d 0).exist = false) ∧
    (let d := ctxDev [(0, 1, 0x60)]; cmdReady d 0x60 8191 5 = true ∧ cmdFld (cmdOf d 5) 32 12 = 0) ∧
    (let d := ctxDev [(0, 1, 0x60), (32, 1, 1)]; cmdReady d 0x60 8191 5 = true ∧ [0].all (ownsCluster d 63) = false) ∧
    (let d := { ctxDev [(0, 1, 0x60), (43, 1, 0x80)] with parts := [(63, { pfPart 0 with fn := 127, clusters := 2 ^ 95, ctxQuota := 1 })] }
     cmdReady d 0x60 8191 5 = true ∧ (partOf d 63).ctxQuota ≤ tcount (fun _ x => x.exist && x.owner == 63) d.ctxs) ∧
    (let d := ctxDev [(0, 1, 0x61), (8, 2, 4094)]; cmdReady d 0x61 8191 5 = true ∧ (ctxOf d 4094).exist = false) ∧
    (let d := ctxDev [(0, 1, 0x61), (8, 2, 4095)] 0; cmdReady d 0x61 8191 5 = true ∧ (ctxOf d 4095).owner ≠ cmdPart d (cmdOf d 5)) ∧
    (let d := ctxDev [(0, 1, 0x61), (8, 2, 4095)]
     cmdReady d 0x61 8191 5 = true ∧ (ctxOf d 4095).owner = cmdPart d (cmdOf d 5) ∧ bitOf (cmdFld (cmdOf d 5) 24 1) 0 = false ∧ ctxBusy d 4095 5 = false ∧ d.obs.arms = []) ∧
    (let d := ctxDev [(0, 1, 0x61), (8, 2, 4095)] 63 [(1, { ctx := 4095 })]; cmdReady d 0x61 8191 5 = true ∧ ctxBusy d 4095 5 = true) := by decide

/-- A CODE section of one program with one instruction. -/
def code1 : List Byte := toLe 4 1 ++ zeroBytes 12 ++ toLe 4 1 ++ zeroBytes 4 ++ toLe 8 64 ++ zeroBytes 48

/-- A CLUSTER image for grade A6 and one core, any hierarchy, with that CODE section at 128; `crc` is its hdr_crc. -/
def image (crc : Nat) : List Byte :=
  toLe 4 0x35324B50 ++ [1, 0, 1, 0] ++ toLe 8 208 ++ [6, 2, 0, 0] ++ toLe 4 1 ++ zeroBytes 4 ++ toLe 4 crc ++ zeroBytes 32
    ++ (toLe 4 1 ++ toLe 4 (imageCrc code1) ++ toLe 8 128 ++ toLe 8 80 ++ zeroBytes 8) ++ zeroBytes 32 ++ code1

/-- The image with the CRC of its header. -/
def image1 : List Byte := image (imageCrc ((image 0).take 28 ++ ((image 0).drop 32).take 64))

theorem witness_image_checks :
    headerOk image1 0 208 = true ∧ clusterRefused image1 = none ∧
    (let d := hostWrite 127 0 image1 (ctxDev [(0, 1, 0x10), (8, 2, 4095), (40, 8, 208)])
     let m := cmdOf d 5
     let x := ctxOf d 4095
     cmdReady d 0x10 8191 5 = true ∧ cmdFld m 26 1 = 0 ∧ x.exist = true ∧ x.owner = cmdPart d m ∧ x.feedback = false ∧
     gives (sourceBytes d m (cmdFld m 24 1 == 1) (cmdFld m 32 8) (cmdFld m 40 8)) image1 = true ∧ d.ep.stage = some (2, 1) ∧
     retireStale m d.ep.stage = false ∧ fitsPart d 63 image1 = true ∧ clusterTooLarge image1 (versionOf image1 5) x = false ∧
     sharesFit d x (versionOf image1 5) = true) ∧
    (let d := ctxDev [(0, 1, 0x10), (8, 2, 4094)]; cmdReady d 0x10 8191 5 = true ∧ (ctxOf d 4094).exist = false) := by decide +kernel

theorem witness_image_crc : crcsOk image1 = true ∧ signatureOk {} image1 = true := by decide +kernel

/-- CRC-32C of "123456789" is E3069283 (its published check value). -/
theorem test_crc : imageCrc ("123456789".toList.map (fun c => BitVec.ofNat 8 c.toNat)) = 0xE3069283 := by decide +kernel

/-- A rule born at 2 and closed at 4 is visible in 2 and 3; numbers wrap after 255 (R87). -/
theorem test_versions :
    [1, 2, 3, 4].map (visible 2 4 false) = [false, true, true, false] ∧ visible 255 0 true 256 = true ∧ visible 255 0 true 254 = false ∧
    nextEpoch 4294967295 = 1 := by decide


/-! ## Partitions -/

/-- A descriptor for VF 63 of port 1 with every cluster of `cl`, the last frame if `fr`, and the most vectors, slots and quota. -/
def desc (cl : Nat) (fr : Nat) : List Byte :=
  fieldBytes 256 [(0, 1, 1), (2, 1, 1), (3, 1, 63), (4, 2, 64), (6, 2, 1984), (8, 2, 4096), (10, 1, 1), (11, 1, 64), (12, 4, 2 ^ 31), (24, 12, cl),
    (111, 1, fr), (152, 4, 524288)]

/-- After boot, with 63 VFs on port 1, that descriptor in host memory of port 1 at 0, where PART_DESC points, and the operation `o`. -/
def partDev (bs : List Byte) (o : Option PartOp) (ps : Tab Part := []) (pages : Nat := 1) : Dev :=
  hostWrite 64 0 bs { regs := [(0x4008, pages), (0x400C, 1 + 2 + 8)], boot := { step := 6 }, numVfs := [(1, 63)], partOp := o
                      parts := [(0, pfPart 0), (1, pfPart 1)] ++ ps }

/-- The result code of a descriptor as the statement takes it. -/
def descCode (d : Dev) (o : PartOp) (held : Nat) : Nat :=
  let bs := hostRead d o.port o.addr 256
  let y := descPart bs
  if descInvalid d o.op o.part bs then 5 else if !fnExists d y.fn then 6 else if o.op == 0 && (partOfFn d y.fn).isSome then 7
  else if descTaken d o.part y then 8 else if descOver d o.part y bs then 9 else if o.op == 1 && descInUse d o.part y bs held then 10 else 0

/-- Creation of partition 63 from port 1. -/
def create63 : PartOp := { part := 63, op := 0, port := 1, addr := 0 }

theorem witness_partition_requests :
    (let d := partDev [] none; d.partOp.isSome = false ∧ d.boot.step = 6 ∧ (partOf d 63).exist = false ∧ dmaOk d 64 0 256 false = true) ∧
    dmaOk (partDev [] none [] 0) 64 0 256 false = false ∧ (partDev [] (some create63)).partOp.isSome = true ∧
    (let d := partDev [] none [(63, { exist := true, fn := 127 })]; (partOf d 63).exist = true ∧ (partOf d 63).resetting = false) ∧
    (let d := partDev [] none [(63, { exist := true, fn := 127, resetting := true })]; (partOf d 63).exist = true ∧ (partOf d 63).resetting = true) := by decide

theorem witness_partition_descriptors :
    descCode (partDev (desc (2 ^ 95) 0) (some create63)) create63 0 = 0 ∧ descCode (partDev [] (some create63)) create63 0 = 5 ∧
    descCode { partDev (desc 1 0) (some create63) with numVfs := [] } create63 0 = 6 ∧
    descCode (partDev (desc 1 0) (some create63) [(62, { exist := true, fn := 127 })]) create63 0 = 7 ∧
    descCode (partDev (desc 1 0) (some create63) [(62, { exist := true, fn := 126, clusters := 1 })]) create63 0 = 8 ∧
    descCode (partDev (desc 1 0) (some create63) [(62, { exist := true, fn := 126, vectors := 65 })]) create63 0 = 9 ∧
    descCode (partDev (desc 1 0) (some create63) [(63, { exist := true, fn := 127, frames := 1 })]) { create63 with op := 1 } 1 = 10 ∧
    create63.part < 64 ∧ create63.op < 2 ∧ create63.desc = [] ∧ (partOf (partDev [] none) 63).resetAgain = false := by decide +kernel

theorem witness_new_frames :
    (let d := partDev (desc 1 0) (some create63)
     let y := descPart (hostRead d 1 0 256)
     descCode d create63 0 = 0 ∧ (List.range 576).all (fun f => !bitOf y.frames f || bitOf (partOf d 63).frames f) = true) ∧
    (let d := partDev (desc 1 128) (some create63)
     let y := descPart (hostRead d 1 0 256)
     descCode d create63 0 = 0 ∧ bitOf y.frames 575 = true ∧ bitOf (partOf d 63).frames 575 = false) := by decide +kernel

/-- Partition 63 of VF 63 of port 1 with `x` changed. -/
def resetDev (x : Part) (step : Nat := 6) : Dev := { parts := [(0, pfPart 0), (1, pfPart 1), (63, { x with exist := true, fn := 127 })], boot := { step } }

theorem witness_partition_resets :
    partOfFn (resetDev {}) 126 = none ∧ partOfFn (resetDev {}) 127 = some 63 ∧ (partOf (resetDev {}) 63).resetting = false ∧
    (resetDev {}).partOp.any (fun o => o.part == 63 && o.op != 2) = false ∧
    (let d := { resetDev {} with partOp := some { create63 with op := 1 } }; d.partOp.any (fun o => o.part == 63 && o.op != 2) = true) ∧
    (resetDev {} 5).boot.step ≠ 6 ∧ 127 % 64 ≠ 0 ∧ 64 % 64 = 0 ∧ (partOf (resetDev {}) 63).fn / 64 = 64 / 64 ∧ (partOf (resetDev {}) 63).fn % 64 ≠ 0 ∧
    (let x := partOf (resetDev { resetting := true }) 63; x.exist = true ∧ x.resetting = true ∧ x.zeroing = false) ∧
    (let d := resetDev { resetting := true, zeroing := true }; (partOf d 63).zeroing = true ∧ zeroLeft d 63 = false) ∧
    (let d := { resetDev { zeroing := true } with store := { zeroQ := [(0, [{ part := 63, frame := 575 }])] } }; zeroLeft d 63 = true) ∧
    (let d := { resetDev {} with ctxs := [(4095, { exist := true, owner := 63 })] }; (ctxOf d 4095).exist = true ∧ (ctxOf d 4095).owner = 63) ∧
    (let d : Dev := { comp := { invs := [(1, { cluster := 95, mask := 128 })] } }; (invOf d 1).cluster = 95 ∧ (invOf d 1).mask ≠ 0) := by decide

/-- VF removal down to 62 takes partition 63 with it; the count never rises. -/
theorem test_partitions :
    (let d := after (.vfRemoval 1 62) { resetDev {} with numVfs := [(1, 63)] }
     tget 0 d.numVfs 1 = 62 ∧ (partOf d 63).destroying = true ∧ (partOf d 1).destroying = false) ∧
    tget 0 (after (.vfRemoval 1 62) { resetDev {} with numVfs := [(1, 5)] }).numVfs 1 = 5 := by decide


/-! ## Power -/

/-- Cluster 95 in power state `p` of partition 63 (which owns the whole of die 15 where `all`), with its policy and clock words. -/
def pwrDev (p : Nat) (pw : Power := {}) (t : Nat := 0) (pol : Nat := 0) (clk : Nat := 50) (all : Bool := false) (owned : Bool := true) : Dev :=
  setReg (rPwrPolicy 95) pol (setReg (rClkCfg 95) clk
    { parts := if owned then [(63, { exist := true, fn := 127, clusters := if all then 63 * 2 ^ 90 else 2 ^ 95 })] else []
      comp := { clusters := [(95, { power := p })] }, boot := { step := 6 }, pwr := pw, time := { beat := t } })

theorem witness_power_states :
    (let d := pwrDev 0; clusterPower d 95 = 0 ∧ clusterBusy d 95 = false) ∧
    (let d := pwrDev 1 {} 1000 (1 + 4); let pol := regVal d (rPwrPolicy 95)
     clusterPower d 95 = 1 ∧ bitOf pol 0 = true ∧ triggered d 95 = false ∧ (clusterOf d 95).idleFrom + max 1 (bitsOf pol 2 14) * 1000 ≤ beat d) ∧
    (let d := pwrDev 2 {} 1000000 (2 + 65536); let pol := regVal d (rPwrPolicy 95)
     clusterPower d 95 = 2 ∧ bitOf pol 1 = true ∧ triggered d 95 = false ∧ windowsOpen d 95 = false ∧
     (clusterOf d 95).idleFrom + max 1 (bitsOf pol 16 16) * 1000000 ≤ beat d ∧ (clusterOwner d 95).isSome = true) ∧
    (let d := pwrDev 1 {} 0 0 50 false false; clusterPower d 95 ≠ 3 ∧ clusterOwner d 95 = none ∧ tabWf {} d.comp.cores = true) ∧
    (let d := pwrDev 1 { queue := [(95, false)] }
     (clusterOf d 95).zeroing = false ∧ headOfGroup d (95, false) = true ∧ chargeFits d (95 / 24) (8 * (20 + curStep d 95)) = true ∧
     triggered d 95 = true ∧ d.pwr.queue.any (fun x => x.1 == 95) = true) ∧
    (let d := pwrDev 1 { charges := [(3, 0, 7000)] }
     chargeFits d (95 / 24) (8 * (20 + curStep d 95)) = false ∧ headOfGroup d (95, false) = false ∧ d.pwr.queue.any (fun x => x.1 == 95) = false) := by decide

theorem witness_wakes :
    2 ≤ clusterPower (pwrDev 3) 95 ∧ tget false (pwrDev 3).pwr.on 146 = false ∧ tget false (pwrDev 3 { on := [(146, true)] }).pwr.on 146 = true ∧
    (domainDead (pwrDev 3) 95 || (pwrDev 3).pwr.wakes.any (fun w => w.dom == 95)) = false ∧
    (let d := pwrDev 3 { wakes := [{ dom := 95 }] }
     d.pwr.wakes.find? (fun w => thawGroup w.dom == thawGroup 95 && w.started.isNone) = some { dom := 95 } ∧ (waking d (thawGroup 95)).length < 4 ∧
     tget 0 d.pwr.lastStart (thawGroup 95) = 0 ∧ chargeFits d (thawGroup 95) (wakeCharge 95) = true ∧
     d.pwr.wakes.all (fun w => w.dom != 95 || w.started.isNone) = true) ∧
    (let d := pwrDev 3 { wakes := [92, 93, 94, 95].map (fun k => { dom := k, started := some 0 }) }; 4 ≤ (waking d (thawGroup 95)).length) ∧
    ¬ chargeFits (pwrDev 3 { charges := [(3, 0, 7000)] }) 3 (wakeCharge 95) = true ∧
    (let d := pwrDev 3 { wakes := [{ dom := 95, started := some 0 }] } 100000
     d.pwr.wakes.find? (fun w => w.dom == 95) = some { dom := 95, started := some 0 } ∧ 0 + 100000 ≤ beat d) ∧
    (let d := pwrDev 3 { wakes := [{ dom := 96, started := some 0 }] } 100000; d.pwr.wakes.find? (fun w => w.dom == 96) = some { dom := 96, started := some 0 }) := by
  decide

theorem witness_clock_steps :
    (let d := pwrDev 0; d.boot.step = 6 ∧ wholeDie d (95 / 6) = false ∧ tget false d.isl.down (96 + 95 / 6) = false ∧ min 50 (20 % 128) ≤ curStep d 95) ∧
    (let d := pwrDev 0 { steps := [(95, 30)] }; curStep d 95 < min 50 (127 % 128) ∧ clusterPower d 95 ≤ 1 ∧ groupVolt d (95 / 24) < stepVolt (min 50 (127 % 128))) ∧
    (let d := pwrDev 1 { steps := [(95, 50)] }; curStep d 95 < min 50 (20 % 128) ∧ clusterPower d 95 = 1 ∧ stepVolt (min 50 (20 % 128)) ≤ groupVolt d (95 / 24)) ∧
    (let d := pwrDev 0 {} 0 0 50 true; d.boot.step = 6 ∧ wholeDie d (95 / 6) = true) ∧ ({ pwrDev 0 with boot := { step := 5 } } : Dev).boot.step ≠ 6 ∧
    (let d := pwrDev 0 { raiseDue := [(95, 11)] } 9; tget 0 d.pwr.raiseDue 95 ≠ 0 ∧ beat d < tget 0 d.pwr.raiseDue 95 - 1) ∧
    (let d := pwrDev 1 { raiseDue := [(95, 11)] } 10; tget 0 d.pwr.raiseDue 95 - 1 ≤ beat d ∧ clusterPower d 95 ≠ 0) ∧
    (let d := pwrDev 0 { queue := [(95, true)], steps := [(95, 10)] }
     tget 0 d.pwr.raiseDue 95 = 0 ∧ headOfGroup d (95, true) = true ∧ chargeFits d (95 / 24) (8 * (targetStep d 95 - curStep d 95)) = true) ∧
    headOfGroup (pwrDev 0) (95, true) = false := by decide

theorem witness_capping :
    (let d := pwrDev 0 { est := List.replicate 8 65535 }
     limitW d < (((d.pwr.est ++ [65535]).drop (d.pwr.est.length + 1 - 8)).sum / 8) ∧ 2 < d.pwr.duty ∧ d.pwr.lastDuty = 0) ∧
    (let d := pwrDev 0 { est := List.replicate 8 65535, duty := 2 }; d.pwr.duty ≤ 2) ∧
    (let d := pwrDev 0 { est := List.replicate 8 2400 }
     let avg := ((d.pwr.est ++ [2400]).drop (d.pwr.est.length + 1 - 8)).sum / 8
     avg ≤ limitW d ∧ 97 * limitW d ≤ avg * 100) ∧
    (let d := pwrDev 0 { throtOn := true }; d.pwr.throtOn = true ∧ 2 < d.pwr.thermDuty ∧ d.pwr.thermDuty ≤ 16) ∧
    (let d := { pwrDev 0 { duty := 15 } 1000000000 with isl := { capBeat := some 0 } }
     d.isl.capBeat = some 0 ∧ d.pwr.duty < 16 ∧ d.isl.capLogged = false ∧ 0 + 1000000000 ≤ beat d) ∧ (pwrDev 0).isl.capBeat = none ∧
    (List.replicate 112 (4 * 111 : Int)).length = 112 ∧ (4 * (tjThrottle {} : Int) ≤ 4 * 111 ∧ 4 * (tjWarn {} : Int) ≤ 4 * 111) ∧
    (0 : Int) < 4 * (tjWarn {} : Int) - 12 ∧ (0 : Int) < 4 * (tjThrottle {} : Int) - 12 := by decide

/-- Table 19.6's voltages, and the limit never leaves 1,200 W to 2,400 W. -/
theorem test_power :
    [20, 21, 30, 31, 40, 41].map stepVolt = [650, 700, 700, 770, 770, 850] ∧
    regFld (after (.powerLimitWrite 4095 false) {}) rPwrLimit 0 12 = 2400 ∧ regFld (after (.powerLimitWrite 0 false) {}) rPwrLimit 0 12 = 1200 ∧
    curStep (after (.clockStepWrite 95 20) (pwrDev 0)) 95 = 20 ∧ clusterPower (after (.wakeDone 95) (pwrDev 3 { wakes := [{ dom := 95, started := some 0 }] })) 95 = 1 := by
  decide


/-! ## Boot, resets and package faults -/

theorem witness_resets :
    (let d : Dev := {}; d.boot.inReset = false ∧ d.boot.aonLost = false ∧ d.boot.tripped = false ∧ d.isl.holdFrom = none) ∧
    (let d : Dev := { boot := { inReset := true } }
     d.boot.inReset = true ∧ d.boot.tripped = false ∧ d.boot.aonLost = false ∧ d.boot.stackDead = false) ∧
    (let d : Dev := { boot := { inReset := true, tripped := true } }; d.boot.inReset = true ∧ d.boot.tripped = true) ∧
    (let d : Dev := { boot := { inReset := true }, isl := { holdFrom := some 0 }, time := { beat := 5000000000 } }
     d.isl.holdFrom = some 0 ∧ d.boot.inReset = true ∧ d.isl.heldLogged = false ∧ 0 + 5000000000 ≤ beat d) ∧
    (regSpec 0).isSome = true ∧ (0 : Nat) ≠ rPwrLimit ∧ (resetDev {}).boot.step = 6 ∧ (partOf (resetDev {}) 63).exist = true ∧
    (partOf (resetDev {}) 63).fn / 64 = 1 ∧ (partOf (resetDev {}) 63).fn % 64 ≠ 0 ∧ (List.replicate 112 (420 : Int)).length = 112 := by decide

/-- A device whose boot stands at step `k`. -/
def bootDev (b : Boot) (w : List Wake := []) : Dev := { boot := b, pwr := { wakes := w } }

theorem witness_boot :
    (bootDev { hold := true }).boot.hold = true ∧ (bootDev {}).boot.hold = false ∧ (List.replicate 112 (420 : Int)).any (fun t => decide (420 ≤ t)) = true ∧
    (List.replicate 112 (419 : Int)).any (fun t => decide (420 ≤ t)) = false ∧
    (let d := bootDev { step := 1, rails := 11, railsGood := 10 }; bootAt d 1 = true ∧ d.boot.railsGood < d.boot.rails) ∧
    (let d := bootDev { step := 1, rails := 11, railsGood := 11 }; bootAt d 1 = true ∧ d.boot.rails ≤ d.boot.railsGood ∧ d.boot.railsGood = 11) ∧
    (let d := bootDev { step := 2 } [{ dom := 144 }]; bootAt d d.boot.step = true ∧ 2 ≤ d.boot.step ∧ d.pwr.wakes.isEmpty = false) ∧
    [2, 3, 4, 5].all (fun k => let d := bootDev { step := k }; bootAt d d.boot.step && d.pwr.wakes.isEmpty) = true ∧
    (let d := bootDev { step := 3, wiping := true }; d.boot.wiping = true ∧ bootAt d 3 = true) ∧ (144 ∈ bootWakes (bootDev { step := 1 }) 2) ∧
    (let d := { bootDev { step := 5 } with isl := { fwPending := true, running := some 1 } }
     d.isl.fwPending = true ∧ d.isl.running = some (1 - d.isl.active % 2)) ∧ bootAt (bootDev { step := 1, failed := true }) 1 = false := by decide

theorem witness_jtag :
    jtagOk { otp := { life := [0, 0, 0] } } 7 = true ∧ lcState { otp := { life := [0, 0, 0] } } = 0 ∧ jtagOk {} 5 = true ∧ jtagOk {} 6 = false ∧
    lcState { otp := { life := [15, 15, 15] } } = 4 := by decide

theorem witness_package_faults :
    bridged 23 24 = true ∧ bridged 19 24 = true ∧ bridged 4 5 = false ∧ (bootDev { step := 6 }).boot.failed = false ∧
    (true && decide (1 ≤ (bootDev { step := 5 }).boot.step ∧ (bootDev { step := 5 }).boot.step < 6) && !(bootDev { step := 5 }).boot.failed) = true ∧
    (let d : Dev := { bridges := [(bridgeNo 23 24, 16)] }; 16 ≤ tget 0 d.bridges (bridgeNo 23 24)) ∧ tget 0 ({} : Dev).bridges (bridgeNo 23 24) < 16 ∧
    ({ pins := { sysrefLost := true } } : Dev).pins.sysrefLost = true ∧ 63 ≠ ({} : Dev).pins.straps % 64 ∧ 0 = ({} : Dev).pins.straps % 64 ∧
    (invOf (coreDev) (coreOf (coreDev) 767).inv).mask ≠ 0 ∧ (invOf (coreDev) 1).cluster = 95 ∧ [8191].all (fun q => decide (q < 8192)) = true ∧
    linkState {} 19 ≠ 3 ∧ linkState { regs := [(rJodonCfg 19, 1)], fab := { links := [(19, { state := 3 })] } } 19 = 3 := by decide

/-- Context 4095 on clusters 94 and 95, each with 1,000 active times. -/
def slowDev (a b : Nat) (slow : Tab Bool) : Dev :=
  { ctxs := [(4095, { exist := true, clusters := [94, 95] })]
    obs := { evals := [(4096 * 94 + 4095, List.replicate 1000 a), (4096 * 95 + 4095, List.replicate 1000 b)], evalN := [(4096 * 95 + 4095, 1000)], slow } }

theorem witness_stragglers :
    evalSum {} 95 4095 = none ∧
    (let d := slowDev 100 110 []
     let x := ctxOf d 4095
     evalSum d 95 4095 = some 110000 ∧ x.exist = true ∧ 2 ≤ x.clusters.length ∧ x.clusters.contains 95 = true ∧
     tget 0 d.obs.evalN (4096 * 95 + 4095) % 1000 = 0 ∧ tget false d.obs.slow (4096 * 95 + 4095) = false ∧
     110 * median (x.clusters.filterMap (fun c => evalSum d c 4095)) ≤ 100 * 110000) ∧
    110 * median ((ctxOf (slowDev 100 109 []) 4095).clusters.filterMap (fun c => evalSum (slowDev 100 109 []) c 4095)) > 100 * 109000 ∧
    (let d := slowDev 100 105 [(4096 * 95 + 4095, true)]
     tget false d.obs.slow (4096 * 95 + 4095) = true ∧ 100 * 105000 ≤ 105 * median ([94, 95].filterMap (fun c => evalSum d c 4095))) ∧
    105 * median ([94, 95].filterMap (fun c => evalSum (slowDev 100 106 []) c 4095)) < 100 * 106000 := by decide +kernel

/-- Every state starts as the spec's reset does: partitions of the two PFs, epoch 1 CURRENT and 2 STAGING, clusters OFF. -/
theorem test_reset :
    State.reset.dev.boot.step = 0 ∧ State.reset.dev.ep.cur = 1 ∧ State.reset.dev.ep.stage = some (2, 1) ∧ clusterPower State.reset.dev 95 = 3 ∧
    (partOf State.reset.dev 1).fn = 64 ∧ (after (.coldReset 63 (List.replicate 112 100)) {}).boot.step = 1 := by decide


/-! ## The Tynas island -/

/-- An accepted mailbox request that the arbiter has admitted. -/
def mboxDev (c : Nat) (p : List Byte) (o : Otp := {}) : Dev :=
  { isl := { mbox := some (c, p) }, maint := [{ act := 8, obj := 0xFFFF, src := 4, granted := true, args := [0] }], otp := o }

/-- A configuration block for slot 1: 2,400 W, 63 VFs each, every MAC address, and its CRC. -/
def cfgBlock (crc : Nat) : List Byte := fieldBytes 1024 [(0, 4, 0x35474643), (4, 1, 1), (5, 1, 2), (6, 2, 2400), (16, 1, 63), (17, 1, 63), (24, 1, 16), (1020, 4, crc)]

/-- The block with its CRC. -/
def cfgBlock1 : List Byte := cfgBlock (imageCrc ((cfgBlock 0).take 32 ++ ((cfgBlock 0).drop 224).take 796))

/-- An OWNED part in generation 0. -/
def owned : Otp := { life := [3, 3, 3] }

theorem witness_mailbox :
    mboxOf {} 1 = none ∧ mboxOf (mboxDev 1 [1]) 1 = some [1] ∧ mboxOf (mboxDev 5 [1]) 5 = some [1] ∧ regFld {} rMboxStatus 0 1 = 0 ∧
    regFld { regs := [(rMboxStatus, 1)] } rMboxStatus 0 1 = 1 ∧ regFld {} rMboxLen 0 17 < 64 ∧ regFld { regs := [(rMboxLen, 65536)] } rMboxLen 0 17 = 65536 ∧
    dmaOk { regs := [(rMboxLen, 65536)] } 64 0 65536 false = false ∧
    dmaOk { regs := [(0x4008, 16), (0x400C, 1 + 2 + 8), (rMboxLen, 65536)] } 64 0 65536 false = true ∧
    otpFrozen (mboxDev 1 [] { gens := [0, 1, 2, 3].map (fun g => (g, { used := true })) }) = true ∧ otpFrozen (mboxDev 1 []) = false ∧
    (cfgRange [] && nextSlot (mboxDev 1 []) == some 0) = false := by decide

theorem witness_configuration :
    (let d := mboxDev 1 cfgBlock1 owned
     (cfgRange cfgBlock1 && nextSlot d == some (fldOf cfgBlock1 4 1) && cfgTightens (otpCfg d) (cfgOf cfgBlock1)) = true ∧ otpFrozen d = false) := by decide +kernel

/-- The island with an update of medium 15 and an authenticated session of it. -/
def mgmtDev (u : Option FwUpdate) (maint : List MaintReq := []) (sv : Nat := 0) : Dev :=
  { isl := { update := u, sessions := [{ medium := 15, auth := true }], running := some 0, runSv := sv }, maint, otp := owned }

theorem witness_management :
    (let d := mgmtDev none; islandUp d = true ∧ islandServes d = true ∧ d.isl.update = none ∧ updateBy d 15 = false ∧ authed d 15 0 = true ∧ authed d 0 0 = false ∧
      d.isl.fwPending = false ∧ d.isl.running = some (d.isl.active % 2) ∧ d.isl.runSv ≤ floorOf d ∧ d.boot.inReset = false) ∧
    floorOf (mgmtDev none [] 1) < (mgmtDev none [] 1).isl.runSv ∧ islandServes { otp := { life := [15, 15, 15] } } = false ∧
    islandUp { isl := { restarting := true } } = false ∧ (mgmtDev (some { medium := 15 })).isl.update.isSome = true ∧
    (let d := mgmtDev (some { medium := 15, granted := true, verified := true }); updateBy d 15 = true ∧ d.isl.update.any (fun u => u.verified) = true) ∧
    maintBlocked (mgmtDev none) [] { act := 7, obj := 0xFFFF, src := 4, limit := 0 } = false ∧
    maintBlocked (mgmtDev none) [{ act := 7, obj := 0xFFFF, src := 4, granted := true }] { act := 7, obj := 0xFFFF, src := 4, limit := 0 } = true ∧
    maintBad (mgmtDev none) 3 95 [0, 0, 0] = false ∧ maintBad (mgmtDev none) 3 96 [0, 0, 0] = true ∧ (List.replicate 14 (0 : Byte)).length = 14 := by decide

theorem witness_control_cores :
    macInBlock {} (beNat (((List.replicate 60 (0 : Byte)).drop 6).take 6)) = true ∧ macInBlock {} (beNat (((List.replicate 60 (255 : Byte)).drop 6).take 6)) = false ∧
    (let d := portUp; provided d 127 = true ∧ (bpOf d 127).txHold = false ∧ (bpOf d 127).link = true ∧
      (decide (bkLevel 65536 (rateOf d 127 / 200 : Nat) (beat d) (tget {} d.isl.guardP 127) < (4 * (64 + 20) : Nat))
        || decide (bkLevel 32000 1 (beat d) (tget {} d.isl.guardE 3) < 500)) = false ∧ (admitTo d 127 7 (cellsOf 64) 128 0 false).isSome = true) ∧
    (let d : Dev := { isl := { guardE := [(3, { lvl := some 499, last := 0 })] } }; bkLevel 32000 1 (beat d) (tget {} d.isl.guardE (127 / 32)) < 500) ∧
    ({ isl := { restarting := true } } : Dev).isl.restarting = true ∧ ({ isl := { unsaved := [] } } : Dev).isl.nor.length + 0 ≤ 131072 := by decide

/-- A frame from a control core with a foreign MAC is not sent, and is counted. -/
theorem test_island :
    ctrVal (after (.controlCoreFrame 0 127 7 (List.replicate 60 255)) {}) .guardMacDrop 127 0 = 1 ∧
    (after (.statusMsg 15) (mgmtDev none)).out.length = 1 ∧ tget false (after (.controlCoreTrap 1 15) {}).isl.down 111 = true ∧
    (after (.islandRestarted) { isl := { restarting := true } }).isl.log.map (fun e => e.code) = [0x10B] := by decide


/-! ## Maintenance and multi-function pins -/

/-- A maintenance request of source 3. -/
def mreq (act obj : Nat) (granted : Bool := false) (limit : Nat := 5) : MaintReq := { act, obj, src := 3, limit, granted, args := [63, 15, 49151] }

theorem witness_maintenance_requests :
    (let d := ringDev {} {} [(0, 1, 0x70), (24, 2, 3), (32, 2, 95)]; let c := cmdOf d 5
     cmdReady d 0x70 8191 5 = true ∧ cmdFld c 24 2 = 3 ∧ cmdFld c 32 2 = 95 ∧ maintBad d 3 95 [cmdFld c 36 1, cmdFld c 37 1, cmdFld c 38 2] = false ∧
     maintBlocked d d.maint (mreq 3 95) = false ∧ maintBlocked d [mreq 3 95 true] (mreq 3 95) = true) ∧
    (let d := ringDev {} {} [(0, 1, 0x70), (24, 2, 5), (32, 1, 11), (36, 1, 63), (37, 1, 15), (38, 2, 49151)]; let c := cmdOf d 5
     cmdReady d 0x70 8191 5 = true ∧ 4 ≤ cmdFld c 24 2 ∧ cmdFld c 32 1 = 11 ∧ maintBad d 5 11 [cmdFld c 36 1, cmdFld c 37 1, cmdFld c 38 2] = false ∧
     maintBlocked d d.maint (mreq 5 11) = false ∧ maintBad d 7 0 [] = true) := by decide

theorem witness_recalibrations :
    (let d : Dev := { boot := { step := 5 } }
     5 ≤ d.boot.step ∧ otpPortOff d 31 = false ∧ maintBlocked d d.maint (mreq 1 31) = false ∧ maintJoins d (mreq 1 31) = false ∧
     jodonOff d 19 = false ∧ maintBlocked d d.maint (mreq 2 19) = false ∧ maintJoins d (mreq 2 19) = false) ∧
    (let d : Dev := { boot := { step := 5 }, maint := [mreq 1 30 true, mreq 1 29 true, mreq 2 18 true] }
     maintBlocked d d.maint (mreq 1 31) = true ∧ maintBlocked d d.maint (mreq 2 19) = true) ∧
    (let o : Otp := { gens := [(0, { valid := true, used := true, cfg := { portOff := 2 ^ 31, jodonOff := 2 ^ 19 } })] }
     otpPortOff { otp := o } 31 = true ∧ jodonOff { otp := o } 19 = true) := by decide

theorem witness_grants :
    (let d : Dev := { maint := [mreq 3 95] }; grantable d [] d.maint = some (mreq 3 95) ∧ 3 ≤ (mreq 3 95).act ∧ (mreq 3 95).act ≠ 0x102) ∧
    grantable {} [] [] = none ∧ ([] : List MaintReq).all (fun x => x.granted || decide ((0 : Nat) < x.limit)) = true ∧
    (let d : Dev := { maint := [mreq 6 11], time := { beat := 5 } }
     d.maint.find? (fun x => !x.granted && decide (x.limit ≤ beat d)) = some (mreq 6 11) ∧ 1 ≤ (mreq 6 11).act ∧ (mreq 6 11).act ≤ 6) ∧
    [1, 2, 3, 4, 5, 6, 8].all (fun a => ([mreq a 9 true] : List MaintReq).find? (fun x => x.act == a && x.obj == 9 && x.granted) == some (mreq a 9 true)) = true ∧
    (physOf {} 9).calBusy = false ∧ (linkOf {} 9).forced = false ∧ ({ mreq 8 9 true with args := [1] } : MaintReq).args.headD 0 = 1 := by decide

/-- Pin 31 in state `m` at Beat `t`. -/
def pinDev (m : Mfio) (t : Nat := 0) : Dev := { pins := { mfio := [(31, some m)] }, time := { beat := t } }

theorem witness_pins :
    10 < 31 ∧ 6 ≤ bitsOf 7 0 3 ∧ bitsOf 5 0 3 < 6 ∧ (let m := mfioOf (pinDev { func := 5 }) 31; m.next.getD m.func = bitsOf 5 0 3 ∧ m.next.getD m.func ≠ bitsOf 4 0 3) ∧
    (let d := { pinDev { func := 4 } with time := { outHigh := true }, regs := [(rTodCtrl, 16)] }; let m := mfioOf d 31
     m.func = 4 ∧ ppsOut d = true ∧ m.skipPulse = false ∧ (m.next.isSome && m.parkEnd.isSome) = false) ∧
    bitsOf 7 0 4 ≠ 6 ∧ (let m := mfioOf (pinDev { func := 5, next := some 1, parkEnd := some 9 } 9) 31; m.next = some 1 ∧ m.parkEnd = some 9 ∧ parked m = true) ∧
    (mfioOf (pinDev {}) 31).next = none ∧ (mfioOf (pinDev {}) 31).func ≠ 5 ∧
    (let m := mfioOf (pinDev { func := 5, lastEdge := some 0 } 20000) 31
     m.func = 5 ∧ parked m = false ∧ m.lastEdge.all (fun b => decide (b + 20000 ≤ 20000)) = true ∧ m.lastEdge.any (fun b => decide (19999 < b + 20000)) = true) ∧
    (mfioOf (pinDev { func := 5 } 1000000000) 31).winFrom + 1000000000 ≤ 1000000000 := by decide

theorem witness_pulses :
    (let d : Dev := { time := { todNs := 1000000001 } }; d.time.todNs % 1000000000 ≤ 1 ∧ d.time.outRise.all (fun b => decide (b + 500000000 ≤ beat d)) = true) ∧
    (let d : Dev := { time := { outRise := some 0, beat := 499999999 } }; d.time.outRise.any (fun b => decide (beat d < b + 500000000)) = true) ∧
    (let d : Dev := { time := { outRise := some 0, outHigh := true, outWidth := 1000, beat := 1000 } }
     d.time.outRise = some 0 ∧ d.time.outHigh = true ∧ 0 + d.time.outWidth ≤ beat d ∧ tabWf none d.pins.mfio = true) ∧
    (let d : Dev := { time := { outRise := some 0, outWidth := 1000, beat := 999 } }; d.time.outHigh = false ∧ beat d < 0 + d.time.outWidth) := by decide

/-- A park lets go of the pin, then hands it over (R640); a second edge within 20 µs is not counted. -/
theorem test_pins :
    (let d := after (.mfioCfgWrite 31 1 false) (pinDev { func := 2 }); mfioDrive d 31 = none ∧ (mfioOf d 31).next = some 1) ∧
    (mfioOf (after (.fanTachEdge 31) (pinDev { func := 5, lastEdge := some 0 } 19999)) 31).tach = 0 := by decide


/-! ## Jodon -/

/-- Link 19, enabled, in state `l`, with what the fabric still awaits. -/
def linkDev (l : Link) (outs : List JOut := []) (t : Nat := 0) : Dev :=
  { regs := [(rJodonCfg 19, 1)], boot := { step := 5 }, fab := { links := [(19, l)], outs }, time := { beat := t } }

/-- A read of window 7 of core 767 of package 0 that has been sent to it on link 19. -/
def jout (w : Option WinMsg := some { winMsg with part := 0 }) (write : Bool := false) : JOut :=
  { agent := 767, tag := 9, pkg := 0, core := 767, win := 7, row := 760, n := 8, write, link := 19, sent := 0, msg := w, tkt := 5 }

theorem witness_links :
    jodonOff (linkDev {}) 19 = false ∧ jodonOff { otp := { gens := [(0, { valid := true, used := true, cfg := { jodonOff := 2 ^ 19 } })] } } 19 = true ∧
    bitOf (regVal (linkDev {}) (rJodonCfg 19)) 0 = true ∧ bitOf (regVal { linkDev {} with regs := [(rJodonCfg 19, 0)] } (rJodonCfg 19)) 0 = false ∧
    linkState (linkDev {}) 19 = 1 ∧ linkState (linkDev { state := 3 }) 19 = 3 ∧ ({} : Dev).boot.step < 5 ∧ (linkOf (linkDev { phase := 5 }) 19).phase = 5 ∧
    identCause (linkDev {}) 7 (regFld (linkDev {}) rPodCfg 8 24) false = 0 ∧ identCause (linkDev {}) 0 (regFld (linkDev {}) rPodCfg 8 24) true = 3 ∧
    (let d := linkDev { state := 2 } [] 1000000; linkState d 19 = 2 ∧ (linkOf d 19).since + 1000000 ≤ beat d) ∧
    (let d := linkDev { state := 4 } [] 999999999; linkState d 19 = 4 ∧ beat d < (linkOf d 19).since + 1000000000) ∧
    16 ≤ (linkOf (linkDev { state := 3, replays := 16 }) 19).replays := by decide

theorem witness_jodon_timeouts :
    ([] : List JOut).all (fun o => o.tag != 9) = true ∧
    (let d := linkDev { state := 3 } [jout (some winMsg) true] 10000000; let o := jout (some winMsg) true
     d.fab.outs.find? (fun o => o.tag == 9) = some o ∧ o.sent + 10000000 ≤ beat d ∧ linkState d o.link = 3 ∧ o.write = true ∧ o.msg.isSome = true) ∧
    (let d := linkDev { state := 3 } [jout] 9999999; d.fab.outs.find? (fun o => o.tag == 9) = some jout ∧ beat d < (jout).sent + 10000000) := by decide

/-- A block of zeros with its CRC. -/
def block0 : List Byte := List.replicate 5136 0 ++ toLe 4 (crc32c 0xFFFFFFFF (List.replicate 5136 0))

theorem witness_jodon_block :
    block0.length = 5140 ∧ leNat ((block0.drop (5120 + 16)).take 4) = crc32c 0xFFFFFFFF (block0.take 5136) ∧
    leNat ((block0.drop (5120 + 0)).take 2) = (linkOf (linkDev { state := 3 }) 19).rxNext ∧ linkState (linkDev { state := 3 }) 19 = 3 := by
  have h : crc32c 0xFFFFFFFF (List.replicate 5136 0) < 256 ^ 4 := Laws.crcRefl_lt _ _ _ (by decide) (by decide)
  have hl : (List.replicate 5136 (0 : Byte)).length = 5136 := List.length_replicate
  have ht (x : Nat) : (toLe 4 x).length = 4 := Laws.length_toLe 4 x
  refine ⟨by rw [block0, List.length_append, hl, ht], ?_, ?_, by decide⟩
  · rw [block0, List.drop_left' hl, List.take_left' hl, List.take_of_length_le (Nat.le_of_eq (ht _)), Laws.leNat_toLe, Nat.mod_eq_of_lt h]
  · rw [block0, List.drop_append_of_le_length (by rw [hl]; decide), List.drop_replicate, List.take_append_of_le_length (by rw [List.length_replicate]; decide)]
    decide

/-- A message of type `ty` from package 0 for core 767's window 7, received on link 19. -/
def jmsg (ty : Nat) (core : Nat := 767) (row : Nat := 760) : JMsg := { type := ty, core, win := 7, row, rows := 8, part := 63, agent := 767, tag := 9 }

/-- Link 19 is up with `m` received; core 767's window 7 is open to reads and writes of other packages. -/
def jdev (m : JMsg) (o : List JOut := []) (power : Nat := 0) : Dev :=
  { linkDev { state := 3, rx := [m] } o with
    comp := { cores := [(767, { inv := 1, windows := [(7, { win7 with wr := true, pod := true })]
                                engines := [(10, { run := [{ instr := winInstr winMsg, layer := 0, op := 0 }] })] })], clusters := [(95, { power })] } }

theorem witness_jodon_targets :
    ([0x61, 0x64].all (fun ty => let d := jdev (jmsg ty); rxFind d 19 (fun m => m.type == ty) == some (jmsg ty) && clusterPower d (767 / 8) != 2
      && winCheck d (msgAccess (jmsg ty)) true == 0)) = true ∧
    ([0x61, 0x64].all (fun ty => let d := jdev (jmsg ty 767 761); rxFind d 19 (fun m => m.type == ty) == some (jmsg ty 767 761)
      && winCheck d (msgAccess (jmsg ty 767 761)) true != 0)) = true ∧
    (let d := jdev (jmsg 0x61) [] 2; clusterPower d (767 / 8) = 2) ∧
    (let d := jdev (jmsg 0x61 768); rxFind d 19 (fun m => m.type == 0x61) = some (jmsg 0x61 768) ∧ clusterPower d (768 / 8) ≠ 2) ∧
    rxFind (jdev (jmsg 0x61)) 19 (fun m => m.type == 0x64) = none := by decide

theorem witness_jodon_answers :
    ([0x62, 0x63, 0x65, 0x66].all (fun ty => let d := jdev (jmsg ty) [jout (some winMsg)]
      rxFind d 19 (fun m => m.type == ty) == some (jmsg ty) && outOf d (jmsg ty) == some (jout (some winMsg)))) = true ∧
    (jout (some winMsg)).msg = some winMsg ∧ winWaits (jdev (jmsg 0x62) [jout (some winMsg)]) winMsg = true ∧ outOf (jdev (jmsg 0x62)) (jmsg 0x62) = none ∧
    (let d := { jdev (jmsg 0x65) [jout none] with cmds := [(5, { bytes := sqe [(0, 1, 0x42)] })] }
     outOf d (jmsg 0x65) = some (jout none) ∧ (jout none).msg = none ∧ cmdLive d (jout none).tkt = true) := by decide

/-- A link that loses its partner for the first time counts one fall and trains again. -/
theorem test_jodon :
    (let d := after (.jodonRetrain 19) (linkDev { state := 3 }); linkState d 19 = 1 ∧ (linkOf d 19).downs = 1) ∧
    (linkOf (after (.jodonTrainingPhaseEnd 19 true true) (linkDev { phase := 2 })) 19).phase = 3 ∧
    linkState (after (.jodonEnableWrite 19 false false) (linkDev { state := 3 })) 19 = 0 := by decide


/-! ## Beat and time of day -/

/-- A BEAT_SYNC from package 7 whose root is 0, as link 19 received it. -/
def syncMsg : JMsg := { type := 0x68, src := 7, extra := syncBytes 0 1 1000 900 1000 }

/-- Link 19 is UP with that message received, and package 5 is its own root. -/
def beatDev (t : Time := {}) (rx : List JMsg := [syncMsg]) : Dev :=
  { pins := { straps := 5 }, regs := [(rJodonCfg 19, 1)], fab := { links := [(19, { state := 3, rx })] }, time := t }

theorem witness_beat :
    (let d := beatDev; linkState d 19 = 3 ∧ (nbrOf d 19).sent = 0 ∧ rxFind d 19 (fun m => m.type == 0x68) = some syncMsg ∧ d.boot.ready = false ∧
      (-100000 : Int) ≤ d.time.steer ∧ d.time.steer ≤ 100000) ∧
    (let d := beatDev { nbrs := [(19, { sent := 5 })], beat := 1000004 }; (nbrOf d 19).sent ≠ 0 ∧ beat d < (nbrOf d 19).sent + 1000000) ∧
    rxFind (beatDev {} []) 19 (fun m => m.type == 0x68) = none ∧ rootId (after (.beatSync 19) beatDev) < rootId beatDev ∧
    ¬ (rootId (after (.beatSync 19) { beatDev with boot := { ready := true } }) < rootId beatDev ∧ true = false) ∧ (upLinks beatDev).isEmpty = false ∧
    (let d : Dev := { time := { beat := 10000000 } }; (upLinks d).isEmpty = true ∧ d.time.noLinkSince + 10000000 ≤ beat d) := by decide

/-- TOD_CTRL with pps_in_en, ref10m_en, sw_en and tod_step as given. -/
def todDev (t : Time) (ctl : Nat := 7) : Dev := { regs := [(rTodCtrl, setBits (regResetOf rTodCtrl) 0 4 ctl)], time := t }

theorem witness_pps :
    regFld (todDev {}) rTodCtrl 0 1 = 1 ∧ regFld (todDev {} 0) rTodCtrl 0 1 = 0 ∧
    (let t : Time := { ppsLast := some 1, ppsGood := 2, beat := 999999001 }
     t.ppsLast.any (fun b => decide (b + 999999000 ≤ beat (todDev t) ∧ beat (todDev t) ≤ b + 1000001000)) = true ∧ 2 ≤ t.ppsGood ∧ t.ppsValid = false) ∧
    (let t : Time := { beat := 5 }; t.ppsLast.any (fun b => decide (b + 999999000 ≤ beat (todDev t) ∧ beat (todDev t) ≤ b + 1000001000)) = false ∧ t.ppsGood < 2) ∧
    (let t : Time := { ppsValid := true, ppsLast := some 0, beat := 2001000000 }
     t.ppsValid = true ∧ t.ppsLast = some 0 ∧ (beat (todDev t) - 0) % 1000000000 ≤ 1000000 ∧ 0 + 2001000000 ≤ beat (todDev t)) ∧
    (let t : Time := { ppsValid := true, ppsLast := some 0, beat := 1001000001 }
     1000000 < (beat (todDev t) - 0) % 1000000000 ∧ (beat (todDev t) - 0) % 1000000000 < 999000000 ∧ beat (todDev t) < 0 + 2001000000) ∧
    edgeOffset 499999999 = -499999999 ∧ edgeOffset 500000000 = 500000000 := by decide

theorem witness_tod :
    (let t : Time := { swValid := true, swLast := 0, beat := 127000000000 }
     t.swValid = true ∧ t.swLast + max 1 (regFld (todDev t) rTodCtrl 25 7) * 1000000000 ≤ beat (todDev t)) ∧
    (todDev {}).time.swValid = false ∧ (todDev {}).time.ppsValid = false ∧ regFld (todDev {}) rTodCtrl 2 1 = 1 ∧ (-500000 : Int) < signedOf 32 499999 ∧
    signedOf 32 499999 < 500000 ∧ signedOf 32 (2 ^ 32 - 500000) ≤ -500000 ∧ bitOf (2 ^ 31) 31 = true ∧ bitOf 65535 31 = false ∧
    (let d := todDev { stepPend := some 500000, todNs := 1000000000 - 500000 } 8; stepDue d = true ∧ partFn d 0 = some 0) ∧ stepDue (todDev {}) = false ∧
    (todDev { slew := 1 }).time.slew ≠ 0 ∧ (todDev {}).time.slew = 0 := by decide

/-- A step loads the second exactly; an offset of 499,999 ns slews and one of 500,000 ns steps (R520, R521). -/
theorem test_time :
    (after .todStepApply (todDev { stepSec := some 77, todNs := 3000000000 } 8)).time.todNs = 77000000000 ∧
    (after (.todAdj 499999) (todDev {})).time.slewing = true ∧ (after (.todAdj 500000) (todDev {})).time.stepPend = some 500000 ∧
    (after .todRead (todDev { todNs := 5000000007 })).time.todSec = 5 := by decide


/-! ## Observability -/

/-- Command 5 of PF 0's pair 0 (partition 0), with a DMA window over pages 0 to 15. -/
def pfCmd (fs : List (Nat × Nat × Nat)) (st : Nat := 0) (o : Observe := {}) (pages : Nat := 16) : Dev :=
  { regs := [(0x4008, pages), (0x400C, 1 + 2 + 4)], boot := { step := 6 }, cmds := [(5, { q := 0, bytes := sqe fs, st })], obs := o }

theorem witness_counters :
    (let d := pfCmd [(0, 1, 0x50), (24, 4, 2 + 255 * 256), (28, 4, 4096)]; let m := cmdOf d 5
     cmdReady d 0x50 0 5 = true ∧ countersBad d m = false ∧ cmdFn m % 64 = 0 ∧ bitOf (cmdFld m 24 4) 17 = false ∧
     dmaOk d (cmdFn m) (cmdFld m 32 8) 4096 true = true) ∧
    (let d := pfCmd [(0, 1, 0x50), (24, 4, 2 + 255 * 256), (28, 4, 4096)] 0 {} 0; dmaOk d 0 0 64 true = false) ∧
    (let d := pfCmd [(0, 1, 0x50), (24, 4, 2 + 4 * 256), (28, 4, 4096)]; cmdReady d 0x50 0 5 = true ∧ countersBad d (cmdOf d 5) = true) ∧
    (let d := ringDev {} {} [(0, 1, 0x50), (24, 4, 1 + 255 * 256), (28, 4, 64)]; let m := cmdOf d 5
     cmdReady d 0x50 8191 5 = true ∧ countersBad d m = false ∧ cmdFn m % 64 ≠ 0 ∧ groupPf (bitsOf (cmdFld m 24 4) 0 8) = true) := by decide

/-- A GONG of package 3 for Beat 7 on link 19. -/
def gongMsg : JMsg := { type := 0x67, src := 3, extra := toLe 8 7 ++ toLe 4 3 ++ toLe 4 9 }

theorem witness_gongs :
    cmdReady (pfCmd [(0, 1, 0x51)]) 0x51 0 5 = true ∧ (pfCmd [(0, 1, 0x51)]).obs.gong = none ∧
    (let d := pfCmd [(0, 1, 0x51)] 1 { gong := some { at_ := 0, origin := 0, seq := 0 } }; d.obs.gong = some { at_ := 0, origin := 0, seq := 0 } ∧ 0 ≤ beat d) ∧
    (let d := pfCmd [(0, 1, 0x50)] 1; d.cmds.all (fun e => opcodeOf e.2 != 0x51 || e.2.st != 1) = true) ∧
    (let d := jdev gongMsg; rxFind d 19 (fun m => m.type == 0x67) = some gongMsg ∧ d.obs.seen.contains (3, 9) = false ∧ beat d ≤ leNat ((gongMsg.extra.drop 0).take 8)) ∧
    (let d := { jdev gongMsg with obs := { seen := [(3, 9)] }, time := { beat := 8 } }; d.obs.seen.contains (3, 9) = true ∧ leNat ((gongMsg.extra.drop 0).take 8) < beat d) := by
  decide

/-- TENSOR_DUMP_ARM for handle 63 of context 4095 at its next step. -/
def dumpDev (arms : List Arm := []) (st : Nat := 0) (pages : Nat := 1) : Dev :=
  { ringDev {} {} [(0, 1, 0x52), (8, 2, 4095), (24, 2, 63), (40, 4, 4096)] st pages with ctxs := [(4095, { exist := true, owner := 63 })], obs := { arms } }

theorem witness_dumps :
    (let d := dumpDev; let m := cmdOf d 5
     cmdReady d 0x52 8191 5 = true ∧ ctxMine d m = true ∧ ctrVal d .invocations 4095 0 ≤ cmdFld m 28 4 ∧
     ¬ (256 ≤ (d.obs.arms.filter (fun a => cmdLive d a.tkt)).length ∨ 4 ≤ ((d.obs.arms.filter (fun a => cmdLive d a.tkt)).filter (fun a => a.ctx == 4095)).length)) ∧
    (let d := { dumpDev with ctr := [(ctrKey .invocations 4095 0, 1)] }; cmdFld (cmdOf d 5) 28 4 < ctrVal d .invocations 4095 0) ∧
    (let d := dumpDev (List.replicate 4 { tkt := 5, ctx := 4095, handle := 0, step := 0 })
     4 ≤ ((d.obs.arms.filter (fun a => cmdLive d a.tkt)).filter (fun a => a.ctx == 4095)).length) ∧
    ctxMine { dumpDev with ctxs := [] } (cmdOf dumpDev 5) = false ∧
    (let a : Arm := { tkt := 5, ctx := 4095, handle := 63, step := 0, done := true }; let d := dumpDev [a] 1
     d.obs.arms.find? (fun a => a.tkt == 5) = some a ∧ a.done = true ∧ cmdLive d 5 = true ∧ frozenPart d (cmdPart d (cmdOf d 5)) = false ∧
     dmaOk d (cmdFn (cmdOf d 5)) (cmdFld (cmdOf d 5) 32 8) 64 true = true) ∧
    dmaOk (dumpDev [] 1 0) 127 0 64 true = false := by decide

/-- Core 767 of partition 63 runs invocation 1 and has issued nothing since Beat 0; its watchdog allows 1 ms. -/
def dogDev (t : Nat) (f : Tab (Option Frozen) := []) : Dev :=
  { regs := [(rWdog 63, 1)], parts := [(63, { exist := true, fn := 127, clusters := 2 ^ 95 })], time := { beat := t }
    comp := { cores := [(767, { inv := 1 })], invs := [(1, { cluster := 95, mask := 128, running := 128 })] }, obs := { frozen := f } }

/-- What the watchdog notes of it. -/
def frozen63 (dumped : Bool := false) : Frozen := { cause := 1, core := 767, ctx := 0, layer := 0, operator := 0, pc := 0, fire := 1000000, dumped }

theorem witness_watchdogs :
    (let d := dogDev 1000000; corePart d 767 = some 63 ∧ watchdogCause d 767 63 = 1 ∧ frozenPart d 63 = false) ∧ watchdogCause (dogDev 999999) 767 63 = 0 ∧
    corePart {} 767 = none ∧ (let d := dogDev 1000000 [(63, some (frozen63))]; tget none d.obs.frozen 63 = some (frozen63) ∧ (frozen63).dumped = false ∧ (partOf d 63).fn < 128) ∧
    (frozen63 true).dumped = true ∧ tget none (dogDev 0).obs.frozen 63 = none := by decide

/-- A fire freezes the partition, whose core then issues nothing (R570, R571). -/
theorem test_observe :
    (let d := after (.watchdogFire 767) (dogDev 1000000); frozenPart d 63 = true ∧ tget none d.obs.frozen 63 = some (frozen63) ∧
      (coreOf (after (.scalarAdd 767 1 2 3) d) 767).pc = 0) ∧
    (after (.gongLatch) (pfCmd [] 0 { gong := some { at_ := 0, origin := 0, seq := 4 } })).obs.lastSeq = 4 := by decide


/-! ## Attention -/

/-- A sequence's descriptor: INT4, one KV head, layer and query head of 16, the tail on this package, no token yet, page units from 2^20. -/
def seqDesc : List Byte :=
  fieldBytes 256 [(0, 1, 1), (1, 1, 2), (2, 1, 2), (3, 1, 1), (4, 2, 1), (6, 1, 1), (7, 1, 1), (16, 4, 1), (24, 4, 0x3F800000), (29, 1, 1), (32, 8, 2 ^ 20)]

/-- Partition 63 owns frame 0, pinned to store die 0; the descriptor lies at 256, and host memory at 2048 names it. The command runs on
context 4095, whose image decodes one layer. -/
def decDev (st : Nat := 0) (desc : Nat := 256) (pages : Nat := 1) (x : List SeqRun := []) (launched : Option Nat := none) : Dev :=
  let d := ringDev {} {} [(0, 1, 0x22), (8, 2, 4095), (24, 1, 1), (32, 8, 2048), (40, 8, 3072), (48, 4, 64)] st pages
  let d := hostWrite 127 2048 (toLe 8 desc) (setReg (rRowmode 0) 2 d)
  { d with store := { hbm := tputBytes [] 256 seqDesc, dec := if x.isEmpty then [] else [(5, { seqs := x })] }, cmds := tmod {} d.cmds 5 (fun c => { c with launched })
           ctxs := [(4095, { exist := true, owner := 63, versions := [(0, { present := true, decode := some (1, 1, 1, 1) })] })] }

/-- That sequence in a step. -/
def seq0 : SeqRun :=
  { part := 63, desc := 256, fmt := 2, tail := true, nKv := 1, nLayers := 1, hd := 16, qPer := 1, cap := 1, scale := 0x3F800000, bases := [2 ^ 20, 0, 0, 0] }

theorem witness_decode_steps :
    (let d := decDev; let m := cmdOf d 5; let v := ctxVer d 4095 m.tag
     let d1 := pcieRead (cmdFn m) 8 d
     cmdReady d 0x22 8191 5 = true ∧ (ctxMine d m && v.present && !(ctxOf d 4095).feedback) = true ∧ stepDescs d m = [256] ∧ stepWaits d 5 m = false ∧
     (dmaOk d (cmdFn m) (cmdFld m 32 8) (8 * cmdFld m 24 1) false && dmaOk d (cmdFn m) (cmdFld m 40 8) (cmdFld m 48 4) true) = true ∧ v.decode.isSome = true ∧
     (seqCheck d1 (cmdPart d m) 256 true v.decode).1 = .ok) ∧
    (let d := decDev 0 255; (seqCheck (pcieRead 127 8 d) 63 255 true (some (1, 1, 1, 1))).1 = .invalidField) ∧
    (let d := { decDev with cmds := [(4, { q := 8191, bytes := sqe [(0, 1, 0x22), (24, 1, 1), (32, 8, 2048)], st := 1 })] ++ (decDev).cmds }
     cmdReady d 0x22 8191 5 = true ∧ stepWaits d 5 (cmdOf d 5) = true) ∧
    (let d := decDev 0 256 0; dmaOk d 127 2048 8 false = false) ∧
    (let d := decDev 1 256 1 [{ seq0 with outs := [(0, some [[]])] }] (some 1); let m := cmdOf d 5
     m.st = 1 ∧ m.q = 8191 ∧ opcodeOf m = 0x22 ∧ frozenPart d (cmdPart d m) = false ∧
     (m.launched.isSome && (cmdInvs d 5).isEmpty && (decOf d 5).seqs.all (fun x => decide (x.outs.length = x.nLayers))) = true) := by decide

/-- The query of the one head, and the new token's key and value. -/
def query1 : List (List Nat) := [List.replicate 16 0x3F800000]
def kv1 : List (List Nat) := [List.replicate 32 0x3F800000]

theorem witness_attention :
    (let d := decDev 1 256 1 [seq0]; let x := lget {} (decOf d 5).seqs 0
     (cmdOf d 5).st = 1 ∧ stepLive d 5 = true ∧ (tget none x.parts (8 * 0 + 3)).isSome = false ∧ x.tail = true ∧ kv1.length = x.nKv ∧
     kv1.all (fun r => r.length == 2 * x.hd) = true ∧ (attendDie x 3 0 query1 d).bad = false ∧ layerOut x 0 = none ∧
     (decide (0 < (decOf d 5).seqs.length) && decide (0 < x.nLayers) && decide (query1.length = x.nKv * x.qPer) && query1.all (fun r => r.length == x.hd)) = true ∧
     (query1 ++ kv1).all (·.all (fun c => decide (c < 2 ^ 32))) = true) ∧
    (let d := { decDev 1 256 1 [{ seq0 with tail := false, length := 1 }] with store := { (decDev 1 256 1 [{ seq0 with tail := false, length := 1 }]).store with
       poison := [(2 ^ 20 / 64, true)] } }
     (attendDie (lget {} (decOf d 5).seqs 0) 0 0 query1 d).bad = true) ∧ stepLive (decDev 1) 5 = false ∧ (cmdOf (decDev) 5).st ≠ 1 ∧
    (let x := { seq0 with nShards := 2 }; 1 < x.nShards ∧ 1 ≠ x.shard ∧ tget none x.far (8 * 0 + 1) = none) ∧
    (let x := { seq0 with parts := [0, 1, 2, 3, 4].map (fun k => (k, some [{ o := List.replicate 16 0 }])) }; (layerOut x 0).isSome = true) ∧
    regFld (decDev) (rAttnCfg 3) 0 8 ≠ 128 % 256 ∧ attnBusy (decDev) 3 = false ∧
    min 128 (128 % 256) + ((decDev).parts.map (fun p => if p.2.exist then lget 0 p.2.sram 3 else 0)).sum ≤ 192 := by decide

/-- The length grows by one token at the commit (R330). -/
theorem test_attention : leNat (hbmBytes (commitSeq { seq0 with kv := [(0, some [(List.replicate 32 1, 0)])] } (decDev)) 264 4) = 1 := by decide


/-! ## Training in service -/

/-- A train section: SGD on one BF16 weight, gradients in INT8, both caps 1, at most four examples (Tables 11.1 and 11.2). -/
def trainSec : List Byte :=
  fieldBytes 80 [(0, 1, 1), (2, 1, 7), (4, 4, 0x3F800000), (8, 4, 0x3F800000), (28, 2, 1), (32, 4, 4), (65, 1, 13), (68, 4, 1), (72, 4, 1)]

/-- A version with `trainSec`, whose weight is 0. -/
def trainV (vid : Nat) (t : List TState := [{ w := [[0]], m1 := [[0]], m2 := [[0]], m1Exp := [0], m2Exp := [0] }]) : CtxVersion :=
  { present := true, vid, hasTrain := true, train := { nFeatures := 1, bytes := trainSec }, tstate := t }

/-- Command 5 trains context 4095 of partition 63, whose CURRENT version is 1 and whose STAGING version is `vid`; further fields `fs`. -/
def trainDev (fs : List (Nat × Nat × Nat) := [(32, 4, 0x3F000000)]) (vid : Nat := 2) (st : Nat := 0) : Dev :=
  let d := ringDev {} {} ([(0, 1, 0x23), (8, 2, 4095), (26, 2, 4094), (28, 4, 1)] ++ fs) st
  { d with
    ctxs := [(4094, { exist := true, owner := 63, versions := [(0, { present := true, vid := 7, fb := some { target := 4095 } })] }),
      (4095, { exist := true, owner := 63, clusters := [95], versions := [(0, trainV 1 []), (1, trainV vid)] })]
    cmds := d.cmds.map (fun e => (e.1, { e.2 with aux := [0, 2, 1, 0], launched := if st = 0 then none else some 0 })) }

/-- One gradient of value `c`. -/
def grad (c : Nat) : List (List (Int × List Nat)) := [[(0, [c])]]

theorem witness_train_step :
    (let d := trainDev [(32, 4, 0x7F800000)]; cmdReady d 0x23 8191 5 = true ∧ trainRefused d (cmdOf d 5) = some .invalidField ∧ lrRefused d (cmdOf d 5) = false) ∧
    (let d := trainDev [(32, 4, 0x3F800001)]; cmdReady d 0x23 8191 5 = true ∧ trainRefused d (cmdOf d 5) = some .invalidField ∧ lrRefused d (cmdOf d 5) = true) ∧
    (let d := trainDev [(32, 4, 0x3F800000), (24, 1, 1)]
     cmdReady d 0x23 8191 5 = true ∧ trainRefused d (cmdOf d 5) = none ∧ d.ep.stage = some (2, 1) ∧
     min (cmdFld (cmdOf d 5) 28 4) (ctxOf d (cmdFld (cmdOf d 5) 26 2)).buf.recs.length = 0) ∧
    (let d := trainDev [(32, 4, 0x3F800000)] 1
     cmdReady d 0x23 8191 5 = true ∧ trainRefused d (cmdOf d 5) = none ∧ ownStaging d 4095 1 = false ∧
     sharesFit d (ctxOf d 4095) (ctxVer d 4095 d.ep.curTag) = true ∧ 1 ≠ d.ep.curTag ∧ cmdFld (cmdOf d 5) 24 1 = 0 ∧ cmdFld (cmdOf d 5) 28 4 ≠ 0) ∧
    (let d := trainDev; cmdReady d 0x23 8191 5 = true ∧ trainRefused d (cmdOf d 5) = none ∧ ownStaging d 4095 1 = true) ∧
    wellFormed (.trainStep 8191 5 true [[(none, [0]), (some (-64), [65535])]]) = true := by decide +kernel

theorem witness_train_commit :
    (let d := trainDev; let m := cmdOf d 5
     (decide (m.q = 8191) && decide (opcodeOf m = 0x23) && !frozenPart d (cmdPart d m)) = true ∧ m.st = 0) ∧
    (let d := trainDev [] 2 4; let m := cmdOf d 5
     (decide (m.q = 8191) && decide (opcodeOf m = 0x23) && !frozenPart d (cmdPart d m)) = true ∧ m.st = 4 ∧ d.ep.stage = some (2, 1) ∧
     d.comp.clusters.any (fun e => e.2.reload.contains (ctxVer d 4095 1).vid) = false) ∧
    (let d : Dev := { trainDev [] 2 4 with comp := { clusters := [(95, { reload := [2] })] } }
     (cmdOf d 5).st = 4 ∧ d.comp.clusters.any (fun e => e.2.reload.contains (ctxVer d 4095 1).vid) = true) ∧
    (let d := trainDev [] 2 1; let m := cmdOf d 5
     m.st = 1 ∧ m.launched.isSome = true ∧ cmdInvs d 5 = [] ∧ d.ep.stage = some (2, 1) ∧ lget 0 m.aux 1 = 2 ∧ gradsFit (ctxVer d 4095 1) [] = false ∧
     gradsFit (ctxVer d 4095 1) (grad 255) = true) ∧
    (let d := { trainDev [] 2 1 with ep := { stage := some (3, 1) } }; lget 0 (cmdOf d 5).aux 1 ≠ 3 ∧ d.ep.stage = some (3, 1)) ∧
    wellFormed (.trainCommit 8191 5 (grad 255) true) = true := by decide +kernel

theorem witness_train_update :
    (let d := trainDev [(32, 4, 0x3F000000)] 2 1; let r := updateAll (ctxVer d 4095 1) (cmdOf d 5) (grad 1); r.2.1 = false ∧
     (isNan32 r.2.2 || vLt (f32Val (fpMul 15 0x3F800000 0x3F800000)) (f32Val r.2.2)) = false) ∧
    (let d := trainDev [(32, 4, 0x3F000000)] 2 1; let r := updateAll (ctxVer d 4095 1) (cmdOf d 5) (grad 127); r.2.1 = false ∧
     (isNan32 r.2.2 || vLt (f32Val (fpMul 15 0x3F800000 0x3F800000)) (f32Val r.2.2)) = true) ∧
    (let d := trainDev [(32, 4, 0x7F7FFFFF)] 2 1; (updateAll (ctxVer d 4095 1) (cmdOf d 5) (grad 127)).2.1 = true) ∧
    (let d := { trainDev [(32, 4, 0x3F000000)] 2 1 with maint := [{ act := 3, obj := 95, src := 2, granted := true }] }
     maintBlocked d d.maint { act := 0x102, obj := 4095, src := 3, tkt := 5, limit := beat d + 100000000 } = true) := by decide +kernel

/-- Half of a gradient of 1 is taken from the weight 0: BF16 -1/2, code BF00H (R360, R361). -/
theorem test_train_sgd :
    (updateAll (trainV 2) (cmdOf (trainDev [(32, 4, 0x3F000000)] 2 1) 5) (grad 1)).1.map (·.w) = [[[0xBF00]]] := by decide +kernel

/-- R364: a step refused by norm_cap is counted and changes no version. -/
theorem test_train_norm :
    (match execTrainCommit 8191 5 (grad 127) false { dev := trainDev [(32, 4, 0x3F000000)] 2 1 } with
     | .next s => decide (ctrVal s.dev .trainNormRefused 4095 0 = 1 ∧ ctxVer s.dev 4095 1 = trainV 2)
     | _ => false) = true := by decide +kernel


/-! ## Registers -/

theorem witness_plain_write :
    (∃ sp, regSpec rThermCfg = some sp ∧ sp.rw < 2 ^ 32 ∧ sp.w1c < 2 ^ 32 ∧ sp.w1s < 2 ^ 32 ∧ sp.rw &&& sp.w1c = 0 ∧ sp.w1s &&& (sp.rw ||| sp.w1c) = 0) ∧
    (let sp : RegSpec := { rw := 0xFF, w1c := 0x80000000, w1s := 0x100 }
     sp.rw &&& sp.w1c = 0 ∧ sp.w1s &&& (sp.rw ||| sp.w1c) = 0 ∧ plainWrite sp 0x80000201 0xFFFFFFFE = 0x000003FE) := by
  refine ⟨⟨_, rfl, ?_⟩, ?_⟩ <;> decide

theorem witness_register_writes :
    ([rPwrPolicy 95, rThermCfg, rWdog 63, rMfioPark, rMboxLen] : List Nat).all (fun a => (regSpec a).isSome && decide (a < 2 ^ 26)) = true ∧
    regSpec (barAddr 0 (2 ^ 26 - 4)) = none ∧ regSpec (barAddr 127 0x7FC) = none ∧ blockUp State.reset.dev (barAddr 0 (rPwrPolicy 95)) = false ∧
    ({ boot := { step := 6 } } : Dev).boot.step = 6 ∧
    rSqBase 63 < 2 ^ 26 ∧ rSqBase 63 % 4 = 0 ∧ (pairOf { pairs := [(63, { enabled := true })] } 63).enabled = true := by decide

/-- R16, R445: a write keeps the bits that are not writable; a ring's base is not written while its ring is enabled. -/
theorem test_register_writes :
    regVal (after (.registerWrite 0 rThermCfg 0xFFFFFFFF false) {}) rThermCfg = 65535 ∧
    regVal (after (.registerWrite 0 (rSqBase 63) 0x1000 false) { pairs := [(63, { enabled := true })] }) (rSqBase 63) = 0 ∧
    (pairOf (after (.registerWrite 0 (rSqBase 63) 0x1000 false) { pairs := [(63, { enabled := true })] }) 63).cfgErr = true ∧
    bitOf (regVal (after (.registerWrite 127 0x7FC 0 false) {}) rAccessFault) 0 = true := by decide


/-! ## The machine -/

/-- A queue of two well-formed commands. -/
def queued : State := { dev := portUp, pending := [.linkDown 127, .claveNop 1279] }

theorem witness_queues :
    queued.pending.all wellFormed = true ∧ wellFormed (.linkDown 128) = false ∧
    (match step { dev := {}, pending := [.linkDown 128] } with | .fault _ => true | _ => false) = true ∧ memoriesOk queued.dev = true := by decide

/-- A clock that is not steered, at the last Beat, LOCKED with 16 seconds kept. -/
def clockDev (steer : Int) : Dev :=
  { time := { beat := 2 ^ 64 - 1, todNs := 2 ^ 48 * 1000000000 - 1, tstate := 1, lockNs := 999999999, steer, slew := 5, sacc := 999990000
              bacc := 999990000, lockSecs := List.replicate 16 7 } }

theorem witness_clocks :
    ((clockDev 0).time.steer = 0 ∧ -1000000000 < (clockDev 0).time.bacc ∧ (clockDev 0).time.bacc < 1000000000) ∧
    (let t := { (clockDev 0).time with slew := 0 }
     t.slew = 0 ∧ t.tstate = 1 ∧ -1000000000 < t.tacc ∧ t.tacc < 1000000000 ∧ -1000000000 < t.sacc ∧ t.sacc < 1000000000) ∧
    (clockDev 0).time.lockSecs.length ≤ 16 := by decide

/-- A command in front runs, and the one behind it waits. -/
theorem test_queue :
    (match step queued with | .next t => decide (t.pending = [.claveNop 1279] ∧ (bpOf t.dev 127).link = false) | _ => false) = true := by decide

/-- A nanosecond: the Beat wraps at 2^64, full corrections of 50 ppm and of the steering each bring a nanosecond (R513, R522). -/
theorem test_tick :
    (tick (clockDev 0)).time.beat = 0 ∧ (tick (clockDev 20000)).time.beat = 1 ∧ (tick (clockDev 0)).time.todNs = 1 ∧
    (tick (clockDev 0)).time.slew = 4 ∧ (tick (clockDev 0)).time.lockSecs.length = 16 := by decide

/-- A step before which a floor of 1 and a burned life-cycle bit stand, and a slot is used. -/
theorem witness_otp :
    let o : Otp := { fuses := 1, life := [3, 3, 3], gens := [(31, { used := true })], wipeDone := true }
    (match step { dev := { otp := o }, pending := [.linkDown 127] } with | .next _ => true | _ => false) = true ∧
    bitOf (lget 0 o.life 2) 1 = true ∧ (tget {} o.gens 31).used = true := by decide

end Sys2Proof.Tests
end

/-! The scope of the part (spec 00_scope): how the queue is worked off, what a write of a register does, the state after reset. -/

/-! ## Steps of the queue -/

namespace Sys2Proof.Scope

open Sys2Proof.Machine Sys2Proof.Safety Sys2Proof.Laws

/-- Whatever the command, its meaning is one effect on the device, guarded by its well-formedness: neither the device nor the queue
behind it has a say in whether it completes (log entry 11). -/
theorem exec_eq_runIf (c : Instr) : ∃ f : Dev → Dev, ∀ s, exec c s = runIf (wellFormed c) f s := by
  cases c <;> exact ⟨_, fun _ => rfl⟩

theorem exec_cases (c : Instr) (s : State) :
    (wellFormed c = true ∧ ∃ d', Gives c s d') ∨ (wellFormed c = false ∧ exec c s = .fault .illFormed) := by
  obtain ⟨f, hf⟩ := exec_eq_runIf c
  rcases runIf_cases (wellFormed c) f s with ⟨hw, hr⟩ | ⟨hw, hr⟩
  · exact .inl ⟨hw, f s.dev, (hf s).trans hr⟩
  · exact .inr ⟨hw, (hf s).trans hr⟩

/-- A step takes one command off the queue, or meets a command in front that is not well-formed. -/
theorem step_next_or_fault (s : State) :
    (∃ d', step s = .next { dev := d', pending := s.pending.drop 1 }) ∨
    ∃ c rest, s.pending = c :: rest ∧ wellFormed c = false ∧ step s = .fault .illFormed := by
  rcases step_cases s with ⟨hp, hs⟩ | ⟨c, rest, hp, hs⟩
  · exact .inl ⟨_, by rw [hs, hp]; rfl⟩
  · rcases exec_cases c { s with pending := rest } with ⟨-, d', hd⟩ | ⟨hw, hf⟩
    · exact .inl ⟨d', by rw [hs, hd, hp]; rfl⟩
    · exact .inr ⟨c, rest, hp, hw, hs.trans hf⟩

theorem step_ne_refused (s : State) (r : Refusal) : step s ≠ .refused r := by
  rcases step_next_or_fault s with ⟨d', h⟩ | ⟨c, rest, -, -, h⟩ <;> simp [h]

theorem front_illFormed_of_step_fault {s : State} {f : Fault} (h : step s = .fault f) :
    ∃ c rest, s.pending = c :: rest ∧ wellFormed c = false := by
  rcases step_next_or_fault s with ⟨d', hn⟩ | ⟨c, rest, hp, hw, -⟩
  · simp [hn] at h
  · exact ⟨c, rest, hp, hw⟩

/-- With well-formed commands only, a step goes on. -/
theorem step_of_wellFormed {s : State} (h : s.pending.all wellFormed = true) :
    ∃ d', step s = .next { dev := d', pending := s.pending.drop 1 } := by
  rcases step_next_or_fault s with hn | ⟨c, rest, hp, hw, -⟩
  · exact hn
  · simp [hp, hw] at h

theorem all_drop {α : Type} {p : α → Bool} {l : List α} (n : Nat) (h : l.all p = true) : (l.drop n).all p = true :=
  List.all_eq_true.mpr fun x hx => List.all_eq_true.mp h x (List.mem_of_mem_drop hx)

/-- A run begins with a step. -/
theorem run_succ_of_next {n : Nat} {s t : State} (h : step s = .next t) :
    Host.Core.run Sys2Proof.core (n + 1) s = Host.Core.run Sys2Proof.core n t := by
  have hs : Sys2Proof.core.step s = .next t := h
  simp only [Host.Core.run, hs]

/-- A run over well-formed commands takes one off the queue at each step, and goes on when the queue is empty. -/
theorem run_of_wellFormed (n : Nat) (s : State) (h : s.pending.all wellFormed = true) :
    ∃ t, Host.Core.run Sys2Proof.core n s = .next t ∧ t.pending = s.pending.drop n := by
  induction n generalizing s with
  | zero => exact ⟨s, rfl, rfl⟩
  | succ n ih =>
    obtain ⟨d', hs⟩ := step_of_wellFormed h
    obtain ⟨t, ht, hp⟩ := ih { dev := d', pending := s.pending.drop 1 } (all_drop 1 h)
    exact ⟨t, (run_succ_of_next hs).trans ht, by rw [hp, List.drop_drop, Nat.add_comm 1 n]⟩

/-- Settles O58, by induction on the number of steps: each takes one well-formed command off the queue. -/
theorem queuesRunToTheirEnd : Obligations.QueuesRunToTheirEnd := by
  refine ⟨fun s => ⟨step_ne_refused s, fun f => front_illFormed_of_step_fault⟩, fun n s h => ?_⟩
  obtain ⟨t, ht, hp⟩ := run_of_wellFormed n s h
  exact ⟨t, ht, hp, hp ▸ all_drop n h⟩

/-- Settles O55: with a command in front, a step is defined as that command's meaning. -/
theorem stepRunsFront : Obligations.StepRunsFront := fun _ _ _ => rfl

end Sys2Proof.Scope

/-! ## Register writes -/

namespace Sys2Proof.Scope

open Sys2Proof.Machine Sys2Proof.Safety Sys2Proof.Laws

/-! ## Bits of a plain write -/

theorem bitOf_eq_testBit (v i : Nat) : bitOf v i = v.testBit i := by
  simp [bitOf, Nat.testBit_eq_decide_div_mod_eq, Nat.shiftRight_eq_div_pow, Bool.beq_eq_decide_eq]

theorem and_eq_zero_iff (x y : Nat) : x &&& y = 0 ↔ ∀ i, (x.testBit i && y.testBit i) = false := by
  simp only [← Nat.testBit_and]
  exact ⟨fun h i => by rw [h, Nat.zero_testBit], fun h => Nat.eq_of_testBit_eq fun i => by rw [h, Nat.zero_testBit]⟩

/-- Numbers with no bit in common add without a carry. -/
theorem add_eq_or_of_and_eq_zero {x y : Nat} (h : x &&& y = 0) : x + y = x ||| y := by
  have hx : x < 2 ^ (x + y) := Nat.lt_of_lt_of_le Nat.lt_two_pow_self (Nat.pow_le_pow_right (by decide) (Nat.le_add_right x y))
  have hy : y < 2 ^ (x + y) := Nat.lt_of_lt_of_le Nat.lt_two_pow_self (Nat.pow_le_pow_right (by decide) (Nat.le_add_left y x))
  have hb : BitVec.ofNatLT x hx &&& BitVec.ofNatLT y hy = 0#(x + y) := BitVec.eq_of_toNat_eq (by simpa using h)
  simpa [BitVec.add_eq_or_of_and_eq_zero _ _ hb] using (BitVec.toNat_add_of_and_eq_zero hb).symm

theorem testBit_m32_sub {x : Nat} (hx : x < 2 ^ 32) (i : Nat) : (m32 - x).testBit i = (decide (i < 32) && !x.testBit i) := by
  rw [← Nat.testBit_two_pow_sub_succ hx i]; congr 1; simp only [m32]; omega

/-! In one bit: `o` before, `v` written; `r` of kind RW, `c` RW1C, `s` RW1S; `b` that the register has the bit. -/

theorem takenBit_apart (o v r c s b : Bool) (hs : (s && (r || c)) = false) : ((o && (b && !(r || c)) || v && s) && (v && r)) = false := by
  decide +revert

theorem clearedBit_apart (o v r c s b b' : Bool) (hc : (r && c) = false) (hs : (s && (r || c)) = false) :
    ((o && (b && !(r || c)) || v && s || v && r) && (o && c && (b' && !v))) = false := by
  decide +revert

theorem plainBit (o v r c s : Bool) (hc : (r && c) = false) (hs : (s && (r || c)) = false) :
    (o && !(r || c) || v && s || v && r || o && c && !v) = (if r then v else if c then o && !v else o || (s && v)) := by
  decide +revert

/-- The bits that a plain write keeps or sets, those it takes from the value, and those it may clear have none in common (R16). -/
theorem plainWrite_eq_or {sp : RegSpec} {old v : Nat} (hrw : sp.rw < 2 ^ 32) (hw1c : sp.w1c < 2 ^ 32) (hv : v < 2 ^ 32)
    (hc : sp.rw &&& sp.w1c = 0) (hs : sp.w1s &&& (sp.rw ||| sp.w1c) = 0) :
    plainWrite sp old v =
      (old &&& (m32 - (sp.rw ||| sp.w1c))) ||| (v &&& sp.w1s) ||| (v &&& sp.rw) ||| (old &&& sp.w1c &&& (m32 - v)) := by
  have hkept : m32 - sp.rw - sp.w1c = m32 - (sp.rw ||| sp.w1c) := by rw [← add_eq_or_of_and_eq_zero hc, Nat.sub_sub]
  have hkeptBit := testBit_m32_sub (Nat.or_lt_two_pow hrw hw1c)
  rw [and_eq_zero_iff] at hc hs
  simp only [Nat.testBit_or] at hkeptBit hs
  have htaken : ((old &&& (m32 - (sp.rw ||| sp.w1c))) ||| (v &&& sp.w1s)) &&& (v &&& sp.rw) = 0 := by
    refine (and_eq_zero_iff _ _).mpr fun j => ?_
    simpa only [Nat.testBit_or, Nat.testBit_and, hkeptBit] using takenBit_apart _ _ _ _ _ _ (hs j)
  have hcleared : ((old &&& (m32 - (sp.rw ||| sp.w1c))) ||| (v &&& sp.w1s) ||| (v &&& sp.rw)) &&& (old &&& sp.w1c &&& (m32 - v)) = 0 := by
    refine (and_eq_zero_iff _ _).mpr fun j => ?_
    simpa only [Nat.testBit_or, Nat.testBit_and, hkeptBit, testBit_m32_sub hv] using clearedBit_apart _ _ _ _ _ _ _ (hc j) (hs j)
  rw [plainWrite, hkept, Nat.mod_eq_of_lt hv, add_eq_or_of_and_eq_zero htaken, add_eq_or_of_and_eq_zero hcleared]

/-- R16: what a plain write leaves in each bit of a register, where no bit is of two kinds. -/
theorem bitOf_plainWrite {sp : RegSpec} {old v i : Nat} (hrw : sp.rw < 2 ^ 32) (hw1c : sp.w1c < 2 ^ 32) (hv : v < 2 ^ 32) (hi : i < 32)
    (hc : sp.rw &&& sp.w1c = 0) (hs : sp.w1s &&& (sp.rw ||| sp.w1c) = 0) :
    bitOf (plainWrite sp old v) i = (if bitOf sp.rw i then bitOf v i else if bitOf sp.w1c i then bitOf old i && !bitOf v i
      else bitOf old i || (bitOf sp.w1s i && bitOf v i)) := by
  rw [plainWrite_eq_or hrw hw1c hv hc hs]
  rw [and_eq_zero_iff] at hc hs
  simp only [Nat.testBit_or] at hs
  simp only [bitOf_eq_testBit, Nat.testBit_or, Nat.testBit_and, testBit_m32_sub (Nat.or_lt_two_pow hrw hw1c), testBit_m32_sub hv, hi,
    decide_true, Bool.true_and]
  exact plainBit _ _ _ _ _ (hc i) (hs i)

/-! ## Access faults -/

/-- Raising err_vec changes what is sent out and the interrupts' own tables only (R462). -/
theorem raiseErr_frame (fn kind : Nat) (d : Dev) :
    ∃ out msixPba errUp, raiseErr fn kind d = { d with out := out, msixPba := msixPba, errUp := errUp } := by
  unfold raiseErr raiseVec
  split
  · exact ⟨_, _, _, rfl⟩
  · split
    · exact ⟨_, _, _, rfl⟩
    · split <;> exact ⟨_, _, _, rfl⟩

@[simp] theorem raiseErr_keeps (fn kind : Nat) (d : Dev) :
    (raiseErr fn kind d).comp = d.comp ∧ (raiseErr fn kind d).store = d.store ∧ (raiseErr fn kind d).pins = d.pins ∧
    (raiseErr fn kind d).pwr = d.pwr ∧ (raiseErr fn kind d).parts = d.parts := by
  obtain ⟨_, _, _, h⟩ := raiseErr_frame fn kind d
  rw [h]; exact ⟨rfl, rfl, rfl, rfl, rfl⟩

/-- An access fault changes no table and no core (R440). -/
@[simp] theorem accessFaultOf_keeps (fn bar off kind : Nat) (d : Dev) :
    (accessFaultOf fn bar off kind d).comp = d.comp ∧ (accessFaultOf fn bar off kind d).store = d.store ∧
    (accessFaultOf fn bar off kind d).pins = d.pins ∧ (accessFaultOf fn bar off kind d).pwr = d.pwr ∧
    (accessFaultOf fn bar off kind d).parts = d.parts := by
  simp only [accessFaultOf, raiseErr_keeps, setFld_comp, setFld_store, setFld_pins, setFld_pwr, setFld_parts, bump_comp, bump_store,
    bump_pins, bump_pwr, bump_parts]
  split <;> simp

/-! ## REGISTER_WRITE -/

@[simp] theorem barAddr_zero (off : Nat) : barAddr 0 off = off := by simp [barAddr]

theorem gives_registerWrite {fn off val : Nat} (fw : Bool) (s : State) (hfn : fn < 128) (hval : val < 2 ^ 32) (h4 : off % 4 = 0)
    (hoff : off < if fn % 64 = 0 then 2 ^ 26 else 4096) :
    Gives (.registerWrite fn off val fw) s (registerWrite fn off val fw s.dev) := by
  refine (exec_registerWrite fn off val fw s).trans (runIf_next ?_)
  simp only [within, List.all_cons, List.all_nil, hfn, hoff, hval, h4, decide_true, Bool.and_true, beq_self_eq_true]

/-- A write to no register, or in the block of a die that is not up, is an access fault (R440, R613). -/
theorem registerWrite_fault {fn off val : Nat} {fw : Bool} {d : Dev}
    (h : regSpec (barAddr fn off) = none ∨ blockUp d (barAddr fn off) = false) :
    registerWrite fn off val fw d = accessFaultOf fn 0 off 4 d := by
  rcases h with h | h <;> simp [registerWrite, h]

/-- A write of function 0 at a register whose block is up writes that register (R436). -/
theorem gives_regWriteAt {a val : Nat} (fw : Bool) {s : State} (hval : val < 2 ^ 32) (ha : a < 2 ^ 26) (h4 : a % 4 = 0)
    (hsp : (regSpec a).isSome) (hup : blockUp s.dev a = true) :
    Gives (.registerWrite 0 a val fw) s (regWriteAt 0 a val fw s.dev) := by
  have hw : registerWrite 0 a val fw s.dev = regWriteAt 0 a val fw s.dev := by
    simp [registerWrite, Option.isNone_eq_false_iff.mpr hsp, hup]
  exact hw ▸ gives_registerWrite fw s (by decide) hval h4 ha

/-- A plain write changes its register as the register's kinds allow, no other register and nothing else (R16). -/
theorem plainTo_frame {a val : Nat} {d : Dev} {sp : RegSpec} (hsp : regSpec a = some sp) :
    regVal (plainTo a val d) a = plainWrite sp (regVal d a) val ∧ (∀ y, y ≠ a → regVal (plainTo a val d) y = regVal d y) ∧
    plainTo a val d = { d with regs := (plainTo a val d).regs } := by
  have h : plainTo a val d = setReg a (plainWrite sp (regVal d a) val) d := by simp [plainTo, hsp]
  rw [h]
  exact ⟨regVal_setReg_same .., fun y hy => regVal_setReg_other _ _ hy, rfl⟩

/-! ## Registers whose writes have no effect of their own -/

/-- The hub, the Tynas island and the function pages answer before the boot has brought any die up (R613). -/
theorem blockUp_low {d : Dev} {a : Nat} (h : a < 0x1000000) : blockUp d a = true := by
  rw [blockUp, if_neg (by omega), if_neg (by omega), if_neg (by omega)]

theorem hubWrite_plain {o val : Nat} {fw : Bool} {d : Dev} (h : o ∉ [0x10, 0x3008, 0x601C, 0x6024, 0x6030, 0x8000]) :
    hubWrite 0 o val fw d = plainTo o val d := by
  simp only [List.mem_cons, List.not_mem_nil, or_false, not_or] at h
  simp [hubWrite, h]

theorem regWriteAt_pwrPolicy {cl val : Nat} {fw : Bool} {d : Dev} (h : cl < 96) :
    regWriteAt 0 (rPwrPolicy cl) val fw d = plainTo (rPwrPolicy cl) val d := by
  have ho : rPwrPolicy cl % 0x100000 = 0x840 + 4 * (cl % 6) := by simp only [rPwrPolicy, cmpBase]; omega
  have hbase : 0x3000000 ≤ rPwrPolicy cl ∧ rPwrPolicy cl < 0x4000000 := by simp only [rPwrPolicy, cmpBase]; omega
  have hc : cmpWrite ((rPwrPolicy cl - 0x3000000) / 0x100000) (rPwrPolicy cl % 0x100000) (rPwrPolicy cl) val d = plainTo (rPwrPolicy cl) val d := by
    rw [cmpWrite, if_neg (by omega), if_neg (by omega)]
  rw [regWriteAt, if_neg (by omega), if_neg (by omega), if_neg (by omega), if_neg (by omega), if_pos hbase, hc]

theorem regWriteAt_hub {a val : Nat} {fw : Bool} {d : Dev} (h : a < 0x100000) (ho : a ∉ [0x10, 0x3008, 0x601C, 0x6024, 0x6030, 0x8000]) :
    regWriteAt 0 a val fw d = plainTo a val d := by
  rw [regWriteAt, if_pos h, hubWrite_plain ho]

theorem regWriteAt_aon {o val : Nat} {fw : Bool} {d : Dev} (h : o < 0x100000) (ho : o ∉ [0xC, 0x20C]) (hm : ¬ (0x400 ≤ o ∧ o < 0x480)) :
    regWriteAt 0 (0x100000 + o) val fw d = plainTo (0x100000 + o) val d := by
  simp only [List.mem_cons, List.not_mem_nil, or_false, not_or] at ho
  rw [regWriteAt, if_neg (by omega), if_pos (by omega), Nat.add_sub_cancel_left, aonWrite, if_neg ho.1, if_neg ho.2, if_neg hm]

theorem rSqBase_eq {q : Nat} (h : q < 64) : rSqBase q = 0x200800 + 32 * q := by simp only [rSqBase, fnPage]; omega

theorem fnSpec_pairBase {o : Nat} (hpair : 0x800 ≤ o ∧ o < 0x1000 ∧ o % 4 = 0) (hbase : o % 32 < 0x10) (pf : Bool) :
    fnSpec o pf = some { rw := m32, level := 2 } := by
  have hring : (if pf then 0x230 else 0x210) ≤ 0x800 := by cases pf <;> decide
  rw [fnSpec, if_neg (by omega), if_neg (by omega), if_neg (by omega), if_pos hpair, if_pos hbase]

theorem regSpec_sqBase {q : Nat} (h : q < 64) : (regSpec (rSqBase q)).isSome := by
  have ha := rSqBase_eq h
  rw [regSpec, if_neg (by omega), if_neg (by omega), if_pos (by omega), fnSpec_pairBase (by omega) (by omega)]
  rfl

/-- A ring's base register is not written while its pair is enabled (R445). -/
theorem regWriteAt_sqBase {q val : Nat} {fw : Bool} {d : Dev} (h : q < 64) (he : (pairOf d q).enabled = true) :
    regWriteAt 0 (rSqBase q) val fw d = modPair q (fun x => { x with cfgErr := true }) d := by
  have ha := rSqBase_eq h
  have hfn : 64 * (rSqBase q / 2 ^ 32) + (rSqBase q % 2 ^ 32 - 0x200000) / 0x1000 = 0 := by omega
  have ho : rSqBase q % 0x1000 = 0x800 + 32 * q := by omega
  have hq : 64 * 0 + (0x800 + 32 * q - 0x800) / 32 = q := by omega
  rw [regWriteAt, if_neg (by omega), if_neg (by omega), if_neg (by omega), if_neg (by omega), if_neg (by omega), hfn, ho, fnWrite]
  simp only [hq]
  rw [if_neg (by omega), if_neg (by omega), if_neg (by omega), if_pos (by omega), if_pos (by omega), baseWrite, he, Bool.true_or, if_pos rfl]

/-- A write at the address of a register whose block is up, that has no effect of its own, is a plain write and nothing else. -/
theorem answers_plain {a val : Nat} {fw : Bool} {s : State} {sp : RegSpec} (hval : val < 2 ^ 32) (ha : a < 2 ^ 26) (h4 : a % 4 = 0)
    (hsp : regSpec a = some sp) (hup : blockUp s.dev a = true) (hw : regWriteAt 0 a val fw s.dev = plainTo a val s.dev) :
    Answers (.registerWrite 0 a val fw) s (fun d' => regVal d' a = plainWrite sp (regVal s.dev a) val ∧
      (∀ y, y ≠ a → regVal d' y = regVal s.dev y) ∧ d' = { s.dev with regs := d'.regs }) := by
  have hg := gives_regWriteAt fw hval ha h4 (Option.isSome_of_eq_some hsp) hup
  exact answers_of_gives (hw ▸ hg) (plainTo_frame hsp)

/-- Settles O54: no bit is of two kinds, so that a plain write is decided bit by bit; each register named comes down to a plain write, a
faulting write to the access fault, and a base of an enabled ring to cfg_error. -/
theorem registerWrites : Obligations.RegisterWrites := by
  refine ⟨fun sp old v i hrw hw1c _ _ hv hi hc hs => bitOf_plainWrite hrw hw1c hv hi hc hs, ?_⟩
  intro fn off val p cl pair fw s hfn hval h4 hoff hp hcl hpair d a write plain
  refine ⟨fun h => ?_, fun hb sp hsp => ?_, fun sp hsp => ?_, fun sp hsp => ?_, fun sp hsp => ?_, fun sp hsp => ?_, fun hlt h4' he => ?_⟩
  · have hg := gives_registerWrite fw s hfn hval h4 hoff
    rw [registerWrite_fault h] at hg
    exact answers_of_gives hg ⟨rfl, accessFaultOf_keeps fn 0 off 4 d⟩
  · have ha : rPwrPolicy cl = 0x3000840 + 0x100000 * (cl / 6) + 4 * (cl % 6) := by simp only [rPwrPolicy, cmpBase]; omega
    have hup : blockUp s.dev (rPwrPolicy cl) = true := by
      rw [blockUp, if_neg (by omega), if_neg (by omega), if_pos (by omega)]; exact decide_eq_true hb
    exact answers_plain hval (by omega) (by omega) hsp hup (regWriteAt_pwrPolicy hcl)
  · exact answers_plain hval (by decide) rfl hsp (blockUp_low (by decide)) (regWriteAt_hub (by decide) (by decide))
  · have ha : rWdog p = 0x7100 + 16 * p := rfl
    exact answers_plain hval (by omega) (by omega) hsp (blockUp_low (by omega)) (regWriteAt_hub (by omega) (by simp; omega))
  · exact answers_plain hval (by decide) rfl hsp (blockUp_low (by decide)) (regWriteAt_aon (o := 0x500) (by decide) (by decide) (by decide))
  · exact answers_plain hval (by decide) rfl hsp (blockUp_low (by decide)) (regWriteAt_aon (o := 0x208) (by decide) (by decide) (by decide))
  · have hup : blockUp d (rSqBase pair) = true := blockUp_low (by rw [rSqBase_eq hpair]; omega)
    have hg := gives_regWriteAt fw hval hlt h4' (regSpec_sqBase hpair) hup
    rw [regWriteAt_sqBase hpair he] at hg
    exact answers_of_gives hg ⟨rfl, by simp, fun y hy => pairOf_modPair_off _ _ hy, rfl⟩

end Sys2Proof.Scope

/-! ## The state after reset -/

namespace Sys2Proof.Scope

open Sys2Proof.Machine Sys2Proof.Safety Sys2Proof.Laws

/-- After reset the partitions of the two PFs exist and no other (R475). -/
theorem reset_part_exist {p : Nat} (h : (partOf State.reset.dev p).exist = true) : p < 2 ∧ (partOf State.reset.dev p).fn = 64 * p := by
  match p with
  | 0 | 1 => decide
  | p + 2 => exact absurd h (by simp [partOf, State.reset, tget])

/-- Settles O57: an empty table reads its default at every key, so that registers read their reset values and counters 0. -/
theorem resetState : Obligations.ResetState := by
  refine ⟨rfl, fun _ => rfl, fun _ _ _ => rfl, rfl, rfl, rfl, rfl, rfl, rfl, rfl, rfl, rfl, rfl, rfl, rfl, ?_, rfl, rfl, rfl, rfl,
    fun _ => reset_part_exist, ?_⟩ <;> decide

end Sys2Proof.Scope

/-! ## Receive and dispatch at the ports -/

namespace Sys2Proof.Ports

open Sys2Proof.Machine Sys2Proof.Safety Sys2Proof.Laws

/-! ## Receivers -/

/-- The frame arriving at each port, with the registers and the compute dies: of these the end of a frame changes only the first, and only
at its own port. -/
def receivers (d : Dev) : (Nat → Option Nat) × Tab Nat × Compute := (rxOf d, d.regs, d.comp)

theorem receivers_eq_iff {d d' : Dev} :
    receivers d' = receivers d ↔ (∀ bp, rxOf d' bp = rxOf d bp) ∧ d'.regs = d.regs ∧ d'.comp = d.comp := by
  simp only [receivers, Prod.mk.injEq, funext_iff]

@[simp] theorem receivers_onEdge (f : Edge → Edge) (d : Dev) (h : (f d.edge).bps = d.edge.bps) : receivers (onEdge f d) = receivers d :=
  receivers_eq_iff.mpr ⟨fun bp => by simp [rxOf, bpOf, h], rfl, rfl⟩

@[simp] theorem receivers_modFrame (fid : Nat) (f : Frame → Frame) (d : Dev) : receivers (modFrame fid f d) = receivers d := (rfl)
@[simp] theorem receivers_bumpN (c : Ctr) (i j n : Nat) (d : Dev) : receivers (bumpN c i j n d) = receivers d := (rfl)
@[simp] theorem receivers_bump (c : Ctr) (i j : Nat) (d : Dev) : receivers (bump c i j d) = receivers d := (rfl)
@[simp] theorem receivers_emit (o : Out) (d : Dev) : receivers (emit o d) = receivers d := (rfl)
@[simp] theorem receivers_setWay (k : Nat) (w : FlowWay) (d : Dev) : receivers (setWay k w d) = receivers d := (rfl)
@[simp] theorem receivers_modDeep (die r : Nat) (f : DeepReq → DeepReq) (d : Dev) : receivers (modDeep die r f d) = receivers d := (rfl)
@[simp] theorem receivers_modFifo (die : Nat) (f : List Nat → List Nat) (d : Dev) : receivers (modFifo die f d) = receivers d := (rfl)
@[simp] theorem receivers_mapItems (fid : Nat) (f : EItem → Option EItem) (d : Dev) : receivers (mapItems fid f d) = receivers d := (rfl)

theorem receivers_modBp (bp : Nat) (f : Bp → Bp) (d : Dev) (h : ∀ b, (f b).rx = b.rx) : receivers (modBp bp f d) = receivers d :=
  receivers_eq_iff.mpr ⟨fun x => by rw [rxOf, bpOf_modBp]; split <;> simp [rxOf, *], rfl, rfl⟩

/-! ## Arrivals: what a parser's program leaves as it was -/

/-- The part of a frame that receiving it decides: its port, its bytes so far, whether it has ended, and its stamp. -/
def arrived (f : Frame) : Nat × List Byte × Bool × Nat × Nat × Nat := (f.bp, f.bytes, f.ended, f.epoch, f.tag, f.entry)

theorem arrived_eq_iff {f g : Frame} : arrived f = arrived g ↔
    f.bp = g.bp ∧ f.bytes = g.bytes ∧ f.ended = g.ended ∧ f.epoch = g.epoch ∧ f.tag = g.tag ∧ f.entry = g.entry := by
  simp only [arrived, Prod.mk.injEq]

/-- The device `d'` has the receivers and pipelines of `d`, and its frames that have not ended stand as they arrived. -/
structure ArrivalsKept (d d' : Dev) : Prop where
  receivers : receivers d' = receivers d
  pipes : d'.edge.pipes = d.edge.pipes
  nextFrame : d'.edge.nextFrame = d.edge.nextFrame
  frames : ∀ k, (frameOf d k).ended = false → arrived (frameOf d' k) = arrived (frameOf d k)

namespace ArrivalsKept

theorem refl (d : Dev) : ArrivalsKept d d := ⟨rfl, rfl, rfl, fun _ _ => rfl⟩

theorem trans {a b c : Dev} (h : ArrivalsKept a b) (h' : ArrivalsKept b c) : ArrivalsKept a c where
  receivers := h'.receivers.trans h.receivers
  pipes := h'.pipes.trans h.pipes
  nextFrame := h'.nextFrame.trans h.nextFrame
  frames k hk := by
    obtain ⟨-, -, hended, -⟩ := arrived_eq_iff.mp (h.frames k hk)
    exact (h'.frames k (hended.trans hk)).trans (h.frames k hk)

variable {a d : Dev}

theorem setParser (pa : Nat) (p : Parser) (h : ArrivalsKept a d) : ArrivalsKept a (setParser pa p d) :=
  h.trans ⟨rfl, rfl, rfl, fun _ _ => rfl⟩

theorem bump (c : Ctr) (i j : Nat) (h : ArrivalsKept a d) : ArrivalsKept a (bump c i j d) :=
  h.trans ⟨rfl, rfl, rfl, fun _ _ => rfl⟩

theorem modBp {bp : Nat} {f : Bp → Bp} (hf : ∀ b, (f b).rx = b.rx) (h : ArrivalsKept a d) : ArrivalsKept a (modBp bp f d) :=
  h.trans ⟨receivers_modBp bp f d hf, rfl, rfl, fun _ _ => rfl⟩

theorem modFrame {fid : Nat} {f : Frame → Frame} (hf : ∀ g, arrived (f g) = arrived g) (h : ArrivalsKept a d) :
    ArrivalsKept a (modFrame fid f d) :=
  h.trans ⟨rfl, rfl, rfl, fun k _ => by rw [frameOf_modFrame]; split <;> simp [*]⟩

/-- Removing a frame that has ended removes none that is arriving. -/
theorem remove {fid : Nat} (hend : (frameOf d fid).ended = true) (h : ArrivalsKept a d) :
    ArrivalsKept a (onEdge (fun e => { e with frames := tdel e.frames fid }) d) := by
  refine h.trans ⟨rfl, rfl, rfl, fun k hk => ?_⟩
  have hne : k ≠ fid := by rintro rfl; simp [hend] at hk
  simp only [frameOf, onEdge_edge, tget_tdel_other _ _ hne]

theorem dropFrame {fid : Nat} (hend : (frameOf d fid).ended = true) (h : ArrivalsKept a d) : ArrivalsKept a (dropFrame fid d) :=
  .remove (by simpa using hend) (.modBp (fun _ => rfl) h)

theorem gcFrame (fid : Nat) (h : ArrivalsKept a d) : ArrivalsKept a (gcFrame fid d) := by
  simp only [Machine.gcFrame]; split
  · rename_i hgc
    simp only [Bool.and_eq_true] at hgc
    obtain ⟨⟨⟨⟨hend, -⟩, -⟩, -⟩, -⟩ := hgc
    exact .remove hend h
  · exact h

theorem slowDeliver (f : Frame) (i : SlowItem) (h : ArrivalsKept a d) : ArrivalsKept a (slowDeliver f i d) := by
  unfold Machine.slowDeliver; split <;> exact h.trans ⟨rfl, rfl, rfl, fun _ _ => rfl⟩

theorem deliverOrHold (fid : Nat) (i : SlowItem) (h : ArrivalsKept a d) : ArrivalsKept a (deliverOrHold fid i d) := by
  simp only [Machine.deliverOrHold]; split
  · split
    · exact h
    · exact .slowDeliver _ _ h
  · exact .modFrame (fun _ => rfl) h

theorem slowAdmit (die cls : Nat) (h : ArrivalsKept a d) : ArrivalsKept a (slowAdmit die cls d).2 := by
  rw [Machine.slowAdmit, apply_ite Prod.snd]
  exact iteInduction (fun _ => h.trans ⟨rfl, rfl, rfl, fun _ _ => rfl⟩) (fun _ => h.trans ⟨rfl, rfl, rfl, fun _ _ => rfl⟩)

theorem slowSend (fid cause : Nat) (verdict : List Byte) (outputs : List Nat) (trunc : Nat) (h : ArrivalsKept a d) :
    ArrivalsKept a (slowSend fid cause verdict outputs trunc d) := by
  simp only [Machine.slowSend]; split
  · exact .bump _ _ _ h
  · split
    · exact .deliverOrHold _ _ (.slowAdmit _ _ h)
    · exact .slowAdmit _ _ h

theorem toSlowPath (fid cause : Nat) (verdict : List Byte) (outputs : List Nat) (h : ArrivalsKept a d) :
    ArrivalsKept a (toSlowPath fid cause verdict outputs d) :=
  .gcFrame _ (.modFrame (fun _ => rfl) (.slowSend _ _ _ _ _ (.modBp (fun _ => rfl) h)))

theorem endProgram (pa cause : Nat) (h : ArrivalsKept a d) : ArrivalsKept a (endProgram pa cause d) := by
  simp only [Machine.endProgram]; split
  · exact h
  · have hcounted {c i j fid f} (hf : ∀ g, arrived (f g) = arrived g) :
        ArrivalsKept a (Machine.bump c i j (Machine.modFrame fid f (Machine.setParser pa {} d))) :=
      .bump _ _ _ (.modFrame hf (.setParser _ _ h))
    exact iteInduction (fun hbad => .dropFrame (Bool.and_eq_true_iff.mp hbad).1 (hcounted fun _ => rfl))
      (fun _ => .toSlowPath _ _ _ _ (hcounted fun _ => rfl))

theorem endDone (pa : Nat) (h : ArrivalsKept a d) : ArrivalsKept a (endDone pa d) := by
  simp only [Machine.endDone]; split
  · exact h
  · exact .modFrame (fun _ => rfl) (.setParser _ _ h)

theorem claveApply (pa : Nat) (i : Instr) (r : CRes) (h : ArrivalsKept a d) : ArrivalsKept a (claveApply pa i r d) := by
  cases r with
  | ok p cost => exact iteInduction (fun _ => .setParser _ _ h) (fun _ => .endProgram _ _ h)
  | ends cause cost => exact iteInduction (fun _ => .endProgram _ _ h) (fun _ => .endProgram _ _ h)
  | done => exact iteInduction (fun _ => .endDone _ h) (fun _ => .endProgram _ _ h)
  | stall => exact .setParser _ _ h

theorem claveResume (pa : Nat) (h : ArrivalsKept a d) : ArrivalsKept a (claveResume pa d) := by
  simp only [Machine.claveResume]; split
  · split
    · split
      · exact .endProgram _ _ h
      · exact h
    · exact .claveApply _ _ _ (.setParser _ _ h)
  · exact h

/-- Whatever a stalled parser does once it resumes, no frame that is still arriving is removed or altered as received. -/
theorem resumeFrame (fid : Nat) (h : ArrivalsKept a d) : ArrivalsKept a (resumeFrame fid d) := by
  unfold Machine.resumeFrame; split
  · exact .claveResume _ h
  · exact h

end ArrivalsKept

/-! ## What the end of a frame leaves of the receivers -/

@[simp] theorem receivers_resumeFrame (fid : Nat) (d : Dev) : receivers (resumeFrame fid d) = receivers d :=
  (ArrivalsKept.resumeFrame fid (.refl d)).receivers

@[simp] theorem receivers_gcFrame (fid : Nat) (d : Dev) : receivers (gcFrame fid d) = receivers d :=
  (ArrivalsKept.gcFrame fid (.refl d)).receivers

@[simp] theorem receivers_slowDeliver (f : Frame) (i : SlowItem) (d : Dev) : receivers (slowDeliver f i d) = receivers d :=
  (ArrivalsKept.slowDeliver f i (.refl d)).receivers

@[simp] theorem receivers_forEach {α : Type} (l : List α) (f : α → Dev → Dev) (d : Dev) (h : ∀ x d, receivers (f x d) = receivers d) :
    receivers (forEach l f d) = receivers d := by
  induction l generalizing d with
  | nil => rfl
  | cons x l ih => exact (ih (f x d)).trans (h x d)

@[simp] theorem receivers_when (b : Bool) (f : Dev → Dev) (d : Dev) (h : receivers (f d) = receivers d) :
    receivers (when b f d) = receivers d := by
  cases b
  · rfl
  · exact h

@[simp] theorem receivers_dropFrame (fid : Nat) (d : Dev) : receivers (dropFrame fid d) = receivers d := by
  simp [dropFrame, receivers_modBp]

@[simp] theorem receivers_countHit (f : Frame) (d : Dev) : receivers (countHit f d) = receivers d := by
  unfold countHit; split <;> simp

@[simp] theorem receivers_pfcCheck (bp prio : Nat) (d : Dev) : receivers (pfcCheck bp prio d) = receivers d := by
  simp only [pfcCheck]; split
  · simp
  · split <;> simp

@[simp] theorem receivers_pfcCheckBp (bp : Nat) (d : Dev) : receivers (pfcCheckBp bp d) = receivers d := by
  unfold pfcCheckBp; split
  · refine receivers_forEach _ _ _ fun p d => ?_
    split <;> simp
  · split <;> simp

@[simp] theorem receivers_mapTx (fid : Nat) (f : EItem → EItem) (c : Nat → Dev → Dev) (d : Dev) (h : ∀ x d, receivers (c x d) = receivers d) :
    receivers (mapTx fid f c d) = receivers d := by
  simp [mapTx, h]

@[simp] theorem receivers_abandonDeep (f : Frame) (d : Dev) : receivers (abandonDeep f d) = receivers d := by
  unfold abandonDeep; split
  · rfl
  · dsimp only; split <;> simp

@[simp] theorem receivers_flowSettle (k own : Nat) (l : List Nat) (d : Dev) : receivers (flowSettle k own l d) = receivers d := by
  induction l generalizing d with
  | nil => rfl
  | cons fid l ih =>
    simp only [flowSettle]; split
    · rw [ih]; split <;> simp
    · rfl

@[simp] theorem receivers_flowCommit (fid : Nat) (good : Bool) (d : Dev) : receivers (flowCommit fid good d) = receivers d := by
  simp only [flowCommit]; split
  · split
    · rw [receivers_flowSettle]; split <;> simp
    · simp
  · rfl

/-! ## Bytes of an arriving frame, and its end -/

@[simp] theorem frameOf_bumpN (c : Ctr) (i j n k : Nat) (d : Dev) : frameOf (bumpN c i j n d) k = frameOf d k := (rfl)
@[simp] theorem frameOf_bump (c : Ctr) (i j k : Nat) (d : Dev) : frameOf (bump c i j d) k = frameOf d k := (rfl)

@[simp] theorem frameOf_when_bump (b : Bool) (c : Ctr) (i j k : Nat) (d : Dev) : frameOf (when b (bump c i j) d) k = frameOf d k := by
  cases b <;> rfl

/-- The device in which no frame is arriving at a port. -/
def freePort (bp : Nat) : Dev → Dev := modBp bp (fun b => { b with rx := none })

theorem rxOf_freePort (bp x : Nat) (d : Dev) : rxOf (freePort bp d) x = if x = bp then none else rxOf d x := by
  rw [rxOf, freePort, bpOf_modBp]; split <;> rfl

theorem receivers_freePort_congr (bp : Nat) {d d' : Dev} (h : receivers d' = receivers d) :
    receivers (freePort bp d') = receivers (freePort bp d) := by
  obtain ⟨hrx, hregs, hcomp⟩ := receivers_eq_iff.mp h
  exact receivers_eq_iff.mpr ⟨fun x => by rw [rxOf_freePort, rxOf_freePort, hrx], hregs, hcomp⟩

theorem receivers_modBp_modFrame (bp fid : Nat) (g : Bp → Bp) (f : Frame → Frame) (d : Dev) :
    receivers (modBp bp g (modFrame fid f d)) = receivers (modBp bp g d) := rfl

/-- The end of a bad frame frees its port, whichever stage the frame had reached (R63). -/
theorem receivers_endBad (fid : Nat) (d : Dev) : receivers (endBad fid d) = receivers (freePort (frameOf d fid).bp d) := by
  simp only [endBad, frameOf_modFrame_at]
  split <;> simp [receivers_modBp_modFrame, freePort]

/-- The end of a good frame frees its port (R63). -/
theorem receivers_endGood (fid : Nat) (d : Dev) : receivers (endGood fid d) = receivers (freePort (frameOf d fid).bp d) := by
  simp only [endGood, frameOf_modFrame_at]
  split <;> simp [receivers_modBp_modFrame, freePort]

theorem addBytes_of_fits {fid : Nat} {bs : List Byte} {d : Dev}
    (h : (frameOf d fid).bytes.length + bs.length + 4 ≤ (frameOf d fid).maxFrame) :
    addBytes fid bs d = resumeFrame fid (modFrame fid (fun f => { f with bytes := (frameOf d fid).bytes ++ bs }) d) := by
  simp only [addBytes]; rw [if_neg (by rw [List.length_append]; omega)]

/-- Bytes that fit leave every receiver as it was and stand behind those that had arrived; the rest of the frame's arrival is kept. -/
theorem addBytes_fits {fid : Nat} {bs : List Byte} {d : Dev} (hend : (frameOf d fid).ended = false)
    (h : (frameOf d fid).bytes.length + bs.length + 4 ≤ (frameOf d fid).maxFrame) :
    receivers (addBytes fid bs d) = receivers d ∧ (addBytes fid bs d).edge.pipes = d.edge.pipes ∧
    (addBytes fid bs d).edge.nextFrame = d.edge.nextFrame ∧
    arrived (frameOf (addBytes fid bs d) fid) = arrived { frameOf d fid with bytes := (frameOf d fid).bytes ++ bs } := by
  rw [addBytes_of_fits h]
  have hk := ArrivalsKept.resumeFrame fid (.refl (modFrame fid (fun f => { f with bytes := (frameOf d fid).bytes ++ bs }) d))
  exact ⟨hk.receivers, hk.pipes, hk.nextFrame, by simpa [hend] using hk.frames fid⟩

/-- Bytes beyond max_frame end the frame as bad (R63). -/
theorem receivers_addBytes_long {fid : Nat} {bs : List Byte} {d : Dev}
    (h : (frameOf d fid).maxFrame < (frameOf d fid).bytes.length + bs.length + 4) :
    receivers (addBytes fid bs d) = receivers (freePort (frameOf d fid).bp d) := by
  simp only [addBytes]
  rw [if_pos (by rw [List.length_append]; exact h), receivers_endBad]
  simp only [frameOf_bump, frameOf_modFrame_at]
  exact receivers_freePort_congr _ rfl

/-- Whether its last bytes overrun max_frame, a check fails or all is good, the end of a frame frees its port and no other (R63). -/
theorem receivers_frameEnd {bp n : Nat} {bytes : List Byte} {fcs fec fixed : Bool} {d : Dev} (hrx : rxOf d bp = some n)
    (hend : (frameOf d n).ended = false) (hbp : (frameOf d n).bp = bp) :
    receivers (frameEnd bp bytes fcs fec fixed d) = receivers (freePort bp d) := by
  simp only [frameEnd, hrx]
  by_cases hlen : (frameOf d n).bytes.length + bytes.length + 4 ≤ (frameOf d n).maxFrame
  · obtain ⟨hrec, -, -, harr⟩ := addBytes_fits hend hlen
    have hstill : rxOf (addBytes n bytes d) bp = some n := ((receivers_eq_iff.mp hrec).1 bp).trans hrx
    have hport : (frameOf (addBytes n bytes d) n).bp = bp := (arrived_eq_iff.mp harr).1.trans hbp
    have hfreed {d' : Dev} (h : receivers d' = receivers (addBytes n bytes d)) :
        receivers (freePort bp d') = receivers (freePort bp d) :=
      receivers_freePort_congr bp (h.trans hrec)
    rw [if_neg (not_not_intro hstill)]
    have hcounted (b : Bool) : receivers (when b (bump .rxFecCorrected bp 0) (addBytes n bytes d)) = receivers (addBytes n bytes d) :=
      receivers_when _ _ _ (receivers_bump ..)
    have hbad (c : Ctr) (b : Bool) :
        receivers (endBad n (bump c bp 0 (when b (bump .rxFecCorrected bp 0) (addBytes n bytes d)))) = receivers (freePort bp d) := by
      rw [receivers_endBad, frameOf_bump, frameOf_when_bump, hport]
      exact hfreed ((receivers_bump ..).trans (hcounted b))
    refine iteInduction (motive := fun x => receivers x = _) (fun _ => hbad ..) fun _ =>
      iteInduction (motive := fun x => receivers x = _) (fun _ => hbad ..) fun _ =>
      iteInduction (motive := fun x => receivers x = _) (fun _ => hbad ..) fun _ => ?_
    rw [receivers_endGood, frameOf_bumpN, frameOf_bump, frameOf_when_bump, hport]
    exact hfreed ((receivers_bumpN ..).trans ((receivers_bump ..).trans (hcounted fixed)))
  · have hrec := hbp ▸ receivers_addBytes_long (Nat.lt_of_not_le hlen)
    have hfree : rxOf (addBytes n bytes d) bp ≠ some n := by
      simp [(receivers_eq_iff.mp hrec).1 bp, rxOf_freePort]
    rw [if_pos hfree, hrec]

/-! ## FRAME_RECEIVE, PARSER_DISPATCH and pauses -/

/-- The device in which a new frame stands at the end of its port's pipeline, with none of its bytes yet. -/
def admitFrame (bp total : Nat) (d : Dev) : Dev :=
  modBp bp (fun b => { b with rx := some d.edge.nextFrame, order := b.order ++ [d.edge.nextFrame] })
    (onEdge (fun e => { e with
      nextFrame := d.edge.nextFrame + 1, frames := tput {} e.frames d.edge.nextFrame (newFrame d bp total)
      pipes := tmod [] e.pipes (pipeOf bp) (· ++ [d.edge.nextFrame]) }) d)

@[simp] theorem frameOf_admitFrame (bp total : Nat) (d : Dev) : frameOf (admitFrame bp total d) d.edge.nextFrame = newFrame d bp total :=
  tget_tput_same ..

section

variable {bp total : Nat} {bytes : List Byte} {d : Dev}

/-- On a port that is enabled, linked and free, FRAME_RECEIVE asks only whether the pipeline has room. -/
theorem frameReceive_of_up (hen : bpEnabled d bp = true) (hlink : (bpOf d bp).link = true) (hrx : (bpOf d bp).rx = none) :
    frameReceive bp total bytes d = if 256 ≤ (tget [] d.edge.pipes (pipeOf bp)).length then bump .dropParseBusy bp 0 d
      else addBytes d.edge.nextFrame bytes (admitFrame bp total d) := by
  simp only [frameReceive]
  rw [if_neg (by simp [hen, hlink, hrx])]
  rfl

/-- The first bytes of a frame leave it arriving at its port, last in its pipeline and stamped (R35, R66, R69). -/
theorem frameReceive_stamps (hen : bpEnabled d bp = true) (hlink : (bpOf d bp).link = true) (hrx : (bpOf d bp).rx = none)
    (hroom : (tget [] d.edge.pipes (pipeOf bp)).length < 256) (hlen : bytes.length + 4 ≤ maxFrameOf d (bp / 4)) :
    receivers (frameReceive bp total bytes d) = receivers (admitFrame bp total d) ∧
    (frameReceive bp total bytes d).edge.pipes = tmod [] d.edge.pipes (pipeOf bp) (· ++ [d.edge.nextFrame]) ∧
    (frameReceive bp total bytes d).edge.nextFrame = d.edge.nextFrame + 1 ∧
    arrived (frameOf (frameReceive bp total bytes d) d.edge.nextFrame) = arrived { newFrame d bp total with bytes := bytes } := by
  rw [frameReceive_of_up hen hlink hrx, if_neg (Nat.not_le_of_lt hroom)]
  obtain ⟨hrec, hpipes, hnext, harr⟩ := addBytes_fits (fid := d.edge.nextFrame) (bs := bytes) (d := admitFrame bp total d)
    (by simp [newFrame]) (by simpa [newFrame] using hlen)
  rw [frameOf_admitFrame] at harr
  exact ⟨hrec, hpipes, hnext, harr⟩

end

/-- A free parser takes the first frame of its pipeline that is ready, and stands at its entry (R47, R66, R69). -/
theorem parserDispatch_found {pa n : Nat} {d : Dev} (hfree : (parserOf d pa).frame = none)
    (hfirst : (tget [] d.edge.pipes (pa / 80)).find? (fun k => (frameOf d k).ended || decide (128 ≤ (frameOf d k).bytes.length)
        || decide (64 ≤ (frameOf d k).len ∧ (frameOf d k).len - 4 ≤ (frameOf d k).bytes.length)) = some n) :
    parserDispatch pa d = setParser pa { frame := some n, pc := (frameOf d n).entry * 64 } (modFrame n (fun f => { f with stage := .parsing })
      (onEdge (fun e => { e with pipes := tmod [] e.pipes (pa / 80) (·.erase n) }) d)) := by
  simp only [parserDispatch, hfree, hfirst, frameOf_modFrame_at]
  rfl

/-- A key holds `v` once `v` has been written at each of a list of keys, where it is one of them or held `v` before. -/
theorem tget_foldl_tput {v q : Nat} (l : List Nat) (t : Tab Nat) (h : q ∈ l ∨ tget 0 t q = v) :
    tget 0 (l.foldl (fun t x => tput 0 t x v) t) q = v := by
  induction l generalizing t with
  | nil => exact h.resolve_left List.not_mem_nil
  | cons x l ih =>
    refine ih _ ?_
    rw [tget_tput]
    by_cases hq : q = x
    · exact .inr (if_pos hq)
    · rw [if_neg hq]
      exact h.imp_left fun hmem => (List.mem_cons.mp hmem).resolve_left hq

/-- With pause_mode 1 the MAC counts and consumes a PAUSE frame, which pauses every queue of its port (R49, R168). -/
theorem macControl_pause {bp : Nat} {bytes : List Byte} {d : Dev} (hen : bpEnabled d bp = true) (hlink : (bpOf d bp).link = true)
    (hmode : pauseModeOf d bp = 1) (hop : word16 bytes 14 = 1) :
    macControl bp bytes d = setPause bp (word16 bytes 16) (fun _ => true) (bump .rxMacCtrl bp 0 d) := by
  have hmode' : pauseModeOf (bump .rxMacCtrl bp 0 d) bp = 1 := hmode
  simp only [macControl]
  rw [if_neg (by simp [hen, hlink]), if_neg (by simp [hmode]), if_pos ⟨hmode', hop⟩]

theorem pauseEnd_setPause_all {bp quanta q : Nat} (d : Dev) (hq : q < 16) :
    tget 0 (bpOf (setPause bp quanta (fun _ => true) d) bp).pauseEnd q = if quanta = 0 then 0 else pauseUntil d bp quanta := by
  simp only [setPause, bpOf_modBp_at, if_true]
  exact tget_foldl_tput _ _ (.inl (List.mem_range.mpr hq))

theorem frameBytes_of_rx {bp n : Nat} (bytes : List Byte) {d : Dev} (hrx : rxOf d bp = some n) :
    frameBytes bp bytes d = addBytes n bytes d := by
  simp only [frameBytes, hrx]

/-- Settles O5: each command comes down to its effect on the port, the pipeline or the parser; what a resumed parser or the end of a
frame does besides leaves the receivers as they are. -/
theorem portReceiveAndDispatch : Obligations.PortReceiveAndDispatch := by
  intro bp pa total queue bytes fcs fec fixed s hbp hpa hqueue d up pipe fid
  have gives {c : Instr} {f : Dev → Dev} (hx : exec c s = run c f s) (hw : wellFormed c = true) : Gives c s (f d) := hx.trans (run_next hw)
  have hport : within [(bp, 128)] = true := by simp [within, hbp]
  refine ⟨fun ⟨hen, hlink⟩ hrx hroom hlen => ?_, fun ⟨hen, hlink⟩ hrx hfull => ?_, fun n hrx hend => ⟨fun hlen => ?_, fun hn => ?_⟩,
    fun ⟨hen, hlink⟩ hmode hop => ?_, fun hdue => ?_, fun n hfree hfirst => ?_⟩
  · obtain ⟨hrec, hpipes, hnext, harr⟩ := frameReceive_stamps (total := total) hen hlink hrx hroom hlen
    obtain ⟨hrx', hregs, hcomp⟩ := receivers_eq_iff.mp hrec
    obtain ⟨hbp', hbytes, -, hepoch, htag, hentry⟩ := arrived_eq_iff.mp harr
    refine answers_of_gives (gives (exec_frameReceive bp total bytes s) hport)
      ⟨(hrx' bp).trans (by simp [rxOf, admitFrame, fid]), hnext, ?_, hbp', hbytes, Prod.ext hepoch htag, hentry, hregs, hcomp⟩
    rw [hpipes]
    exact tget_tmod_same ..
  · have hg := gives (exec_frameReceive bp total bytes s) hport
    have hfull' : 256 ≤ (tget [] d.edge.pipes (pipeOf bp)).length := hfull
    rwa [frameReceive_of_up hen hlink hrx, if_pos hfull'] at hg
  · obtain ⟨hrec, -, -, harr⟩ := addBytes_fits hend hlen
    obtain ⟨hrx', hregs, hcomp⟩ := receivers_eq_iff.mp hrec
    obtain ⟨-, hbytes, -⟩ := arrived_eq_iff.mp harr
    have hg := gives (exec_frameBytesArrive bp bytes s) hport
    rw [frameBytes_of_rx bytes hrx] at hg
    exact answers_of_gives hg ⟨(hrx' bp).trans hrx, hbytes, hregs, hcomp⟩
  · have hrec := receivers_frameEnd (bytes := bytes) (fcs := fcs) (fec := fec) (fixed := fixed) hrx hend hn
    obtain ⟨hrx', hregs, hcomp⟩ := receivers_eq_iff.mp hrec
    exact answers_of_gives (gives (exec_frameEnd bp bytes fcs fec fixed s) hport)
      ⟨(hrx' bp).trans (by simp [rxOf_freePort]), hregs, hcomp⟩
  · have hg := gives (exec_macControlFrameReceive bp bytes s) hport
    rw [macControl_pause hen hlink hmode hop] at hg
    exact answers_of_gives hg ⟨ctrVal_bump_same .., fun q hq => pauseEnd_setPause_all _ hq, fun x hx => bpOf_modBp_off _ _ hx, rfl⟩
  · have hg := gives (exec_pauseExpire bp queue s) (by simp [wf_pauseExpire, within, hbp, hqueue])
    rwa [pauseExpire, if_pos hdue] at hg
  · have hg := gives (exec_parserDispatch pa s) (by simp [wf_parserDispatch, within, hpa])
    rw [parserDispatch_found hfree hfirst] at hg
    exact answers_of_gives hg ⟨parserOf_setParser_at .., frameOf_modFrame_at n (fun f => { f with stage := .parsing }) _,
      tget_tmod_same [] d.edge.pipes (pa / 80) (·.erase n), fun x hx => parserOf_setParser_off _ _ hx, rfl⟩

end Sys2Proof.Ports

/-! ## Messages between a flow cache and its flow table -/

namespace Sys2Proof.Flows

open Sys2Proof.Machine Sys2Proof.Safety Sys2Proof.Laws

/-! ## The two queues of an edge die and its store die, read back -/

section

variable (die : Nat) (d : Dev)

@[simp] theorem flowOut_sendFlow (m : FlowMsg) :
    tget [] (sendFlow die m d).edge.flowOut die = tget [] d.edge.flowOut die ++ [m] :=
  tget_tmod_same [] d.edge.flowOut die (· ++ [m])

@[simp] theorem wayOf_sendFlow (m : FlowMsg) (k : Nat) : wayOf (sendFlow die m d) k = wayOf d k := (rfl)

@[simp] theorem flowIn_sendBack (m : FlowBack) :
    tget [] (sendBack die m d).edge.flowIn die = tget [] d.edge.flowIn die ++ [m] :=
  tget_tmod_same [] d.edge.flowIn die (· ++ [m])

variable {die d}

theorem flowOut_flowPop {m : FlowMsg} {rest : List FlowMsg} (h : tget [] d.edge.flowOut die = m :: rest) :
    tget [] (flowPop die d).edge.flowOut die = rest :=
  (tget_tmod_same [] d.edge.flowOut die List.tail).trans (congrArg List.tail h)

theorem flowIn_backPop {m : FlowBack} {rest : List FlowBack} (h : tget [] d.edge.flowIn die = m :: rest) :
    tget [] (backPop die d).edge.flowIn die = rest :=
  (tget_tmod_same [] d.edge.flowIn die List.tail).trans (congrArg List.tail h)

end

/-- A value that differs from the default is listed. -/
theorem mem_of_tget_ne {α : Type} {v : α} {t : Tab α} {k : Nat} (h : tget v t k ≠ v) : (k, tget v t k) ∈ t := by
  induction t with
  | nil => exact absurd rfl h
  | cons e t ih =>
    by_cases he : e.1 = k
    · simp [tget, ← he]
    · simp only [tget, if_neg he] at h ⊢
      exact List.mem_cons_of_mem _ (ih h)

/-- A loop whose every round changes the edge dies only changes the edge dies only. -/
theorem foldl_edge_only {α : Type} {f : Dev → α → Dev} (hf : ∀ d x, f d x = { d with edge := (f d x).edge }) (l : List α) (d : Dev) :
    l.foldl f d = { d with edge := (l.foldl f d).edge } := by
  induction l generalizing d with
  | nil => rfl
  | cons x l ih => rw [List.foldl_cons, ih, hf d x]

/-- A loop whose every round leaves the flow tables as they were leaves them as they were. -/
theorem foldl_flowTab {α : Type} {f : Dev → α → Dev} (hf : ∀ d x, (f d x).edge.flowTab = d.edge.flowTab) (l : List α) (d : Dev) :
    (l.foldl f d).edge.flowTab = d.edge.flowTab := by
  induction l generalizing d with
  | nil => rfl
  | cons x l ih => rw [List.foldl_cons, ih, hf]

/-! ## FLOW_LOOKUP_OR_INSERT and FLOW_WRITEBACK -/

/-- The device with other flow tables. -/
def withFlowTab (t : Tab FlowEntry) (d : Dev) : Dev := onEdge (fun g => { g with flowTab := t }) d

/-- A move of a flow entry changes the flow tables only (R110). -/
theorem moveFlow_frame (die : Nat) (m : Move) (d : Dev) : ∃ t, moveFlow die m d = withFlowTab t d := by
  unfold moveFlow; split
  · exact ⟨_, rfl⟩
  · exact ⟨d.edge.flowTab, rfl⟩

theorem foldl_moveFlow_frame (die : Nat) (ms : List Move) (d : Dev) :
    ∃ t, ms.foldl (fun d m => moveFlow die m d) d = withFlowTab t d := by
  induction ms generalizing d with
  | nil => exact ⟨d.edge.flowTab, rfl⟩
  | cons m ms ih =>
    obtain ⟨t, ht⟩ := moveFlow_frame die m d
    obtain ⟨u, hu⟩ := ih (withFlowTab t d)
    exact ⟨u, by rw [List.foldl_cons, ht, hu]; rfl⟩

/-- Wherever a flow entry is inserted, the flow tables change and nothing else (R110). -/
theorem insertFlow_frame {die : Nat} {e : FlowEntry} {d d1 : Dev} (h : insertFlow die e d = some d1) : ∃ t, d1 = withFlowTab t d := by
  have stash : ((List.range 16).find? fun i => !(ftAt d (ftStash die i)).valid).map (fun i => setFt (ftStash die i) e d) = some d1 →
      ∃ t, d1 = withFlowTab t d := by
    rw [Option.map_eq_some_iff]
    rintro ⟨i, -, rfl⟩
    exact ⟨_, rfl⟩
  simp only [insertFlow] at h
  split at h
  · exact stash h
  · rename_i ms _
    obtain ⟨t, ht⟩ := foldl_moveFlow_frame die ms d
    rw [ht] at h
    split at h
    · cases h; exact ⟨_, rfl⟩
    · split at h
      · cases h; exact ⟨_, rfl⟩
      · exact stash h

section

variable {die tag profile gen time : Nat} {rest : List FlowMsg} {d : Dev}

/-- A lookup of a flow whose aging is in progress goes behind the waiting messages (R112). -/
theorem flowServe_of_aging (h : tget [] d.edge.flowOut die = .lookup tag profile gen time :: rest) (ha : agingNow d die tag = true) :
    flowServe die d = sendFlow die (.lookup tag profile gen time) (flowPop die d) := by
  simp only [flowServe, flowHead, h, List.head?_cons, if_pos ha]

/-- A lookup of a flow the store die holds is answered by the entry (R109). -/
theorem flowServe_of_held {k : Nat} (h : tget [] d.edge.flowOut die = .lookup tag profile gen time :: rest)
    (ha : agingNow d die tag = false) (hk : ftFind d die tag = some k) :
    flowServe die d = sendBack die (.answer tag (some (ftAt d k)) false) (flowPop die d) := by
  have hk' : ftFind (flowPop die d) die tag = some k := hk
  simp only [flowServe, flowHead, h, List.head?_cons, ha, Bool.false_eq_true, if_false, hk']
  rfl

/-- A lookup of a new flow is answered by the entry inserted, and counted (R110). -/
theorem flowServe_of_inserted {d1 : Dev} (h : tget [] d.edge.flowOut die = .lookup tag profile gen time :: rest)
    (ha : agingNow d die tag = false) (hk : ftFind d die tag = none) (hroom : flowCount d die < 4194304)
    (hins : insertFlow die { valid := true, tag, profile, gen, firstSeen := time, lastSeen := time } (flowPop die d) = some d1) :
    flowServe die d = sendBack die
      (.answer tag (some { valid := true, tag, profile, gen, firstSeen := time, lastSeen := time }) true) (bump .flowLearned die 0 d1) := by
  have hk' : ftFind (flowPop die d) die tag = none := hk
  have hroom' : flowCount (flowPop die d) die < 4194304 := hroom
  simp only [flowServe, flowHead, h, List.head?_cons, ha, Bool.false_eq_true, if_false, hk', if_pos hroom', hins]

/-- A lookup of a new flow is refused where the die holds 4,194,304 flows (R110). -/
theorem flowServe_of_full (h : tget [] d.edge.flowOut die = .lookup tag profile gen time :: rest)
    (ha : agingNow d die tag = false) (hk : ftFind d die tag = none) (hfull : 4194304 ≤ flowCount d die) :
    flowServe die d = sendBack die (.answer tag none false) (flowPop die d) := by
  have hk' : ftFind (flowPop die d) die tag = none := hk
  have hfull' : ¬ flowCount (flowPop die d) die < 4194304 := Nat.not_lt_of_le hfull
  simp only [flowServe, flowHead, h, List.head?_cons, ha, Bool.false_eq_true, if_false, hk', if_neg hfull']

/-- A write-back replaces the entry that the store die holds, and is discarded where it holds none (R107, R111). -/
theorem flowApplyWb_of_head {e : FlowEntry} (h : tget [] d.edge.flowOut die = .writeback e :: rest) :
    flowApplyWb die d = match ftFind d die e.tag with
      | some k => setFt k e (flowPop die d)
      | none => flowPop die d := by
  simp only [flowApplyWb, flowHead, h, List.head?_cons]
  rfl

end

/-! ## FLOW_CACHE_FLUSH -/

/-- The device in which way `k` of a flow cache is clean and its entry is queued as a write-back. -/
def cleanWay (die : Nat) (d : Dev) (k : Nat) : Dev :=
  sendFlow die (.writeback (wayOf d k).entry) (setWay k { wayOf d k with dirty := false } d)

theorem wayOf_cleanWay (die k x : Nat) (d : Dev) :
    wayOf (cleanWay die d k) x = if x = k then { wayOf d k with dirty := false } else wayOf d x := wayOf_setWay ..

theorem wayOf_foldl_cleanWay (die : Nat) (l : List Nat) (d : Dev) (x : Nat) :
    wayOf (l.foldl (cleanWay die) d) x = if x ∈ l then { wayOf d x with dirty := false } else wayOf d x := by
  induction l generalizing d with
  | nil => rfl
  | cons k l ih =>
    rw [List.foldl_cons, ih, wayOf_cleanWay]
    by_cases hx : x = k
    · subst hx; simp
    · simp [hx]

/-- The ways of a die that a flush cleans: those listed dirty. -/
def dirtyWays (d : Dev) (die : Nat) : List Nat := (d.edge.fcache.filter fun e => e.1 / 65536 == die && e.2.dirty).map (·.1)

theorem flowFlush_eq (die : Nat) (d : Dev) : flowFlush die d = (dirtyWays d die).foldl (cleanWay die) d := rfl

theorem mem_dirtyWays {d : Dev} {k : Nat} (h : (wayOf d k).dirty = true) : k ∈ dirtyWays d (k / 65536) := by
  have hne : wayOf d k ≠ {} := fun he => by simp [he] at h
  exact List.mem_map.mpr ⟨_, List.mem_filter.mpr ⟨mem_of_tget_ne hne, by simpa [wayOf] using h⟩, rfl⟩

/-- A flush leaves no way of the die dirty (R107). -/
theorem flowFlush_cleans {die k : Nat} (d : Dev) (hk : k / 65536 = die) : (wayOf (flowFlush die d) k).dirty = false := by
  subst hk
  rw [flowFlush_eq, wayOf_foldl_cleanWay]
  split
  · rfl
  · rename_i hmem
    exact eq_false_of_ne_true fun hd => hmem (mem_dirtyWays hd)

theorem flowFlush_entry (die k : Nat) (d : Dev) : (wayOf (flowFlush die d) k).entry = (wayOf d k).entry := by
  rw [flowFlush_eq, wayOf_foldl_cleanWay]; split <;> rfl

theorem flowFlush_frame (die : Nat) (d : Dev) :
    (flowFlush die d).edge.flowTab = d.edge.flowTab ∧ flowFlush die d = { d with edge := (flowFlush die d).edge } := by
  rw [flowFlush_eq]
  exact ⟨foldl_flowTab (f := cleanWay die) (fun _ _ => rfl) _ d, foldl_edge_only (f := cleanWay die) (fun _ _ => rfl) _ d⟩

/-! ## Aging -/

/-- Messages sent one by one to the edge die stand behind those that wait, in order. -/
theorem flowIn_foldl_sendBack {α : Type} (die : Nat) (f : α → FlowBack) (l : List α) (d : Dev) :
    tget [] (l.foldl (fun d x => sendBack die (f x) d) d).edge.flowIn die = tget [] d.edge.flowIn die ++ l.map f := by
  induction l generalizing d with
  | nil => simp
  | cons x l ih => rw [List.foldl_cons, ih, flowIn_sendBack, List.map_cons, List.append_assoc, List.singleton_append]

theorem flowScan_frame (die : Nat) (d : Dev) :
    (flowScan die d).edge.flowTab = d.edge.flowTab ∧ flowScan die d = { d with edge := (flowScan die d).edge } := by
  rw [flowScan]
  exact ⟨foldl_flowTab (by exact fun _ _ => rfl) _ d, foldl_edge_only (by exact fun _ _ => rfl) _ d⟩

/-- A candidate whose flow the edge die does not cache is confirmed; otherwise a cached entry that is newer or pinned is written
back, and any other is removed and confirmed (R111). -/
theorem flowCandidate_of_head {die tag idx last : Nat} {rest : List FlowBack} {d : Dev}
    (h : tget [] d.edge.flowIn die = .candidate tag idx last :: rest) :
    flowCandidate die d = match cacheFind d die tag with
      | some k =>
        if later32 (wayOf d k).entry.lastSeen last = true ∨ 0 < (wayOf d k).pins then
          sendFlow die (.writeback (wayOf d k).entry) (setWay k { wayOf d k with dirty := false } (backPop die d))
        else sendFlow die (.confirm tag idx) (setWay k {} (backPop die d))
      | none => sendFlow die (.confirm tag idx) (backPop die d) := by
  simp only [flowCandidate, backHead, h, List.head?_cons]
  rfl

/-- A confirmation frees an entry that is still idle, and counts it (R111). -/
theorem flowConfirm_of_head {die tag idx : Nat} {rest : List FlowMsg} {d : Dev}
    (h : tget [] d.edge.flowOut die = .confirm tag idx :: rest) :
    flowConfirm die d = match ftFind d die tag with
      | some k => if isIdle d die (ftAt d k) then bump .flowAged die 0 (setFt k {} (flowPop die d)) else flowPop die d
      | none => flowPop die d := by
  simp only [flowConfirm, flowHead, h, List.head?_cons]
  rfl

/-! ## What a frame that goes on to its verdict leaves of the flow messages -/

/-- The messages that wait for the edge dies and the outstanding misses, with the registers and the compute dies: a frame that reads its
flow entry and goes on to its verdict changes none of them. -/
def backlog (d : Dev) : Tab (List FlowBack) × Tab FlowMiss × Tab Nat × Compute := (d.edge.flowIn, d.edge.misses, d.regs, d.comp)

theorem backlog_eq_iff {d : Dev} {tin : Tab (List FlowBack)} {tmiss : Tab FlowMiss} {regs : Tab Nat} {comp : Compute} :
    backlog d = (tin, tmiss, regs, comp) ↔ d.edge.flowIn = tin ∧ d.edge.misses = tmiss ∧ d.regs = regs ∧ d.comp = comp := by
  simp only [backlog, Prod.mk.injEq]

theorem backlog_onEdge (f : Edge → Edge) (d : Dev) (hin : (f d.edge).flowIn = d.edge.flowIn) (hmiss : (f d.edge).misses = d.edge.misses) :
    backlog (onEdge f d) = backlog d := by
  simp [backlog, hin, hmiss]

@[simp] theorem backlog_bumpN (c : Ctr) (i j n : Nat) (d : Dev) : backlog (bumpN c i j n d) = backlog d := (rfl)
@[simp] theorem backlog_bump (c : Ctr) (i j : Nat) (d : Dev) : backlog (bump c i j d) = backlog d := (rfl)
@[simp] theorem backlog_modFrame (fid : Nat) (f : Frame → Frame) (d : Dev) : backlog (modFrame fid f d) = backlog d := (rfl)
@[simp] theorem backlog_modBp (bp : Nat) (f : Bp → Bp) (d : Dev) : backlog (modBp bp f d) = backlog d := (rfl)
@[simp] theorem backlog_modQueue (bp q : Nat) (f : EQueue → EQueue) (d : Dev) : backlog (modQueue bp q f d) = backlog d := (rfl)
@[simp] theorem backlog_modDeep (die r : Nat) (f : DeepReq → DeepReq) (d : Dev) : backlog (modDeep die r f d) = backlog d := (rfl)
@[simp] theorem backlog_modFifo (die : Nat) (f : List Nat → List Nat) (d : Dev) : backlog (modFifo die f d) = backlog d := (rfl)
@[simp] theorem backlog_setWay (k : Nat) (w : FlowWay) (d : Dev) : backlog (setWay k w d) = backlog d := (rfl)
@[simp] theorem backlog_sendFlow (die : Nat) (m : FlowMsg) (d : Dev) : backlog (sendFlow die m d) = backlog d := (rfl)
@[simp] theorem backlog_flowRead (fid k : Nat) (learned : Bool) (d : Dev) : backlog (flowRead fid k learned d) = backlog d := (rfl)
@[simp] theorem backlog_dropFrame (fid : Nat) (d : Dev) : backlog (dropFrame fid d) = backlog d := (rfl)

@[simp] theorem backlog_when (b : Bool) (f : Dev → Dev) (d : Dev) (h : backlog (f d) = backlog d) : backlog (when b f d) = backlog d := by
  cases b
  · rfl
  · exact h

theorem backlog_ite {c : Prop} [Decidable c] {a b d : Dev} (ha : backlog a = backlog d) (hb : backlog b = backlog d) :
    backlog (if c then a else b) = backlog d :=
  iteInduction (motive := fun x => backlog x = backlog d) (fun _ => ha) (fun _ => hb)

@[simp] theorem backlog_forEach {α : Type} (l : List α) (f : α → Dev → Dev) (d : Dev) (h : ∀ x d, backlog (f x d) = backlog d) :
    backlog (forEach l f d) = backlog d := by
  induction l generalizing d with
  | nil => rfl
  | cons x l ih => exact (ih (f x d)).trans (h x d)

@[simp] theorem backlog_gcFrame (fid : Nat) (d : Dev) : backlog (gcFrame fid d) = backlog d := by
  simp only [gcFrame]
  exact backlog_ite rfl rfl

/-! ### The slow path -/

@[simp] theorem backlog_slowDeliver (f : Frame) (i : SlowItem) (d : Dev) : backlog (slowDeliver f i d) = backlog d := by
  unfold slowDeliver
  exact backlog_ite rfl rfl

@[simp] theorem backlog_deliverOrHold (fid : Nat) (i : SlowItem) (d : Dev) : backlog (deliverOrHold fid i d) = backlog d := by
  simp only [deliverOrHold]
  exact backlog_ite (backlog_ite rfl (by simp)) rfl

@[simp] theorem backlog_slowAdmit (die cls : Nat) (d : Dev) : backlog (slowAdmit die cls d).2 = backlog d := by
  rw [slowAdmit, apply_ite Prod.snd]
  exact backlog_ite rfl rfl

@[simp] theorem backlog_slowSend (fid cause : Nat) (verdict : List Byte) (outputs : List Nat) (trunc : Nat) (d : Dev) :
    backlog (slowSend fid cause verdict outputs trunc d) = backlog d := by
  simp only [slowSend]
  exact backlog_ite rfl (backlog_ite (by simp) (by simp))

@[simp] theorem backlog_toSlowPath (fid cause : Nat) (verdict : List Byte) (outputs : List Nat) (d : Dev) :
    backlog (toSlowPath fid cause verdict outputs d) = backlog d := by
  simp [toSlowPath]

/-! ### Egress queues -/

@[simp] theorem backlog_pfcCheck (bp prio : Nat) (d : Dev) : backlog (pfcCheck bp prio d) = backlog d := by
  simp only [pfcCheck]
  exact backlog_ite rfl (backlog_ite rfl rfl)

@[simp] theorem backlog_pfcCheckBp (bp : Nat) (d : Dev) : backlog (pfcCheckBp bp d) = backlog d := by
  unfold pfcCheckBp
  exact backlog_ite (backlog_forEach _ _ _ fun p d => backlog_ite (by simp) rfl) (backlog_ite (by simp) rfl)

@[simp] theorem backlog_enqueue (bp q : Nat) (it : EItem) (near : Bool) (d : Dev) : backlog (enqueue bp q it near d).2 = backlog d := by
  simp only [enqueue, apply_ite Prod.snd]
  refine backlog_ite rfl (backlog_ite rfl (backlog_ite rfl ?_))
  split <;> simp

@[simp] theorem backlog_countRefused (r : Enq) (bp q : Nat) (d : Dev) : backlog (countRefused r bp q d) = backlog d := by
  cases r <;> rfl

@[simp] theorem backlog_sendEgress (die e q : Nat) (it : EItem) (d : Dev) : backlog (sendEgress die e q it d) = backlog d := by
  simp only [sendEgress]
  exact backlog_ite (by simp) rfl

@[simp] theorem backlog_forwardFrame (fid : Nat) (held : Bool) (d : Dev) : backlog (forwardFrame fid held d) = backlog d := by
  simp [forwardFrame]

@[simp] theorem backlog_sendVerdictFrame (fid disp : Nat) (d : Dev) : backlog (sendVerdictFrame fid disp d) = backlog d := by
  simp [sendVerdictFrame]

/-! ### Verdicts -/

@[simp] theorem backlog_decide_ (fid disp source : Nat) (vq : Option Nat) (score : Nat) (outputs : List Nat) (held echo : Bool) (d : Dev) :
    backlog (decide_ fid disp source vq score outputs held echo d) = backlog d := by
  simp only [decide_]
  exact backlog_ite (by simp) (backlog_ite (by simp) (backlog_ite (by simp) (backlog_ite (by simp) (by simp))))

@[simp] theorem backlog_deepDefault (fid : Nat) (c : DeepCause) (held : Bool) (d : Dev) : backlog (deepDefault fid c held d) = backlog d := by
  simp [deepDefault]

@[simp] theorem backlog_deepRequest (fid exprOut : Nat) (d : Dev) : backlog (deepRequest fid exprOut d) = backlog d := by
  simp only [deepRequest]; split
  · simp
  · refine backlog_ite (by simp) ?_
    split
    · simp
    · exact backlog_ite (by simp) (backlog_ite (by simp) (by simp))

@[simp] theorem backlog_resolveFrame (fid : Nat) (d : Dev) : backlog (resolveFrame fid d) = backlog d := by
  simp only [resolveFrame]
  exact backlog_ite (by simp) (backlog_ite (by simp) (backlog_ite
    (backlog_ite (by simp) (backlog_ite (by simp) (by simp))) (backlog_ite (by simp) (by simp))))

/-! ### Flow updates -/

@[simp] theorem backlog_flowSettle (k own : Nat) (l : List Nat) (d : Dev) : backlog (flowSettle k own l d) = backlog d := by
  induction l generalizing d with
  | nil => rfl
  | cons fid l ih =>
    simp only [flowSettle]; split
    · rw [ih]; split <;> simp
    · rfl

@[simp] theorem backlog_flowCommit (fid : Nat) (good : Bool) (d : Dev) : backlog (flowCommit fid good d) = backlog d := by
  simp only [flowCommit]; split
  · split
    · rw [backlog_flowSettle]; split <;> simp
    · simp
  · rfl

@[simp] theorem backlog_flowUntrack (fid : Nat) (c : Ctr) (d : Dev) : backlog (flowUntrack fid c d) = backlog d := by
  simp only [flowUntrack]
  exact backlog_ite (by simp) rfl

@[simp] theorem backlog_afterFlow (fid : Nat) (d : Dev) : backlog (afterFlow fid d) = backlog d := by
  simp [afterFlow]

@[simp] theorem backlog_missFrames (k : Option Nat) (l : List Nat) (first : Bool) (d : Dev) :
    backlog (missFrames k l first d) = backlog d := by
  induction l generalizing first d with
  | nil => rfl
  | cons fid l ih =>
    simp only [missFrames, ih]; split
    · rfl
    · cases k <;> simp

/-! ## FLOW_MISS_ANSWER -/

section

variable {die tag : Nat} {entry : Option FlowEntry} {learned : Bool} {rest : List FlowBack} {d : Dev}

/-- An answer that no miss waits for is taken off, and that is all. -/
theorem flowAnswer_of_no_miss (h : tget [] d.edge.flowIn die = .answer tag entry learned :: rest) (hk : missFind d die tag = none) :
    flowAnswer die d = backPop die d := by
  have hk' : missFind (backPop die d) die tag = none := hk
  simp only [flowAnswer, backHead, h, List.head?_cons, hk']

/-- Whether an answer brings an entry or not and whether a way is free for it, it is taken off, its miss ends, and no other miss, message
to the edge dies, register or compute die changes (R108). -/
theorem backlog_flowAnswer {mk : Nat} (h : tget [] d.edge.flowIn die = .answer tag entry learned :: rest)
    (hk : missFind d die tag = some mk) :
    backlog (flowAnswer die d) = (tmod [] d.edge.flowIn die List.tail, tput {} d.edge.misses mk {}, d.regs, d.comp) := by
  have hk' : missFind (backPop die d) die tag = some mk := hk
  have hended : backlog (onEdge (fun e => { e with misses := tput {} e.misses mk {} }) (backPop die d)) =
      (tmod [] d.edge.flowIn die List.tail, tput {} d.edge.misses mk {}, d.regs, d.comp) := rfl
  simp only [flowAnswer, backHead, h, List.head?_cons, hk']
  split
  · rw [backlog_missFrames, hended]
  · split
    · rw [backlog_missFrames, hended]
    · rw [backlog_missFrames, backlog_setWay, backlog_onEdge _ _ rfl rfl, backlog_when _ _ _ (backlog_sendFlow ..), hended]

end

/-! ## The statement -/

theorem gives_of_exec {c : Instr} {f : Dev → Dev} {s : State} (hx : exec c s = run c f s) (hw : wellFormed c = true) :
    Gives c s (f s.dev) := hx.trans (run_next hw)

/-- Settles O8: each command comes down to its effect on the queues, the flow table and the cache; the frames that an answer lets go on
leave the waiting messages and misses as they are. -/
theorem flowTableMessages : Obligations.FlowTableMessages := by
  intro die s hdie d out inn inn' out'
  have hw : within [(die, 4)] = true := by simp [within, hdie]
  refine ⟨fun tag profile gen time rest hout ha => ?_, fun tag profile gen time rest hout ha => ⟨fun k hk => ?_, fun hk => ⟨?_, ?_⟩⟩,
    fun e rest hout => ?_, ?_, ?_, fun tag idx last rest hin => ?_, fun tag idx rest hout => ?_, fun tag entry learned rest hin => ?_⟩
  · have hg := gives_of_exec (exec_flowLookupOrInsert die s) hw
    rw [flowServe_of_aging hout ha] at hg
    exact answers_of_gives hg ⟨(flowOut_sendFlow ..).trans (congrArg (· ++ _) (flowOut_flowPop hout)), rfl, rfl, rfl⟩
  · have hg := gives_of_exec (exec_flowLookupOrInsert die s) hw
    rw [flowServe_of_held hout ha hk] at hg
    exact answers_of_gives hg ⟨flowOut_flowPop hout, flowIn_sendBack .., rfl⟩
  · intro hroom d1 hins
    have hg := gives_of_exec (exec_flowLookupOrInsert die s) hw
    rw [flowServe_of_inserted hout ha hk hroom hins] at hg
    obtain ⟨t, rfl⟩ := insertFlow_frame hins
    exact answers_of_gives hg
      ⟨flowOut_flowPop hout, flowIn_sendBack .., ctrVal_bump_same .., rfl⟩
  · intro hfull
    have hg := gives_of_exec (exec_flowLookupOrInsert die s) hw
    rw [flowServe_of_full hout ha hk hfull] at hg
    exact answers_of_gives hg ⟨flowOut_flowPop hout, flowIn_sendBack .., rfl⟩
  · have hg := gives_of_exec (exec_flowWriteback die s) hw
    rw [flowApplyWb_of_head hout] at hg
    have hpop := flowOut_flowPop hout
    cases hk : ftFind d die e.tag with
    | none =>
      rw [hk] at hg
      exact answers_of_gives hg ⟨hpop, rfl, rfl⟩
    | some k =>
      rw [hk] at hg
      exact answers_of_gives hg ⟨hpop, rfl, ftAt_setFt_at .., fun j hj => ftAt_setFt_off _ _ hj⟩
  · exact answers_of_gives (gives_of_exec (exec_flowCacheFlush die s) hw)
      ⟨fun k => flowFlush_cleans d, fun k => flowFlush_entry die k d, flowFlush_frame die d⟩
  · exact answers_of_gives (gives_of_exec (exec_flowAgingScan die s) hw)
      ⟨flowIn_foldl_sendBack .., flowScan_frame die d⟩
  · have hg := gives_of_exec (exec_flowAgingCandidate die s) hw
    rw [flowCandidate_of_head hin] at hg
    have hpop := flowIn_backPop hin
    cases hk : cacheFind d die tag with
    | none =>
      rw [hk] at hg
      exact answers_of_gives hg ⟨hpop, rfl, flowOut_sendFlow .., rfl⟩
    | some k =>
      rw [hk] at hg
      by_cases hnew : later32 (wayOf d k).entry.lastSeen last = true ∨ 0 < (wayOf d k).pins
      · simp only [if_pos hnew] at hg ⊢
        exact answers_of_gives hg ⟨hpop, rfl, flowOut_sendFlow .., (wayOf_sendFlow ..).trans (wayOf_setWay_at ..)⟩
      · simp only [if_neg hnew] at hg ⊢
        exact answers_of_gives hg ⟨hpop, rfl, flowOut_sendFlow .., (wayOf_sendFlow ..).trans (wayOf_setWay_at ..)⟩
  · have hg := gives_of_exec (exec_flowAgingConfirm die s) hw
    rw [flowConfirm_of_head hout] at hg
    have hpop := flowOut_flowPop hout
    cases hk : ftFind d die tag with
    | none =>
      rw [hk] at hg
      exact answers_of_gives hg ⟨hpop, rfl⟩
    | some k =>
      rw [hk] at hg
      by_cases hidle : isIdle d die (ftAt d k) = true
      · simp only [if_pos hidle] at hg ⊢
        exact answers_of_gives hg ⟨hpop, ftAt_setFt_at .., ctrVal_bump_same ..⟩
      · simp only [if_neg hidle] at hg ⊢
        exact answers_of_gives hg ⟨hpop, rfl⟩
  · have hg := gives_of_exec (exec_flowMissAnswer die s) hw
    have hpop := flowIn_backPop hin
    cases hk : missFind d die tag with
    | none =>
      rw [flowAnswer_of_no_miss hin hk] at hg
      exact answers_of_gives hg ⟨hpop, rfl, rfl, rfl⟩
    | some k =>
      obtain ⟨hflowIn, hmisses, hregs, hcomp⟩ := backlog_eq_iff.mp (backlog_flowAnswer hin hk)
      refine answers_of_gives hg ⟨?_, hcomp, hregs, ?_⟩
      · exact (congrArg (tget [] · die) hflowIn).trans hpop
      · exact (congrArg (tget {} · k) hmisses).trans (tget_tput_same ..)

end Sys2Proof.Flows

/-! ## Egress scheduling -/

namespace Sys2Proof.Egress

open Sys2Proof.Machine Sys2Proof.Safety Sys2Proof.Laws

/-! ## Bit fields -/

/-- A field written into `v` stands between the bits above it and the bits below it. -/
theorem setBits_eq (v lo w x : Nat) : setBits v lo w x = 2 ^ lo * (2 ^ w * (v / 2 ^ lo / 2 ^ w) + x % 2 ^ w) + v % 2 ^ lo := by
  have hv : v = 2 ^ lo * (2 ^ w * (v / 2 ^ lo / 2 ^ w) + v / 2 ^ lo % 2 ^ w) + v % 2 ^ lo := by
    rw [Nat.div_add_mod, Nat.div_add_mod]
  rw [setBits, bitsOf, Nat.shiftRight_eq_div_pow]
  generalize v / 2 ^ lo / 2 ^ w = c, v / 2 ^ lo % 2 ^ w = b, v % 2 ^ lo = a, x % 2 ^ w = y at hv ⊢
  rw [hv, Nat.mul_add, Nat.mul_add, Nat.mul_comm b, Nat.mul_comm y]
  omega

theorem setBits_div (v lo w x : Nat) : setBits v lo w x / 2 ^ lo = 2 ^ w * (v / 2 ^ lo / 2 ^ w) + x % 2 ^ w := by
  rw [setBits_eq, Nat.mul_add_div (Nat.two_pow_pos lo), Nat.div_eq_of_lt (Nat.mod_lt _ (Nat.two_pow_pos lo)), Nat.add_zero]

@[simp] theorem bitsOf_setBits_same (v lo w x : Nat) : bitsOf (setBits v lo w x) lo w = x % 2 ^ w := by
  rw [bitsOf, Nat.shiftRight_eq_div_pow, setBits_div, Nat.mul_add_mod, Nat.mod_mod]

/-- A field above the one written keeps its value. -/
theorem bitsOf_setBits_above {lo w lo' : Nat} (v x w' : Nat) (h : lo + w ≤ lo') :
    bitsOf (setBits v lo w x) lo' w' = bitsOf v lo' w' := by
  obtain ⟨k, rfl⟩ := Nat.exists_eq_add_of_le h
  simp only [bitsOf, Nat.shiftRight_eq_div_pow, Nat.pow_add, ← Nat.div_div_eq_div_mul, setBits_div]
  rw [Nat.mul_add_div (Nat.two_pow_pos w), Nat.div_eq_of_lt (Nat.mod_lt _ (Nat.two_pow_pos w)), Nat.add_zero]

theorem bitOf_eq_bitsOf (v i : Nat) : bitOf v i = (bitsOf v i 1 == 1) := rfl

/-! ## What the queues and their flow control leave as it was -/

/-- Of the device only the edge dies, the counters and what was sent may differ. -/
def EgressOnly (d d' : Dev) : Prop := d' = { d with edge := d'.edge, ctr := d'.ctr, out := d'.out }

theorem EgressOnly.trans {a b c : Dev} (h : EgressOnly a b) (h' : EgressOnly b c) : EgressOnly a c := by
  unfold EgressOnly at h h' ⊢
  rw [h', h]

/-- Of the device only the edge dies, the counters and what was sent may differ; the frames between dies and in transmission are the
same, and what had been sent stays sent. -/
structure QueuesOnly (d d' : Dev) : Prop where
  interDie : d'.edge.interDie = d.edge.interDie
  txNow : d'.edge.txNow = d.edge.txNow
  out : d.out <+: d'.out
  rest : EgressOnly d d'

namespace QueuesOnly

theorem refl (d : Dev) : QueuesOnly d d := ⟨rfl, rfl, List.prefix_refl _, rfl⟩

theorem trans {a b c : Dev} (h : QueuesOnly a b) (h' : QueuesOnly b c) : QueuesOnly a c where
  interDie := h'.interDie.trans h.interDie
  txNow := h'.txNow.trans h.txNow
  out := h.out.trans h'.out
  rest := h.rest.trans h'.rest

theorem bump (c : Ctr) (i j : Nat) (d : Dev) : QueuesOnly d (bump c i j d) := ⟨rfl, rfl, List.prefix_refl _, rfl⟩

theorem modQueue (bp q : Nat) (f : EQueue → EQueue) (d : Dev) : QueuesOnly d (modQueue bp q f d) :=
  ⟨rfl, rfl, List.prefix_refl _, rfl⟩

theorem ite {c : Prop} [Decidable c] {a b d : Dev} (ha : QueuesOnly d a) (hb : QueuesOnly d b) : QueuesOnly d (if c then a else b) :=
  iteInduction (fun _ => ha) (fun _ => hb)

theorem when {b : Bool} {f : Dev → Dev} {d : Dev} (h : QueuesOnly d (f d)) : QueuesOnly d (when b f d) := ite h (refl d)

theorem forEach {α : Type} {f : α → Dev → Dev} (hf : ∀ x d, QueuesOnly d (f x d)) (l : List α) (d : Dev) :
    QueuesOnly d (forEach l f d) := by
  induction l generalizing d with
  | nil => exact refl d
  | cons x l ih => exact (hf x d).trans (ih (f x d))

theorem gcFrame (fid : Nat) (d : Dev) : QueuesOnly d (gcFrame fid d) := ite ⟨rfl, rfl, List.prefix_refl _, rfl⟩ (refl d)

theorem pfcCheck (bp prio : Nat) (d : Dev) : QueuesOnly d (pfcCheck bp prio d) :=
  ite ⟨rfl, rfl, List.prefix_append .., rfl⟩ (ite ⟨rfl, rfl, List.prefix_append .., rfl⟩ (refl d))

theorem pfcCheckBp (bp : Nat) (d : Dev) : QueuesOnly d (pfcCheckBp bp d) :=
  ite (forEach (fun p d => ite (pfcCheck bp p d) (refl d)) _ d) (ite (pfcCheck bp 8 d) (refl d))

/-- A frame offered to a queue is admitted to it, or refused. -/
theorem enqueue (bp q : Nat) (it : EItem) (near : Bool) (d : Dev) : QueuesOnly d (enqueue bp q it near d).2 := by
  simp only [Machine.enqueue, apply_ite Prod.snd]
  refine ite (refl d) (ite (refl d) (ite (refl d) ?_))
  split
  · exact ((modQueue ..).trans (modQueue ..)).trans (pfcCheckBp ..)
  · exact modQueue ..

theorem countRefused (r : Enq) (bp q : Nat) (d : Dev) : QueuesOnly d (countRefused r bp q d) := by
  cases r
  case done => exact refl d
  all_goals exact bump ..

end QueuesOnly

/-! ## INTER_DIE_FRAME_ARRIVE -/

/-- The oldest frame between two dies is taken and offered to its queue; the frames that remain between dies stay as they were (R170). -/
theorem queuesOnly_interDieArrive {src dst die bp q : Nat} {it : EItem} {d : Dev}
    (h : d.edge.interDie.find? (fun x => x.1 == src && x.2.1 / 32 == dst) = some (die, bp, q, it)) :
    QueuesOnly (onEdge (fun e => { e with interDie := e.interDie.erase (die, bp, q, it) }) d) (interDieArrive src dst d) := by
  have hoffered (d : Dev) : QueuesOnly d (when ((enqueue bp q it false d).1 != .done && it.mirror != 0) (bump .mirrorDrop it.mirror 0)
      (countRefused (enqueue bp q it false d).1 bp q (enqueue bp q it false d).2)) :=
    ((QueuesOnly.enqueue ..).trans (QueuesOnly.countRefused ..)).trans (QueuesOnly.when (QueuesOnly.bump ..))
  simp only [interDieArrive, h]
  split
  · exact (hoffered _).trans (QueuesOnly.gcFrame ..)
  · exact hoffered _

/-! ## TX_DONE -/

/-- The device with `o` in the transmitter of `bp`. -/
def transmits (bp : Nat) (o : Option EItem) : Dev → Dev := onEdge (fun e => { e with txNow := tput none e.txNow bp o })

theorem txOf_transmits (bp : Nat) (o : Option EItem) (x : Nat) (d : Dev) : txOf (transmits bp o d) x = if x = bp then o else txOf d x :=
  tget_tput ..

@[simp] theorem pfcCheckBp_ctr (bp : Nat) (d : Dev) : (pfcCheckBp bp d).ctr = d.ctr := by
  unfold pfcCheckBp
  split
  · refine forEach_ctr _ _ d fun p d => ?_
    split <;> simp
  · split <;> simp

/-- The device once item `i` has left the transmitter of `bp`, and is sent and counted. -/
def sentOff (bp : Nat) (i : EItem) (d : Dev) : Dev :=
  bumpN .txBytes bp 0 i.len (bump .txFrames bp 0 (emit (.frame bp i.bytes i.stomp)
    (transmits bp none (onEdge (fun e => { e with txQueue := tput 0 e.txQueue bp 0 }) d))))

theorem txOf_sentOff (bp : Nat) (i : EItem) (d : Dev) : txOf (sentOff bp i d) bp = none :=
  (txOf_transmits bp none bp _).trans (if_pos rfl)

theorem egressOnly_sentOff (bp : Nat) (i : EItem) (d : Dev) : EgressOnly d (sentOff bp i d) := by
  simp only [EgressOnly, sentOff, transmits, onEdge, emit, bump, bumpN]

theorem ctrVal_sentOff {bp : Nat} (i : EItem) (d : Dev) (hbp : bp < 128) :
    ctrVal (sentOff bp i d) .txFrames bp 0 = ctrVal d .txFrames bp 0 + 1 ∧
    ctrVal (sentOff bp i d) .txBytes bp 0 = ctrVal d .txBytes bp 0 + i.len := by
  have hne : ctrKey .txFrames bp 0 ≠ ctrKey .txBytes bp 0 := fun h =>
    absurd (ctrKey_inj (by omega) (by omega) (by omega) (by omega) h).1 (by decide)
  exact ⟨by rw [sentOff, ctrVal_bumpN, if_neg hne, ctrVal_bump_same]; rfl,
    by rw [sentOff, ctrVal_bumpN_same, bump, ctrVal_bumpN, if_neg hne.symm]; rfl⟩

/-- A whole frame leaves its transmitter; after it only the frame's record and the flow control of its ingress port change (R159, R169). -/
theorem txDone_of_whole {bp : Nat} {i : EItem} {d : Dev} (htx : txOf d bp = some i) (hw : i.whole = true ∨ i.stomp = true) :
    ∃ d1, QueuesOnly (sentOff bp i d) d1 ∧ d1.ctr = (sentOff bp i d).ctr ∧ txDone bp d = pfcCheckBp i.inBp d1 := by
  simp only [txDone, htx, if_pos hw]
  split
  · exact ⟨_, QueuesOnly.gcFrame .., by simp, rfl⟩
  · exact ⟨_, QueuesOnly.refl _, rfl, rfl⟩

/-! ## TX_SELECT -/

/-- The last number below `n` that passes `p`. -/
theorem getLast?_filter_range {p : Nat → Bool} {n q : Nat} (hq : q < n) (hp : p q = true)
    (hlast : ∀ x, x < n → q < x → p x = false) :
    ((List.range n).filter p).getLast? = some q := by
  induction n with
  | zero => exact absurd hq (Nat.not_lt_zero q)
  | succ n ih =>
    rw [List.range_succ, List.filter_append]
    rcases Nat.lt_succ_iff_lt_or_eq.mp hq with hlt | rfl
    · simpa [hlast n n.lt_succ_self hlt] using ih hlt fun x hx => hlast x (Nat.lt_succ_of_lt hx)
    · simp [hp]

/-- Without gates no frame is too long for its window. -/
theorem dropOversize_of_no_gates {bp : Nat} {d : Dev} (h : gateEn d bp = false) (q fuel : Nat) : dropOversize bp q fuel d = d := by
  cases fuel with
  | zero => rfl
  | succ fuel => rw [dropOversize]; split <;> simp [h]

theorem foldl_dropOversize_of_no_gates {bp : Nat} {d : Dev} (h : gateEn d bp = false) (l : List Nat) :
    l.foldl (fun d q => dropOversize bp q ((queueOf d bp q).items.length + 1) d) d = d := by
  induction l with
  | nil => rfl
  | cons q l ih => rw [List.foldl_cons, dropOversize_of_no_gates h, ih]

section

variable {bp q : Nat} {d : Dev}

section

/-! On a port that is up, idle, out of TX_HOLD and without gates. -/

variable (hlink : (bpOf d bp).link = true) (hhold : (bpOf d bp).txHold = false) (hen : bpEnabled d bp = true)
  (hidle : txOf d bp = none) (hgate : gateEn d bp = false)

include hlink hhold hen hidle hgate

/-- The highest strict queue that is eligible starts (R163). -/
theorem txSelect_of_strict (hq : q < 16) (hel : eligible d bp q = true) (hs : isStrict d bp q = true)
    (hlast : ∀ x, x < 16 → q < x → (eligible d bp x && isStrict d bp x) = false) : txSelect bp d = startTx bp q d := by
  simp only [txSelect]
  rw [if_neg (by simp [hlink, hhold, hen, hidle]), foldl_dropOversize_of_no_gates hgate,
    getLast?_filter_range hq (by simp [hel, hs]) hlast]

/-- With no strict queue eligible, the queue that the deficit scheduler picks starts (R164). -/
theorem txSelect_of_dwrr {b : Bp} (hnone : ∀ x, x < 16 → (eligible d bp x && isStrict d bp x) = false)
    (hsome : ∃ x, x < 16 ∧ eligible d bp x = true) (hpick : dwrr d bp 4096 (bpOf d bp) = (some q, b)) :
    txSelect bp d = startTx bp q (modBp bp (fun _ => b) d) := by
  have hfilter : (List.range 16).filter (fun x => eligible d bp x && isStrict d bp x) = [] := by
    simpa [List.filter_eq_nil_iff] using hnone
  have hany : (List.range 16).any (fun x => eligible d bp x) = true := by simpa using hsome
  simp only [txSelect]
  rw [if_neg (by simp [hlink, hhold, hen, hidle]), foldl_dropOversize_of_no_gates hgate, hfilter]
  simp only [List.getLast?_nil, hany, if_true, hpick]

end

/-- A queue after item `i` has left it at Beat `now`, of which `l` remains. -/
def dequeues (i : EItem) (l : List EItem) (now : Nat) (e : EQueue) : EQueue :=
  { e with items := l, dequeued := e.dequeued + 1, touched := true, sojournMax := max e.sojournMax (now - i.enq) }

/-- The device in which item `i` has left queue `q`, of which `l` remains, for the transmitter of `bp`. -/
def loaded (bp q : Nat) (i : EItem) (l : List EItem) (d : Dev) : Dev :=
  transmits bp (some i) (onEdge (fun e => { e with txQueue := tput 0 e.txQueue bp q })
    (modQueue bp q (dequeues i l (beat d)) (shapeCharge bp q (itemLen d i + 20) d)))

theorem startTx_of_head {i : EItem} {l : List EItem} (h : (queueOf d bp q).items = i :: l) :
    startTx bp q d = ptpTransmit bp i (loaded bp q i l d) := by
  simp only [startTx, h]
  rfl

/-- PTP rewrites bytes of the frame in transmission, or posts its timestamp, or does nothing (R519). -/
theorem ptpTransmit_cases (bp : Nat) (i : EItem) (d : Dev) :
    (∃ bytes, ptpTransmit bp i d = transmits bp (some { i with bytes := bytes }) d) ∨
    ∃ t, ptpTransmit bp i d = { d with recPend := t } := by
  unfold ptpTransmit
  split
  · exact .inr ⟨_, rfl⟩
  · split
    · exact .inl ⟨_, rfl⟩
    · split
      · exact .inr ⟨_, rfl⟩
      · exact .inr ⟨_, rfl⟩

/-- The head of queue `q` stands in transmission, of the same source and length, and the rest of the queue remains. -/
theorem startTx_takes_head {i : EItem} {l : List EItem} (h : (queueOf d bp q).items = i :: l) :
    (queueOf (startTx bp q d) bp q).items = l ∧ (∃ i', txOf (startTx bp q d) bp = some i' ∧ i'.src = i.src ∧ i'.len = i.len) ∧
    tget 0 (startTx bp q d).edge.txQueue bp = q ∧ (∀ x, x ≠ bp → txOf (startTx bp q d) x = txOf d x) ∧
    (startTx bp q d).regs = d.regs ∧ (startTx bp q d).comp = d.comp := by
  have hitems : (queueOf (loaded bp q i l d) bp q).items = l :=
    congrArg EQueue.items (tget_tmod_same {} (shapeCharge bp q (itemLen d i + 20) d).edge.queues (16 * bp + q) (dequeues i l (beat d)))
  have hrest : (loaded bp q i l d).regs = d.regs ∧ (loaded bp q i l d).comp = d.comp := by simp [loaded, transmits, shapeCharge]
  have hqueue : tget 0 (loaded bp q i l d).edge.txQueue bp = q := tget_tput_same ..
  have htx (x : Nat) : txOf (loaded bp q i l d) x = if x = bp then some i else txOf d x := txOf_transmits ..
  rw [startTx_of_head h]
  rcases ptpTransmit_cases bp i (loaded bp q i l d) with ⟨bytes, hptp⟩ | ⟨t, hptp⟩
  · rw [hptp]
    refine ⟨hitems, ⟨{ i with bytes := bytes }, ?_, rfl, rfl⟩, hqueue, fun x hx => ?_, hrest⟩
    · rw [txOf_transmits, if_pos rfl]
    · rw [txOf_transmits, if_neg hx, htx, if_neg hx]
  · rw [hptp]
    exact ⟨hitems, ⟨i, (htx bp).trans (if_pos rfl), rfl, rfl⟩, hqueue, fun x hx => (htx x).trans (if_neg hx), hrest⟩

end

/-! ## SAMPLE_PERIOD_END -/

/-- The counts of queue `q` of `bp` have started again, and no other queue, register or compute die changed. -/
structure CountsRestarted (bp q : Nat) (d d' : Dev) : Prop where
  queues : d'.edge.queues = (modQueue bp q (fun e => { items := e.items }) d).edge.queues
  regs : d'.regs = d.regs
  comp : d'.comp = d.comp

/-- Whether a queue is recorded, its record lost or the queue passed over, its counts start again (R181, R182). -/
theorem sampleQueue_restarts (bp q : Nat) (d : Dev) : CountsRestarted bp q d (sampleQueue bp q d) := by
  simp only [sampleQueue]
  exact iteInduction (fun _ => iteInduction (fun _ => ⟨rfl, rfl, rfl⟩) fun _ => ⟨rfl, rfl, rfl⟩) fun _ => ⟨rfl, rfl, rfl⟩

theorem queueOf_sampleQueue {q y : Nat} (bp : Nat) (d : Dev) (hq : q < 16) (hy : y < 16) :
    queueOf (sampleQueue bp q d) bp y = if y = q then { items := (queueOf d bp q).items } else queueOf d bp y := by
  have hread : queueOf (sampleQueue bp q d) bp y = queueOf (modQueue bp q (fun e => { items := e.items }) d) bp y :=
    congrArg (tget ({} : EQueue) · (16 * bp + y)) (sampleQueue_restarts bp q d).queues
  rw [hread, queueOf_modQueue _ _ hq hy]
  simp only [true_and]

/-- After the samples of queues 0 to `n` - 1 the counts of these have started again. -/
theorem queueOf_foldl_sampleQueue {n y : Nat} (bp : Nat) (d : Dev) (hn : n ≤ 16) (hy : y < 16) :
    queueOf ((List.range n).foldl (fun d q => sampleQueue bp q d) d) bp y =
      if y < n then { items := (queueOf d bp y).items } else queueOf d bp y := by
  induction n with
  | zero => rfl
  | succ n ih =>
    rw [List.range_succ, List.foldl_append, List.foldl_cons, List.foldl_nil, queueOf_sampleQueue bp _ (by omega) hy]
    by_cases hyn : y = n
    · subst hyn
      rw [if_pos rfl, ih (by omega), if_neg (by omega), if_pos (by omega)]
    · rw [if_neg hyn, ih (by omega)]
      simp only [show y < n + 1 ↔ y < n by omega]

/-! ## Gates -/

/-- With the edge dies booted a write to a register of theirs is not refused (R613). -/
theorem gate_of_edge_up {fn a : Nat} {f : Dev → Dev} {d : Dev} (hup : 5 ≤ d.boot.step) (ha : 0x1000000 ≤ a ∧ a < 0x2000000) :
    gate fn a f d = f d := by
  rw [gate, if_pos]
  rw [blockUp, if_pos ha]
  exact decide_eq_true hup

theorem rGateCtrl_edge {bp : Nat} (hbp : bp < 128) : 0x1000000 ≤ rGateCtrl bp ∧ rGateCtrl bp < 0x2000000 := by
  simp only [rGateCtrl, egReg, edgBase]; omega

/-- The instant for which a swap is armed: the base, or the first multiple of the cycle after it that has not passed (R174). -/
def swapDue (base cyc now : Nat) : Nat := if now ≤ base then base else base + ceilDiv (now - base) cyc * cyc

section

variable {bp val : Nat} {d : Dev}

/-- EDG_GATE_CTRL after a write that is not discarded: enable and list length as written, swap_reject cleared where it is written 1. -/
def gateCtrlTaken (old val : Nat) : Nat :=
  setBits (setBits (setBits old 0 1 (bitsOf val 0 1)) 5 9 (bitsOf val 5 9)) 4 1 (if bitOf val 4 then 0 else bitsOf old 4 1)

theorem gateCtrlTaken_length (old val : Nat) : bitsOf (gateCtrlTaken old val) 5 9 = bitsOf val 5 9 := by
  rw [gateCtrlTaken, bitsOf_setBits_above _ _ _ (by decide), bitsOf_setBits_same]
  exact Nat.mod_mod ..

/-- With no swap pending, swap = 1 arms one (R174). -/
theorem gateCtrlWrite_arms (hfree : (gatesOf d bp).pending = false) (hswap : bitOf val 1 = true) :
    gateCtrlWrite bp val d =
      modGates bp (fun g => { g with
          pending := true
          due := swapDue (regVal d (rGateBaseLo bp) + 2 ^ 32 * regVal d (rGateBaseHi bp))
            (max 1 (min (regFld d (rGateCycle bp) 0 30) 1000000000)) d.time.todNs })
        (setReg (rGateCtrl bp) (gateCtrlTaken (regVal d (rGateCtrl bp)) val) d) := by
  have hother (off v : Nat) (hoff : off ≠ 0x114) : regVal (setReg (rGateCtrl bp) v d) (egReg bp off) = regVal d (egReg bp off) :=
    regVal_setReg_other _ _ (by simp only [rGateCtrl, egReg]; omega)
  simp only [gateCtrlWrite, hfree, hswap, regFld, rGateBaseLo, rGateBaseHi, rGateCycle]
  simp only [hother 0x118 _ (by decide), hother 0x120 _ (by decide), hother 0x124 _ (by decide)]
  rfl

/-- While a swap is pending, another sets swap_reject, and only this register changes (R174). -/
theorem gateCtrlWrite_rejects (hpend : (gatesOf d bp).pending = true) (hswap : bitOf val 1 = true) :
    ∃ v, bitOf v 4 = true ∧ gateCtrlWrite bp val d = setReg (rGateCtrl bp) v d := by
  refine ⟨setBits (setBits (regVal d (rGateCtrl bp)) 0 1 (bitsOf val 0 1)) 4 1 1, by simp [bitOf_eq_bitsOf], ?_⟩
  simp [gateCtrlWrite, hpend, hswap]

end

/-! ### GATE_LIST_SWAP -/

/-- Entry of a gate list: its mask and interval. -/
def listEntry (t : Tab (Nat × Nat)) (e : Nat) : Nat × Nat := tget (0xFFFF, 0) t e

/-- The first `n` entries of the list in the registers of `bp`. -/
def listRead (d : Dev) (bp n : Nat) : Tab (Nat × Nat) :=
  (List.range n).foldl (fun t e => tput (0xFFFF, 0) t e (regVal d (rGclGates bp e), regVal d (rGclInterval bp e))) []

/-- The device with the first `n` entries of list `t` in the registers of `bp`. -/
def listStore (bp : Nat) (t : Tab (Nat × Nat)) (n : Nat) (d : Dev) : Dev :=
  (List.range n).foldl (fun d e => setReg (rGclInterval bp e) (listEntry t e).2 (setReg (rGclGates bp e) (listEntry t e).1 d)) d

theorem listEntry_listRead {n e : Nat} (d : Dev) (bp : Nat) (he : e < n) :
    listEntry (listRead d bp n) e = (regVal d (rGclGates bp e), regVal d (rGclInterval bp e)) := by
  induction n with
  | zero => exact absurd he (Nat.not_lt_zero e)
  | succ n ih =>
    rw [listEntry, listRead, List.range_succ, List.foldl_append, List.foldl_cons, List.foldl_nil, tget_tput]
    rcases Nat.lt_succ_iff_lt_or_eq.mp he with hlt | rfl
    · rw [if_neg (Nat.ne_of_lt hlt)]
      exact ih hlt
    · exact if_pos rfl

theorem regVal_listStore {n e : Nat} (bp : Nat) (t : Tab (Nat × Nat)) (d : Dev) (he : e < n) :
    regVal (listStore bp t n d) (rGclGates bp e) = (listEntry t e).1 ∧
    regVal (listStore bp t n d) (rGclInterval bp e) = (listEntry t e).2 := by
  induction n with
  | zero => exact absurd he (Nat.not_lt_zero e)
  | succ n ih =>
    have hkind : rGclGates bp e ≠ rGclInterval bp n ∧ rGclInterval bp e ≠ rGclGates bp n := by
      simp only [rGclInterval, rGclGates, edgBase]; omega
    simp only [listStore, List.range_succ, List.foldl_append, List.foldl_cons, List.foldl_nil]
    rw [regVal_setReg_other _ _ hkind.1, regVal_setReg, regVal_setReg, regVal_setReg_other _ _ hkind.2]
    rcases Nat.lt_succ_iff_lt_or_eq.mp he with hlt | rfl
    · have hentry : rGclGates bp e ≠ rGclGates bp n ∧ rGclInterval bp e ≠ rGclInterval bp n := by
        simp only [rGclInterval, rGclGates]; omega
      rw [if_neg hentry.1, if_neg hentry.2]
      exact ih hlt
    · rw [if_pos rfl, if_pos rfl]
      exact ⟨rfl, rfl⟩

theorem listStore_frame (bp : Nat) (t : Tab (Nat × Nat)) (n : Nat) (d : Dev) :
    listStore bp t n d = { d with regs := (listStore bp t n d).regs } := by
  induction n with
  | zero => rfl
  | succ n ih =>
    simp only [listStore, List.range_succ, List.foldl_append, List.foldl_cons, List.foldl_nil] at ih ⊢
    rw [ih]; rfl

/-- The gates that the registers of `bp` describe, over the other bank. -/
def programmed (d : Dev) (bp : Nat) : Gates where
  raw := listRead d bp 256
  len := max 1 (min (regFld d (rGateCtrl bp) 5 9) 256)
  cycle := max 1 (min (regFld d (rGateCycle bp) 0 30) 1000000000)
  base := regVal d (rGateBaseLo bp) + 2 ^ 32 * regVal d (rGateBaseHi bp)
  bank := !(gatesOf d bp).bank

theorem programmed_entry {e : Nat} (d : Dev) (bp : Nat) (he : e < 256) :
    listEntry (programmed d bp).raw e = (regVal d (rGclGates bp e), regVal d (rGclInterval bp e)) := by
  simp only [programmed]
  exact listEntry_listRead d bp he

/-- The device with gates `g` in the registers of `bp`. -/
def putBack (bp : Nat) (g : Gates) (d : Dev) : Dev :=
  setFld (rGateCtrl bp) 5 9 g.len (setReg (rGateCycle bp) g.cycle (setReg (rGateBaseLo bp) (g.base % 2 ^ 32)
    (setReg (rGateBaseHi bp) (g.base / 2 ^ 32) (listStore bp g.raw 256 d))))

theorem gateListSwap_of_due {bp : Nat} {d : Dev} (hpend : (gatesOf d bp).pending = true) (hdue : (gatesOf d bp).due ≤ d.time.todNs) :
    gateListSwap bp d = gateEdge bp (modGates bp (fun _ => programmed d bp) (putBack bp (gatesOf d bp) d)) :=
  if_pos ⟨hpend, hdue⟩

theorem putBack_frame (bp : Nat) (g : Gates) (d : Dev) : putBack bp g d = { d with regs := (putBack bp g d).regs } := by
  unfold putBack
  rw [listStore_frame]
  rfl

theorem regVal_putBack_list {bp e : Nat} (g : Gates) (d : Dev) (he : e < 256) :
    regVal (putBack bp g d) (rGclGates bp e) = (listEntry g.raw e).1 ∧
    regVal (putBack bp g d) (rGclInterval bp e) = (listEntry g.raw e).2 := by
  have hne (off : Nat) (hoff : off < 0x400) : rGclGates bp e ≠ egReg bp off ∧ rGclInterval bp e ≠ egReg bp off := by
    simp only [rGclInterval, rGclGates, egReg]; omega
  obtain ⟨hgates, hinterval⟩ := regVal_listStore bp g.raw d he
  simp only [putBack, regVal_setFld, regVal_setReg, rGateCtrl, rGateCycle, rGateBaseLo, rGateBaseHi, hne 0x114 (by decide),
    hne 0x118 (by decide), hne 0x120 (by decide), hne 0x124 (by decide), if_false]
  exact ⟨hgates, hinterval⟩

section

variable {bp : Nat} {d : Dev} (hpend : (gatesOf d bp).pending = true) (hdue : (gatesOf d bp).due ≤ d.time.todNs)

include hpend hdue

/-- The programmed list comes into force, and its mask with it. -/
theorem gatesOf_gateListSwap :
    gatesOf (gateListSwap bp d) bp = { programmed d bp with mask := maskAt (programmed d bp) d.time.todNs } := by
  rw [gateListSwap_of_due hpend hdue, gateEdge, gatesOf_modGates_at, gatesOf_modGates_at, putBack_frame]
  simp only [modGates_keeps]

theorem regVal_gateListSwap (a : Nat) : regVal (gateListSwap bp d) a = regVal (putBack bp (gatesOf d bp) d) a := by
  rw [gateListSwap_of_due hpend hdue]
  simp only [gateEdge, modGates_reads]

theorem gateListSwap_frame : gateListSwap bp d = { d with edge := (gateListSwap bp d).edge, regs := (gateListSwap bp d).regs } := by
  rw [gateListSwap_of_due hpend hdue, putBack_frame]
  simp only [gateEdge, modGates, onEdge]

end

/-! ## The statement -/

/-- Settles O10: each command comes down to its effect on the port's queues, transmitter or gates; what the flow control, PTP and the
samples do besides leaves these as they are. -/
theorem egressTransmissionAndGates : Obligations.EgressTransmissionAndGates := by
  refine ⟨fun bp prio src dst s hbp hprio hsrc hdst => ?_, fun bp val s hbp hval => ?_⟩
  · intro d starts
    have hport : within [(bp, 128)] = true := by simp [within, hbp]
    refine ⟨fun hlink hhold hen hidle hgate => ⟨fun q hq hel hs hlast i l hitems => ?_, fun q b hnone hsome hpick i l hitems => ?_⟩,
      fun i htx hw => ?_, fun ⟨die, bp', q, it⟩ hx => ?_, fun hxoff hcount => ?_, fun hon => ?_⟩
    · have hg := Flows.gives_of_exec (exec_txSelect bp s) hport
      rw [txSelect_of_strict hlink hhold hen hidle hgate hq hel hs hlast] at hg
      exact answers_of_gives hg (startTx_takes_head hitems)
    · have hg := Flows.gives_of_exec (exec_txSelect bp s) hport
      rw [txSelect_of_dwrr hlink hhold hen hidle hgate hnone hsome hpick] at hg
      exact answers_of_gives hg (startTx_takes_head (d := modBp bp (fun _ => b) d) hitems)
    · have hg := Flows.gives_of_exec (exec_txDone bp s) hport
      obtain ⟨d1, hkept, hctr, hdone⟩ := txDone_of_whole htx hw
      obtain ⟨hframes, hbytes⟩ := ctrVal_sentOff i d hbp
      have hall := hkept.trans (QueuesOnly.pfcCheckBp i.inBp d1)
      obtain ⟨more, hmore⟩ := hall.out
      have hctrs (c : Ctr) : ctrVal (pfcCheckBp i.inBp d1) c bp 0 = ctrVal (sentOff bp i d) c bp 0 := by
        rw [ctrVal, pfcCheckBp_ctr, hctr]; rfl
      rw [hdone] at hg
      exact answers_of_gives hg ⟨(congrArg (tget none · bp) hall.txNow).trans (txOf_sentOff bp i d),
        ⟨more, hmore.symm.trans (List.append_assoc ..)⟩, (hctrs _).trans hframes, (hctrs _).trans hbytes,
        (egressOnly_sentOff bp i d).trans hall.rest⟩
    · have hkept := queuesOnly_interDieArrive hx
      exact answers_of_gives
        (Flows.gives_of_exec (exec_interDieFrameArrive src dst s) (by simp [wf_interDieFrameArrive, within, hsrc, hdst]))
        ⟨hkept.interDie, hkept.rest⟩
    · have hg := Flows.gives_of_exec (exec_pfcRefresh bp prio s) (by simp [wf_pfcRefresh, within, hbp, hprio])
      rwa [pfcRefresh, if_pos (Bool.and_eq_true_iff.mpr ⟨hxoff, decide_eq_true hcount⟩)] at hg
    · have hg := Flows.gives_of_exec (exec_samplePeriodEnd bp s) hport
      rw [samplePeriodEnd, if_neg hon] at hg
      exact answers_of_gives hg ⟨fun q hq => (queueOf_foldl_sampleQueue bp d (Nat.le_refl 16) hq).trans (if_pos hq),
        foldl_regs _ _ _ fun d q => (sampleQueue_restarts bp q d).regs, foldl_comp _ _ _ fun d q => (sampleQueue_restarts bp q d).comp⟩
  · intro d g base cyc
    have hport : within [(bp, 128)] = true := by simp [within, hbp]
    refine ⟨fun hup hswap => ?_, fun hpend hdue => ?_, Flows.gives_of_exec (exec_gateEdge bp s) hport⟩
    · have hg := Flows.gives_of_exec (exec_gateSwapArm bp val s) (by simp [wf_gateSwapArm, within, hbp]; omega)
      rw [gate_of_edge_up hup (rGateCtrl_edge hbp)] at hg
      refine ⟨fun hfree => ?_, fun hpend => ?_⟩
      · rw [gateCtrlWrite_arms hfree hswap] at hg
        refine answers_of_gives hg ⟨gatesOf_modGates_at .., ?_, fun x hx => gatesOf_modGates_off _ _ hx, rfl⟩
        exact (congrArg (bitsOf · 5 9) (regVal_setReg_same ..)).trans (gateCtrlTaken_length ..)
      · obtain ⟨v, hv, hw⟩ := gateCtrlWrite_rejects hpend hswap
        rw [hw] at hg
        exact answers_of_gives hg ⟨by rwa [regVal_setReg_same], rfl⟩
    · have hg := Flows.gives_of_exec (exec_gateListSwap bp s) hport
      have hgates := gatesOf_gateListSwap hpend hdue
      have hregs := regVal_gateListSwap hpend hdue
      refine answers_of_gives hg ⟨congrArg Gates.pending hgates, congrArg Gates.bank hgates, congrArg Gates.base hgates,
        congrArg Gates.cycle hgates, congrArg Gates.len hgates, fun e he => ⟨?_, ?_⟩, gateListSwap_frame hpend hdue⟩
      · have hraw : (gatesOf (gateListSwap bp d) bp).raw = (programmed d bp).raw := by rw [hgates]
        exact (congrArg (listEntry · e) hraw).trans (programmed_entry d bp he)
      · rw [hregs, hregs]
        exact regVal_putBack_list g d he

end Sys2Proof.Egress

/-! ## Bytes at scratchpad operands and lanes of vector registers -/

namespace Sys2Proof.Scratchpad

open Sys2Proof.Machine Sys2Proof.Safety Sys2Proof.Laws

/-! ## Bytes of a table -/

theorem tbytes_eq_map (t : Tab Byte) (a n : Nat) : tbytes t a n = (List.range' a n).map (tget 0 t) := by
  induction n generalizing a with
  | zero => rfl
  | succ n ih => rw [tbytes, ih, List.range'_succ, List.map_cons]

@[simp] theorem length_tbytes (t : Tab Byte) (a n : Nat) : (tbytes t a n).length = n := by
  rw [tbytes_eq_map, List.length_map, List.length_range']

theorem drop_tbytes (t : Tab Byte) (a n k : Nat) : (tbytes t a n).drop k = tbytes t (a + k) (n - k) := by
  rw [tbytes_eq_map, tbytes_eq_map, ← List.map_drop, List.drop_range', Nat.mul_one]

theorem take_tbytes (t : Tab Byte) (a n k : Nat) : (tbytes t a n).take k = tbytes t a (min k n) := by
  refine List.ext_getElem (by simp) fun i h1 h2 => ?_
  simp [tbytes_eq_map]

theorem tbytes_congr {t t' : Tab Byte} {a n : Nat} (h : ∀ x, a ≤ x → x < a + n → tget 0 t' x = tget 0 t x) :
    tbytes t' a n = tbytes t a n := by
  rw [tbytes_eq_map, tbytes_eq_map]
  exact List.map_congr_left fun x hx => (List.mem_range'_1.mp hx).elim (h x)

theorem tget_tputBytes_outside {t : Tab Byte} {a x : Nat} {bs : List Byte} (h : x < a ∨ a + bs.length ≤ x) :
    tget 0 (tputBytes t a bs) x = tget 0 t x := by
  rw [tget_tputBytes, if_neg (by omega)]

/-! ## Rows written -/

/-- Bytes written over rows change no byte of another row. -/
theorem tget_writeRows_other {m : Tab Byte} {rows : List Nat} {off x : Nat} (bs : List Byte) (hoff : off ≤ 512) (h : x / 512 ∉ rows) :
    tget 0 (writeRows m rows off bs) x = tget 0 m x := by
  induction rows generalizing m off bs with
  | nil => rfl
  | cons p ps ih =>
    obtain ⟨hp, hps⟩ := List.ne_and_not_mem_of_not_mem_cons h
    rw [writeRows, ih _ (Nat.zero_le _) hps, tget_tputBytes_outside]
    rw [List.length_take]; omega

theorem tbytes_writeRows_other {m : Tab Byte} {rows : List Nat} {p off : Nat} (bs : List Byte) (hoff : off ≤ 512) (h : p ∉ rows) :
    tbytes (writeRows m rows off bs) (512 * p) 512 = tbytes m (512 * p) 512 :=
  tbytes_congr fun x h1 h2 => tget_writeRows_other bs hoff (by rwa [show x / 512 = p by omega])

/-- Bytes written over distinct rows are read back from them. -/
theorem read_writeRows {m : Tab Byte} {rows : List Nat} {off : Nat} {bs : List Byte} (hoff : off ≤ 512)
    (hlen : bs.length ≤ 512 * rows.length - off) (hrows : rows.Nodup) :
    ((rows.flatMap (fun p => tbytes (writeRows m rows off bs) (512 * p) 512)).drop off).take bs.length = bs := by
  induction rows generalizing m off bs with
  | nil => exact (List.eq_nil_of_length_eq_zero (by simpa using hlen)).symm ▸ rfl
  | cons p ps ih =>
    obtain ⟨hp, hps⟩ := List.nodup_cons.mp hrows
    have hfirst : ((tbytes (tputBytes m (512 * p + off) (bs.take (512 - off))) (512 * p) 512).drop off).take bs.length =
        bs.take (512 - off) := by
      rw [drop_tbytes, take_tbytes, Nat.min_comm, ← List.length_take, tbytes_tputBytes]
    have hrest := ih (m := tputBytes m (512 * p + off) (bs.take (512 - off))) (bs := bs.drop (512 - off)) (Nat.zero_le _)
      (by rw [List.length_drop]; rw [List.length_cons] at hlen; omega) hps
    rw [List.drop_zero, List.length_drop] at hrest
    rw [writeRows, List.flatMap_cons, tbytes_writeRows_other _ (Nat.zero_le _) hp, List.drop_append_of_le_length (by rwa [length_tbytes]),
      List.take_append, hfirst, List.length_drop, length_tbytes, hrest, List.take_append_drop]

/-! ## The rows that an operand names -/

/-- Where each element of a list that gives a value under `f` gives the same under `g`, so does the list. -/
theorem mapM_some_of_imp {α β : Type} {f g : α → Option β} (h : ∀ x y, f x = some y → g x = some y) {l : List α} {ys : List β}
    (hl : l.mapM f = some ys) : l.mapM g = some ys := by
  induction l generalizing ys with
  | nil => exact hl
  | cons x l ih =>
    rw [List.mapM_cons] at hl ⊢
    obtain ⟨y, hy, hl⟩ := Option.bind_eq_some_iff.mp hl
    obtain ⟨zs, hzs, hl⟩ := Option.bind_eq_some_iff.mp hl
    exact Option.bind_eq_some_iff.mpr ⟨y, h x y hy, Option.bind_eq_some_iff.mpr ⟨zs, ih hzs, hl⟩⟩

theorem length_of_mapM_some {α β : Type} {f : α → Option β} {l : List α} {ys : List β} (hl : l.mapM f = some ys) : ys.length = l.length := by
  induction l generalizing ys with
  | nil => cases hl; rfl
  | cons x l ih =>
    rw [List.mapM_cons] at hl
    obtain ⟨y, -, hl⟩ := Option.bind_eq_some_iff.mp hl
    obtain ⟨zs, hzs, hl⟩ := Option.bind_eq_some_iff.mp hl
    cases hl
    rw [List.length_cons, List.length_cons, ih hzs]

section

variable {d d' : Dev} {c : Nat} {u : Use} {r : Ref} {n : Nat}

/-- The rows of an operand depend on the core's handles and on the partitions only (R232). -/
theorem rowOf_congr (hh : (coreOf d' c).handles = (coreOf d c).handles) (hp : d'.parts = d.parts) (h i : Nat) (wr : Bool) :
    rowOf d' c u h i wr = rowOf d c u h i wr := by
  have ht : tiered d' c = tiered d c := by simp only [tiered, corePart, clusterOwner, partOf, hp]
  simp only [rowOf, hh, physRow, bankW, ht]

theorem refRows_congr (hh : (coreOf d' c).handles = (coreOf d c).handles) (hp : d'.parts = d.parts) (wr : Bool) :
    refRows d' c u r n wr = refRows d c u r n wr := by
  simp only [refRows, rowOf_congr hh hp]

/-- A row that may be written may be read. -/
theorem rowOf_read_of_write {h i p : Nat} (hw : rowOf d c u h i true = some p) : rowOf d c u h i false = some p := by
  rw [← hw]
  unfold rowOf at hw ⊢
  dsimp only at hw ⊢
  split at hw
  · cases hw
  · rename_i hgood
    have hread : ¬(¬(hEnt (tget 0 (coreOf d c).handles h)).valid = true ∨ (hEnt (tget 0 (coreOf d c).handles h)).rows ≤ i ∨
        false = true ∧ (hEnt (tget 0 (coreOf d c).handles h)).readOnly = true) := fun hbad =>
      hgood (hbad.imp_right (Or.imp_right fun hro => absurd hro.1 Bool.false_ne_true))
    rw [if_neg hgood, if_neg hread]

theorem refRows_read_of_write {rows : List Nat} (hw : refRows d c u r n true = some rows) : refRows d c u r n false = some rows := by
  unfold refRows at hw ⊢
  split at hw
  · rwa [if_pos ‹_›]
  · rw [if_neg ‹_›]
    exact mapM_some_of_imp (fun _ _ => rowOf_read_of_write) hw

/-- An operand's rows hold the bytes from its offset on. -/
theorem le_length_of_refRows {wr : Bool} {rows : List Nat} (h : refRows d c u r n wr = some rows) : n ≤ 512 * rows.length - r.off := by
  unfold refRows at h
  split at h
  · omega
  · have hl := length_of_mapM_some h
    rw [List.length_range] at hl
    omega

theorem refRows_eq_none {wr : Bool} (hn : n ≠ 0) (h : rowOf d c u r.h r.row wr = none) : refRows d c u r n wr = none := by
  simp [refRows, hn, List.range_succ_eq_map, h]

/-! ## Bytes written at an operand -/

theorem refWrite_of_rows {bs : List Byte} {rows : List Nat} (h : refRows d c u r bs.length true = some rows) :
    refWrite c u r bs d = modCore c (fun k => { k with spad := writeRows k.spad rows r.off bs }) d := by
  simp only [refWrite, h]

theorem refWrite_of_none {bs : List Byte} (h : refRows d c u r bs.length true = none) : refWrite c u r bs d = d := by
  simp only [refWrite, h]

/-- Of the core, a write at an operand changes the scratchpad only (R218). -/
theorem coreOf_refWrite_same (bs : List Byte) :
    coreOf (refWrite c u r bs d) c = { coreOf d c with spad := (coreOf (refWrite c u r bs d) c).spad } := by
  unfold refWrite
  split
  · rw [coreOf_modCore_at]
  · rfl

theorem coreOf_refWrite_other {y : Nat} (bs : List Byte) (hy : y ≠ c) : coreOf (refWrite c u r bs d) y = coreOf d y := by
  unfold refWrite
  split
  · exact coreOf_modCore_off _ _ hy
  · rfl

theorem handles_refWrite (bs : List Byte) : (coreOf (refWrite c u r bs d) c).handles = (coreOf d c).handles := by
  rw [coreOf_refWrite_same]

theorem winBack_refWrite (bs : List Byte) : (refWrite c u r bs d).comp.winBack = d.comp.winBack := by
  unfold refWrite
  split <;> rfl

theorem regs_refWrite (bs : List Byte) : (refWrite c u r bs d).regs = d.regs := by simp

theorem parts_refWrite (bs : List Byte) : (refWrite c u r bs d).parts = d.parts := by simp

theorem refRead_of_rows {rows : List Nat} (h : refRows d c u r n false = some rows) :
    refRead d c u r n = ((rows.flatMap (fun p => tbytes (coreOf d c).spad (512 * p) 512)).drop r.off).take n := by
  simp only [refRead, h]

/-- What a write at an operand leaves in the scratchpad depends on the scratchpad, the handles and the partitions only. -/
theorem spad_refWrite_congr {bs : List Byte} (hs : (coreOf d' c).spad = (coreOf d c).spad)
    (hh : (coreOf d' c).handles = (coreOf d c).handles) (hp : d'.parts = d.parts) :
    (coreOf (refWrite c u r bs d') c).spad = (coreOf (refWrite c u r bs d) c).spad := by
  simp only [refWrite, refRows_congr hh hp]
  split
  · rw [coreOf_modCore_at, coreOf_modCore_at, hs]
  · exact hs

/-- Bytes written at an operand of distinct rows are read back at it (R218, R232). -/
theorem refRead_refWrite {bs : List Byte} {rows : List Nat} (hoff : r.off < 512) (h : refRows d c u r bs.length true = some rows)
    (hd : rows.Nodup) : refRead (refWrite c u r bs d) c u r bs.length = bs := by
  have hrows : refRows (refWrite c u r bs d) c u r bs.length false = some rows := by
    rw [refRows_congr (handles_refWrite bs) (parts_refWrite bs), refRows_read_of_write h]
  rw [refRead_of_rows hrows, refWrite_of_rows h, coreOf_modCore_at]
  exact read_writeRows (Nat.le_of_lt hoff) (le_length_of_refRows h) hd

/-- Nothing is written at an operand whose first row may not be written (R235). -/
theorem refWrite_denied {bs : List Byte} (hbs : bs ≠ [])
    (h : (hEnt (tget 0 (coreOf d c).handles r.h)).valid = false ∨ (hEnt (tget 0 (coreOf d c).handles r.h)).rows ≤ r.row ∨
      (hEnt (tget 0 (coreOf d c).handles r.h)).readOnly = true) : refWrite c u r bs d = d := by
  refine refWrite_of_none (refRows_eq_none (mt List.eq_nil_of_length_eq_zero hbs) ?_)
  simp only [rowOf]
  rw [if_pos (by simpa using h)]

end

/-! ## Lanes -/

/-- The number whose digits of `bits` bits are the lanes. -/
def packLanes (bits : Nat) (ls : List Nat) : Nat := ls.foldr (fun c a => c % 2 ^ bits + 2 ^ bits * a) 0

theorem packLanes_cons (bits x : Nat) (ls : List Nat) : packLanes bits (x :: ls) = x % 2 ^ bits + 2 ^ bits * packLanes bits ls := rfl

theorem packLanes_lt (bits : Nat) (ls : List Nat) : packLanes bits ls < 2 ^ (bits * ls.length) := by
  induction ls with
  | nil => exact Nat.two_pow_pos _
  | cons x ls ih =>
    calc packLanes bits (x :: ls) < 2 ^ bits + 2 ^ bits * packLanes bits ls :=
          Nat.add_lt_add_right (Nat.mod_lt x (Nat.two_pow_pos bits)) _
      _ = 2 ^ bits * (packLanes bits ls + 1) := by rw [Nat.mul_add, Nat.mul_one, Nat.add_comm]
      _ ≤ 2 ^ bits * 2 ^ (bits * ls.length) := Nat.mul_le_mul_left _ ih
      _ = 2 ^ (bits * (x :: ls).length) := by rw [← Nat.pow_add, List.length_cons, Nat.mul_add, Nat.mul_one, Nat.add_comm bits]

/-- Lanes that fill `n` bytes make a number of `n` bytes. -/
theorem packLanes_lt_bytes {bits n : Nat} {ls : List Nat} (hlen : bits * ls.length = 8 * n) : packLanes bits ls < 256 ^ n := by
  have hlt := packLanes_lt bits ls
  rwa [hlen, Nat.pow_mul] at hlt

/-- Each lane is read back from the number that holds them all. -/
theorem bitsOf_packLanes {bits j : Nat} {ls : List Nat} (hj : j < ls.length) :
    bitsOf (packLanes bits ls) (bits * j) bits = ls[j] % 2 ^ bits := by
  induction ls generalizing j with
  | nil => exact absurd hj (Nat.not_lt_zero j)
  | cons x ls ih =>
    rw [bitsOf, Nat.shiftRight_eq_div_pow, packLanes_cons]
    cases j with
    | zero => rw [Nat.mul_zero, Nat.pow_zero, Nat.div_one, Nat.add_mul_mod_self_left, Nat.mod_mod, List.getElem_cons_zero]
    | succ j =>
      have hlow : (x % 2 ^ bits + 2 ^ bits * packLanes bits ls) / 2 ^ bits = packLanes bits ls := by
        rw [Nat.add_mul_div_left _ _ (Nat.two_pow_pos bits), Nat.div_eq_of_lt (Nat.mod_lt x (Nat.two_pow_pos bits)), Nat.zero_add]
      rw [Nat.mul_succ, Nat.add_comm (bits * j) bits, Nat.pow_add, ← Nat.div_div_eq_div_mul, hlow, ← Nat.shiftRight_eq_div_pow,
        List.getElem_cons_succ, ← ih (Nat.lt_of_succ_lt_succ hj), bitsOf]

section

variable {k : Core} {v bits : Nat} {ls : List Nat}

/-- A register holds the lanes written to it, where they fill it (R204). -/
theorem vlanes_setVlanes_same (hpos : 0 < bits) (hlen : bits * ls.length = 8 * 128) (h : ∀ x ∈ ls, x < 2 ^ bits) :
    vlanes (setVlanes v bits ls k) v bits = ls := by
  have hreg : leNat (tbytes (setVlanes v bits ls k).vregs (128 * v) 128) = packLanes bits ls := by
    have hback := tbytes_tputBytes k.vregs (128 * v) (toLe 128 (packLanes bits ls))
    rw [length_toLe] at hback
    rw [setVlanes, ← packLanes, hback, leNat_toLe, Nat.mod_eq_of_lt (packLanes_lt_bytes hlen)]
  have hcount : 1024 / bits = ls.length := by rw [show 1024 = bits * ls.length from hlen.symm, Nat.mul_div_cancel_left _ hpos]
  refine List.ext_getElem (by simp only [vlanes, List.length_map, List.length_range, hcount]) fun j h1 h2 => ?_
  simp only [vlanes, hreg, List.getElem_map, List.getElem_range]
  rw [bitsOf_packLanes h2, Nat.mod_eq_of_lt (h _ (List.getElem_mem h2))]

/-- Lanes written to a register leave every other register as it was. -/
theorem vlanes_setVlanes_other {v' : Nat} (hv : v' ≠ v) : vlanes (setVlanes v bits ls k) v' bits = vlanes k v' bits := by
  have hbytes : tbytes (setVlanes v bits ls k).vregs (128 * v') 128 = tbytes k.vregs (128 * v') 128 :=
    tbytes_congr fun x h1 h2 => tget_tputBytes_outside (by rw [length_toLe]; omega)
  simp only [vlanes, hbytes]

end

/-! ## Integer lanes -/

theorem signedOf_eq_toInt {w : Nat} (a : Nat) : signedOf w a = (BitVec.ofNat w a).toInt := by
  rw [signedOf, Scope.bitOf_eq_testBit, BitVec.toInt_eq_msb_cond, BitVec.msb_eq_getLsbD_last, BitVec.getLsbD, BitVec.toNat_ofNat]

theorem wrapInt_eq_toNat (w : Nat) (x : Int) : wrapInt w x = (BitVec.ofInt w x).toNat := (BitVec.toNat_ofInt x).symm

theorem signedOf_wrapInt {w : Nat} {x : Int} (hw : 0 < w) (hlo : -2 ^ (w - 1) ≤ x) (hhi : x < 2 ^ (w - 1)) :
    signedOf w (wrapInt w x) = x := by
  rw [signedOf_eq_toInt, wrapInt_eq_toNat, BitVec.ofNat_toNat, BitVec.setWidth_eq, BitVec.toInt_ofInt_eq_self hw hlo hhi]

theorem signedOf_inj {w a b : Nat} (ha : a < 2 ^ w) (hb : b < 2 ^ w) (h : signedOf w a = signedOf w b) : a = b := by
  rw [signedOf_eq_toInt, signedOf_eq_toInt] at h
  simpa [Nat.mod_eq_of_lt ha, Nat.mod_eq_of_lt hb] using congrArg BitVec.toNat (BitVec.eq_of_toInt_eq h)

/-- The integer formats of vector lanes: INT8, UINT8, INT16 and INT32 (Table 8.1). -/
def IsLaneFmt (f : Nat) : Prop := f = 7 ∨ f = 8 ∨ f = 11 ∨ f = 14

section

variable {f : Nat}

/-- A code of a signed or unsigned integer format, and the range of values it stands for (Table 8.1). -/
theorem intOfCode_laneFmt (hf : IsLaneFmt f) :
    0 < (fmtInfo f).bits ∧
    (((∀ c, intOfCode f c = signedOf (fmtInfo f).bits c) ∧ (fmtInfo f).qmin = -2 ^ ((fmtInfo f).bits - 1) ∧
        (fmtInfo f).qmax = 2 ^ ((fmtInfo f).bits - 1) - 1) ∨
      ((∀ c, intOfCode f c = (c % 2 ^ (fmtInfo f).bits : Nat)) ∧ (fmtInfo f).qmin = 0 ∧ (fmtInfo f).qmax = 2 ^ (fmtInfo f).bits - 1)) := by
  obtain rfl | rfl | rfl | rfl := hf
  · exact ⟨by decide, .inl ⟨fun _ => rfl, by decide, by decide⟩⟩
  · exact ⟨by decide, .inr ⟨fun _ => rfl, by decide, by decide⟩⟩
  · exact ⟨by decide, .inl ⟨fun _ => rfl, by decide, by decide⟩⟩
  · exact ⟨by decide, .inl ⟨fun _ => rfl, by decide, by decide⟩⟩

theorem fmtIsInt_laneFmt (hf : IsLaneFmt f) : fmtIsInt f = true := by
  obtain rfl | rfl | rfl | rfl := hf <;> rfl

/-- A value in a format's range is the value of its code. -/
theorem intOfCode_wrapInt (hf : IsLaneFmt f) {v : Int} (hlo : (fmtInfo f).qmin ≤ v) (hhi : v ≤ (fmtInfo f).qmax) :
    intOfCode f (wrapInt (fmtInfo f).bits v) = v := by
  obtain ⟨hpos, ⟨hval, hmin, hmax⟩ | ⟨hval, hmin, hmax⟩⟩ := intOfCode_laneFmt hf
  · rw [hval, signedOf_wrapInt hpos (hmin ▸ hlo) (by omega)]
  · have hv : v < ((2 ^ (fmtInfo f).bits : Nat) : Int) := by push_cast; omega
    rw [hval, wrapInt, Int.emod_eq_of_lt (hmin ▸ hlo) hv, Nat.mod_eq_of_lt (by omega)]
    omega

/-- Codes of one value are equal. -/
theorem intOfCode_inj (hf : IsLaneFmt f) {a b : Nat} (ha : a < 2 ^ (fmtInfo f).bits) (hb : b < 2 ^ (fmtInfo f).bits)
    (h : intOfCode f a = intOfCode f b) : a = b := by
  obtain ⟨-, ⟨hval, -⟩ | ⟨hval, -⟩⟩ := intOfCode_laneFmt hf
  · exact signedOf_inj ha hb (by rwa [hval, hval] at h)
  · rw [hval, hval, Nat.mod_eq_of_lt ha, Nat.mod_eq_of_lt hb] at h
    exact Int.ofNat_inj.mp h

/-- A lane holds the exact value where it lies in the format (R204). -/
theorem intOfCode_laneInt (hf : IsLaneFmt f) {v : Int} (free : Nat) (hlo : (fmtInfo f).qmin ≤ v) (hhi : v ≤ (fmtInfo f).qmax) :
    intOfCode f (laneInt f v free) = v := by
  have hpack : packInt f v = (wrapInt (fmtInfo f).bits v, false) := by
    simp [packInt, Int.not_lt.mpr hlo, Int.not_lt.mpr hhi]
  rw [laneInt, hpack]
  exact intOfCode_wrapInt hf hlo hhi

end

/-! ## The statement -/

/-- Settles O17: rows are written one after another and, being distinct, not written over; lanes are the digits of a register; an integer
format's codes and the values in its range correspond. -/
theorem scratchpadBytes : Obligations.ScratchpadBytes := by
  refine ⟨fun d c u r bs rows hoff h hd => ?_, fun d c u r bs hbs h => refWrite_denied hbs h, ?_, ?_⟩
  · refine ⟨refRead_refWrite hoff h hd, fun p hp b hb => ?_, coreOf_refWrite_same bs, fun y hy => coreOf_refWrite_other bs hy, ?_⟩
    · rw [refWrite_of_rows h, coreOf_modCore_at]
      exact tget_writeRows_other bs (Nat.le_of_lt hoff) (by rwa [show (512 * p + b) / 512 = p by omega])
    · rw [refWrite_of_rows h]; rfl
  · intro k v v' bits ls hbits hlen hfit
    obtain ⟨hpos, hfill⟩ : 0 < bits ∧ bits * ls.length = 8 * 128 := by obtain rfl | rfl | rfl := hbits <;> omega
    exact ⟨vlanes_setVlanes_same hpos hfill (by simpa using hfit), vlanes_setVlanes_other, rfl⟩
  · intro f a b c free hf w x y lane fits ha hb
    have hint := fmtIsInt_laneFmt hf
    have hexact {o : VecOp} {v : Int} (ho : lane o = laneInt f v free) : fits v o := fun hlo hhi =>
      (congrArg (intOfCode f) ho).trans (intOfCode_laneInt hf free hlo hhi)
    have heq : x = y ↔ a = b := ⟨intOfCode_inj hf ha hb, congrArg (intOfCode f)⟩
    refine ⟨hexact (if_pos hint), hexact rfl, hexact (if_pos hint), if_pos hint, if_pos hint, ?_, ?_, ?_, rfl, rfl, rfl, rfl,
      fun hlt => ⟨if_pos hlt, if_pos hlt, if_pos hlt⟩⟩
    · simp [lane, vecLane, laneBool, hint, w, ← heq, x, y]
    · simp [lane, vecLane, laneBool, hint, w, x, y]
    · simp [lane, vecLane, laneBool, hint, w, x, y]

end Sys2Proof.Scratchpad

/-! ## Remote windows -/

namespace Sys2Proof.Windows

open Sys2Proof.Machine Sys2Proof.Safety Sys2Proof.Laws Sys2Proof.Scratchpad

/-- The first message found for a core is one for that core. -/
theorem core_of_find (f : WinMsg → Nat) {core : Nat} {p : WinMsg → Bool} {l : List WinMsg} {a : WinMsg}
    (h : l.find? (fun m => f m == core && p m) = some a) : f a = core := by
  have hcore : (f a == core && p a) = true := List.find?_some (p := fun m => f m == core && p m) h
  obtain ⟨hf, -⟩ := Bool.and_eq_true_iff.mp hcore
  exact beq_iff_eq.mp hf

theorem coreOf_of_comp {d d' : Dev} {y : Nat} (h : d'.comp = d.comp) : coreOf d' y = coreOf d y := by
  rw [coreOf, h, coreOf]

/-! ## Table 7.3 -/

theorem ite_refusal_eq_zero_iff {p : Prop} [Decidable p] {k x : Nat} : (if p then k + 1 else x) = 0 ↔ ¬ p ∧ x = 0 := by
  split <;> simp [*]

/-- An access is accepted exactly where no condition of Table 7.3 refuses it. -/
theorem winCheck_eq_zero_iff (d : Dev) (m : WinMsg) : winCheck d m false = 0 ↔
    clusterPower d (m.dst / 8) ≠ 3 ∧ (clusterOf d (m.dst / 8)).zeroing = false ∧ frozenCluster d (m.dst / 8) = false ∧
    (winOf d m.dst m.win).isOpen = true ∧ m.row + m.n ≤ (winOf d m.dst m.win).rows ∧
    (if m.write then (winOf d m.dst m.win).wr else (winOf d m.dst m.win).rd) = true ∧ (winOf d m.dst m.win).part = m.part := by
  have hperm (w r : Bool) : ¬ (if m.write then ¬ w = true else ¬ r = true) ↔ (if m.write then w else r) = true := by
    cases m.write <;> simp
  rw [winCheck, ite_refusal_eq_zero_iff, ite_refusal_eq_zero_iff, ite_refusal_eq_zero_iff, ite_refusal_eq_zero_iff, ite_refusal_eq_zero_iff,
    hperm]
  simp [and_assoc]

theorem winCheck_le (d : Dev) (m : WinMsg) (pod : Bool) : winCheck d m pod ≤ 5 := by
  have hite {p : Prop} [Decidable p] {k x : Nat} (hk : k ≤ 5) (hx : x ≤ 5) : (if p then k else x) ≤ 5 := by
    split
    · exact hk
    · exact hx
  exact hite (by decide) (hite (by decide) (hite (by decide) (hite (by decide) (hite (by decide) (by decide)))))

/-! ## WINDOW_OPEN and WINDOW_CLOSE -/

/-- The device in which window `w` of a core is `win`. -/
def setWindow (core w : Nat) (win : Window) : Dev → Dev := modCore core (fun k => { k with windows := tput {} k.windows w win })

theorem winOf_setWindow (core w x : Nat) (win : Window) (d : Dev) :
    winOf (setWindow core w win d) core x = if x = w then win else winOf d core x := by
  rw [winOf, setWindow, coreOf_modCore_at]
  exact tget_tput ..

section

variable (t : Nat) (c : Cmd) (d : Dev)

theorem windowOpen_of_no_core (hcore : 768 ≤ cmdFld c 26 2) : windowOpen t c d = complete t .invalidField 0 d := if_pos hcore

theorem windowOpen_of_not_own (hcore : cmdFld c 26 2 < 768) (hown : ¬ ownsCluster d (cmdPart d c) (cmdFld c 26 2 / 8) = true) :
    windowOpen t c d = complete t .accessDenied 0 d := by
  simp only [windowOpen]
  rw [if_neg (Nat.not_le.mpr hcore), if_pos hown]

variable (hcore : cmdFld c 26 2 < 768) (hown : ownsCluster d (cmdPart d c) (cmdFld c 26 2 / 8) = true) (hw : cmdFld c 24 1 ≤ 7)
include hcore hown hw

/-- A closed window within the core's local rows opens (R243). -/
theorem windowOpen_of_good (hrows : 1 ≤ cmdFld c 30 2) (hfit : cmdFld c 28 2 + cmdFld c 30 2 ≤ localRows d (cmdFld c 26 2))
    (hperm : cmdFld c 25 1 % 4 ≠ 0) (hclosed : (winOf d (cmdFld c 26 2) (cmdFld c 24 1)).isOpen = false) :
    windowOpen t c d = complete t .ok 0 (setWindow (cmdFld c 26 2) (cmdFld c 24 1)
      { isOpen := true, base := cmdFld c 28 2, rows := cmdFld c 30 2, rd := bitOf (cmdFld c 25 1) 0, wr := bitOf (cmdFld c 25 1) 1
        pod := bitOf (cmdFld c 32 1) 0, part := cmdPart d c } d) := by
  simp only [windowOpen]
  rw [if_neg (Nat.not_le.mpr hcore), if_neg (not_not_intro hown), if_neg]
  · rfl
  · rw [hclosed]
    simp only [Bool.false_eq_true, or_false]
    omega

/-- An open window closes at once, and its command waits (R243, R250). -/
theorem windowClose_of_open (hopen : (winOf d (cmdFld c 26 2) (cmdFld c 24 1)).isOpen = true) :
    windowClose t c d = modCmd t (fun c => { c with st := 1 }) (setWindow (cmdFld c 26 2) (cmdFld c 24 1) {} d) := by
  simp only [windowClose]
  rw [if_neg (Nat.not_le.mpr hcore), if_neg (not_not_intro hown), if_neg (Nat.not_lt.mpr hw), if_neg (not_not_intro hopen)]
  rfl

theorem windowClose_of_closed (hclosed : (winOf d (cmdFld c 26 2) (cmdFld c 24 1)).isOpen = false) :
    windowClose t c d = complete t .ok 0 d := by
  simp only [windowClose]
  rw [if_neg (Nat.not_le.mpr hcore), if_neg (not_not_intro hown), if_neg (Nat.not_lt.mpr hw), if_pos (by simp [hclosed])]

end

/-! ## Accesses at the target -/

/-- The device once an access is no longer on its way. -/
def accessTaken (a : WinMsg) : Dev → Dev := onComp (fun x => { x with winIn := x.winIn.erase a })

section

variable {core hw : Nat} {a : WinMsg} {d : Dev} (hfind : d.comp.winIn.find? (fun m => m.dst == core && m.pkg == ownPkg d) = some a)
include hfind

/-- An access to a cluster in RETAIN waits while the cluster is woken (R251). -/
theorem winArrive_of_retain (hp : clusterPower d (core / 8) = 2) : winArrive core hw d = wakeRequest (core / 8) d := by
  simp only [winArrive, hfind, if_pos hp]

variable (hp : clusterPower d (core / 8) ≠ 2)
include hp

/-- An accepted write writes the rows and is acknowledged; an accepted read is answered with the rows, or with the parity error it
found (R245, R246). -/
theorem winArrive_of_accepted (hc : winCheck d a false = 0) : winArrive core hw d =
    if a.write then winAnswer { a with data := [] } (winApply a (accessTaken a d))
    else if hw = 3 then winAnswer { a with cause := 16 } (bump .spadParity core 0 (accessTaken a d))
    else winAnswer { a with data := winData d a } (winCountIn a (accessTaken a d)) := by
  have hc' : winCheck (accessTaken a d) a false = 0 := hc
  simp only [winArrive, hfind, if_neg hp]
  rw [← accessTaken, hc']
  rfl

/-- A refused access is logged at the target and answered with its cause (R249). -/
theorem winArrive_of_refused (hc : winCheck d a false ≠ 0) :
    winArrive core hw d = winAnswer { a with cause := winCheck d a false, data := [] } (winRefuse a (winCheck d a false) (accessTaken a d)) := by
  simp only [winArrive, hfind, if_neg hp]
  rw [← accessTaken, show winCheck (accessTaken a d) a false = winCheck d a false from rfl]
  split
  · exact absurd ‹_› hc
  · rfl

end

section

variable (m : WinMsg) (d : Dev)

@[simp] theorem winIn_winAnswer : (winAnswer m d).comp.winIn = d.comp.winIn := rfl
@[simp] theorem winBack_winAnswer : (winAnswer m d).comp.winBack = d.comp.winBack ++ [m] := rfl
@[simp] theorem coreOf_winAnswer (y : Nat) : coreOf (winAnswer m d) y = coreOf d y := rfl
@[simp] theorem regVal_winAnswer (r : Nat) : regVal (winAnswer m d) r = regVal d r := rfl
@[simp] theorem ctrVal_winAnswer (c : Ctr) (i j : Nat) : ctrVal (winAnswer m d) c i j = ctrVal d c i j := rfl

end

theorem coreOf_winApply_same (m : WinMsg) (d : Dev) :
    coreOf (winApply m d) m.dst = { coreOf d m.dst with spad := writeRows (coreOf d m.dst).spad (winRows d m) 0 m.data } :=
  coreOf_modCore_at m.dst (fun k => { k with spad := writeRows k.spad (winRows d m) 0 m.data }) d

theorem coreOf_winApply_other {m : WinMsg} {y : Nat} (d : Dev) (hy : y ≠ m.dst) : coreOf (winApply m d) y = coreOf d y :=
  coreOf_modCore_off (fun k => { k with spad := writeRows k.spad (winRows d m) 0 m.data }) d hy

/-- A refusal changes, of the cores, the target's log of refusals only. -/
theorem comp_winRefuse (m : WinMsg) (k : Nat) (d : Dev) : (winRefuse m k d).comp =
    (modCore m.dst (fun x => { x with winLog := ((m.win, k, (if m.pkg = 64 then 1023 else m.src), m.part) :: x.winLog).take 16 }) d).comp := by
  rw [winRefuse, setReg_comp, bump_comp]

theorem winIn_winRefuse (m : WinMsg) (k : Nat) (d : Dev) : (winRefuse m k d).comp.winIn = d.comp.winIn := by
  rw [comp_winRefuse]; rfl

theorem winBack_winRefuse (m : WinMsg) (k : Nat) (d : Dev) : (winRefuse m k d).comp.winBack = d.comp.winBack := by
  rw [comp_winRefuse]; rfl

theorem coreOf_winRefuse_other {m : WinMsg} {y : Nat} (k : Nat) (d : Dev) (hy : y ≠ m.dst) : coreOf (winRefuse m k d) y = coreOf d y := by
  rw [coreOf_of_comp (comp_winRefuse m k d), coreOf_modCore_off _ _ hy]

theorem spad_winRefuse (m : WinMsg) (k : Nat) (d : Dev) : (coreOf (winRefuse m k d) m.dst).spad = (coreOf d m.dst).spad := by
  rw [coreOf_of_comp (comp_winRefuse m k d), coreOf_modCore_at]

/-- CMP_WIN_FAULT holds the cause of a refusal and the window (Table 7.6). -/
theorem regVal_winRefuse {m : WinMsg} {k : Nat} (d : Dev) (hk : k ≤ 5) :
    bitsOf (regVal (winRefuse m k d) (rWinFault m.dst)) 0 5 = 16 + k ∧ bitsOf (regVal (winRefuse m k d) (rWinFault m.dst)) 5 3 = m.win % 8 := by
  simp only [winRefuse, regVal_setReg_same, bitsOf, Nat.shiftRight_eq_div_pow]
  omega

theorem ctrVal_winRefuse (m : WinMsg) (k : Nat) (d : Dev) :
    ctrVal (winRefuse m k d) .winRefused m.dst 0 = ctrVal d .winRefused m.dst 0 + 1 := by
  rw [winRefuse, ctrVal_setReg, ctrVal_bump_same]
  rfl

/-! ## Answers at the initiator -/

/-- The device once an answer has arrived and its instruction has left the DMA engine. -/
def answerTaken (a : WinMsg) (d : Dev) : Dev := winLeave a (onComp (fun x => { x with winBack := x.winBack.erase a }) d)

/-- The oldest answer of a kind is taken, where its instruction still runs. -/
theorem takeAnswer_of_find {core : Nat} {p : WinMsg → Bool} {f : WinMsg → Dev → Dev} {d : Dev} {a : WinMsg}
    (hfind : d.comp.winBack.find? (fun m => m.src == core && p m) = some a) (hw : winWaits d a = true) :
    takeAnswer core p f d = f a (answerTaken a d) := by
  have hw' : winWaits (onComp (fun x => { x with winBack := x.winBack.erase a }) d) a = true := hw
  simp only [takeAnswer, hfind]
  rw [if_pos hw', answerTaken]

/-- A core that does not wait does not halt. -/
theorem settleHalt_of_going {c : Nat} {d : Dev} (h : (coreOf d c).stall = none) : settleHalt c d = d := by
  simp only [settleHalt, h]

/-- A token goes up on a core that does not wait (R187). -/
theorem tokenUp_of_going {c e t : Nat} {d : Dev} (h : (coreOf d c).stall = none) (ht : tget 0 (coreOf d c).tokens t < 255) :
    tokenUp c e (some t) d = modCore c (fun k => { k with tokens := tmod 0 k.tokens t (· + 1) }) d := by
  simp only [tokenUp, if_neg (Nat.not_le.mpr ht), grantToken, coreOf_modCore_at, h]

section

variable (a : WinMsg) (d : Dev)

theorem coreOf_answerTaken_same : coreOf (answerTaken a d) a.src =
    { coreOf d a.src with
      engines := tmod {} (coreOf d a.src).engines 10 (fun e => { e with run := e.run.eraseP (fun x => x.instr == winInstr a) }) } :=
  coreOf_modCore_at ..

theorem coreOf_answerTaken_other {y : Nat} (hy : y ≠ a.src) : coreOf (answerTaken a d) y = coreOf d y :=
  coreOf_modCore_off _ _ hy

theorem comp_winCountOut : (winCountOut a d).comp = d.comp := by
  simp only [winCountOut, coreCount_keeps]

theorem coreOf_winCountOut (y : Nat) : coreOf (winCountOut a d) y = coreOf d y := coreOf_of_comp (comp_winCountOut a d)

theorem parts_winCountOut : (winCountOut a d).parts = d.parts := by
  simp only [winCountOut, coreCount_keeps]

theorem regs_winCountOut : (winCountOut a d).regs = d.regs := by
  simp only [winCountOut, coreCount_keeps]

variable {a d}

/-- A read's answer writes the rows (R247). -/
theorem readAnswer_of_ok (hstall : (coreOf d a.src).stall = none) (hc : a.cause = 0) (ht : a.tok = none) :
    readAnswer a d = refWrite a.src .dma { a.loc with off := 0 } a.data (winCountOut a d) := by
  have h : (coreOf (refWrite a.src .dma { a.loc with off := 0 } a.data (winCountOut a d)) a.src).stall = none := by
    rw [coreOf_refWrite_same, coreOf_winCountOut]; exact hstall
  rw [readAnswer, if_pos hc, ht, tokenUp, settleHalt_of_going h]

/-- A write's acknowledgement raises its token (R248). -/
theorem writeAnswer_of_token {t : Nat} (hstall : (coreOf d a.src).stall = none) (ht : a.tok = some t)
    (hlt : tget 0 (coreOf d a.src).tokens t < 255) :
    writeAnswer a d = modCore a.src (fun k => { k with tokens := tmod 0 k.tokens t (· + 1) }) d := by
  rw [writeAnswer, ht, tokenUp_of_going hstall hlt, settleHalt_of_going (by rw [coreOf_modCore_at]; exact hstall)]

/-- A refused write's notice stays with a core that does not wait (R248). -/
theorem lateFault_of_going (hstall : (coreOf d a.src).stall = none) :
    lateFault a d = modCore a.src (fun k => { k with winLate := k.winLate ++ [a.tok] }) d := by
  have h : (coreOf (modCore a.src (fun k => { k with winLate := k.winLate ++ [a.tok] }) d) a.src).stall = none := by
    rw [coreOf_modCore_at]; exact hstall
  simp only [lateFault, h, settleHalt_of_going]

end

/-! ## The statement -/

/-- Settles O19: each command comes down to its effect on the target's windows or scratchpad, or to the answer's on the initiator. -/
theorem remoteWindows : Obligations.RemoteWindows := by
  refine ⟨winCheck_eq_zero_iff, ?_⟩
  intro q t core hw tk s hq hcore hhw d m w perm target base rows mine
  have hwq : within [(q, 8192)] = true := by simp [within, hq]
  have hwarrive : within [(core, 768), (hw, 5)] = true := by simp [within, hcore, hhw]
  have hwcore : within [(core, 768)] = true := by simp [within, hcore]
  refine ⟨fun hready => ?_, fun hready htarget hmine hw7 => ?_, fun hmq hop hst => ?_, fun a hfind => ⟨fun hp => ?_, fun hp => ?_⟩,
    fun hstall a hwaits _ => ?_⟩
  · have hg := Flows.gives_of_exec (exec_windowOpen q t s) hwq
    rw [startCmd_ready hready] at hg
    refine ⟨fun htarget => ?_, fun htarget hmine => ?_, fun htarget hmine hw7 hrows hfit hperm hclosed => ?_⟩
    · rwa [windowOpen_of_no_core _ _ _ htarget] at hg
    · rwa [windowOpen_of_not_own _ _ _ htarget hmine] at hg
    · rwa [windowOpen_of_good _ _ _ htarget hmine hw7 hrows hfit hperm hclosed] at hg
  · have hg := Flows.gives_of_exec (exec_windowClose q t s) hwq
    rw [startCmd_ready hready] at hg
    refine ⟨fun hopen => ?_, fun hclosed => ?_⟩
    · rw [windowClose_of_open _ _ _ htarget hmine hw7 hopen] at hg
      refine answers_of_gives hg ⟨?_, fun x hx => ?_, fun y hy => coreOf_modCore_off _ _ hy, cmdOf_modCmd_at .., rfl⟩
      · exact (winOf_setWindow ..).trans (if_pos rfl)
      · exact (winOf_setWindow ..).trans (if_neg hx)
    · rwa [windowClose_of_closed _ _ _ htarget hmine hw7 hclosed] at hg
  · have hg := Flows.gives_of_exec (exec_windowCloseDrained q t s) hwq
    rwa [windowCloseDrained, if_pos ⟨hmq, hop, hst⟩] at hg
  · have hg := Flows.gives_of_exec (exec_windowAccessArrive core hw s) hwarrive
    rwa [winArrive_of_retain hfind hp] at hg
  · have hg := Flows.gives_of_exec (exec_windowAccessArrive core hw s) hwarrive
    obtain rfl : a.dst = core := core_of_find WinMsg.dst hfind
    by_cases hc : winCheck d a false = 0
    · by_cases hwr : a.write = true
      · rw [winArrive_of_accepted hfind hp hc, if_pos hwr] at hg
        have hnot : a.write ≠ false := by simp [hwr]
        refine ⟨{ a with data := [] }, answers_of_gives hg ?_⟩
        simp only [winIn_winAnswer, winBack_winAnswer, coreOf_winAnswer, true_and]
        exact ⟨rfl, rfl, fun y hy => coreOf_winApply_other _ hy, fun _ h => absurd h hnot,
          fun _ _ => coreOf_winApply_same a (accessTaken a d), fun h => absurd hc h⟩
      · by_cases hpar : hw = 3
        · rw [winArrive_of_accepted hfind hp hc, if_neg hwr, if_pos hpar] at hg
          exact ⟨_, answers_of_gives hg ⟨rfl, rfl, fun _ _ => rfl, fun _ _ h => absurd hpar h, fun _ h => absurd h hwr, fun h => absurd hc h⟩⟩
        · rw [winArrive_of_accepted hfind hp hc, if_neg hwr, if_neg hpar] at hg
          exact ⟨_, answers_of_gives hg ⟨rfl, rfl, fun _ _ => rfl, fun _ _ _ => ⟨rfl, rfl, ctrVal_bumpN_same ..⟩, fun _ h => absurd h hwr,
            fun h => absurd hc h⟩⟩
    · rw [winArrive_of_refused hfind hp hc] at hg
      obtain ⟨hcause, hwin⟩ := regVal_winRefuse (m := a) (accessTaken a d) (winCheck_le d a false)
      refine ⟨{ a with cause := winCheck d a false, data := [] }, answers_of_gives hg ?_⟩
      simp only [winIn_winAnswer, winBack_winAnswer, coreOf_winAnswer, regVal_winAnswer, ctrVal_winAnswer, winIn_winRefuse, winBack_winRefuse,
        true_and]
      exact ⟨rfl, rfl, fun y hy => coreOf_winRefuse_other _ _ hy, fun h => absurd h hc, fun h => absurd h hc,
        fun _ => ⟨spad_winRefuse a _ (accessTaken a d), hcause, hwin, ctrVal_winRefuse a _ (accessTaken a d)⟩⟩
  · refine ⟨fun hfind hc htok => ?_, fun hfind htok hlt => ?_, fun hfind => ?_⟩
    all_goals
      obtain rfl : a.src = core := core_of_find WinMsg.src hfind
      have hstall' : (coreOf (answerTaken a d) a.src).stall = none := by rw [coreOf_answerTaken_same]; exact hstall
    · have hg := Flows.gives_of_exec (exec_winRdReply a.src s) hwcore
      rw [winRdReply, takeAnswer_of_find hfind hwaits, readAnswer_of_ok hstall' hc htok] at hg
      refine answers_of_gives hg ⟨⟨?_, fun y hy => ?_, ?_⟩, ?_⟩
      · rw [winBack_refWrite, comp_winCountOut]; rfl
      · rw [coreOf_refWrite_other _ hy, coreOf_winCountOut, coreOf_answerTaken_other _ _ hy]
      · rw [regs_refWrite, regs_winCountOut]; rfl
      · exact spad_refWrite_congr (by rw [coreOf_winCountOut, coreOf_answerTaken_same])
          (by rw [coreOf_winCountOut, coreOf_answerTaken_same]) (parts_winCountOut ..)
    · have hg := Flows.gives_of_exec (exec_winWrAck a.src s) hwcore
      rw [winWrAck, takeAnswer_of_find hfind hwaits, writeAnswer_of_token hstall' htok (by rw [coreOf_answerTaken_same]; exact hlt)] at hg
      refine answers_of_gives hg ⟨⟨rfl, fun y hy => ?_, rfl⟩, ?_⟩
      · rw [coreOf_modCore_off _ _ hy, coreOf_answerTaken_other _ _ hy]
      · rw [coreOf_modCore_at, coreOf_answerTaken_same]; rfl
    · have hg := Flows.gives_of_exec (exec_winFaultNotice a.src s) hwcore
      rw [winFaultNotice, takeAnswer_of_find hfind hwaits, lateFault_of_going hstall'] at hg
      refine answers_of_gives hg ⟨⟨rfl, fun y hy => ?_, rfl⟩, ?_⟩
      · rw [coreOf_modCore_off _ _ hy, coreOf_answerTaken_other _ _ hy]
      · rw [coreOf_modCore_at, coreOf_answerTaken_same]

end Sys2Proof.Windows

/-! ## Token-by-token generation -/

namespace Sys2Proof.Generation

open Sys2Proof.Machine Sys2Proof.Safety Sys2Proof.Laws

/-! ## What counting leaves as it was -/

/-- Of the device only the counters may differ. -/
def CountersOnly (d d' : Dev) : Prop := d' = { d with ctr := d'.ctr }

namespace CountersOnly

theorem refl (d : Dev) : CountersOnly d d := rfl

theorem trans {a b c : Dev} (h : CountersOnly a b) (h' : CountersOnly b c) : CountersOnly a c := by
  unfold CountersOnly at h'
  rw [h] at h'
  exact h'

section

variable {d d' : Dev} (h : CountersOnly d d')
include h

theorem eq : d' = { d with ctr := d'.ctr } := h
theorem store : d'.store = d.store := by rw [h.eq]
theorem cmds : d'.cmds = d.cmds := by rw [h.eq]
theorem comp : d'.comp = d.comp := by rw [h.eq]
theorem regs : d'.regs = d.regs := by rw [h.eq]

end

theorem bumpN (c : Ctr) (i j n : Nat) (d : Dev) : CountersOnly d (bumpN c i j n d) := rfl

theorem pcieRead (fn n : Nat) (d : Dev) : CountersOnly d (pcieRead fn n d) := rfl

theorem ite {c : Prop} [Decidable c] {a b d : Dev} (ha : CountersOnly d a) (hb : CountersOnly d b) : CountersOnly d (if c then a else b) :=
  iteInduction (fun _ => ha) (fun _ => hb)

theorem when {b : Bool} {f : Dev → Dev} {d : Dev} (h : CountersOnly d (f d)) : CountersOnly d (when b f d) := ite h (refl d)

/-- A fold counts only, where each of its steps does; `dev` is the device within what it carries. -/
theorem foldl {α β : Type} {dev : β → Dev} {f : β → α → β} (hf : ∀ r x, CountersOnly (dev r) (dev (f r x))) (l : List α) (r : β) :
    CountersOnly (dev r) (dev (l.foldl f r)) :=
  List.foldlRecOn (motive := fun r' => CountersOnly (dev r) (dev r')) l f (refl _) fun r' h x _ => h.trans (hf r' x)

theorem hbmCount (wr : Bool) (p x n : Nat) (d : Dev) : CountersOnly d (hbmCount wr p x n d) :=
  ite (refl d) ((foldl (dev := id) (fun _ _ => bumpN ..) _ d).trans (when (bumpN ..)))

/-- A visit of a page unit counts its bursts. -/
theorem visitUnit (x : SeqRun) (die l h : Nat) (qs : List (List Nat)) (r : AttnRun) (p : Nat) :
    CountersOnly r.dev (visitUnit x die l h qs r p).dev := by
  simp only [Machine.visitUnit, apply_ite AttnRun.dev]
  exact ite (refl _) (ite (refl _) (ite (hbmCount ..) (ite (refl _) (hbmCount ..))))

theorem attendDie (x : SeqRun) (die l : Nat) (qs : List (List Nat)) (d : Dev) : CountersOnly d (attendDie x die l qs d).dev :=
  foldl (dev := AttnRun.dev) (fun r h => foldl (dev := AttnRun.dev) (visitUnit x die l h qs) (visitOrder x die) r) (List.range x.nKv)
    { dev := d, parts := List.replicate (x.nKv * x.qPer) { o := List.replicate x.hd 0 } }

end CountersOnly

/-! ## Writes of HBM -/

section

variable (p x : Nat) (bs : List Byte) (d : Dev)

theorem hbm_hbmPut : (hbmPut p x bs d).store.hbm = tputBytes d.store.hbm x bs :=
  congrArg Store.hbm (CountersOnly.hbmCount ..).store

theorem dec_hbmPut : (hbmPut p x bs d).store.dec = d.store.dec := by
  rw [hbmPut, (CountersOnly.hbmCount ..).store]
  rfl

theorem cmds_hbmPut : (hbmPut p x bs d).cmds = d.cmds := (CountersOnly.hbmCount ..).cmds

theorem hbmBytes_hbmPut_same : hbmBytes (hbmPut p x bs d) x bs.length = bs := by
  rw [hbmBytes, hbm_hbmPut, tbytes_tputBytes]

theorem hbmBytes_hbmPut_before {p x : Nat} {a n : Nat} (h : a + n ≤ x) : hbmBytes (hbmPut p x bs d) a n = hbmBytes d a n := by
  rw [hbmBytes, hbm_hbmPut, hbmBytes]
  exact Scratchpad.tbytes_congr fun y _ hy => Scratchpad.tget_tputBytes_outside (.inl (by omega))

end

/-- A commit leaves the sequence's length plus one in its descriptor: the counts are written behind it (R330, Table 10.4). -/
theorem length_commitSeq (x : SeqRun) (d : Dev) : hbmBytes (commitSeq x d) (x.desc + 8) 4 = toLe 4 (x.length + 1) :=
  (hbmBytes_hbmPut_before _ _ (by omega)).trans (hbmBytes_hbmPut_same ..)

/-! ## DECODE_STEP -/

/-- The step's context is the caller's, in its epoch, and no feedback context (R319). -/
def stepKnown (d : Dev) (c : Cmd) : Bool :=
  ctxMine d c && (ctxVer d (cmdFld c 8 2) c.tag).present && !(ctxOf d (cmdFld c 8 2)).feedback

/-- The DMA window table admits the step's buffers. -/
def stepBuffersOk (d : Dev) (c : Cmd) : Bool :=
  dmaOk d (cmdFn c) (cmdFld c 32 8) (8 * cmdFld c 24 1) false && dmaOk d (cmdFn c) (cmdFld c 40 8) (cmdFld c 48 4) true

/-- The device once the list of descriptors has been read. -/
def stepRead (d : Dev) (c : Cmd) : Dev := pcieRead (cmdFn c) (8 * (stepDescs d c).length) d

/-- What the step's descriptors come to, in their order (Table 10.5). -/
def stepChecks (d : Dev) (c : Cmd) : List (Status × SeqRun) :=
  (stepDescs d c).map (fun x => seqCheck (stepRead d c) (cmdPart d c) x true (ctxVer d (cmdFld c 8 2) c.tag).decode)

/-- The device once the descriptors themselves have been read too. -/
def descsRead (d : Dev) (c : Cmd) : Dev :=
  (stepDescs d c).foldl (fun d' x => hbmCount false (cmdPart d c) x 256 d') (stepRead d c)

/-- The device once the step holds its sequences. -/
def stepStarted (t : Nat) (c : Cmd) (d : Dev) : Dev :=
  onStore (fun s => { s with dec := tput {} s.dec t { seqs := (stepChecks d c).map (·.2) } })
    (modCmd t (fun c => { c with st := 1 }) (descsRead d c))

section

variable {t : Nat} {c : Cmd} {d : Dev}

theorem decodeStart_of_unknown (h : stepKnown d c = false) : decodeStart t c d = complete t .noContext 0 d := by
  rw [decodeStart, if_pos]
  simpa only [stepKnown, Bool.and_eq_false_iff, Bool.not_eq_false', Bool.not_eq_true, or_assoc] using h

variable (hknown : stepKnown d c = true)
include hknown

/-- Past the checks of its context, a step's buffers are checked, then its sequences. -/
theorem decodeStart_of_known : decodeStart t c d =
    if stepBuffersOk d c = false then complete t .accessDenied 0 d
    else if stepWaits d t c then d
    else if (ctxVer d (cmdFld c 8 2) c.tag).decode = none ∨ (stepDescs d c).eraseDups.length ≠ (stepDescs d c).length then
      complete t .invalidField 0 (stepRead d c)
    else ((stepChecks d c).find? (fun r => r.1 != .ok)).elim (stepStarted t c d) (fun r => complete t r.1 0 (stepRead d c)) := by
  obtain ⟨⟨hmine, hpresent⟩, hfeed⟩ : (ctxMine d c = true ∧ (ctxVer d (cmdFld c 8 2) c.tag).present = true) ∧
      (ctxOf d (cmdFld c 8 2)).feedback = false := by
    simpa only [stepKnown, Bool.and_eq_true, Bool.not_eq_true'] using hknown
  rw [decodeStart, if_neg (by simp [hmine, hpresent, hfeed])]
  congr 1
  · simp only [stepBuffersOk, Bool.and_eq_false_iff, Bool.not_eq_true]
  · congr 1
    dsimp only
    congr 1
    · simp only [Option.isNone_iff_eq_none]
    · unfold stepStarted descsRead stepChecks stepRead
      cases List.find? _ _ <;> rfl

/-- A step that is admitted to its sequences starts on them, where its list and every descriptor pass (R319, R331). -/
theorem decodeStart_of_admitted (hbufs : stepBuffersOk d c = true) (hwaits : stepWaits d t c = false) : decodeStart t c d =
    if (ctxVer d (cmdFld c 8 2) c.tag).decode = none ∨ (stepDescs d c).eraseDups.length ≠ (stepDescs d c).length then
      complete t .invalidField 0 (stepRead d c)
    else ((stepChecks d c).find? (fun r => r.1 != .ok)).elim (stepStarted t c d) (fun r => complete t r.1 0 (stepRead d c)) := by
  rw [decodeStart_of_known hknown, if_neg (by simp [hbufs]), if_neg (by simp [hwaits])]

end

theorem countersOnly_descsRead (d : Dev) (c : Cmd) : CountersOnly d (descsRead d c) :=
  (CountersOnly.pcieRead ..).trans
    (CountersOnly.foldl (dev := id) (f := fun d' x => hbmCount false (cmdPart d c) x 256 d') (fun _ _ => CountersOnly.hbmCount ..) _ _)

section

variable (t : Nat) (c : Cmd) (d : Dev)

theorem cmdOf_stepStarted : cmdOf (stepStarted t c d) t = { cmdOf d t with st := 1 } := by
  have h : cmdOf (descsRead d c) t = cmdOf d t := by rw [cmdOf, (countersOnly_descsRead d c).cmds, cmdOf]
  rw [← h]
  simp only [stepStarted, cmdOf, onStore_cmds]
  exact cmdOf_modCmd_at t (fun c => { c with st := 1 }) (descsRead d c)

theorem decOf_stepStarted : decOf (stepStarted t c d) t = { seqs := (stepChecks d c).map (·.2) } := tget_tput_same ..

/-- Starting a step leaves HBM, the compute dies and the registers as they are. -/
theorem stepStarted_frame :
    (stepStarted t c d).store.hbm = d.store.hbm ∧ (stepStarted t c d).comp = d.comp ∧ (stepStarted t c d).regs = d.regs := by
  have h := countersOnly_descsRead d c
  simp [stepStarted, h.store, h.comp, h.regs]

end

/-- A step under way commits once its program has ended and every layer of every sequence has its outputs, and does nothing before
(R321, R330). -/
theorem decodeGoOn_eq {t : Nat} {d : Dev} (hst : (cmdOf d t).st = 1) : decodeGoOn t d =
    if ((cmdOf d t).launched.isSome && (cmdInvs d t).isEmpty && (decOf d t).seqs.all (fun x => decide (x.outs.length = x.nLayers))) = true then
      complete t .ok ((cmdOf d t).aux.headD 0) ((decOf d t).seqs.foldl (fun d x => commitSeq x d) d)
    else d := by
  rw [decodeGoOn]
  congr 1
  simp [hst, and_assoc]

theorem st_of_cmdReady {d : Dev} {op q t : Nat} (h : cmdReady d op q t = true) : (cmdOf d t).st = 0 := by
  simp only [cmdReady, startable, Bool.and_eq_true, beq_iff_eq] at h
  obtain ⟨⟨-, ⟨⟨⟨⟨⟨-, hst⟩, -⟩, -⟩, -⟩, -⟩, -⟩, -⟩ := h
  exact hst

/-- Settles O51: a step that is ready comes down to `decodeStart`, one under way to `decodeGoOn`. -/
theorem decodeSteps : Obligations.DecodeSteps := by
  refine ⟨length_commitSeq, fun q t s hq => ?_⟩
  intro d m ctx v step ds d1 rs known ok
  have hg := Flows.gives_of_exec (exec_decodeStep q t s) (by simp [wf_decodeStep, within, hq])
  refine ⟨fun hready => ?_, fun hst hmq hop hfrozen => ?_⟩
  · rw [decodeStep, if_pos (st_of_cmdReady hready), startCmd_ready hready] at hg
    refine ⟨fun hknown => ?_, fun hknown hok => ?_, fun hknown hok hwaits => ?_, fun hknown hok hwaits => ?_⟩
    · rwa [decodeStart_of_unknown hknown] at hg
    · rwa [decodeStart_of_known hknown, if_pos (show stepBuffersOk d m = false from hok)] at hg
    · rwa [decodeStart_of_known hknown, if_neg (show ¬ stepBuffersOk d m = false from ne_false_of_eq_true hok), if_pos hwaits] at hg
    · rw [decodeStart_of_admitted hknown hok hwaits] at hg
      refine ⟨fun hbad => ?_, fun hdec hdup => ?_⟩
      · rwa [if_pos hbad] at hg
      · rw [if_neg (not_or.mpr ⟨Option.isSome_iff_ne_none.mp hdec, not_not_intro hdup⟩)] at hg
        refine ⟨fun r hr => ?_, fun hall => ?_⟩
        · rwa [show (stepChecks s.dev (cmdOf s.dev t)).find? _ = some r from hr] at hg
        · have hnone : rs.find? (fun r => r.1 != .ok) = none := by simpa using hall
          rw [show (stepChecks s.dev (cmdOf s.dev t)).find? _ = none from hnone] at hg
          exact answers_of_gives hg ⟨cmdOf_stepStarted .., decOf_stepStarted .., stepStarted_frame ..⟩
  · intro all
    rw [decodeStep, if_neg (hst ▸ Nat.one_ne_zero), if_pos ⟨hmq, hop, ne_true_of_eq_false hfrozen⟩, decodeGoOn_eq hst] at hg
    refine ⟨fun hall => ?_, fun hall => ?_⟩
    · rwa [if_pos hall] at hg
    · rwa [if_neg (ne_true_of_eq_false hall)] at hg

/-! ## Sequences of a step -/

/-- Sequence `b` of a step. -/
def seqAt (d : Dev) (t b : Nat) : SeqRun := lget {} (decOf d t).seqs b

theorem seqAt_congr {d d' : Dev} (h : d'.store.dec = d.store.dec) (t b : Nat) : seqAt d' t b = seqAt d t b := by
  rw [seqAt, decOf, h, seqAt, decOf]

theorem decOf_congr {d d' : Dev} (h : d'.store.dec = d.store.dec) (t : Nat) : decOf d' t = decOf d t := by
  rw [decOf, h, decOf]

section

variable {t b : Nat} (f : SeqRun → SeqRun) (d : Dev)

theorem seqs_modSeq : (decOf (modSeq t b f d) t).seqs = lset (decOf d t).seqs b (f (seqAt d t b)) := by
  simp only [decOf, modSeq, onStore_store, tget_tmod_same, seqAt]

/-- One sequence of a step is changed. -/
theorem seqAt_modSeq_same (hb : b < (decOf d t).seqs.length) : seqAt (modSeq t b f d) t b = f (seqAt d t b) := by
  rw [seqAt, seqs_modSeq, lget, lset, List.getElem?_set_self hb, Option.getD_some]

theorem seqAt_modSeq_other {y : Nat} (hy : y ≠ b) : seqAt (modSeq t b f d) t y = seqAt d t y := by
  rw [seqAt, seqs_modSeq, lget, lset, List.getElem?_set_ne hy.symm]
  rfl

theorem decOf_modSeq_other {k : Nat} (hk : k ≠ t) : decOf (modSeq t b f d) k = decOf d k := by
  simp only [decOf, modSeq, onStore_store, tget_tmod_other _ _ _ hk]

theorem length_seqs_modSeq : (decOf (modSeq t b f d) t).seqs.length = (decOf d t).seqs.length := by
  rw [seqs_modSeq, lset, List.length_set]

end

/-! ## The new token's codes -/

/-- The codes of a layer's new token: those stored, else those that its key and value give (R325). -/
def tokenOf (x : SeqRun) (l : Nat) (kv : List (List Nat)) : List (List Nat × Int) :=
  (tget none x.kv l).getD (kv.map (tokenCodes x.fmt))

/-- The device with a layer's new token stored for sequence `b`, where this is the tail's and it was not stored (R330). -/
def tokenStored (t b l : Nat) (codes : List (List Nat × Int)) (d : Dev) : Dev :=
  if (seqAt d t b).tail ∧ (tget none (seqAt d t b).kv l).isNone then
    writeToken (seqAt d t b) l codes (modSeq t b (fun y => { y with kv := tput none y.kv l (some codes) }) d)
  else d

theorem tokenStored_of_shard {t b l : Nat} {d : Dev} (codes : List (List Nat × Int)) (h : (seqAt d t b).tail = false) :
    tokenStored t b l codes d = d := if_neg fun hstore => ne_true_of_eq_false h hstore.1

theorem tokenStored_of_tail {t b l : Nat} {d : Dev} (codes : List (List Nat × Int)) (h : (seqAt d t b).tail = true) :
    tokenStored t b l codes d =
      if (tget none (seqAt d t b).kv l).isNone then
        writeToken (seqAt d t b) l codes (modSeq t b (fun y => { y with kv := tput none y.kv l (some codes) }) d)
      else d := by
  simp only [tokenStored, h, true_and]

/-- Writing a token's codes to HBM changes neither the steps nor the commands. -/
theorem writeToken_kept (x : SeqRun) (l : Nat) (codes : List (List Nat × Int)) (d : Dev) :
    (writeToken x l codes d).store.dec = d.store.dec ∧ (writeToken x l codes d).cmds = d.cmds :=
  List.foldlRecOn (motive := fun d' : Dev => d'.store.dec = d.store.dec ∧ d'.cmds = d.cmds) _ _ ⟨rfl, rfl⟩ fun d' h head _ => by
    simp only [dec_hbmPut, cmds_hbmPut]
    exact h

section

variable {t b l : Nat} {kv : List (List Nat)} (d : Dev)

/-- Of the sequence only the codes of its new tokens change, and the layer's are there. -/
theorem seqAt_tokenStored_same {codes : List (List Nat × Int)} (hcodes : codes = tokenOf (seqAt d t b) l kv)
    (hb : b < (decOf d t).seqs.length) (htail : (seqAt d t b).tail = true) :
    ∃ kv', seqAt (tokenStored t b l codes d) t b = { seqAt d t b with kv := kv' } ∧ tget none kv' l = some codes := by
  unfold tokenStored
  split
  · exact ⟨_, (seqAt_congr (writeToken_kept ..).1 t b).trans (seqAt_modSeq_same _ _ hb), tget_tput_same ..⟩
  · rename_i hsome
    obtain ⟨c, hc⟩ := Option.ne_none_iff_exists'.mp fun hnone => hsome ⟨htail, Option.isNone_iff_eq_none.mpr hnone⟩
    exact ⟨(seqAt d t b).kv, rfl, by rw [hcodes, tokenOf, hc, Option.getD_some]⟩

theorem seqAt_tokenStored_other (codes : List (List Nat × Int)) {y : Nat} (hy : y ≠ b) :
    seqAt (tokenStored t b l codes d) t y = seqAt d t y := by
  unfold tokenStored
  split
  · exact (seqAt_congr (writeToken_kept ..).1 t y).trans (seqAt_modSeq_other _ _ hy)
  · rfl

theorem length_seqs_tokenStored (codes : List (List Nat × Int)) :
    (decOf (tokenStored t b l codes d) t).seqs.length = (decOf d t).seqs.length := by
  unfold tokenStored
  split
  · rw [decOf_congr (writeToken_kept ..).1, length_seqs_modSeq]
  · rfl

theorem cmds_tokenStored (codes : List (List Nat × Int)) : (tokenStored t b l codes d).cmds = d.cmds := by
  unfold tokenStored
  split
  · exact (writeToken_kept ..).2
  · rfl

end

/-! ## ATTN_QUERY -/

/-- The queries of a layer have the shape of sequence `b` of the step. -/
def queryShaped (d : Dev) (t b l : Nat) (qs : List (List Nat)) : Bool :=
  decide (b < (decOf d t).seqs.length) && decide (l < (seqAt d t b).nLayers) &&
    decide (qs.length = (seqAt d t b).nKv * (seqAt d t b).qPer) && qs.all (fun r => r.length == (seqAt d t b).hd)

/-- The new token comes with keys and values of the sequence's shape, and the layer before has its outputs. -/
def tokenShaped (x : SeqRun) (l : Nat) (kv : List (List Nat)) : Prop :=
  kv.length = x.nKv ∧ kv.all (fun r => r.length == 2 * x.hd) = true ∧ (l = 0 ∨ (tget none x.outs (l - 1)).isSome = true)

/-- What a unit has read is counted. -/
def unitsCounted (die : Nat) (r : AttnRun) : Dev :=
  bumpN .attnUnitsRead die 0 r.units (bumpN .attnUnitsSkipped die 0 r.skipped (bumpN .attnBytes die 0 r.bytes r.dev))

/-- A unit that met an uncorrectable burst fails the step (R344). -/
def unitFails (die t : Nat) (r : AttnRun) : Dev :=
  stepFails t .dataError (bump .kvDataError die 0 (setFld (rAttnStatus die) 2 1 1 (unitsCounted die r)))

/-- The sequence with a layer's partials of a store die stored, and on die 0 of a tail's step the current token's. -/
def answerStored (die l : Nat) (codes : List (List Nat × Int)) (qs : List (List Nat)) (r : AttnRun) (x : SeqRun) : SeqRun :=
  let x := { x with
    parts := tput none x.parts (8 * l + die) (some r.parts), unitsRead := x.unitsRead + r.units, unitsSkipped := x.unitsSkipped + r.skipped }
  if die = 0 ∧ x.tail then { x with parts := tput none x.parts (8 * l + 4) (some (attendToken x codes qs)) } else x

/-- The partials and the counts of units go up; the codes of the new tokens stay. -/
theorem answerStored_spec {die l : Nat} (codes : List (List Nat × Int)) (qs : List (List Nat)) (r : AttnRun) (x : SeqRun) :
    tget none (answerStored die l codes qs r x).parts (8 * l + die) = some r.parts ∧
    (answerStored die l codes qs r x).unitsRead = x.unitsRead + r.units ∧
    (answerStored die l codes qs r x).unitsSkipped = x.unitsSkipped + r.skipped ∧
    (answerStored die l codes qs r x).kv = x.kv ∧
    (die = 0 → x.tail = true → tget none (answerStored die l codes qs r x).parts (8 * l + 4) = some (attendToken x codes qs)) := by
  unfold answerStored
  dsimp only
  split
  · rename_i hcur
    exact ⟨by rw [hcur.1, tget_tput_other _ _ _ (by omega), tget_tput_same], rfl, rfl, rfl,
      fun _ _ => by rw [tget_tput_same]; rfl⟩
  · rename_i hno
    exact ⟨by rw [tget_tput_same], rfl, rfl, rfl, fun hdie htail => absurd ⟨hdie, htail⟩ hno⟩

/-- The device once a die has answered the queries of a layer of sequence `b`, which reads as `x`. -/
def queryAnswered (die t b l : Nat) (x : SeqRun) (codes : List (List Nat × Int)) (qs : List (List Nat)) (d : Dev) : Dev :=
  modSeq t b (answerStored die l codes qs (attendDie x die l qs d)) (unitsCounted die (attendDie x die l qs d))

/-- What a unit does with queries that it takes. -/
def unitAnswers (die t b l : Nat) (x : SeqRun) (codes : List (List Nat × Int)) (qs : List (List Nat)) (d : Dev) : Dev :=
  if (attendDie x die l qs d).bad then unitFails die t (attendDie x die l qs d) else queryAnswered die t b l x codes qs d

section

variable {die t b l : Nat} {qs kv : List (List Nat)} {d : Dev}

theorem queryShaped_iff : queryShaped d t b l qs = true ↔ b < (decOf d t).seqs.length ∧ l < (seqAt d t b).nLayers ∧
    qs.length = (seqAt d t b).nKv * (seqAt d t b).qPer ∧ qs.all (fun r => r.length == (seqAt d t b).hd) = true := by
  simp only [queryShaped, Bool.and_eq_true, decide_eq_true_eq, and_assoc]

/-- A step that has ended, queries of another shape and queries already answered are not taken. -/
theorem attnServe_of_refused
    (h : stepLive d t = false ∨ queryShaped d t b l qs = false ∨ (tget none (seqAt d t b).parts (8 * l + die)).isSome = true) :
    attnServe die t b l qs kv false d = d := by
  rw [attnServe, if_pos]
  refine Classical.byContradiction fun hno => ?_
  simp only [not_or, Classical.not_not, Nat.not_le] at hno
  obtain ⟨hlive, hb, hl, hlen, hall, hfresh, -⟩ := hno
  rcases h with h | h | h
  · exact absurd hlive (ne_true_of_eq_false h)
  · exact absurd (queryShaped_iff.mpr ⟨hb, hl, hlen, hall⟩) (ne_true_of_eq_false h)
  · exact hfresh h

/-- Queries that are taken are answered with what the die's pages give, the new token's codes stored first, or the step fails
(R332 to R335, R344). -/
theorem attnServe_of_taken (hlive : stepLive d t = true) (hshaped : queryShaped d t b l qs = true)
    (hfresh : (tget none (seqAt d t b).parts (8 * l + die)).isSome = false) (htoken : (seqAt d t b).tail = true → tokenShaped (seqAt d t b) l kv) :
    attnServe die t b l qs kv false d =
      unitAnswers die t b l (seqAt d t b) (tokenOf (seqAt d t b) l kv) qs
        (tokenStored t b l (tokenOf (seqAt d t b) l kv) d) := by
  rw [attnServe, if_neg]
  · obtain ⟨x, hx⟩ : ∃ x, seqAt d t b = x := ⟨_, rfl⟩
    unfold unitAnswers queryAnswered tokenStored tokenOf unitFails unitsCounted answerStored
    rw [hx, show lget {} (decOf d t).seqs b = x from hx]
    cases tget none x.kv l <;> cases visitOrder x die <;>
      simp only [when, Bool.false_eq_true, if_false, Option.getD_some, Option.getD_none]
  · obtain ⟨hb, hl, hlen, hall⟩ := queryShaped_iff.mp hshaped
    rintro (h | h | h | h | h | h | ⟨htail, h⟩ | ⟨h0, h, htail⟩)
    · exact h hlive
    · exact Nat.not_le.mpr hb h
    · exact Nat.not_le.mpr hl h
    · exact h hlen
    · exact h hall
    · exact ne_true_of_eq_false hfresh h
    · obtain ⟨hkv, hrows, -⟩ := htoken htail
      exact h.elim (· hkv) (· hrows)
    · obtain ⟨-, -, hprev⟩ := htoken htail
      exact Option.isSome_iff_ne_none.mp (hprev.resolve_left h0) (Option.isNone_iff_eq_none.mp h)

end

theorem countersOnly_unitsCounted (x : SeqRun) (die l : Nat) (qs : List (List Nat)) (d : Dev) :
    CountersOnly d (unitsCounted die (attendDie x die l qs d)) :=
  (CountersOnly.attendDie x die l qs d).trans (((CountersOnly.bumpN ..).trans (CountersOnly.bumpN ..)).trans (CountersOnly.bumpN ..))

section

variable {die t b l : Nat} (x : SeqRun) (codes : List (List Nat × Int)) (qs : List (List Nat)) (d : Dev)

theorem dec_unitsCounted : (unitsCounted die (attendDie x die l qs d)).store.dec = d.store.dec :=
  congrArg Store.dec (countersOnly_unitsCounted x die l qs d).store

/-- What the sequence holds once its queries are answered. -/
theorem seqAt_queryAnswered_same (hb : b < (decOf d t).seqs.length) :
    seqAt (queryAnswered die t b l x codes qs d) t b = answerStored die l codes qs (attendDie x die l qs d) (seqAt d t b) := by
  have h := dec_unitsCounted (die := die) (l := l) x qs d
  rw [queryAnswered, seqAt_modSeq_same _ _ (by rwa [decOf_congr h]), seqAt_congr h]

/-- The sequence holds the die's partials, and the counts of units went up. -/
theorem queryAnswered_spec (hb : b < (decOf d t).seqs.length) :
    tget none (seqAt (queryAnswered die t b l x codes qs d) t b).parts (8 * l + die) = some (attendDie x die l qs d).parts ∧
    (seqAt (queryAnswered die t b l x codes qs d) t b).unitsRead = (seqAt d t b).unitsRead + (attendDie x die l qs d).units ∧
    (seqAt (queryAnswered die t b l x codes qs d) t b).unitsSkipped = (seqAt d t b).unitsSkipped + (attendDie x die l qs d).skipped ∧
    (seqAt (queryAnswered die t b l x codes qs d) t b).kv = (seqAt d t b).kv ∧
    (die = 0 → (seqAt d t b).tail = true →
      tget none (seqAt (queryAnswered die t b l x codes qs d) t b).parts (8 * l + 4) = some (attendToken (seqAt d t b) codes qs)) := by
  rw [seqAt_queryAnswered_same x codes qs d hb]
  exact answerStored_spec ..

theorem seqAt_queryAnswered_other {y : Nat} (hy : y ≠ b) : seqAt (queryAnswered die t b l x codes qs d) t y = seqAt d t y :=
  (seqAt_modSeq_other _ _ hy).trans (seqAt_congr (dec_unitsCounted ..) t y)

theorem decOf_queryAnswered_other {k : Nat} (hk : k ≠ t) : decOf (queryAnswered die t b l x codes qs d) k = decOf d k :=
  (decOf_modSeq_other _ _ hk).trans (decOf_congr (dec_unitsCounted ..) k)

theorem hbm_queryAnswered : (queryAnswered die t b l x codes qs d).store.hbm = d.store.hbm := by
  rw [← (countersOnly_unitsCounted x die l qs d).store]
  rfl

theorem cmds_queryAnswered : (queryAnswered die t b l x codes qs d).cmds = d.cmds :=
  (countersOnly_unitsCounted x die l qs d).cmds

end

/-- On a tail's step the sequence holds the new token's codes too, and on die 0 the token's partials (R334). -/
theorem queryAnswered_tokenStored {die t b l : Nat} {codes : List (List Nat × Int)} {kv : List (List Nat)} (qs : List (List Nat)) (d : Dev)
    (hcodes : codes = tokenOf (seqAt d t b) l kv) (hb : b < (decOf d t).seqs.length) (htail : (seqAt d t b).tail = true) :
    let r := attendDie (seqAt d t b) die l qs (tokenStored t b l codes d)
    let d' := queryAnswered die t b l (seqAt d t b) codes qs (tokenStored t b l codes d)
    tget none (seqAt d' t b).parts (8 * l + die) = some r.parts ∧ tget none (seqAt d' t b).kv l = some codes ∧
    (die = 0 → tget none (seqAt d' t b).parts (8 * l + 4) = some (attendToken (seqAt d t b) codes qs)) ∧
    (∀ y, y ≠ b → seqAt d' t y = seqAt d t y) ∧ d'.cmds = d.cmds := by
  intro r d'
  obtain ⟨kv', hseq, hkv'⟩ := seqAt_tokenStored_same d hcodes hb htail
  have hb1 : b < (decOf (tokenStored t b l codes d) t).seqs.length := by rwa [length_seqs_tokenStored]
  obtain ⟨hparts, -, -, hcode, htok⟩ := queryAnswered_spec (die := die) (l := l) (seqAt d t b) codes qs (tokenStored t b l codes d) hb1
  rw [hseq] at hcode htok
  exact ⟨hparts, (congrArg (tget none · l) hcode).trans hkv', fun hdie => htok hdie htail,
    fun y hy => (seqAt_queryAnswered_other _ _ _ _ hy).trans (seqAt_tokenStored_other _ _ hy),
    (cmds_queryAnswered ..).trans (cmds_tokenStored ..)⟩

/-! ## ATTN_PARTIAL_ARRIVE -/

/-- The device with a layer's outputs stored, where every shard's partials and the current token's are there (R335). -/
def layerSettled (t b l : Nat) (d : Dev) : Dev :=
  (layerOut (seqAt d t b) l).elim d (fun o => modSeq t b (fun y => { y with outs := tput none y.outs l (some o) }) d)

/-- The partials of a message, one per query head, as outputs of `hd` codes. -/
def partsOf (hd : Nat) (ps : List (Nat × Nat × List Nat × Bool)) : List AttnPart :=
  ps.map (fun p => { m := p.1, l := p.2.1, o := attnPartial.padOut hd p.2.2.1, nan := p.2.2.2 })

/-- A sequence with another shard's partials of a layer stored. -/
def farTaken (l shard : Nat) (ps : List (Nat × Nat × List Nat × Bool)) (x : SeqRun) : SeqRun :=
  { x with far := tput none x.far (8 * l + shard) (some (partsOf x.hd ps)) }

/-- The device with another shard's partials of a layer stored for sequence `b`. -/
def farStored (t b l shard : Nat) (ps : List (Nat × Nat × List Nat × Bool)) : Dev → Dev := modSeq t b (farTaken l shard ps)

section

variable {t b l kind shard : Nat} {ps : List (Nat × Nat × List Nat × Bool)} {d : Dev}

/-- What comes for a step that has ended, or for a sequence it has not, changes nothing. -/
theorem attnPartial_of_dead (h : stepLive d t = false ∨ (decOf d t).seqs.length ≤ b) : attnPartial t b l kind shard ps d = d := by
  unfold attnPartial
  rw [if_pos (h.imp_left ne_true_of_eq_false)]

variable (hlive : stepLive d t = true) (hb : b < (decOf d t).seqs.length)
include hlive hb

theorem not_dead_of_live : ¬(¬stepLive d t = true ∨ (decOf d t).seqs.length ≤ b) :=
  not_or.mpr ⟨not_not_intro hlive, Nat.not_le.mpr hb⟩

theorem attnPartial_of_own (htail : (seqAt d t b).tail = true) (hl : l < (seqAt d t b).nLayers) :
    attnPartial t b l 0 shard ps d = layerSettled t b l d := by
  unfold attnPartial
  rw [if_neg (not_dead_of_live hlive hb)]
  refine (if_pos ⟨htail, hl⟩).trans ?_
  rw [layerSettled, seqAt]
  dsimp only
  cases layerOut (lget {} (decOf d t).seqs b) l <;> rfl

/-- Partials of a shard that has answered are not stored again. -/
theorem attnPartial_of_far_known (h : (tget none (seqAt d t b).far (8 * l + shard)).isSome = true) : attnPartial t b l 1 shard ps d = d := by
  unfold attnPartial
  rw [if_neg (not_dead_of_live hlive hb)]
  exact if_pos (.inr (.inr (.inr (.inr (.inr h)))))

theorem attnPartial_of_far_new (htail : (seqAt d t b).tail = true) (hl : l < (seqAt d t b).nLayers) (hshard : shard < (seqAt d t b).nShards)
    (hother : shard ≠ (seqAt d t b).shard) (hlen : ps.length = (seqAt d t b).nKv * (seqAt d t b).qPer)
    (hnew : tget none (seqAt d t b).far (8 * l + shard) = none) :
    attnPartial t b l 1 shard ps d = layerSettled t b l (farStored t b l shard ps d) := by
  unfold attnPartial
  rw [if_neg (not_dead_of_live hlive hb)]
  refine (if_neg ?_).trans ?_
  · rintro (h | h | h | h | h | h)
    · exact h htail
    · exact Nat.not_le.mpr hl h
    · exact Nat.not_le.mpr hshard h
    · exact hother h
    · exact h hlen
    · exact ne_true_of_eq_false (Option.isSome_eq_false_iff.mpr (Option.isNone_iff_eq_none.mpr hnew)) h
  · unfold layerSettled farStored farTaken partsOf seqAt
    dsimp only
    cases layerOut _ l <;> rfl

/-- A lost query or partial stops a step of this package with the status of what lost it (R344). -/
theorem attnPartial_of_lost (ht : t < 2 ^ 40) : attnPartial t b l 2 shard ps d =
    stopCmd t (match shard with | 0 => .linkDown | 1 => .windowFault | _ => .dataError) d := by
  unfold attnPartial
  rw [if_neg (not_dead_of_live hlive hb)]
  exact if_neg (Nat.not_le.mpr ht)

theorem attnPartial_of_ended (ht : t < 2 ^ 40) : attnPartial t b l 3 shard ps d = d := by
  unfold attnPartial
  rw [if_neg (not_dead_of_live hlive hb)]
  exact if_neg (Nat.not_le.mpr ht)

end

section

variable {t b l : Nat} (d : Dev)

theorem layerSettled_of_none (h : layerOut (seqAt d t b) l = none) : layerSettled t b l d = d := by
  rw [layerSettled, h, Option.elim_none]

theorem layerSettled_of_some {o : List (List Nat)} (h : layerOut (seqAt d t b) l = some o) :
    layerSettled t b l d = modSeq t b (fun y => { y with outs := tput none y.outs l (some o) }) d := by
  rw [layerSettled, h, Option.elim_some]

/-- Settling a layer leaves the partials of its sequence, and every other sequence and step, as they are. -/
theorem layerSettled_kept (hb : b < (decOf d t).seqs.length) : (seqAt (layerSettled t b l d) t b).far = (seqAt d t b).far ∧
    (∀ y, y ≠ b → seqAt (layerSettled t b l d) t y = seqAt d t y) ∧ (∀ k, k ≠ t → decOf (layerSettled t b l d) k = decOf d k) := by
  cases h : layerOut (seqAt d t b) l with
  | none =>
    rw [layerSettled_of_none d h]
    exact ⟨rfl, fun _ _ => rfl, fun _ _ => rfl⟩
  | some o =>
    rw [layerSettled_of_some d h]
    exact ⟨by rw [seqAt_modSeq_same _ _ hb], fun y hy => seqAt_modSeq_other _ _ hy, fun k hk => decOf_modSeq_other _ _ hk⟩

theorem outs_layerSettled_of_some (hb : b < (decOf d t).seqs.length) {o : List (List Nat)} (h : layerOut (seqAt d t b) l = some o) :
    tget none (seqAt (layerSettled t b l d) t b).outs l = some o := by
  rw [layerSettled_of_some d h, seqAt_modSeq_same _ _ hb, tget_tput_same]

end

/-- Another shard's partials are stored in their sequence, and its outputs of the layer where they were the last (R335). -/
theorem layerSettled_farStored {t b l shard : Nat} (ps : List (Nat × Nat × List Nat × Bool)) (d : Dev) (hb : b < (decOf d t).seqs.length) :
    tget none (seqAt (layerSettled t b l (farStored t b l shard ps d)) t b).far (8 * l + shard) = some (partsOf (seqAt d t b).hd ps) ∧
    (∀ y, y ≠ b → seqAt (layerSettled t b l (farStored t b l shard ps d)) t y = seqAt d t y) ∧
    (∀ k, k ≠ t → decOf (layerSettled t b l (farStored t b l shard ps d)) k = decOf d k) ∧
    (layerOut (farTaken l shard ps (seqAt d t b)) l = none →
      (seqAt (layerSettled t b l (farStored t b l shard ps d)) t b).outs = (seqAt d t b).outs) ∧
    (∀ o, layerOut (farTaken l shard ps (seqAt d t b)) l = some o →
      tget none (seqAt (layerSettled t b l (farStored t b l shard ps d)) t b).outs l = some o) := by
  have hseq : seqAt (farStored t b l shard ps d) t b = farTaken l shard ps (seqAt d t b) := seqAt_modSeq_same _ _ hb
  have hb1 : b < (decOf (farStored t b l shard ps d) t).seqs.length := by rwa [farStored, length_seqs_modSeq]
  obtain ⟨hfar, hseqs, hsteps⟩ := layerSettled_kept (l := l) (farStored t b l shard ps d) hb1
  refine ⟨?_, fun y hy => (hseqs y hy).trans (seqAt_modSeq_other _ _ hy), fun k hk => (hsteps k hk).trans (decOf_modSeq_other _ _ hk),
    fun hnone => ?_, fun o ho => ?_⟩
  · rw [hfar, hseq, farTaken, tget_tput_same]
  · rw [layerSettled_of_none _ (by rwa [hseq]), hseq, farTaken]
  · exact outs_layerSettled_of_some _ hb1 (by rwa [hseq])

/-! ## STO_ATTN_CFG -/

/-- With the store dies booted a write to a register of theirs is not refused (R613). -/
theorem gate_of_store_up {fn a : Nat} {f : Dev → Dev} {d : Dev} (hup : 4 ≤ d.boot.step) (ha : 0x2000000 ≤ a ∧ a < 0x3000000) :
    gate fn a f d = f d := by
  rw [gate, if_pos]
  rw [blockUp, if_neg (by omega), if_pos ha]
  exact decide_eq_true hup

theorem rAttnCfg_store {die : Nat} (hdie : die < 4) : 0x2000000 ≤ rAttnCfg die ∧ rAttnCfg die < 0x3000000 := by
  simp only [rAttnCfg, stoBase]; omega

/-- A field of a register written, read back. -/
theorem regFld_setFld_same (a lo w v : Nat) (d : Dev) : regFld (setFld a lo w v d) a lo w = v % 2 ^ w := by
  rw [regFld, regVal_setFld, if_pos rfl, Egress.bitsOf_setBits_same]

/-- A field above the one written. -/
theorem regFld_setFld_above {a lo w lo' : Nat} (v w' : Nat) (d : Dev) (h : lo + w ≤ lo') :
    regFld (setFld a lo w v d) a lo' w' = regFld d a lo' w' := by
  rw [regFld, regVal_setFld, if_pos rfl, Egress.bitsOf_setBits_above _ _ _ h, regFld]

/-- The SRAM of a store die that partitions hold, in MiB. -/
def sramHeld (d : Dev) (die : Nat) : Nat := (d.parts.map (fun p => if p.2.exist then lget 0 p.2.sram die else 0)).sum

section

variable {die val : Nat} {d : Dev}

/-- The skip bit is written at once; the buffer's size stays (R347). -/
theorem attnCfgWrite_of_same (h : val % 256 = regFld d (rAttnCfg die) 0 8) :
    attnCfgWrite die val d = setFld (rAttnCfg die) 8 1 (bitsOf val 8 1) d := if_pos h

variable (hnew : val % 256 ≠ regFld d (rAttnCfg die) 0 8)
include hnew

/-- A new size is refused while the die attends, or where partitions hold the SRAM that it needs (R348). -/
theorem attnCfgWrite_of_refused (hno : attnBusy d die = true ∨ 192 < min 128 (val % 256) + sramHeld d die) :
    attnCfgWrite die val d = setFld (rAttnStatus die) 1 1 1 (setFld (rAttnCfg die) 8 1 (bitsOf val 8 1) d) :=
  (if_neg hnew).trans (if_pos hno)

theorem attnCfgWrite_of_taken (hidle : attnBusy d die = false) (hfit : min 128 (val % 256) + sramHeld d die ≤ 192) :
    attnCfgWrite die val d = setFld (rAttnCfg die) 0 8 (val % 256) (setFld (rAttnCfg die) 8 1 (bitsOf val 8 1) d) :=
  (if_neg hnew).trans (if_neg (not_or.mpr ⟨ne_true_of_eq_false hidle, Nat.not_lt.mpr hfit⟩))

end

/-! ## The statement -/

section

variable {die t b l : Nat} {qs kv : List (List Nat)} {s : State}

theorem gives_attnQuery (hdie : die < 4) (hl : l < 128) (hb : b < 16) (hcodes : (qs ++ kv).all (·.all (fun c => decide (c < 2 ^ 32))) = true) :
    Gives (.attnQuery die (.step t b) l qs kv false) s
      (if (cmdOf s.dev t).st = 1 then attnServe die t b l qs kv false s.dev else s.dev) := by
  refine Flows.gives_of_exec (exec_attnQuery die (.step t b) l qs kv false s) ?_
  rw [wf_attnQuery, hcodes]
  simp [within, hdie, hl, hb]

theorem gives_attnPartialArrive {kind shard : Nat} {ps : List (Nat × Nat × List Nat × Bool)} (hb : b < 16) (hl : l < 128) (hshard : shard < 8)
    (hps : ps.all (fun p => decide (p.1 < 2 ^ 32) && decide (p.2.1 < 2 ^ 32) && p.2.2.1.all (fun c => decide (c < 2 ^ 32))) = true)
    (hkind : kind < 5) : Gives (.attnPartialArrive t b l kind shard ps) s (attnPartial t b l kind shard ps s.dev) := by
  refine Flows.gives_of_exec (exec_attnPartialArrive t b l kind shard ps s) ?_
  simp only [wf_attnPartialArrive, within, List.all_cons, List.all_nil, Bool.and_true]
  simp only [hps, hb, hl, hkind, hshard, decide_true, Bool.and_self]

theorem gives_attnCfgWrite {val : Nat} (hdie : die < 4) (hval : val < 2 ^ 32) (hup : 4 ≤ s.dev.boot.step) :
    Gives (.attnCfgWrite die val) s (attnCfgWrite die val s.dev) := by
  have hg := Flows.gives_of_exec (exec_attnCfgWrite die val s) (by
    simp only [wf_attnCfgWrite, within, List.all_cons, List.all_nil, hdie, hval, decide_true, Bool.and_true])
  rwa [gate_of_store_up hup (rAttnCfg_store hdie)] at hg

end

/-- Settles O52: queries come down to `attnServe`, partials to `attnPartial`; each is taken or refused, and what is taken is stored in one
sequence of the step. -/
theorem attentionUnits : Obligations.AttentionUnits := by
  intro die t b l shard val qs kv ps s hdie hb16 hl128 hshard8 hval hcodes32 hps32 d seqs x query answered shaped arrive far n d8 held
  have hq : Gives query s (if (cmdOf d t).st = 1 then attnServe die t b l qs kv false d else d) := gives_attnQuery hdie hl128 hb16 hcodes32
  have hp (kind : Nat) (hkind : kind < 5) : Gives (arrive kind) s (attnPartial t b l kind shard ps d) :=
    gives_attnPartialArrive hb16 hl128 hshard8 hps32 hkind
  refine ⟨fun hst => ?_, fun hst hno => ?_, fun hst hlive hshaped hfresh htail => ?_,
    fun hst hlive hshaped hfresh htail hprev hkv hrows => ?_, fun hdead kind hkind => ?_, fun hlive hb hl htail => ?_,
    fun hlive hb ht => ?_, fun hup => ?_⟩
  · rwa [if_neg hst] at hq
  · rwa [if_pos hst, attnServe_of_refused hno] at hq
  · have hb := (queryShaped_iff.mp hshaped).1
    rw [if_pos hst, attnServe_of_taken hlive hshaped hfresh (fun h => absurd h (ne_true_of_eq_false htail)), tokenStored_of_shard _ htail,
      unitAnswers] at hq
    refine ⟨fun (hgood : (attendDie (seqAt d t b) die l qs d).bad = false) => ?_,
      fun (hbad : (attendDie (seqAt d t b) die l qs d).bad = true) => ?_⟩
    · rw [if_neg (ne_true_of_eq_false hgood)] at hq
      obtain ⟨hparts, hread, hskipped, -, -⟩ := queryAnswered_spec (die := die) (l := l) (seqAt d t b) (tokenOf (seqAt d t b) l kv) qs d hb
      exact answers_of_gives hq ⟨hparts, hread, hskipped, fun y hy => seqAt_queryAnswered_other _ _ _ _ hy,
        fun k hk => decOf_queryAnswered_other _ _ _ _ hk, hbm_queryAnswered .., cmds_queryAnswered ..⟩
    · rwa [if_pos hbad] at hq
  · intro codes d1 r hgood
    have hb := (queryShaped_iff.mp hshaped).1
    have hcodes : codes = tokenOf (seqAt d t b) l kv := by
      simp only [codes, show x = seqAt d t b from rfl, tokenOf]
      cases tget none (seqAt d t b).kv l <;> rfl
    have hd1 : tokenStored t b l codes d = d1 := tokenStored_of_tail codes htail
    have hspec := queryAnswered_tokenStored (die := die) qs d hcodes hb htail
    rw [if_pos hst, attnServe_of_taken hlive hshaped hfresh (fun _ => ⟨hkv, hrows, hprev⟩), ← hcodes, hd1, unitAnswers,
      if_neg (show ¬ (attendDie (seqAt d t b) die l qs d1).bad = true from ne_true_of_eq_false hgood)] at hq
    rw [hd1] at hspec
    exact answers_of_gives hq hspec
  · rw [← attnPartial_of_dead hdead]
    exact hp kind hkind
  · have hp0 := hp 0 (by omega)
    have hp1 := hp 1 (by omega)
    rw [attnPartial_of_own hlive hb htail hl] at hp0
    refine ⟨fun ho => ?_, fun o ho => ?_, fun hknown => ?_, fun hshard hother hlen hnew => ?_⟩
    · rwa [layerSettled_of_none _ ho] at hp0
    · rwa [layerSettled_of_some _ ho] at hp0
    · rwa [attnPartial_of_far_known hlive hb hknown] at hp1
    · rw [attnPartial_of_far_new hlive hb htail hl hshard hother hlen hnew] at hp1
      exact answers_of_gives hp1 (layerSettled_farStored ps d hb)
  · have hlost := hp 2 (by omega)
    have hended := hp 3 (by omega)
    rw [attnPartial_of_lost hlive hb ht] at hlost
    rw [attnPartial_of_ended hlive hb ht] at hended
    exact ⟨hlost, hended⟩
  · have hw := gives_attnCfgWrite (s := s) hdie hval hup
    refine ⟨fun hsame => ?_, fun hnew hno => ?_, fun hnew hidle hfit => ?_⟩
    · rwa [attnCfgWrite_of_same hsame] at hw
    · rwa [attnCfgWrite_of_refused hnew hno] at hw
    · rw [attnCfgWrite_of_taken hnew hidle hfit] at hw
      exact answers_of_gives hw ⟨(regFld_setFld_same ..).trans (Nat.mod_mod ..),
        (regFld_setFld_above _ _ _ (by omega)).trans ((regFld_setFld_same ..).trans (Nat.mod_mod ..)), rfl⟩

end Sys2Proof.Generation

/-! ## Completions of ring commands -/

namespace Sys2Proof.Rings

open Sys2Proof.Machine Sys2Proof.Safety Sys2Proof.Laws

/-- A ring command that is ready completes with what its work leaves. -/
theorem gives_of_ready {c : Instr} {op q t : Nat} {f : Cmd → Dev → Dev} {s : State} (hx : exec c s = run c (startCmd op q t f) s)
    (hw : wellFormed c = true) (h : cmdReady s.dev op q t = true) : Gives c s (f (cmdOf s.dev t) s.dev) := by
  have hg := Flows.gives_of_exec hx hw
  rwa [startCmd_ready h] at hg

/-- Of the device only what a completion is made of may differ, for the command and for the fences that waited for it: the commands, the
rings, what is written, sent and counted for them, and the fault queues that a fence reads (R451, R455, R507). -/
def CompletionOnly (d d' : Dev) : Prop :=
  d' = { d with
    cmds := d'.cmds, pairs := d'.pairs, hostMem := d'.hostMem, ctr := d'.ctr, out := d'.out, recPend := d'.recPend
    msixPba := d'.msixPba, errUp := d'.errUp, store := { d.store with dec := d'.store.dec }
    obs := { d.obs with arms := d'.obs.arms }, fab := { d.fab with faultQ := d'.fab.faultQ } }

namespace CompletionOnly

theorem refl (d : Dev) : CompletionOnly d d := rfl

theorem trans {a b c : Dev} (h : CompletionOnly a b) (h' : CompletionOnly b c) : CompletionOnly a c := by
  unfold CompletionOnly at h'
  rw [h] at h'
  exact h'

/-- What is a completion after a change of no more than a completion's parts is no more than a completion. -/
theorem after {a b c : Dev} (h' : CompletionOnly b c) (h : CompletionOnly a b) : CompletionOnly a c := h.trans h'

theorem ite {c : Prop} [Decidable c] {a b d : Dev} (ha : CompletionOnly d a) (hb : CompletionOnly d b) :
    CompletionOnly d (if c then a else b) := iteInduction (fun _ => ha) (fun _ => hb)

theorem foldl {α : Type} {f : Dev → α → Dev} (hf : ∀ d x, CompletionOnly d (f d x)) (l : List α) (d : Dev) :
    CompletionOnly d (l.foldl f d) :=
  List.foldlRecOn (motive := CompletionOnly d) l f (refl d) fun d' h x _ => h.trans (hf d' x)

section

variable {d d' : Dev} (h : CompletionOnly d d')
include h

theorem regs : d'.regs = d.regs := by rw [show d' = _ from h]
theorem comp : d'.comp = d.comp := by rw [show d' = _ from h]
theorem edge : d'.edge = d.edge := by rw [show d' = _ from h]
theorem ctxs : d'.ctxs = d.ctxs := by rw [show d' = _ from h]
theorem ep : d'.ep = d.ep := by rw [show d' = _ from h]
theorem txBk : d'.txBk = d.txBk := by rw [show d' = _ from h]

end

theorem modCmd (t : Nat) (f : Cmd → Cmd) (d : Dev) : CompletionOnly d (modCmd t f d) := rfl

theorem modPair (q : Nat) (f : Pair → Pair) (d : Dev) : CompletionOnly d (modPair q f d) := rfl

theorem bump (c : Ctr) (i j : Nat) (d : Dev) : CompletionOnly d (bump c i j d) := rfl

theorem hostWrite (fn a : Nat) (bs : List Byte) (d : Dev) : CompletionOnly d (hostWrite fn a bs d) := rfl

theorem raiseVec (fn vec : Nat) (d : Dev) : CompletionOnly d (raiseVec fn vec d) := ite (refl d) (ite rfl rfl)

theorem raiseErr (fn kind : Nat) (d : Dev) : CompletionOnly d (raiseErr fn kind d) :=
  ite (refl d) ((raiseVec ..).after rfl)

theorem pairError (q cause : Nat) (d : Dev) : CompletionOnly d (pairError q cause d) :=
  ite (refl d) ((raiseErr ..).after rfl)

theorem pairIrq (q : Nat) (d : Dev) : CompletionOnly d (pairIrq q d) :=
  ite (refl d) ((raiseVec ..).after rfl)

theorem cqWrite (c : Cmd) (status result : Nat) (d : Dev) : CompletionOnly d (cqWrite c status result d) :=
  ite ((pairIrq ..).after ((modPair ..).after ((bump ..).after (hostWrite ..)))) (pairError ..)

theorem finish (t : Nat) (st : Status) (result : Nat) (d : Dev) : CompletionOnly d (finish t st result d) :=
  ite ((cqWrite ..).after rfl) (refl d)

theorem settleFences (q : Nat) (d : Dev) : CompletionOnly d (settleFences q d) :=
  foldl (fun d _ => ite (refl d) (finish ..)) _ d

theorem complete (t : Nat) (st : Status) (result : Nat) (d : Dev) : CompletionOnly d (complete t st result d) :=
  ite ((finish ..).trans (settleFences ..)) (refl d)

/-- A FENCE of a window waits, or completes and takes from its fault queue what it reports (R507). -/
theorem fenceTry (t : Nat) (d : Dev) : CompletionOnly d (fenceTry t d) :=
  ite (modCmd ..) (ite ((complete ..).after rfl) (ite ((complete ..).after rfl) (ite (complete ..) (complete ..))))

theorem settleWinFences (fn : Nat) (d : Dev) : CompletionOnly d (settleWinFences fn d) := foldl (fun d t => fenceTry t d) _ d

theorem copySettle (t : Nat) (d : Dev) : CompletionOnly d (copySettle t d) :=
  ite (refl d) ((complete ..).trans (settleWinFences ..))

end CompletionOnly

end Sys2Proof.Rings

/-! ## Epoch flips -/

namespace Sys2Proof.Epochs

open Sys2Proof.Machine Sys2Proof.Safety Sys2Proof.Laws Sys2Proof.Rings

/-! ## FLIP_EPOCH -/

section

variable {t : Nat} {c : Cmd} {d : Dev}

/-- Without STAGING, with DRAINING, or while another flip or an opening is under way, a flip is refused (R404). -/
theorem flipEpoch_of_busy (h : d.ep.stage = none ∨ d.ep.drain.isSome = true ∨ d.ep.flip.isSome = true ∨ d.ep.opening.isSome = true) :
    flipEpoch t c d = refuseFlip t .epochBusy d := by
  unfold flipEpoch
  split
  · rfl
  · next hs => exact if_pos (h.resolve_left (by simp [hs]))

/-- With STAGING alone beside CURRENT, only the number a flip names is left to check (R404). -/
theorem flipEpoch_of_open {n tag : Nat} (hs : d.ep.stage = some (n, tag)) (hd : d.ep.drain = none) (hf : d.ep.flip = none)
    (ho : d.ep.opening = none) : flipEpoch t c d =
      if cmdFld c 12 4 ≠ 0 ∧ cmdFld c 12 4 ≠ n then refuseFlip t .epochStale d else startHold t false d := by
  simp [flipEpoch, hs, hd, hf, ho]

end

theorem maint_maintAsk (r : MaintReq) (d : Dev) : (maintAsk r d).maint = d.maint ++ [{ r with granted := !maintBlocked d d.maint r }] := by
  unfold maintAsk when; dsimp only; split <;> rfl

section

variable (t : Nat) (abandon : Bool) (d : Dev)

/-- The request with which a flip or an abandon reaches the arbiter (R547). -/
def holdReq : MaintReq :=
  { act := if abandon then 0x101 else 0x100, obj := 0xFFFF, src := 3, tkt := t, limit := beat d + holdLimitNs d }

theorem startHold_eq : startHold t abandon d = modCmd t (fun c => { c with st := 1 })
    (onEp (fun e => { e with
        flip := some { tkt := t, abandon, since := beat d, held := maintGranted (maintAsk (holdReq t abandon d) d) t } })
      (maintAsk (holdReq t abandon d) d)) := by
  rw [startHold]
  simp only [beat, maintAsk_keeps, holdReq]

theorem cmdOf_startHold : cmdOf (startHold t abandon d) t = { cmdOf d t with st := 1 } := by
  rw [startHold_eq, cmdOf_modCmd_at]
  simp only [cmdOf, onEp_cmds, maintAsk_keeps]

theorem maint_startHold : (startHold t abandon d).maint =
    d.maint ++ [{ holdReq t abandon d with granted := !maintBlocked d d.maint (holdReq t abandon d) }] := by
  rw [startHold_eq]
  exact maint_maintAsk ..

theorem ep_startHold : (startHold t abandon d).ep = { d.ep with
    flip := some { tkt := t, abandon, since := beat d, held := maintGranted (maintAsk (holdReq t abandon d) d) t } } := by
  rw [startHold_eq]
  simp

theorem edge_startHold : (startHold t abandon d).edge = d.edge := by rw [startHold_eq]; simp

theorem comp_startHold : (startHold t abandon d).comp = d.comp := by rw [startHold_eq]; simp

/-- A hold whose request meets no conflict is admitted at once (R547, R548). -/
theorem maintGranted_maintAsk (h : maintBlocked d d.maint (holdReq t abandon d) = false) :
    maintGranted (maintAsk (holdReq t abandon d) d) t = true := by
  simp only [maintGranted, maint_maintAsk, h, Bool.not_false]
  simp [holdReq]

end

/-! ## The hold and the switch -/

/-- With no bulk operation under way none is stale. -/
theorem staleBulk_of_no_bulk {d : Dev} (h : d.cmds.all (fun e => !isBulk e.2) = true) : staleBulk d = d := by
  have hnone : d.cmds.filter (fun e => isBulk e.2) = [] := by simpa [List.filter_eq_nil_iff] using h
  rw [staleBulk, hnone, List.foldl_nil]

section

variable {d : Dev} {f : Flip}

section

variable {n tag : Nat} (hf : d.ep.flip = some f) (hs : d.ep.stage = some (n, tag))
include hf hs

theorem epochHoldEnd_of_not_due (h : f.held = false ∨ f.switching = true ∨ trainCommitting d = true) : epochHoldEnd d = d := by
  simp only [epochHoldEnd, hf, hs]
  exact if_pos (by simpa using h)

theorem epochHoldEnd_of_flip (hheld : f.held = true) (hsw : f.switching = false) (hab : f.abandon = false)
    (htrain : trainCommitting d = false) : epochHoldEnd d = beginSwitch n tag (staleBulk d) := by
  simp [epochHoldEnd, hf, hs, hheld, hsw, hab, htrain]

end

/-- The switch keeps numbers and tags in order: STAGING's follow CURRENT's, whose become DRAINING's (R397 to R399). -/
theorem epochsOk_of_switch {e e' : Epochs} {n tag : Nat} (hs : e.stage = some (n, tag)) (hcur : e'.curTag = tag)
    (hdrain : e'.drain = some (e.cur, e.curTag)) (hstage : e'.stage = none) (h : epochsOk e = true) : epochsOk e' = true := by
  simp only [epochsOk, hs, hcur, hdrain, hstage, Option.all_some, Option.all_none, Option.isSome_none, Bool.false_and, Bool.not_false,
    Bool.and_true, Bool.and_eq_true, decide_eq_true_eq, beq_iff_eq, Prod.mk.injEq] at h ⊢
  obtain ⟨⟨⟨htag, -, hnext⟩, -⟩, -⟩ := h
  omega

section

variable (hf : d.ep.flip = some f)
include hf

theorem ep_beginSwitch (n tag : Nat) : (beginSwitch n tag d).ep =
    { d.ep with cur := n, curTag := tag, drain := some (d.ep.cur, d.ep.curTag), drainReady := false, stage := none
                flip := some { f with switching := true, dies := 0 } } := by
  simp [beginSwitch, onEp, hf]

theorem epochHoldTimeout_of_early (h : beat d < f.since + holdLimitNs d) : epochHoldTimeout d = d := by
  simp only [epochHoldTimeout, hf]
  exact if_pos (.inr h)

/-- An admitted hold past its limit leaves the arbiter and completes with EPOCH_BUSY (R405). -/
theorem epochHoldTimeout_of_due (hsw : f.switching = false) (hdue : f.since + holdLimitNs d ≤ beat d) (hheld : f.held = true) :
    epochHoldTimeout d =
      let d1 := { maintEnd f.tkt d with ep := { d.ep with flip := none } }
      if f.abandon then complete f.tkt .epochBusy 0 d1 else complete f.tkt .epochBusy 0 (bump .flipRefused Status.epochBusy.code 0 d1) := by
  simp only [epochHoldTimeout, hf]
  rw [if_neg (by simp [hsw, hdue]), hheld]
  rfl

theorem epochSwitch_of_switching (hsw : f.switching = true) (die : Nat) :
    epochSwitch die d = { d with ep := { d.ep with flip := some { f with dies := setBits f.dies die 1 1 } } } := by
  simp [epochSwitch, onEp, hf, hsw]

theorem epochSwitchAck_eq (hsw : f.switching = true) : epochSwitchAck d = if f.dies = 15 then
    complete f.tkt .ok d.ep.cur { maintEnd f.tkt d with ep := { d.ep with flip := none, drainReady := true } } else d := by
  simp only [epochSwitchAck, hf, hsw, true_and]
  rfl

end

end

/-- Settles O28: FLIP_EPOCH comes down to a refusal or the start of a hold, the end of a hold to the switch or a refusal, and the
switch's end to a completion; a completion leaves the epochs as they are. -/
theorem epochFlips : Obligations.EpochFlips := by
  intro q t die s hq hdie d m refused r
  refine ⟨fun hready => ?_, fun f n tag hf hs => ?_, fun f hf hsw => ?_, fun f hf hsw => ?_⟩
  · have hg := gives_of_ready (exec_flipEpoch q t s) (by simp [wf_flipEpoch, within, hq]) hready
    refine ⟨fun hbusy => ?_, fun n tag hs hd hfl ho => ⟨fun hn0 hn => ?_, fun hn => ?_⟩⟩
    · rwa [flipEpoch_of_busy hbusy] at hg
    · rwa [flipEpoch_of_open hs hd hfl ho, if_pos ⟨hn0, hn⟩] at hg
    · rw [flipEpoch_of_open hs hd hfl ho, if_neg (fun ⟨h0, h1⟩ => hn.elim h0 h1)] at hg
      exact answers_of_gives hg ⟨cmdOf_startHold .., ⟨_, ep_startHold .., rfl, rfl, rfl, rfl, maintGranted_maintAsk t false d⟩,
        maint_startHold .., edge_startHold .., comp_startHold ..⟩
  · have hg := Flows.gives_of_exec (exec_epochHoldEnd s) wf_epochHoldEnd
    refine ⟨fun h => ?_, fun hheld hsw hab htrain hbulk => ?_⟩
    · rwa [epochHoldEnd_of_not_due hf hs h] at hg
    · rw [epochHoldEnd_of_flip hf hs hheld hsw hab htrain, staleBulk_of_no_bulk hbulk] at hg
      exact answers_of_gives hg ⟨ep_beginSwitch hf n tag, ctrVal_bump_same .., rfl, epochsOk_of_switch hs rfl rfl rfl⟩
  · have hg := Flows.gives_of_exec (exec_epochHoldTimeout s) wf_epochHoldTimeout
    refine ⟨fun hearly => ?_, fun hdue hheld => ?_⟩
    · rwa [epochHoldTimeout_of_early hf hearly] at hg
    · rw [epochHoldTimeout_of_due hf hsw hdue hheld] at hg
      refine answers_of_gives hg ⟨?_, rfl⟩
      dsimp only
      split
      · exact (CompletionOnly.complete ..).ep
      · exact (CompletionOnly.complete ..).ep
  · have hswitch := Flows.gives_of_exec (exec_epochSwitch die s) (by simp [wf_epochSwitch, within, hdie])
    have hack := Flows.gives_of_exec (exec_epochSwitchAck s) wf_epochSwitchAck
    rw [epochSwitch_of_switching hf hsw] at hswitch
    rw [epochSwitchAck_eq hf hsw] at hack
    refine ⟨hswitch, fun hdies => ?_, fun hdies => ?_⟩
    · rwa [if_neg hdies] at hack
    · rwa [if_pos hdies] at hack

end Sys2Proof.Epochs

/-! ## Contexts and their images -/

namespace Sys2Proof.Contexts

open Sys2Proof.Machine Sys2Proof.Safety Sys2Proof.Laws Sys2Proof.Rings

theorem ctxOf_congr {d d' : Dev} (h : d'.ctxs = d.ctxs) (n : Nat) : ctxOf d' n = ctxOf d n := by rw [ctxOf, h, ctxOf]

theorem ctxOf_complete (t : Nat) (st : Status) (result : Nat) (d : Dev) (n : Nat) : ctxOf (complete t st result d) n = ctxOf d n :=
  ctxOf_congr (CompletionOnly.complete ..).ctxs n

theorem ctxOf_modCmd (t : Nat) (f : Cmd → Cmd) (d : Dev) (n : Nat) : ctxOf (modCmd t f d) n = ctxOf d n := rfl

/-! ## CONTEXT_CREATE -/

/-- The clusters that a CONTEXT_CREATE names. -/
def clustersOf (c : Cmd) : List Nat := (List.range 96).filter (bitOf (cmdFld c 32 12))

/-- The device in which context `n` is the one that a CONTEXT_CREATE describes. -/
def ctxMade (c : Cmd) (n : Nat) (d : Dev) : Dev :=
  modCtx n (fun _ => { exist := true, owner := cmdPart d c, feedback := cmdFld c 24 1 == 1, clusters := clustersOf c }) (newCtxCtrs n d)

section

variable {t : Nat} {c : Cmd} {d : Dev}

theorem contextCreate_of_none (hmask : cmdFld c 32 12 = 0) : contextCreate t c d = complete t .invalidField 0 d := if_pos hmask

variable (hmask : cmdFld c 32 12 ≠ 0)
include hmask

theorem contextCreate_of_not_own (hown : (clustersOf c).all (ownsCluster d (cmdPart d c)) = false) :
    contextCreate t c d = complete t .accessDenied 0 d :=
  (if_neg hmask).trans (if_pos (ne_true_of_eq_false hown))

variable (hown : (clustersOf c).all (ownsCluster d (cmdPart d c)) = true)
include hown

theorem contextCreate_of_limit (hlim : 4096 ≤ tcount (fun _ x => x.exist) d.ctxs ∨
      (partOf d (cmdPart d c)).ctxQuota ≤ tcount (fun _ x => x.exist && x.owner == cmdPart d c) d.ctxs) :
    contextCreate t c d = complete t .noContext 0 d :=
  (if_neg hmask).trans ((if_neg (not_not_intro hown)).trans (if_pos hlim))

/-- Within the limits the lowest free number becomes the context (R419, R420). -/
theorem contextCreate_of_free (hall : tcount (fun _ x => x.exist) d.ctxs < 4096)
    (hquota : tcount (fun _ x => x.exist && x.owner == cmdPart d c) d.ctxs < (partOf d (cmdPart d c)).ctxQuota)
    {n : Nat} (hn : n < 4096) (hfree : (ctxOf d n).exist = false) (hlow : ∀ k, k < n → (ctxOf d k).exist = true) :
    contextCreate t c d = complete t .ok n (ctxMade c n d) := by
  have hfind : (List.range 4096).find? (fun n => !(ctxOf d n).exist) = some n := by
    simpa [List.find?_range_eq_some, hfree, hn] using hlow
  refine (if_neg hmask).trans ((if_neg (not_not_intro hown)).trans ((if_neg (by omega)).trans ?_))
  rw [hfind]
  rfl

end

theorem ctxOf_ctxMade_same (c : Cmd) (n : Nat) (d : Dev) : ctxOf (ctxMade c n d) n =
    { exist := true, owner := cmdPart d c, feedback := cmdFld c 24 1 == 1, clusters := clustersOf c } := ctxOf_modCtx_at ..

theorem ctxOf_ctxMade_other {k n : Nat} (c : Cmd) (d : Dev) (h : k ≠ n) : ctxOf (ctxMade c n d) k = ctxOf d k :=
  ctxOf_modCtx_off _ _ h

/-! ## CONTEXT_DESTROY -/

/-- The device in which a context is being destroyed. -/
def destroying (n : Nat) : Dev → Dev := modCtx n (fun x => { x with destroying := true })

section

variable {q t : Nat} {c : Cmd} {d : Dev}

/-- A CONTEXT_DESTROY that has not begun starts as any command does. -/
theorem contextDestroyRow_of_new (hst : (cmdOf d t).st = 0) : contextDestroyRow q t d = startCmd 0x61 q t (contextDestroy t) d := by
  rw [contextDestroyRow]
  exact if_neg (by simp [hst])

theorem contextDestroy_of_absent (hx : (ctxOf d (cmdFld c 8 2)).exist = false) : contextDestroy t c d = complete t .noContext 0 d :=
  if_pos (ne_true_of_eq_false hx)

variable (hx : (ctxOf d (cmdFld c 8 2)).exist = true)
include hx

theorem contextDestroy_of_not_own (hown : (ctxOf d (cmdFld c 8 2)).owner ≠ cmdPart d c) :
    contextDestroy t c d = complete t .accessDenied 0 d := by
  rw [contextDestroy, if_neg (not_not_intro hx)]
  exact if_pos hown

variable (hown : (ctxOf d (cmdFld c 8 2)).owner = cmdPart d c) (hall : bitOf (cmdFld c 24 1) 0 = false)
include hown hall

/-- A context on which work runs waits for its end (R419). -/
theorem contextDestroy_of_busy (hbusy : ctxBusy d (cmdFld c 8 2) t = true) :
    contextDestroy t c d = modCmd t (fun c => { c with st := 1 }) (destroying (cmdFld c 8 2) d) := by
  rw [contextDestroy, if_neg (not_not_intro hx), if_neg (not_not_intro hown), if_neg (ne_true_of_eq_false hall)]
  exact if_pos hbusy

/-- An idle context that no dump is armed for is gone at once (R419). -/
theorem contextDestroy_of_idle (hidle : ctxBusy d (cmdFld c 8 2) t = false) (harms : d.obs.arms = []) :
    contextDestroy t c d = complete t .ok 0 (removeCtx (cmdFld c 8 2) (destroying (cmdFld c 8 2) d)) := by
  have harms' : (modCtx (cmdFld c 8 2) (fun x => { x with destroying := true }) d).obs.arms = [] := harms
  rw [contextDestroy, if_neg (not_not_intro hx), if_neg (not_not_intro hown), if_neg (ne_true_of_eq_false hall)]
  refine (if_neg (ne_true_of_eq_false hidle)).trans ?_
  rw [harms']
  rfl

end

theorem ctxOf_removeCtx_same (n : Nat) (d : Dev) : ctxOf (removeCtx n d) n = {} := tget_tdel_same ..

theorem ctxOf_removeCtx_other {k n : Nat} (d : Dev) (h : k ≠ n) : ctxOf (removeCtx n d) k = ctxOf d k := tget_tdel_other _ _ h

/-! ## LOAD_IMAGE -/

/-- An image passes every check of LOAD_IMAGE for a cluster's context (Table 13.8, R430). -/
structure ImagePasses (d : Dev) (c : Cmd) (t : Nat) (b : List Byte) (x : Context) : Prop where
  header : headerOk b 0 (cmdFld c 40 8) = true
  crcs : crcsOk b = true
  signature : signatureOk d b = true
  part : fitsPart d (cmdPart d c) b = true
  content : clusterRefused b = none
  size : clusterTooLarge b (versionOf b t) x = false
  shares : sharesFit d x (versionOf b t) = true

/-- The device in which a version of context `id` is prepared and its command waits for the commit. -/
def imagePrepared (t id : Nat) (v : CtxVersion) (d : Dev) : Dev :=
  modCmd t (fun c => { c with st := 1, aux := [t] }) (placeShares id v (modCtx id (fun x => { x with work := v }) d))

/-- The device once the image of a LOAD_IMAGE has been read. -/
def imageRead (c : Cmd) (d : Dev) : Dev := sourceCount c (cmdFld c 24 1 == 1) (cmdFld c 32 8) (cmdFld c 40 8) d

theorem countersOnly_imageRead (c : Cmd) (d : Dev) : Generation.CountersOnly d (imageRead c d) :=
  Generation.CountersOnly.ite (Generation.CountersOnly.hbmCount ..) (Generation.CountersOnly.pcieRead ..)

/-- The checks of an image look at no counter. -/
theorem ImagePasses.of_countersOnly {d d' : Dev} {c : Cmd} {t : Nat} {b : List Byte} {x : Context} (hp : ImagePasses d c t b x)
    (h : Generation.CountersOnly d d') : ImagePasses d' c t b x := by
  rw [h.eq]
  exact { hp with }

theorem loadCtx_of_passes {t tag : Nat} {c : Cmd} {b : List Byte} {d : Dev} (hfeed : (ctxOf d (cmdFld c 8 2)).feedback = false)
    (h : ImagePasses d c t b (ctxOf d (cmdFld c 8 2))) :
    loadCtx t tag true c b (cmdFld c 40 8) d = imagePrepared t (cmdFld c 8 2) (versionOf b t) d := by
  simp [loadCtx, imagePrepared, hfeed, h.header, h.crcs, h.signature, h.part, h.content, h.size, h.shares]

section

variable {t : Nat} {fits : Bool} {c : Cmd} {d : Dev} (hedge : cmdFld c 26 1 = 0)
include hedge

theorem loadImage_of_absent (hx : (ctxOf d (cmdFld c 8 2)).exist = false) : loadImage t fits c d = refuseImage t .noContext d := by
  rw [loadImage]
  exact if_pos (by simp [hedge, hx])

/-- With a context of its partition and an epoch to load it into, an image that is read and passes every check is prepared
(R421, R430). -/
theorem loadImage_of_passes {b : List Byte} {k tag : Nat} (hx : (ctxOf d (cmdFld c 8 2)).exist = true)
    (hown : (ctxOf d (cmdFld c 8 2)).owner = cmdPart d c) (hfeed : (ctxOf d (cmdFld c 8 2)).feedback = false)
    (hread : sourceBytes d c (cmdFld c 24 1 == 1) (cmdFld c 32 8) (cmdFld c 40 8) = .ok b)
    (hs : d.ep.stage = some (k, tag)) (hstale : retireStale c d.ep.stage = false)
    (h : ImagePasses d c t b (ctxOf d (cmdFld c 8 2))) :
    loadImage t true c d = imagePrepared t (cmdFld c 8 2) (versionOf b t) (imageRead c d) := by
  have hcount := countersOnly_imageRead c d
  have hep : (imageRead c d).ep = d.ep := by rw [hcount.eq]
  have hctx : ctxOf (imageRead c d) (cmdFld c 8 2) = ctxOf d (cmdFld c 8 2) := ctxOf_congr (by rw [hcount.eq]) _
  have hload : loadImage t true c d = loadCtx t tag true c b (cmdFld c 40 8) (imageRead c d) := by
    rw [hs] at hstale
    rw [imageRead] at hep
    simp [loadImage, imageRead, hedge, hx, hown, hread, hep, hs, hstale]
  rw [hload, loadCtx_of_passes (by rw [hctx]; exact hfeed) (by rw [hctx]; exact h.of_countersOnly hcount)]

end

/-- Taking the regions of shares on the cores leaves all but the cores as it is (R307). -/
theorem placeShares_frame (id : Nat) (v : CtxVersion) (d : Dev) :
    placeShares id v d = { d with comp := (placeShares id v d).comp } := by
  unfold placeShares
  exact List.foldlRecOn (motive := fun d' : Dev => d' = { d with comp := d'.comp }) _ _ rfl fun d' h e _ => by rw [h]; rfl

section

variable (t id : Nat) (v : CtxVersion) (d : Dev)

theorem ctxOf_imagePrepared (k : Nat) :
    ctxOf (imagePrepared t id v d) k = if k = id then { ctxOf d id with work := v } else ctxOf d k := by
  have hctxs (d : Dev) : (placeShares id v d).ctxs = d.ctxs := by rw [placeShares_frame]
  rw [imagePrepared, ctxOf_modCmd, ctxOf_congr (hctxs _), ctxOf_modCtx]

theorem st_imagePrepared : (cmdOf (imagePrepared t id v d) t).st = 1 := by rw [imagePrepared, cmdOf_modCmd_at]

theorem ep_imagePrepared : (imagePrepared t id v d).ep = d.ep := by
  rw [imagePrepared, placeShares_frame]
  rfl

end

/-! ## BULK_COMMIT -/

theorem ctxs_dropVid (c vid : Nat) (d : Dev) : (dropVid c vid d).ctxs = d.ctxs := by
  unfold dropVid
  dsimp only
  split <;> rfl

/-- A version put in place of another stands in its context's tag, and nowhere else (R421). -/
theorem ctxOf_setVersion (c tag : Nat) (v : CtxVersion) (d : Dev) (k : Nat) :
    ctxOf (setVersion c tag v d) k = ctxOf (modCtx c (fun x => { x with versions := tput {} x.versions tag v }) d) k :=
  ctxOf_congr (ctxs_dropVid ..) k

/-- Asking the clusters of a context for a version's resident rows changes no context (R421). -/
theorem ctxs_reloads (l : List Nat) (vid : Nat) (d : Dev) :
    (forEach l (modCluster · (fun k => { k with reload := k.reload ++ [vid] })) d).ctxs = d.ctxs :=
  forEach_ctxs _ _ _ fun _ _ => rfl

theorem bulkCommit_of_image {q t : Nat} {d : Dev} (hq : (cmdOf d t).q = q) (hst : (cmdOf d t).st = 1) (hop : opcodeOf (cmdOf d t) = 0x10) :
    bulkCommit q t d = commitImage t (cmdOf d t) d := by
  simp [bulkCommit, hq, hst, hop]

/-- The context of a command once its prepared version is STAGING's. -/
def committed (tag : Nat) (x : Context) : Context := { x with versions := tput {} x.versions tag x.work, work := {} }

/-- A commit moves the prepared version to STAGING and leaves every other context as it is (R407). -/
theorem ctxOf_commitImage {t : Nat} {c : Cmd} {d : Dev} {n tag : Nat} (hs : d.ep.stage = some (n, tag)) (k : Nat) :
    ctxOf (commitImage t c d) k = if k = cmdFld c 8 2 then committed tag (ctxOf d k) else ctxOf d k := by
  have hwork : ctxOf (modCtx (cmdFld c 8 2) (fun x => { x with work := {} })
      (setVersion (cmdFld c 8 2) tag (ctxOf d (cmdFld c 8 2)).work d)) k =
        if k = cmdFld c 8 2 then committed tag (ctxOf d k) else ctxOf d k := by
    split
    · next h => rw [h, ctxOf_modCtx_at, ctxOf_setVersion, ctxOf_modCtx_at, committed]
    · next h => rw [ctxOf_modCtx_off _ _ h, ctxOf_setVersion, ctxOf_modCtx_off _ _ h]
  simp only [commitImage, hs, apply_ite (ctxOf · k), ctxOf_modCmd, ctxOf_complete, ctxOf_congr (ctxs_reloads ..), ite_self]
  exact hwork

/-- Settles O31: each command comes down to its refusals or to its effect on one context; a completion leaves the contexts as they are. -/
theorem imagesAndContexts : Obligations.ImagesAndContexts := by
  intro q t fits s hq d m p id x ends
  have hwf : within [(q, 8192)] = true := by simp [within, hq]
  refine ⟨fun hready => ?_, fun hready hst => ?_, fun hready hedge => ⟨fun hx => ?_, ?_⟩, fun n tag hmq hst hop hs => ?_⟩
  · intro mask cls
    have hg := gives_of_ready (exec_contextCreate q t s) hwf hready
    refine ⟨fun hmask => ?_, fun hmask hown => ?_, fun hmask hown => ⟨fun hlim => ?_, fun hall hquota n hn hfree hlow => ?_⟩⟩
    · rwa [contextCreate_of_none hmask] at hg
    · rwa [contextCreate_of_not_own hmask hown] at hg
    · rwa [contextCreate_of_limit hmask hown hlim] at hg
    · rw [contextCreate_of_free hmask hown hall hquota hn hfree hlow] at hg
      have hc := CompletionOnly.complete t .ok n (ctxMade m n d)
      refine answers_of_gives hg ⟨?_, fun k hk => ?_, hc.comp, hc.edge⟩
      · rw [ctxOf_complete, ctxOf_ctxMade_same]; rfl
      · rw [ctxOf_complete, ctxOf_ctxMade_other _ _ hk]
  · have hg := Flows.gives_of_exec (exec_contextDestroy q t s) hwf
    rw [contextDestroyRow_of_new hst, startCmd_ready hready] at hg
    refine ⟨fun hx => ?_, fun hx hown => ?_, fun hx hown hall => ⟨fun hbusy => ?_, fun hidle harms => ?_⟩⟩
    · rwa [contextDestroy_of_absent hx] at hg
    · rwa [contextDestroy_of_not_own hx hown] at hg
    · rw [contextDestroy_of_busy hx hown hall hbusy] at hg
      refine answers_of_gives hg ⟨cmdOf_modCmd_at .., ?_, fun k hk => ?_⟩
      · rw [ctxOf_modCmd, destroying, ctxOf_modCtx_at]
      · rw [ctxOf_modCmd, destroying, ctxOf_modCtx_off _ _ hk]
    · rw [contextDestroy_of_idle hx hown hall hidle harms] at hg
      refine answers_of_gives hg ⟨?_, fun k hk => ?_, (CompletionOnly.complete ..).regs⟩
      · rw [ctxOf_complete]; exact ctxOf_removeCtx_same ..
      · rw [ctxOf_complete, ctxOf_removeCtx_other _ hk, destroying, ctxOf_modCtx_off _ _ hk]
  · have hg := gives_of_ready (exec_loadImage q t fits s) hwf hready
    rwa [loadImage_of_absent hedge hx] at hg
  · intro b n tag hx hown hfeed hread hs hstale v hheader hcrcs hsig hpart hcontent hsize hfits hshares
    have hg := gives_of_ready (exec_loadImage q t fits s) hwf hready
    have hpasses : ImagePasses d m t b x := ⟨hheader, hcrcs, hsig, hpart, hcontent, hsize, hshares⟩
    rw [hfits, loadImage_of_passes hedge hx hown hfeed hread hs hstale hpasses] at hg
    have hcount := countersOnly_imageRead m d
    have hctxs : (imageRead m d).ctxs = d.ctxs := by rw [hcount.eq]
    rw [hfits]
    refine answers_of_gives hg ⟨?_, ?_, st_imagePrepared .., fun k hk => ?_, ?_⟩
    · rw [ctxOf_imagePrepared, if_pos rfl]
    · rw [ctxOf_imagePrepared, if_pos rfl, ctxOf_congr hctxs]
    · rw [ctxOf_imagePrepared, if_neg hk, ctxOf_congr hctxs]
    · rw [ep_imagePrepared, hcount.eq]
  · have hg := Flows.gives_of_exec (exec_bulkCommit q t s) hwf
    rw [bulkCommit_of_image hmq hst hop] at hg
    have hctx := ctxOf_commitImage (t := t) (c := m) hs
    refine answers_of_gives hg ⟨?_, ?_, fun y hy => ?_, fun k hk => ?_⟩
    · rw [ctxVer, hctx, if_pos rfl]; exact tget_tput_same ..
    · rw [hctx, if_pos rfl]; rfl
    · rw [ctxVer, hctx, if_pos rfl]; exact tget_tput_other _ _ _ hy
    · rw [hctx, if_neg hk]

end Sys2Proof.Contexts

/-! ## Starts of ring commands -/

namespace Sys2Proof.Commands

open Sys2Proof.Machine Sys2Proof.Safety Sys2Proof.Laws Sys2Proof.Rings

theorem q_of_cmdReady {d : Dev} {op q t : Nat} (h : cmdReady d op q t = true) : (cmdOf d t).q = q := by
  simp only [cmdReady, Bool.and_eq_true, beq_iff_eq] at h
  obtain ⟨⟨⟨hq, -⟩, -⟩, -⟩ := h
  exact hq

/-! ## RUN and RUN_TREES -/

/-- The ranges of a run's input and output lie where the command says (R443). -/
def runRangesOk (d : Dev) (c : Cmd) (inLen outLen : Nat) : Bool :=
  rangeOk d c (bitOf (cmdFld c 1 1) 2) false (cmdFld c 32 8) inLen && rangeOk d c (bitOf (cmdFld c 1 1) 3) true (cmdFld c 40 8) outLen

/-- A run asks for its context, in its epoch, as a decode step does; then its ranges decide (R401, R450). -/
theorem runStart_eq (t inLen outLen : Nat) (c : Cmd) (d : Dev) : runStart t inLen outLen c d =
    if Generation.stepKnown d c = false then complete t .noContext 0 d
    else if runRangesOk d c inLen outLen = false then complete t .accessDenied 0 d
    else modCmd t (fun c => { c with st := 1 }) d := by
  simp only [runStart, Generation.stepKnown, runRangesOk, Bool.and_eq_false_iff, Bool.not_eq_false', Bool.not_eq_true, or_assoc]

/-- Whichever of the two commands starts a run, it is refused or begins. -/
theorem gives_runStart {i : Instr} {t inLen outLen : Nat} {c : Cmd} {s : State} (hg : Gives i s (runStart t inLen outLen c s.dev)) :
    (Generation.stepKnown s.dev c = false → Gives i s (complete t .noContext 0 s.dev)) ∧
    (Generation.stepKnown s.dev c = true →
      (runRangesOk s.dev c inLen outLen = true → Gives i s (modCmd t (fun c => { c with st := 1 }) s.dev)) ∧
      (runRangesOk s.dev c inLen outLen = false → Gives i s (complete t .accessDenied 0 s.dev))) := by
  rw [runStart_eq] at hg
  refine ⟨fun h => ?_, fun h => ⟨fun hr => ?_, fun hr => ?_⟩⟩
  · rwa [if_pos h] at hg
  · rwa [if_neg (ne_false_of_eq_true h), if_neg (ne_false_of_eq_true hr)] at hg
  · rwa [if_neg (ne_false_of_eq_true h), if_pos hr] at hg

/-! ## FENCE -/

/-- A change of one command keeps what holds of every command, where it holds of the changed one. -/
theorem all_cmds_modCmd {p : Nat × Cmd → Bool} {t : Nat} {f : Cmd → Cmd} {d : Dev} (ht : p (t, f (cmdOf d t)) = true)
    (h : d.cmds.all p = true) : (modCmd t f d).cmds.all p = true := by
  unfold modCmd tmod tput
  dsimp only
  split
  · exact all_tdel p _ t h
  · exact all_tins p _ t _ ht h

/-- Whether an earlier REMOTE_COPY of a fence's function to its window is outstanding (R452). -/
def copyBefore (d : Dev) (t : Nat) (c : Cmd) : Bool :=
  d.cmds.any (fun e => decide (e.1 < t) && cmdFn e.2 == cmdFn c && opcodeOf e.2 == 0x42 && copyKey e.2 == fenceKey c)

/-- A command is not one before itself, so that a change of it puts no copy before it. -/
theorem copyBefore_modCmd {d : Dev} {t : Nat} {c : Cmd} (f : Cmd → Cmd) (h : copyBefore d t c = false) :
    copyBefore (modCmd t f d) t c = false := by
  simp only [copyBefore, List.any_eq_not_all_not, Bool.not_eq_false'] at h ⊢
  exact all_cmds_modCmd (by simp) h

section

variable {t : Nat} {d : Dev}

theorem fenceCmd_of_pair {c : Cmd} (h : cmdFld c 24 1 = 0) : fenceCmd t c d =
    if d.cmds.any (fun e => e.2.q == c.q && decide (e.1 < t)) then modCmd t (fun c => { c with st := 1 }) d else complete t .ok 0 d :=
  if_pos h

/-- A FENCE of a window completes OK, with no earlier copy to it, nothing reported and a way to its package (R507). -/
theorem fenceTry_of_quiet (hcopy : copyBefore d t (cmdOf d t) = false)
    (hkey : (faultQOf d (cmdFn (cmdOf d t))).keys.contains (fenceKey (cmdOf d t)) = false)
    (hover : (faultQOf d (cmdFn (cmdOf d t))).overflow = false) (hlink : (cmdOf d t).aux.headD 0 = 0) :
    fenceTry t d = complete t .ok 0 d :=
  (if_neg (ne_true_of_eq_false hcopy)).trans ((if_neg (ne_true_of_eq_false hkey)).trans
    ((if_neg (ne_true_of_eq_false hover)).trans (if_neg (by omega))))

/-- A FENCE of a window of this package needs no link (R507). -/
theorem fenceCmd_of_window (hscope : cmdFld (cmdOf d t) 24 1 ≠ 0) (hpkg : cmdFld (cmdOf d t) 32 2 = ownPkg d) :
    fenceCmd t (cmdOf d t) d = fenceTry t (modCmd t (fun c => { c with aux := [0] }) d) := by
  simp [fenceCmd, hscope, hpkg, b2n]

/-- A FENCE of a window of this package with nothing to wait for and nothing to report completes OK. -/
theorem fenceCmd_of_quiet (hscope : cmdFld (cmdOf d t) 24 1 ≠ 0) (hcopy : copyBefore d t (cmdOf d t) = false)
    (hkey : (faultQOf d (cmdFn (cmdOf d t))).keys.contains (fenceKey (cmdOf d t)) = false)
    (hover : (faultQOf d (cmdFn (cmdOf d t))).overflow = false) (hpkg : cmdFld (cmdOf d t) 32 2 = ownPkg d) :
    fenceCmd t (cmdOf d t) d = complete t .ok 0 (modCmd t (fun c => { c with aux := [0] }) d) := by
  have haux : cmdOf (modCmd t (fun c => { c with aux := [0] }) d) t = { cmdOf d t with aux := [0] } := cmdOf_modCmd_at ..
  rw [fenceCmd_of_window hscope hpkg]
  apply fenceTry_of_quiet <;> rw [haux]
  · exact copyBefore_modCmd _ hcopy
  · exact hkey
  · exact hover
  · rfl

end

/-! ## TX_FRAME -/

theorem queues_pfcCheck (bp prio : Nat) (d : Dev) : (pfcCheck bp prio d).edge.queues = d.edge.queues := by
  unfold pfcCheck
  dsimp only
  split
  · rfl
  · split <;> rfl

theorem queues_pfcCheckBp (bp : Nat) (d : Dev) : (pfcCheckBp bp d).edge.queues = d.edge.queues := by
  unfold pfcCheckBp
  split
  · refine List.foldlRecOn (motive := fun d' : Dev => d'.edge.queues = d.edge.queues) _ _ rfl fun d' h p _ => ?_
    dsimp only
    split
    · rw [queues_pfcCheck, h]
    · exact h
  · split
    · exact queues_pfcCheck ..
    · rfl

/-- A frame that a queue of a port that is up admits is the last of the queue (R58, R159). -/
theorem enqueue_of_admitted {bp q : Nat} {it : EItem} {near : Bool} {d : Dev} {r : Region} (hprov : provided d bp = true)
    (hhold : (bpOf d bp).txHold = false) (hlink : (bpOf d bp).link = true)
    (hadmit : admitTo d bp q it.cells it.inBp it.prio near = some r) :
    (enqueue bp q it near d).1 = .done ∧
    (queueOf (enqueue bp q it near d).2 bp q).items = (queueOf d bp q).items ++ [{ it with region := r, enq := beat d }] := by
  simp only [enqueue, hprov, hhold, hlink, hadmit]
  refine ⟨rfl, ?_⟩
  simp [queueOf, queues_pfcCheckBp, modQueue]

section

variable (bp q : Nat) (it : EItem) (near : Bool) (d : Dev)

theorem comp_enqueue : (enqueue bp q it near d).2.comp = d.comp := by
  rw [show (enqueue bp q it near d).2 = _ from (Egress.QueuesOnly.enqueue ..).rest]

theorem txBk_enqueue : (enqueue bp q it near d).2.txBk = d.txBk := by
  rw [show (enqueue bp q it near d).2 = _ from (Egress.QueuesOnly.enqueue ..).rest]

end

/-- The breakout port that a TX_FRAME names. -/
def txBp (c : Cmd) : Nat := cmdFld c 24 1 % 32 * 4 + cmdFld c 24 1 / 32 % 4

/-- The rate of a partition's transmit bucket (R486). -/
def txRateOf (d : Dev) (c : Cmd) : Int := ((max 1 (min (partOf d (cmdPart d c)).txRate 6400000) : Nat) : Int)

/-- The bucket from which a TX_FRAME takes its tokens. -/
def txKey (d : Dev) (c : Cmd) : Nat := 4 * cmdPart d c + txBp c / 32

/-- The tokens in that bucket now. -/
def txLevel (d : Dev) (c : Cmd) : Int := bkLevel (65536 * txTok) (txRateOf d c) (beat d) (tget {} d.txBk (txKey d c))

/-- The tokens that a TX_FRAME's frame costs, with its FCS. -/
def txCost (c : Cmd) : Int := ((cmdFld c 26 2 + 4 : Nat) : Int) * txTok

/-- The frame of a TX_FRAME as it enters a queue. -/
def txItem (d : Dev) (c : Cmd) : EItem :=
  { bytes := hostRead d (c.q / 4096) (cmdFld c 32 8) (cmdFld c 26 2), len := cmdFld c 26 2 + 4, cells := cellsOf (cmdFld c 26 2 + 4)
    inBp := 128, storeFwd := true }

/-- An earlier TX_FRAME of the pair to the same port is outstanding (R454). -/
def txBehind (d : Dev) (t : Nat) (c : Cmd) : Bool :=
  d.cmds.any (fun e => decide (e.1 < t) && e.2.q == c.q && opcodeOf e.2 == 0x30 && cmdFld e.2 24 1 == cmdFld c 24 1)

/-- The device once a TX_FRAME has taken its tokens and its frame is read. -/
def txTaken (c : Cmd) (d : Dev) : Dev :=
  pcieRead (cmdFn c) (cmdFld c 26 2) { d with
    txBk := tput {} d.txBk (txKey d c) (bkTake (65536 * txTok) (txRateOf d c) (beat d) (txCost c) (tget {} d.txBk (txKey d c))) }

theorem txTaken_eq (c : Cmd) (d : Dev) : txTaken c d = { d with ctr := (txTaken c d).ctr, txBk := (txTaken c d).txBk } := rfl

theorem txBk_txTaken (c : Cmd) (d : Dev) :
    tget {} (txTaken c d).txBk (txKey d c) = { lvl := some (txLevel d c - txCost c), last := beat d } := by
  simp only [txTaken, pcieRead_keeps, tget_tput_same, bkTake, txLevel]

theorem comp_txTaken (c : Cmd) (d : Dev) : (txTaken c d).comp = d.comp := rfl

theorem txItem_txTaken (c : Cmd) (d : Dev) : txItem (txTaken c d) c = txItem d c := rfl

/-- A queue's room has nothing to do with tokens and counters. -/
theorem admitTo_of_tokens (d : Dev) (ctr : Tab Nat) (txBk : Tab Bucket) (bp q n inBp prio : Nat) (near : Bool) :
    admitTo { d with ctr, txBk } bp q n inBp prio near = admitTo d bp q n inBp prio near := rfl

/-- The partition's right to the port and the queue, and its window over the frame. -/
def txMay (d : Dev) (c : Cmd) : Bool :=
  bitOf (partOf d (cmdPart d c)).txPorts (cmdFld c 24 1 % 32) && bitOf (partOf d (cmdPart d c)).txQueues (cmdFld c 25 1)
    && dmaOk d (cmdFn c) (cmdFld c 32 8) (cmdFld c 26 2) false

section

variable {t : Nat} {c : Cmd} {d : Dev}

theorem txFrame_eq : txFrame t c d = if txMay d c = false then complete t .accessDenied 0 d else txTry t c d := by
  simp only [txFrame, txMay, Bool.and_eq_false_iff, Bool.not_eq_true, or_assoc]

theorem txTry_of_waiting (h : txBehind d t c = true ∨ txLevel d c < txCost c) :
    txTry t c d = modCmd t (fun c => { c with st := 1 }) d := by
  by_cases hb : txBehind d t c = true
  · exact if_pos hb
  · exact (if_neg hb).trans (if_pos (h.resolve_left hb))

/-- A frame that waits for nothing, whose port is up and whose queue admits it, takes its tokens, joins the queue and completes
(R454, R486). -/
theorem txTry_of_admitted (hfirst : txBehind d t c = false) (hcost : txCost c ≤ txLevel d c) (hen : bpEnabled d (txBp c) = true)
    (hdone : (enqueue (txBp c) (cmdFld c 25 1) (txItem (txTaken c d) c) false (txTaken c d)).1 = .done) :
    txTry t c d = complete t .ok 0 (enqueue (txBp c) (cmdFld c 25 1) (txItem (txTaken c d) c) false (txTaken c d)).2 := by
  refine (if_neg (ne_true_of_eq_false hfirst)).trans ((if_neg (Int.not_lt.mpr hcost)).trans ?_)
  rw [← txBp, ← txKey, ← txRateOf, ← txCost, ← txTaken]
  refine (if_neg (not_not_intro hen)).trans ?_
  dsimp only [txItem] at hdone ⊢
  rw [hdone]

/-- A TX_FRAME that is tried on a port that is up takes its tokens, and its frame is the last of its queue. -/
theorem txTry_spec {r : Region} (hfirst : txBehind d t c = false) (hcost : txCost c ≤ txLevel d c) (hen : bpEnabled d (txBp c) = true)
    (hprov : provided d (txBp c) = true) (hhold : (bpOf d (txBp c)).txHold = false) (hlink : (bpOf d (txBp c)).link = true)
    (hadmit : admitTo d (txBp c) (cmdFld c 25 1) (cellsOf (cmdFld c 26 2 + 4)) 128 0 false = some r) :
    (queueOf (txTry t c d) (txBp c) (cmdFld c 25 1)).items =
      (queueOf d (txBp c) (cmdFld c 25 1)).items ++ [{ txItem d c with region := r, enq := beat d }] ∧
    tget {} (txTry t c d).txBk (txKey d c) = { lvl := some (txLevel d c - txCost c), last := beat d } ∧ (txTry t c d).comp = d.comp := by
  have hadmit' : admitTo (txTaken c d) (txBp c) (cmdFld c 25 1) (cellsOf (cmdFld c 26 2 + 4)) 128 0 false = some r := by
    rw [txTaken_eq, admitTo_of_tokens, hadmit]
  obtain ⟨hdone, hitems⟩ := enqueue_of_admitted (it := txItem (txTaken c d) c) (d := txTaken c d) hprov hhold hlink hadmit'
  have hc := CompletionOnly.complete t .ok 0 (enqueue (txBp c) (cmdFld c 25 1) (txItem (txTaken c d) c) false (txTaken c d)).2
  rw [txTry_of_admitted hfirst hcost hen hdone]
  refine ⟨?_, ?_, ?_⟩
  · rw [queueOf, hc.edge, ← txItem_txTaken]; exact hitems
  · rw [hc.txBk, txBk_enqueue, txBk_txTaken]
  · rw [hc.comp, comp_enqueue, comp_txTaken]

theorem txEnqueue_of_waiting {q : Nat} (hq : (cmdOf d t).q = q) (hop : opcodeOf (cmdOf d t) = 0x30) (hst : (cmdOf d t).st = 1)
    (hlate : cmdLate d (cmdOf d t) = false) : txEnqueue q t d = txTry t (cmdOf d t) d := by
  simp [txEnqueue, hq, hop, hst, hlate]

/-- Whichever of the two commands tries a frame, it waits or joins its queue. -/
theorem gives_txTry {i : Instr} {s : State} (hg : Gives i s (txTry t c s.dev)) :
    (txBehind s.dev t c = true ∨ txLevel s.dev c < txCost c → Gives i s (modCmd t (fun c => { c with st := 1 }) s.dev)) ∧
    (txBehind s.dev t c = false → txCost c ≤ txLevel s.dev c → bpEnabled s.dev (txBp c) = true → provided s.dev (txBp c) = true →
      (bpOf s.dev (txBp c)).txHold = false → (bpOf s.dev (txBp c)).link = true →
      ∀ r, admitTo s.dev (txBp c) (cmdFld c 25 1) (cellsOf (cmdFld c 26 2 + 4)) 128 0 false = some r → Answers i s (fun d' =>
        (queueOf d' (txBp c) (cmdFld c 25 1)).items =
          (queueOf s.dev (txBp c) (cmdFld c 25 1)).items ++ [{ txItem s.dev c with region := r, enq := beat s.dev }] ∧
        tget {} d'.txBk (txKey s.dev c) = { lvl := some (txLevel s.dev c - txCost c), last := beat s.dev } ∧ d'.comp = s.dev.comp)) := by
  refine ⟨fun h => ?_, fun hfirst hcost hen hprov hhold hlink r hadmit => ?_⟩
  · rwa [txTry_of_waiting h] at hg
  · exact answers_of_gives hg (txTry_spec hfirst hcost hen hprov hhold hlink hadmit)

end

/-! ## REMOTE_COPY -/

/-- A copy of at most 8 rows is one access (R503). -/
theorem copyChunks_of_few {rows : Nat} (h1 : 1 ≤ rows) (h8 : rows ≤ 8) : copyChunks rows = [(0, rows)] := by
  have hone : ceilDiv rows 8 = 1 := by unfold ceilDiv; omega
  simp [copyChunks, hone, h8]

/-- The write of a REMOTE_COPY's rows, from HBM into a window of this package. -/
def copyWrite (d : Dev) (c : Cmd) : WinMsg :=
  { src := 1023, dst := cmdFld c 26 2, pkg := 64, win := cmdFld c 28 1, row := cmdFld c 40 4, n := cmdFld c 44 4, write := true
    part := cmdPart d c }

section

variable {t : Nat} {c : Cmd} {d : Dev}

/-- An accepted write takes its rows from HBM. -/
theorem copyLocal_of_accepted {hbm : Nat} {m : WinMsg} (h : winCheck d m false = 0) : copyLocal t false hbm m d =
    winApply { m with data := hbmBytes d hbm (512 * m.n) } (hbmCount false m.part hbm (512 * m.n) d) := by
  simp [copyLocal, h]

/-- A copy of up to 8 rows from HBM into an open window of this package is one accepted write; then it is settled (R503). -/
theorem remoteCopy_of_local (hfirst : d.cmds.any (fun e => decide (e.1 < t) && e.2.q == c.q && opcodeOf e.2 == 0x42
      && copyKey e.2 == copyKey c && e.2.st == 0) = false)
    (hdir : cmdFld c 24 1 = 0) (h1 : 1 ≤ cmdFld c 44 4) (h8 : cmdFld c 44 4 ≤ 8) (hpkg : cmdFld c 30 2 = ownPkg d)
    (hpower : clusterPower d (cmdFld c 26 2 / 8) ≠ 2) (hframe : frameOk d (cmdPart d c) (cmdFld c 32 8) (512 * cmdFld c 44 4) = true)
    (hbad : hbmBad d (cmdFld c 32 8) (512 * cmdFld c 44 4) = false) :
    remoteCopy t c d = copySettle t (copyLocal t false (cmdFld c 32 8) (copyWrite d c)
      (modCmd t (fun c => { c with st := 1, aux := [0] }) d)) := by
  simp [remoteCopy, hfirst, hdir, hpkg, hpower, hframe, hbad, copyChunks_of_few h1 h8, copyWrite]

/-- The rows of a REMOTE_COPY, read from HBM, written into its window. -/
def copyWritten (c : Cmd) (d : Dev) : Dev :=
  winApply { copyWrite d c with data := hbmBytes d (cmdFld c 32 8) (512 * cmdFld c 44 4) }
    (hbmCount false (cmdPart d c) (cmdFld c 32 8) (512 * cmdFld c 44 4) d)

theorem coreOf_copyWritten_same (c : Cmd) (d : Dev) : (coreOf (copyWritten c d) (cmdFld c 26 2)).spad =
    writeRows (coreOf d (cmdFld c 26 2)).spad (winRows d (copyWrite d c)) 0 (hbmBytes d (cmdFld c 32 8) (512 * cmdFld c 44 4)) := by
  have hcount := Generation.CountersOnly.hbmCount false (cmdPart d c) (cmdFld c 32 8) (512 * cmdFld c 44 4) d
  rw [copyWritten, hcount.eq]
  exact congrArg Core.spad (Windows.coreOf_winApply_same ..)

theorem coreOf_copyWritten_other {c : Cmd} {y : Nat} (d : Dev) (hy : y ≠ cmdFld c 26 2) : coreOf (copyWritten c d) y = coreOf d y :=
  (Windows.coreOf_winApply_other _ hy).trans (Windows.coreOf_of_comp (Generation.CountersOnly.hbmCount ..).comp)

theorem regs_copyWritten (c : Cmd) (d : Dev) : (copyWritten c d).regs = d.regs := (Generation.CountersOnly.hbmCount ..).regs

/-- A copy of up to 8 rows from HBM into an open window of this package writes them at once; then it is settled (R503). -/
theorem remoteCopy_of_accepted (hfirst : d.cmds.any (fun e => decide (e.1 < t) && e.2.q == c.q && opcodeOf e.2 == 0x42
      && copyKey e.2 == copyKey c && e.2.st == 0) = false)
    (hdir : cmdFld c 24 1 = 0) (h1 : 1 ≤ cmdFld c 44 4) (h8 : cmdFld c 44 4 ≤ 8) (hpkg : cmdFld c 30 2 = ownPkg d)
    (hpower : clusterPower d (cmdFld c 26 2 / 8) ≠ 2) (hframe : frameOk d (cmdPart d c) (cmdFld c 32 8) (512 * cmdFld c 44 4) = true)
    (hbad : hbmBad d (cmdFld c 32 8) (512 * cmdFld c 44 4) = false) (hcheck : winCheck d (copyWrite d c) false = 0) :
    remoteCopy t c d = copySettle t (copyWritten c (modCmd t (fun c => { c with st := 1, aux := [0] }) d)) := by
  have hcheck' : winCheck (modCmd t (fun c => { c with st := 1, aux := [0] }) d) (copyWrite d c) false = 0 := hcheck
  rw [remoteCopy_of_local hfirst hdir h1 h8 hpkg hpower hframe hbad, copyLocal_of_accepted hcheck']
  rfl

end

/-! ## COMMAND_DEADLINE -/

section

variable {q t : Nat} {d : Dev}

theorem stopCmd_of_idle {st : Status} (h : cmdInvs d t = []) : stopCmd t st d = complete t st 0 d := by rw [stopCmd, h]

theorem stopCmd_of_running {st : Status} {i : Nat} {is : List Nat} (h : cmdInvs d t = i :: is) : stopCmd t st d = endInv i st d := by
  rw [stopCmd, h]

theorem commandDeadline_of_late (hq : (cmdOf d t).q = q) (hlive : cmdLive d t = true) (hlate : cmdLate d (cmdOf d t) = true)
    (hop : opcodeOf (cmdOf d t) ≠ 0x23) (hst : (cmdOf d t).st ≤ 1) : commandDeadline q t d = stopCmd t .deadlineMissed d := by
  simp [commandDeadline, hq, hlive, hlate, hop, hst]

end

/-- Settles O23: each command comes down to a refusal, to its wait or to its effect on a queue or a window. -/
theorem ringCommandStarts : Obligations.RingCommandStarts := by
  intro q t s hq d m ctx v begins ends runs
  have hwf : within [(q, 8192)] = true := by simp [within, hq]
  refine ⟨fun hready => ?_, fun hready => ?_, fun hready => ?_, ⟨fun hready => ?_, fun hmq hop hst hlate => ?_⟩,
    fun hready hdir h1 h8 hpkg hpower hfirst hframe hbad hcheck => ?_, fun hmq hlive hlate hop hst => ?_⟩
  · have hg := gives_of_ready (exec_run q t s) hwf hready
    rw [runCmd] at hg
    exact gives_runStart hg
  · have hg := gives_of_ready (exec_runTrees q t s) hwf hready
    rw [runTrees] at hg
    exact gives_runStart hg
  · have hg := gives_of_ready (exec_fence q t s) hwf hready
    refine ⟨fun hscope => ?_, fun hscope hcopy hkey hover hpkg => ?_⟩
    · rw [fenceCmd_of_pair hscope, q_of_cmdReady hready] at hg
      split
      · next hbefore => rwa [if_pos hbefore] at hg
      · next hbefore => rwa [if_neg hbefore] at hg
    · rwa [fenceCmd_of_quiet hscope hcopy hkey hover hpkg] at hg
  · have hg := gives_of_ready (exec_txFrame q t s) hwf hready
    obtain rfl : m.q = q := q_of_cmdReady hready
    rw [txFrame_eq] at hg
    refine ⟨fun hno => ?_, fun hmay => ?_⟩
    · rwa [if_pos (show txMay d m = false from hno)] at hg
    · rw [if_neg (show ¬ txMay d m = false from ne_false_of_eq_true hmay)] at hg
      exact gives_txTry hg
  · have hg := Flows.gives_of_exec (exec_txFrameEnqueue q t s) hwf
    rw [txEnqueue_of_waiting hmq hop hst hlate] at hg
    obtain rfl : m.q = q := hmq
    exact gives_txTry hg
  · have hg := gives_of_ready (exec_remoteCopy q t s) hwf hready
    obtain rfl : m.q = q := q_of_cmdReady hready
    rw [remoteCopy_of_accepted hfirst hdir h1 h8 hpkg hpower hframe hbad hcheck] at hg
    have hdone := CompletionOnly.copySettle t (copyWritten m (modCmd t (fun c => { c with st := 1, aux := [0] }) d))
    refine answers_of_gives hg ⟨?_, fun y hy => ?_, hdone.regs.trans (regs_copyWritten ..)⟩
    · rw [Windows.coreOf_of_comp hdone.comp]; exact coreOf_copyWritten_same ..
    · rw [Windows.coreOf_of_comp hdone.comp]; exact coreOf_copyWritten_other _ hy
  · have hg := Flows.gives_of_exec (exec_commandDeadline q t s) hwf
    rw [commandDeadline_of_late hmq hlive hlate hop hst] at hg
    refine ⟨fun hinvs => ?_, fun i is hinvs => ?_⟩
    · rwa [stopCmd_of_idle hinvs] at hg
    · rwa [stopCmd_of_running hinvs] at hg

end Sys2Proof.Commands

/-! ## Host rings: doorbells, records, fetch and completions -/

namespace Sys2Proof.HostRings

open Sys2Proof.Machine Sys2Proof.Safety Sys2Proof.Laws Sys2Proof.Rings

/-! ## What the ring engine's shared operations leave as it was -/

/-- Of the device only what is sent to hosts and the interrupts' own tables may differ (R461, R462). -/
def SignalsOnly (d d' : Dev) : Prop := d' = { d with out := d'.out, msixPba := d'.msixPba, errUp := d'.errUp }

namespace SignalsOnly

theorem raiseVec (fn vec : Nat) (d : Dev) : SignalsOnly d (raiseVec fn vec d) :=
  iteInduction (fun _ => rfl) fun _ => iteInduction (fun _ => rfl) fun _ => rfl

theorem raiseErr (fn kind : Nat) (d : Dev) : SignalsOnly d (raiseErr fn kind d) := by
  obtain ⟨_, _, _, h⟩ := Scope.raiseErr_frame fn kind d
  rw [h]; rfl

theorem rearmErr (fn : Nat) (d : Dev) : SignalsOnly d (rearmErr fn d) := iteInduction (fun _ => rfl) fun _ => rfl

variable {d d' : Dev} (h : SignalsOnly d d')
include h

theorem regs : d'.regs = d.regs := by rw [show d' = _ from h]
theorem ctr : d'.ctr = d.ctr := by rw [show d' = _ from h]
theorem hostMem : d'.hostMem = d.hostMem := by rw [show d' = _ from h]
theorem comp : d'.comp = d.comp := by rw [show d' = _ from h]
theorem cmds : d'.cmds = d.cmds := by rw [show d' = _ from h]
theorem recPend : d'.recPend = d.recPend := by rw [show d' = _ from h]
theorem pairs : d'.pairs = d.pairs := by rw [show d' = _ from h]
theorem rrings : d'.rrings = d.rrings := by rw [show d' = _ from h]
theorem pairOf (q : Nat) : pairOf d' q = Machine.pairOf d q := by rw [Machine.pairOf, h.pairs, Machine.pairOf]
theorem rringOf (k : Nat) : rringOf d' k = Machine.rringOf d k := by rw [Machine.rringOf, h.rrings, Machine.rringOf]
theorem regVal (a : Nat) : regVal d' a = Machine.regVal d a := by rw [Machine.regVal, h.regs, Machine.regVal]
theorem ctrVal (c : Ctr) (i j : Nat) : ctrVal d' c i j = Machine.ctrVal d c i j := by rw [Machine.ctrVal, h.ctr, Machine.ctrVal]

end SignalsOnly

/-- Bytes that a function wrote to host memory, read back. -/
theorem hostRead_hostWrite (fn a : Nat) (bs : List Byte) (d : Dev) : hostRead (hostWrite fn a bs d) (fn / 64) a bs.length = bs :=
  tbytes_tputBytes ..

theorem hostRead_of_hostMem {d d' : Dev} (h : d'.hostMem = d.hostMem) (port a n : Nat) : hostRead d' port a n = hostRead d port a n := by
  rw [hostRead, h, hostRead]

/-! ## Rings in ERROR -/

/-- A ring's error is posted to its function's event queue; of the rest only signals change (R451, R459). -/
theorem ringError_spec (fn ring cause : Nat) (d : Dev) :
    tget [] (ringError fn ring cause d).recPend (32 * fn + 16) =
      tget [] d.recPend (32 * fn + 16) ++ [.event 2 (beat d) [BitVec.ofNat 8 ring, BitVec.ofNat 8 cause]] ∧
    (ringError fn ring cause d).hostMem = d.hostMem ∧ (ringError fn ring cause d).cmds = d.cmds ∧
    (∀ x, pairOf (ringError fn ring cause d) x = pairOf d x) ∧ (∀ x, rringOf (ringError fn ring cause d) x = rringOf d x) := by
  have h := SignalsOnly.raiseErr fn 1 (postEvent fn 2 [BitVec.ofNat 8 ring, BitVec.ofNat 8 cause] d)
  refine ⟨?_, h.hostMem, h.cmds, h.pairOf, h.rringOf⟩
  rw [ringError, h.recPend]
  simp [postEvent, postRec]

/-- A pair that enters ERROR posts its event and keeps its entries (R451). -/
theorem pairError_spec {q cause : Nat} {d : Dev} (h : (pairOf d q).error = false) :
    pairOf (pairError q cause d) q = { pairOf d q with error := true, dbErr := (pairOf d q).dbErr || cause == 1 } ∧
    (∀ x, x ≠ q → pairOf (pairError q cause d) x = pairOf d x) ∧
    tget [] (pairError q cause d).recPend (32 * (q / 64) + 16) =
      tget [] d.recPend (32 * (q / 64) + 16) ++ [.event 2 (beat d) [BitVec.ofNat 8 (q % 64), BitVec.ofNat 8 cause]] ∧
    (pairError q cause d).hostMem = d.hostMem ∧ (pairError q cause d).cmds = d.cmds := by
  rw [pairError, if_neg (ne_true_of_eq_false h)]
  obtain ⟨hrec, hhost, hcmds, hpairs, -⟩ := ringError_spec (q / 64) (q % 64) cause
    (modPair q (fun p => { p with error := true, dbErr := p.dbErr || cause == 1 }) d)
  exact ⟨(hpairs q).trans (pairOf_modPair_at ..), fun x hx => (hpairs x).trans (pairOf_modPair_off _ _ hx), hrec, hhost, hcmds⟩

/-- A record ring that enters ERROR posts its event (R458). -/
theorem rringError_spec {fn r cause : Nat} {d : Dev} (hr : r < 19) (h : (rringOf d (32 * fn + r)).error = false) :
    rringOf (rringError (32 * fn + r) cause d) (32 * fn + r) =
      { rringOf d (32 * fn + r) with error := true, dbErr := (rringOf d (32 * fn + r)).dbErr || cause == 1 } ∧
    (∀ x, x ≠ 32 * fn + r → rringOf (rringError (32 * fn + r) cause d) x = rringOf d x) ∧
    tget [] (rringError (32 * fn + r) cause d).recPend (32 * fn + 16) =
      tget [] d.recPend (32 * fn + 16) ++ [.event 2 (beat d) [BitVec.ofNat 8 (64 + r), BitVec.ofNat 8 cause]] ∧
    (rringError (32 * fn + r) cause d).hostMem = d.hostMem ∧ (rringError (32 * fn + r) cause d).cmds = d.cmds := by
  rw [rringError, if_neg (ne_true_of_eq_false h), show (32 * fn + r) / 32 = fn by omega, show (32 * fn + r) % 32 = r by omega]
  obtain ⟨hrec, hhost, hcmds, -, hrings⟩ := ringError_spec fn (64 + r) cause
    (modRRing (32 * fn + r) (fun p => { p with error := true, dbErr := p.dbErr || cause == 1 }) d)
  exact ⟨(hrings _).trans (rringOf_modRRing_at ..), fun x hx => (hrings x).trans (rringOf_modRRing_off _ _ hx), hrec, hhost, hcmds⟩

/-! ## Doorbells -/

section

variable {enabled error : Bool} {depth index : Nat} {x off held bad moved : Dev}

/-- The three doorbells decide alike: a disabled ring first, then one in ERROR, then the index (R451, R457). -/
theorem doorbell_cases (h : x = if ¬ enabled = true then off else if error = true then held else if depth ≤ index then bad else moved) :
    (enabled = false → x = off) ∧ (enabled = true → error = true → x = held) ∧
    (enabled = true → error = false → (index < depth → x = moved) ∧ (depth ≤ index → x = bad)) := by
  subst h
  refine ⟨fun he => by simp [he], fun he hr => by simp [he, hr], fun he hr => ⟨fun hi => ?_, fun hi => ?_⟩⟩
  · simp [he, hr, Nat.not_le.mpr hi]
  · simp [he, hr, hi]

end

theorem sqDoorbell_cases (q : Nat) (v : Word64) (d : Dev) :
    ((pairOf d q).enabled = false → sqDoorbell q v d = modPair q (fun p => { p with dbErr := true }) d) ∧
    ((pairOf d q).enabled = true → (pairOf d q).error = true → sqDoorbell q v d = d) ∧
    ((pairOf d q).enabled = true → (pairOf d q).error = false →
      (v.toNat < sqDepth d q → sqDoorbell q v d = modPair q (fun p => { p with sqTail := v.toNat }) d) ∧
      (sqDepth d q ≤ v.toNat → sqDoorbell q v d = pairError q 1 d)) := doorbell_cases rfl

theorem cqDoorbell_cases (q : Nat) (v : Word64) (d : Dev) :
    ((pairOf d q).enabled = false → cqDoorbell q v d = modPair q (fun p => { p with dbErr := true }) d) ∧
    ((pairOf d q).enabled = true → (pairOf d q).error = true → cqDoorbell q v d = d) ∧
    ((pairOf d q).enabled = true → (pairOf d q).error = false →
      (v.toNat < cqDepth d q → cqDoorbell q v d = modPair q (fun p => { p with cqHead := v.toNat }) d) ∧
      (cqDepth d q ≤ v.toNat → cqDoorbell q v d = pairError q 1 d)) := doorbell_cases rfl

theorem rqDoorbell_cases (fn r : Nat) (v : Word64) (d : Dev) :
    ((rringOf d (32 * fn + r)).enabled = false → rqDoorbell fn r v d = modRRing (32 * fn + r) (fun p => { p with dbErr := true }) d) ∧
    ((rringOf d (32 * fn + r)).enabled = true → (rringOf d (32 * fn + r)).error = true → rqDoorbell fn r v d = d) ∧
    ((rringOf d (32 * fn + r)).enabled = true → (rringOf d (32 * fn + r)).error = false →
      (v.toNat < rqDepth d (32 * fn + r) → rqDoorbell fn r v d = modRRing (32 * fn + r) (fun p => { p with head := v.toNat }) d) ∧
      (rqDepth d (32 * fn + r) ≤ v.toNat → rqDoorbell fn r v d = rringError (32 * fn + r) 1 d)) := doorbell_cases rfl

/-! ## Enabling and disabling -/

theorem bitOf_zero (v : Nat) : bitOf v 0 = (v % 2 == 1) := rfl

/-- The enable bit of a configuration word stands in the word as held (Table 14.15). -/
theorem enable_set (val w : Nat) : bitOf (setBits val 0 1 1 % 2 ^ (w + 1)) 0 = true := by
  rw [bitOf_zero, Nat.pow_succ, Nat.mod_mod_of_dvd _ (Nat.dvd_mul_left ..), Egress.setBits_eq]
  simp [Nat.mod_one]

theorem enable_clear (val w : Nat) : bitOf (setBits val 0 1 0 % 2 ^ (w + 1)) 0 = false := by
  rw [bitOf_zero, Nat.pow_succ, Nat.mod_mod_of_dvd _ (Nat.dvd_mul_left ..), Egress.setBits_eq]
  simp [Nat.mod_one]

/-- A register and a ring are written in either order. -/
theorem setFld_modPair (a lo w x q : Nat) (f : Pair → Pair) (d : Dev) :
    setFld a lo w x (modPair q f d) = modPair q f (setFld a lo w x d) := rfl

theorem setFld_modRRing (a lo w x k : Nat) (f : RRing → RRing) (d : Dev) :
    setFld a lo w x (modRRing k f d) = modRRing k f (setFld a lo w x d) := rfl

/-- The enable bit cleared in a register. -/
theorem bitOf_setFld_clear (a : Nat) (d : Dev) : bitOf (regVal (setFld a 0 1 0 d) a) 0 = false := by
  rw [Egress.bitOf_eq_bitsOf, ← regFld, Generation.regFld_setFld_same]; rfl

section

variable {q v : Nat} {d : Dev}

/-- An admitted configuration word starts the pair at index 0 with phase 1 (R445). -/
theorem pairCfgWrite_started (hoff : (pairOf d q).enabled = false) (hidle : outstanding d q = 0) (hbit : bitOf (v % 2 ^ 20) 0 = true)
    (hok : pairCfgOk d q (v % 2 ^ 20) = true) : pairCfgWrite q v d = rearmErr (q / 64)
      (modPair q (fun p => { enabled := true, dbErr := p.dbErr, cfgErr := p.cfgErr }) (setReg (rRingCfg q) (v % 2 ^ 20) d)) := by
  simp [-Nat.reducePow, pairCfgWrite, hoff, hidle, hbit, hok]

/-- One that is not admitted is held without its enable bit, and shown in config_error (R445). -/
theorem pairCfgWrite_refused (hoff : (pairOf d q).enabled = false) (hidle : outstanding d q = 0) (hbit : bitOf (v % 2 ^ 20) 0 = true)
    (hno : pairCfgOk d q (v % 2 ^ 20) = false) :
    pairCfgWrite q v d = modPair q (fun p => { p with cfgErr := true }) (setReg (rRingCfg q) (v % 2 ^ 20 - 1) d) := by
  simp [-Nat.reducePow, pairCfgWrite, hoff, hidle, hbit, hno]

/-- An enabled pair is disabled by the same word without the enable bit (R445). -/
theorem pairCfgWrite_stopped (hon : (pairOf d q).enabled = true) (hsame : regVal d (rRingCfg q) / 2 = v % 2 ^ 20 / 2)
    (hbit : bitOf (v % 2 ^ 20) 0 = false) :
    pairCfgWrite q v d = modPair q (fun p => { p with enabled := false }) (setFld (rRingCfg q) 0 1 0 d) := by
  simp [-Nat.reducePow, pairCfgWrite, hon, hsame, hbit, when, setFld_modPair]

end

section

variable {k v : Nat} {d : Dev}

/-- A record ring starts at index 0 with phase 1, and its sequence and lost counts go on (R445, R458). -/
theorem rringCfgWrite_started (hoff : (rringOf d k).enabled = false) (hbit : bitOf (v % 2 ^ 31) 0 = true)
    (hok : rringCfgOk d k (v % 2 ^ 31) = true) : rringCfgWrite k v d = rearmErr (k / 32)
      (modRRing k (fun p => { enabled := true, dbErr := p.dbErr, cfgErr := p.cfgErr, lost := p.lost, seq := p.seq })
        (setReg (rRqCfg (k / 32) (k % 32)) (v % 2 ^ 31) d)) := by
  simp [-Nat.reducePow, rringCfgWrite, hoff, hbit, hok]

theorem rringCfgWrite_stopped (hon : (rringOf d k).enabled = true) (hsame : regVal d (rRqCfg (k / 32) (k % 32)) / 2 = v % 2 ^ 31 / 2)
    (hbit : bitOf (v % 2 ^ 31) 0 = false) :
    rringCfgWrite k v d = modRRing k (fun p => { p with enabled := false }) (setFld (rRqCfg (k / 32) (k % 32)) 0 1 0 d) := by
  simp [-Nat.reducePow, rringCfgWrite, hon, hsame, hbit, when, setFld_modRRing]

end

theorem ringCfgWrite_pair (q val : Nat) (d : Dev) : ringCfgWrite (q / 64) (q % 64) val d = pairCfgWrite q val d := by
  rw [ringCfgWrite, if_pos (Nat.mod_lt q (by decide)), Nat.div_add_mod]

theorem ringCfgWrite_record (fn r val : Nat) (d : Dev) : ringCfgWrite fn (64 + r) val d = rringCfgWrite (32 * fn + r) val d := by
  rw [ringCfgWrite, if_neg (by omega), Nat.add_sub_cancel_left]

section

variable {fn ring val : Nat} {s : State}

theorem gives_ringEnable (hfn : fn < 128) (hring : ring < 83) (hval : val < 2 ^ 32) :
    Gives (.ringEnable fn ring val) s (ringCfgWrite fn ring (setBits val 0 1 1) s.dev) :=
  Flows.gives_of_exec (exec_ringEnable fn ring val s) (by simp [wf_ringEnable, within, hfn, hring]; omega)

theorem gives_ringDisable (hfn : fn < 128) (hring : ring < 83) (hval : val < 2 ^ 32) :
    Gives (.ringDisable fn ring val) s (ringCfgWrite fn ring (setBits val 0 1 0) s.dev) :=
  Flows.gives_of_exec (exec_ringDisable fn ring val s) (by simp [wf_ringDisable, within, hfn, hring]; omega)

end

/-- Settles O21: each doorbell comes down to one of four effects on its ring, each configuration word to the start, the refusal or the
stop of its ring. -/
theorem ringDoorbells : Obligations.RingDoorbells := by
  intro q fn r val v s hq hfn hr hval d p k g bad
  have hsq := Flows.gives_of_exec (exec_sqDoorbell q v s) (by simp [wf_sqDoorbell, within, hq])
  have hcq := Flows.gives_of_exec (exec_cqDoorbell q v s) (by simp [wf_cqDoorbell, within, hq])
  have hrq := Flows.gives_of_exec (exec_rqDoorbell fn r v s) (by simp [wf_rqDoorbell, within, hfn, hr])
  obtain ⟨hsqOff, hsqHeld, hsqOn⟩ := sqDoorbell_cases q v d
  obtain ⟨hcqOff, hcqHeld, hcqOn⟩ := cqDoorbell_cases q v d
  obtain ⟨hrqOff, hrqHeld, hrqOn⟩ := rqDoorbell_cases fn r v d
  have hpairErr (hok : p.error = false) : pairOf (pairError q 1 d) q = { p with error := true, dbErr := true } ∧
      (∀ x, x ≠ q → pairOf (pairError q 1 d) x = pairOf d x) ∧ bad (q % 64) (q / 64) (pairError q 1 d) := by
    have h := pairError_spec (cause := 1) hok
    rwa [beq_self_eq_true, Bool.or_true] at h
  have hk : k / 32 = fn ∧ k % 32 = r := by omega
  refine ⟨fun hoff => ⟨hsqOff hoff ▸ hsq, hcqOff hoff ▸ hcq⟩, fun hon herr => ⟨?_, ?_⟩,
    fun hon hok => ⟨fun hin => ?_, fun hin => ?_, fun hout => ?_, fun hout => ?_⟩, fun hoff => hrqOff hoff ▸ hrq, fun hon herr => ?_,
    fun hon hok => ⟨fun hin => ?_, fun hout => ?_⟩, ⟨fun hoff hidle => ⟨fun hok => ?_, fun hno => ?_⟩, fun hon hsame => ?_⟩,
    fun hoff hok => ?_, fun hon hsame => ?_⟩
  · exact hsqHeld hon herr ▸ hsq
  · exact hcqHeld hon herr ▸ hcq
  · exact (hsqOn hon hok).1 hin ▸ hsq
  · exact (hcqOn hon hok).1 hin ▸ hcq
  · exact answers_of_gives ((hsqOn hon hok).2 hout ▸ hsq) (hpairErr hok)
  · exact answers_of_gives ((hcqOn hon hok).2 hout ▸ hcq) (hpairErr hok)
  · exact hrqHeld hon herr ▸ hrq
  · exact (hrqOn hon hok).1 hin ▸ hrq
  · have h := rringError_spec (cause := 1) hr hok
    rw [beq_self_eq_true, Bool.or_true] at h
    exact answers_of_gives ((hrqOn hon hok).2 hout ▸ hrq) h
  · have hg := gives_ringEnable (s := s) (fn := q / 64) (ring := q % 64) (by omega) (by omega) hval
    have hkept := SignalsOnly.rearmErr (q / 64) (modPair q (fun p => { enabled := true, dbErr := p.dbErr, cfgErr := p.cfgErr })
      (setReg (rRingCfg q) (setBits val 0 1 1 % 2 ^ 20) d))
    rw [ringCfgWrite_pair, pairCfgWrite_started hoff hidle (enable_set val 19) hok] at hg
    exact answers_of_gives hg ⟨(hkept.pairOf q).trans (pairOf_modPair_at ..), (hkept.regVal _).trans (regVal_setReg_same ..),
      fun x hx => (hkept.pairOf x).trans (pairOf_modPair_off _ _ hx), hkept.cmds, hkept.hostMem⟩
  · have hg := gives_ringEnable (s := s) (fn := q / 64) (ring := q % 64) (by omega) (by omega) hval
    rw [ringCfgWrite_pair, pairCfgWrite_refused hoff hidle (enable_set val 19) hno] at hg
    exact answers_of_gives hg ⟨pairOf_modPair_at .., fun x hx => pairOf_modPair_off _ _ hx⟩
  · have hg := gives_ringDisable (s := s) (fn := q / 64) (ring := q % 64) (by omega) (by omega) hval
    rw [ringCfgWrite_pair, pairCfgWrite_stopped hon hsame (enable_clear val 19)] at hg
    exact answers_of_gives hg ⟨pairOf_modPair_at .., bitOf_setFld_clear .., fun x hx => pairOf_modPair_off _ _ hx⟩
  · have hg := gives_ringEnable (s := s) (fn := fn) (ring := 64 + r) hfn (by omega) hval
    have hkept := SignalsOnly.rearmErr (k / 32) (modRRing k
      (fun p => { enabled := true, dbErr := p.dbErr, cfgErr := p.cfgErr, lost := p.lost, seq := p.seq })
      (setReg (rRqCfg (k / 32) (k % 32)) (setBits val 0 1 1 % 2 ^ 31) d))
    rw [ringCfgWrite_record, rringCfgWrite_started hoff (enable_set val 30) hok] at hg
    refine answers_of_gives hg ⟨(hkept.rringOf k).trans (rringOf_modRRing_at ..), ?_,
      fun x hx => (hkept.rringOf x).trans (rringOf_modRRing_off _ _ hx)⟩
    rw [hkept.regVal, ← hk.1, ← hk.2]
    exact regVal_setReg_same ..
  · have hg := gives_ringDisable (s := s) (fn := fn) (ring := 64 + r) hfn (by omega) hval
    rw [ringCfgWrite_record, rringCfgWrite_stopped hon (by rw [hk.1, hk.2]; exact hsame) (enable_clear val 30)] at hg
    exact answers_of_gives hg ⟨rringOf_modRRing_at .., fun x hx => rringOf_modRRing_off _ _ hx⟩

/-! ## Records -/

/-- Announcing a record ring's slots changes no more of the ring than how many are not announced, no other ring, and signals (R461). -/
theorem rringIrq_spec (k : Nat) (d : Dev) :
    (∃ n, rringOf (rringIrq k d) k = { rringOf d k with unann := n }) ∧ (∀ x, x ≠ k → rringOf (rringIrq k d) x = rringOf d x) ∧
    (rringIrq k d).recPend = d.recPend ∧ (rringIrq k d).hostMem = d.hostMem ∧ (rringIrq k d).regs = d.regs := by
  unfold rringIrq
  dsimp only
  split
  · exact ⟨⟨_, rfl⟩, fun _ _ => rfl, rfl, rfl, rfl⟩
  · have h := SignalsOnly.raiseVec (k / 32) (bitsOf (regVal d (rRqCfg (k / 32) (k % 32))) 8 11)
      (modRRing k (fun p => { p with unann := 0 }) d)
    exact ⟨⟨0, (h.rringOf k).trans (rringOf_modRRing_at ..)⟩, fun x hx => (h.rringOf x).trans (rringOf_modRRing_off _ _ hx), h.recPend,
      h.hostMem, h.regs⟩

/-- A ring that may take a record: enabled and not in ERROR, its function ready, and its next slot free (R458). -/
def takesRecord (d : Dev) (fn r : Nat) : Bool :=
  let g := rringOf d (32 * fn + r)
  g.enabled && !g.error && fnReady d fn && decide ((g.tail + 1) % rqDepth d (32 * fn + r) ≠ g.head)

theorem takesRecord_eq_false {d : Dev} {fn r : Nat} : takesRecord d fn r = false ↔
    ¬ (rringOf d (32 * fn + r)).enabled = true ∨ (rringOf d (32 * fn + r)).error = true ∨ ¬ fnReady d fn = true ∨
      ((rringOf d (32 * fn + r)).tail + 1) % rqDepth d (32 * fn + r) = (rringOf d (32 * fn + r)).head := by
  simp only [takesRecord, Bool.and_eq_false_iff, Bool.not_eq_false', decide_eq_false_iff_not, ne_eq, not_not, Bool.not_eq_true, or_assoc]

/-- The address of the slot at a record ring's tail. -/
def slotAddr (d : Dev) (fn r : Nat) : Nat :=
  base64 d (rRqBase fn r) + rqSlot d (32 * fn + r) * (rringOf d (32 * fn + r)).tail

/-- A record ring past the slot that a record was written to at Beat `now` (R458, R459). -/
def slotFilled (depth now : Nat) (ev : Bool) (g : RRing) : RRing :=
  { g with
    tail := (g.tail + 1) % depth, phase := if (g.tail + 1) % depth = 0 then !g.phase else g.phase, unann := g.unann + 1
    unannFrom := if g.unann = 0 then now else g.unannFrom, seq := if ev then (g.seq + 1) % 2 ^ 32 else g.seq
    lost := if ev then 0 else g.lost }

/-- Whether a record is an event. -/
def isEvent : Rec → Bool
  | .event _ _ _ => true
  | _ => false

section

variable {fn r : Nat} {x : Rec} {rest : List Rec} {d : Dev}

/-- The oldest record of a ring that takes it is written to its slot and announced. -/
theorem recordDeliver_of_taken (hx : tget [] d.recPend (32 * fn + r) = x :: rest) (hable : takesRecord d fn r = true)
    (hdma : dmaOk d fn (slotAddr d fn r) (rqSlot d (32 * fn + r)) true = true) : recordDeliver fn r d =
      rringIrq (32 * fn + r) (modRRing (32 * fn + r) (slotFilled (rqDepth d (32 * fn + r)) (beat d) (isEvent x))
        (hostWrite fn (slotAddr d fn r) (slotBytes (rringOf d (32 * fn + r)) (rqSlot d (32 * fn + r)) x)
          { d with recPend := tput [] d.recPend (32 * fn + r) rest })) := by
  unfold recordDeliver
  dsimp only
  rw [hx]
  refine (if_neg (mt takesRecord_eq_false.mpr (ne_false_of_eq_true hable))).trans ((if_neg (not_not_intro hdma)).trans ?_)
  cases x <;> rfl

/-- One that the ring does not take is discarded and counted (R460). -/
theorem recordDeliver_of_dropped (hx : tget [] d.recPend (32 * fn + r) = x :: rest) (hable : takesRecord d fn r = false) :
    recordDeliver fn r d = recordDrop (32 * fn + r) x { d with recPend := tput [] d.recPend (32 * fn + r) rest } := by
  unfold recordDeliver
  dsimp only
  rw [hx]
  exact if_pos (takesRecord_eq_false.mp hable)

/-- A discarded event is counted by its ring, to be shown in the next event's slot, and by its function (R460). -/
theorem recordDrop_event (k code time : Nat) (payload : List Byte) (d : Dev) :
    rringOf (recordDrop k (.event code time payload) d) k = { rringOf d k with lost := min ((rringOf d k).lost + 1) (2 ^ 32 - 1) } ∧
    ctrVal (recordDrop k (.event code time payload) d) .eventLost (k / 32) 0 = ctrVal d .eventLost (k / 32) 0 + 1 :=
  ⟨rringOf_modRRing_at k (fun r => { r with lost := min (r.lost + 1) (2 ^ 32 - 1) }) d, ctrVal_bump_same ..⟩

/-- What the delivery of a record leaves: the bytes in the slot, and the ring past it (R458, R459). -/
theorem recordDeliver_spec (hx : tget [] d.recPend (32 * fn + r) = x :: rest) (hable : takesRecord d fn r = true)
    (hdma : dmaOk d fn (slotAddr d fn r) (rqSlot d (32 * fn + r)) true = true) :
    tget [] (recordDeliver fn r d).recPend (32 * fn + r) = rest ∧
    hostRead (recordDeliver fn r d) (fn / 64) (slotAddr d fn r)
        (slotBytes (rringOf d (32 * fn + r)) (rqSlot d (32 * fn + r)) x).length =
      slotBytes (rringOf d (32 * fn + r)) (rqSlot d (32 * fn + r)) x ∧
    (∃ n, rringOf (recordDeliver fn r d) (32 * fn + r) =
      { slotFilled (rqDepth d (32 * fn + r)) (beat d) (isEvent x) (rringOf d (32 * fn + r)) with unann := n }) ∧
    (∀ y, y ≠ 32 * fn + r → rringOf (recordDeliver fn r d) y = rringOf d y) ∧ (recordDeliver fn r d).regs = d.regs := by
  rw [recordDeliver_of_taken hx hable hdma]
  obtain ⟨⟨n, hring⟩, hother, hpend, hhost, hregs⟩ := rringIrq_spec (32 * fn + r)
    (modRRing (32 * fn + r) (slotFilled (rqDepth d (32 * fn + r)) (beat d) (isEvent x))
      (hostWrite fn (slotAddr d fn r) (slotBytes (rringOf d (32 * fn + r)) (rqSlot d (32 * fn + r)) x)
        { d with recPend := tput [] d.recPend (32 * fn + r) rest }))
  refine ⟨?_, ?_, ⟨n, ?_⟩, fun y hy => ?_, hregs⟩
  · rw [hpend]
    simp
  · rw [hostRead_of_hostMem hhost]
    exact hostRead_hostWrite ..
  · rw [hring, rringOf_modRRing_at]; rfl
  · exact (hother y hy).trans (rringOf_modRRing_off _ _ hy)

end

/-! ## Interrupts -/

/-- A vector of a function that is ready is sent where it is unmasked, and pending where it is masked (R461). -/
theorem raiseVec_of_ready {fn vec : Nat} {d : Dev} (h : fnReady d fn = true) :
    if tget false d.msixOn (4096 * fn + vec) = true then
      (raiseVec fn vec d).out = d.out ++ [.msix fn vec] ∧ (raiseVec fn vec d).msixPba = d.msixPba
    else (raiseVec fn vec d).out = d.out ∧ tget false (raiseVec fn vec d).msixPba (4096 * fn + vec) = true := by
  rw [raiseVec, if_neg (not_not_intro h)]
  split
  · exact ⟨rfl, rfl⟩
  · exact ⟨rfl, by simp⟩

/-- The vector of a pair whose delay has run is raised for the entries not announced (R461). -/
theorem irqDelay_of_due {fn ring : Nat} {d : Dev} (hring : ring < 64) (hnew : (pairOf d (64 * fn + ring)).unann ≠ 0)
    (hoff : bitOf (regVal d (rRingIrq (64 * fn + ring))) 24 = false) (hdelay : bitsOf (regVal d (rRingIrq (64 * fn + ring))) 8 16 ≠ 0)
    (hdue : (pairOf d (64 * fn + ring)).unannFrom + 1000 * bitsOf (regVal d (rRingIrq (64 * fn + ring))) 8 16 ≤ beat d) :
    irqDelay fn ring d =
      raiseVec fn (regFld d (rRingCfg (64 * fn + ring)) 9 11) (modPair (64 * fn + ring) (fun p => { p with unann := 0 }) d) := by
  simp [irqDelay, hring, hnew, hoff, hdelay, Nat.not_lt.mpr hdue]

/-- A pending vector is sent when it is unmasked, by a function that is ready (R461). -/
theorem msixUnmask_of_pending {fn vec : Nat} {d : Dev} (h : tget false d.msixPba (4096 * fn + vec) = true ∧ fnReady d fn = true) :
    msixUnmask fn vec d = emit (.msix fn vec) { d with
      msixOn := tput false d.msixOn (4096 * fn + vec) true, msixPba := tput false d.msixPba (4096 * fn + vec) false } := if_pos h

theorem msixUnmask_of_clear {fn vec : Nat} {d : Dev} (h : ¬ (tget false d.msixPba (4096 * fn + vec) = true ∧ fnReady d fn = true)) :
    msixUnmask fn vec d = { d with msixOn := tput false d.msixOn (4096 * fn + vec) true } := if_neg h

/-! ## Access faults -/

theorem faultKind_le (d : Dev) (fn bar off len : Nat) : faultKind d fn bar off len ≤ 4 := by
  unfold faultKind
  dsimp only
  repeat' split
  all_goals omega

/-- HUB_ACCESS_FAULT and HUB_ACCESS_ADDR once a discarded write is counted, and recorded where nothing was (R440). -/
def faultRecorded (fn bar off kind : Nat) (d : Dev) : Dev :=
  let r := regVal d rAccessFault
  let n := min 65535 (bitsOf r 16 16 + 1)
  if bitOf r 0 then setFld rAccessFault 16 16 n d
  else setReg rAccessAddr (off % 2 ^ 26)
    (setReg rAccessFault (1 + kind * 2 + fn / 64 * 16 + fn % 64 * 32 + bar * 2048 + n * 65536) d)

section

variable {fn bar off kind : Nat} {d : Dev}

theorem accessFaultOf_eq : accessFaultOf fn bar off kind d =
    raiseErr fn 0 (setFld (rFnStatus fn) 27 1 1 (bump .accessFaults fn 0 (faultRecorded fn bar off kind d))) := rfl

/-- The two fault registers are no function's FN_STATUS. -/
theorem regVal_accessFaultOf {a : Nat} (ha : a < 0x200000) :
    regVal (accessFaultOf fn bar off kind d) a = regVal (faultRecorded fn bar off kind d) a := by
  rw [accessFaultOf_eq, (SignalsOnly.raiseErr ..).regVal, regVal_setFld, if_neg (by simp only [rFnStatus, fnPage]; omega), regVal_bump]

theorem ctrVal_faultRecorded (c : Ctr) (i j : Nat) : ctrVal (faultRecorded fn bar off kind d) c i j = ctrVal d c i j := by
  unfold faultRecorded
  dsimp only
  split <;> rfl

/-- The first fault is recorded with its kind, its function and its BAR (R440). -/
theorem faultRecorded_first (h : bitOf (regVal d rAccessFault) 0 = false) :
    regVal (faultRecorded fn bar off kind d) rAccessAddr = off % 2 ^ 26 ∧
    regVal (faultRecorded fn bar off kind d) rAccessFault =
      1 + kind * 2 + fn / 64 * 16 + fn % 64 * 32 + bar * 2048 + min 65535 (bitsOf (regVal d rAccessFault) 16 16 + 1) * 65536 := by
  rw [faultRecorded, if_neg (ne_true_of_eq_false h)]
  exact ⟨regVal_setReg_same .., (regVal_setReg_other _ _ (by decide)).trans (regVal_setReg_same ..)⟩

/-- A later fault is only counted. -/
theorem faultRecorded_later (h : bitOf (regVal d rAccessFault) 0 = true) :
    regVal (faultRecorded fn bar off kind d) rAccessAddr = regVal d rAccessAddr ∧
    regVal (faultRecorded fn bar off kind d) rAccessFault =
      setBits (regVal d rAccessFault) 16 16 (min 65535 (bitsOf (regVal d rAccessFault) 16 16 + 1)) := by
  rw [faultRecorded, if_pos h]
  exact ⟨regVal_setReg_other _ _ (by decide), regVal_setReg_same ..⟩

/-- The word of a first fault: the fields below bit 12, and the count from bit 16 (Table 14.5). -/
theorem faultWord_fields {w n : Nat} (hw : w < 2 ^ 12) (hn : n < 2 ^ 16) : bitsOf (w + n * 65536) 0 12 = w ∧ bitsOf (w + n * 65536) 16 16 = n := by
  simp only [bitsOf, Nat.shiftRight_eq_div_pow]
  omega

/-- What a discarded write leaves in the counters and registers. -/
theorem accessFaultOf_spec (hfn : fn < 128) (hbar : bar < 2) (hkind : kind ≤ 4) :
    let d' := accessFaultOf fn bar off kind d
    ctrVal d' .accessFaults fn 0 = ctrVal d .accessFaults fn 0 + 1 ∧ bitOf (regVal d' (rFnStatus fn)) 27 = true ∧
    bitsOf (regVal d' rAccessFault) 16 16 = min 65535 (bitsOf (regVal d rAccessFault) 16 16 + 1) ∧
    (bitOf (regVal d rAccessFault) 0 = false → regVal d' rAccessAddr = off % 2 ^ 26 ∧
      bitsOf (regVal d' rAccessFault) 0 12 = 1 + kind * 2 + fn / 64 * 16 + fn % 64 * 32 + bar * 2048) ∧
    (bitOf (regVal d rAccessFault) 0 = true → regVal d' rAccessAddr = regVal d rAccessAddr) := by
  intro d'
  have hword := faultWord_fields (w := 1 + kind * 2 + fn / 64 * 16 + fn % 64 * 32 + bar * 2048)
    (n := min 65535 (bitsOf (regVal d rAccessFault) 16 16 + 1)) (by omega) (by omega)
  rw [regVal_accessFaultOf (a := rAccessFault) (by decide), regVal_accessFaultOf (a := rAccessAddr) (by decide)]
  refine ⟨?_, ?_, ?_, fun h => ⟨(faultRecorded_first h).1, ?_⟩, fun h => (faultRecorded_later h).1⟩
  · rw [show d' = _ from accessFaultOf_eq, (SignalsOnly.raiseErr ..).ctrVal, ctrVal_setFld, ctrVal_bump_same, ctrVal_faultRecorded]
  · rw [show d' = _ from accessFaultOf_eq, (SignalsOnly.raiseErr ..).regVal, Egress.bitOf_eq_bitsOf, ← regFld, Generation.regFld_setFld_same]; rfl
  · cases h : bitOf (regVal d rAccessFault) 0 with
    | true => rw [(faultRecorded_later h).2, Egress.bitsOf_setBits_same]; omega
    | false => rw [(faultRecorded_first h).2, hword.2]
  · rw [(faultRecorded_first h).2, hword.1]

end

/-! ## PCIE_COMPLETION_TIMEOUT -/

/-- A failed read of a ready function's entry puts its pair into ERROR (R434, R451). -/
theorem completionTimeout_of_fetch {fn ring : Nat} {d : Dev} (hring : ring < 64) (hon : (pairOf d (64 * fn + ring)).enabled = true)
    (herr : (pairOf d (64 * fn + ring)).error = false)
    (hwait : (pairOf d (64 * fn + ring)).sqHead ≠ (pairOf d (64 * fn + ring)).sqTail) (hready : fnReady d fn = true)
    (hrun : frozenPart d ((partOfFn d fn).getD 64) = false) : completionTimeout fn ring d = pairError (64 * fn + ring) 2 d := by
  simp [completionTimeout, hring, hon, herr, hwait, hready, hrun]

/-- Settles O24: a record is delivered or dropped, a due vector raised, a discarded write recorded or counted; of the rest each command
changes signals only. -/
theorem recordsInterruptsAndFaults : Obligations.RecordsInterruptsAndFaults := by
  intro fn r ring vec bar off len q s hfn hr hring hvec hbar hlen d k g n a able
  have hrec := Flows.gives_of_exec (exec_recordDeliver fn r s) (by simp [wf_recordDeliver, within, hfn, hr])
  have hfault := Flows.gives_of_exec (exec_accessFault fn bar off len s) (by simp [wf_accessFault, within, hfn, hbar, hlen])
  refine ⟨fun x rest hx => ⟨fun hable hdma => ?_, fun hable => ?_⟩, fun hnew hoff hdelay hdue hready => ?_, ?_, fun hkind => ?_, fun hkind => ?_,
    fun hq hon herr hwait hready hrun => ?_⟩
  · obtain ⟨hpend, hbytes, ⟨u, hring⟩, hother, hregs⟩ := recordDeliver_spec hx hable hdma
    refine answers_of_gives hrec ⟨hpend, hbytes, ?_, ?_, fun code time payload he => ?_, hother, hregs⟩
    · rw [hring]; rfl
    · rw [hring]; rfl
    · rw [hring, he]; exact ⟨rfl, rfl⟩
  · rw [recordDeliver_of_dropped hx hable] at hrec
    cases x with
    | event code time payload =>
      obtain ⟨hring, hlost⟩ := recordDrop_event (32 * fn + r) code time payload { d with recPend := tput [] d.recPend (32 * fn + r) rest }
      rw [show (32 * fn + r) / 32 = fn by omega] at hlost
      exact answers_of_gives hrec ⟨tget_tput_same .., rfl, hring, hlost⟩
    | frame hdr parse frame => exact answers_of_gives hrec ⟨tget_tput_same .., rfl, rfl, ctrVal_bump_same ..⟩
    | sample bytes => exact answers_of_gives hrec ⟨tget_tput_same .., rfl, rfl, ctrVal_bump_same ..⟩
  · have hg := Flows.gives_of_exec (exec_irqDelayExpire fn ring s) (by simp [wf_irqDelayExpire, within, hfn]; omega)
    rw [irqDelay_of_due hring hnew hoff hdelay hdue] at hg
    have hkept := SignalsOnly.raiseVec fn (regFld d (rRingCfg (64 * fn + ring)) 9 11) (modPair (64 * fn + ring) (fun p => { p with unann := 0 }) d)
    exact answers_of_gives hg ⟨(hkept.pairOf _).trans (pairOf_modPair_at ..), fun y hy => (hkept.pairOf y).trans (pairOf_modPair_off _ _ hy),
      raiseVec_of_ready (d := modPair (64 * fn + ring) (fun p => { p with unann := 0 }) d) hready⟩
  · have hg := Flows.gives_of_exec (exec_msixUnmask fn vec s) (by simp [wf_msixUnmask, within, hfn, hvec])
    split
    · next h =>
      rw [msixUnmask_of_pending h] at hg
      exact answers_of_gives hg ⟨by simp, rfl, by simp⟩
    · next h =>
      rw [msixUnmask_of_clear h] at hg
      exact answers_of_gives hg ⟨by simp, rfl, rfl⟩
  · rwa [accessFault, if_pos hkind] at hfault
  · rw [accessFault, if_neg hkind] at hfault
    obtain ⟨hctr, hstatus, hcount, hfirst, hlater⟩ := accessFaultOf_spec (off := off) (d := d) hfn hbar (faultKind_le d fn bar off len)
    exact answers_of_gives hfault ⟨hctr, hstatus, hcount, hfirst, hlater, (Scope.accessFaultOf_keeps ..).1⟩
  · subst hq
    have hg := Flows.gives_of_exec (exec_pcieCompletionTimeout fn ring s) (by simp [wf_pcieCompletionTimeout, within, hfn]; omega)
    rw [completionTimeout_of_fetch hring hon herr hwait hready hrun] at hg
    obtain ⟨hpair, hother, -, -, hcmds⟩ := pairError_spec (cause := 2) herr
    exact answers_of_gives hg ⟨hpair.trans (by simp), hcmds, hother⟩

/-! ## SQ_FETCH -/

section

variable {q : Nat} {d : Dev}

theorem mayFetch_eq_false : mayFetch d q = false ↔
    ¬ (pairOf d q).enabled = true ∨ (pairOf d q).error = true ∨ ¬ fnReady d (q / 64) = true ∨
      frozenPart d ((partOfFn d (q / 64)).getD 64) = true ∨ (pairOf d q).sqHead = (pairOf d q).sqTail ∨ cqFree d q ≤ outstanding d q := by
  simp only [mayFetch, Bool.and_eq_false_iff, Bool.not_eq_false', decide_eq_false_iff_not, ne_eq, not_not, Bool.not_eq_true, or_assoc,
    Nat.not_lt]

/-- A pair that may not fetch is left as it is (R446). -/
theorem sqFetch_of_not (h : mayFetch d q = false) : sqFetch q d = d := if_pos (mayFetch_eq_false.mp h)

/-- Whether the entry at the head of a pair's SQ lies in a DMA window of its function (R443). -/
def headReadable (d : Dev) (q : Nat) : Bool := dmaOk d (q / 64) (base64 d (rSqBase q) + 64 * (pairOf d q).sqHead) 64 false

/-- An SQ outside the DMA windows puts its pair into ERROR (R451). -/
theorem sqFetch_of_unreadable (h : mayFetch d q = true) (hr : headReadable d q = false) : sqFetch q d = pairError q 2 d :=
  (if_neg (mt mayFetch_eq_false.mpr (ne_false_of_eq_true h))).trans (if_pos (ne_true_of_eq_false hr))

/-- An entry that is read is checked in order, and completes at the first check that it fails (R451). -/
theorem sqFetch_of_readable (h : mayFetch d q = true) (hr : headReadable d q = true) :
    sqFetch q d =
      let c := fetchedCmd d q
      let ends (st : Status) := complete d.nextTkt st 0 (afterFetch q d)
      if ¬ knownOpcode (opcodeOf c) then ends .invalidOpcode
      else if ¬ reservedOk c ∨ ¬ rangesOk d c then ends .invalidField
      else if pfOnly c ∧ q / 64 % 64 ≠ 0 then
        complete d.nextTkt .accessDenied 0 (when (opcodeOf c == 0x12) (bump .flipRefused Status.accessDenied.code 0) (afterFetch q d))
      else if isStamped (opcodeOf c) ∧ (selectEpoch d (cmdFld c 12 4)).isNone then ends .epochStale
      else if opcodeOf c = 1 then
        if bitOf (cmdFld c 1 1) 1 ∧ (afterFetch q d).cmds.any (fun e => e.2.q == q && decide (e.1 < d.nextTkt)) then
          modCmd d.nextTkt (fun c => { c with st := 1 }) (afterFetch q d)
        else ends .ok
      else afterFetch q d := by
  refine (if_neg (mt mayFetch_eq_false.mpr (ne_false_of_eq_true h))).trans ((if_neg (not_not_intro hr)).trans ?_)
  have hport : q / 64 / 64 = q / 4096 := Nat.div_div_eq_div_mul ..
  rw [hport]
  rfl

end

/-! ## Completions -/

theorem le_of_mem_rising {α : Type} {lo : Nat} {e : Nat × α} {t : Tab α} (h : risingFrom lo t = true) (he : e ∈ t) : lo ≤ e.1 := by
  induction t generalizing lo with
  | nil => cases he
  | cons x t ih =>
    simp only [risingFrom, Bool.and_eq_true, decide_eq_true_eq] at h
    rcases List.mem_cons.mp he with rfl | he
    · exact h.1
    · exact Nat.le_trans h.1 (Nat.le_of_succ_le (ih h.2 he))

/-- An entry listed in a table in canonical form is what is read at its key. -/
theorem tget_of_mem {α : Type} (d : α) {lo : Nat} {e : Nat × α} {t : Tab α} (h : risingFrom lo t = true) (he : e ∈ t) : tget d t e.1 = e.2 := by
  induction t generalizing lo with
  | nil => cases he
  | cons x t ih =>
    simp only [risingFrom, Bool.and_eq_true, decide_eq_true_eq] at h
    rcases List.mem_cons.mp he with rfl | he
    · exact if_pos rfl
    · exact (if_neg (Nat.ne_of_lt (le_of_mem_rising h.2 he))).trans (ih h.2 he)

/-- After a package fault, or for a partition that is frozen, no command completes (R28, R571). -/
def heldBack (d : Dev) (c : Cmd) : Prop := d.boot.fault = true ∨ frozenPart d (cmdPart d c) = true

section

variable {t result : Nat} {st : Status} {d : Dev}

theorem finish_of_heldBack (h : heldBack d (cmdOf d t)) : finish t st result d = d := by
  refine if_neg fun ⟨_, hfault, hfrozen⟩ => ?_
  exact h.elim hfault hfrozen

/-- A waiting fence of the pair is held back as the pair's other commands are, where each ticket is listed once. -/
theorem settleFences_of_heldBack {c : Cmd} (hwf : tabWf {} d.cmds = true) (h : heldBack d c) : settleFences c.q d = d := by
  refine List.foldlRecOn (motive := fun d' => d' = d) _ _ rfl fun d' hd t ht => ?_
  subst hd
  obtain ⟨e, he, rfl⟩ := List.mem_map.mp ht
  simp only [List.mem_filter, Bool.and_eq_true, beq_iff_eq] at he
  obtain ⟨hmem, ⟨⟨hq, -⟩, -⟩, -⟩ := he
  rw [tabWf, Bool.and_eq_true] at hwf
  have hcmd : cmdOf d' e.1 = e.2 := tget_of_mem (α := Cmd) {} hwf.1 hmem
  have hheld : heldBack d' (cmdOf d' e.1) := by rwa [hcmd, heldBack, cmdPart, cmdFn, hq]
  rw [finish_of_heldBack hheld, ite_self]

/-- In canonical form nothing happens at the completion of a command that is held back (R28, R571). -/
theorem complete_of_heldBack (hwf : tabWf {} d.cmds = true) (h : heldBack d (cmdOf d t)) : complete t st result d = d := by
  unfold complete
  dsimp only
  rw [finish_of_heldBack h, settleFences_of_heldBack hwf h, ite_self]

end

/-- Announcing a pair's entries changes no more of the pair than how many are not announced, no other pair, and signals (R461). -/
theorem pairIrq_spec (q : Nat) (d : Dev) :
    (∃ n, pairOf (pairIrq q d) q = { pairOf d q with unann := n }) ∧ (∀ x, x ≠ q → pairOf (pairIrq q d) x = pairOf d x) ∧
    (pairIrq q d).hostMem = d.hostMem ∧ (pairIrq q d).ctr = d.ctr ∧ (pairIrq q d).cmds = d.cmds := by
  unfold pairIrq
  dsimp only
  split
  · exact ⟨⟨_, rfl⟩, fun _ _ => rfl, rfl, rfl, rfl⟩
  · have h := SignalsOnly.raiseVec (q / 64) (regFld d (rRingCfg q) 9 11) (modPair q (fun p => { p with unann := 0 }) d)
    exact ⟨⟨0, (h.pairOf q).trans (pairOf_modPair_at ..)⟩, fun x hx => (h.pairOf x).trans (pairOf_modPair_off _ _ hx), h.hostMem, h.ctr,
      h.cmds⟩

/-- A pair past the CQ entry written for a command at Beat `now` (R455, R461). -/
def entryWritten (depth now : Nat) (quiet : Bool) (p : Pair) : Pair :=
  { p with
    cqTail := (p.cqTail + 1) % depth, phase := if (p.cqTail + 1) % depth = 0 then !p.phase else p.phase
    unannFrom := if p.unann = 0 ∧ ¬ quiet then now else p.unannFrom, unann := if quiet ∧ p.unann = 0 then 0 else p.unann + 1 }

section

variable {c : Cmd} {status result : Nat} {d : Dev}

/-- The address of the entry at a pair's CQ tail. -/
def entryAddr (d : Dev) (q : Nat) : Nat := base64 d (rCqBase q) + 32 * (pairOf d q).cqTail

/-- The CQ entry of Table 14.9 as a completion of command `c` writes it. -/
def entryOf (d : Dev) (c : Cmd) (status result : Nat) : List Byte :=
  cqBytes (cmdFld c 2 2) status (c.q % 64) (pairOf d c.q).sqHead result (beat d) (pairOf d c.q).phase

theorem cqWrite_of_window (h : dmaOk d (c.q / 64) (entryAddr d c.q) 32 true = true) : cqWrite c status result d =
    pairIrq c.q (modPair c.q (entryWritten (cqDepth d c.q) (beat d) (bitOf (cmdFld c 1 1) 0))
      (bump .cqWritten c.q 0 (hostWrite (c.q / 64) (entryAddr d c.q) (entryOf d c status result) d))) := if_pos h

theorem cqWrite_of_no_window (h : dmaOk d (c.q / 64) (entryAddr d c.q) 32 true = false) : cqWrite c status result d = pairError c.q 3 d :=
  if_neg (ne_true_of_eq_false h)

theorem length_entryOf : (entryOf d c status result).length = 32 := by
  simp [entryOf, cqBytes, zeroBytes, Laws.length_toLe]

/-- Other counters than those of PCIe writes do not count a write of host memory. -/
theorem ctrVal_hostWrite {x : Ctr} {fn i : Nat} (a : Nat) (bs : List Byte) (hfn : fn < 2 ^ 24) (hi : i < 2 ^ 24) (hwr : x ≠ .fnPcieWr)
    (hbytes : x ≠ .pcieWrBytes) : ctrVal (hostWrite fn a bs d) x i 0 = ctrVal d x i 0 := by
  rw [hostWrite, ctrVal_bumpN, if_neg (fun h => hwr (ctrKey_inj hi hfn (by decide) (by decide) h).1), ctrVal_bumpN,
    if_neg (fun h => hbytes (ctrKey_inj hi (by omega) (by decide) (by decide) h).1)]
  rfl

/-- A CQ entry announced and counted: what the pair becomes, and what stays. -/
theorem entryAnnounced_spec (q : Nat) (f : Pair → Pair) (d : Dev) :
    let d' := pairIrq q (modPair q f (bump .cqWritten q 0 d))
    d'.hostMem = d.hostMem ∧ d'.cmds = d.cmds ∧ (∃ n, pairOf d' q = { f (pairOf d q) with unann := n }) ∧
    (∀ x, x ≠ q → pairOf d' x = pairOf d x) ∧ ctrVal d' .cqWritten q 0 = ctrVal d .cqWritten q 0 + 1 := by
  obtain ⟨⟨n, hpair⟩, hother, hhost, hctr, hcmds⟩ := pairIrq_spec q (modPair q f (bump .cqWritten q 0 d))
  refine ⟨hhost, hcmds, ⟨n, ?_⟩, fun x hx => (hother x hx).trans (pairOf_modPair_off _ _ hx), ?_⟩
  · rw [hpair, pairOf_modPair_at]; rfl
  · rw [ctrVal, hctr, ← ctrVal_bump_same]; rfl

theorem pairOf_hostWrite (fn a : Nat) (bs : List Byte) (d : Dev) (q : Nat) : pairOf (hostWrite fn a bs d) q = pairOf d q := rfl

/-- The CQ entry of a completion is read back at the tail, and the pair is past it (R455). -/
theorem cqWrite_written (hq : c.q < 8192) (h : dmaOk d (c.q / 64) (entryAddr d c.q) 32 true = true) :
    hostRead (cqWrite c status result d) (c.q / 4096) (entryAddr d c.q) 32 = entryOf d c status result ∧
    (∃ n, pairOf (cqWrite c status result d) c.q =
      { entryWritten (cqDepth d c.q) (beat d) (bitOf (cmdFld c 1 1) 0) (pairOf d c.q) with unann := n }) ∧
    ctrVal (cqWrite c status result d) .cqWritten c.q 0 = ctrVal d .cqWritten c.q 0 + 1 ∧
    (cqWrite c status result d).cmds = d.cmds ∧ ∀ x, x ≠ c.q → pairOf (cqWrite c status result d) x = pairOf d x := by
  have hread := hostRead_hostWrite (c.q / 64) (entryAddr d c.q) (entryOf d c status result) d
  have hctr := ctrVal_hostWrite (d := d) (x := .cqWritten) (fn := c.q / 64) (i := c.q) (entryAddr d c.q) (entryOf d c status result)
    (by omega) (by omega) (by decide) (by decide)
  rw [length_entryOf, Nat.div_div_eq_div_mul] at hread
  obtain ⟨hhost, hcmds, hpair, hother, hcount⟩ := entryAnnounced_spec c.q (entryWritten (cqDepth d c.q) (beat d) (bitOf (cmdFld c 1 1) 0))
    (hostWrite (c.q / 64) (entryAddr d c.q) (entryOf d c status result) d)
  rw [hctr] at hcount
  simp only [pairOf_hostWrite, hostWrite_keeps] at hcmds hpair hother
  rw [cqWrite_of_window h]
  exact ⟨(hostRead_of_hostMem hhost ..).trans hread, hpair, hcount, hcmds, hother⟩

/-- Where the CQ cannot be written its pair is in ERROR (R451). -/
theorem cqWrite_failed (h : dmaOk d (c.q / 64) (entryAddr d c.q) 32 true = false) :
    (pairOf (cqWrite c status result d) c.q).error = true ∧ (cqWrite c status result d).hostMem = d.hostMem ∧
    (cqWrite c status result d).cmds = d.cmds ∧ ∀ x, x ≠ c.q → pairOf (cqWrite c status result d) x = pairOf d x := by
  rw [cqWrite_of_no_window h]
  cases herr : (pairOf d c.q).error with
  | true =>
    rw [pairError, if_pos herr]
    exact ⟨herr, rfl, rfl, fun _ _ => rfl⟩
  | false =>
    obtain ⟨hpair, hother, -, hhost, hcmds⟩ := pairError_spec (cause := 3) herr
    exact ⟨congrArg Pair.error hpair, hhost, hcmds, hother⟩

/-- Either way the commands and the other pairs stay. -/
theorem cqWrite_keeps (hq : c.q < 8192) : (cqWrite c status result d).cmds = d.cmds ∧
    ∀ x, x ≠ c.q → pairOf (cqWrite c status result d) x = pairOf d x := by
  cases h : dmaOk d (c.q / 64) (entryAddr d c.q) 32 true with
  | true =>
    obtain ⟨-, -, -, hkept⟩ := cqWrite_written (status := status) (result := result) hq h
    exact hkept
  | false =>
    obtain ⟨-, -, hkept⟩ := cqWrite_failed (status := status) (result := result) h
    exact hkept

end

section

variable {t result : Nat} {st : Status} {d : Dev}

/-- The device without an outstanding command. -/
def withoutCmd (t : Nat) (d : Dev) : Dev :=
  { d with
    cmds := tdel d.cmds t, store := { d.store with dec := tdel d.store.dec t }
    obs := { d.obs with arms := d.obs.arms.filter (fun a => a.tkt != t) } }

theorem settleFences_of_no_fence {q : Nat} (h : d.cmds.all (fun e => !(e.2.q == q && opcodeOf e.2 == 2)) = true) : settleFences q d = d := by
  have hnone : d.cmds.filter (fun e => e.2.q == q && opcodeOf e.2 == 2 && e.2.st == 1 && cmdFld e.2 24 1 == 0) = [] := by
    rw [List.filter_eq_nil_iff]
    intro e he hfence
    have hnot := List.all_eq_true.mp h e he
    simp only [Bool.and_eq_true] at hfence
    obtain ⟨⟨⟨hpair, hop⟩, -⟩, -⟩ := hfence
    rw [hpair, hop] at hnot
    exact absurd hnot (by decide)
  unfold settleFences
  dsimp only
  rw [hnone]
  rfl

/-- With no fence of its pair waiting, the completion of a live command writes its CQ entry and no more (R451, R455). -/
theorem complete_of_live (hq : (cmdOf d t).q < 8192) (hlive : cmdLive d t = true) (hfree : ¬ heldBack d (cmdOf d t))
    (hfence : d.cmds.all (fun e => !(e.2.q == (cmdOf d t).q && opcodeOf e.2 == 2)) = true) :
    complete t st result d = cqWrite (cmdOf d t) st.code result (withoutCmd t d) := by
  have hfinish : finish t st result d = cqWrite (cmdOf d t) st.code result (withoutCmd t d) :=
    if_pos ⟨hlive, not_or.mp hfree⟩
  unfold complete
  dsimp only
  rw [if_pos hlive, hfinish]
  apply settleFences_of_no_fence
  rw [(cqWrite_keeps hq).1]
  exact all_tdel _ _ _ hfence

/-- What that completion leaves: the command outstanding no more, its CQ entry at the tail or its pair in ERROR, and the rest as it was. -/
theorem complete_spec (hq : (cmdOf d t).q < 8192) (hlive : cmdLive d t = true) (hfree : ¬ heldBack d (cmdOf d t))
    (hfence : d.cmds.all (fun e => !(e.2.q == (cmdOf d t).q && opcodeOf e.2 == 2)) = true) :
    let c := cmdOf d t
    let d' := complete t st result d
    cmdOf d' t = {} ∧ (∀ x, x ≠ t → cmdOf d' x = cmdOf d x) ∧ (∀ x, x ≠ c.q → pairOf d' x = pairOf d x) ∧
    d'.regs = d.regs ∧ d'.comp = d.comp ∧ d'.edge = d.edge ∧
    (dmaOk d (c.q / 64) (entryAddr d c.q) 32 true = true →
      hostRead d' (c.q / 4096) (entryAddr d c.q) 32 = entryOf d c st.code result ∧
      (∃ n, pairOf d' c.q = { entryWritten (cqDepth d c.q) (beat d) (bitOf (cmdFld c 1 1) 0) (pairOf d c.q) with unann := n }) ∧
      ctrVal d' .cqWritten c.q 0 = ctrVal d .cqWritten c.q 0 + 1) ∧
    (dmaOk d (c.q / 64) (entryAddr d c.q) 32 true = false → (pairOf d' c.q).error = true ∧ d'.hostMem = d.hostMem) := by
  intro c d'
  have hd' : d' = cqWrite c st.code result (withoutCmd t d) := complete_of_live hq hlive hfree hfence
  have hkept : CompletionOnly d d' := CompletionOnly.complete t st result d
  obtain ⟨hcmds, hother⟩ := cqWrite_keeps (d := withoutCmd t d) (status := st.code) (result := result) hq
  rw [← hd'] at hcmds hother
  refine ⟨?_, fun x hx => ?_, hother, hkept.regs, hkept.comp, hkept.edge, fun h => ?_, fun h => ?_⟩
  · rw [cmdOf, hcmds]
    exact tget_tdel_same ..
  · rw [cmdOf, hcmds]
    exact tget_tdel_other _ _ hx
  · rw [hd']
    obtain ⟨hread, hpair, hctr, -⟩ := cqWrite_written (d := withoutCmd t d) (status := st.code) (result := result) hq h
    exact ⟨hread, hpair, hctr⟩
  · rw [hd']
    obtain ⟨herr, hhost, -⟩ := cqWrite_failed (d := withoutCmd t d) (status := st.code) (result := result) h
    exact ⟨herr, hhost⟩

end

/-- Tickets 7 and 8 are outstanding, 8 a command and 7 a waiting FENCE of pair 64 of function 1, whose partition is frozen. Ticket 7 is
listed a second time, before the fence, as a command of pair 0 of function 0, which is not frozen: the table of commands is not in
canonical form. -/
def ticketListedTwice : Dev :=
  { cmds := [(8, { q := 64, bytes := [1] }), (7, { bytes := [1] }), (7, { q := 64, bytes := [2], st := 1 })]
    parts := [(1, { exist := true, fn := 1 })]
    obs := { frozen := [(1, some { cause := 0, core := 0, ctx := 0, layer := 0, operator := 0, pc := 0, fire := 0 })] } }

/-- Refutes O22: the completion of a command of a frozen partition is claimed to change nothing on every device, also on one whose table
of commands lists a ticket twice. There the fence that the completion settles is found under its ticket as another partition's command,
which completes. With the table in canonical form that claim holds (`complete_of_heldBack`); the rest holds on every device (for SQ_FETCH
`sqFetch_of_not`, `sqFetch_of_unreadable` and `sqFetch_of_readable`, for completions `complete_spec`). -/
theorem not_commandFetchAndCompletion : ¬ Obligations.CommandFetchAndCompletion := by
  rintro ⟨-, hcomplete⟩
  have hsame : complete 8 .ok 0 ticketListedTwice = ticketListedTwice := (hcomplete 8 0 .ok ticketListedTwice).1 (.inr (by decide))
  have hgone : cmdLive (complete 8 .ok 0 ticketListedTwice) 7 = false := by decide
  have hlive : cmdLive ticketListedTwice 7 = true := by decide
  rw [hsame, hlive] at hgone
  exact absurd hgone (by decide)

end Sys2Proof.HostRings

/-! ## What OTP may become -/

namespace Sys2Proof.Otp

open Sys2Proof.Machine Sys2Proof.Safety Sys2Proof.Laws

/-! ## Operations that leave OTP as it was

One lemma per operation on the device, in the order of the model; the operations that program OTP follow behind them. -/

/-- What a pair holds as its device. -/
theorem otp_of_pair {α : Type} {p : α × Dev} {a : α} {d : Dev} (h : p = (a, d)) : d.otp = p.2.otp := by rw [h]

theorem otp_ite {c : Prop} [Decidable c] {a b d : Dev} (ha : a.otp = d.otp) (hb : b.otp = d.otp) : (if c then a else b).otp = d.otp := by
  split <;> assumption

/-! ### The packet buffer -/

@[simp] theorem otp_pfcCheckBp (bp : Nat) (d : Dev) : (pfcCheckBp bp d).otp = d.otp := by simp [pfcCheckBp, apply_ite Dev.otp]

@[simp] theorem otp_enqueue (bp q : Nat) (it : EItem) (near : Bool) (d : Dev) : (enqueue bp q it near d).2.otp = d.otp := by
  unfold enqueue
  dsimp only
  (repeat' split) <;> simp

@[simp] theorem otp_countRefused (r : Enq) (bp q : Nat) (d : Dev) : (countRefused r bp q d).otp = d.otp := by
  unfold countRefused
  split <;> simp

@[simp] theorem otp_slowAdmit (die cls : Nat) (d : Dev) : (slowAdmit die cls d).2.otp = d.otp := by
  unfold slowAdmit
  dsimp only
  (repeat' split) <;> simp

/-! ### Completions and interrupts -/

@[simp] theorem otp_raiseVec (fn vec : Nat) (d : Dev) : (raiseVec fn vec d).otp = d.otp := by simp [raiseVec, apply_ite Dev.otp]

@[simp] theorem otp_raiseErr (fn kind : Nat) (d : Dev) : (raiseErr fn kind d).otp = d.otp := by simp [raiseErr, apply_ite Dev.otp]

@[simp] theorem otp_ringError (fn ring cause : Nat) (d : Dev) : (ringError fn ring cause d).otp = d.otp := by simp [ringError]

@[simp] theorem otp_pairError (q cause : Nat) (d : Dev) : (pairError q cause d).otp = d.otp := by simp [pairError, apply_ite Dev.otp]

@[simp] theorem otp_rringError (k cause : Nat) (d : Dev) : (rringError k cause d).otp = d.otp := by simp [rringError, apply_ite Dev.otp]

@[simp] theorem otp_pairIrq (q : Nat) (d : Dev) : (pairIrq q d).otp = d.otp := by simp [pairIrq, apply_ite Dev.otp]

@[simp] theorem otp_rringIrq (k : Nat) (d : Dev) : (rringIrq k d).otp = d.otp := by simp [rringIrq, apply_ite Dev.otp]

@[simp] theorem otp_cqWrite (c : Cmd) (status result : Nat) (d : Dev) :
    (cqWrite c status result d).otp = d.otp := by simp [cqWrite, apply_ite Dev.otp]

@[simp] theorem otp_finish (t : Nat) (status : Status) (result : Nat) (d : Dev) :
    (finish t status result d).otp = d.otp := by simp [finish, apply_ite Dev.otp]

@[simp] theorem otp_settleFences (q : Nat) (d : Dev) : (settleFences q d).otp = d.otp := by simp [settleFences, apply_ite Dev.otp]

@[simp] theorem otp_complete (t : Nat) (status : Status) (result : Nat) (d : Dev) :
    (complete t status result d).otp = d.otp := by simp [complete, apply_ite Dev.otp]

@[simp] theorem otp_startCmd (op q t : Nat) (f : Cmd → Dev → Dev) (d : Dev) (h : ∀ c d, (f c d).otp = d.otp) :
    (startCmd op q t f d).otp = d.otp := by
  simp [startCmd, h, apply_ite Dev.otp]

/-! ### The arbiter -/

@[simp] theorem otp_maintRefused (r : MaintReq) (d : Dev) : (maintRefused r d).otp = d.otp := (rfl)

/-! ### The slow path -/

@[simp] theorem otp_slowDeliver (f : Frame) (i : SlowItem) (d : Dev) :
    (slowDeliver f i d).otp = d.otp := by simp [slowDeliver, apply_ite Dev.otp]

@[simp] theorem otp_deliverOrHold (fid : Nat) (i : SlowItem) (d : Dev) :
    (deliverOrHold fid i d).otp = d.otp := by simp [deliverOrHold, apply_ite Dev.otp]

@[simp] theorem otp_slowSend (fid cause : Nat) (verdict : List Byte) (outputs : List Nat) (trunc : Nat) (d : Dev) :
    (slowSend fid cause verdict outputs trunc d).otp = d.otp := by simp [slowSend, apply_ite Dev.otp]

@[simp] theorem otp_toSlowPath (fid cause : Nat) (verdict : List Byte) (outputs : List Nat) (d : Dev) :
    (toSlowPath fid cause verdict outputs d).otp = d.otp := by simp [toSlowPath]

/-! ### Clave parsers -/

@[simp] theorem otp_endProgram (pa cause : Nat) (d : Dev) : (endProgram pa cause d).otp = d.otp := by
  unfold endProgram
  dsimp only
  split <;> simp [apply_ite Dev.otp]

@[simp] theorem otp_endDone (pa : Nat) (d : Dev) : (endDone pa d).otp = d.otp := by
  unfold endDone
  dsimp only
  split <;> simp

@[simp] theorem otp_claveApply (pa : Nat) (i : Instr) (r : CRes) (d : Dev) : (claveApply pa i r d).otp = d.otp := by
  unfold claveApply
  split <;> simp [apply_ite Dev.otp]

@[simp] theorem otp_claveStep (pa : Nat) (i : Instr) (eff : Dev → Frame → Parser → CRes) (d : Dev) :
    (claveStep pa i eff d).otp = d.otp := by
  unfold claveStep
  dsimp only
  (repeat' split) <;> simp

@[simp] theorem otp_claveResume (pa : Nat) (d : Dev) : (claveResume pa d).otp = d.otp := by
  unfold claveResume
  dsimp only
  (repeat' split) <;> simp

@[simp] theorem otp_resumeFrame (fid : Nat) (d : Dev) : (resumeFrame fid d).otp = d.otp := by
  unfold resumeFrame
  split <;> simp

/-! ### Rule tables -/

@[simp] theorem otp_setHits (k p b : Nat) (d : Dev) : (setHits k p b d).otp = d.otp := (rfl)

@[simp] theorem otp_placeRule (k : Nat) (r : RuleSlot) (d : Dev) : (placeRule k r d).otp = d.otp := by simp [placeRule, apply_ite Dev.otp]

@[simp] theorem otp_freeRule (k : Nat) (d : Dev) : (freeRule k d).otp = d.otp := by simp [freeRule, apply_ite Dev.otp]

@[simp] theorem otp_moveRule (die : Nat) (m : Move) (d : Dev) : (moveRule die m d).otp = d.otp := by
  unfold moveRule
  split <;> simp

theorem otp_insertBuckets {die : Nat} {r : RuleSlot} {hits : Nat × Nat} {d d' : Dev} (h : insertBuckets die r hits d = some d') :
    d'.otp = d.otp := by
  unfold insertBuckets at h
  dsimp only at h
  split at h
  · cases h
  · split at h
    · cases h; simp
    · split at h
      · cases h; simp
      · cases h

theorem otp_insertRule {die : Nat} {r : RuleSlot} {d d' : Dev} (h : insertRule die r d = some d') : d'.otp = d.otp := by
  unfold insertRule at h
  split at h
  · cases h
    exact otp_insertBuckets ‹_›
  · obtain ⟨i, -, rfl⟩ := Option.map_eq_some_iff.mp h
    simp

@[simp] theorem otp_reinsertStash (die : Nat) (d : Dev) : (reinsertStash die d).otp = d.otp := by
  refine foldl_otp _ _ _ fun d i => ?_
  dsimp only
  split
  · split
    · rename_i h
      simp [otp_insertBuckets h]
    · rfl
  · rfl

@[simp] theorem otp_freeRules (die : Nat) (p : RuleSlot → Bool) (d : Dev) : (freeRules die p d).otp = d.otp := by simp [freeRules]

@[simp] theorem otp_setMiss (die table : Nat) (ms : List MissVer) (d : Dev) : (setMiss die table ms d).otp = d.otp := (rfl)

/-- A rule's new version is placed where the quota allows it, or not at all. -/
theorem otp_placed {die table n : Nat} {r : RuleSlot} {d d' : Dev}
    (h : (if quotaOk d die table n then
        match insertRule die r d with
        | some d' => .ok d'
        | none => .noSpace
      else .noSpace) = RuleRes.ok d') : d'.otp = d.otp := by
  split at h
  · split at h
    · cases h
      exact otp_insertRule ‹_›
    · cases h
  · cases h

theorem otp_writeRule {die table action st c : Nat} {key : List Byte} {live repl create : Bool} {d d' : Dev}
    (h : writeRule die table key action st c live repl create d = .ok d') : d'.otp = d.otp := by
  unfold writeRule at h
  dsimp only at h
  split at h
  · split at h
    · cases h
    · split at h
      · cases h
        simp
      · exact (otp_placed h).trans (by simp)
  · split at h
    · cases h
    · split at h <;> exact otp_placed h

@[simp] theorem otp_deleteRule (die table : Nat) (key : List Byte) (st c : Nat) (live : Bool) (d : Dev) :
    (deleteRule die table key st c live d).otp = d.otp := by
  unfold deleteRule
  split <;> simp [apply_ite Dev.otp]

@[simp] theorem otp_sweepRetire (die : Nat) (live : List Nat) (d : Dev) : (sweepRetire die live d).otp = d.otp := by simp [sweepRetire]

@[simp] theorem otp_sweepAbandon (die e : Nat) (d : Dev) : (sweepAbandon die e d).otp = d.otp := by simp [sweepAbandon]

@[simp] theorem otp_meterFrame (die id len : Nat) (d : Dev) : (meterFrame die id len d).2.otp = d.otp := by
  unfold meterFrame
  dsimp only
  (repeat' split) <;> simp

@[simp] theorem otp_configMeter (die id unit exceed exceedQueue rate burst : Nat) (d : Dev) :
    (configMeter die id unit exceed exceedQueue rate burst d).otp = d.otp := (rfl)

/-! ### Flow state -/

@[simp] theorem otp_sendFlow (die : Nat) (m : FlowMsg) (d : Dev) : (sendFlow die m d).otp = d.otp := (rfl)

@[simp] theorem otp_sendBack (die : Nat) (m : FlowBack) (d : Dev) : (sendBack die m d).otp = d.otp := (rfl)

@[simp] theorem otp_flowRead (fid k : Nat) (learned : Bool) (d : Dev) : (flowRead fid k learned d).otp = d.otp := (rfl)

@[simp] theorem otp_flowSettle (k own : Nat) (l : List Nat) (d : Dev) : (flowSettle k own l d).otp = d.otp := by
  induction l generalizing d with
  | nil => rfl
  | cons fid l ih => simp [flowSettle, ih, apply_ite Dev.otp]

@[simp] theorem otp_flowCommit (fid : Nat) (good : Bool) (d : Dev) : (flowCommit fid good d).otp = d.otp := by
  unfold flowCommit
  dsimp only
  (repeat' split) <;> simp

@[simp] theorem otp_flowUntrack (fid : Nat) (c : Ctr) (d : Dev) :
    (flowUntrack fid c d).otp = d.otp := by simp [flowUntrack, apply_ite Dev.otp]

@[simp] theorem otp_flowStage (fid : Nat) (d : Dev) : (flowStage fid d).2.otp = d.otp := by
  unfold flowStage
  dsimp only
  (repeat' split) <;> simp

@[simp] theorem otp_moveFlow (die : Nat) (m : Move) (d : Dev) : (moveFlow die m d).otp = d.otp := by
  unfold moveFlow
  split <;> simp

theorem otp_insertFlow {die : Nat} {e : FlowEntry} {d d' : Dev} (h : insertFlow die e d = some d') : d'.otp = d.otp := by
  obtain ⟨t, rfl⟩ := Flows.insertFlow_frame h
  rfl

@[simp] theorem otp_flowPop (die : Nat) (d : Dev) : (flowPop die d).otp = d.otp := (rfl)

@[simp] theorem otp_backPop (die : Nat) (d : Dev) : (backPop die d).otp = d.otp := (rfl)

@[simp] theorem otp_flowServe (die : Nat) (d : Dev) : (flowServe die d).otp = d.otp := by
  unfold flowServe
  split
  · dsimp only
    split
    · simp
    · split
      · simp
      · split
        · split
          · rename_i h
            simp [otp_insertFlow h]
          · simp
        · simp
  · rfl

@[simp] theorem otp_flowApplyWb (die : Nat) (d : Dev) : (flowApplyWb die d).otp = d.otp := by
  unfold flowApplyWb
  dsimp only
  (repeat' split) <;> simp

@[simp] theorem otp_flowFlush (die : Nat) (d : Dev) : (flowFlush die d).otp = d.otp := by simp [flowFlush]

@[simp] theorem otp_flowScan (die : Nat) (d : Dev) : (flowScan die d).otp = d.otp := by simp [flowScan]

@[simp] theorem otp_flowCandidate (die : Nat) (d : Dev) : (flowCandidate die d).otp = d.otp := by
  unfold flowCandidate
  dsimp only
  (repeat' split) <;> simp

@[simp] theorem otp_flowConfirm (die : Nat) (d : Dev) : (flowConfirm die d).otp = d.otp := by
  unfold flowConfirm
  dsimp only
  (repeat' split) <;> simp

/-! ### Verdicts -/

@[simp] theorem otp_sendEgress (fromDie e q : Nat) (it : EItem) (d : Dev) :
    (sendEgress fromDie e q it d).otp = d.otp := by simp [sendEgress, apply_ite Dev.otp]

@[simp] theorem otp_forwardFrame (fid : Nat) (held : Bool) (d : Dev) : (forwardFrame fid held d).otp = d.otp := by simp [forwardFrame]

@[simp] theorem otp_sendVerdictFrame (fid disp : Nat) (d : Dev) : (sendVerdictFrame fid disp d).otp = d.otp := by simp [sendVerdictFrame]

@[simp] theorem otp_decide_ (fid disp source : Nat) (vq : Option Nat) (score : Nat) (outputs : List Nat) (held echo : Bool) (d : Dev) :
    (decide_ fid disp source vq score outputs held echo d).otp = d.otp := by simp [decide_, apply_ite Dev.otp]

@[simp] theorem otp_deepDefault (fid : Nat) (c : DeepCause) (held : Bool) (d : Dev) :
    (deepDefault fid c held d).otp = d.otp := by simp [deepDefault]

@[simp] theorem otp_deepRequest (fid exprOut : Nat) (d : Dev) : (deepRequest fid exprOut d).otp = d.otp := by
  unfold deepRequest
  dsimp only
  (repeat' split) <;> simp

@[simp] theorem otp_resolveFrame (fid : Nat) (d : Dev) : (resolveFrame fid d).otp = d.otp := by simp [resolveFrame, apply_ite Dev.otp]

@[simp] theorem otp_countHit (f : Frame) (d : Dev) : (countHit f d).otp = d.otp := by
  unfold countHit
  split <;> simp

@[simp] theorem otp_afterFlow (fid : Nat) (d : Dev) : (afterFlow fid d).otp = d.otp := by simp [afterFlow]

@[simp] theorem otp_mirrorFrame (fid : Nat) (d : Dev) : (mirrorFrame fid d).otp = d.otp := by simp [mirrorFrame, apply_ite Dev.otp]

@[simp] theorem otp_matchFrame (fid : Nat) (d : Dev) : (matchFrame fid d).otp = d.otp := by
  unfold matchFrame
  dsimp only
  split
  · simp
  · split
    · simp
    · split <;> rename_i heq <;> simp [otp_of_pair heq]

@[simp] theorem otp_matchRelease (bp : Nat) (d : Dev) : (matchRelease bp d).otp = d.otp := by
  unfold matchRelease
  split <;> simp [apply_ite Dev.otp]

@[simp] theorem otp_missFrames (k : Option Nat) (l : List Nat) (first : Bool) (d : Dev) : (missFrames k l first d).otp = d.otp := by
  induction l generalizing first d with
  | nil => rfl
  | cons fid l ih => cases k <;> simp [missFrames, ih, apply_ite Dev.otp]

@[simp] theorem otp_flowAnswer (die : Nat) (d : Dev) : (flowAnswer die d).otp = d.otp := by
  unfold flowAnswer
  dsimp only
  (repeat' split) <;> simp

@[simp] theorem otp_deepIssue (die : Nat) (d : Dev) : (deepIssue die d).otp = d.otp := by
  unfold deepIssue
  dsimp only
  (repeat' split) <;> simp

@[simp] theorem otp_deepDeadline (die r : Nat) (d : Dev) : (deepDeadline die r d).otp = d.otp := by
  unfold deepDeadline
  dsimp only
  (repeat' split) <;> simp

@[simp] theorem otp_returnCredit (die cl : Nat) (d : Dev) : (returnCredit die cl d).otp = d.otp := (rfl)

@[simp] theorem otp_inferenceResult (die r status verdict score : Nat) (outputs : List Word32) (d : Dev) :
    (inferenceResult die r status verdict score outputs d).otp = d.otp := by
  unfold inferenceResult
  dsimp only
  (repeat' split) <;> simp

/-! ### Egress -/

@[simp] theorem otp_shapeCharge (bp q n : Nat) (d : Dev) : (shapeCharge bp q n d).otp = d.otp := (rfl)

@[simp] theorem otp_dropOversize (bp q n : Nat) (d : Dev) : (dropOversize bp q n d).otp = d.otp := by
  induction n generalizing d with
  | zero => rfl
  | succ n ih =>
    unfold dropOversize
    split
    · rfl
    · split
      · rfl
      · split
        · rw [ih, otp_pfcCheckBp]
          split <;> simp
        · rfl

@[simp] theorem otp_ptpTransmit (bp : Nat) (i : EItem) (d : Dev) : (ptpTransmit bp i d).otp = d.otp := by
  unfold ptpTransmit
  split <;> simp [apply_ite Dev.otp]

@[simp] theorem otp_startTx (bp q : Nat) (d : Dev) : (startTx bp q d).otp = d.otp := by
  unfold startTx
  split <;> simp

@[simp] theorem otp_txSelect (bp : Nat) (d : Dev) : (txSelect bp d).otp = d.otp := by
  unfold txSelect
  dsimp only
  (repeat' split) <;> simp

@[simp] theorem otp_txDone (bp : Nat) (d : Dev) : (txDone bp d).otp = d.otp := by
  unfold txDone
  dsimp only
  (repeat' split) <;> simp

@[simp] theorem otp_gateEdge (bp : Nat) (d : Dev) : (gateEdge bp d).otp = d.otp := (rfl)

@[simp] theorem otp_gatesJump (d : Dev) : (gatesJump d).otp = d.otp := by simp [gatesJump]

@[simp] theorem otp_gateCtrlWrite (bp val : Nat) (d : Dev) :
    (gateCtrlWrite bp val d).otp = d.otp := by simp [gateCtrlWrite, apply_ite Dev.otp]

@[simp] theorem otp_gateListSwap (bp : Nat) (d : Dev) : (gateListSwap bp d).otp = d.otp := by simp [gateListSwap, apply_ite Dev.otp]

@[simp] theorem otp_sampleQueue (bp q : Nat) (d : Dev) : (sampleQueue bp q d).otp = d.otp := by simp [sampleQueue, apply_ite Dev.otp]

@[simp] theorem otp_samplePeriodEnd (bp : Nat) (d : Dev) :
    (samplePeriodEnd bp d).otp = d.otp := by simp [samplePeriodEnd, apply_ite Dev.otp]

@[simp] theorem otp_interDieArrive (src dst : Nat) (d : Dev) : (interDieArrive src dst d).otp = d.otp := by
  unfold interDieArrive
  dsimp only
  (repeat' split) <;> simp

@[simp] theorem otp_pfcRefresh (bp prio : Nat) (d : Dev) : (pfcRefresh bp prio d).otp = d.otp := by simp [pfcRefresh, apply_ite Dev.otp]

/-! ### HBM -/

@[simp] theorem otp_hbmDeny (x : Nat) (d : Dev) : (hbmDeny x d).otp = d.otp := by simp [hbmDeny]

/-! ### Tagged counts -/

@[simp] theorem otp_waitMark (c : Nat) (d : Dev) : (waitMark c d).otp = d.otp := by simp [waitMark, apply_ite Dev.otp]

@[simp] theorem otp_activeTime (v : Machine.Inv) (d : Dev) : (activeTime v d).otp = d.otp := (rfl)

@[simp] theorem otp_armCapture (c : Nat) (d : Dev) : (armCapture c d).otp = d.otp := (rfl)

@[simp] theorem otp_armsDone (v : Machine.Inv) (ok : Bool) (d : Dev) :
    (armsDone v ok d).otp = d.otp := by simp [armsDone, apply_ite Dev.otp]

@[simp] theorem otp_syncTrace (cl kind obj waiter sig : Nat) (far : Bool) (n since : Nat) (d : Dev) :
    (syncTrace cl kind obj waiter sig far n since d).otp = d.otp := by simp [syncTrace, apply_ite Dev.otp]

/-! ### Running a core -/

theorem otp_farWrite {c space addr : Nat} {sh : Ref} {bs : List Byte} {d d' : Dev} (h : farWrite c space addr sh bs d = some d') :
    d'.otp = d.otp := by
  unfold farWrite at h
  dsimp only at h
  split at h
  · cases h
    exact foldl_otp _ _ _ fun d k => by split <;> rfl
  · split at h
    · cases h; simp
    · cases h
  · split at h
    · cases h; simp
    · cases h

@[simp] theorem otp_farCount (c : Nat) (tg : Nat × Nat) (out : Bool) (space addr : Nat) (sh : Ref) (len : Nat) (d : Dev) :
    (farCount c tg out space addr sh len d).otp = d.otp := by
  unfold farCount
  split
  · rw [foldl_otp _ _ _ fun d k => by split <;> simp]
    simp
  · simp [apply_ite Dev.otp]
  · simp [apply_ite Dev.otp]

@[simp] theorem otp_dmaCount (c : Nat) (tg : Nat × Nat) (out : Bool) (x : DmaOp) (len : Nat) (d : Dev) :
    (dmaCount c tg out x len d).otp = d.otp := by
  unfold dmaCount
  split <;> simp

theorem otp_dmaMove {c len : Nat} {out : Bool} {x : DmaOp} {d d' : Dev} (h : dmaMove c out x len d = .done d') : d'.otp = d.otp := by
  unfold dmaMove at h
  dsimp only at h
  split at h
  · split at h
    · cases h
    · rename_i hw
      split at h
      · cases h
        exact otp_farWrite hw
      · split at h
        · cases h
        · rename_i hw'
          cases h
          rw [otp_farWrite hw', otp_farWrite hw]
  · split at h
    · cases h
    · cases h
    · split at h
      · cases h; simp
      · split at h
        · cases h
        · cases h
        · cases h; simp

@[simp] theorem otp_dmaCut (c : Nat) (d : Dev) : (dmaCut c d).otp = d.otp := by
  refine foldl_otp _ _ _ fun d y => ?_
  dsimp only
  split
  · rename_i h
    simp [otp_dmaMove h]
  · simp

@[simp] theorem otp_idleCore (c : Nat) (d : Dev) : (idleCore c d).otp = d.otp := (rfl)

@[simp] theorem otp_serveDone (v : Machine.Inv) (st : Status) (d : Dev) : (serveDone v st d).otp = d.otp := by
  unfold serveDone
  split <;> simp [apply_ite Dev.otp]

@[simp] theorem otp_endInv (i : Nat) (st : Status) (d : Dev) : (endInv i st d).otp = d.otp := by simp [endInv, apply_ite Dev.otp]

@[simp] theorem otp_coreFault (c : Nat) (x : Cause) (d : Dev) : (coreFault c x d).otp = d.otp := by simp [coreFault, apply_ite Dev.otp]

@[simp] theorem otp_dataError (c : Nat) (d : Dev) : (dataError c d).otp = d.otp := by simp [dataError]

@[simp] theorem otp_issued (c : Nat) (d : Dev) : (issued c d).otp = d.otp := (rfl)

@[simp] theorem otp_issue (c : Nat) (i : Instr) (f : Dev → Dev) (d : Dev) (h : ∀ d, (f d).otp = d.otp) : (issue c i f d).otp = d.otp := by
  simp [issue, h, apply_ite Dev.otp]

@[simp] theorem otp_grantToken (c e : Nat) (d : Dev) : (grantToken c e d).otp = d.otp := by
  unfold grantToken
  dsimp only
  split <;> simp [apply_ite Dev.otp]

@[simp] theorem otp_tokenUp (c e : Nat) (t : Option Nat) (d : Dev) : (tokenUp c e t d).otp = d.otp := by
  unfold tokenUp
  split <;> simp [apply_ite Dev.otp]

@[simp] theorem otp_haltCore (c : Nat) (d : Dev) : (haltCore c d).otp = d.otp := by simp [haltCore, apply_ite Dev.otp]

@[simp] theorem otp_settleHalt (c : Nat) (d : Dev) : (settleHalt c d).otp = d.otp := by
  unfold settleHalt
  dsimp only
  split <;> simp [apply_ite Dev.otp]

/-! ### Conversions -/

@[simp] theorem otp_modStream (c s : Nat) (f : Machine.Stream → Machine.Stream) (d : Dev) : (modStream c s f d).otp = d.otp := (rfl)

@[simp] theorem otp_streamClip (c st : Nat) (d : Dev) : (streamClip c st d).otp = d.otp := by
  unfold streamClip
  dsimp only
  (repeat' split) <;> simp

@[simp] theorem otp_countConv (c clips nans : Nat) (stream : Option Nat) (d : Dev) : (countConv c clips nans stream d).otp = d.otp := by
  unfold countConv
  split <;> simp

@[simp] theorem otp_convRow (c : Nat) (u : Use) (q : RqOp) (i n : Nat) (bad : Bool) (vals : List FVal)
    (conv : Nat → Int → Option Nat → Conv) (nanConv : Conv) (d : Dev) :
    (convRow c u q i n bad vals conv nanConv d).2.otp = d.otp := by
  unfold convRow
  dsimp only
  split <;> simp

@[simp] theorem otp_rqRow (c : Nat) (u : Use) (q : RqOp) (i : Nat) (fp : Bool) (acc : List Nat) (d : Dev) :
    (rqRow c u q i fp acc d).2.otp = d.otp := by
  unfold rqRow
  dsimp only
  split <;> simp

@[simp] theorem otp_cvtRow (c : Nat) (x : CvtOp) (i : Nat) (codes : List Nat) (d : Dev) :
    (cvtRow c x i codes d).2.otp = d.otp := by simp [cvtRow]

@[simp] theorem otp_vcvtEff (c : Nat) (x : CvtOp) (d : Dev) : (vcvtEff c x d).otp = d.otp := by simp [vcvtEff]

@[simp] theorem otp_vrqEff (c : Nat) (x : CvtOp) (d : Dev) : (vrqEff c x d).otp = d.otp := by simp [vrqEff]

/-! ### Arrays -/

@[simp] theorem otp_countSat (c n : Nat) (d : Dev) : (countSat c n d).otp = d.otp := by simp [countSat]

@[simp] theorem otp_sumRow (c p : Nat) (isInt : Bool) (ps : Option Ref) (first : Bool) (accBase m : Nat) (sums : List FVal) (d : Dev) :
    (sumRow c p isInt ps first accBase m sums d).otp = d.otp := by
  unfold sumRow
  split <;> simp

@[simp] theorem otp_mmArray (c : Nat) (x : MmOp) (g : Nat) (d : Dev) : (mmArray c x g d).otp = d.otp := by
  unfold mmArray
  split <;> simp

@[simp] theorem otp_mmEff (c : Nat) (x : MmOp) (d : Dev) : (mmEff c x d).otp = d.otp := by simp [mmEff]

@[simp] theorem otp_mmG4Eff (c : Nat) (x : MmOp) (d : Dev) : (mmG4Eff c x d).otp = d.otp := by simp [mmG4Eff]

@[simp] theorem otp_asldEff (c : Nat) (x : AsOp) (d : Dev) : (asldEff c x d).otp = d.otp := by
  unfold asldEff
  split <;> simp

@[simp] theorem otp_asEff (c : Nat) (x : AsOp) (d : Dev) : (asEff c x d).otp = d.otp := by
  unfold asEff
  dsimp only
  (repeat' split) <;> simp

@[simp] theorem otp_opEff (c : Nat) (x : OpOp) (d : Dev) : (opEff c x d).otp = d.otp := by
  unfold opEff
  split
  · rfl
  · exact (foldl_otp _ _ _ fun d i => otp_sumRow ..).trans (otp_countSat ..)

@[simp] theorem otp_accOutEff (c : Nat) (x : AccOut) (d : Dev) : (accOutEff c x d).otp = d.otp := by
  unfold accOutEff
  dsimp only
  (repeat' split) <;> simp

@[simp] theorem otp_accClrEff (c arr base n : Nat) (d : Dev) : (accClrEff c arr base n d).otp = d.otp := by
  unfold accClrEff
  split <;> simp

/-! ### The vector unit -/

@[simp] theorem otp_vecEff (c : Nat) (o : VecOp) (f vd va vb vc : Nat) (d : Dev) : (vecEff c o f vd va vb vc d).otp = d.otp := (rfl)

@[simp] theorem otp_vredEff (c kind f vd va : Nat) (d : Dev) : (vredEff c kind f vd va d).otp = d.otp := (rfl)

@[simp] theorem otp_permEff (c kind w vd va vb n : Nat) (d : Dev) : (permEff c kind w vd va vb n d).otp = d.otp := (rfl)

@[simp] theorem otp_vlutEff (c vd va : Nat) (tab : Ref) (d : Dev) : (vlutEff c vd va tab d).otp = d.otp := (rfl)

@[simp] theorem otp_vldEff (c vd : Nat) (src : Ref) (d : Dev) : (vldEff c vd src d).otp = d.otp := (rfl)

@[simp] theorem otp_vstEff (c vs : Nat) (dst : Ref) (d : Dev) : (vstEff c vs dst d).otp = d.otp := by simp [vstEff]

@[simp] theorem otp_fillEff (c : Nat) (dst : Ref) (n pattern : Nat) (d : Dev) : (fillEff c dst n pattern d).otp = d.otp := by simp [fillEff]

@[simp] theorem otp_copyEff (c : Nat) (src dst : Ref) (arr n : Nat) (d : Dev) : (copyEff c src dst arr n d).otp = d.otp := by simp [copyEff]

@[simp] theorem otp_tcopyEff (c : Nat) (src dst : Ref) (w : Nat) (d : Dev) : (tcopyEff c src dst w d).otp = d.otp := by simp [tcopyEff]

@[simp] theorem otp_sreadEff (c : Nat) (src dst : Ref) (n w start stride : Nat) (d : Dev) :
    (sreadEff c src dst n w start stride d).otp = d.otp := by simp [sreadEff]

/-! ### Peal engines -/

@[simp] theorem otp_pealLoadEff (c store : Nat) (src : Ref) (n dst : Nat) (d : Dev) : (pealLoadEff c store src n dst d).otp = d.otp := (rfl)

@[simp] theorem otp_pealEvalEff (c : Nat) (tg : Nat × Nat) (x : PealOp) (d : Dev) :
    (pealEvalEff c tg x d).otp = d.otp := by simp [pealEvalEff]

@[simp] theorem otp_settleResident (d : Dev) : (settleResident d).otp = d.otp := by simp [settleResident, apply_ite Dev.otp]

@[simp] theorem otp_pealPatrol (c share err : Nat) (d : Dev) : (pealPatrol c share err d).otp = d.otp := by
  unfold pealPatrol
  split <;> simp

@[simp] theorem otp_pealReload (c ctx tag share treeBase nodeBase leafBase : Nat) (d : Dev) :
    (pealReload c ctx tag share treeBase nodeBase leafBase d).otp = d.otp := by simp [pealReload]

/-! ### Gathers -/

@[simp] theorem otp_askBurst (c a : Nat) (d : Dev) : (askBurst c a d).otp = d.otp := by simp [askBurst, apply_ite Dev.otp]

@[simp] theorem otp_needBurst (c : Nat) (cacheable : Bool) (a : Nat) (d : Dev) :
    (needBurst c cacheable a d).otp = d.otp := by simp [needBurst, apply_ite Dev.otp]

@[simp] theorem otp_gatherEff (c : Nat) (tg : Nat × Nat) (x : GatherOp) (d : Dev) : (gatherEff c tg x d).otp = d.otp := by
  unfold gatherEff
  dsimp only
  (repeat' split) <;> simp

@[simp] theorem otp_gatherWrite (c : Nat) (d : Dev) : (gatherWrite c d).otp = d.otp := by
  unfold gatherWrite
  split <;> simp [apply_ite Dev.otp]

@[simp] theorem otp_deliverBurst (b : Burst) (d : Dev) : (deliverBurst b d).otp = d.otp := by simp [deliverBurst, apply_ite Dev.otp]

@[simp] theorem otp_coalServe (i bank : Nat) (old : Bool) (d : Dev) : (coalServe i bank old d).otp = d.otp := by
  unfold coalServe
  split <;> simp

/-! ### Remote windows -/

@[simp] theorem otp_winRefuse (m : WinMsg) (cause : Nat) (d : Dev) : (winRefuse m cause d).otp = d.otp := by simp [winRefuse]

@[simp] theorem otp_winCountIn (m : WinMsg) (d : Dev) : (winCountIn m d).otp = d.otp := (rfl)

@[simp] theorem otp_winCountOut (m : WinMsg) (d : Dev) : (winCountOut m d).otp = d.otp := by simp [winCountOut]

@[simp] theorem otp_winApply (m : WinMsg) (d : Dev) : (winApply m d).otp = d.otp := (rfl)

@[simp] theorem otp_winAnswer (m : WinMsg) (d : Dev) : (winAnswer m d).otp = d.otp := (rfl)

@[simp] theorem otp_winArrive (core hw : Nat) (d : Dev) : (winArrive core hw d).otp = d.otp := by
  unfold winArrive
  dsimp only
  (repeat' split) <;> simp

@[simp] theorem otp_winLeave (m : WinMsg) (d : Dev) : (winLeave m d).otp = d.otp := (rfl)

@[simp] theorem otp_takeAnswer (core : Nat) (p : WinMsg → Bool) (f : WinMsg → Dev → Dev) (d : Dev) (h : ∀ m d, (f m d).otp = d.otp) :
    (takeAnswer core p f d).otp = d.otp := by
  unfold takeAnswer
  split
  · rfl
  · simp [h, apply_ite Dev.otp]

@[simp] theorem otp_readAnswer (m : WinMsg) (d : Dev) : (readAnswer m d).otp = d.otp := by simp [readAnswer, apply_ite Dev.otp]

@[simp] theorem otp_writeAnswer (m : WinMsg) (d : Dev) : (writeAnswer m d).otp = d.otp := by simp [writeAnswer]

@[simp] theorem otp_lateFault (m : WinMsg) (d : Dev) : (lateFault m d).otp = d.otp := by
  unfold lateFault
  dsimp only
  split <;> simp [apply_ite Dev.otp]

@[simp] theorem otp_winRdReply (core : Nat) (d : Dev) : (winRdReply core d).otp = d.otp := by simp [winRdReply]

@[simp] theorem otp_winWrAck (core : Nat) (d : Dev) : (winWrAck core d).otp = d.otp := by simp [winWrAck]

@[simp] theorem otp_winFaultNotice (core : Nat) (d : Dev) : (winFaultNotice core d).otp = d.otp := by simp [winFaultNotice]

@[simp] theorem otp_winSend (m : WinMsg) (d : Dev) : (winSend m d).otp = d.otp := (rfl)

@[simp] theorem otp_winEff (c : Nat) (tg : Nat × Nat) (pkg target win row n : Nat) (write : Bool) (loc : Ref) (tok : Option Nat) (d : Dev) :
    (winEff c tg pkg target win row n write loc tok d).otp = d.otp := by simp [winEff, apply_ite Dev.otp]

@[simp] theorem otp_windowOpen (t : Nat) (c : Cmd) (d : Dev) : (windowOpen t c d).otp = d.otp := by simp [windowOpen, apply_ite Dev.otp]

@[simp] theorem otp_windowClose (t : Nat) (c : Cmd) (d : Dev) : (windowClose t c d).otp = d.otp := by simp [windowClose, apply_ite Dev.otp]

@[simp] theorem otp_windowCloseDrained (q t : Nat) (d : Dev) :
    (windowCloseDrained q t d).otp = d.otp := by simp [windowCloseDrained, apply_ite Dev.otp]

/-! ### Jodon links -/

@[simp] theorem otp_sendOne (n vc : Nat) (d : Dev) : (sendOne n vc d).otp = d.otp := by
  unfold sendOne
  dsimp only
  split <;> simp [apply_ite Dev.otp]

@[simp] theorem otp_pumpLink (n : Nat) (d : Dev) : (pumpLink n d).otp = d.otp := by simp [pumpLink, apply_ite Dev.otp]

@[simp] theorem otp_linkSend (n : Nat) (m : JMsg) (d : Dev) : (linkSend n m d).otp = d.otp := by simp [linkSend]

@[simp] theorem otp_enterFault (o : JOut) (cause : Nat) (maybe : Bool) (d : Dev) :
    (enterFault o cause maybe d).otp = d.otp := by simp [enterFault, apply_ite Dev.otp]

@[simp] theorem otp_fenceTry (t : Nat) (d : Dev) : (fenceTry t d).otp = d.otp := by simp [fenceTry, apply_ite Dev.otp]

@[simp] theorem otp_settleWinFences (fn : Nat) (d : Dev) : (settleWinFences fn d).otp = d.otp := by simp [settleWinFences]

@[simp] theorem otp_fenceCmd (t : Nat) (c : Cmd) (d : Dev) : (fenceCmd t c d).otp = d.otp := by simp [fenceCmd, apply_ite Dev.otp]

@[simp] theorem otp_copySettle (t : Nat) (d : Dev) : (copySettle t d).otp = d.otp := by simp [copySettle, apply_ite Dev.otp]

@[simp] theorem otp_loseOut (o : JOut) (d : Dev) : (loseOut o d).otp = d.otp := by
  unfold loseOut
  dsimp only
  (repeat' split) <;> simp

@[simp] theorem otp_electBeat (d : Dev) : (electBeat d).otp = d.otp := by
  unfold electBeat
  split <;> simp [apply_ite Dev.otp]

@[simp] theorem otp_linkLost (n next : Nat) (d : Dev) : (linkLost n next d).otp = d.otp := by simp [linkLost, apply_ite Dev.otp]

@[simp] theorem otp_pinLink (agent pkg core win : Nat) (d : Dev) : (pinLink agent pkg core win d).2.otp = d.otp := by
  unfold pinLink
  dsimp only
  (repeat' split) <;> simp

@[simp] theorem otp_sendAccess (n : Nat) (o : JOut) (data : List Byte) (d : Dev) :
    (sendAccess n o data d).otp = d.otp := by simp [sendAccess]

@[simp] theorem otp_winOut (c : Nat) (tg : Nat × Nat) (pkg target win row n : Nat) (write : Bool) (loc : Ref) (tok : Option Nat) (d : Dev) :
    (winOut c tg pkg target win row n write loc tok d).otp = d.otp := by
  unfold winOut
  split
  · simp
  · dsimp only
    split <;> rename_i heq <;> simp [otp_of_pair heq, apply_ite Dev.otp]

@[simp] theorem otp_copyLocal (t : Nat) (read : Bool) (hbm : Nat) (m : WinMsg) (d : Dev) : (copyLocal t read hbm m d).otp = d.otp := by
  unfold copyLocal
  split <;> simp [apply_ite Dev.otp]

@[simp] theorem otp_remoteCopy (t : Nat) (c : Cmd) (d : Dev) : (remoteCopy t c d).otp = d.otp := by
  refine otp_ite rfl (otp_ite (by simp) (otp_ite (by simp) (otp_ite (otp_ite (by simp) (by simp)) ?_)))
  split <;> rename_i heq <;> simp [otp_of_pair heq, apply_ite Dev.otp]

@[simp] theorem otp_msgReply (n type cause : Nat) (data : List Byte) (m : JMsg) (d : Dev) :
    (msgReply n type cause data m d).otp = d.otp := by simp [msgReply]

@[simp] theorem otp_targetAccess (n type hw : Nat) (d : Dev) : (targetAccess n type hw d).otp = d.otp := by
  unfold targetAccess
  split <;> simp [apply_ite Dev.otp]

@[simp] theorem otp_gotWriteAck (n : Nat) (d : Dev) : (gotWriteAck n d).otp = d.otp := by
  unfold gotWriteAck
  dsimp only
  (repeat' split) <;> simp

@[simp] theorem otp_gotFaultNotice (n : Nat) (d : Dev) : (gotFaultNotice n d).otp = d.otp := by
  unfold gotFaultNotice
  dsimp only
  (repeat' split) <;> simp

@[simp] theorem otp_gotReadData (n : Nat) (d : Dev) : (gotReadData n d).otp = d.otp := by
  unfold gotReadData
  dsimp only
  (repeat' split) <;> simp

@[simp] theorem otp_gotReadErr (n : Nat) (d : Dev) : (gotReadErr n d).otp = d.otp := by
  unfold gotReadErr
  dsimp only
  (repeat' split) <;> simp

@[simp] theorem otp_jodonTimeout (tag : Nat) (d : Dev) : (jodonTimeout tag d).otp = d.otp := by
  unfold jodonTimeout
  split <;> simp [apply_ite Dev.otp]

@[simp] theorem otp_pinHoldExpire (n : Nat) (d : Dev) : (pinHoldExpire n d).otp = d.otp := (rfl)

@[simp] theorem otp_beginTraining (n : Nat) (d : Dev) : (beginTraining n d).otp = d.otp := (rfl)

@[simp] theorem otp_retrainLink (n : Nat) (d : Dev) : (retrainLink n d).otp = d.otp := by simp [retrainLink, apply_ite Dev.otp]

@[simp] theorem otp_jodonEnable (n : Nat) (en fw : Bool) (d : Dev) :
    (jodonEnable n en fw d).otp = d.otp := by simp [jodonEnable, apply_ite Dev.otp]

@[simp] theorem otp_jodonRetrain (n : Nat) (d : Dev) : (jodonRetrain n d).otp = d.otp := by simp [jodonRetrain]

@[simp] theorem otp_jodonRecal (n : Nat) (d : Dev) : (jodonRecal n d).otp = d.otp := by simp [jodonRecal, apply_ite Dev.otp]

@[simp] theorem otp_phaseEnd (n : Nat) (ok signal : Bool) (d : Dev) :
    (phaseEnd n ok signal d).otp = d.otp := by simp [phaseEnd, apply_ite Dev.otp]

@[simp] theorem otp_jodonIdent (n pkg plink tag : Nat) (same : Bool) (d : Dev) :
    (jodonIdent n pkg plink tag same d).otp = d.otp := by simp [jodonIdent, apply_ite Dev.otp]

@[simp] theorem otp_retryTimer (n : Nat) (d : Dev) : (retryTimer n d).otp = d.otp := by
  unfold retryTimer
  dsimp only
  split <;> simp [apply_ite Dev.otp]

@[simp] theorem otp_blockReceive (n fec : Nat) (bs : List Byte) (d : Dev) :
    (blockReceive n fec bs d).otp = d.otp := by simp [blockReceive, apply_ite Dev.otp]

@[simp] theorem otp_linkFail (n : Nat) (d : Dev) : (linkFail n d).otp = d.otp := by simp [linkFail, apply_ite Dev.otp]

/-! ### Pins -/

@[simp] theorem otp_modMfio (n : Nat) (f : Mfio → Mfio) (d : Dev) : (modMfio n f d).otp = d.otp := (rfl)

@[simp] theorem otp_mfioSwitch (n f : Nat) (d : Dev) : (mfioSwitch n f d).otp = d.otp := (rfl)

@[simp] theorem otp_mfioWrite (n val : Nat) (fw : Bool) (d : Dev) :
    (mfioWrite n val fw d).otp = d.otp := by simp [mfioWrite, apply_ite Dev.otp]

@[simp] theorem otp_mfioParkEnd (n : Nat) (d : Dev) : (mfioParkEnd n d).otp = d.otp := by
  unfold mfioParkEnd
  dsimp only
  split <;> simp [apply_ite Dev.otp]

@[simp] theorem otp_tachEdge (n : Nat) (d : Dev) : (tachEdge n d).otp = d.otp := by
  unfold tachEdge
  dsimp only
  (repeat' split) <;> simp

@[simp] theorem otp_tachWindow (n : Nat) (d : Dev) : (tachWindow n d).otp = d.otp := by simp [tachWindow, apply_ite Dev.otp]

@[simp] theorem otp_strapCheck (straps : Nat) (d : Dev) : (strapCheck straps d).otp = d.otp := by simp [strapCheck]

@[simp] theorem otp_ppsRise (d : Dev) : (ppsRise d).otp = d.otp := (rfl)

@[simp] theorem otp_ppsOutEdge (d : Dev) : (ppsOutEdge d).otp = d.otp := by simp [ppsOutEdge, apply_ite Dev.otp]

@[simp] theorem otp_ppsPulseEnd (d : Dev) : (ppsPulseEnd d).otp = d.otp := by
  unfold ppsPulseEnd
  split <;> simp [apply_ite Dev.otp]

/-! ### Clocks -/

@[simp] theorem otp_beatSyncSend (n : Nat) (d : Dev) : (beatSyncSend n d).otp = d.otp := by simp [beatSyncSend, apply_ite Dev.otp]

@[simp] theorem otp_measure (n t1 t2 t3 t4 : Nat) (d : Dev) : (measure n t1 t2 t3 t4 d).otp = d.otp := (rfl)

@[simp] theorem otp_loadBeat (b : Nat) (d : Dev) : (loadBeat b d).otp = d.otp := (rfl)

@[simp] theorem otp_beatSync (n : Nat) (d : Dev) : (beatSync n d).otp = d.otp := by
  unfold beatSync
  split <;> simp [apply_ite Dev.otp]

@[simp] theorem otp_beatAlone (d : Dev) : (beatAlone d).otp = d.otp := by simp [beatAlone, apply_ite Dev.otp]

@[simp] theorem otp_beatRead (d : Dev) : (beatRead d).otp = d.otp := (rfl)

@[simp] theorem otp_todRead (d : Dev) : (todRead d).otp = d.otp := (rfl)

@[simp] theorem otp_ppsInEdge (d : Dev) : (ppsInEdge d).otp = d.otp := by simp [ppsInEdge, apply_ite Dev.otp]

@[simp] theorem otp_ppsInLost (d : Dev) : (ppsInLost d).otp = d.otp := by
  unfold ppsInLost
  split <;> simp [apply_ite Dev.otp]

@[simp] theorem otp_ref10mLost (d : Dev) : (ref10mLost d).otp = d.otp := (rfl)

@[simp] theorem otp_ref10mValid (d : Dev) : (ref10mValid d).otp = d.otp := (rfl)

@[simp] theorem otp_swRefTimeout (d : Dev) : (swRefTimeout d).otp = d.otp := by simp [swRefTimeout, apply_ite Dev.otp]

@[simp] theorem otp_todAdj (val : Nat) (d : Dev) : (todAdj val d).otp = d.otp := by simp [todAdj, apply_ite Dev.otp]

@[simp] theorem otp_todSetGo (val : Nat) (d : Dev) : (todSetGo val d).otp = d.otp := by simp [todSetGo]

@[simp] theorem otp_todStepApply (d : Dev) : (todStepApply d).otp = d.otp := by
  unfold todStepApply
  dsimp only
  (repeat' split) <;> simp

@[simp] theorem otp_todSlewDone (d : Dev) : (todSlewDone d).otp = d.otp := by simp [todSlewDone, apply_ite Dev.otp]

@[simp] theorem otp_todCtrlWritten (d : Dev) : (todCtrlWritten d).otp = d.otp := by simp [todCtrlWritten]

@[simp] theorem otp_busyCore (c : Nat) (k : Core) (d : Dev) : (busyCore c k d).otp = d.otp := by
  unfold busyCore
  dsimp only
  rw [foldl_otp _ _ _ fun d e => by split <;> simp]
  simp

@[simp] theorem otp_busyTick (d : Dev) : (busyTick d).otp = d.otp := by simp [busyTick, apply_ite Dev.otp]

@[simp] theorem otp_tick (d : Dev) : (tick d).otp = d.otp := by simp [tick]

/-! ### Engines -/

@[simp] theorem otp_engNote (c : Nat) (i : Instr) (d : Dev) : (engNote c i d).otp = d.otp := by
  unfold engNote
  split <;> simp

@[simp] theorem otp_engEff (c : Nat) (tg : Nat × Nat) (i : Instr) (d : Dev) : (engEff c tg i d).otp = d.otp := by
  unfold engEff
  split <;> simp [apply_ite Dev.otp]

@[simp] theorem otp_slotCount (c : Nat) (tg : Nat × Nat) (x : Use × Ref × Nat) (d : Dev) :
    (slotCount c tg x d).otp = d.otp := by simp [slotCount, apply_ite Dev.otp]

@[simp] theorem otp_startOn (c : Nat) (es : List Nat) (i : EngOp) (d : Dev) : (startOn c es i d).otp = d.otp := by simp [startOn]

@[simp] theorem otp_dispatch (c : Nat) (i : Instr) (d : Dev) : (dispatch c i d).otp = d.otp := by simp [dispatch, apply_ite Dev.otp]

@[simp] theorem otp_engIssue (c : Nat) (i : Instr) (d : Dev) : (engIssue c i d).otp = d.otp :=
  otp_issue _ _ _ _ fun d => by split <;> simp

@[simp] theorem otp_engineStart (c e : Nat) (d : Dev) : (engineStart c e d).otp = d.otp := by
  unfold engineStart
  dsimp only
  (repeat' split) <;> simp

@[simp] theorem otp_retire (c : Nat) (es : List Nat) (i : EngOp) (d : Dev) :
    (retire c es i d).otp = d.otp := by simp [retire, apply_ite Dev.otp]

@[simp] theorem otp_engineComplete (c e : Nat) (d : Dev) : (engineComplete c e d).otp = d.otp := by
  unfold engineComplete
  split
  · rfl
  · split <;> simp

@[simp] theorem otp_countOut (c : Nat) (x : DmaOp) (d : Dev) : (countOut c x d).otp = d.otp := by
  unfold countOut
  split <;> simp [apply_ite Dev.otp]

@[simp] theorem otp_dmaComplete (c : Nat) (d : Dev) : (dmaComplete c d).otp = d.otp := by
  unfold dmaComplete
  split
  · rfl
  · split
    · rfl
    · split
      · rw [otp_coreFault]
        split <;> simp
      · simp
      · rename_i h
        simp [otp_dmaMove h, apply_ite Dev.otp]

@[simp] theorem otp_gatherComplete (c : Nat) (d : Dev) : (gatherComplete c d).otp = d.otp := by
  unfold gatherComplete
  split <;> simp [apply_ite Dev.otp]

/-! ### Sequencers and clusters -/

@[simp] theorem otp_noteLaunch (n : Nat) (serve : Serve) (d : Dev) : (noteLaunch n serve d).otp = d.otp := by
  unfold noteLaunch
  split <;> simp

@[simp] theorem otp_invocationLaunch (cl mask ctx tag : Nat) (serve : Serve) (handles : List (List Nat)) (programs : List Nat) (d : Dev) :
    (invocationLaunch cl mask ctx tag serve handles programs d).otp = d.otp := by simp [invocationLaunch, apply_ite Dev.otp]

@[simp] theorem otp_scalar (o : ScalarOp) (i : Instr) (c rd ra rb : Nat) (d : Dev) :
    (scalar o i c rd ra rb d).otp = d.otp := by simp [scalar]

@[simp] theorem otp_cmpOp (c ra rb : Nat) (d : Dev) : (cmpOp c ra rb d).otp = d.otp := by simp [cmpOp]

@[simp] theorem otp_liOp (c rd : Nat) (imm : Word64) (d : Dev) : (liOp c rd imm d).otp = d.otp := by simp [liOp]

@[simp] theorem otp_jump (c target : Nat) (d : Dev) : (jump c target d).otp = d.otp := (rfl)

@[simp] theorem otp_brOp (c : Nat) (cond : Cond) (target : Nat) (d : Dev) :
    (brOp c cond target d).otp = d.otp := by simp [brOp, apply_ite Dev.otp]

@[simp] theorem otp_jmpOp (c target : Nat) (d : Dev) : (jmpOp c target d).otp = d.otp := by simp [jmpOp]

@[simp] theorem otp_callOp (c target : Nat) (d : Dev) : (callOp c target d).otp = d.otp := by simp [callOp]

@[simp] theorem otp_retOp (c : Nat) (d : Dev) : (retOp c d).otp = d.otp :=
  otp_issue _ _ _ _ fun d => by split <;> simp

@[simp] theorem otp_loopOp (c count body : Nat) (d : Dev) : (loopOp c count body d).otp = d.otp := by simp [loopOp, apply_ite Dev.otp]

@[simp] theorem otp_haltOp (c : Nat) (d : Dev) : (haltOp c d).otp = d.otp := by simp [haltOp]

@[simp] theorem otp_markOp (c layer op : Nat) (d : Dev) : (markOp c layer op d).otp = d.otp := by simp [markOp]

@[simp] theorem otp_tokWaitOp (c t n : Nat) (d : Dev) : (tokWaitOp c t n d).otp = d.otp := by simp [tokWaitOp, apply_ite Dev.otp]

@[simp] theorem otp_settleBar (cl b who : Nat) (d : Dev) : (settleBar cl b who d).otp = d.otp := by simp [settleBar, apply_ite Dev.otp]

@[simp] theorem otp_arrive (cl b who : Nat) (d : Dev) : (arrive cl b who d).otp = d.otp := by simp [arrive, apply_ite Dev.otp]

@[simp] theorem otp_barOp (c b : Nat) (d : Dev) : (barOp c b d).otp = d.otp := by simp [barOp]

@[simp] theorem otp_barController (cl b : Nat) (d : Dev) : (barController cl b d).otp = d.otp := by simp [barController, apply_ite Dev.otp]

@[simp] theorem otp_barMask (cl b mask : Nat) (d : Dev) : (barMask cl b mask d).otp = d.otp := by simp [barMask, apply_ite Dev.otp]

@[simp] theorem otp_grantSem (cl s sig : Nat) (far : Bool) (d : Dev) : (grantSem cl s sig far d).otp = d.otp := by
  refine foldl_otp _ _ _ fun d w => ?_
  split
  · dsimp only
    split <;> simp
  · rfl

@[simp] theorem otp_signal (cl s n sig : Nat) (far : Bool) (d : Dev) : (signal cl s n sig far d).otp = d.otp := by simp [signal]

@[simp] theorem otp_sigOp (c s n : Nat) (d : Dev) : (sigOp c s n d).otp = d.otp := by simp [sigOp]

@[simp] theorem otp_sigROp (c cl s n : Nat) (d : Dev) : (sigROp c cl s n d).otp = d.otp := by simp [sigROp, apply_ite Dev.otp]

@[simp] theorem otp_remoteSignal (cl : Nat) (d : Dev) : (remoteSignal cl d).otp = d.otp := by
  unfold remoteSignal
  split <;> simp [apply_ite Dev.otp]

@[simp] theorem otp_swaitOp (c s n : Nat) (d : Dev) : (swaitOp c s n d).otp = d.otp := by simp [swaitOp]

@[simp] theorem otp_reissue (i : Instr) (d : Dev) : (reissue i d).otp = d.otp := by
  unfold reissue
  split <;> simp

@[simp] theorem otp_icacheFill (c : Nat) (d : Dev) : (icacheFill c d).otp = d.otp := by
  unfold icacheFill
  dsimp only
  split <;> simp [apply_ite Dev.otp]

@[simp] theorem otp_zeroDone (cl : Nat) (d : Dev) : (zeroDone cl d).otp = d.otp := (rfl)

@[simp] theorem otp_residentReload (cl ctx tag : Nat) (rows : List (Nat × Nat × List Byte)) (d : Dev) :
    (residentReload cl ctx tag rows d).otp = d.otp := by simp [residentReload, apply_ite Dev.otp]

/-! ### Rings -/

@[simp] theorem otp_sqDoorbell (q : Nat) (val : Word64) (d : Dev) :
    (sqDoorbell q val d).otp = d.otp := by simp [sqDoorbell, apply_ite Dev.otp]

@[simp] theorem otp_cqDoorbell (q : Nat) (val : Word64) (d : Dev) :
    (cqDoorbell q val d).otp = d.otp := by simp [cqDoorbell, apply_ite Dev.otp]

@[simp] theorem otp_rqDoorbell (fn r : Nat) (val : Word64) (d : Dev) :
    (rqDoorbell fn r val d).otp = d.otp := by simp [rqDoorbell, apply_ite Dev.otp]

@[simp] theorem otp_rearmErr (fn : Nat) (d : Dev) : (rearmErr fn d).otp = d.otp := by simp [rearmErr, apply_ite Dev.otp]

@[simp] theorem otp_pairCfgWrite (q v : Nat) (d : Dev) : (pairCfgWrite q v d).otp = d.otp := by simp [pairCfgWrite, apply_ite Dev.otp]

@[simp] theorem otp_rringCfgWrite (k v : Nat) (d : Dev) : (rringCfgWrite k v d).otp = d.otp := by simp [rringCfgWrite, apply_ite Dev.otp]

@[simp] theorem otp_ringCfgWrite (fn ring val : Nat) (d : Dev) :
    (ringCfgWrite fn ring val d).otp = d.otp := by simp [ringCfgWrite, apply_ite Dev.otp]

@[simp] theorem otp_sqFetch (q : Nat) (d : Dev) : (sqFetch q d).otp = d.otp := by simp [sqFetch, apply_ite Dev.otp]

@[simp] theorem otp_recordDrop (k : Nat) (x : Rec) (d : Dev) : (recordDrop k x d).otp = d.otp := by
  unfold recordDrop
  split <;> simp

@[simp] theorem otp_recordDeliver (fn r : Nat) (d : Dev) : (recordDeliver fn r d).otp = d.otp := by
  unfold recordDeliver
  dsimp only
  split <;> simp [apply_ite Dev.otp]

@[simp] theorem otp_irqDelay (fn ring : Nat) (d : Dev) : (irqDelay fn ring d).otp = d.otp := by simp [irqDelay, apply_ite Dev.otp]

@[simp] theorem otp_msixUnmask (fn vec : Nat) (d : Dev) : (msixUnmask fn vec d).otp = d.otp := by simp [msixUnmask, apply_ite Dev.otp]

@[simp] theorem otp_accessFaultOf (fn bar off kind : Nat) (d : Dev) :
    (accessFaultOf fn bar off kind d).otp = d.otp := by simp [accessFaultOf, apply_ite Dev.otp]

@[simp] theorem otp_accessFault (fn bar off len : Nat) (d : Dev) :
    (accessFault fn bar off len d).otp = d.otp := by simp [accessFault, apply_ite Dev.otp]

@[simp] theorem otp_stopCmd (t : Nat) (st : Status) (d : Dev) : (stopCmd t st d).otp = d.otp := by
  unfold stopCmd
  split <;> simp

@[simp] theorem otp_runStart (t inLen outLen : Nat) (c : Cmd) (d : Dev) :
    (runStart t inLen outLen c d).otp = d.otp := by simp [runStart, apply_ite Dev.otp]

@[simp] theorem otp_runCmd (t : Nat) (c : Cmd) (d : Dev) : (runCmd t c d).otp = d.otp := by simp [runCmd]

@[simp] theorem otp_runTrees (t : Nat) (c : Cmd) (d : Dev) : (runTrees t c d).otp = d.otp := by simp [runTrees]

@[simp] theorem otp_txTry (t : Nat) (c : Cmd) (d : Dev) : (txTry t c d).otp = d.otp := by
  unfold txTry
  dsimp only
  (repeat' split) <;> simp

@[simp] theorem otp_txFrame (t : Nat) (c : Cmd) (d : Dev) : (txFrame t c d).otp = d.otp := by simp [txFrame, apply_ite Dev.otp]

@[simp] theorem otp_txEnqueue (q t : Nat) (d : Dev) : (txEnqueue q t d).otp = d.otp := by simp [txEnqueue, apply_ite Dev.otp]

/-! ### Store dies -/

@[simp] theorem otp_hbmCorrected (x : Nat) (d : Dev) : (hbmCorrected x d).otp = d.otp := by simp [hbmCorrected, apply_ite Dev.otp]

@[simp] theorem otp_hbmPoison (x : Nat) (d : Dev) : (hbmPoison x d).otp = d.otp := by simp [hbmPoison]

@[simp] theorem otp_hbmError (x err : Nat) (d : Dev) : (hbmError x err d).otp = d.otp := by
  unfold hbmError
  split <;> simp

@[simp] theorem otp_hbmAccess (owner x kind : Nat) (data : List Byte) (err : Nat) (d : Dev) :
    (hbmAccess owner x kind data err d).otp = d.otp := by simp [hbmAccess, apply_ite Dev.otp]

@[simp] theorem otp_hbmScrub (die x err : Nat) (d : Dev) : (hbmScrub die x err d).otp = d.otp := by simp [hbmScrub, apply_ite Dev.otp]

@[simp] theorem otp_stackTemp (m t : Nat) (d : Dev) : (stackTemp m t d).otp = d.otp := by simp [stackTemp, apply_ite Dev.otp]

@[simp] theorem otp_coalescerServe (die stack pch bank : Nat) (d : Dev) :
    (coalescerServe die stack pch bank d).otp = d.otp := by simp [coalescerServe]

@[simp] theorem otp_coalescerMaxWait (die stack pch bank : Nat) (d : Dev) :
    (coalescerMaxWait die stack pch bank d).otp = d.otp := by simp [coalescerMaxWait]

@[simp] theorem otp_sramPatrol (die region idx err : Nat) (d : Dev) : (sramPatrol die region idx err d).otp = d.otp := by
  unfold sramPatrol
  dsimp only
  (repeat' split) <;> simp

@[simp] theorem otp_rowmodeWrite (r val : Nat) (d : Dev) : (rowmodeWrite r val d).otp = d.otp := by simp [rowmodeWrite, apply_ite Dev.otp]

@[simp] theorem otp_eraseFrame (f : Nat) (d : Dev) : (eraseFrame f d).otp = d.otp := (rfl)

@[simp] theorem otp_queueZero (who f : Nat) (d : Dev) : (queueZero who f d).otp = d.otp := by simp [queueZero]

@[simp] theorem otp_frameZeroDone (die : Nat) (d : Dev) : (frameZeroDone die d).otp = d.otp := by
  unfold frameZeroDone
  split <;> simp

@[simp] theorem otp_setL2 (k l2 : Nat) (x : L2Line) (d : Dev) : (setL2 k l2 x d).otp = d.otp := (rfl)

@[simp] theorem otp_dirGrant (k x : Nat) (d : Dev) : (dirGrant k x d).otp = d.otp := by
  unfold dirGrant
  dsimp only
  (repeat' split) <;> simp

@[simp] theorem otp_dirStart (k who kind val : Nat) (d : Dev) :
    (dirStart k who kind val d).otp = d.otp := by simp [dirStart, apply_ite Dev.otp]

@[simp] theorem otp_dirNext (k n : Nat) (d : Dev) : (dirNext k n d).otp = d.otp := by
  induction n generalizing d with
  | zero => rfl
  | succ n ih =>
    unfold dirNext
    split <;> simp [ih]

@[simp] theorem otp_dirRequest (die line l2 kind val : Nat) (d : Dev) :
    (dirRequest die line l2 kind val d).otp = d.otp := by simp [dirRequest, apply_ite Dev.otp]

@[simp] theorem otp_snoopResponse (die line l2 : Nat) (d : Dev) : (snoopResponse die line l2 d).otp = d.otp := by
  unfold snoopResponse
  dsimp only
  split <;> simp [apply_ite Dev.otp]

@[simp] theorem otp_dirWriteback (die line l2 : Nat) (d : Dev) :
    (dirWriteback die line l2 d).otp = d.otp := by simp [dirWriteback, apply_ite Dev.otp]

/-! ### Generation -/

@[simp] theorem otp_visitUnit (s : SeqRun) (die l h : Nat) (q : List (List Nat)) (r : AttnRun) (p : Nat) :
    (visitUnit s die l h q r p).dev.otp = r.dev.otp := by
  rw [Generation.CountersOnly.visitUnit s die l h q r p]

@[simp] theorem otp_attendDie (s : SeqRun) (die l : Nat) (q : List (List Nat)) (d : Dev) : (attendDie s die l q d).dev.otp = d.otp := by
  rw [Generation.CountersOnly.attendDie s die l q d]

@[simp] theorem otp_writeToken (s : SeqRun) (l : Nat) (kv : List (List Nat × Int)) (d : Dev) :
    (writeToken s l kv d).otp = d.otp := by simp [writeToken]

@[simp] theorem otp_decodeStart (t : Nat) (c : Cmd) (d : Dev) : (decodeStart t c d).otp = d.otp := by
  unfold decodeStart
  dsimp only
  (repeat' split) <;> simp

@[simp] theorem otp_writeCounts (s : SeqRun) (d : Dev) : (writeCounts s d).otp = d.otp := by simp [writeCounts]

@[simp] theorem otp_commitSeq (s : SeqRun) (d : Dev) : (commitSeq s d).otp = d.otp := by simp [commitSeq]

@[simp] theorem otp_modSeq (k b : Nat) (f : SeqRun → SeqRun) (d : Dev) : (modSeq k b f d).otp = d.otp := (rfl)

@[simp] theorem otp_decodeGoOn (t : Nat) (d : Dev) : (decodeGoOn t d).otp = d.otp := by simp [decodeGoOn, apply_ite Dev.otp]

@[simp] theorem otp_decodeStep (q t : Nat) (d : Dev) : (decodeStep q t d).otp = d.otp := by simp [decodeStep, apply_ite Dev.otp]

@[simp] theorem otp_stepFails (k : Nat) (st : Status) (d : Dev) : (stepFails k st d).otp = d.otp := by simp [stepFails, apply_ite Dev.otp]

@[simp] theorem otp_attnServe (die k b l : Nat) (q kv : List (List Nat)) (hw : Bool) (d : Dev) :
    (attnServe die k b l q kv hw d).otp = d.otp := by
  unfold attnServe
  dsimp only
  (repeat' split) <;> simp

@[simp] theorem otp_attnQuery (die : Nat) (src : AttnSrc) (l : Nat) (q kv : List (List Nat)) (hw : Bool) (d : Dev) :
    (attnQuery die src l q kv hw d).otp = d.otp := by
  unfold attnQuery
  split <;> simp [apply_ite Dev.otp]

@[simp] theorem otp_attnPartial (k b l kind shard : Nat) (ps : List (Nat × Nat × List Nat × Bool)) (d : Dev) :
    (attnPartial k b l kind shard ps d).otp = d.otp := by
  unfold attnPartial
  dsimp only
  (repeat' split) <;> simp

@[simp] theorem otp_attnCfgWrite (die val : Nat) (d : Dev) :
    (attnCfgWrite die val d).otp = d.otp := by simp [attnCfgWrite, apply_ite Dev.otp]

/-! ### Epochs -/

@[simp] theorem otp_dropVid (c vid : Nat) (d : Dev) : (dropVid c vid d).otp = d.otp := by simp [dropVid, apply_ite Dev.otp]

@[simp] theorem otp_setVersion (c tag : Nat) (v : CtxVersion) (d : Dev) : (setVersion c tag v d).otp = d.otp := by simp [setVersion]

@[simp] theorem otp_dropVersions (tag : Nat) (d : Dev) : (dropVersions tag d).otp = d.otp := by simp [dropVersions]

@[simp] theorem otp_dropTables (tag : Nat) (d : Dev) : (dropTables tag d).otp = d.otp := (rfl)

@[simp] theorem otp_dropBanks (tag : Nat) (d : Dev) : (dropBanks tag d).otp = d.otp := (rfl)

@[simp] theorem otp_sweepKeyed (d : Dev) : (sweepKeyed d).otp = d.otp := (rfl)

@[simp] theorem otp_openStaging (d : Dev) : (openStaging d).otp = d.otp := (rfl)

@[simp] theorem otp_startHold (t : Nat) (abandon : Bool) (d : Dev) : (startHold t abandon d).otp = d.otp := by simp [startHold]

@[simp] theorem otp_refuseFlip (t : Nat) (st : Status) (d : Dev) : (refuseFlip t st d).otp = d.otp := by simp [refuseFlip]

@[simp] theorem otp_flipEpoch (t : Nat) (c : Cmd) (d : Dev) : (flipEpoch t c d).otp = d.otp := by
  unfold flipEpoch
  split <;> simp [apply_ite Dev.otp]

@[simp] theorem otp_dropWork (c : Cmd) (d : Dev) : (dropWork c d).otp = d.otp := by simp [dropWork, apply_ite Dev.otp]

@[simp] theorem otp_staleBulk (d : Dev) : (staleBulk d).otp = d.otp := by simp [staleBulk]

@[simp] theorem otp_trainGiveUp (t : Nat) (d : Dev) : (trainGiveUp t d).otp = d.otp := by
  unfold trainGiveUp
  dsimp only
  (repeat' split) <;> simp

@[simp] theorem otp_trainStop (t : Nat) (st : Status) (d : Dev) : (trainStop t st d).otp = d.otp := by simp [trainStop]

@[simp] theorem otp_commandDeadline (q t : Nat) (d : Dev) :
    (commandDeadline q t d).otp = d.otp := by simp [commandDeadline, apply_ite Dev.otp]

@[simp] theorem otp_staleTrain (d : Dev) : (staleTrain d).otp = d.otp := by simp [staleTrain]

@[simp] theorem otp_beginSwitch (n t : Nat) (d : Dev) : (beginSwitch n t d).otp = d.otp := (rfl)

@[simp] theorem otp_discardStaging (n t tkt : Nat) (d : Dev) : (discardStaging n t tkt d).otp = d.otp := by simp [discardStaging]

@[simp] theorem otp_epochHoldEnd (d : Dev) : (epochHoldEnd d).otp = d.otp := by
  unfold epochHoldEnd
  split <;> simp [apply_ite Dev.otp]

@[simp] theorem otp_epochHoldTimeout (d : Dev) : (epochHoldTimeout d).otp = d.otp := by
  unfold epochHoldTimeout
  split <;> simp [apply_ite Dev.otp]

@[simp] theorem otp_epochSwitch (die : Nat) (d : Dev) : (epochSwitch die d).otp = d.otp := (rfl)

@[simp] theorem otp_epochSwitchAck (d : Dev) : (epochSwitchAck d).otp = d.otp := by
  unfold epochSwitchAck
  split <;> simp [apply_ite Dev.otp]

@[simp] theorem otp_settleRetire (d : Dev) : (settleRetire d).otp = d.otp := by simp [settleRetire]

@[simp] theorem otp_epochRetire (d : Dev) : (epochRetire d).otp = d.otp := by
  unfold epochRetire
  split <;> simp [apply_ite Dev.otp]

@[simp] theorem otp_ruleSweepDone (die : Nat) (d : Dev) : (ruleSweepDone die d).otp = d.otp := by simp [ruleSweepDone, apply_ite Dev.otp]

@[simp] theorem otp_stagingOpen (d : Dev) : (stagingOpen d).otp = d.otp := by
  unfold stagingOpen
  split <;> simp [apply_ite Dev.otp]

@[simp] theorem otp_retireWait (t : Nat) (c : Cmd) (d : Dev) : (retireWait t c d).otp = d.otp := by simp [retireWait, apply_ite Dev.otp]

@[simp] theorem otp_retireWaitTimeout (q t : Nat) (d : Dev) : (retireWaitTimeout q t d).otp = d.otp := by
  unfold retireWaitTimeout
  split <;> simp [apply_ite Dev.otp]

@[simp] theorem otp_forceDrain (tag : Nat) (d : Dev) : (forceDrain tag d).otp = d.otp := by simp [forceDrain]

@[simp] theorem otp_retireForce (t : Nat) (c : Cmd) (d : Dev) : (retireForce t c d).otp = d.otp := by
  unfold retireForce
  split
  · rfl
  · split
    · simp
    · split <;> simp

@[simp] theorem otp_retireAbandon (t : Nat) (c : Cmd) (d : Dev) :
    (retireAbandon t c d).otp = d.otp := by simp [retireAbandon, apply_ite Dev.otp]

/-! ### Table loads -/

@[simp] theorem otp_recordApply (part : Nat) (r : List Byte) (del : Bool) (die : Nat) (d : Dev) :
    (recordApply part r del die d).2.otp = d.otp := by
  unfold recordApply
  dsimp only
  split
  · split
    · rfl
    · split
      · simp
      · split
        · exact otp_writeRule ‹_›
        · rfl
  · (repeat' split) <;> simp
  · split <;> simp
  · simp

@[simp] theorem otp_recordDies (part : Nat) (r : List Byte) (del : Bool) (l : List Nat) (d : Dev) :
    (recordDies part r del l d).2.otp = d.otp := by
  induction l generalizing d with
  | nil => rfl
  | cons die l ih =>
    unfold recordDies
    split <;> rename_i heq <;> simp [ih, otp_of_pair heq]

@[simp] theorem otp_applyRecords (c : Cmd) (part : Nat) (del : Bool) (l : List Nat) (d : Dev) :
    (applyRecords c part del l d).2.2.otp = d.otp := by
  induction l generalizing d with
  | nil => rfl
  | cons k l ih =>
    unfold applyRecords
    dsimp only
    split
    · simp
    · split <;> rename_i heq <;> simp [ih, otp_of_pair heq]

@[simp] theorem otp_ruleCmd (del : Bool) (t : Nat) (c : Cmd) (d : Dev) :
    (ruleCmd del t c d).otp = d.otp := by simp [ruleCmd, apply_ite Dev.otp]

@[simp] theorem otp_sourceCount (c : Cmd) (hbm : Bool) (a n : Nat) (d : Dev) :
    (sourceCount c hbm a n d).otp = d.otp := by simp [sourceCount, apply_ite Dev.otp]

@[simp] theorem otp_keyedRecord (p slot st : Nat) (r : List Byte) (d : Dev) : (keyedRecord p slot st r d).2.otp = d.otp := by
  unfold keyedRecord
  dsimp only
  (repeat' split) <;> simp

@[simp] theorem otp_keyedLoad (p slot st : Nat) (bs : List Byte) (n : Nat) (d : Dev) : (keyedLoad p slot st bs n d).2.otp = d.otp := by
  induction n with
  | zero => rfl
  | succ n ih =>
    unfold keyedLoad
    split
    · rename_i heq
      simp [otp_of_pair heq, ih]
    · exact ih

@[simp] theorem otp_keyedDrop (p slot st : Nat) (gone : List Byte → Bool) (d : Dev) : (keyedDrop p slot st gone d).otp = d.otp := (rfl)

@[simp] theorem otp_loadTable (t : Nat) (bank : BankImage) (c : Cmd) (d : Dev) : (loadTable t bank c d).otp = d.otp := by
  unfold loadTable
  dsimp only
  split
  · simp
  · split
    · simp
    · split
      · simp
      · simp
      · split
        · split <;> simp
        · simp [apply_ite Dev.otp]
        · split
          · simp
          · split <;> rename_i heq <;> simp [otp_of_pair heq, apply_ite Dev.otp]

@[simp] theorem otp_commitTable (t : Nat) (c : Cmd) (d : Dev) : (commitTable t c d).otp = d.otp := by
  unfold commitTable
  split <;> simp

/-! ### Images -/

@[simp] theorem otp_placeShares (c : Nat) (v : CtxVersion) (d : Dev) : (placeShares c v d).otp = d.otp := by simp [placeShares]

@[simp] theorem otp_refuseImage (t : Nat) (st : Status) (d : Dev) : (refuseImage t st d).otp = d.otp := by simp [refuseImage]

@[simp] theorem otp_loadEdge (t tag mask : Nat) (b : List Byte) (n : Nat) (d : Dev) :
    (loadEdge t tag mask b n d).otp = d.otp := by simp [loadEdge, apply_ite Dev.otp]

@[simp] theorem otp_loadCtx (t tag : Nat) (fits : Bool) (c : Cmd) (b : List Byte) (n : Nat) (d : Dev) :
    (loadCtx t tag fits c b n d).otp = d.otp := by
  unfold loadCtx
  dsimp only
  (repeat' split) <;> simp

@[simp] theorem otp_loadImage (t : Nat) (fits : Bool) (c : Cmd) (d : Dev) : (loadImage t fits c d).otp = d.otp := by
  unfold loadImage
  dsimp only
  (repeat' split) <;> simp

@[simp] theorem otp_commitImage (t : Nat) (c : Cmd) (d : Dev) : (commitImage t c d).otp = d.otp := by
  unfold commitImage
  split <;> simp [apply_ite Dev.otp]

@[simp] theorem otp_bulkCommit (q t : Nat) (d : Dev) : (bulkCommit q t d).otp = d.otp := by simp [bulkCommit, apply_ite Dev.otp]

/-! ### Contexts -/

@[simp] theorem otp_newCtxCtrs (n : Nat) (d : Dev) : (newCtxCtrs n d).otp = d.otp := (rfl)

@[simp] theorem otp_contextCreate (t : Nat) (c : Cmd) (d : Dev) : (contextCreate t c d).otp = d.otp := by
  unfold contextCreate
  split <;> simp [apply_ite Dev.otp]

@[simp] theorem otp_removeCtx (n : Nat) (d : Dev) : (removeCtx n d).otp = d.otp := (rfl)

@[simp] theorem otp_contextDestroy (t : Nat) (c : Cmd) (d : Dev) : (contextDestroy t c d).otp = d.otp := by
  unfold contextDestroy
  dsimp only
  (repeat' split) <;> simp

@[simp] theorem otp_contextDestroyRow (q t : Nat) (d : Dev) :
    (contextDestroyRow q t d).otp = d.otp := by simp [contextDestroyRow, apply_ite Dev.otp]

/-! ### Wakes and clusters' clocks -/

@[simp] theorem otp_setPower (cl p : Nat) (d : Dev) : (setPower cl p d).otp = d.otp := (rfl)

@[simp] theorem otp_charge (g x : Nat) (d : Dev) : (charge g x d).otp = d.otp := (rfl)

@[simp] theorem otp_setStep (cl s : Nat) (d : Dev) : (setStep cl s d).otp = d.otp := (rfl)

@[simp] theorem otp_unqueue (x : Nat × Bool) (d : Dev) : (unqueue x d).otp = d.otp := (rfl)

@[simp] theorem otp_tryRaise (cl : Nat) (d : Dev) : (tryRaise cl d).otp = d.otp := by simp [tryRaise, apply_ite Dev.otp]

@[simp] theorem otp_queueRaise (cl : Nat) (d : Dev) : (queueRaise cl d).otp = d.otp := by simp [queueRaise, apply_ite Dev.otp]

@[simp] theorem otp_clockTarget (cl : Nat) (d : Dev) : (clockTarget cl d).otp = d.otp := by simp [clockTarget, apply_ite Dev.otp]

@[simp] theorem otp_clockRaise (cl : Nat) (d : Dev) : (clockRaise cl d).otp = d.otp := by simp [clockRaise, apply_ite Dev.otp]

@[simp] theorem otp_shareSteps (n : Nat) (d : Dev) : (shareSteps n d).otp = d.otp := by simp [shareSteps]

@[simp] theorem otp_clockStepWrite (cl val : Nat) (d : Dev) :
    (clockStepWrite cl val d).otp = d.otp := by simp [clockStepWrite, apply_ite Dev.otp]

@[simp] theorem otp_wakeStart (dom : Nat) (d : Dev) : (wakeStart dom d).otp = d.otp := by simp [wakeStart, apply_ite Dev.otp]

@[simp] theorem otp_wakeDone (dom : Nat) (d : Dev) : (wakeDone dom d).otp = d.otp := by
  unfold wakeDone
  split <;> simp [apply_ite Dev.otp]

@[simp] theorem otp_domainFailed (dom : Nat) (d : Dev) : (domainFailed dom d).otp = d.otp := by
  unfold domainFailed
  split <;> simp [apply_ite Dev.otp]

@[simp] theorem otp_idleExit (cl : Nat) (d : Dev) : (idleExit cl d).otp = d.otp := by simp [idleExit, apply_ite Dev.otp]

@[simp] theorem otp_thawRequest (dom : Nat) (d : Dev) : (thawRequest dom d).otp = d.otp := by simp [thawRequest, apply_ite Dev.otp]

/-! ### Partitions -/

@[simp] theorem otp_clearCluster (cl : Nat) (d : Dev) : (clearCluster cl d).otp = d.otp := (rfl)

@[simp] theorem otp_clearPartCtrs (p fn : Nat) (d : Dev) : (clearPartCtrs p fn d).otp = d.otp := (rfl)

@[simp] theorem otp_dropClusterRegs (cl : Nat) (d : Dev) : (dropClusterRegs cl d).otp = d.otp := (rfl)

@[simp] theorem otp_wipeCluster (cl : Nat) (d : Dev) : (wipeCluster cl d).otp = d.otp := (rfl)

@[simp] theorem otp_dropRequests (cl : Nat) (d : Dev) : (dropRequests cl d).otp = d.otp := (rfl)

@[simp] theorem otp_stopSelftest (cl : Nat) (d : Dev) : (stopSelftest cl d).otp = d.otp := by simp [stopSelftest]

@[simp] theorem otp_clusterReset (cl : Nat) (d : Dev) : (clusterReset cl d).otp = d.otp := by simp [clusterReset]

@[simp] theorem otp_finishOp (code : Nat) (d : Dev) : (finishOp code d).otp = d.otp := by
  unfold finishOp
  split <;> simp

@[simp] theorem otp_startReset (p : Nat) (d : Dev) : (startReset p d).otp = d.otp := by simp [startReset, apply_ite Dev.otp]

@[simp] theorem otp_destroyPart (p : Nat) (d : Dev) : (destroyPart p d).otp = d.otp := by simp [destroyPart, apply_ite Dev.otp]

@[simp] theorem otp_zeroPages (pages : List Nat) (d : Dev) : (zeroPages pages d).otp = d.otp := by simp [zeroPages]

@[simp] theorem otp_setClusters (x : Machine.Part) (d : Dev) : (setClusters x d).otp = d.otp := by simp [setClusters, apply_ite Dev.otp]

@[simp] theorem otp_applyDesc (p op : Nat) (bs : List Byte) (d : Dev) :
    (applyDesc p op bs d).otp = d.otp := by simp [applyDesc, apply_ite Dev.otp]

@[simp] theorem otp_afterOp (p : Nat) (d : Dev) : (afterOp p d).otp = d.otp := by simp [afterOp, apply_ite Dev.otp]

@[simp] theorem otp_descFetched (err : Bool) (held : Nat) (d : Dev) : (descFetched err held d).otp = d.otp := by
  unfold descFetched
  split <;> simp [apply_ite Dev.otp]

@[simp] theorem otp_partCmd (op port p : Nat) (d : Dev) : (partCmd op port p d).otp = d.otp := by simp [partCmd, apply_ite Dev.otp]

@[simp] theorem otp_frameZeroRow (die : Nat) (d : Dev) : (frameZeroRow die d).otp = d.otp := by
  unfold frameZeroRow
  dsimp only
  split <;> simp [apply_ite Dev.otp]

@[simp] theorem otp_removeCmd (t : Nat) (d : Dev) : (removeCmd t d).otp = d.otp := by
  unfold removeCmd
  dsimp only
  split <;> simp [apply_ite Dev.otp]

@[simp] theorem otp_freeTables (x : Machine.Part) (d : Dev) : (freeTables x d).otp = d.otp := by simp [freeTables, apply_ite Dev.otp]

@[simp] theorem otp_partitionReset (p : Nat) (d : Dev) : (partitionReset p d).otp = d.otp := by simp [partitionReset, apply_ite Dev.otp]

@[simp] theorem otp_resetFn (fn : Nat) (d : Dev) : (resetFn fn d).otp = d.otp := (rfl)

@[simp] theorem otp_partitionResetDone (p : Nat) (d : Dev) :
    (partitionResetDone p d).otp = d.otp := by simp [partitionResetDone, apply_ite Dev.otp]

@[simp] theorem otp_fnReset (fn : Nat) (d : Dev) : (fnReset fn d).otp = d.otp := by
  unfold fnReset
  split <;> simp

@[simp] theorem otp_dropVfs (port n : Nat) (d : Dev) : (dropVfs port n d).otp = d.otp := by simp [dropVfs]

@[simp] theorem otp_clearMsix (fn : Nat) (d : Dev) : (clearMsix fn d).otp = d.otp := (rfl)

@[simp] theorem otp_flr (fn : Nat) (d : Dev) : (flr fn d).otp = d.otp := by simp [flr, apply_ite Dev.otp]

@[simp] theorem otp_vfRemoval (port n : Nat) (d : Dev) : (vfRemoval port n d).otp = d.otp := by simp [vfRemoval]

@[simp] theorem otp_vfEnable (port n : Nat) (d : Dev) : (vfEnable port n d).otp = d.otp := (rfl)

/-! ### Power and sensors -/

@[simp] theorem otp_idleEntry (cl : Nat) (d : Dev) : (idleEntry cl d).otp = d.otp := by simp [idleEntry, apply_ite Dev.otp]

@[simp] theorem otp_retainEntry (cl : Nat) (d : Dev) : (retainEntry cl d).otp = d.otp := by simp [retainEntry, apply_ite Dev.otp]

@[simp] theorem otp_clusterOff (cl : Nat) (d : Dev) : (clusterOff cl d).otp = d.otp := (rfl)

@[simp] theorem otp_offEntry (cl : Nat) (d : Dev) : (offEntry cl d).otp = d.otp := by simp [offEntry, apply_ite Dev.otp]

@[simp] theorem otp_release (d : Dev) : (release d).otp = d.otp := by simp [release]

@[simp] theorem otp_capStep (d : Dev) : (capStep d).otp = d.otp := by simp [capStep, apply_ite Dev.otp]

@[simp] theorem otp_thermStep (d : Dev) : (thermStep d).otp = d.otp := by simp [thermStep, apply_ite Dev.otp]

@[simp] theorem otp_estimateUpdate (w : Nat) (d : Dev) : (estimateUpdate w d).otp = d.otp := by simp [estimateUpdate]

@[simp] theorem otp_powerCap (d : Dev) : (powerCap d).otp = d.otp := by
  unfold powerCap
  split <;> simp [apply_ite Dev.otp]

@[simp] theorem otp_powerLimitWrite (val : Nat) (fw : Bool) (d : Dev) : (powerLimitWrite val fw d).otp = d.otp := by simp [powerLimitWrite]

@[simp] theorem otp_thermCheck (d : Dev) : (thermCheck d).otp = d.otp := by simp [thermCheck]

@[simp] theorem otp_recalCheck (d : Dev) : (recalCheck d).otp = d.otp := (rfl)

@[simp] theorem otp_sensorSample (temps : List Int) (volts : List Nat) (d : Dev) :
    (sensorSample temps volts d).otp = d.otp := by simp [sensorSample]

/-! ### Boot and resets -/

@[simp] theorem otp_chooseSlot (d : Dev) : (chooseSlot d).2.otp = d.otp := by
  unfold chooseSlot
  dsimp only
  (repeat' split) <;> simp

@[simp] theorem otp_bootFail (cause : Nat) (d : Dev) : (bootFail cause d).otp = d.otp := (rfl)

@[simp] theorem otp_bootSlot (d : Dev) : (bootSlot d).otp = d.otp := by
  unfold bootSlot
  split <;> rename_i heq <;> simp [otp_of_pair heq]

@[simp] theorem otp_holdCheck (temps : List Int) (d : Dev) : (holdCheck temps d).otp = d.otp := by simp [holdCheck, apply_ite Dev.otp]

@[simp] theorem otp_railGood (d : Dev) : (railGood d).otp = d.otp := by simp [railGood, apply_ite Dev.otp]

@[simp] theorem otp_railFailed (d : Dev) : (railFailed d).otp = d.otp := by simp [railFailed, apply_ite Dev.otp]

@[simp] theorem otp_checkMaps (d : Dev) : (checkMaps d).otp = d.otp := by simp [checkMaps]

@[simp] theorem otp_enterStep (k : Nat) (d : Dev) : (enterStep k d).otp = d.otp := by simp [enterStep]

@[simp] theorem otp_warmWipe (d : Dev) : (warmWipe d).otp = d.otp := (rfl)

@[simp] theorem otp_loadLimits (d : Dev) : (loadLimits d).otp = d.otp := (rfl)

@[simp] theorem otp_warmReset (cause : Nat) (d : Dev) : (warmReset cause d).otp = d.otp := (rfl)

@[simp] theorem otp_coldWipe (straps : Nat) (temps : List Int) (d : Dev) : (coldWipe straps temps d).otp = d.otp := (rfl)

@[simp] theorem otp_sysRstAssert (d : Dev) : (sysRstAssert d).otp = d.otp := by simp [sysRstAssert, apply_ite Dev.otp]

@[simp] theorem otp_resetHeld (d : Dev) : (resetHeld d).otp = d.otp := by
  unfold resetHeld
  split <;> simp [apply_ite Dev.otp]

@[simp] theorem otp_thermalTrip (sensor : Nat) (d : Dev) : (thermalTrip sensor d).otp = d.otp := by simp [thermalTrip, apply_ite Dev.otp]

@[simp] theorem otp_portReset (port : Nat) (perst : Bool) (d : Dev) :
    (portReset port perst d).otp = d.otp := by simp [portReset, apply_ite Dev.otp]

@[simp] theorem otp_perstDeassert (port : Nat) (d : Dev) : (perstDeassert port d).otp = d.otp := (rfl)

@[simp] theorem otp_pcieLinkUp (port : Nat) (d : Dev) : (pcieLinkUp port d).otp = d.otp := by simp [pcieLinkUp, apply_ite Dev.otp]

@[simp] theorem otp_pcieReady (port : Nat) (d : Dev) : (pcieReady port d).otp = d.otp := by simp [pcieReady, apply_ite Dev.otp]

/-! ### Ports -/

@[simp] theorem otp_mapItems (fid : Nat) (f : EItem → Option EItem) (d : Dev) : (mapItems fid f d).otp = d.otp := (rfl)

@[simp] theorem otp_mapTx (fid : Nat) (f : EItem → EItem) (c : Nat → Dev → Dev) (d : Dev) (h : ∀ k d, (c k d).otp = d.otp) :
    (mapTx fid f c d).otp = d.otp := forEach_otp _ _ _ h

@[simp] theorem otp_endGood (fid : Nat) (d : Dev) : (endGood fid d).otp = d.otp := by simp [endGood, apply_ite Dev.otp]

@[simp] theorem otp_abandonDeep (f : Frame) (d : Dev) : (abandonDeep f d).otp = d.otp := by
  unfold abandonDeep
  split <;> simp [apply_ite Dev.otp]

@[simp] theorem otp_endBad (fid : Nat) (d : Dev) : (endBad fid d).otp = d.otp := by
  unfold endBad
  dsimp only
  split <;> simp

@[simp] theorem otp_addBytes (fid : Nat) (bs : List Byte) (d : Dev) :
    (addBytes fid bs d).otp = d.otp := by simp [addBytes, apply_ite Dev.otp]

@[simp] theorem otp_frameReceive (bp total : Nat) (bytes : List Byte) (d : Dev) :
    (frameReceive bp total bytes d).otp = d.otp := by simp [frameReceive, apply_ite Dev.otp]

@[simp] theorem otp_frameBytes (bp : Nat) (bytes : List Byte) (d : Dev) : (frameBytes bp bytes d).otp = d.otp := by
  unfold frameBytes
  split <;> simp

@[simp] theorem otp_frameEnd (bp : Nat) (bytes : List Byte) (fcsBad fecBad fecCorrected : Bool) (d : Dev) :
    (frameEnd bp bytes fcsBad fecBad fecCorrected d).otp = d.otp := by
  unfold frameEnd
  split <;> simp [apply_ite Dev.otp]

@[simp] theorem otp_setPause (bp quanta : Nat) (p : Nat → Bool) (d : Dev) : (setPause bp quanta p d).otp = d.otp := (rfl)

@[simp] theorem otp_macControl (bp : Nat) (bytes : List Byte) (d : Dev) :
    (macControl bp bytes d).otp = d.otp := by simp [macControl, apply_ite Dev.otp]

@[simp] theorem otp_pauseExpire (bp queue : Nat) (d : Dev) :
    (pauseExpire bp queue d).otp = d.otp := by simp [pauseExpire, apply_ite Dev.otp]

@[simp] theorem otp_parserDispatch (pa : Nat) (d : Dev) : (parserDispatch pa d).otp = d.otp := by
  unfold parserDispatch
  dsimp only
  (repeat' split) <;> simp

@[simp] theorem otp_enterHold (bp : Nat) (d : Dev) : (enterHold bp d).otp = d.otp := (rfl)

@[simp] theorem otp_discardQueues (bp : Nat) (d : Dev) : (discardQueues bp d).otp = d.otp :=
  forEach_otp _ _ _ fun q d => forEach_otp _ _ _ fun i d => by
    rw [otp_pfcCheckBp]
    split <;> simp

@[simp] theorem otp_applyHeld (bp : Nat) (d : Dev) : (applyHeld bp d).otp = d.otp := (rfl)

@[simp] theorem otp_stompTx (bp : Nat) (d : Dev) : (stompTx bp d).otp = d.otp := by
  unfold stompTx
  dsimp only
  (repeat' split) <;> simp

@[simp] theorem otp_takeDown (bp : Nat) (d : Dev) : (takeDown bp d).otp = d.otp := by
  unfold takeDown
  dsimp only
  (repeat' split) <;> simp

@[simp] theorem otp_startCal (p : Nat) (d : Dev) : (startCal p d).otp = d.otp := by simp [startCal, apply_ite Dev.otp]

@[simp] theorem otp_forcedRecal (p : Nat) (d : Dev) : (forcedRecal p d).otp = d.otp := by simp [forcedRecal, apply_ite Dev.otp]

@[simp] theorem otp_laneLockLoss (p lane : Nat) (d : Dev) : (laneLockLoss p lane d).otp = d.otp := by simp [laneLockLoss, apply_ite Dev.otp]

@[simp] theorem otp_calibrationDone (p : Nat) (d : Dev) : (calibrationDone p d).otp = d.otp := by simp [calibrationDone]

@[simp] theorem otp_linkUp (bp : Nat) (d : Dev) : (linkUp bp d).otp = d.otp := by simp [linkUp, apply_ite Dev.otp]

@[simp] theorem otp_holdIdlesDone (bp : Nat) (d : Dev) : (holdIdlesDone bp d).otp = d.otp := by
  unfold holdIdlesDone
  dsimp only
  split <;> simp [apply_ite Dev.otp]

@[simp] theorem otp_holdTimeout (bp : Nat) (d : Dev) : (holdTimeout bp d).otp = d.otp := by simp [holdTimeout, apply_ite Dev.otp]

@[simp] theorem otp_discardDone (bp : Nat) (d : Dev) : (discardDone bp d).otp = d.otp := by simp [discardDone, apply_ite Dev.otp]

@[simp] theorem otp_txRefLost (die ref : Nat) (d : Dev) : (txRefLost die ref d).otp = d.otp := by simp [txRefLost, apply_ite Dev.otp]

@[simp] theorem otp_txRefReturn (die ref : Nat) (d : Dev) : (txRefReturn die ref d).otp = d.otp := by simp [txRefReturn, apply_ite Dev.otp]

@[simp] theorem otp_portCfgWrite (p val : Nat) (d : Dev) : (portCfgWrite p val d).otp = d.otp := by simp [portCfgWrite, apply_ite Dev.otp]

@[simp] theorem otp_portMacWrite (p s val : Nat) (fw : Bool) (d : Dev) :
    (portMacWrite p s val fw d).otp = d.otp := by simp [portMacWrite, apply_ite Dev.otp]

@[simp] theorem otp_bufferCfgWrite (addr val : Nat) (d : Dev) : (bufferCfgWrite addr val d).otp = d.otp := by
  unfold bufferCfgWrite
  split <;> simp [apply_ite Dev.otp]

@[simp] theorem otp_ruleSeedWrite (die val : Nat) (d : Dev) :
    (ruleSeedWrite die val d).otp = d.otp := by simp [ruleSeedWrite, apply_ite Dev.otp]

@[simp] theorem otp_flowSeedWrite (die val : Nat) (d : Dev) :
    (flowSeedWrite die val d).otp = d.otp := by simp [flowSeedWrite, apply_ite Dev.otp]

/-! ### Training -/

@[simp] theorem otp_answerReq (die r : Nat) (a : Nat × Nat × Nat × List Nat) (d : Dev) : (answerReq die r a d).otp = d.otp := (rfl)

@[simp] theorem otp_appendFeedback (die r : Nat) (q : DeepReq) (f : FbSpec) (d : Dev) :
    (appendFeedback die r q f d).otp = d.otp := by simp [appendFeedback, apply_ite Dev.otp]

@[simp] theorem otp_inferenceRequest (die r : Nat) (d : Dev) : (inferenceRequest die r d).otp = d.otp := by
  unfold inferenceRequest
  dsimp only
  (repeat' split) <;> simp

@[simp] theorem otp_trainFork (t id tag : Nat) (d : Dev) : (trainFork t id tag d).otp = d.otp := by simp [trainFork, apply_ite Dev.otp]

@[simp] theorem otp_trainStart (t : Nat) (fits : Bool) (init : List (List (Option Int × List Nat))) (c : Cmd) (d : Dev) :
    (trainStart t fits init c d).otp = d.otp := by
  unfold trainStart
  split <;> simp [apply_ite Dev.otp]

@[simp] theorem otp_takeRecords (c : Cmd) (d : Dev) : (takeRecords c d).otp = d.otp := by simp [takeRecords, apply_ite Dev.otp]

@[simp] theorem otp_trainBegin (t : Nat) (d : Dev) : (trainBegin t d).otp = d.otp := by
  unfold trainBegin
  split <;> simp [apply_ite Dev.otp]

@[simp] theorem otp_trainEnd (t : Nat) (d : Dev) : (trainEnd t d).otp = d.otp := by
  unfold trainEnd
  split <;> simp [apply_ite Dev.otp]

@[simp] theorem otp_trainCompute (t : Nat) (grads : List (List (Int × List Nat))) (d : Dev) : (trainCompute t grads d).2.otp = d.otp := by
  unfold trainCompute
  dsimp only
  (repeat' split) <;> simp

/-! ### The island, its messages and the maintenance arbiter -/

@[simp] theorem otp_maintAnswer (r : MaintReq) (st : Status) (d : Dev) :
    (maintAnswer r st d).otp = d.otp := by simp [maintAnswer, apply_ite Dev.otp]

@[simp] theorem otp_clusterShares (cl src dst : Nat) (d : Dev) : (clusterShares cl src dst d).otp = d.otp := (rfl)

@[simp] theorem otp_maintStart (r : MaintReq) (joins : Bool) (d : Dev) : (maintStart r joins d).otp = d.otp := by
  unfold maintStart
  split <;> simp [apply_ite Dev.otp]

@[simp] theorem otp_maintSubmit (r : MaintReq) (d : Dev) : (maintSubmit r d).otp = d.otp := by simp [maintSubmit, apply_ite Dev.otp]

@[simp] theorem otp_maintGrant (d : Dev) : (maintGrant d).otp = d.otp := by
  unfold maintGrant
  split <;> simp

@[simp] theorem otp_maintRequest (t : Nat) (c : Cmd) (d : Dev) :
    (maintRequest t c d).otp = d.otp := by simp [maintRequest, apply_ite Dev.otp]

@[simp] theorem otp_mboxEnd (st : Status) (d : Dev) : (mboxEnd st d).otp = d.otp := (rfl)

@[simp] theorem otp_maintRefuse (r : MaintReq) (d : Dev) : (maintRefuse r d).otp = d.otp := by
  unfold maintRefuse
  split <;> simp [apply_ite Dev.otp]

@[simp] theorem otp_maintExpire (d : Dev) : (maintExpire d).otp = d.otp := by
  unfold maintExpire
  split <;> simp [apply_ite Dev.otp]

@[simp] theorem otp_poisonRow (m pch bank row : Nat) (d : Dev) : (poisonRow m pch bank row d).otp = d.otp := by simp [poisonRow]

@[simp] theorem otp_forceRecal (act obj : Nat) (d : Dev) : (forceRecal act obj d).otp = d.otp := by simp [forceRecal, apply_ite Dev.otp]

@[simp] theorem otp_coreFailed (cls i : Nat) (d : Dev) : (coreFailed cls i d).otp = d.otp := by
  unfold coreFailed
  dsimp only
  split <;> simp

@[simp] theorem otp_coreRestarted (cls i : Nat) (d : Dev) :
    (coreRestarted cls i d).otp = d.otp := by simp [coreRestarted, apply_ite Dev.otp]

@[simp] theorem otp_islandRestart (d : Dev) : (islandRestart d).otp = d.otp := (rfl)

@[simp] theorem otp_islandRestarted (d : Dev) : (islandRestarted d).otp = d.otp := by simp [islandRestarted, apply_ite Dev.otp]

@[simp] theorem otp_coreFrame (cls bp q : Nat) (bytes : List Byte) (d : Dev) :
    (coreFrame cls bp q bytes d).otp = d.otp := by simp [coreFrame, apply_ite Dev.otp]

@[simp] theorem otp_logPersist (d : Dev) : (logPersist d).otp = d.otp := (rfl)

@[simp] theorem otp_troublePersist (d : Dev) : (troublePersist d).otp = d.otp := (rfl)

@[simp] theorem otp_alertAck (m : Nat) (d : Dev) : (alertAck m d).otp = d.otp := by simp [alertAck, apply_ite Dev.otp]

@[simp] theorem otp_updateOver (d : Dev) : (updateOver d).otp = d.otp := (rfl)

@[simp] theorem otp_requestUpdate (m : Nat) (d : Dev) : (requestUpdate m d).otp = d.otp := by simp [requestUpdate, apply_ite Dev.otp]

@[simp] theorem otp_firmwareData (m off : Nat) (bs : List Byte) (d : Dev) :
    (firmwareData m off bs d).otp = d.otp := by simp [firmwareData, apply_ite Dev.otp]

@[simp] theorem otp_verifyComplete (m : Nat) (d : Dev) : (verifyComplete m d).otp = d.otp := by simp [verifyComplete, apply_ite Dev.otp]

@[simp] theorem otp_activateFirmware (m : Nat) (d : Dev) :
    (activateFirmware m d).otp = d.otp := by simp [activateFirmware, apply_ite Dev.otp]

@[simp] theorem otp_cancelUpdate (m : Nat) (d : Dev) : (cancelUpdate m d).otp = d.otp := by simp [cancelUpdate, apply_ite Dev.otp]

@[simp] theorem otp_rollbackCommit (m sess : Nat) (d : Dev) :
    (rollbackCommit m sess d).otp = d.otp := by simp [rollbackCommit, apply_ite Dev.otp]

@[simp] theorem otp_troubleClear (m sess mask : Nat) (d : Dev) :
    (troubleClear m sess mask d).otp = d.otp := by simp [troubleClear, apply_ite Dev.otp]

@[simp] theorem otp_statusMsg (m : Nat) (d : Dev) : (statusMsg m d).otp = d.otp := by simp [statusMsg, apply_ite Dev.otp]

@[simp] theorem otp_logRead (m first n : Nat) (d : Dev) : (logRead m first n d).otp = d.otp := by simp [logRead, apply_ite Dev.otp]

@[simp] theorem otp_troubleRead (m : Nat) (d : Dev) : (troubleRead m d).otp = d.otp := by simp [troubleRead, apply_ite Dev.otp]

@[simp] theorem otp_maintMsg (m sess act obj pch bank row : Nat) (d : Dev) :
    (maintMsg m sess act obj pch bank row d).otp = d.otp := by simp [maintMsg, apply_ite Dev.otp]

@[simp] theorem otp_mctpControl (m cmd arg : Nat) (d : Dev) :
    (mctpControl m cmd arg d).otp = d.otp := by simp [mctpControl, apply_ite Dev.otp]

@[simp] theorem otp_pldmMonitor (m kind arg : Nat) (d : Dev) : (pldmMonitor m kind arg d).otp = d.otp := by
  unfold pldmMonitor
  split
  · rfl
  · split <;> simp

@[simp] theorem otp_spdmMessage (m kind arg : Nat) (auth : Bool) (d : Dev) : (spdmMessage m kind arg auth d).otp = d.otp := by
  unfold spdmMessage
  split
  · rfl
  · split <;> simp

@[simp] theorem otp_nonceDraw (d : Dev) : (nonceDraw d).otp = d.otp := (rfl)

@[simp] theorem otp_mailboxGo (port : Nat) (d : Dev) : (mailboxGo port d).otp = d.otp := by
  unfold mailboxGo
  dsimp only
  (repeat' split) <;> simp

@[simp] theorem otp_debugToken (d : Dev) : (debugToken d).otp = d.otp := by
  unfold debugToken
  split <;> simp

@[simp] theorem otp_trst (d : Dev) : (trst d).otp = d.otp := (rfl)

@[simp] theorem otp_lostRings (pairs rings : List Nat) (d : Dev) : (lostRings pairs rings d).otp = d.otp := by simp [lostRings]

@[simp] theorem otp_dropQueue (bp q : Nat) (d : Dev) : (dropQueue bp q d).otp = d.otp := by
  have h (l : List EItem) (d : Dev) :
      (l.foldl (fun d i => pfcCheckBp i.inBp (match i.src with | some fid => gcFrame fid d | none => d)) d).otp = d.otp :=
    foldl_otp _ _ _ fun d i => by
      rw [otp_pfcCheckBp]
      split <;> simp
  exact otp_ite ((otp_stompTx ..).trans (h ..)) (h ..)

@[simp] theorem otp_queueReset (kind unit : Nat) (tkts pairs rings : List Nat) (d : Dev) :
    (queueReset kind unit tkts pairs rings d).otp = d.otp := by
  unfold queueReset
  dsimp only
  split <;> simp [apply_ite Dev.otp]

/-! ### Bridges and rails -/

@[simp] theorem otp_bridgeReplay (a b : Nat) (again : Bool) (d : Dev) : (bridgeReplay a b again d).otp = d.otp := (rfl)

@[simp] theorem otp_bridgeFailed (a b : Nat) (training : Bool) (d : Dev) :
    (bridgeFailed a b training d).otp = d.otp := by simp [bridgeFailed, apply_ite Dev.otp]

@[simp] theorem otp_railFault (rail : Nat) (d : Dev) : (railFault rail d).otp = d.otp := by simp [railFault]

@[simp] theorem otp_aonLoss (d : Dev) : (aonLoss d).otp = d.otp := (rfl)

@[simp] theorem otp_sysrefLost (d : Dev) : (sysrefLost d).otp = d.otp := by simp [sysrefLost, apply_ite Dev.otp]

@[simp] theorem otp_smbusTimeout (d : Dev) : (smbusTimeout d).otp = d.otp := (rfl)

@[simp] theorem otp_stragglerEval (cl ctx : Nat) (d : Dev) : (stragglerEval cl ctx d).otp = d.otp := by
  unfold stragglerEval
  dsimp only
  (repeat' split) <;> simp

/-! ### The commit of a training step -/

@[simp] theorem otp_trainCommit (q t : Nat) (grads : List (List (Int × List Nat))) (hw : Bool) (d : Dev) :
    (trainCommit q t grads hw d).otp = d.otp := by
  refine otp_ite rfl (otp_ite (by simp) (otp_ite (by simp) (otp_ite (otp_ite rfl ?_) rfl)))
  split <;> rename_i heq <;> simp [otp_of_pair heq]

/-! ### Observability -/

@[simp] theorem otp_freeTags (fr : Bool) (cls : List Nat) (n : Nat) (d : Dev) : (freeTags fr cls n d).otp = d.otp :=
  List.foldlRecOn (motive := fun a : Nat × Dev => a.2.otp = d.otp) cls _ rfl fun _ h _ _ => h

@[simp] theorem otp_countersRead (t : Nat) (c : Cmd) (d : Dev) :
    (countersRead t c d).otp = d.otp := by simp [countersRead, apply_ite Dev.otp]

@[simp] theorem otp_gongLatch (d : Dev) : (gongLatch d).otp = d.otp := by
  unfold gongLatch
  split <;> simp [apply_ite Dev.otp]

@[simp] theorem otp_gongAsk (g : Gong) (d : Dev) : (gongAsk g d).otp = d.otp := by simp [gongAsk, apply_ite Dev.otp]

@[simp] theorem otp_gongSend (n : Nat) (g : Gong) (hops : Nat) (d : Dev) : (gongSend n g hops d).otp = d.otp := by simp [gongSend]

@[simp] theorem otp_gongCmd (t : Nat) (c : Cmd) (d : Dev) : (gongCmd t c d).otp = d.otp := by simp [gongCmd, apply_ite Dev.otp]

@[simp] theorem otp_jodonGong (n : Nat) (d : Dev) : (jodonGong n d).otp = d.otp := by
  unfold jodonGong
  split <;> simp [apply_ite Dev.otp]

@[simp] theorem otp_dumpArm (t : Nat) (c : Cmd) (d : Dev) : (dumpArm t c d).otp = d.otp := by simp [dumpArm, apply_ite Dev.otp]

@[simp] theorem otp_dumpWrite (t : Nat) (d : Dev) : (dumpWrite t d).otp = d.otp := by
  unfold dumpWrite
  split <;> simp [apply_ite Dev.otp]

@[simp] theorem otp_watchdogFire (c : Nat) (d : Dev) : (watchdogFire c d).otp = d.otp := by
  unfold watchdogFire
  split <;> simp [apply_ite Dev.otp]

@[simp] theorem otp_traceOpen (cl : Nat) (f : Frozen) (d : Dev) : (traceOpen cl f d).otp = d.otp := by simp [traceOpen]

@[simp] theorem otp_dumpPut (fn a fuel : Nat) (bs : List Byte) (n : Nat) (d : Dev) : (dumpPut fn a fuel bs n d).2.2.otp = d.otp := by
  induction fuel generalizing bs n d with
  | zero => rfl
  | succ fuel ih =>
    unfold dumpPut
    dsimp only
    split
    · rfl
    · split <;> simp [ih]

@[simp] theorem otp_dumpClusters (fn a size lvl : Nat) (f : Frozen) (cls done : List Nat) (n : Nat) (d : Dev) :
    (dumpClusters fn a size lvl f cls done n d).2.2.2.otp = d.otp := by
  induction cls generalizing done n d with
  | nil => rfl
  | cons cl cls ih =>
    have goOn (r : Bool × Nat × Dev) (h : r.2.2.otp = d.otp) :
        (if r.1 then dumpClusters fn a size lvl f cls (done ++ [cl]) r.2.1 r.2.2 else (done, r.2.1, 2, r.2.2)).2.2.2.otp = d.otp := by
      split
      · exact (ih ..).trans h
      · exact h
    exact iteInduction (motive := fun r : List Nat × Nat × Nat × Dev => r.2.2.2.otp = d.otp) (fun _ => rfl) fun _ => goOn _ (otp_dumpPut ..)

@[simp] theorem otp_rimeDump (p : Nat) (f : Frozen) (d : Dev) : (rimeDump p f d).2.2.otp = d.otp := by
  simp [rimeDump, apply_ite fun r : Nat × Nat × Dev => r.2.2.otp, apply_ite fun r : List Nat × Nat × Nat × Dev => r.2.2.2.otp]

@[simp] theorem otp_rimeDone (p : Nat) (d : Dev) : (rimeDone p d).otp = d.otp := by
  unfold rimeDone
  split <;> simp [apply_ite Dev.otp]

/-! ### Register writes -/

@[simp] theorem otp_gate {f : Dev → Dev} (fn a : Nat) (d : Dev) (h : (f d).otp = d.otp) : (gate fn a f d).otp = d.otp := by
  unfold gate
  split <;> simp [h]

@[simp] theorem otp_portCfgReg (p val : Nat) (d : Dev) : (portCfgReg p val d).otp = d.otp := by simp [portCfgReg]

@[simp] theorem otp_jodonCfgReg (n val : Nat) (fw : Bool) (d : Dev) : (jodonCfgReg n val fw d).otp = d.otp := by simp [jodonCfgReg]

@[simp] theorem otp_gateReg (bp a val : Nat) (d : Dev) : (gateReg bp a val d).otp = d.otp := by simp [gateReg, apply_ite Dev.otp]

@[simp] theorem otp_edgWrite (i o a val : Nat) (fw : Bool) (d : Dev) :
    (edgWrite i o a val fw d).otp = d.otp := by simp [edgWrite, apply_ite Dev.otp]

@[simp] theorem otp_cmpWrite (n o a val : Nat) (d : Dev) : (cmpWrite n o a val d).otp = d.otp := by simp [cmpWrite, apply_ite Dev.otp]

@[simp] theorem otp_stoWrite (i o a val : Nat) (d : Dev) : (stoWrite i o a val d).otp = d.otp := by simp [stoWrite, apply_ite Dev.otp]

@[simp] theorem otp_hubWrite (fn o val : Nat) (fw : Bool) (d : Dev) :
    (hubWrite fn o val fw d).otp = d.otp := by simp [hubWrite, apply_ite Dev.otp]

@[simp] theorem otp_aonWrite (fn o val : Nat) (fw : Bool) (d : Dev) :
    (aonWrite fn o val fw d).otp = d.otp := by simp [aonWrite, apply_ite Dev.otp]

@[simp] theorem otp_baseWrite (busy : Bool) (bad : Dev → Dev) (a val : Nat) (d : Dev) (h : (bad d).otp = d.otp) :
    (baseWrite busy bad a val d).otp = d.otp := by
  simp [baseWrite, h, apply_ite Dev.otp]

@[simp] theorem otp_fnWrite (fn o a val : Nat) (d : Dev) : (fnWrite fn o a val d).otp = d.otp := by simp [fnWrite, apply_ite Dev.otp]

@[simp] theorem otp_regWriteAt (fn a val : Nat) (fw : Bool) (d : Dev) :
    (regWriteAt fn a val fw d).otp = d.otp := by simp [regWriteAt, apply_ite Dev.otp]

@[simp] theorem otp_registerWrite (fn off val : Nat) (fw : Bool) (d : Dev) :
    (registerWrite fn off val fw d).otp = d.otp := by simp [registerWrite, apply_ite Dev.otp]

@[simp] theorem otp_completionTimeout (fn read : Nat) (d : Dev) :
    (completionTimeout fn read d).otp = d.otp := by simp [completionTimeout, apply_ite Dev.otp]

/-! ## Bits of a word in which a field is written -/

/-- A bit of a word in which a field was written: the field's, or the word's. -/
theorem bitOf_setBits (v lo w x i : Nat) :
    bitOf (setBits v lo w x) i = if lo ≤ i ∧ i < lo + w then bitOf x (i - lo) else bitOf v i := by
  simp only [Scope.bitOf_eq_testBit, Egress.setBits_eq]
  rw [Nat.testBit_two_pow_mul_add _ (Nat.mod_lt _ (Nat.two_pow_pos lo))]
  by_cases hlo : i < lo
  · rw [if_pos hlo, if_neg (by omega), Nat.testBit_mod_two_pow]
    simp [hlo]
  · rw [if_neg hlo, Nat.testBit_two_pow_mul_add _ (Nat.mod_lt _ (Nat.two_pow_pos w))]
    by_cases hw : i - lo < w
    · rw [if_pos hw, if_pos (by omega), Nat.testBit_mod_two_pow]
      simp [hw]
    · rw [if_neg hw, if_neg (by omega), Nat.testBit_div_two_pow, Nat.testBit_div_two_pow]
      congr 1
      omega

/-! ## What OTP may become (R543, R602, R615 to R618, R622) -/

/-- OTP may have become `o'`: what no command programs is as it was, and what was burned stays burned. -/
structure OtpGrows (o o' : Otp) : Prop where
  serial : o'.serial = o.serial
  fwKeys : o'.fwKeys = o.fwKeys
  fwRevoked : o'.fwRevoked = o.fwRevoked
  plynhar : o'.plynhar = o.plynhar
  arrays : o'.arrays = o.arrays
  maps : o'.maps = o.maps
  fuses : o.fuses ≤ o'.fuses
  copies : o'.life.length = o.life.length
  burned : ∀ j k, bitOf (lget 0 o.life j) k = true → bitOf (lget 0 o'.life j) k = true
  used : ∀ g, (tget {} o.gens g).used = true → (tget {} o'.gens g).used = true
  wiped : o.wipeDone = true → o'.wipeDone = true

namespace OtpGrows

theorem refl (o : Otp) : OtpGrows o o :=
  ⟨rfl, rfl, rfl, rfl, rfl, rfl, Nat.le_refl _, rfl, fun _ _ h => h, fun _ h => h, fun h => h⟩

theorem of_eq {o o' : Otp} (h : o' = o) : OtpGrows o o' := h ▸ refl o

theorem trans {a b c : Otp} (h : OtpGrows a b) (h' : OtpGrows b c) : OtpGrows a c where
  serial := h'.serial.trans h.serial
  fwKeys := h'.fwKeys.trans h.fwKeys
  fwRevoked := h'.fwRevoked.trans h.fwRevoked
  plynhar := h'.plynhar.trans h.plynhar
  arrays := h'.arrays.trans h.arrays
  maps := h'.maps.trans h.maps
  fuses := h.fuses.trans h'.fuses
  copies := h'.copies.trans h.copies
  burned j k hb := h'.burned j k (h.burned j k hb)
  used g hu := h'.used g (h.used g hu)
  wiped hw := h'.wiped (h.wiped hw)

/-- The anti-rollback thermometer is burned up to a version (R543). -/
theorem raiseFloor (o : Otp) (sv : Nat) : OtpGrows o { o with fuses := max o.fuses sv } :=
  { refl o with fuses := Nat.le_max_left .. }

/-- A configuration slot is consumed (R617). -/
theorem useSlot (o : Otp) (g : Nat) (x : OtpGen) (hx : x.used = true) : OtpGrows o { o with gens := tput {} o.gens g x } :=
  { refl o with
    used := fun k hk => by
      rw [tget_tput]
      split
      · exact hx
      · exact hk }

/-- The wipe of RETURN has ended (R623). -/
theorem wipeEnd (o : Otp) : OtpGrows o { o with wipeDone := true } := { refl o with wiped := fun _ => rfl }

theorem ownerRoot (o : Otp) (k : List Byte) : OtpGrows o { o with ownerRoot := k } := { refl o with }

end OtpGrows

theorem bitOf_lget_map {f : Nat → Nat} (hf : ∀ c k, bitOf c k = true → bitOf (f c) k = true) (l : List Nat) (j k : Nat)
    (h : bitOf (lget 0 l j) k = true) : bitOf (lget 0 (l.map f) j) k = true := by
  unfold lget at h ⊢
  rw [List.getElem?_map]
  cases hj : l[j]? with
  | none => simp [hj, bitOf] at h
  | some c => exact hf c k (by simpa [hj] using h)

/-- A bit of the life-cycle thermometer is burned (R615, R618). -/
theorem grows_burnLife (k : Nat) (d : Dev) : OtpGrows d.otp (burnLife k d).otp :=
  { OtpGrows.refl d.otp with
    copies := List.length_map ..
    burned := bitOf_lget_map (fun c i hc => by
      rw [bitOf_setBits]
      split
      · rw [show i - k = 0 by omega]
        rfl
      · exact hc) d.otp.life }

/-- A table's used slots are used in any table made of it by a change that keeps them so. -/
theorem used_tmap {f : Nat → OtpGen → OtpGen} (hf : ∀ g x, x.used = true → (f g x).used = true) (t : Tab OtpGen) (g : Nat)
    (h : (tget {} t g).used = true) : (tget {} (tmap {} f t) g).used = true := by
  induction t with
  | nil => exact h
  | cons e t ih =>
    obtain ⟨j, x⟩ := e
    have hcons : tmap {} f ((j, x) :: t) = if f j x ≠ {} then (j, f j x) :: tmap {} f t else tmap {} f t := by
      simp [tmap, List.filter_cons]
    rw [hcons]
    by_cases hj : j = g
    · subst hj
      have hx : (f j x).used = true := hf j x (by simpa [tget] using h)
      rw [if_pos (fun hd => by simp [hd] at hx)]
      simpa [tget] using hx
    · simp only [tget, if_neg hj] at h
      split
      · simpa [tget, hj] using ih h
      · exact ih h

/-- The owner's key digests read as ones once RETURN has begun its wipe (R623). -/
theorem grows_wipeKeys (d : Dev) : OtpGrows d.otp (wipeKeys d).otp :=
  { OtpGrows.refl d.otp with
    used := by
      simp only [wipeKeys, onOtp_otp]
      exact used_tmap (fun g x hx => by simp [hx]) _ }

theorem OtpGrows.ite {o : Otp} {c : Prop} [Decidable c] {a b : Dev} (ha : OtpGrows o a.otp) (hb : OtpGrows o b.otp) :
    OtpGrows o (if c then a else b).otp := by
  split <;> assumption

/-- A growth goes on where OTP is left as it is. -/
theorem OtpGrows.still {o : Otp} {d d' : Dev} (h : OtpGrows o d.otp) (h' : d'.otp = d.otp) : OtpGrows o d'.otp := h' ▸ h

/-! ## The boot and the resets -/

theorem grows_bootBegin (d : Dev) : OtpGrows d.otp (bootBegin d).otp := by
  unfold bootBegin
  extract_lets gen now begun
  split
  · exact .refl _
  · next wiping _ =>
    have hwipe : OtpGrows d.otp wiping.otp := .ite (grows_wipeKeys begun) (.refl _)
    exact .ite (hwipe.still (by simp)) (.ite (hwipe.still rfl) (hwipe.still (otp_bootSlot _)))

theorem grows_startBoot (d : Dev) : OtpGrows d.otp (startBoot d).otp :=
  .ite (.refl _) (.ite (.refl _) (grows_bootBegin d))

theorem grows_coldReset (straps : Nat) (temps : List Int) (d : Dev) : OtpGrows d.otp (coldReset straps temps d).otp :=
  otp_coldWipe straps temps d ▸ grows_startBoot _

theorem grows_sysRstRelease (d : Dev) : OtpGrows d.otp (sysRstRelease d).otp := by
  unfold sysRstRelease
  split
  · exact (OtpGrows.of_eq (by simp)).trans (grows_startBoot _)
  · exact .refl _

/-- Device-ready ends a wipe of RETURN. -/
theorem grows_bootReady (d : Dev) : OtpGrows d.otp (bootReady d).otp := by
  have hwipe : OtpGrows d.otp (when d.boot.wiping (onOtp (fun o => { o with wipeDone := true })) d).otp := .ite (.wipeEnd _) (.refl _)
  refine hwipe.still ((foldl_otp _ _ _ fun d f => otp_fnReset f d).trans ?_)
  split <;> simp

theorem grows_bootStepDone (bad : Nat) (clean : Bool) (d : Dev) : OtpGrows d.otp (bootStepDone bad clean d).otp := by
  refine .ite (.refl _) ?_
  split
  · exact .of_eq (by simp [apply_ite Dev.otp])
  · exact .of_eq (by simp [apply_ite Dev.otp])
  · exact .of_eq (by simp [apply_ite Dev.otp])
  · exact .of_eq (by simp [apply_ite Dev.otp])
  · exact .ite (grows_bootReady d) (.refl _)
  · exact .refl _

/-! ## The programs of OTP (R543, R617, R620 to R623) -/

/-- Of the island's activities only the commit of a rollback programs OTP. -/
theorem grows_maintDone (act obj out : Nat) (d : Dev) : OtpGrows d.otp (maintDone act obj out d).otp := by
  unfold maintDone
  split
  · exact .refl _
  · dsimp only
    split
    case h_7 r _ _ =>
      exact .ite ((OtpGrows.raiseFloor d.otp d.isl.runSv).trans (.of_eq (by simp))) (.refl _)
    all_goals exact .of_eq (by simp [apply_ite Dev.otp])

theorem grows_cfgWrite (ok : Bool) (d : Dev) : OtpGrows d.otp (cfgWrite ok d).otp := by
  unfold cfgWrite
  split
  · exact .refl _
  · refine .ite (.of_eq (by simp)) (.ite (.of_eq (by simp)) ?_)
    exact (OtpGrows.useSlot d.otp _ _ (by cases ok <;> rfl)).still (otp_mboxEnd ..)

theorem grows_lcOwn (d : Dev) : OtpGrows d.otp (lcOwn d).otp := by
  unfold lcOwn
  split
  · exact .refl _
  · next p _ =>
      have hroot : OtpGrows d.otp (onOtp (fun o => { o with ownerRoot := Config.sha384 p }) d).otp := .ownerRoot ..
      exact (hroot.trans (grows_burnLife 1 _)).still (otp_mboxEnd ..)

/-- LC_RETURN and LC_VOID burn a bit and reset the device. -/
theorem grows_burnReset (k : Nat) (d : Dev) : OtpGrows d.otp (startBoot (warmReset 2 (mboxEnd .ok (burnLife k d)))).otp :=
  ((grows_burnLife k d).still (by simp)).trans (grows_startBoot _)

theorem grows_lcReturn (d : Dev) : OtpGrows d.otp (lcReturn d).otp := by
  unfold lcReturn
  split
  · exact .refl _
  · exact grows_burnReset 2 d

theorem grows_lcVoid (d : Dev) : OtpGrows d.otp (Machine.lcVoid d).otp := by
  unfold Machine.lcVoid
  split
  · exact .refl _
  · exact grows_burnReset 3 d

theorem grows_jtagInstr (k : Nat) (d : Dev) : OtpGrows d.otp (jtagInstr k d).otp :=
  .ite (.ite (grows_burnLife 0 _) (.refl _)) (.refl _)

/-! ## Every command -/

/-- What a command leaves of OTP is what its effect on the device leaves. -/
theorem grows_of_exec {c : Instr} {f : Dev → Dev} {s t : State} (hx : ∀ s, exec c s = runIf (wellFormed c) f s)
    (hf : OtpGrows s.dev.otp (f s.dev).otp) (h : exec c s = .next t) : OtpGrows s.dev.otp t.dev.otp := by
  rcases runIf_cases (wellFormed c) f s with ⟨-, hr⟩ | ⟨-, hr⟩
  · cases hr.symm.trans ((hx s).symm.trans h)
    exact hf
  · cases hr.symm.trans ((hx s).symm.trans h)

/-- A command of the boot, of a reset or of a program of OTP lets OTP grow; every other leaves it as it was. -/
theorem grows_exec (c : Instr) {s t : State} (h : exec c s = .next t) : OtpGrows s.dev.otp t.dev.otp := by
  cases c
  case coldReset straps temps => exact grows_of_exec (fun _ => rfl) (grows_coldReset straps temps _) h
  case sysRstNRelease => exact grows_of_exec (fun _ => rfl) (grows_sysRstRelease _) h
  case bootStepDone bad clean => exact grows_of_exec (fun _ => rfl) (grows_bootStepDone bad clean _) h
  case maintActivityDone act obj out => exact grows_of_exec (fun _ => rfl) (grows_maintDone act obj out _) h
  case cfgWrite ok => exact grows_of_exec (fun _ => rfl) (grows_cfgWrite ok _) h
  case lcOwn => exact grows_of_exec (fun _ => rfl) (grows_lcOwn _) h
  case lcReturn => exact grows_of_exec (fun _ => rfl) (grows_lcReturn _) h
  case lcVoid => exact grows_of_exec (fun _ => rfl) (grows_lcVoid _) h
  case jtagInstruction k => exact grows_of_exec (fun _ => rfl) (grows_jtagInstr k _) h
  all_goals exact grows_of_exec (fun _ => rfl) (.of_eq (by simp)) h

/-- Settles O59: a tick and every command but those of the boot, of the resets and of the programs of OTP leave OTP as it was; in those
it grows. -/
theorem otpOnlyGrows : Obligations.OtpOnlyGrows := by
  intro s t h o o'
  have hg : OtpGrows o o' := by
    rcases step_cases s with ⟨-, hs⟩ | ⟨c, rest, -, hs⟩
    · cases hs.symm.trans h
      exact .of_eq (otp_tick s.dev)
    · have hc := grows_exec c (hs.symm.trans h)
      exact hc
  exact ⟨hg.serial, hg.fwKeys, hg.fwRevoked, hg.plynhar, hg.arrays, hg.maps, hg.fuses, hg.copies, hg.burned, hg.used, hg.wiped⟩

end Sys2Proof.Otp

/-! ## The passing of a nanosecond -/

namespace Sys2Proof.Ticks

open Sys2Proof.Machine Sys2Proof.Safety Sys2Proof.Laws

/-! ## Busy counters (R555) -/

/-- The device but for its counts. -/
def uncounted (d : Dev) : Dev := { d with ctr := [], obs := {} }

theorem uncounted_coreCount (x : Ctr) (c : Nat) (tg : Nat × Nat) (n : Nat) (d : Dev) : uncounted (coreCount x c tg n d) = uncounted d := by
  unfold coreCount
  split
  · rfl
  · dsimp only
    split
    · unfold tagAdd
      dsimp only
      split
      · rfl
      · split <;> rfl
    · rfl

theorem uncounted_foldl {α : Type} {f : Dev → α → Dev} (hf : ∀ d x, uncounted (f d x) = uncounted d) (l : List α) (d : Dev) :
    uncounted (l.foldl f d) = uncounted d :=
  List.foldlRecOn (motive := fun d' => uncounted d' = uncounted d) l f rfl fun d' h x _ => (hf d' x).trans h

theorem uncounted_busyTick (d : Dev) : uncounted (busyTick d) = uncounted d := by
  refine uncounted_foldl (fun d e => ?_) _ d
  split
  · refine (uncounted_foldl (fun d k => ?_) _ _).trans (uncounted_coreCount ..)
    split
    · exact uncounted_coreCount ..
    · rfl
  · rfl

/-! ## Corrections of the clocks (R510, R517, R521, R522) -/

/-- A correction brings a nanosecond more or less at most. -/
theorem accrue_snd (acc rate : Int) : (accrue acc rate).2 = 0 ∨ (accrue acc rate).2 = 1 ∨ (accrue acc rate).2 = -1 := by
  unfold accrue
  dsimp only
  split
  · exact .inr (.inl rfl)
  · split
    · exact .inr (.inr rfl)
    · exact .inl rfl

/-- No correction brings nothing, where less than a nanosecond has been gathered. -/
theorem accrue_zero {acc : Int} (hlo : -1000000000 < acc) (hhi : acc < 1000000000) : accrue acc 0 = (acc, 0) := by
  unfold accrue
  dsimp only
  rw [Int.add_zero, if_neg (by omega), if_neg (by omega)]

theorem lockSecs_lockTick (c : Int) {t : Time} (h : t.lockSecs.length ≤ 16) : (lockTick c t).lockSecs.length ≤ 16 := by
  unfold lockTick
  split
  · exact h
  · split
    · exact h
    · simp only [List.length_drop, List.length_append, List.length_singleton]
      omega

/-- A slew never moves the offset away from zero. -/
theorem natAbs_slew_le {d : Dev} (hlo : -1000000000 < d.time.sacc) (hhi : d.time.sacc < 1000000000) :
    (d.time.slew - (accrue d.time.sacc (slewRate d)).2).natAbs ≤ d.time.slew.natAbs := by
  unfold slewRate accrue
  dsimp only
  split
  · rw [if_neg (by omega), if_neg (by omega)]
    simp
  · split
    · rw [if_neg (by omega)]
      split <;> dsimp only <;> omega
    · split
      · dsimp only
        omega
      · rw [if_neg (by omega)]
        simp

/-- What a nanosecond leaves: the counts and the clocks aside, all as it was. -/
theorem tick_eq (d : Dev) : tick d = { d with ctr := (tick d).ctr, obs := (tick d).obs, time := (tick d).time } := by
  have h : uncounted (busyTick d) = uncounted d := uncounted_busyTick d
  calc tick d = { uncounted (busyTick d) with ctr := (tick d).ctr, obs := (tick d).obs, time := (tick d).time } := rfl
    _ = _ := by rw [h]; rfl

/-- The clocks after a nanosecond. -/
theorem time_tick (d : Dev) : (tick d).time = { lockTick (accrue d.time.sacc (slewRate d)).2 d.time with
    beat := (d.time.beat + (1 + (accrue d.time.bacc d.time.steer).2).toNat) % 2 ^ 64, bacc := (accrue d.time.bacc d.time.steer).1
    todNs := (d.time.todNs + (1 + (accrue d.time.tacc (todRate d)).2 + (accrue d.time.sacc (slewRate d)).2).toNat) % (2 ^ 48 * 1000000000)
    tacc := (accrue d.time.tacc (todRate d)).1, sacc := (accrue d.time.sacc (slewRate d)).1
    slew := d.time.slew - (accrue d.time.sacc (slewRate d)).2 } := by
  have h : uncounted (busyTick d) = uncounted d := uncounted_busyTick d
  have ht : (busyTick d).time = d.time := by
    change (uncounted (busyTick d)).time = (uncounted d).time
    rw [h]
  have hrate : todRate (busyTick d) = todRate d := by
    change todRate (uncounted (busyTick d)) = todRate (uncounted d)
    rw [h]
  have hslew : slewRate (busyTick d) = slewRate d := by
    change slewRate (uncounted (busyTick d)) = slewRate (uncounted d)
    rw [h]
  unfold tick
  simp only [onTime_time, ht, hrate, hslew]

/-- Settles O56: the tick's corrections are worked out one by one; the busy counters are all else that moves. -/
theorem idleStepsPassTime : Obligations.IdleStepsPassTime := by
  intro d t m
  have ht := time_tick d
  have hbeat := accrue_snd t.bacc t.steer
  have htod := accrue_snd t.tacc (todRate d)
  have hslew := accrue_snd t.sacc (slewRate d)
  refine ⟨tick d, rfl, ⟨(1 + (accrue t.bacc t.steer).2).toNat, by omega, by rw [ht]⟩, fun hsteer hlo hhi => ?_,
    ⟨(1 + (accrue t.tacc (todRate d)).2 + (accrue t.sacc (slewRate d)).2).toNat, by omega, by rw [ht]⟩,
    fun hs hst hlo hhi hslo hshi => ?_, fun hlo hhi => ?_, fun hsecs => ?_, ?_⟩
  · have h0 : accrue d.time.bacc d.time.steer = (d.time.bacc, 0) := by
      rw [show d.time.steer = 0 from hsteer]
      exact accrue_zero hlo hhi
    rw [ht, h0]
    exact ⟨rfl, rfl⟩
  · have hrate : todRate d = 0 := by
      unfold todRate
      simp [show d.time.tstate = 1 from hst]
    have hsr : slewRate d = 0 := if_pos hs
    rw [ht, hrate, hsr, accrue_zero hlo hhi, accrue_zero hslo hshi]
    rfl
  · rw [ht]
    exact natAbs_slew_le hlo hhi
  · rw [ht]
    exact lockSecs_lockTick _ hsecs
  · rw [tick_eq d]
    exact ⟨rfl, rfl, rfl, rfl, rfl, rfl, rfl, rfl, rfl, rfl, rfl, rfl, rfl⟩

end Sys2Proof.Ticks

/-! ## The time of day -/

namespace Sys2Proof.TimeOfDay

open Sys2Proof.Machine Sys2Proof.Safety Sys2Proof.Laws

/-! ### The state that follows the references (R521) -/

/-- What `todFollow` leaves: the state of the time of day aside, all as it was. -/
theorem todFollow_eq (d : Dev) : todFollow d = { d with time := { d.time with tstate := (todFollow d).time.tstate } } := by
  unfold todFollow
  split
  · split <;> rfl
  · split <;> rfl

theorem tstate_todFollow_locked {d : Dev} (hv : phaseValid d = true) (hp : d.time.stepPend = none) (hs : d.time.stepSec = none) :
    (todFollow d).time.tstate = 1 := by
  simp [todFollow, hv, hp, hs, onTime]

theorem tstate_todFollow_holdover {d : Dev} (hv : phaseValid d = false) (h1 : d.time.tstate = 1) : (todFollow d).time.tstate = 2 := by
  simp [todFollow, hv, h1, onTime]

/-! ### An offset presented (R522) -/

/-- What presenting an offset does to the clocks. -/
def presented (off : Int) (t : Time) : Time :=
  if -500000 < off ∧ off < 500000 then { t with slew := off, slewing := decide (off ≠ 0), stepPend := none }
  else { t with slew := 0, slewing := false, stepPend := some off }

theorem present_eq (off : Int) (d : Dev) : present off d = { d with time := presented off d.time } := rfl

/-- What is left alone by an offset presented. -/
theorem presented_keeps (off : Int) (t : Time) : (presented off t).beat = t.beat ∧ (presented off t).todNs = t.todNs ∧
    (presented off t).stepSec = t.stepSec ∧ (presented off t).ppsValid = t.ppsValid ∧ (presented off t).swValid = t.swValid ∧
    (presented off t).ppsLast = t.ppsLast ∧ (presented off t).swLast = t.swLast := by
  unfold presented
  split <;> exact ⟨rfl, rfl, rfl, rfl, rfl, rfl, rfl⟩

/-- A small offset is slewed, a larger one awaits a step. -/
theorem presented_spec (off : Int) (t : Time) :
    (-500000 < off → off < 500000 →
      (presented off t).slew = off ∧ (presented off t).slewing = decide (off ≠ 0) ∧ (presented off t).stepPend = none) ∧
    ((off ≤ -500000 ∨ 500000 ≤ off) →
      (presented off t).slew = 0 ∧ (presented off t).slewing = false ∧ (presented off t).stepPend = some off) := by
  unfold presented
  refine ⟨fun hlo hhi => ?_, fun hout => ?_⟩
  · rw [if_pos ⟨hlo, hhi⟩]
    exact ⟨rfl, rfl, rfl⟩
  · rw [if_neg (by omega)]
    exact ⟨rfl, rfl, rfl⟩

/-! ### References lost, seconds asked for (R520, R522) -/

theorem time_todFollow (d : Dev) : (todFollow d).time = { d.time with tstate := (todFollow d).time.tstate } := by
  have h := todFollow_eq d
  conv_lhs => rw [h]

/-- Two silent seconds after the last edge. -/
theorem ppsInLost_of_late {d : Dev} {b : Nat} (hb : d.time.ppsLast = some b) (hv : d.time.ppsValid = true) (h : b + 2001000000 ≤ beat d) :
    ppsInLost d = todFollow (bump .ppsInMissing 0 0
      { d with time := { d.time with ppsValid := false, ppsLast := none, ppsGood := 0 } }) := by
  unfold ppsInLost
  rw [hb]
  exact if_pos ⟨hv, h⟩

theorem ppsInLost_of_not {d : Dev} {b : Nat} (hb : d.time.ppsLast = some b) (h : d.time.ppsValid = false ∨ beat d < b + 2001000000) :
    ppsInLost d = d := by
  unfold ppsInLost
  rw [hb]
  refine if_neg fun ⟨hv, hlate⟩ => ?_
  rcases h with h | h
  · simp [h] at hv
  · omega

/-- The clocks after an adjustment by software, before its offset is presented. -/
def adjusted (d : Dev) : Time := { d.time with swValid := regFld d rTodCtrl 2 1 == 1, swLast := beat d }

theorem todSetGo_spec (go : Nat) (d : Dev) : regFld (todSetGo go d) rTodSetHi 0 16 = go % 65536 ∧
    (todSetGo go d).time = (if bitOf go 31 then { d.time with stepSec := some (regVal d rTodSetLo + go % 65536 * 2 ^ 32) } else d.time) ∧
    todSetGo go d = { d with time := (todSetGo go d).time, regs := (todSetGo go d).regs } := by
  have hgo : bitsOf go 0 16 = go % 65536 := by simp [bitsOf]
  have hlo : regVal (setFld rTodSetHi 0 16 (go % 65536) d) rTodSetLo = regVal d rTodSetLo := by
    rw [regVal_setFld, if_neg (by decide)]
  have hfld : regFld (setFld rTodSetHi 0 16 (go % 65536) d) rTodSetHi 0 16 = go % 65536 := by
    rw [Generation.regFld_setFld_same]
    exact Nat.mod_mod ..
  unfold todSetGo when
  rw [hgo]
  dsimp only
  rw [hlo]
  split
  · exact ⟨hfld, rfl, rfl⟩
  · exact ⟨hfld, rfl, rfl⟩

/-! ### Edges of PPS_IN (R520 to R522) -/

section

variable {d : Dev}

/-- An edge while PPS_IN is not enabled is time-stamped only. -/
theorem ppsInEdge_of_disabled (hen : regFld d rTodCtrl 0 1 = 0) :
    ppsInEdge d = { d with time := { d.time with ppsNs := d.time.todNs % 1000000000 } } := if_pos hen

/-- The clocks after an edge that stands at its second. -/
def edgeTaken (d : Dev) : Time := { d.time with ppsNs := d.time.todNs % 1000000000, ppsLast := some (beat d) }

/-- A valid reference presents its offset with an edge near its instant. -/
theorem ppsInEdge_of_near (hen : regFld d rTodCtrl 0 1 = 1) (hv : d.time.ppsValid = true) {b : Nat} (hb : d.time.ppsLast = some b)
    (hnear : (beat d - b) % 1000000000 ≤ 1000000 ∨ 999000000 ≤ (beat d - b) % 1000000000) :
    ppsInEdge d = todFollow { d with time := presented (edgeOffset d.time.todNs) (edgeTaken d) } := by
  have hen' : ¬ regFld d rTodCtrl 0 1 = 0 := by omega
  unfold ppsInEdge
  refine (if_neg hen').trans ((if_pos hv).trans ((if_pos ?_).trans rfl))
  change (beat d - d.time.ppsLast.getD (beat d)) % 1000000000 ≤ _ ∨ _ ≤ (beat d - d.time.ppsLast.getD (beat d)) % 1000000000
  rw [hb]
  exact hnear

/-- One far from its instant is time-stamped only. -/
theorem ppsInEdge_of_far (hen : regFld d rTodCtrl 0 1 = 1) (hv : d.time.ppsValid = true) {b : Nat} (hb : d.time.ppsLast = some b)
    (hlo : 1000000 < (beat d - b) % 1000000000) (hhi : (beat d - b) % 1000000000 < 999000000) :
    ppsInEdge d = { d with time := { d.time with ppsNs := d.time.todNs % 1000000000 } } := by
  have hen' : ¬ regFld d rTodCtrl 0 1 = 0 := by omega
  unfold ppsInEdge
  refine (if_neg hen').trans ((if_pos hv).trans (if_neg ?_))
  change ¬ ((beat d - d.time.ppsLast.getD (beat d)) % 1000000000 ≤ _ ∨ _ ≤ (beat d - d.time.ppsLast.getD (beat d)) % 1000000000)
  rw [hb]
  change ¬ ((beat d - b) % 1000000000 ≤ 1000000 ∨ 999000000 ≤ (beat d - b) % 1000000000)
  omega

/-- Whether an edge stands 1 s ± 1 µs after the last one. -/
def oneSecond (d : Dev) : Bool := d.time.ppsLast.any fun b => decide (b + 999999000 ≤ beat d ∧ beat d ≤ b + 1000001000)

/-- The edges counted, this one among them. -/
def goodEdges (d : Dev) : Nat := if oneSecond d then d.time.ppsGood + 1 else 1

/-- An edge of a reference that is not valid yet is counted, and the third in a row makes it valid. -/
theorem ppsInEdge_of_invalid (hen : regFld d rTodCtrl 0 1 = 1) (hv : d.time.ppsValid = false) :
    ppsInEdge d = if 3 ≤ goodEdges d then
        todFollow { d with time := presented (edgeOffset d.time.todNs) { edgeTaken d with ppsGood := goodEdges d, ppsValid := true } }
      else { d with time := { edgeTaken d with ppsGood := goodEdges d } } := by
  have hreg (t : Time) : regFld { d with time := t } rTodCtrl 0 1 = 1 := hen
  rcases hb : d.time.ppsLast with _ | b
  · have hg : goodEdges d = 1 := by simp [goodEdges, oneSecond, hb]
    simp [ppsInEdge, onTime, hreg, hb, hv, hg, edgeTaken]
  · by_cases hn : b + 999999000 ≤ beat d ∧ beat d ≤ b + 1000001000
    · have hg : goodEdges d = d.time.ppsGood + 1 := by
        rw [goodEdges, oneSecond, hb, Option.any_some, decide_eq_true hn, if_pos rfl]
      simp only [ppsInEdge, onTime, hreg, hb, hv, hg, decide_eq_true hn, present_eq, edgeTaken]
      simp
    · have hg : goodEdges d = 1 := by
        rw [goodEdges, oneSecond, hb, Option.any_some, decide_eq_false hn, if_neg Bool.false_ne_true]
      simp only [ppsInEdge, onTime, hreg, hb, hv, hg, decide_eq_false hn, edgeTaken]
      simp

end

/-! ### The step (R522, R523) -/

/-- A counter of a board port is not the count of steps. -/
theorem ctrVal_todSteps_bump_gateOverrun (bp : Nat) (hbp : bp < 128) (d : Dev) :
    ctrVal (bump .gateOverrun bp 0 d) .todSteps 0 0 = ctrVal d .todSteps 0 0 := by
  rw [bump, ctrVal_bumpN, if_neg]
  intro h
  exact absurd (ctrKey_inj (by omega) (by omega) (by omega) (by omega) h).1 (by decide)

/-- What the gates' jump leaves alone: of the device, all but the gates and the count of overruns. -/
def JumpKeeps (d d' : Dev) : Prop := d' = { d with edge := d'.edge, ctr := d'.ctr } ∧ ctrVal d' .todSteps 0 0 = ctrVal d .todSteps 0 0

theorem jumpKeeps_gateEdge (bp : Nat) (d : Dev) : JumpKeeps d (gateEdge bp d) := ⟨rfl, rfl⟩

theorem JumpKeeps.trans {a b c : Dev} (h : JumpKeeps a b) (h' : JumpKeeps b c) : JumpKeeps a c := by
  refine ⟨?_, h'.2.trans h.2⟩
  rw [h'.1, h.1]

theorem jumpKeeps_gatesJump (d : Dev) : JumpKeeps d (gatesJump d) := by
  refine List.foldlRecOn (motive := fun d' => JumpKeeps d d') _ _ ⟨rfl, rfl⟩ fun d' h bp hbp => h.trans ?_
  have hlt : bp < 128 := List.mem_range.mp (List.mem_filter.mp hbp).1
  refine (jumpKeeps_gateEdge bp d').trans ?_
  dsimp only [when]
  split
  · exact ⟨rfl, ctrVal_todSteps_bump_gateOverrun bp hlt _⟩
  · exact ⟨rfl, rfl⟩

/-- The time that a step makes. -/
def stepNs (d : Dev) : Nat := match d.time.stepSec with
  | some x => x * 1000000000
  | none => (newTod d).toNat % (2 ^ 48 * 1000000000)

/-- The clocks as the step leaves them, before the state follows. -/
def steppedTime (d : Dev) : Time := { d.time with todNs := stepNs d, stepPend := none, stepSec := none, slew := 0, slewing := false }

/-- The device stepped: the state followed, the gates jumped, the step shown and counted. -/
def stepped (d : Dev) : Dev :=
  setFld rTodCtrl 3 1 0 (setFld rTodStatus 7 1 1 (bump .todSteps 0 0 (gatesJump (todFollow (ppsRise { d with time := steppedTime d })))))

/-- The event that tells partition 0's function of the step. -/
def stepEvent (d : Dev) : List Byte := toLe 1 (stepped d).time.tstate ++ toLe 1 d.time.tstate ++ toLe 1 1 ++ zeroBytes 5
  ++ toLe 8 (beat (stepped d)) ++ toLe 8 (wrapInt 64 ((stepNs d : Int) - d.time.todNs))

theorem todStepApply_of_due {d : Dev} (h : stepDue d = true) : todStepApply d = (match partFn (stepped d) 0 with
    | some fn => postEvent fn 0x0012 (stepEvent d) (stepped d)
    | none => stepped d) := by
  unfold todStepApply
  exact if_neg (by simp [h])

theorem todStepApply_of_not_due {d : Dev} (h : stepDue d = false) : todStepApply d = d := if_pos (by simp [h])

/-- The clocks of the device stepped. -/
theorem time_stepped (d : Dev) : (stepped d).time = { steppedTime d with
    tstate := (stepped d).time.tstate, outRise := some (beat d), outHigh := true, outWidth := (stepped d).time.outWidth } := by
  have hj := congrArg (fun x : Dev => x.time) (jumpKeeps_gatesJump (todFollow (ppsRise { d with time := steppedTime d }))).1
  have hf := congrArg (fun x : Dev => x.time) (todFollow_eq (ppsRise { d with time := steppedTime d }))
  have ht : (stepped d).time = (todFollow (ppsRise { d with time := steppedTime d })).time := hj
  rw [ht]
  rw [show (todFollow (ppsRise { d with time := steppedTime d })).time = _ from hf]
  rfl

/-- Partitions, records waiting and the cores stay through the step, until the event is posted. -/
theorem stepped_keeps (d : Dev) : (stepped d).parts = d.parts ∧ (stepped d).recPend = d.recPend ∧ (stepped d).comp = d.comp := by
  have hj := (jumpKeeps_gatesJump (todFollow (ppsRise { d with time := steppedTime d }))).1
  have hf := todFollow_eq (ppsRise { d with time := steppedTime d })
  unfold stepped
  rw [hj, hf]
  exact ⟨rfl, rfl, rfl⟩

theorem ctrVal_stepped (d : Dev) : ctrVal (stepped d) .todSteps 0 0 = ctrVal d .todSteps 0 0 + 1 := by
  have hj := (jumpKeeps_gatesJump (todFollow (ppsRise { d with time := steppedTime d }))).2
  have hf := todFollow_eq (ppsRise { d with time := steppedTime d })
  unfold stepped
  rw [ctrVal_setFld, ctrVal_setFld, ctrVal_bump_same, hj, hf]
  rfl

theorem regFld_stepped_allow (d : Dev) : regFld (stepped d) rTodCtrl 3 1 = 0 := Generation.regFld_setFld_same ..

theorem bitOf_stepped_status (d : Dev) : bitOf (regVal (stepped d) rTodStatus) 7 = true := by
  unfold stepped
  rw [regVal_setFld, if_neg (by decide), Egress.bitOf_eq_bitsOf, ← regFld, Generation.regFld_setFld_same]
  rfl

/-- The step as a whole. -/
theorem stepApplied (s : State) (h : stepDue s.dev = true) : Answers .todStepApply s fun d' =>
    d'.time = (stepped s.dev).time ∧ d'.regs = (stepped s.dev).regs ∧ d'.ctr = (stepped s.dev).ctr ∧ d'.comp = (stepped s.dev).comp ∧
    ∀ fn, partFn s.dev 0 = some fn →
      (tget [] d'.recPend (32 * fn + 16)).length = (tget [] s.dev.recPend (32 * fn + 16)).length + 1 := by
  obtain ⟨hparts, hrec, -⟩ := stepped_keeps s.dev
  have hfn : partFn (stepped s.dev) 0 = partFn s.dev 0 := by rw [partFn, hparts, ← partFn]
  refine ⟨_, Flows.gives_of_exec (exec_todStepApply s) rfl, ?_⟩
  rw [todStepApply_of_due h, hfn]
  cases partFn s.dev 0 with
  | none => exact ⟨rfl, rfl, rfl, rfl, fun fn hn => nomatch hn⟩
  | some fn =>
    refine ⟨rfl, rfl, rfl, rfl, fun fn' hfn' => ?_⟩
    obtain rfl := Option.some.inj hfn'
    simp [postEvent, postRec, hrec]

/-! ### What is presented -/

/-- An offset presented and the state followed: the clocks alone move, and of them the slew, the step that waits and the state. -/
theorem follow_presented (off : Int) (d : Dev) {t : Time} (hb : t.beat = d.time.beat) (ht : t.todNs = d.time.todNs) :
    let d' := todFollow { d with time := presented off t }
    (d' = { d with time := d'.time } ∧ d'.time.beat = d.time.beat ∧ d'.time.todNs = d.time.todNs) ∧
    ((-500000 < off → off < 500000 → d'.time.slew = off ∧ d'.time.slewing = decide (off ≠ 0) ∧ d'.time.stepPend = none) ∧
      ((off ≤ -500000 ∨ 500000 ≤ off) → d'.time.slew = 0 ∧ d'.time.slewing = false ∧ d'.time.stepPend = some off)) ∧
    d'.time.ppsValid = t.ppsValid ∧ d'.time.swValid = t.swValid ∧ d'.time.ppsLast = t.ppsLast ∧ d'.time.swLast = t.swLast := by
  obtain ⟨hbeat, htod, -, hpps, hsw, hlast, hsl⟩ := presented_keeps off t
  intro d'
  have h : d' = _ := todFollow_eq { d with time := presented off t }
  rw [h]
  exact ⟨⟨rfl, hbeat.trans hb, htod.trans ht⟩, presented_spec off t, hpps, hsw, hlast, hsl⟩

/-- A valid authority and no step waiting: the state that follows is LOCKED. -/
theorem tstate_follow_presented {off : Int} {d : Dev} {t : Time} (hv : t.ppsValid = true ∨ t.swValid = true) (hs : t.stepSec = none)
    (hp : (todFollow { d with time := presented off t }).time.stepPend = none) :
    (todFollow { d with time := presented off t }).time.tstate = 1 := by
  obtain ⟨hbeat, htod, hsec, hpps, hsw, -⟩ := presented_keeps off t
  refine tstate_todFollow_locked ?_ ?_ (hsec.trans hs)
  · simpa [phaseValid, hpps, hsw] using hv
  · rw [todFollow_eq] at hp
    exact hp

/-- Settles O48: each event of the time of day, by the case its premises name. -/
theorem timeOfDay : Obligations.TimeOfDay := by
  intro val go s hgo
  dsimp only
  refine ⟨Flows.gives_of_exec (exec_todRead s) rfl, Flows.gives_of_exec (exec_ref10mLost s) rfl,
    Flows.gives_of_exec (exec_ref10mValid s) rfl, fun hen => ?_, fun hen hv => ⟨fun hgap hgood => ?_, fun hgap hgood => ?_⟩,
    fun hen hv b hb => ⟨fun hnear => ?_, fun hlo hhi => ?_⟩, fun b hb => ⟨fun hv hlate => ?_, fun hno => ?_⟩, fun hv hlate => ?_,
    fun hno => ?_, fun hv => ?_, fun hv => ?_, ?_, fun hdue => ?_, fun hdue => ?_, fun h0 => ?_, fun h0 => ?_⟩
  · rw [← ppsInEdge_of_disabled hen]
    exact Flows.gives_of_exec (exec_ppsInEdge s) rfl
  · have hg : goodEdges s.dev = 1 := if_neg (by rw [oneSecond, hgap]; exact Bool.false_ne_true)
    refine ⟨_, Flows.gives_of_exec (exec_ppsInEdge s) rfl, ?_⟩
    rw [ppsInEdge_of_invalid hen hv, hg, if_neg (by omega)]
    exact ⟨⟨rfl, rfl, rfl⟩, hv, rfl, rfl⟩
  · have hg : goodEdges s.dev = s.dev.time.ppsGood + 1 := if_pos hgap
    refine ⟨_, Flows.gives_of_exec (exec_ppsInEdge s) rfl, ?_⟩
    rw [ppsInEdge_of_invalid hen hv, hg, if_pos (by omega)]
    obtain ⟨honly, hpres, hpps, -, hlast, -⟩ := follow_presented (edgeOffset s.dev.time.todNs) s.dev
      (t := { edgeTaken s.dev with ppsGood := s.dev.time.ppsGood + 1, ppsValid := true }) rfl rfl
    exact ⟨honly, hpps, hlast, hpres, fun hp hs => tstate_follow_presented (.inl rfl) hs hp⟩
  · refine ⟨_, Flows.gives_of_exec (exec_ppsInEdge s) rfl, ?_⟩
    rw [ppsInEdge_of_near hen hv hb hnear]
    obtain ⟨honly, hpres, -, -, hlast, -⟩ := follow_presented (edgeOffset s.dev.time.todNs) s.dev (t := edgeTaken s.dev) rfl rfl
    exact ⟨honly, hlast, hpres⟩
  · rw [← ppsInEdge_of_far hen hv hb hlo hhi]
    exact Flows.gives_of_exec (exec_ppsInEdge s) rfl
  · refine ⟨_, Flows.gives_of_exec (exec_ppsInLost s) rfl, ?_⟩
    rw [ppsInLost_of_late hb hv hlate]
    refine ⟨congrArg Time.ppsValid (time_todFollow _), congrArg Time.ppsGood (time_todFollow _), fun hsw h1 => ?_, ?_, ?_⟩
    · exact tstate_todFollow_holdover (by simpa [phaseValid] using hsw) h1
    · rw [todFollow_eq]
      exact ctrVal_bump_same ..
    · rw [todFollow_eq]
      rfl
  · rw [← ppsInLost_of_not hb hno]
    exact Flows.gives_of_exec (exec_ppsInLost s) rfl
  · refine ⟨_, Flows.gives_of_exec (exec_swRefTimeout s) rfl, ?_⟩
    rw [swRefTimeout, if_pos ⟨hv, hlate⟩]
    refine ⟨⟨?_, ?_, ?_⟩, ?_, fun hpps h1 => ?_⟩
    · rw [todFollow_eq]
      rfl
    · rw [time_todFollow]
      rfl
    · rw [time_todFollow]
      rfl
    · rw [time_todFollow]
      rfl
    · exact tstate_todFollow_holdover (by simpa [phaseValid] using hpps) h1
  · have h : swRefTimeout s.dev = s.dev := if_neg fun ⟨hv, hlate⟩ => by
      rcases hno with hno | hno
      · simp [hno] at hv
      · omega
    rw [← h]
    exact Flows.gives_of_exec (exec_swRefTimeout s) rfl
  · refine ⟨_, Flows.gives_of_exec (exec_todAdj val s) rfl, ?_⟩
    rw [todAdj, if_pos hv]
    refine ⟨rfl, ?_, rfl⟩
    rw [Egress.bitOf_eq_bitsOf, ← regFld, Generation.regFld_setFld_same]
    rfl
  · have hv' : ¬ s.dev.time.ppsValid = true := by simp [hv]
    refine ⟨_, Flows.gives_of_exec (exec_todAdj val s) rfl, ?_⟩
    rw [show todAdj val.toNat s.dev = todFollow { s.dev with time := presented (signedOf 32 val.toNat) (adjusted s.dev) } from if_neg hv']
    obtain ⟨honly, hpres, -, hsw, -, hsl⟩ := follow_presented (signedOf 32 val.toNat) s.dev (t := adjusted s.dev) rfl rfl
    refine ⟨honly, hpres, hsl, hsw, fun hen hp hs => tstate_follow_presented (.inr ?_) hs hp⟩
    simp [adjusted, hen]
  · refine ⟨_, Flows.gives_of_exec (exec_todSetGo go s) ?_, ?_⟩
    · simpa [wf_todSetGo, within] using hgo
    · exact todSetGo_spec go s.dev
  · rw [← todStepApply_of_not_due hdue]
    exact Flows.gives_of_exec (exec_todStepApply s) rfl
  · obtain ⟨d', hgives, htime, hregs, hctr, hcomp, hrec⟩ := stepApplied s hdue
    have hst := time_stepped s.dev
    refine ⟨d', hgives, ?_, ?_, ?_, ?_, ?_, ?_, ?_, ?_, ?_, ?_, hrec, hcomp.trans (stepped_keeps s.dev).2.2⟩
    · rw [htime, hst]
      rfl
    · rw [htime, hst]
      rfl
    · rw [htime, hst]
      rfl
    · rw [htime, hst]
      rfl
    · rw [htime, hst]
      rfl
    · rw [htime, hst]
    · rw [htime, hst]
    · rw [regVal, hregs, ← regVal]
      exact bitOf_stepped_status s.dev
    · rw [regFld, regVal, hregs, ← regVal, ← regFld]
      exact regFld_stepped_allow s.dev
    · rw [ctrVal, hctr, ← ctrVal]
      exact ctrVal_stepped s.dev
  · rw [← show todSlewDone s.dev = { s.dev with time := { s.dev.time with slewing := false } } from if_pos h0]
    exact Flows.gives_of_exec (exec_todSlewDone s) rfl
  · rw [← show todSlewDone s.dev = s.dev from if_neg h0]
    exact Flows.gives_of_exec (exec_todSlewDone s) rfl

end Sys2Proof.TimeOfDay

/-! ## Reads of tables changed throughout -/

namespace Sys2Proof.Tables

open Sys2Proof.Machine Sys2Proof.Safety Sys2Proof.Laws

variable {α : Type} {t : Tab α} {lo k : Nat}

/-- A table whose keys begin above a key reads its default there. -/
theorem tget_of_lt (d : α) (h : risingFrom lo t = true) (hk : k < lo) : tget d t k = d := by
  induction t generalizing lo with
  | nil => rfl
  | cons e t ih =>
    simp only [risingFrom, Bool.and_eq_true, decide_eq_true_eq] at h
    rw [tget, if_neg (by omega)]
    exact ih h.2 (by omega)

theorem tfilter_cons (p : Nat → α → Bool) (j : Nat) (v : α) (t : Tab α) :
    tfilter p ((j, v) :: t) = if p j v then (j, v) :: tfilter p t else tfilter p t := List.filter_cons ..

theorem tmap_cons [DecidableEq α] (d : α) (f : Nat → α → α) (j : Nat) (v : α) (t : Tab α) :
    tmap d f ((j, v) :: t) = if f j v = d then tmap d f t else (j, f j v) :: tmap d f t := by
  by_cases h : f j v = d <;> simp [tmap, h]

/-- A read of a table filtered. -/
theorem tget_tfilter (d : α) (p : Nat → α → Bool) (h : risingFrom lo t = true) :
    tget d (tfilter p t) k = if p k (tget d t k) then tget d t k else d := by
  induction t generalizing lo with
  | nil => exact (ite_self d).symm
  | cons e t ih =>
    obtain ⟨j, v⟩ := e
    simp only [risingFrom, Bool.and_eq_true, decide_eq_true_eq] at h
    have ih := ih h.2
    rw [tfilter_cons]
    by_cases hj : j = k
    · subst hj
      rw [tget_of_lt d h.2 (Nat.lt_succ_self j), ite_self] at ih
      by_cases hp : p j v = true <;> simp [tget, ih, hp]
    · by_cases hp : p j v = true <;> simp [tget, ih, hj, hp]

/-- A read of a table mapped. -/
theorem tget_tmap [DecidableEq α] {d : α} {f : Nat → α → α} (hf : ∀ k, f k d = d) (h : risingFrom lo t = true) :
    tget d (tmap d f t) k = f k (tget d t k) := by
  induction t generalizing lo with
  | nil => exact (hf k).symm
  | cons e t ih =>
    obtain ⟨j, v⟩ := e
    simp only [risingFrom, Bool.and_eq_true, decide_eq_true_eq] at h
    have ih := ih h.2
    rw [tmap_cons]
    by_cases hj : j = k
    · subst hj
      rw [tget_of_lt d h.2 (Nat.lt_succ_self j), hf] at ih
      by_cases hv : f j v = d <;> simp [tget, ih, hv]
    · by_cases hv : f j v = d <;> simp [tget, hj, ih, hv]

theorem rising_of_tabWf [DecidableEq α] {d : α} (h : tabWf d t = true) : risingFrom 0 t = true := by
  rw [tabWf, Bool.and_eq_true] at h
  exact h.1

end Sys2Proof.Tables

/-! ## Multi-function pins and PPS_OUT -/

namespace Sys2Proof.Mfio

open Sys2Proof.Machine Sys2Proof.Safety Sys2Proof.Laws

variable {n : Nat} {d : Dev}

/-! ### A pin changed -/

theorem mfioOf_modMfio (n y : Nat) (f : Mfio → Mfio) (d : Dev) :
    mfioOf (modMfio n f d) y = if y = n then f (mfioOf d n) else mfioOf d y := by
  by_cases h : y = n
  · subst h
    simp [mfioOf, modMfio, onPins]
  · simp [mfioOf, modMfio, onPins, h, tget_tput_other]

theorem mfioOf_modMfio_same (n : Nat) (f : Mfio → Mfio) (d : Dev) : mfioOf (modMfio n f d) n = f (mfioOf d n) := by
  rw [mfioOf_modMfio, if_pos rfl]

theorem mfioOf_modMfio_other {n y : Nat} (h : y ≠ n) (f : Mfio → Mfio) (d : Dev) : mfioOf (modMfio n f d) y = mfioOf d y := by
  rw [mfioOf_modMfio, if_neg h]

/-- A change of one pin leaves the others. -/
theorem modMfio_others (f : Mfio → Mfio) : (∀ y, y ≠ n → mfioOf (modMfio n f d) y = mfioOf d y) ∧
    (modMfio n f d).comp = d.comp ∧ (modMfio n f d).boot = d.boot :=
  ⟨fun _ hy => mfioOf_modMfio_other hy .., rfl, rfl⟩

/-- A pin that parks drives nothing. -/
theorem mfioDrive_of_parked {f stop : Nat} (hf : (mfioOf d n).next = some f) (hs : (mfioOf d n).parkEnd = some stop) :
    mfioDrive d n = none := by
  unfold mfioDrive
  exact if_pos ⟨by rw [hf]; rfl, by rw [hs]; rfl⟩

/-! ### Writes of a pin's configuration (R638, R640, R641) -/

section

variable {val : Nat} {fw : Bool}

/-- A function that is none of the six is refused on a pin above 10. -/
theorem mfioWrite_of_refused (hn : 10 < n) (hf : 6 ≤ bitsOf val 0 3) : mfioWrite n val fw d = setFld (rMfioStat n) 2 1 1 d := by
  unfold mfioWrite
  exact (if_neg (by omega)).trans (if_pos hf)

/-- The function that the pin has or is to have leaves the pin. -/
theorem mfioWrite_of_same (hn : 10 < n) (hf : bitsOf val 0 3 < 6) (hm : (mfioOf d n).next.getD (mfioOf d n).func = bitsOf val 0 3) :
    mfioWrite n val fw d = setFld (rMfioCfg n) 0 5 (bitsOf val 0 5) d := by
  unfold mfioWrite
  dsimp only
  rw [if_neg (by omega), if_neg (by omega), if_pos hm]

/-- Another function parks the pin. -/
theorem mfioWrite_of_other (hn : 10 < n) (hf : bitsOf val 0 3 < 6) (hm : (mfioOf d n).next.getD (mfioOf d n).func ≠ bitsOf val 0 3) :
    mfioWrite n val fw d = setFld (rMfioCfg n) 0 5 (bitsOf val 0 5) (mfioSwitch n (bitsOf val 0 3) d) := by
  unfold mfioWrite
  dsimp only
  rw [if_neg (by omega), if_neg (by omega), if_neg hm]

/-- A pin up to 10 takes its out bit, and keeps its function. -/
theorem mfioWrite_of_rail (hn : n ≤ 10) : mfioWrite n val fw d =
    if bitsOf val 0 4 = 6 then setFld (rMfioCfg n) 4 1 (bitsOf val 4 1) d
    else when fw (fwBound 3 3) (setFld (rMfioStat n) 2 1 1 (setFld (rMfioCfg n) 4 1 (bitsOf val 4 1) d)) := by
  unfold mfioWrite
  exact if_pos hn

end

/-- Whether a pin carries a pulse of PPS_OUT that a switch waits for. -/
def midPulse (n : Nat) (d : Dev) : Bool :=
  (mfioOf d n).func == 4 && ppsOut d && !(mfioOf d n).skipPulse && !((mfioOf d n).next.isSome && (mfioOf d n).parkEnd.isSome)

theorem midPulse_iff : midPulse n d = true ↔ (mfioOf d n).func = 4 ∧ ppsOut d = true ∧ (mfioOf d n).skipPulse = false ∧
    ((mfioOf d n).next.isSome && (mfioOf d n).parkEnd.isSome) = false := by
  unfold midPulse
  rw [Bool.and_eq_true, Bool.and_eq_true, Bool.and_eq_true, beq_iff_eq, Bool.not_eq_true', Bool.not_eq_true', and_assoc, and_assoc]

/-- What a switch makes of the pin. -/
theorem mfioOf_mfioSwitch (f : Nat) : ∃ lv, mfioOf (mfioSwitch n f d) n = { mfioOf d n with
    next := some f, parkEnd := if midPulse n d then none else some (beat d + parkNs d), level := lv, lastEdge := none } :=
  ⟨_, mfioOf_modMfio_same ..⟩

theorem mfioSwitch_others (f : Nat) : (∀ y, y ≠ n → mfioOf (mfioSwitch n f d) y = mfioOf d y) ∧
    (mfioSwitch n f d).comp = d.comp ∧ (mfioSwitch n f d).boot = d.boot :=
  ⟨fun _ hy => mfioOf_modMfio_other hy .., rfl, rfl⟩

/-- The log's own count is not the count of attempts beyond a bound. -/
theorem ctrVal_fwBound_logOnly (code sev site unit cls : Nat) (pl : List Byte) (hcls : cls < 2 ^ 24) (d : Dev) :
    ctrVal (logOnly code sev site unit pl d) .fwBound cls 0 = ctrVal d .fwBound cls 0 := by
  have hkey : ctrKey .fwBound cls 0 ≠ ctrKey .logEntries 0 0 := fun h =>
    absurd (ctrKey_inj hcls (by decide) (by decide) (by decide) h).1 (by decide)
  have hctr : (logOnly code sev site unit pl d).ctr = tmod 0 d.ctr (ctrKey .logEntries 0 0) (· + 1) := by
    simp only [logOnly, bump, bumpN_ctr, onIsl_ctr]
  rw [ctrVal, hctr, tget_tmod_other _ _ _ hkey, ctrVal]

/-- An attempt beyond a bound is counted for its class. -/
theorem ctrVal_fwBound (cls kind : Nat) (hcls : cls < 2 ^ 24) (d : Dev) :
    ctrVal (fwBound cls kind d) .fwBound cls 0 = ctrVal d .fwBound cls 0 + 1 := by
  unfold fwBound
  dsimp only
  split
  · exact ctrVal_bump_same ..
  · rw [ctrVal_fwBound_logOnly _ _ _ _ _ _ hcls]
    exact ctrVal_bump_same ..

theorem regVal_mfioCfg_setFld_mfioStat (lo w v : Nat) : regVal (setFld (rMfioStat n) lo w v d) (rMfioCfg n) = regVal d (rMfioCfg n) := by
  rw [regVal_setFld, if_neg (by simp only [rMfioStat, rMfioCfg]; omega)]

theorem refused_setFld_mfioStat : bitOf (regVal (setFld (rMfioStat n) 2 1 1 d) (rMfioStat n)) 2 = true := by
  rw [Egress.bitOf_eq_bitsOf, ← regFld, Generation.regFld_setFld_same]
  rfl

theorem bitsOf_zero_five (val : Nat) : bitsOf val 0 5 % 2 ^ 5 = val % 32 := by
  simp [bitsOf]

/-- What a write of a pin up to 10 does. -/
theorem railWrite_spec (val : Nat) (fw : Bool) (n : Nat) (d : Dev) :
    let d' := if bitsOf val 0 4 = 6 then setFld (rMfioCfg n) 4 1 (bitsOf val 4 1) d
      else when fw (fwBound 3 3) (setFld (rMfioStat n) 2 1 1 (setFld (rMfioCfg n) 4 1 (bitsOf val 4 1) d))
    d'.pins = d.pins ∧ d'.comp = d.comp ∧
    (bitsOf val 0 4 ≠ 6 → fw = true → ctrVal d' .fwBound 3 0 = ctrVal d .fwBound 3 0 + 1) ∧
    (bitsOf val 0 4 ≠ 6 → bitOf (regVal d' (rMfioStat n)) 2 = true) ∧ regFld d' (rMfioCfg n) 4 1 = bitsOf val 4 1 := by
  have hout : regFld (setFld (rMfioCfg n) 4 1 (bitsOf val 4 1) d) (rMfioCfg n) 4 1 = bitsOf val 4 1 :=
    (Generation.regFld_setFld_same ..).trans (Nat.mod_mod ..)
  dsimp only
  split
  · rename_i h6
    exact ⟨rfl, rfl, fun h => absurd h6 h, fun h => absurd h6 h, hout⟩
  · have hregs : (when fw (fwBound 3 3) (setFld (rMfioStat n) 2 1 1 (setFld (rMfioCfg n) 4 1 (bitsOf val 4 1) d))).regs =
        (setFld (rMfioStat n) 2 1 1 (setFld (rMfioCfg n) 4 1 (bitsOf val 4 1) d)).regs := by
      cases fw <;> simp [when]
    refine ⟨?_, ?_, fun _ hfw => ?_, fun _ => ?_, ?_⟩
    · cases fw <;> simp [when]
    · cases fw <;> simp [when]
    · rw [hfw]
      exact ctrVal_fwBound 3 3 (by decide) _
    · rw [regVal, hregs, ← regVal]
      exact refused_setFld_mfioStat
    · rw [regFld, regVal, hregs, ← regVal, regVal_mfioCfg_setFld_mfioStat]
      exact hout

/-! ### Parks, tachometer, pulses -/

/-- A park whose time is up gives the pin its new function. -/
def unpark (d : Dev) (f stop : Nat) (m : Mfio) : Mfio :=
  { m with func := f, next := none, parkEnd := none, tach := 0, winFrom := stop, lastEdge := none, skipPulse := f == 4 && d.time.outHigh }

theorem mfioParkEnd_of_due {g stop : Nat} (hg : (mfioOf d n).next = some g) (hs : (mfioOf d n).parkEnd = some stop) (h : stop ≤ beat d) :
    mfioParkEnd n d = modMfio n (unpark d g stop) d := by
  unfold mfioParkEnd
  simp only [hg, hs, if_pos h]
  rfl

theorem mfioParkEnd_of_early {g stop : Nat} (hg : (mfioOf d n).next = some g) (hs : (mfioOf d n).parkEnd = some stop) (h : beat d < stop) :
    mfioParkEnd n d = d := by
  unfold mfioParkEnd
  simp only [hg, hs, if_neg (Nat.not_le.mpr h)]

theorem mfioParkEnd_of_not (h : (mfioOf d n).next = none ∨ (mfioOf d n).parkEnd = none) : mfioParkEnd n d = d := by
  unfold mfioParkEnd
  rcases h with h | h
  · simp [h]
  · simp [h]

/-- An edge counted. -/
theorem tachEdge_of_counted (hf : (mfioOf d n).func = 5) (hp : parked (mfioOf d n) = false)
    (h : (mfioOf d n).lastEdge.all (fun b => decide (b + 20000 ≤ beat d)) = true) :
    tachEdge n d = modMfio n (fun m => { m with level := false, tach := m.tach + 1, lastEdge := some (beat d) }) d := by
  unfold tachEdge
  dsimp only
  rw [if_neg (by simp [hf, hp])]
  cases hb : (mfioOf d n).lastEdge with
  | none => rfl
  | some b =>
    rw [hb, Option.all_some, decide_eq_true_eq] at h
    exact if_neg (by omega)

/-- One too soon after the last. -/
theorem tachEdge_of_soon (hf : (mfioOf d n).func = 5) (hp : parked (mfioOf d n) = false)
    (h : (mfioOf d n).lastEdge.any (fun b => decide (beat d < b + 20000)) = true) :
    tachEdge n d = modMfio n (fun m => { m with level := false }) d := by
  unfold tachEdge
  dsimp only
  rw [if_neg (by simp [hf, hp])]
  cases hb : (mfioOf d n).lastEdge with
  | none => simp [hb] at h
  | some b =>
    rw [hb, Option.any_some, decide_eq_true_eq] at h
    exact if_pos h

theorem tachWindow_of_due (hf : (mfioOf d n).func = 5) (hp : parked (mfioOf d n) = false) (h : (mfioOf d n).winFrom + 1000000000 ≤ beat d) :
    tachWindow n d = modMfio n (fun m => { m with tach := 0, winFrom := m.winFrom + 1000000000 })
      (setFld (rMfioStat n) 16 16 (min 65535 (mfioOf d n).tach) d) := by
  have hc : (mfioOf d n).func = 5 ∧ ¬ parked (mfioOf d n) ∧ (mfioOf d n).winFrom + 1000000000 ≤ beat d := ⟨hf, by simp [hp], h⟩
  unfold tachWindow
  dsimp only
  rw [if_pos hc]

theorem tach_of_other (h : (mfioOf d n).func ≠ 5 ∨ parked (mfioOf d n) = true) : tachEdge n d = d ∧ tachWindow n d = d := by
  refine ⟨if_pos h, if_neg fun ⟨hf, hp, _⟩ => ?_⟩
  exact h.elim (fun h => h hf) fun h => hp h

/-- The pins that no longer skip a pulse. -/
theorem ppsRise_eq (d : Dev) : ∃ p, ppsRise d = { d with
    pins := p, time := { d.time with outRise := some (beat d), outHigh := true, outWidth := max 1 (min 500000 (regFld d rTodCtrl 5 20)) * 1000 } } :=
  ⟨_, rfl⟩

theorem ppsOutEdge_of_due (hns : d.time.todNs % 1000000000 ≤ 1)
    (h : d.time.outRise.all (fun b => decide (b + 500000000 ≤ beat d)) = true) : ppsOutEdge d = ppsRise d := by
  unfold ppsOutEdge
  cases hb : d.time.outRise with
  | none => exact if_pos ⟨hns, rfl⟩
  | some b =>
    rw [hb, Option.all_some] at h
    exact if_pos ⟨hns, h⟩

theorem ppsOutEdge_of_not (h : 1 < d.time.todNs % 1000000000 ∨ d.time.outRise.any (fun b => decide (beat d < b + 500000000)) = true) :
    ppsOutEdge d = d := by
  unfold ppsOutEdge
  rcases h with h | h
  · exact if_neg fun hc => absurd hc.1 (by omega)
  · cases hb : d.time.outRise with
    | none => simp [hb] at h
    | some b =>
      rw [hb, Option.any_some, decide_eq_true_eq] at h
      refine if_neg fun hc => ?_
      have hlate : decide (b + 500000000 ≤ beat d) = true := hc.2
      rw [decide_eq_true_eq] at hlate
      omega

/-- What the end of a pulse does to a pin: one that waited for it starts its park. -/
def startPark (stop : Nat) (m : Mfio) : Mfio := if m.next.isSome ∧ m.parkEnd.isNone then { m with parkEnd := some stop } else m

theorem startPark_spec (stop : Nat) (m : Mfio) : (startPark stop m).func = m.func ∧ (startPark stop m).next = m.next ∧
    (m.next.isSome = true → (startPark stop m).parkEnd.isSome = true) := by
  unfold startPark
  split
  · exact ⟨rfl, rfl, fun _ => rfl⟩
  · rename_i h
    refine ⟨rfl, rfl, fun hn => ?_⟩
    cases hp : m.parkEnd with
    | none => exact absurd ⟨hn, by rw [hp]; rfl⟩ h
    | some b => rfl

/-- The device at the end of a pulse. -/
def pulseEnded (d : Dev) : Dev :=
  onPins (fun x => { x with mfio := tmap none (fun _ m => m.map (startPark (beat d + parkNs d))) x.mfio })
    (onTime (fun t => { t with outHigh := false }) d)

theorem ppsPulseEnd_of_due {b : Nat} (hb : d.time.outRise = some b) (hh : d.time.outHigh = true) (h : b + d.time.outWidth ≤ beat d) :
    ppsPulseEnd d = pulseEnded d := by
  unfold ppsPulseEnd
  rw [hb]
  exact if_pos ⟨hh, h⟩

theorem ppsPulseEnd_of_not {b : Nat} (hb : d.time.outRise = some b) (h : d.time.outHigh = false ∨ beat d < b + d.time.outWidth) :
    ppsPulseEnd d = d := by
  unfold ppsPulseEnd
  rw [hb]
  refine if_neg fun ⟨hh, hle⟩ => ?_
  rcases h with h | h
  · simp [h] at hh
  · omega

/-- Each pin's function and next function stay, and a pin with a next function has a park to end. -/
theorem mfioOf_pulseEnded (hwf : tabWf none d.pins.mfio = true) (y : Nat) : (mfioOf (pulseEnded d) y).func = (mfioOf d y).func ∧
    (mfioOf (pulseEnded d) y).next = (mfioOf d y).next ∧
    ((mfioOf d y).next.isSome = true → (mfioOf (pulseEnded d) y).parkEnd.isSome = true) := by
  have hget : tget none (pulseEnded d).pins.mfio y = (tget none d.pins.mfio y).map (startPark (beat d + parkNs d)) :=
    Tables.tget_tmap (f := fun _ m => m.map (startPark (beat d + parkNs d))) (fun _ => rfl) (Tables.rising_of_tabWf hwf)
  unfold mfioOf
  rw [hget]
  cases tget none d.pins.mfio y with
  | none => exact ⟨rfl, rfl, fun h => absurd h Bool.false_ne_true⟩
  | some m => exact startPark_spec ..

/-! ### The obligation -/

/-- Settles O44: the writes of a pin, its park, its tachometer and the pulse, each by the cases the statement names. -/
theorem multiFunctionPins : Obligations.MultiFunctionPins := by
  intro n val fw s hn hval
  dsimp only
  have hwrite : Gives (.mfioCfgWrite n val fw) s (mfioWrite n val fw s.dev) :=
    Flows.gives_of_exec (exec_mfioCfgWrite n val fw s) (by simpa [wf_mfioCfgWrite, within] using ⟨hn, hval⟩)
  have hpark : Gives (.mfioParkEnd n) s (mfioParkEnd n s.dev) :=
    Flows.gives_of_exec (exec_mfioParkEnd n s) (by simpa [wf_mfioParkEnd, within] using hn)
  have htach : Gives (.fanTachEdge n) s (tachEdge n s.dev) :=
    Flows.gives_of_exec (exec_fanTachEdge n s) (by simpa [wf_fanTachEdge, within] using hn)
  have hwin : Gives (.tachWindow n) s (tachWindow n s.dev) :=
    Flows.gives_of_exec (exec_tachWindow n s) (by simpa [wf_tachWindow, within] using hn)
  have hrise : Gives .ppsOutEdge s (ppsOutEdge s.dev) := Flows.gives_of_exec (exec_ppsOutEdge s) rfl
  have hfall : Gives .ppsOutPulseEnd s (ppsPulseEnd s.dev) := Flows.gives_of_exec (exec_ppsOutPulseEnd s) rfl
  refine ⟨fun hlo hf => ⟨_, hwrite, ?_⟩, fun hlo hf hm => ⟨_, hwrite, ?_⟩, fun hlo hf hm => ⟨_, hwrite, ?_⟩,
    fun hlo => ⟨_, hwrite, ?_⟩, fun g stop hg hs => ⟨fun h => ?_, fun h => ⟨_, hpark, ?_⟩⟩, fun h => ?_, fun h => ?_,
    fun hf hp => ⟨fun h => ⟨_, htach, ?_⟩, fun h => ⟨_, htach, ?_⟩, fun h => ⟨_, hwin, ?_⟩, fun h => ?_⟩,
    fun hns h => ⟨_, hrise, ?_⟩, fun h => ?_, fun b hb => ⟨fun hh h => ⟨_, hfall, ?_⟩, fun h => ?_⟩⟩
  · rw [mfioWrite_of_refused hlo hf]
    exact ⟨rfl, refused_setFld_mfioStat, regVal_mfioCfg_setFld_mfioStat .., rfl⟩
  · rw [mfioWrite_of_same hlo hf hm]
    exact ⟨rfl, (Generation.regFld_setFld_same ..).trans (bitsOf_zero_five val), rfl⟩
  · rw [mfioWrite_of_other hlo hf hm]
    obtain ⟨lv, hlv⟩ := mfioOf_mfioSwitch (n := n) (d := s.dev) (bitsOf val 0 3)
    have hpin : mfioOf (setFld (rMfioCfg n) 0 5 (bitsOf val 0 5) (mfioSwitch n (bitsOf val 0 3) s.dev)) n = _ := hlv
    refine ⟨mfioSwitch_others _, (Generation.regFld_setFld_same ..).trans (bitsOf_zero_five val), ?_, ?_, fun hmid => ?_, fun hmid => ?_⟩
    · rw [hpin]
    · rw [hpin]
    · rw [hpin]
      exact if_pos (midPulse_iff.mpr hmid)
    · have hend : (if midPulse n s.dev then none else some (beat s.dev + parkNs s.dev)) = _ := if_neg fun h => hmid (midPulse_iff.mp h)
      refine ⟨?_, mfioDrive_of_parked (congrArg Mfio.next hlv) ((congrArg Mfio.parkEnd hlv).trans hend)⟩
      rw [hpin]
      exact hend
  · rw [mfioWrite_of_rail hlo]
    exact railWrite_spec ..
  · rw [← mfioParkEnd_of_early hg hs h]
    exact hpark
  · rw [mfioParkEnd_of_due hg hs h]
    exact ⟨modMfio_others .., congrArg Mfio.func (mfioOf_modMfio_same ..), congrArg Mfio.next (mfioOf_modMfio_same ..),
      congrArg Mfio.tach (mfioOf_modMfio_same ..), rfl⟩
  · rw [← mfioParkEnd_of_not h]
    exact hpark
  · obtain ⟨ht, hw⟩ := tach_of_other h
    exact ⟨ht ▸ htach, hw ▸ hwin⟩
  · rw [tachEdge_of_counted hf hp h]
    exact ⟨modMfio_others .., mfioOf_modMfio_same .., rfl⟩
  · rw [tachEdge_of_soon hf hp h]
    refine ⟨modMfio_others .., ?_, ?_⟩
    · rw [mfioOf_modMfio_same]
    · rw [mfioOf_modMfio_same]
  · rw [tachWindow_of_due hf hp h]
    refine ⟨modMfio_others .., (Generation.regFld_setFld_same ..).trans (Nat.mod_eq_of_lt (by omega)),
      congrArg Mfio.tach (mfioOf_modMfio_same ..), congrArg Mfio.winFrom (mfioOf_modMfio_same ..)⟩
  · rw [← show tachWindow n s.dev = s.dev from if_neg fun ⟨_, _, hle⟩ => by omega]
    exact hwin
  · rw [ppsOutEdge_of_due hns h]
    exact ⟨rfl, rfl⟩
  · rw [← ppsOutEdge_of_not h]
    exact hrise
  · rw [ppsPulseEnd_of_due hb hh h]
    exact ⟨rfl, mfioOf_pulseEnded, rfl⟩
  · rw [← ppsPulseEnd_of_not hb h]
    exact hfall

end Sys2Proof.Mfio

/-! ## Beat synchronisation -/

namespace Sys2Proof.Beats

open Sys2Proof.Machine Sys2Proof.Safety Sys2Proof.Laws

variable {n : Nat} {d : Dev}

/-! ### Messages sent on a link -/

/-- What sending on link `n` may change: that link, the counts and the device's outputs. -/
structure SentOn (n : Nat) (d d' : Dev) : Prop where
  rest : d' = { d with fab := { d.fab with links := d'.fab.links }, ctr := d'.ctr, out := d'.out }
  others : ∀ y, y ≠ n → linkOf d' y = linkOf d y

namespace SentOn

theorem refl (n : Nat) (d : Dev) : SentOn n d d := ⟨rfl, fun _ _ => rfl⟩

theorem trans {a b c : Dev} (h : SentOn n a b) (h' : SentOn n b c) : SentOn n a c where
  rest := by rw [h'.rest, h.rest]
  others := fun y hy => (h'.others y hy).trans (h.others y hy)

theorem modLink (f : Link → Link) (d : Dev) : SentOn n d (modLink n f d) := ⟨rfl, fun _ hy => linkOf_modLink_off f d hy⟩

theorem sendOne (vc : Nat) (d : Dev) : SentOn n d (sendOne n vc d) := by
  unfold Machine.sendOne
  dsimp only
  split
  · exact refl n d
  · rename_i m _
    generalize 1 + (if carriesRows m.type then 8 * m.rows else 0) = k
    split
    · exact refl n d
    · exact (modLink _ d).trans ⟨rfl, fun _ _ => rfl⟩

theorem foldl {α : Type} {f : Dev → α → Dev} (hf : ∀ d x, SentOn n d (f d x)) (l : List α) (d : Dev) : SentOn n d (l.foldl f d) :=
  List.foldlRecOn (motive := fun d' => SentOn n d d') l f (refl n d) fun d' h x _ => h.trans (hf d' x)

theorem pumpLink (d : Dev) : SentOn n d (pumpLink n d) := by
  unfold Machine.pumpLink
  split
  · exact refl n d
  · exact foldl (fun d vc => foldl (fun d _ => sendOne vc d) _ d) _ d

theorem linkSend (m : JMsg) (d : Dev) : SentOn n d (linkSend n m d) := (modLink _ d).trans (pumpLink _)

end SentOn

/-- The BEAT_SYNC that a link sends now. -/
def syncMsg (n : Nat) (d : Dev) : JMsg :=
  { type := 0x68, src := ownPkg d, dst := (linkOf d n).partner
    extra := syncBytes (rootId d) d.time.hops (beat d) (nbrOf d n).t2 (beat d) }

/-- The device that has noted when it sends. -/
def sending (n : Nat) (d : Dev) : Dev := modNbr n (fun y => { y with sent := beat d }) d

/-! ### The choice of a root (R512) -/

/-- A search that keeps the lower root of two ends with a root no higher than any searched. -/
theorem root_foldl_le {f : Option (Nat × Neighbour) → Nat × Neighbour → Option (Nat × Neighbour)}
    (hf : ∀ x e, ∃ b, f (some x) e = some b ∧ b.2.root ≤ x.2.root ∧ b.2.root ≤ e.2.root)
    (l : List (Nat × Neighbour)) (x : Nat × Neighbour) :
    ∃ b, l.foldl f (some x) = some b ∧ b.2.root ≤ x.2.root ∧ ∀ e ∈ l, b.2.root ≤ e.2.root := by
  induction l generalizing x with
  | nil => exact ⟨x, rfl, Nat.le_refl _, fun _ he => nomatch he⟩
  | cons e l ih =>
    obtain ⟨y, hy, hyx, hye⟩ := hf x e
    obtain ⟨b, hb, hby, hbl⟩ := ih y
    refine ⟨b, by rw [List.foldl_cons, hy, hb], hby.trans hyx, fun z hz => ?_⟩
    rcases List.mem_cons.mp hz with rfl | hz
    · exact hby.trans hye
    · exact hbl z hz

theorem root_le_of_nearer {a b : Nat × Neighbour} (h : nearer a b = true) : a.2.root ≤ b.2.root := by
  have := of_decide_eq_true h
  omega

theorem root_le_of_not_nearer {a b : Nat × Neighbour} (h : ¬ nearer a b = true) : b.2.root ≤ a.2.root := by
  have := of_decide_eq_false (Bool.eq_false_iff.mpr h)
  omega

/-- Of two neighbours the one that comes before the other. -/
def keepNearer (best : Option (Nat × Neighbour)) (e : Nat × Neighbour) : Option (Nat × Neighbour) :=
  match best with
  | none => some e
  | some x => if nearer e x then some e else best

theorem keepNearer_some (x e : Nat × Neighbour) : ∃ b, keepNearer (some x) e = some b ∧ b.2.root ≤ x.2.root ∧ b.2.root ≤ e.2.root := by
  by_cases h : nearer e x = true
  · exact ⟨e, if_pos h, root_le_of_nearer h, Nat.le_refl _⟩
  · exact ⟨x, if_neg h, Nat.le_refl _, root_le_of_not_nearer h⟩

theorem bestUp_eq (d : Dev) : bestUp d = ((heardOn d).foldl keepNearer none).filter (fun e => decide (e.2.root < ownPkg d)) := rfl

/-- The upstream is the lowest root heard, where that is below the package's own ID. -/
theorem bestUp_spec (d : Dev) : (bestUp d = none ∧ ∀ e ∈ heardOn d, ownPkg d ≤ e.2.root) ∨
    ∃ b, bestUp d = some b ∧ b.2.root < ownPkg d ∧ ∀ e ∈ heardOn d, b.2.root ≤ e.2.root := by
  rw [bestUp_eq]
  cases hl : heardOn d with
  | nil => exact .inl ⟨rfl, fun _ he => nomatch he⟩
  | cons e l =>
    obtain ⟨b, hb, hbe, hbl⟩ := root_foldl_le keepNearer_some l e
    have hall : ∀ x ∈ e :: l, b.2.root ≤ x.2.root := fun x hx => (List.mem_cons.mp hx).elim (fun h => h ▸ hbe) (hbl x)
    rw [List.foldl_cons, show keepNearer none e = some e from rfl, hb]
    by_cases hlow : b.2.root < ownPkg d
    · exact .inr ⟨b, by simp [Option.filter, hlow], hlow, hall⟩
    · exact .inl ⟨by simp [Option.filter, hlow], fun x hx => (Nat.not_lt.mp hlow).trans (hall x hx)⟩

/-- What an election may change: the clocks, but not the Beat, the time of day or what neighbours said; and the count of merges. -/
structure Elected (d d' : Dev) : Prop where
  rest : d' = { d with time := d'.time, ctr := d'.ctr }
  beat : d'.time.beat = d.time.beat
  tod : d'.time.todNs = d.time.todNs
  nbrs : d'.time.nbrs = d.time.nbrs
  steer : d'.time.steer = d.time.steer ∨ d'.time.steer = 0
  root : d'.time.root = (bestUp d).map (·.2.root)

theorem elected_electBeat (d : Dev) : Elected d (electBeat d) := by
  unfold electBeat when
  cases h : bestUp d with
  | none =>
    dsimp only
    split
    · split
      · exact ⟨rfl, rfl, rfl, rfl, .inr rfl, by rw [h]; rfl⟩
      · exact ⟨rfl, rfl, rfl, rfl, .inr rfl, by rw [h]; rfl⟩
    · split
      · exact ⟨rfl, rfl, rfl, rfl, .inr rfl, by rw [h]; rfl⟩
      · exact ⟨rfl, rfl, rfl, rfl, .inr rfl, by rw [h]; rfl⟩
  | some e =>
    dsimp only
    split
    · split
      · exact ⟨rfl, rfl, rfl, rfl, .inl rfl, by rw [h]; rfl⟩
      · exact ⟨rfl, rfl, rfl, rfl, .inl rfl, by rw [h]; rfl⟩
    · split
      · exact ⟨rfl, rfl, rfl, rfl, .inl rfl, by rw [h]; rfl⟩
      · exact ⟨rfl, rfl, rfl, rfl, .inl rfl, by rw [h]; rfl⟩

/-- The package follows a root no higher than its own ID and than every root heard. -/
theorem rootId_electBeat (d : Dev) : rootId (electBeat d) ≤ ownPkg d ∧ ∀ e ∈ heardOn d, rootId (electBeat d) ≤ e.2.root := by
  have he := elected_electBeat d
  have hroot : rootId (electBeat d) = ((bestUp d).map (·.2.root)).getD (ownPkg d) := by
    rw [rootId, he.root, he.rest]
    rfl
  rw [hroot]
  rcases bestUp_spec d with ⟨h, hall⟩ | ⟨b, h, hlow, hall⟩
  · rw [h]
    exact ⟨Nat.le_refl _, hall⟩
  · rw [h]
    exact ⟨Nat.le_of_lt hlow, hall⟩

/-! ### A message of a neighbour (R512 to R516) -/

/-- The neighbour as its message tells of it. -/
def heardFrom (m : JMsg) (now : Nat) (x : Neighbour) : Neighbour :=
  { x with root := leNat ((m.extra.drop 0).take 1) % 8, hops := leNat ((m.extra.drop 1).take 1) % 8, pkg := m.src
           t1 := leNat ((m.extra.drop 8).take 8), t2 := now, heard := true }

/-- The device that has taken the message and noted its sender. -/
def noted (n : Nat) (m : JMsg) (d : Dev) : Dev := modNbr n (heardFrom m (beat d)) (rxTake n m d)

/-- The device that has also chosen its root. -/
def electedAfter (n : Nat) (m : JMsg) (d : Dev) : Dev := electBeat (noted n m d)

/-- The Beat that the message gives, with half of the round trip that its echo shows. -/
def heardBeat (n : Nat) (m : JMsg) (d : Dev) : Nat :=
  let f (o k : Nat) : Nat := leNat ((m.extra.drop o).take k)
  let x := nbrOf d n
  let delay : Int := if x.sent ≠ 0 ∧ f 16 8 ≠ 0 then (((beat d : Int) - x.sent) - ((f 8 8 : Int) - f 16 8)) / 2 else 0
  ((f 8 8 : Int) + max 0 delay).toNat

/-- A message of a neighbour loads the Beat, is measured against it, or leaves it. -/
theorem beatSync_cases {m : JMsg} (h : rxFind d n (fun m => m.type == 0x68) = some m) :
    (rootId (electedAfter n m d) < rootId d ∧ d.boot.ready = false ∧
      beatSync n d = loadBeat (heardBeat n m d) (electedAfter n m d)) ∨
    ¬ (rootId (electedAfter n m d) < rootId d ∧ d.boot.ready = false) ∧
      ((∃ t1 t2 t3, beatSync n d = measure n t1 t2 t3 (beat d) (electedAfter n m d)) ∨ beatSync n d = electedAfter n m d) := by
  have hready : (electedAfter n m d).boot.ready = d.boot.ready := by
    rw [electedAfter, (elected_electBeat _).rest]
    rfl
  unfold beatSync
  rw [h]
  by_cases hlow : rootId (electedAfter n m d) < rootId d ∧ d.boot.ready = false
  · have hc : rootId (electedAfter n m d) < rootId d ∧ ¬ (electedAfter n m d).boot.ready = true := ⟨hlow.1, by simp [hready, hlow.2]⟩
    exact .inl ⟨hlow.1, hlow.2, if_pos hc⟩
  · have hc : ¬ (rootId (electedAfter n m d) < rootId d ∧ ¬ (electedAfter n m d).boot.ready = true) := by
      simpa [hready] using hlow
    refine .inr ⟨hlow, ?_⟩
    by_cases hup : (electedAfter n m d).time.upLink = some n ∧ (nbrOf d n).sent ≠ 0 ∧ leNat ((m.extra.drop 16).take 8) ≠ 0
    · exact .inl ⟨_, _, _, (if_neg hc).trans (if_pos hup)⟩
    · exact .inr ((if_neg hc).trans (if_neg hup))

/-- What the Beat's load and its steering leave alone. -/
structure Settled (d d' : Dev) : Prop where
  root : rootId d' = rootId d
  nbrs : d'.time.nbrs = d.time.nbrs
  links : ∀ y, linkOf d' y = linkOf d y
  up : ∀ y, linkState d' y = linkState d y
  tod : d'.time.todNs = d.time.todNs
  comp : d'.comp = d.comp

theorem settled_loadBeat (b : Nat) (d : Dev) : Settled d (loadBeat b d) where
  root := rfl
  nbrs := rfl
  links := fun _ => rfl
  up := fun y => by
    have hbit : bitOf (regVal (loadBeat b d) (rJodonCfg y)) 0 = bitOf (regVal d (rJodonCfg y)) 0 := by
      unfold loadBeat
      rw [regVal_setFld]
      split
      · rename_i h
        rw [Otp.bitOf_setBits, if_neg (by omega), h]
        rfl
      · rfl
    unfold linkState
    rw [hbit]
    rfl
  tod := rfl
  comp := rfl

theorem settled_measure (t1 t2 t3 t4 : Nat) (d : Dev) : Settled d (measure n t1 t2 t3 t4 d) :=
  ⟨rfl, rfl, fun _ => rfl, fun _ => rfl, rfl, rfl⟩

theorem heardOn_of_settled {d d' : Dev} (h : Settled d d') : heardOn d' = heardOn d := by
  unfold heardOn
  rw [h.nbrs]
  simp only [h.up]

/-- Steering stays within 100 ppm (R513). -/
theorem steerBy_bounds (off : Int) (mag : Nat) : -100000 ≤ steerBy off mag ∧ steerBy off mag ≤ 100000 := by
  unfold steerBy
  split
  · omega
  · split <;> omega

/-- What the message leaves, however it ends. -/
theorem beatSync_settled {m : JMsg} (h : rxFind d n (fun m => m.type == 0x68) = some m) : Settled (electedAfter n m d) (beatSync n d) := by
  rcases beatSync_cases h with ⟨-, -, he⟩ | ⟨-, ⟨t1, t2, t3, he⟩ | he⟩
  · exact he ▸ settled_loadBeat ..
  · exact he ▸ settled_measure ..
  · rw [he]
    exact ⟨rfl, rfl, fun _ => rfl, fun _ => rfl, rfl, rfl⟩

/-- What the election leaves of the device that noted the message. -/
theorem electedAfter_keeps (n : Nat) (m : JMsg) (d : Dev) : linkOf (electedAfter n m d) n = { linkOf d n with rx := (linkOf d n).rx.erase m } ∧
    nbrOf (electedAfter n m d) n = heardFrom m (beat d) (nbrOf d n) ∧ (∀ y, y ≠ n → nbrOf (electedAfter n m d) y = nbrOf d y) ∧
    (electedAfter n m d).time.todNs = d.time.todNs ∧ (electedAfter n m d).comp = d.comp ∧ (electedAfter n m d).isl = d.isl ∧
    (electedAfter n m d).time.beat = d.time.beat := by
  have he := elected_electBeat (noted n m d)
  have hlink : linkOf (electedAfter n m d) n = linkOf (noted n m d) n := by
    rw [electedAfter, he.rest]
    rfl
  have hnbr (y : Nat) : nbrOf (electedAfter n m d) y = nbrOf (noted n m d) y := by
    rw [nbrOf, electedAfter, he.nbrs, ← nbrOf]
  refine ⟨?_, ?_, fun y hy => ?_, he.tod, ?_, ?_, he.beat⟩
  · rw [hlink]
    exact linkOf_modLink_at ..
  · rw [hnbr]
    exact nbrOf_modNbr_at ..
  · rw [hnbr]
    exact nbrOf_modNbr_off _ _ hy
  · rw [electedAfter, he.rest]
    rfl
  · rw [electedAfter, he.rest]
    rfl

/-- The root after the message, against the package's own ID and every root heard then. -/
theorem rootId_beatSync {m : JMsg} (h : rxFind d n (fun m => m.type == 0x68) = some m) :
    rootId (beatSync n d) ≤ ownPkg d ∧ (heardOn (beatSync n d)).all (fun e => decide (rootId (beatSync n d) ≤ e.2.root)) = true := by
  have hs := beatSync_settled h
  have hheard : heardOn (electedAfter n m d) = heardOn (noted n m d) := by
    have he := elected_electBeat (noted n m d)
    unfold heardOn electedAfter
    rw [he.nbrs]
    conv_lhs => rw [he.rest]
    rfl
  obtain ⟨hown, hall⟩ := rootId_electBeat (noted n m d)
  rw [hs.root, heardOn_of_settled hs, hheard]
  exact ⟨hown, List.all_eq_true.mpr fun e he => decide_eq_true (hall e he)⟩

/-- The steering after the message. -/
theorem steer_beatSync {m : JMsg} (h : rxFind d n (fun m => m.type == 0x68) = some m) (hlo : -100000 ≤ d.time.steer)
    (hhi : d.time.steer ≤ 100000) : -100000 ≤ (beatSync n d).time.steer ∧ (beatSync n d).time.steer ≤ 100000 := by
  have hel : -100000 ≤ (electedAfter n m d).time.steer ∧ (electedAfter n m d).time.steer ≤ 100000 := by
    rcases (elected_electBeat (noted n m d)).steer with hs | hs
    · rw [electedAfter, hs]
      exact ⟨hlo, hhi⟩
    · rw [electedAfter, hs]
      omega
  rcases beatSync_cases h with ⟨-, -, he⟩ | ⟨-, ⟨t1, t2, t3, he⟩ | he⟩
  · rw [he]
    exact hel
  · rw [he]
    exact steerBy_bounds ..
  · rw [he]
    exact hel

theorem bitOf_loadBeat_status (b : Nat) (d : Dev) : bitOf (regVal (loadBeat b d) rBeatStatus) 9 = true := by
  unfold loadBeat
  rw [Egress.bitOf_eq_bitsOf, ← regFld, Generation.regFld_setFld_same]
  rfl

/-! ### The obligation -/

/-- Settles O47: the message loads the Beat, is measured, or leaves it; the root is the lowest heard. -/
theorem beatSynchronisation : Obligations.BeatSynchronisation := by
  intro n s hn
  dsimp only
  have hw : within [(n, 20)] = true := by simp [within, hn]
  have hsend : Gives (.beatSyncSend n) s (beatSyncSend n s.dev) := Flows.gives_of_exec (exec_beatSyncSend n s) hw
  have hsync : Gives (.beatSync n) s (beatSync n s.dev) := Flows.gives_of_exec (exec_beatSync n s) hw
  have halone : Gives .beatAlone s (beatAlone s.dev) := Flows.gives_of_exec (exec_beatAlone s) rfl
  refine ⟨fun hup hdue => ⟨_, hsend, ?_⟩, fun hno => ?_, fun hnone => ?_, fun m hm => ⟨_, hsync, ?_⟩, fun hno hdue => ⟨_, halone, ?_⟩,
    fun hno => ?_, Flows.gives_of_exec (exec_beatRead s) rfl⟩
  · have hc : ¬ (linkState s.dev n ≠ 3 ∨ ((nbrOf s.dev n).sent ≠ 0 ∧ beat s.dev < (nbrOf s.dev n).sent + 1000000)) := by omega
    rw [show beatSyncSend n s.dev = linkSend n (syncMsg n s.dev) (sending n s.dev) from if_neg hc]
    have hsent := SentOn.linkSend (n := n) (syncMsg n s.dev) (sending n s.dev)
    refine ⟨?_, fun y hy => ⟨?_, hsent.others y hy⟩, ?_, rfl⟩
    · rw [hsent.rest]
      exact nbrOf_modNbr_at ..
    · rw [hsent.rest]
      exact nbrOf_modNbr_off _ _ hy
    · rw [hsent.rest]
      rfl
  · rw [← show beatSyncSend n s.dev = s.dev from if_pos hno]
    exact hsend
  · have h : beatSync n s.dev = s.dev := by
      unfold beatSync
      rw [hnone]
    rw [h] at hsync
    exact hsync
  · obtain ⟨hlink, hnbr, hothers, htod, hcomp, hisl, hbeat⟩ := electedAfter_keeps n m s.dev
    have hs := beatSync_settled hm
    have hsn (y : Nat) : nbrOf (beatSync n s.dev) y = nbrOf (electedAfter n m s.dev) y := by rw [nbrOf, hs.nbrs, ← nbrOf]
    obtain ⟨hown, hall⟩ := rootId_beatSync hm
    refine ⟨?_, (hsn n).trans hnbr, fun y hy => (hsn y).trans (hothers y hy), hown, hall, fun hlow hready => ?_, fun hnot => ?_,
      steer_beatSync hm, hs.tod.trans htod, hs.comp.trans hcomp⟩
    · rw [hs.links, hlink]
    · rw [hs.root] at hlow
      rcases beatSync_cases hm with ⟨-, -, he⟩ | ⟨hno, -⟩
      · rw [he]
        exact ⟨rfl, bitOf_loadBeat_status .., List.all_map.trans (List.all_eq_true.mpr fun _ _ => rfl)⟩
      · exact absurd ⟨hlow, hready⟩ hno
    · rw [hs.root] at hnot
      rcases beatSync_cases hm with ⟨hlow, hready, -⟩ | ⟨-, ⟨t1, t2, t3, he⟩ | he⟩
      · exact absurd ⟨hlow, hready⟩ hnot
      · rw [he]
        exact ⟨hbeat, hisl⟩
      · rw [he]
        exact ⟨hbeat, hisl⟩
  · rw [show beatAlone s.dev = _ from if_pos ⟨hno, hdue⟩]
    exact ⟨rfl, rfl, rfl⟩
  · have h : beatAlone s.dev = s.dev := if_neg fun ⟨he, hle⟩ => by
      rcases hno with h | h
      · simp [h] at he
      · omega
    rw [h] at halone
    exact halone

end Sys2Proof.Beats

/-! ## The island's log -/

namespace Sys2Proof.Logs

open Sys2Proof.Machine Sys2Proof.Safety Sys2Proof.Laws

variable {code sev site unit : Nat} {payload : List Byte} {d : Dev}

/-- An entry that joins the most recent ones is the last of them. -/
theorem getLast?_drop_concat {α : Type} (l : List α) (e : α) (k : Nat) (hk : 0 < k) :
    ((l ++ [e]).drop ((l ++ [e]).length - k)).getLast? = some e := by
  have hle : (l ++ [e]).length - k ≤ l.length := by
    rw [List.length_append, List.length_singleton]
    omega
  rw [List.drop_append_of_le_length hle, List.getLast?_concat]

/-- The last entry of the log after one was made. -/
theorem lastCode_logOnly : (logOnly code sev site unit payload d).isl.log.getLast?.map (fun e => e.code) = some code := by
  simp only [logOnly, bump, bumpN_isl, onIsl]
  rw [getLast?_drop_concat _ _ _ (by decide)]
  rfl

@[simp] theorem log_troubleUp (k : Nat) (d : Dev) : (troubleUp k d).isl.log = d.isl.log := rfl

@[simp] theorem log_alertOn (code : Nat) (d : Dev) : (alertOn code d).isl.log = d.isl.log := by
  unfold alertOn
  dsimp only
  split <;> rfl

/-- What follows an event's entry: its trouble counter, and ALERT. -/
def signalled (k : Option Nat × Bool) (code : Nat) (d : Dev) : Dev :=
  let d := match k.1 with | some t => troubleUp t d | none => d
  if k.2 then alertOn code d else d

theorem islandLog_eq : islandLog code site unit payload d =
    signalled (eventKind code).2 code (logOnly code (eventKind code).1 site unit payload d) := rfl

/-- Trouble counters and ALERT leave the log as its entry left it. -/
theorem log_signalled (k : Option Nat × Bool) (code : Nat) (d : Dev) : (signalled k code d).isl.log = d.isl.log := by
  obtain ⟨trouble, alert⟩ := k
  cases trouble <;> cases alert <;> simp [signalled]

/-- The last entry of the log after an event. -/
theorem lastCode_islandLog : (islandLog code site unit payload d).isl.log.getLast?.map (fun e => e.code) = some code := by
  rw [islandLog_eq, log_signalled]
  exact lastCode_logOnly

end Sys2Proof.Logs

/-! ## What the work of cores and commands leaves of the fabric -/

namespace Sys2Proof.Fabrics

open Sys2Proof.Machine Sys2Proof.Safety Sys2Proof.Laws

/-- What no work of a core or a command changes: the fabric, OTP, the boot, the island, the arbiter's requests and the clusters' power. -/
def lasting (d : Dev) : Fabric × Otp × Boot × Island × List MaintReq × Power × Tab Cluster :=
  (d.fab, d.otp, d.boot, d.isl, d.maint, d.pwr, d.comp.clusters)

/-- What is lasting stays, and so do the registers below those of the compute dies. -/
structure FabKept (d d' : Dev) : Prop where
  lasting : lasting d' = lasting d
  regs : ∀ a, a < 0x3000000 → regVal d' a = regVal d a

namespace FabKept

section

variable {d d' : Dev} (h : FabKept d d')
include h

theorem fab : d'.fab = d.fab := congrArg (fun x => x.1) h.lasting

theorem otp : d'.otp = d.otp := congrArg (fun x => x.2.1) h.lasting

theorem boot : d'.boot = d.boot := congrArg (fun x => x.2.2.1) h.lasting

theorem isl : d'.isl = d.isl := congrArg (fun x => x.2.2.2.1) h.lasting

theorem maint : d'.maint = d.maint := congrArg (fun x => x.2.2.2.2.1) h.lasting

theorem clusters : d'.comp.clusters = d.comp.clusters := congrArg (fun x => x.2.2.2.2.2.2) h.lasting

end

theorem refl (d : Dev) : FabKept d d := ⟨rfl, fun _ _ => rfl⟩

theorem trans {a b c : Dev} (h : FabKept a b) (h' : FabKept b c) : FabKept a c :=
  ⟨h'.lasting.trans h.lasting, fun x hx => (h'.regs x hx).trans (h.regs x hx)⟩

/-- A device with what is lasting and the registers as they were. -/
theorem of_eq {d d' : Dev} (hl : Fabrics.lasting d' = Fabrics.lasting d) (hr : d'.regs = d.regs) : FabKept d d' :=
  ⟨hl, fun a _ => by rw [regVal, hr, ← regVal]⟩

theorem after {a b c : Dev} (h' : FabKept b c) (h : FabKept a b) : FabKept a c := h.trans h'

theorem ite {c : Prop} [Decidable c] {a b d : Dev} (ha : FabKept d a) (hb : FabKept d b) : FabKept d (if c then a else b) :=
  iteInduction (fun _ => ha) (fun _ => hb)

theorem when {b : Bool} {f : Dev → Dev} {d : Dev} (h : FabKept d (f d)) : FabKept d (when b f d) := ite h (refl d)

theorem foldl {α : Type} {f : Dev → α → Dev} (hf : ∀ d x, FabKept d (f d x)) (l : List α) (d : Dev) : FabKept d (l.foldl f d) :=
  List.foldlRecOn (motive := FabKept d) l f (refl d) fun d' h x _ => h.trans (hf d' x)

theorem of_counters {d d' : Dev} (h : Generation.CountersOnly d d') : FabKept d d' := by
  rw [h.eq]
  exact of_eq rfl rfl

/-! ### Completions -/

theorem raiseVec (fn vec : Nat) (d : Dev) : FabKept d (raiseVec fn vec d) := ite (refl d) (ite (of_eq rfl rfl) (of_eq rfl rfl))

theorem raiseErr (fn kind : Nat) (d : Dev) : FabKept d (raiseErr fn kind d) := ite (refl d) ((raiseVec ..).after (of_eq rfl rfl))

theorem pairError (q cause : Nat) (d : Dev) : FabKept d (pairError q cause d) := ite (refl d) ((raiseErr ..).after (of_eq rfl rfl))

theorem pairIrq (q : Nat) (d : Dev) : FabKept d (pairIrq q d) := ite (refl d) ((raiseVec ..).after (of_eq rfl rfl))

theorem modPair (q : Nat) (f : Pair → Pair) (d : Dev) : FabKept d (modPair q f d) := of_eq rfl rfl

theorem bumpN (c : Ctr) (i j n : Nat) (d : Dev) : FabKept d (bumpN c i j n d) := of_eq rfl rfl

theorem hostWrite (fn a : Nat) (bs : List Byte) (d : Dev) : FabKept d (hostWrite fn a bs d) := of_eq rfl rfl

theorem cqWrite (c : Cmd) (status result : Nat) (d : Dev) : FabKept d (cqWrite c status result d) :=
  ite ((pairIrq ..).after ((modPair ..).after ((bumpN ..).after (hostWrite ..)))) (pairError ..)

theorem finish (t : Nat) (st : Status) (result : Nat) (d : Dev) : FabKept d (finish t st result d) :=
  ite ((cqWrite ..).after (of_eq rfl rfl)) (refl d)

theorem settleFences (q : Nat) (d : Dev) : FabKept d (settleFences q d) := foldl (fun d _ => ite (refl d) (finish ..)) _ d

theorem complete (t : Nat) (st : Status) (result : Nat) (d : Dev) : FabKept d (complete t st result d) :=
  ite ((finish ..).trans (settleFences ..)) (refl d)

/-! ### Transfers cut short -/

theorem hbmPut (p x : Nat) (bs : List Byte) (d : Dev) : FabKept d (hbmPut p x bs d) :=
  (of_counters (Generation.CountersOnly.hbmCount ..)).after (of_eq rfl rfl)

theorem refWrite (c : Nat) (u : Use) (r : Ref) (bs : List Byte) (d : Dev) : FabKept d (refWrite c u r bs d) := by
  unfold Machine.refWrite
  split
  · exact of_eq rfl rfl
  · exact refl d

theorem coreCount (x : Ctr) (c : Nat) (tg : Nat × Nat) (n : Nat) (d : Dev) : FabKept d (coreCount x c tg n d) :=
  of_eq (by simp [Fabrics.lasting]) (by simp)

theorem farWrite {c space addr : Nat} {sh : Ref} {bs : List Byte} {d d' : Dev} (h : farWrite c space addr sh bs d = some d') :
    FabKept d d' := by
  unfold Machine.farWrite at h
  dsimp only at h
  split at h
  · obtain rfl := Option.some.inj h
    refine foldl (fun d k => ?_) _ d
    split
    · exact of_eq rfl rfl
    · exact refl d
  · split at h
    · obtain rfl := Option.some.inj h
      exact hbmPut ..
    · exact nomatch h
  · split at h
    · obtain rfl := Option.some.inj h
      exact of_eq rfl rfl
    · exact nomatch h

theorem dmaMove {c : Nat} {out : Bool} {x : DmaOp} {len : Nat} {d d' : Dev} (h : dmaMove c out x len d = .done d') : FabKept d d' := by
  unfold Machine.dmaMove at h
  dsimp only at h
  split at h
  · split at h
    · exact nomatch h
    · rename_i d₁ h₁
      split at h
      · obtain rfl := DmaRes.done.inj h
        exact farWrite h₁
      · split at h
        · exact nomatch h
        · rename_i d₂ h₂
          obtain rfl := DmaRes.done.inj h
          exact (farWrite h₁).trans (farWrite h₂)
  · split at h
    · exact nomatch h
    · exact nomatch h
    · split at h
      · obtain rfl := DmaRes.done.inj h
        exact refWrite ..
      · split at h
        · exact nomatch h
        · exact nomatch h
        · obtain rfl := DmaRes.done.inj h
          exact (refWrite ..).trans (refWrite ..)

theorem farCount (c : Nat) (tg : Nat × Nat) (out : Bool) (space addr : Nat) (sh : Ref) (len : Nat) (d : Dev) :
    FabKept d (farCount c tg out space addr sh len d) := by
  unfold Machine.farCount
  dsimp only
  split
  · refine (coreCount ..).trans (foldl (fun d k => ?_) _ _)
    split
    · exact of_eq rfl rfl
    · exact refl d
  · exact (coreCount ..).after (ite (refl d) (of_counters (Generation.CountersOnly.hbmCount ..)))
  · exact ite (refl d) (of_eq rfl rfl)

theorem dmaCount (c : Nat) (tg : Nat × Nat) (out : Bool) (x : DmaOp) (len : Nat) (d : Dev) : FabKept d (dmaCount c tg out x len d) := by
  unfold Machine.dmaCount
  dsimp only
  split
  · exact ((coreCount ..).trans (farCount ..)).trans (farCount ..)
  · exact (coreCount ..).trans (farCount ..)

theorem dmaCut (c : Nat) (d : Dev) : FabKept d (dmaCut c d) := by
  refine foldl (fun d y => ?_) _ d
  dsimp only
  split
  · rename_i h
    exact ((of_eq rfl rfl : FabKept d (freshStep d)).trans (dmaMove h)).trans (dmaCount ..)
  · exact of_eq rfl rfl

/-! ### Invocations that end -/

theorem idleCore (c : Nat) (d : Dev) : FabKept d (idleCore c d) := of_eq rfl rfl

theorem armsDone (v : Machine.Inv) (ok : Bool) (d : Dev) : FabKept d (armsDone v ok d) := ite (refl d) (of_eq rfl rfl)

theorem serveDone (v : Machine.Inv) (st : Status) (d : Dev) : FabKept d (serveDone v st d) := by
  unfold Machine.serveDone
  split
  · exact refl d
  · exact ite (complete ..) (ite (of_eq rfl rfl) (ite (complete ..) (ite (of_eq rfl rfl) (of_eq rfl rfl))))
  · exact ite (refl d) (of_eq rfl rfl)

theorem endInv (i : Nat) (st : Status) (d : Dev) : FabKept d (endInv i st d) := by
  unfold Machine.endInv
  dsimp only
  split
  · exact refl d
  · refine FabKept.trans (FabKept.trans ?_ (foldl (fun d j => ?_) _ _)) ((armsDone ..).trans (serveDone ..))
    · refine FabKept.trans (foldl (fun d c => ?_) _ d) ((when (of_eq rfl rfl)).trans (of_eq rfl rfl))
      exact ite ((idleCore ..).after (ite (refl d) (dmaCut ..))) (refl d)
    · refine FabKept.trans (foldl (fun d c => ?_) _ d) (of_eq rfl rfl)
      exact ite ((idleCore ..).after (dmaCut ..)) (refl d)

theorem coreFault (c : Nat) (x : Cause) (d : Dev) : FabKept d (coreFault c x d) := by
  refine ite (refl d) ((endInv ..).after (ite (refl d) ⟨rfl, fun a ha => ?_⟩))
  exact regVal_setReg_other _ _ (by simp only [rCoreFault, cmpBase]; omega)

theorem haltCore (c : Nat) (d : Dev) : FabKept d (haltCore c d) :=
  ite (coreFault ..) ((idleCore c d).trans (ite (endInv ..) (of_eq rfl rfl)))

theorem settleHalt (c : Nat) (d : Dev) : FabKept d (settleHalt c d) := by
  unfold Machine.settleHalt
  dsimp only
  split
  · exact ite (haltCore ..) (refl d)
  · exact refl d

theorem lateFault (m : WinMsg) (d : Dev) : FabKept d (lateFault m d) := by
  have hnoted : FabKept d (modCore m.src (fun k => { k with winLate := k.winLate ++ [m.tok] }) d) := of_eq rfl rfl
  unfold Machine.lateFault
  dsimp only
  split
  · exact ite (hnoted.trans (coreFault ..)) hnoted
  · exact hnoted.trans (settleHalt ..)

theorem winLeave (m : WinMsg) (d : Dev) : FabKept d (winLeave m d) := of_eq rfl rfl

end FabKept

/-! ## Accesses lost -/

/-- As `FabKept`, but that fault queues may change. -/
structure LinksKept (d d' : Dev) : Prop where
  fab : d'.fab = { d.fab with faultQ := d'.fab.faultQ }
  otp : d'.otp = d.otp
  boot : d'.boot = d.boot
  maint : d'.maint = d.maint
  regs : ∀ a, a < 0x3000000 → regVal d' a = regVal d a

namespace LinksKept

theorem refl (d : Dev) : LinksKept d d := ⟨rfl, rfl, rfl, rfl, fun _ _ => rfl⟩

theorem of_fabKept {d d' : Dev} (h : FabKept d d') : LinksKept d d' := ⟨by rw [h.fab], h.otp, h.boot, h.maint, h.regs⟩

theorem trans {a b c : Dev} (h : LinksKept a b) (h' : LinksKept b c) : LinksKept a c where
  fab := by
    have hc := h'.fab
    rw [h.fab] at hc
    exact hc
  otp := h'.otp.trans h.otp
  boot := h'.boot.trans h.boot
  maint := h'.maint.trans h.maint
  regs := fun x hx => (h'.regs x hx).trans (h.regs x hx)

theorem copySettle (t : Nat) (d : Dev) : LinksKept d (copySettle t d) := by
  have h := Rings.CompletionOnly.copySettle t d
  refine ⟨?_, Otp.otp_copySettle t d, ?_, ?_, fun a _ => ?_⟩
  · conv_lhs => rw [show Machine.copySettle t d = _ from h]
  · rw [show Machine.copySettle t d = _ from h]
  · rw [show Machine.copySettle t d = _ from h]
  · rw [regVal, h.regs, ← regVal]

theorem copyNote (t code : Nat) (d : Dev) : LinksKept d (copyNote t code d) := of_fabKept (.ite (.of_eq rfl rfl) (.refl d))

theorem enterFault (o : JOut) (cause : Nat) (maybe : Bool) (d : Dev) : LinksKept d (enterFault o cause maybe d) := by
  unfold Machine.enterFault
  dsimp only
  split
  · exact ⟨rfl, rfl, rfl, rfl, fun _ _ => rfl⟩
  · split
    · exact ⟨rfl, rfl, rfl, rfl, fun _ _ => rfl⟩
    · exact ⟨rfl, rfl, rfl, rfl, fun _ _ => rfl⟩

/-- What an access lost leaves of the device that no longer awaits it. -/
theorem loseOut (o : JOut) (d : Dev) : LinksKept (dropOut o d) (loseOut o d) := by
  unfold Machine.loseOut
  dsimp only
  split
  · refine (enterFault o 6 true _).trans ?_
    split
    · split
      · exact of_fabKept ((FabKept.winLeave ..).trans (.lateFault ..))
      · exact refl _
    · exact (copyNote ..).trans (copySettle ..)
  · split
    · split
      · exact of_fabKept ((FabKept.winLeave ..).trans (.coreFault ..))
      · exact refl _
    · exact (copyNote ..).trans (copySettle ..)

end LinksKept

/-- What losing an access does to the fabric: it is outstanding no more, and of the rest only fault queues change. -/
theorem fab_loseOut (o : JOut) (d : Dev) : (loseOut o d).fab = { d.fab with outs := d.fab.outs.erase o, faultQ := (loseOut o d).fab.faultQ } :=
  (LinksKept.loseOut o d).fab

/-- Accesses lost in turn. -/
theorem foldl_loseOut (l : List JOut) (d : Dev) :
    let d' := l.foldl (fun d o => loseOut o d) d
    d'.fab = { d.fab with outs := d.fab.outs.diff l, faultQ := d'.fab.faultQ } ∧ d'.otp = d.otp ∧ d'.boot = d.boot ∧
      ∀ a, a < 0x3000000 → regVal d' a = regVal d a := by
  induction l generalizing d with
  | nil => exact ⟨rfl, rfl, rfl, fun _ _ => rfl⟩
  | cons o l ih =>
    obtain ⟨hf, ho, hb, hr⟩ := ih (loseOut o d)
    have hk := LinksKept.loseOut o d
    refine ⟨?_, ho.trans hk.otp, hb.trans hk.boot, fun a ha => (hr a ha).trans (hk.regs a ha)⟩
    rw [List.foldl_cons, List.diff_cons, hf, fab_loseOut]

theorem maint_foldl_loseOut (l : List JOut) (d : Dev) : (l.foldl (fun d o => loseOut o d) d).maint = d.maint :=
  List.foldlRecOn (motive := fun x : Dev => x.maint = d.maint) l _ rfl fun d' h o _ => (LinksKept.loseOut o d').maint.trans h

/-- With every access of a link taken away none of its accesses is left. -/
theorem all_diff_filter {α : Type} [DecidableEq α] (p : α → Bool) (l : List α) : (l.diff (l.filter p)).all (fun x => !p x) = true := by
  rw [List.all_eq_true]
  intro x hx
  by_contra hp
  have hpx : p x = true := by simpa using hp
  have hcount : (l.diff (l.filter p)).count x = 0 := by
    rw [List.count_diff, List.count_filter hpx, Nat.sub_self]
  exact List.count_eq_zero.mp hcount hx

end Sys2Proof.Fabrics

/-! ## Jodon links -/

namespace Sys2Proof.JodonLinks

open Sys2Proof.Machine Sys2Proof.Safety Sys2Proof.Laws Sys2Proof.Fabrics

variable {n : Nat} {d : Dev}

theorem rJodonCfg_edge (hn : n < 20) : 0x1000000 ≤ rJodonCfg n ∧ rJodonCfg n < 0x2000000 := by
  simp only [rJodonCfg, edgBase]
  omega

theorem linkOf_setFld (a lo w v y : Nat) (d : Dev) : linkOf (setFld a lo w v d) y = linkOf d y := by rw [linkOf, setFld_fab, ← linkOf]

theorem jodonOff_eq {d' : Dev} (ho : d'.otp = d.otp) (hb : d'.boot = d.boot) : jodonOff d' n = jodonOff d n := by
  rw [jodonOff, otpCfg, ho, hb, ← otpCfg, ← jodonOff]

/-- What the state of a link is made of: what enables it, and its own state. -/
theorem linkState_eq {d' : Dev} (ho : d'.otp = d.otp) (hb : d'.boot = d.boot) (hr : regVal d' (rJodonCfg n) = regVal d (rJodonCfg n))
    (h : linkState d n ≠ 0) : linkState d' n = (linkOf d' n).state := by
  unfold linkState at h ⊢
  rw [jodonOff_eq ho hb, hr]
  split
  · rename_i hc
    exact absurd (if_pos hc) h
  · rfl

/-- The link as it leaves UP. -/
def lostLink (next : Nat) (d : Dev) (l : Link) : Link := { l with
  state := next, phase := 1, since := beat d, downs := min 65535 (l.downs + 1), tx := [], rx := [], flits := [], cause := 0
  partner := 0, partnerLink := 0, logged := [] }

/-- The device with the link taken down, its pins held as dead. -/
def takenDown (n next : Nat) (d : Dev) : Dev :=
  onFab (fun x => { x with pins := x.pins.map (fun p => if p.link = n ∧ p.dead.isNone then { p with dead := some (beat d) } else p) })
    (modLink n (lostLink next d) (bumpN .jodonDropLinkdown n 0 (linkOf d n).rx.length d))

/-- The device that has lost every access of the link. -/
def outsLost (n next : Nat) (d : Dev) : Dev :=
  ((takenDown n next d).fab.outs.filter (fun o => o.link == n)).foldl (fun d o => loseOut o d) (takenDown n next d)

theorem linkLost_eq (n next : Nat) (d : Dev) : ∃ t c, linkLost n next d = { outsLost n next d with time := t, ctr := c } := by
  have h : linkLost n next d = if (upLinks (onTime (fun t => { t with nbrs := tdel t.nbrs n }) (outsLost n next d))).isEmpty
      then onTime (fun t => { t with noLinkSince := beat (onTime (fun t => { t with nbrs := tdel t.nbrs n }) (outsLost n next d)) })
        (onTime (fun t => { t with nbrs := tdel t.nbrs n }) (outsLost n next d))
      else electBeat (onTime (fun t => { t with nbrs := tdel t.nbrs n }) (outsLost n next d)) := rfl
  rw [h]
  split
  · exact ⟨_, _, rfl⟩
  · exact ⟨_, _, (Beats.elected_electBeat _).rest⟩

theorem maint_linkLost (n next : Nat) (d : Dev) : (linkLost n next d).maint = d.maint := by
  obtain ⟨t, c, heq⟩ := linkLost_eq n next d
  rw [heq]
  exact maint_foldl_loseOut _ (takenDown n next d)

/-- What a link lost leaves (R508). -/
theorem linkLost_spec (hn : n < 20) (next : Nat) (hup : linkState d n = 3) :
    let d' := linkLost n next d
    linkState d' n = next ∧ linkOf d' n = lostLink next d (linkOf d n) ∧ (∀ y, y ≠ n → linkOf d' y = linkOf d y) ∧
    d'.fab.outs.all (fun o => o.link != n) = true ∧ d'.fab.pins.all (fun p => p.link != n || p.dead.isSome) = true ∧
    d'.otp = d.otp ∧ d'.boot = d.boot ∧ ∀ a, a < 0x3000000 → regVal d' a = regVal d a := by
  intro d'
  obtain ⟨t, c, heq⟩ := linkLost_eq n next d
  obtain ⟨hf, ho, hb, hr⟩ := foldl_loseOut ((takenDown n next d).fab.outs.filter (fun o => o.link == n)) (takenDown n next d)
  have hfab : d'.fab = { (takenDown n next d).fab with
      outs := (takenDown n next d).fab.outs.diff ((takenDown n next d).fab.outs.filter (fun o => o.link == n))
      faultQ := (outsLost n next d).fab.faultQ } := by
    rw [show d' = _ from heq]
    exact hf
  have hotp : d'.otp = d.otp := by
    rw [show d' = _ from heq]
    exact ho
  have hboot : d'.boot = d.boot := by
    rw [show d' = _ from heq]
    exact hb
  have hregs (a : Nat) (ha : a < 0x3000000) : regVal d' a = regVal d a := by
    rw [show d' = _ from heq]
    exact hr a ha
  have hlink (y : Nat) : linkOf d' y = linkOf (modLink n (lostLink next d) d) y := by
    rw [linkOf, hfab]
    rfl
  have hat : linkOf d' n = lostLink next d (linkOf d n) := (hlink n).trans (linkOf_modLink_at ..)
  refine ⟨?_, hat, fun y hy => (hlink y).trans (linkOf_modLink_off _ _ hy), ?_, ?_, hotp, hboot, hregs⟩
  · have hedge := rJodonCfg_edge hn
    rw [linkState_eq hotp hboot (hregs _ (by omega)) (by omega), hat]
    rfl
  · rw [hfab]
    exact all_diff_filter (fun o : JOut => o.link == n) _
  · rw [hfab]
    refine List.all_map.trans (List.all_eq_true.mpr fun p _ => ?_)
    dsimp only [Function.comp]
    split
    · simp
    · rename_i hc
      cases hd : p.dead <;> simp_all

/-! ## Training (R493 to R495) -/

/-- A change of one link changes no other, and nothing else. -/
theorem modLink_changes_link (f : Link → Link) : linkOf (modLink n f d) n = f (linkOf d n) ∧
    (∀ y, y ≠ n → linkOf (modLink n f d) y = linkOf d y) ∧
    modLink n f d = { d with fab := { d.fab with links := (modLink n f d).fab.links } } :=
  ⟨linkOf_modLink_at .., fun _ hy => linkOf_modLink_off _ _ hy, rfl⟩

section

variable {ok signal : Bool}

theorem phaseEnd_of_not (h : linkState d n ≠ 1 ∨ (linkOf d n).phase = 5 ∧ ok = true) : phaseEnd n ok signal d = d := if_pos h

/-- A phase that fails. -/
theorem phaseEnd_of_failed (h : linkState d n = 1) : phaseEnd n false signal d =
    if signal then modLink n (fun l => { l with phase := 1 }) d else modLink n (fun l => { l with state := 2, phase := 1, since := beat d }) d := by
  unfold phaseEnd
  exact (if_neg (by simp [h])).trans (if_pos Bool.false_ne_true)

/-- A phase other than the last that succeeds. -/
theorem phaseEnd_of_ok (h : linkState d n = 1) (h5 : (linkOf d n).phase ≠ 5) : phaseEnd n true signal d =
    if (linkOf d n).phase = 1 then modLink n (fun l => { l with phase := if needsCal l then 2 else 3 }) d
    else if (linkOf d n).phase = 2 then
      modLink n (fun l => { l with phase := 3, calibrated := true, recalDue := false, forced := false, calTemp := edgeTemp d (n / 5) }) d
    else modLink n (fun l => { l with phase := l.phase + 1 }) d := by
  unfold phaseEnd
  exact (if_neg (by simp [h, h5])).trans (if_neg (by simp))

end

theorem phase_needsCal (l : Link) : (if needsCal l then 2 else 3) = if l.calibrated && !l.recalDue && !l.forced then 3 else 2 := by
  unfold needsCal
  cases l.calibrated <;> cases l.recalDue <;> cases l.forced <;> rfl

section

variable {pkg plink tag : Nat} {same : Bool}

theorem jodonIdent_of_not (h : linkState d n ≠ 1 ∨ (linkOf d n).phase ≠ 5) : jodonIdent n pkg plink tag same d = d := if_pos h

/-- An IDENT accepted. -/
theorem jodonIdent_of_accepted (h : linkState d n = 1) (h5 : (linkOf d n).phase = 5) (hpkg : pkg < 8) (hlink : plink < 20)
    (hc : identCause d pkg tag same = 0) : jodonIdent n pkg plink tag same d = modLink n (fun l => { l with
        state := 3, phase := 1, since := beat d, partner := pkg, partnerLink := plink, cause := 0, logged := []
        rxNext := 0, acked := 65535, replays := 0, credC := 256, credQ := 4096, credP := 4096, tx := [], rx := [], flits := [] }) d := by
  unfold jodonIdent
  rw [if_neg (by simp [h, h5])]
  dsimp only
  rw [if_pos hc, Nat.mod_eq_of_lt hpkg, Nat.mod_eq_of_lt (by omega)]

/-- The link as an IDENT leaves it that is refused. -/
def rejected (c pkg plink : Nat) (d : Dev) (l : Link) : Link := { l with
  state := 4, phase := 1, since := beat d, partner := pkg % 8, partnerLink := plink % 32, cause := c
  logged := if l.logged.contains c then l.logged else l.logged ++ [c] }

/-- An IDENT refused. -/
theorem jodonIdent_of_refused (h : linkState d n = 1) (h5 : (linkOf d n).phase = 5) (hc : identCause d pkg tag same ≠ 0) :
    jodonIdent n pkg plink tag same d = when (!(linkOf d n).logged.contains (identCause d pkg tag same))
      (islandLog 0x0112 (edgeSite (n / 5)) n (toLe 1 n ++ toLe 1 (identCause d pkg tag same)))
      (modLink n (fun l => { rejected (identCause d pkg tag same) pkg plink d l with
        logged := if (linkOf d n).logged.contains (identCause d pkg tag same) then l.logged else l.logged ++ [identCause d pkg tag same] }) d) := by
  unfold jodonIdent
  rw [if_neg (by simp [h, h5])]
  dsimp only
  rw [if_neg hc]
  rfl

theorem contains_logged (c : Nat) (l : List Nat) : (if l.contains c then l else l ++ [c]).contains c = true := by
  by_cases h : l.contains c = true <;> simp_all

end

/-! ## Timers (R493, R499, R508) -/

theorem retryTimer_of_due (h : linkState d n = 2 ∧ (linkOf d n).since + 1000000 ≤ beat d ∨
    linkState d n = 4 ∧ (linkOf d n).since + 1000000000 ≤ beat d) : retryTimer n d = beginTraining n d := by
  unfold retryTimer
  dsimp only
  split
  · exact if_pos (by omega)
  · exact if_pos (by omega)
  · rename_i h2 h4
    exact (h.elim (fun h => h2 h.1) fun h => h4 h.1).elim

theorem retryTimer_of_not (h : linkState d n = 2 ∧ beat d < (linkOf d n).since + 1000000 ∨
    linkState d n = 4 ∧ beat d < (linkOf d n).since + 1000000000 ∨ (linkState d n ≠ 2 ∧ linkState d n ≠ 4)) : retryTimer n d = d := by
  unfold retryTimer
  dsimp only
  split
  · exact if_neg (by omega)
  · exact if_neg (by omega)
  · rfl

/-- The pins that stay. -/
theorem mem_pinHoldExpire (n : Nat) (d : Dev) (p : Pin) : p ∈ (pinHoldExpire n d).fab.pins ↔
    p ∈ d.fab.pins ∧ ¬ (p.link = n ∧ ∃ b, p.dead = some b ∧ b + 1000000 ≤ beat d) := by
  refine List.mem_filter.trans (and_congr_right fun _ => ?_)
  cases hd : p.dead <;> simp [imp_iff_not_or]

section

variable {tag : Nat} {o : JOut}

theorem jodonTimeout_of_none (h : d.fab.outs.all (fun o => o.tag != tag) = true) : jodonTimeout tag d = d := by
  have hnone : d.fab.outs.find? (fun o => o.tag == tag) = none := by
    simpa using h
  unfold jodonTimeout
  rw [hnone]

theorem jodonTimeout_of_some (ho : d.fab.outs.find? (fun o => o.tag == tag) = some o) :
    jodonTimeout tag d = if o.sent + 10000000 ≤ beat d ∧ linkState d o.link = 3 then loseOut o d else d := by
  unfold jodonTimeout
  rw [ho]

/-- A write lost is in its function's fault queue, or that queue has overflowed. -/
theorem faultQ_enterFault (o : JOut) (cause : Nat) (maybe : Bool) (d : Dev) :
    (faultQOf (enterFault o cause maybe d) (outFn d o)).overflow = true ∨
    (faultQOf (enterFault o cause maybe d) (outFn d o)).keys.contains (o.pkg, o.core, o.win) = true := by
  unfold enterFault
  dsimp only
  split
  · rename_i h
    exact .inr h
  · split
    · exact .inl (congrArg FaultQ.overflow (faultQOf_modFaultQ_at ..))
    · refine .inr ((congrArg (fun q : FaultQ => q.keys.contains (o.pkg, o.core, o.win)) (faultQOf_modFaultQ_at ..)).trans ?_)
      simp

theorem faultQ_loseOut (hw : o.write = true) (hm : o.msg.isSome = true) :
    (faultQOf (loseOut o d) (outFn d o)).overflow = true ∨ (faultQOf (loseOut o d) (outFn d o)).keys.contains (o.pkg, o.core, o.win) = true := by
  obtain ⟨m, hmsg⟩ := Option.isSome_iff_exists.mp hm
  have hfab : (loseOut o d).fab = (enterFault o 6 true (dropOut o d)).fab := by
    unfold loseOut
    dsimp only
    rw [if_pos hw, hmsg]
    dsimp only
    split
    · exact ((FabKept.winLeave ..).trans (.lateFault ..)).fab
    · rfl
  have hfn : outFn (dropOut o d) o = outFn d o := rfl
  rw [faultQOf, hfab, ← faultQOf, ← hfn]
  exact faultQ_enterFault ..

end

/-! ## The obligation -/

section

variable {s : State}

/-- An UP link lost to training. -/
theorem answers_lost {c : Instr} (hn : n < 20) (hup : linkState s.dev n = 3) (hg : Gives c s (linkLost n 1 s.dev)) :
    Answers c s (fun d' => linkState d' n = 1 ∧ (linkOf d' n).tx = [] ∧ (linkOf d' n).rx = [] ∧
      (linkOf d' n).downs = min 65535 ((linkOf s.dev n).downs + 1) ∧ d'.fab.outs.all (fun o => o.link != n) = true ∧
      d'.fab.pins.all (fun p => p.link != n || p.dead.isSome) = true ∧ (∀ y, y ≠ n → linkOf d' y = linkOf s.dev y)) := by
  obtain ⟨hstate, hlink, hothers, houts, hpins, -⟩ := linkLost_spec hn 1 hup
  refine ⟨_, hg, hstate, ?_, ?_, ?_, houts, hpins, hothers⟩
  · rw [hlink]
    rfl
  · rw [hlink]
    rfl
  · rw [hlink]
    rfl

/-- JODON_ENABLE_WRITE on a link that OTP does not disable, with the edge dies up. -/
theorem jodonEnable_of_same {en fw : Bool} (hoff : jodonOff d n = false) (h : en = bitOf (regVal d (rJodonCfg n)) 0) :
    jodonEnable n en fw d = d := by
  unfold jodonEnable
  exact (if_neg (by simp [hoff])).trans (if_pos h)

theorem jodonEnable_of_on {fw : Bool} (hoff : jodonOff d n = false) (h : bitOf (regVal d (rJodonCfg n)) 0 = false) :
    jodonEnable n true fw d = beginTraining n (setFld (rJodonCfg n) 0 1 1 d) := by
  simp [jodonEnable, hoff, h]

theorem jodonEnable_of_down {fw : Bool} (hoff : jodonOff d n = false) (h : bitOf (regVal d (rJodonCfg n)) 0 = true) :
    jodonEnable n false fw d = setFld (rJodonCfg n) 0 1 0 (modLink n (fun l => { l with logged := [], cause := 0 })
      (if linkState d n = 3 then linkLost n 1 d else d)) := by
  simp [jodonEnable, hoff, h]

theorem jodonEnable_of_off {en fw : Bool} (hoff : jodonOff d n = true) : jodonEnable n en fw d = when fw (fwBound 2 2) d := if_pos hoff

theorem bitOf_setFld_enable (a : Nat) (d : Dev) : bitOf (regVal (setFld a 0 1 1 d) a) 0 = true := by
  rw [Egress.bitOf_eq_bitsOf, ← regFld, Generation.regFld_setFld_same]
  rfl

/-- A link enabled trains. -/
theorem jodonEnable_on_spec (hoff : jodonOff d n = false) :
    let d' := beginTraining n (setFld (rJodonCfg n) 0 1 1 d)
    linkOf d' n = { linkOf d n with state := 1, phase := 1, since := beat d } ∧ linkState d' n = 1 ∧
    (∀ y, y ≠ n → linkOf d' y = linkOf d y) := by
  intro d'
  have hlink : linkOf d' n = { linkOf d n with state := 1, phase := 1, since := beat d } := by
    simp only [d', beginTraining, linkOf_modLink_at, linkOf_setFld, beat, setFld_time]
  have hbit : bitOf (regVal d' (rJodonCfg n)) 0 = true := by
    simp only [d', beginTraining, regVal, modLink_keeps]
    exact bitOf_setFld_enable ..
  have hoff' : jodonOff d' n = false := by
    rw [← hoff]
    exact jodonOff_eq (by simp [d', beginTraining]) (by simp [d', beginTraining])
  refine ⟨hlink, ?_, fun y hy => (linkOf_modLink_off _ _ hy).trans (linkOf_setFld ..)⟩
  unfold linkState
  rw [if_neg (by simp [hoff', hbit]), hlink]

/-- A link disabled: an UP one first loses its accesses. -/
theorem jodonEnable_down_spec (hn : n < 20) :
    let d' := setFld (rJodonCfg n) 0 1 0 (modLink n (fun l => { l with logged := [], cause := 0 })
      (if linkState d n = 3 then linkLost n 1 d else d))
    linkState d' n = 0 ∧ (linkOf d' n).logged = [] ∧ (linkState d n = 3 → d'.fab.outs.all (fun o => o.link != n) = true) ∧
    (∀ y, y ≠ n → linkOf d' y = linkOf d y) := by
  intro d'
  have hbit : bitOf (regVal d' (rJodonCfg n)) 0 = false := HostRings.bitOf_setFld_clear ..
  have hlink (y : Nat) : linkOf d' y = linkOf (modLink n (fun l => { l with logged := [], cause := 0 })
      (if linkState d n = 3 then linkLost n 1 d else d)) y := linkOf_setFld ..
  refine ⟨if_pos (by simp [hbit]), ?_, fun hup => ?_, fun y hy => ?_⟩
  · rw [hlink, linkOf_modLink_at]
  · obtain ⟨-, -, -, houts, -⟩ := linkLost_spec hn 1 hup
    have hfab : d'.fab.outs = (linkLost n 1 d).fab.outs := by
      simp only [d', setFld_fab]
      rw [if_pos hup]
      rfl
    rw [hfab]
    exact houts
  · rw [hlink, linkOf_modLink_off _ _ hy]
    split
    · rename_i hup
      obtain ⟨-, -, hothers, -⟩ := linkLost_spec hn 1 hup
      exact hothers y hy
    · rfl

/-- What an IDENT refused leaves. -/
theorem jodonIdent_refused_spec (pkg plink tag : Nat) (same : Bool) (h : linkState d n = 1) (h5 : (linkOf d n).phase = 5)
    (hc : identCause d pkg tag same ≠ 0) :
    let d' := jodonIdent n pkg plink tag same d
    let cause := identCause d pkg tag same
    (linkOf d' n).state = 4 ∧ (linkOf d' n).cause = cause ∧ (linkOf d' n).logged.contains cause = true ∧
    ((linkOf d n).logged.contains cause = true → d'.isl = d.isl) ∧
    ((linkOf d n).logged.contains cause = false → d'.isl.log.getLast?.map (fun e => e.code) = some 0x112) ∧
    (∀ y, y ≠ n → linkOf d' y = linkOf d y) := by
  intro d' cause
  have hd : d' = _ := jodonIdent_of_refused (pkg := pkg) (plink := plink) h h5 hc
  have hfab : d'.fab = (modLink n (fun l => { rejected cause pkg plink d l with
      logged := if (linkOf d n).logged.contains cause then l.logged else l.logged ++ [cause] }) d).fab := by
    rw [hd]
    unfold when
    split
    · simp only [islandLog_keeps]
      rfl
    · rfl
  have hlink (y : Nat) := congrArg (fun x : Fabric => tget {} x.links y) hfab
  have hat : linkOf d' n = _ := (hlink n).trans (linkOf_modLink_at ..)
  refine ⟨?_, ?_, ?_, fun hseen => ?_, fun hseen => ?_, fun y hy => (hlink y).trans (linkOf_modLink_off _ _ hy)⟩
  · rw [hat]
    rfl
  · rw [hat]
    rfl
  · rw [hat]
    exact contains_logged ..
  · rw [hd, hseen]
    rfl
  · rw [hd, hseen]
    simp only [when, Bool.not_false, if_true]
    exact Logs.lastCode_islandLog

/-- A write of a link's configuration before its die is up leaves it. -/
theorem regVal_accessFaultOf_jodon (hn : n < 20) (kind : Nat) (d : Dev) :
    regVal (accessFaultOf 0 0 (rJodonCfg n) kind d) (rJodonCfg n) = regVal d (rJodonCfg n) := by
  have hedge := rJodonCfg_edge hn
  have hne (a : Nat) (ha : a < 0x1000000) : rJodonCfg n ≠ a := by omega
  rw [HostRings.accessFaultOf_eq, (HostRings.SignalsOnly.raiseErr ..).regVal, regVal_setFld, if_neg (hne _ (by decide)), regVal_bump]
  unfold HostRings.faultRecorded
  dsimp only
  split
  · exact regVal_setReg_other _ _ (hne _ (by decide))
  · rw [regVal_setReg_other _ _ (hne _ (by decide)), regVal_setReg_other _ _ (hne _ (by decide))]

theorem fab_accessFaultOf (fn bar off kind : Nat) (d : Dev) : (accessFaultOf fn bar off kind d).fab = d.fab := by
  rw [HostRings.accessFaultOf_eq, (FabKept.raiseErr ..).fab, setFld_fab, bump, bumpN_fab]
  unfold HostRings.faultRecorded
  dsimp only
  split
  · rw [setFld_fab]
  · rw [setReg_fab, setReg_fab]

theorem blockUp_jodon (hn : n < 20) (d : Dev) : blockUp d (rJodonCfg n) = decide (5 ≤ d.boot.step) := if_pos (rJodonCfg_edge hn)

theorem gate_of_up {f : Dev → Dev} (hn : n < 20) (h : 5 ≤ d.boot.step) : gate 0 (rJodonCfg n) f d = f d :=
  if_pos ((blockUp_jodon hn d).trans (decide_eq_true h))

theorem gate_of_down {f : Dev → Dev} (hn : n < 20) (h : d.boot.step < 5) :
    gate 0 (rJodonCfg n) f d = accessFaultOf 0 0 (rJodonCfg n) 4 d :=
  if_neg (by rw [blockUp_jodon hn, decide_eq_true_eq]; omega)

end

/-- Settles O45: each event of a link, by the state and the phase it finds. -/
theorem jodonLinks : Obligations.JodonLinks := by
  intro n pkg plink tag en fw ok signal same s hn hpkg hplink htag
  have hw : within [(n, 20)] = true := by simp [within, hn]
  have henable : Gives (.jodonEnableWrite n en fw) s (gate 0 (rJodonCfg n) (jodonEnable n en fw) s.dev) :=
    Flows.gives_of_exec (exec_jodonEnableWrite n en fw s) hw
  have hretrain : Gives (.jodonRetrain n) s (gate 0 (rJodonCfg n) (jodonRetrain n) s.dev) :=
    Flows.gives_of_exec (exec_jodonRetrain n s) hw
  have hphase : Gives (.jodonTrainingPhaseEnd n ok signal) s (phaseEnd n ok signal s.dev) :=
    Flows.gives_of_exec (exec_jodonTrainingPhaseEnd n ok signal s) hw
  have hident : Gives (.jodonIdent n pkg plink (tag % 2 ^ 24) same) s (jodonIdent n pkg plink (tag % 2 ^ 24) same s.dev) :=
    Flows.gives_of_exec (exec_jodonIdent n pkg plink (tag % 2 ^ 24) same s) (by
      rw [wf_jodonIdent]
      simp [within, hn, hpkg, hplink]
      omega)
  have hretry : Gives (.jodonRetryTimer n) s (retryTimer n s.dev) := Flows.gives_of_exec (exec_jodonRetryTimer n s) hw
  have hfail : Gives (.jodonLinkFail n) s (linkFail n s.dev) := Flows.gives_of_exec (exec_jodonLinkFail n s) hw
  have hpins : Gives (.jodonPinHoldExpire n) s (pinHoldExpire n s.dev) := Flows.gives_of_exec (exec_jodonPinHoldExpire n s) hw
  have htime : Gives (.jodonTimeout tag) s (jodonTimeout tag s.dev) := Flows.gives_of_exec (exec_jodonTimeout tag s) (by
    rw [wf_jodonTimeout]
    simpa [within] using htag)
  dsimp only
  refine ⟨fun hstep => ?_, fun hstep => ?_, fun hst => ?_, fun hst => ?_, fun h => ?_, fun h => ?_, fun hst h16 => ?_, fun h => ?_,
    ⟨_, hpins, rfl, mem_pinHoldExpire n s.dev⟩, fun h => ?_, fun o ho => ⟨fun h => ?_, fun hle hup => ?_⟩⟩
  · rw [gate_of_up hn hstep] at henable hretrain
    refine ⟨fun hoff => ⟨fun hfw => ?_, fun hfw => ?_⟩, fun hoff => ⟨fun h => ?_, fun hen h => ?_, fun hen h => ?_⟩,
      fun hup => ?_, fun hup => ?_⟩
    · subst hfw
      rwa [jodonEnable_of_off hoff] at henable
    · subst hfw
      rw [jodonEnable_of_off hoff] at henable
      exact ⟨_, henable, Mfio.ctrVal_fwBound 2 2 (by decide) s.dev, by simp, by simp⟩
    · rwa [jodonEnable_of_same hoff h] at henable
    · subst hen
      rw [jodonEnable_of_on hoff h] at henable
      exact ⟨_, henable, jodonEnable_on_spec hoff⟩
    · subst hen
      rw [jodonEnable_of_down hoff h] at henable
      exact ⟨_, henable, jodonEnable_down_spec hn⟩
    · rw [show jodonRetrain n s.dev = linkLost n 1 s.dev from if_pos hup] at hretrain
      exact answers_lost hn hup hretrain
    · rwa [show jodonRetrain n s.dev = s.dev from if_neg hup] at hretrain
  · rw [gate_of_down hn hstep] at henable
    exact ⟨_, henable, fab_accessFaultOf .., regVal_accessFaultOf_jodon hn 4 s.dev⟩
  · rw [phaseEnd_of_not (.inl hst)] at hphase
    rw [jodonIdent_of_not (.inl hst)] at hident
    exact ⟨hphase, hident⟩
  · refine ⟨fun hok hsig => ?_, fun hok hsig => ?_, fun hok hp => ?_, fun hok hp => ?_, fun hok hp => ?_, fun hok hp => ?_, fun hp => ?_,
      fun hp hc => ?_, fun hp hc => ?_⟩
    · subst hok hsig
      rw [phaseEnd_of_failed hst, if_pos rfl] at hphase
      exact ⟨_, hphase, modLink_changes_link _⟩
    · subst hok hsig
      rw [phaseEnd_of_failed hst, if_neg Bool.false_ne_true] at hphase
      exact ⟨_, hphase, modLink_changes_link _⟩
    · subst hok
      rw [phaseEnd_of_ok hst (by omega), if_pos hp] at hphase
      have h := modLink_changes_link (n := n) (d := s.dev) (fun l => { l with phase := if needsCal l then 2 else 3 })
      rw [phase_needsCal] at h
      exact ⟨_, hphase, h⟩
    · subst hok
      rw [phaseEnd_of_ok hst (by omega), if_neg (by omega), if_pos hp] at hphase
      exact ⟨_, hphase, modLink_changes_link _⟩
    · subst hok
      rw [phaseEnd_of_ok hst (by omega), if_neg (by omega), if_neg (by omega)] at hphase
      exact ⟨_, hphase, modLink_changes_link _⟩
    · rwa [phaseEnd_of_not (.inr ⟨hp, hok⟩)] at hphase
    · rwa [jodonIdent_of_not (.inr hp)] at hident
    · rw [jodonIdent_of_accepted hst hp hpkg hplink hc] at hident
      exact ⟨_, hident, modLink_changes_link _⟩
    · exact ⟨_, hident, jodonIdent_refused_spec pkg plink _ same hst hp hc⟩
  · rw [retryTimer_of_due h] at hretry
    exact ⟨_, hretry, modLink_changes_link _⟩
  · rwa [retryTimer_of_not h] at hretry
  · rw [show linkFail n s.dev = linkLost n 1 s.dev from if_pos ⟨hst, h16⟩] at hfail
    exact answers_lost hn hst hfail
  · rwa [show linkFail n s.dev = s.dev from if_neg (by omega)] at hfail
  · rwa [jodonTimeout_of_none h] at htime
  · rwa [jodonTimeout_of_some ho, if_neg (by omega)] at htime
  · rw [jodonTimeout_of_some ho, if_pos ⟨hle, hup⟩] at htime
    refine ⟨_, htime, ?_, faultQ_loseOut, ?_⟩
    · rw [fab_loseOut]
    · rw [fab_loseOut]

end Sys2Proof.JodonLinks

/-! ## Counter reads and the Gong -/

namespace Sys2Proof.Gongs

open Sys2Proof.Machine Sys2Proof.Safety Sys2Proof.Laws Sys2Proof.Rings

variable {d : Dev} {t : Nat}

/-! ### COUNTERS_READ (R556 to R560) -/

section

variable {c : Cmd}

/-- The reader of a command: none for a PF, else the VF's partition. -/
def readerOf (d : Dev) (c : Cmd) : Option Nat := if cmdFn c % 64 = 0 then none else some (cmdPart d c)

/-- The records that a read asks for, and their size. -/
def recordsOf (d : Dev) (c : Cmd) : Nat × List (List Byte) :=
  groupRecs d (readerOf d c) (cmdFn c) (bitsOf (cmdFld c 24 4) 0 8) (bitsOf (cmdFld c 24 4) 8 8) (bitOf (cmdFld c 24 4) 16)

/-- How many of them fit. -/
def recordsFit (d : Dev) (c : Cmd) : Nat := min (recordsOf d c).2.length ((cmdFld c 28 4 - 64) / (recordsOf d c).1)

/-- The header of a read (R557). -/
def readHeader (d : Dev) (c : Cmd) : List Byte :=
  let w := cmdFld c 24 4
  let fr := bitOf w 16
  let x := recordsOf d c
  let n := recordsFit d c
  toLe 1 0x71 ++ toLe 1 (bitsOf w 0 8) ++ toLe 1 (bitsOf w 8 8)
    ++ toLe 1 (b2n fr + 2 * b2n (decide (n < x.2.length)) + 4 * b2n (fr && d.obs.lastLate))
    ++ toLe 4 x.1 ++ toLe 4 n ++ toLe 4 x.2.length ++ toLe 8 (if fr then d.obs.lastT else beat d)
    ++ toLe 4 (if fr then d.obs.lastSeq else 0) ++ toLe 1 (if fr then d.obs.lastOrigin else 0) ++ zeroBytes 35

theorem length_readHeader (d : Dev) (c : Cmd) : (readHeader d c).length = 64 := by
  simp [readHeader, zeroBytes]

theorem take_readHeader (d : Dev) (c : Cmd) : (readHeader d c).take 2 = toLe 1 0x71 ++ toLe 1 (bitsOf (cmdFld c 24 4) 0 8) := rfl

/-- The bytes of a read: its header and the whole records that fit. -/
def readBytes (d : Dev) (c : Cmd) : List Byte := readHeader d c ++ ((recordsOf d c).2.take (recordsFit d c)).flatten

theorem countersRead_eq (t : Nat) (c : Cmd) (d : Dev) : countersRead t c d =
    if countersBad d c then complete t .invalidField 0 d
    else if (readerOf d c).isSome ∧ groupPf (bitsOf (cmdFld c 24 4) 0 8) then complete t .accessDenied 0 d
    else if ¬ dmaOk d (cmdFn c) (cmdFld c 32 8) (readBytes d c).length true then complete t .accessDenied 0 d
    else complete t .ok (readBytes d c).length (when (bitOf (cmdFld c 24 4) 17)
      (freeTags (bitOf (cmdFld c 24 4) 16) (clustersIn d (readerOf d c) (bitsOf (cmdFld c 24 4) 8 8)) (recordsFit d c))
      (hostWrite (cmdFn c) (cmdFld c 32 8) (readBytes d c) d)) := rfl

end

/-! ### The freeze (R563, R565) -/

/-- The device frozen, before the waiting GONG commands complete. -/
def frozenBy (g : Gong) (d : Dev) : Dev :=
  let sats := (d.comp.cores.filter (fun x => x.2.persistOf != 0)).foldl
    (fun t x => tput [] t (x.2.persistOf - 1 + 65536 * x.1) (satOf d x.1)) []
  bump .gongs 0 0 (when g.late (setFld rGongStatus 17 1 1) (onObs (fun o => { o with
    gong := none, frozenTags := o.tags, frozenOver := o.tagsOver, frozenSat := sats, hasFrozen := true
    latched := (o.latched + 1) % 65536, lastT := g.at_, lastOrigin := g.origin, lastSeq := g.seq, lastLate := g.late }) { d with frozen := d.ctr }))

/-- The tickets of the GONG commands that wait. -/
def gongsWaiting (d : Dev) : List Nat := (d.cmds.filter (fun e => opcodeOf e.2 == 0x51 && e.2.st == 1)).map (·.1)

theorem gongLatch_of_none (h : d.obs.gong = none) : gongLatch d = d := by
  unfold gongLatch
  rw [h]

theorem gongLatch_of_early {g : Gong} (h : d.obs.gong = some g) (hlt : beat d < g.at_) : gongLatch d = d := by
  unfold gongLatch
  rw [h]
  exact if_pos hlt

theorem gongLatch_of_due {g : Gong} (h : d.obs.gong = some g) (hle : g.at_ ≤ beat d) :
    gongLatch d = (gongsWaiting (frozenBy g d)).foldl (fun d t => complete t .ok g.at_ d) (frozenBy g d) := by
  unfold gongLatch
  rw [h]
  exact if_neg (Nat.not_lt.mpr hle)

/-- What the freeze writes of what is observed. -/
theorem frozenBy_obs (g : Gong) (d : Dev) : ∃ sats, (frozenBy g d).obs = { d.obs with
    gong := none, frozenTags := d.obs.tags, frozenOver := d.obs.tagsOver, frozenSat := sats, hasFrozen := true
    latched := (d.obs.latched + 1) % 65536, lastT := g.at_, lastOrigin := g.origin, lastSeq := g.seq, lastLate := g.late } := by
  refine ⟨(d.comp.cores.filter (fun x => x.2.persistOf != 0)).foldl
    (fun t x => tput [] t (x.2.persistOf - 1 + 65536 * x.1) (satOf d x.1)) [], ?_⟩
  unfold frozenBy
  simp only [bump, bumpN_obs, when]
  split
  · rw [setFld_obs]
    rfl
  · rfl

/-- What the freeze leaves, and its count. -/
theorem frozenBy_keeps (g : Gong) (d : Dev) : (frozenBy g d).frozen = d.ctr ∧ (frozenBy g d).cmds = d.cmds ∧ (frozenBy g d).comp = d.comp ∧
    (frozenBy g d).fab = d.fab ∧ ctrVal (frozenBy g d) .gongs 0 0 = ctrVal d .gongs 0 0 + 1 := by
  unfold frozenBy
  rw [ctrVal_bump_same]
  simp only [bump, bumpN_frozen, bumpN_cmds, bumpN_comp, bumpN_fab, when]
  split
  · rw [ctrVal_setFld, setFld_frozen, setFld_cmds, setFld_comp, setFld_fab]
    exact ⟨rfl, rfl, rfl, rfl, rfl⟩
  · exact ⟨rfl, rfl, rfl, rfl, rfl⟩

/-- What a completion leaves of the counters frozen, of what is observed, of the cores and of the links. -/
theorem kept_of_completion {d d' : Dev} (h : CompletionOnly d d') : d'.frozen = d.frozen ∧ d'.obs = { d.obs with arms := d'.obs.arms } ∧
    d'.comp = d.comp ∧ d'.fab.links = d.fab.links := by
  rw [show d' = _ from h]
  exact ⟨rfl, rfl, rfl, rfl⟩

/-- The freeze and what it leaves: the GONG commands that waited complete, and nothing else. -/
theorem gongLatch_due {g : Gong} (h : d.obs.gong = some g) (hle : g.at_ ≤ beat d) : ∃ sats, (gongLatch d).frozen = d.ctr ∧
    (gongLatch d).obs = { d.obs with
      gong := none, frozenTags := d.obs.tags, frozenOver := d.obs.tagsOver, frozenSat := sats, hasFrozen := true
      latched := (d.obs.latched + 1) % 65536, lastT := g.at_, lastOrigin := g.origin, lastSeq := g.seq, lastLate := g.late
      arms := (gongLatch d).obs.arms } ∧
    (gongLatch d).comp = d.comp ∧ (gongLatch d).fab.links = d.fab.links := by
  obtain ⟨sats, hobs⟩ := frozenBy_obs g d
  obtain ⟨hfrozen, -, hcomp, hfab, -⟩ := frozenBy_keeps g d
  have hc : CompletionOnly (frozenBy g d) (gongLatch d) := by
    rw [gongLatch_of_due h hle]
    exact CompletionOnly.foldl (fun d t => .complete ..) _ _
  obtain ⟨hf, ho, hco, hl⟩ := kept_of_completion hc
  refine ⟨sats, hf.trans hfrozen, ?_, hco.trans hcomp, hl.trans (by rw [hfab])⟩
  rw [ho, hobs]

/-- With no GONG command waiting the freeze is counted and completes none. -/
theorem gongLatch_alone {g : Gong} (h : d.obs.gong = some g) (hle : g.at_ ≤ beat d)
    (hnone : d.cmds.all (fun e => opcodeOf e.2 != 0x51 || e.2.st != 1) = true) :
    ctrVal (gongLatch d) .gongs 0 0 = ctrVal d .gongs 0 0 + 1 ∧ (gongLatch d).cmds = d.cmds := by
  obtain ⟨-, hcmds, -, -, hctr⟩ := frozenBy_keeps g d
  have hwait : gongsWaiting (frozenBy g d) = [] := by
    rw [gongsWaiting, hcmds, List.map_eq_nil_iff, List.filter_eq_nil_iff]
    intro e he
    have := List.all_eq_true.mp hnone e he
    simpa [imp_iff_not_or] using this
  rw [gongLatch_of_due h hle, hwait]
  exact ⟨hctr, hcmds⟩

/-! ### A freeze asked for (R564) -/

/-- Whether a freeze asked for comes before the one that is scheduled. -/
def comesFirst (g : Gong) : Option Gong → Bool
  | none => true
  | some h => decide (g.at_ < h.at_ ∨ (g.at_ = h.at_ ∧ g.origin < h.origin))

theorem gongAsk_eq (g : Gong) (d : Dev) : gongAsk g d = if comesFirst g d.obs.gong then
    when (decide (g.at_ < beat d)) gongLatch (onObs (fun o => { o with gong := some { g with late := decide (g.at_ < beat d) } }) d) else d := by
  unfold gongAsk comesFirst
  cases d.obs.gong <;> rfl

theorem comesFirst_none (g : Gong) : comesFirst g none = true := rfl

/-- One that does not come first leaves an earlier one. -/
theorem le_of_not_comesFirst {g : Gong} {o : Option Gong} (h : ¬ comesFirst g o = true) : ∃ h, o = some h ∧ h.at_ ≤ g.at_ := by
  cases o with
  | none => exact absurd rfl h
  | some x =>
    have hx := of_decide_eq_false (Bool.eq_false_iff.mpr h)
    exact ⟨x, rfl, by omega⟩

theorem le_of_comesFirst {g x : Gong} (h : comesFirst g (some x) = true) : g.at_ ≤ x.at_ := by
  have hx := of_decide_eq_true h
  omega

/-- A freeze asked for at an instant that has not passed is scheduled, or an earlier one stays. -/
theorem gongAsk_ahead {g : Gong} (h : beat d ≤ g.at_) : gongAsk g d =
    if comesFirst g d.obs.gong then onObs (fun o => { o with gong := some { g with late := false } }) d else d := by
  rw [gongAsk_eq, decide_eq_false (Nat.not_lt.mpr h)]
  rfl

/-- One whose instant has passed latches at once. -/
theorem gongAsk_late {g : Gong} (h : g.at_ < beat d) (hnone : d.obs.gong = none) :
    gongAsk g d = gongLatch (onObs (fun o => { o with gong := some { g with late := true } }) d) := by
  rw [gongAsk_eq, hnone, comesFirst_none, decide_eq_true h]
  rfl

/-- Asked for or not, links, cores and the pairs seen stay. -/
theorem gongAsk_keeps (g : Gong) (d : Dev) : (gongAsk g d).fab.links = d.fab.links ∧ (gongAsk g d).obs.seen = d.obs.seen ∧
    (gongAsk g d).comp = d.comp := by
  rw [gongAsk_eq]
  split
  · by_cases hlate : g.at_ < beat d
    · rw [decide_eq_true hlate]
      obtain ⟨sats, -, hobs, hcomp, hlinks⟩ :=
        gongLatch_due (d := onObs (fun o => { o with gong := some { g with late := true } }) d) rfl (Nat.le_of_lt hlate)
      refine ⟨hlinks, ?_, hcomp⟩
      simp only [when, if_true]
      rw [hobs]
      rfl
    · rw [decide_eq_false hlate]
      exact ⟨rfl, rfl, rfl⟩
  · exact ⟨rfl, rfl, rfl⟩

/-! ### GONG messages (R564) -/

theorem sentOn_gongSend (k : Nat) (g : Gong) (hops : Nat) (d : Dev) : Beats.SentOn k d (gongSend k g hops d) := .linkSend ..

/-- What sending on links leaves: all but links, counts and outputs. -/
def Sent (d d' : Dev) : Prop := d' = { d with fab := { d.fab with links := d'.fab.links }, ctr := d'.ctr, out := d'.out }

theorem Sent.trans {a b c : Dev} (h : Sent a b) (h' : Sent b c) : Sent a c := by
  unfold Sent at h'
  rw [h] at h'
  exact h'

/-- Messages to several links change those links alone. -/
theorem sent_foldl (g : Gong) (hops : Nat) (l : List Nat) (d : Dev) :
    let d' := l.foldl (fun d k => gongSend k g hops d) d
    Sent d d' ∧ ∀ n, n ∉ l → linkOf d' n = linkOf d n := by
  induction l generalizing d with
  | nil => exact ⟨rfl, fun _ _ => rfl⟩
  | cons k l ih =>
    obtain ⟨hrest, hlink⟩ := ih (gongSend k g hops d)
    have hk := sentOn_gongSend k g hops d
    refine ⟨Sent.trans hk.rest hrest, fun n hn => ?_⟩
    rw [List.mem_cons, not_or] at hn
    exact (hlink n hn.2).trans (hk.others n hn.1)

/-! ### GONG and JODON_GONG (R564) -/

section

variable {c : Cmd}

/-- The freeze that a command asks for. -/
def ownGong (d : Dev) (c : Cmd) : Gong :=
  { at_ := beat d + (if cmdFld c 24 1 == 1 then 20000 else 1000), origin := ownPkg d, seq := d.obs.nextSeq }

/-- The device that has noted the freeze it asks for. -/
def gongNoted (t : Nat) (d : Dev) : Dev :=
  onObs (fun o => { o with nextSeq := (o.nextSeq + 1) % 2 ^ 32, seen := (ownPkg d, d.obs.nextSeq) :: o.seen })
    (modCmd t (fun c => { c with st := 1 }) d)

/-- The device that has sent it through its pod, where it asks for that. -/
def gongSpread (t : Nat) (c : Cmd) (d : Dev) : Dev :=
  if cmdFld c 24 1 == 1 then (upLinks (gongNoted t d)).foldl (fun d' n => gongSend n (ownGong d c) 0 d') (gongNoted t d) else gongNoted t d

theorem sent_gongSpread (t : Nat) (c : Cmd) (d : Dev) : Sent (gongNoted t d) (gongSpread t c d) := by
  unfold gongSpread
  split
  · exact (sent_foldl ..).1
  · rfl

/-- The freeze lies ahead: it is scheduled, or one before it stays. -/
theorem gongCmd_eq (t : Nat) (c : Cmd) (d : Dev) : gongCmd t c d =
    if comesFirst (ownGong d c) d.obs.gong then onObs (fun o => { o with gong := some (ownGong d c) }) (gongSpread t c d)
    else gongSpread t c d := by
  have hs := sent_gongSpread t c d
  have hobs : (gongSpread t c d).obs.gong = d.obs.gong := by
    rw [show gongSpread t c d = _ from hs]
    rfl
  have hbeat : beat (gongSpread t c d) = beat d := by
    rw [show gongSpread t c d = _ from hs]
    rfl
  have hahead : beat (gongSpread t c d) ≤ (ownGong d c).at_ := by
    rw [hbeat]
    exact Nat.le_add_right ..
  have h := gongAsk_ahead hahead
  rw [hobs] at h
  exact h

/-- What GONG leaves. -/
theorem gongCmd_spec (t : Nat) (c : Cmd) (d : Dev) :
    let d' := gongCmd t c d
    cmdOf d' t = { cmdOf d t with st := 1 } ∧ d'.obs.nextSeq = (d.obs.nextSeq + 1) % 2 ^ 32 ∧
    d'.obs.seen = (ownPkg d, d.obs.nextSeq) :: d.obs.seen ∧ (d.obs.gong = none → d'.obs.gong = some (ownGong d c)) ∧
    (∃ g, d'.obs.gong = some g ∧ g.at_ ≤ (ownGong d c).at_ ∧ ∀ h, d.obs.gong = some h → g.at_ ≤ h.at_) ∧
    ((cmdFld c 24 1 == 1) = false → d'.fab = d.fab) ∧ d'.frozen = d.frozen ∧ d'.comp = d.comp := by
  intro d'
  have hs := sent_gongSpread t c d
  have hd : d' = { gongSpread t c d with obs := d'.obs } ∧
      d'.obs = { (gongSpread t c d).obs with gong := d'.obs.gong } ∧
      d'.obs.gong = if comesFirst (ownGong d c) d.obs.gong then some (ownGong d c) else (gongSpread t c d).obs.gong := by
    rw [show d' = _ from gongCmd_eq t c d]
    split
    · exact ⟨rfl, rfl, rfl⟩
    · exact ⟨rfl, rfl, rfl⟩
  obtain ⟨hrest, hobs, hgong⟩ := hd
  have hspread : (gongSpread t c d).obs = (gongNoted t d).obs := by rw [show gongSpread t c d = _ from hs]
  rw [hspread] at hobs hgong
  refine ⟨?_, ?_, ?_, fun hnone => ?_, ?_, fun hpod => ?_, ?_, ?_⟩
  · have hcmds : d'.cmds = (modCmd t (fun c => { c with st := 1 }) d).cmds := by
      rw [hrest, show gongSpread t c d = _ from hs]
      rfl
    rw [cmdOf, hcmds]
    exact cmdOf_modCmd_at ..
  · rw [hobs]
    rfl
  · rw [hobs]
    rfl
  · rw [hgong, hnone, comesFirst_none, if_pos rfl]
  · by_cases hfirst : comesFirst (ownGong d c) d.obs.gong = true
    · refine ⟨_, hgong.trans (if_pos hfirst), Nat.le_refl _, fun h hh => ?_⟩
      rw [hh] at hfirst
      exact le_of_comesFirst hfirst
    · obtain ⟨x, hx, hle⟩ := le_of_not_comesFirst hfirst
      refine ⟨x, (hgong.trans (if_neg hfirst)).trans hx, hle, fun h hh => ?_⟩
      rw [Option.some.inj (hx.symm.trans hh)]
  · rw [hrest]
    change (gongSpread t c d).fab = d.fab
    rw [gongSpread, if_neg (by simp [hpod])]
    rfl
  · rw [hrest, show gongSpread t c d = _ from hs]
    rfl
  · rw [hrest, show gongSpread t c d = _ from hs]
    rfl

end

section

variable {n : Nat} {msg : JMsg}

/-- The freeze that a message asks for. -/
def heardGong (msg : JMsg) : Gong :=
  { at_ := leNat ((msg.extra.drop 0).take 8), origin := leNat ((msg.extra.drop 8).take 1) % 8, seq := leNat ((msg.extra.drop 12).take 4) }

/-- The device that has taken the message and noted its pair. -/
def heardNoted (n : Nat) (msg : JMsg) (d : Dev) : Dev :=
  onObs (fun o => { o with seen := ((heardGong msg).origin, (heardGong msg).seq) :: o.seen }) (rxTake n msg d)

/-- The device that has relayed it. -/
def heardSpread (n : Nat) (msg : JMsg) (d : Dev) : Dev :=
  if leNat ((msg.extra.drop 9).take 1) < 7 then ((upLinks (heardNoted n msg d)).filter (· != n)).foldl
    (fun d' k => gongSend k (heardGong msg) (leNat ((msg.extra.drop 9).take 1) + 1) d') (heardNoted n msg d)
  else heardNoted n msg d

theorem sent_heardSpread (n : Nat) (msg : JMsg) (d : Dev) : Sent (heardNoted n msg d) (heardSpread n msg d) ∧
    linkOf (heardSpread n msg d) n = linkOf (heardNoted n msg d) n := by
  unfold heardSpread
  split
  · obtain ⟨hrest, hlink⟩ := sent_foldl (heardGong msg) (leNat ((msg.extra.drop 9).take 1) + 1)
      ((upLinks (heardNoted n msg d)).filter (· != n)) (heardNoted n msg d)
    exact ⟨hrest, hlink n (by simp)⟩
  · exact ⟨rfl, rfl⟩

theorem jodonGong_of_none (h : rxFind d n (fun m => m.type == 0x67) = none) : jodonGong n d = d := by
  unfold jodonGong
  rw [h]

theorem jodonGong_of_seen (h : rxFind d n (fun m => m.type == 0x67) = some msg)
    (hseen : d.obs.seen.contains ((heardGong msg).origin, (heardGong msg).seq) = true) : jodonGong n d = rxTake n msg d := by
  unfold jodonGong
  rw [h]
  exact if_pos hseen

theorem jodonGong_of_new (h : rxFind d n (fun m => m.type == 0x67) = some msg)
    (hseen : d.obs.seen.contains ((heardGong msg).origin, (heardGong msg).seq) = false) :
    jodonGong n d = gongAsk (heardGong msg) (heardSpread n msg d) := by
  unfold jodonGong
  rw [h]
  exact if_neg (fun hc => Bool.false_ne_true (hseen.symm.trans hc))

/-- What a new pair leaves: it is noted, and its freeze scheduled, or made at once where its instant has passed. -/
theorem jodonGong_new_spec (h : rxFind d n (fun m => m.type == 0x67) = some msg)
    (hseen : d.obs.seen.contains ((heardGong msg).origin, (heardGong msg).seq) = false) :
    let d' := jodonGong n d
    (linkOf d' n).rx = (linkOf d n).rx.erase msg ∧ d'.obs.seen = ((heardGong msg).origin, (heardGong msg).seq) :: d.obs.seen ∧
    (beat d ≤ (heardGong msg).at_ → d'.obs.gong.any (fun g => decide (g.at_ ≤ (heardGong msg).at_)) = true ∧ d'.frozen = d.frozen) ∧
    ((heardGong msg).at_ < beat d → d.obs.gong = none →
      d'.obs.gong = none ∧ d'.obs.hasFrozen = true ∧ d'.obs.lastT = (heardGong msg).at_ ∧ d'.obs.lastLate = true) ∧ d'.comp = d.comp := by
  intro d'
  obtain ⟨hsent, hlink⟩ := sent_heardSpread n msg d
  have hd : d' = gongAsk (heardGong msg) (heardSpread n msg d) := jodonGong_of_new h hseen
  have hobs : (heardSpread n msg d).obs = (heardNoted n msg d).obs := by rw [show heardSpread n msg d = _ from hsent]
  have hgong : (heardSpread n msg d).obs.gong = d.obs.gong := by
    rw [hobs]
    rfl
  have hbeat : beat (heardSpread n msg d) = beat d := by
    rw [show heardSpread n msg d = _ from hsent]
    rfl
  have hfrozen : (heardSpread n msg d).frozen = d.frozen := by
    rw [show heardSpread n msg d = _ from hsent]
    rfl
  obtain ⟨hlinks, hseen', hcomp⟩ := gongAsk_keeps (heardGong msg) (heardSpread n msg d)
  rw [← hd] at hlinks hseen' hcomp
  refine ⟨?_, ?_, fun hahead => ?_, fun hlate hnone => ?_, ?_⟩
  · rw [linkOf, hlinks, ← linkOf, hlink]
    exact congrArg Link.rx (linkOf_modLink_at ..)
  · rw [hseen', hobs]
    rfl
  · rw [hd, gongAsk_ahead (hbeat ▸ hahead)]
    split
    · exact ⟨decide_eq_true (Nat.le_refl _), hfrozen⟩
    · rename_i hfirst
      obtain ⟨x, hx, hle⟩ := le_of_not_comesFirst hfirst
      rw [hx]
      exact ⟨decide_eq_true hle, hfrozen⟩
  · rw [hd, gongAsk_late (hbeat ▸ hlate) (hgong.trans hnone)]
    obtain ⟨sats, -, hobs', -⟩ := gongLatch_due (g := { heardGong msg with late := true })
      (d := onObs (fun o => { o with gong := some { heardGong msg with late := true } }) (heardSpread n msg d)) rfl
      (Nat.le_of_lt (show (heardGong msg).at_ < beat (heardSpread n msg d) from hbeat ▸ hlate))
    rw [hobs']
    exact ⟨rfl, rfl, rfl, rfl⟩
  · rw [hcomp, show heardSpread n msg d = _ from hsent]
    rfl

end

/-! ### The obligation -/

/-- Settles O49: what a read of counters writes, what a freeze copies, and when one that is asked for is scheduled. -/
theorem countersAndGongs : Obligations.CountersAndGongs := by
  intro q t n s hq hn
  dsimp only
  have hw : within [(q, 8192)] = true := by simp [within, hq]
  have hlatch : Gives .gongLatch s (gongLatch s.dev) := Flows.gives_of_exec (exec_gongLatch s) rfl
  have hjodon : Gives (.jodonGong n) s (jodonGong n s.dev) := Flows.gives_of_exec (exec_jodonGong n s) (by simp [wf_jodonGong, within, hn])
  refine ⟨fun hready => ?_, fun hready => ?_, fun hnone => ?_, fun g hg => ⟨fun hlt => ?_, fun hle => ?_⟩, fun hnone => ?_,
    fun msg hmsg => ⟨fun hseen => ?_, fun hseen => ⟨_, hjodon, jodonGong_new_spec hmsg hseen⟩⟩⟩
  · have hread : Gives (.countersRead q t) s (countersRead t (cmdOf s.dev t) s.dev) := gives_of_ready (exec_countersRead q t s) hw hready
    rw [countersRead_eq] at hread
    have hno (hmay : (readerOf s.dev (cmdOf s.dev t)).isSome = false ∨ groupPf (bitsOf (cmdFld (cmdOf s.dev t) 24 4) 0 8) = false) :
        ¬ ((readerOf s.dev (cmdOf s.dev t)).isSome = true ∧ groupPf (bitsOf (cmdFld (cmdOf s.dev t) 24 4) 0 8) = true) :=
      fun ⟨hvf, hpf⟩ => hmay.elim (fun h => Bool.false_ne_true (h.symm.trans hvf)) fun h => Bool.false_ne_true (h.symm.trans hpf)
    refine ⟨fun hbad => ?_, fun hok hvf hpf => ?_, fun hok hmay hkeep => ⟨readHeader s.dev (cmdOf s.dev t), length_readHeader _ _,
      take_readHeader _ _, fun hdma => ?_, fun hdma => ?_⟩⟩
    · rwa [if_pos hbad] at hread
    · rwa [if_neg (by simp [hok]), if_pos ⟨hvf, hpf⟩] at hread
    · have hdma : dmaOk s.dev (cmdFn (cmdOf s.dev t)) (cmdFld (cmdOf s.dev t) 32 8) (readBytes s.dev (cmdOf s.dev t)).length true = false := hdma
      rwa [if_neg (by simp [hok]), if_neg (hno hmay), if_pos (by simp [hdma])] at hread
    · have hdma : dmaOk s.dev (cmdFn (cmdOf s.dev t)) (cmdFld (cmdOf s.dev t) 32 8) (readBytes s.dev (cmdOf s.dev t)).length true = true := hdma
      rw [if_neg (by simp [hok]), if_neg (hno hmay), if_neg (by simp [hdma]), hkeep] at hread
      exact hread
  · exact ⟨_, gives_of_ready (exec_gong q t s) hw hready, gongCmd_spec t (cmdOf s.dev t) s.dev⟩
  · rwa [gongLatch_of_none hnone] at hlatch
  · rwa [gongLatch_of_early hg hlt] at hlatch
  · obtain ⟨sats, hfrozen, hobs, hcomp, -⟩ := gongLatch_due hg hle
    refine ⟨_, hlatch, hfrozen, ?_, ?_, ?_, ?_, ?_, ?_, ?_, gongLatch_alone hg hle, hcomp⟩ <;> rw [hobs]
  · rwa [jodonGong_of_none hnone] at hjodon
  · rwa [jodonGong_of_seen hmsg hseen] at hjodon

end Sys2Proof.Gongs

/-! ## What an event leaves -/

namespace Sys2Proof.Logs

open Sys2Proof.Machine Sys2Proof.Safety Sys2Proof.Laws

variable {code sev site unit : Nat} {payload : List Byte} {d : Dev}

/-- Of the device only the island's log, its trouble counters and its ALERT, counts and outputs may differ. -/
def Logged (d d' : Dev) : Prop := d' = { d with
  ctr := d'.ctr, out := d'.out
  isl := { d.isl with
    log := d'.isl.log, seq := d'.isl.seq, unsaved := d'.isl.unsaved, trouble := d'.isl.trouble, troubleSince := d'.isl.troubleSince
    alert := d'.isl.alert, boundAt := d'.isl.boundAt } }

namespace Logged

theorem refl (d : Dev) : Logged d d := rfl

theorem trans {a b c : Dev} (h : Logged a b) (h' : Logged b c) : Logged a c := by
  unfold Logged at h'
  rw [h] at h'
  exact h'

theorem ite {c : Prop} [Decidable c] {a b d : Dev} (ha : Logged d a) (hb : Logged d b) : Logged d (if c then a else b) :=
  iteInduction (fun _ => ha) (fun _ => hb)

theorem when {b : Bool} {f : Dev → Dev} {d : Dev} (h : Logged d (f d)) : Logged d (when b f d) := ite h (refl d)

theorem bump (c : Ctr) (i j : Nat) (d : Dev) : Logged d (bump c i j d) := rfl

theorem emit (o : Out) (d : Dev) : Logged d (emit o d) := rfl

theorem logOnly (code sev site unit : Nat) (payload : List Byte) (d : Dev) : Logged d (logOnly code sev site unit payload d) := by
  have hentry (l : List LogEntry) (q : Island → Nat) (u : Island → List LogEntry) (d : Dev) :
      Logged d (Machine.bump .logEntries 0 0 (onIsl (fun x => { x with log := l, seq := q x, unsaved := u x }) d)) := rfl
  exact hentry _ _ _ d

theorem troubleUp (k : Nat) (d : Dev) : Logged d (troubleUp k d) := rfl

theorem alertOn (code : Nat) (d : Dev) : Logged d (alertOn code d) := by
  have hon : Logged d (Machine.emit (.ibi code) (onIsl (fun x => { x with alert := true }) d)) := rfl
  unfold Machine.alertOn
  dsimp only
  split
  · exact hon.trans (emit ..)
  · exact hon

theorem signalled (k : Option Nat × Bool) (code : Nat) (d : Dev) : Logged d (signalled k code d) := by
  obtain ⟨trouble, alert⟩ := k
  cases trouble <;> cases alert
  · exact refl d
  · exact alertOn ..
  · exact troubleUp ..
  · exact (troubleUp ..).trans (alertOn ..)

theorem islandLog (code site unit : Nat) (payload : List Byte) (d : Dev) : Logged d (islandLog code site unit payload d) := by
  rw [islandLog_eq]
  exact (logOnly ..).trans (signalled ..)

theorem fwBound (cls kind : Nat) (d : Dev) : Logged d (fwBound cls kind d) := by
  have hcounted : Logged d (Machine.troubleUp 11 (Machine.bump .fwBound cls 0 d)) := (bump ..).trans (troubleUp ..)
  have hat (t : Tab Nat) (d : Dev) : Logged d (onIsl (fun x => { x with boundAt := t }) d) := rfl
  unfold Machine.fwBound
  dsimp only
  split
  · exact hcounted
  · exact hcounted.trans ((hat _ _).trans (logOnly ..))

end Logged

end Sys2Proof.Logs

/-! ## Clock steps, capping and sensors -/

namespace Sys2Proof.Clocks

open Sys2Proof.Machine Sys2Proof.Safety Sys2Proof.Laws

variable {cl : Nat} {d : Dev}

/-! ### Steps in force and their targets -/

theorem targetStep_le (d : Dev) (cl : Nat) : targetStep d cl ≤ 50 := Nat.min_le_left ..

/-- A write of a cluster's clock register. -/
def targeted (cl val : Nat) (d : Dev) : Dev := setFld (rClkCfg cl) 0 7 (val % 128) d

theorem targeted_eq (cl val : Nat) (d : Dev) : targeted cl val d = { d with regs := (targeted cl val d).regs } := rfl

theorem targetStep_targeted (cl val : Nat) (d : Dev) : targetStep (targeted cl val d) cl = min 50 (val % 128) := by
  rw [targetStep, targeted, Generation.regFld_setFld_same]
  omega

theorem regVal_targeted {a val : Nat} (h : a ≠ rClkCfg cl) (d : Dev) : regVal (targeted cl val d) a = regVal d a := by
  rw [targeted, regVal_setFld, if_neg h]

/-- Of the device only the cluster's clock, its register and the power's state may differ. -/
structure Alone (cl : Nat) (d d' : Dev) : Prop where
  steps : ∀ y, y ≠ cl → curStep d' y = curStep d y
  rest : d' = { d with regs := d'.regs, pwr := d'.pwr }
  regs : ∀ a, a ≠ rClkCfg cl → regVal d' a = regVal d a

theorem Alone.of_eq {d' : Dev} (hd : d' = { d with pwr := d'.pwr })
    (hs : ∀ y, y ≠ cl → tget 0 d'.pwr.steps y = tget 0 d.pwr.steps y) : Alone cl d d' where
  steps := fun y hy => congrArg (50 - ·) (hs y hy)
  rest := by rw [hd]
  regs := fun a _ => by rw [hd]; rfl

theorem Alone.targeted {d' : Dev} {val : Nat} (h : Alone cl (targeted cl val d) d') : Alone cl d d' where
  steps := h.steps
  rest := by
    rw [h.rest, targeted_eq]
  regs := fun a ha => (h.regs a ha).trans (regVal_targeted ha d)

theorem Alone.spec {d' : Dev} (h : Alone cl d d') : (∀ y, y ≠ cl → curStep d' y = curStep d y) ∧
    d' = { d with regs := d'.regs, pwr := d'.pwr } ∧ (∀ a, a ≠ rClkCfg cl → regVal d' a = regVal d a) := ⟨h.steps, h.rest, h.regs⟩

/-! ### A target carried out (R589) -/

/-- When the regulator will have slewed to the target's voltage. -/
def voltDue (cl : Nat) (d : Dev) : Nat := beat d + (stepVolt (targetStep d cl) - groupVolt d (cl / 24)) * 200 + 10000

section

variable (hup : tget false d.isl.down (96 + cl / 6) = false)
include hup

theorem clockTarget_of_lower (h : targetStep d cl ≤ curStep d cl) : clockTarget cl d =
    unqueue (cl, true) (onPwr (fun p => { p with raiseDue := tdel p.raiseDue cl }) (setStep cl (targetStep d cl) d)) := by
  unfold clockTarget
  exact (if_neg (by simp [hup])).trans (if_pos h)

/-- A raise that needs a higher voltage waits for the regulator. -/
theorem clockTarget_of_volt (h : curStep d cl < targetStep d cl) (hp : clusterPower d cl ≤ 1)
    (hv : groupVolt d (cl / 24) < stepVolt (targetStep d cl)) : clockTarget cl d =
    onPwr (fun p => { p with raiseDue := tput 0 p.raiseDue cl (voltDue cl d + 1) }) d := by
  unfold clockTarget
  exact (if_neg (by simp [hup])).trans ((if_neg (by omega)).trans ((if_neg (by omega)).trans (if_pos hv)))

/-- A cluster in IDLE takes a step that its voltage allows at once. -/
theorem clockTarget_of_idle (h : curStep d cl < targetStep d cl) (hp : clusterPower d cl = 1)
    (hv : stepVolt (targetStep d cl) ≤ groupVolt d (cl / 24)) : clockTarget cl d =
    setStep cl (targetStep d cl) (onPwr (fun p => { p with raiseDue := tdel p.raiseDue cl }) d) := by
  unfold clockTarget
  refine (if_neg (by simp [hup])).trans ((if_neg (by omega)).trans ((if_neg (by omega)).trans ((if_neg (by omega)).trans ?_)))
  exact if_neg (show ¬ clusterPower d cl = 0 by omega)

end

/-- Of two devices with the same registers either has them. -/
theorem regs_ite {c : Prop} [Decidable c] {a b d : Dev} (ha : a.regs = d.regs) (hb : b.regs = d.regs) : (if c then a else b).regs = d.regs :=
  iteInduction (motive := fun x : Dev => x.regs = d.regs) (fun _ => ha) (fun _ => hb)

theorem regs_tryRaise (cl : Nat) (d : Dev) : (tryRaise cl d).regs = d.regs := by
  unfold tryRaise
  refine regs_ite ?_ rfl
  rw [charge, onPwr_regs, setStep, onPwr_regs, unqueue, onPwr_regs]

theorem regs_queueRaise (cl : Nat) (d : Dev) : (queueRaise cl d).regs = d.regs := by
  unfold queueRaise
  by_cases h : clusterPower d cl = 0
  · rewrite [if_pos h, regs_tryRaise]
    split
    · rfl
    · rfl
  · rewrite [if_neg h]
    rfl

/-- No target carried out writes a register. -/
theorem regs_clockTarget (cl : Nat) (d : Dev) : (clockTarget cl d).regs = d.regs := by
  unfold clockTarget
  dsimp only
  refine regs_ite rfl (regs_ite ?_ (regs_ite ?_ (regs_ite ?_ ?_)))
  · rw [unqueue, onPwr_regs, onPwr_regs, setStep, onPwr_regs]
  · rw [setStep, onPwr_regs]
  · rw [onPwr_regs]
  · rw [regs_queueRaise, onPwr_regs]

/-- Targets carried out for a die's clusters write their registers alone. -/
theorem regs_foldl_clockTarget (n val : Nat) (l : List Nat) (d : Dev) (a : Nat) (ha : ∀ k ∈ l, a ≠ rClkCfg (6 * n + k)) :
    regVal (l.foldl (fun d k => clockTarget (6 * n + k) (targeted (6 * n + k) val d)) d) a = regVal d a := by
  induction l generalizing d with
  | nil => rfl
  | cons k l ih =>
    rewrite [List.foldl_cons, ih _ (fun x hx => ha x (List.mem_cons_of_mem _ hx)), regVal, regs_clockTarget, ← regVal]
    exact regVal_targeted (ha k List.mem_cons_self) d

/-- The clusters of a die have registers of their own. -/
theorem rClkCfg_inj {n j k : Nat} (hj : j < 6) (hk : k < 6) (h : rClkCfg (6 * n + j) = rClkCfg (6 * n + k)) : j = k := by
  simp only [rClkCfg, cmpBase] at h
  omega

/-- Every cluster of a die written as one takes the target. -/
theorem targetStep_foldl (n val : Nat) (l : List Nat) (hl : ∀ k ∈ l, k < 6) (hnd : l.Nodup) (d : Dev) (k : Nat) (hk : k ∈ l) :
    targetStep (l.foldl (fun d k => clockTarget (6 * n + k) (targeted (6 * n + k) val d)) d) (6 * n + k) = min 50 (val % 128) := by
  induction l generalizing d with
  | nil => exact nomatch hk
  | cons x l ih =>
    rw [List.nodup_cons] at hnd
    rw [List.foldl_cons]
    rcases List.mem_cons.mp hk with rfl | hk
    · rewrite [targetStep, regFld, regs_foldl_clockTarget, regVal, regs_clockTarget, ← regVal, ← regFld, ← targetStep]
      · exact targetStep_targeted ..
      · intro y hy h
        have hky := rClkCfg_inj (hl k List.mem_cons_self) (hl y (List.mem_cons_of_mem _ hy)) h
        exact hnd.1 (hky ▸ hy)
    · exact ih (fun y hy => hl y (List.mem_cons_of_mem _ hy)) hnd.2 _ hk

/-! ### CLOCK_RAISE (R587, R589) -/

theorem clockRaise_of_early (h : tget 0 d.pwr.raiseDue cl ≠ 0) (hlt : beat d < tget 0 d.pwr.raiseDue cl - 1) : clockRaise cl d = d := by
  unfold clockRaise
  exact (if_pos h).trans (if_neg (by omega))

/-- A raise whose voltage has settled, of a cluster that does not run. -/
theorem clockRaise_of_settled (h : tget 0 d.pwr.raiseDue cl ≠ 0) (hle : tget 0 d.pwr.raiseDue cl - 1 ≤ beat d)
    (hp : clusterPower d cl ≠ 0) :
    clockRaise cl d = setStep cl (targetStep d cl) (onPwr (fun p => { p with raiseDue := tdel p.raiseDue cl }) d) := by
  unfold clockRaise
  exact (if_pos h).trans ((if_pos hle).trans (if_neg (show ¬ clusterPower d cl = 0 from hp)))

/-- The charge of a raise (Table 19.5). -/
def raiseCharge (cl : Nat) (d : Dev) : Nat := 8 * (targetStep d cl - curStep d cl)

/-- A raise that heads its group's queue and whose charge fits. -/
theorem clockRaise_of_fits (h : tget 0 d.pwr.raiseDue cl = 0) (hh : headOfGroup d (cl, true) = true)
    (hf : chargeFits d (cl / 24) (raiseCharge cl d) = true) :
    clockRaise cl d = charge (cl / 24) (raiseCharge cl d) (setStep cl (targetStep d cl) (unqueue (cl, true) d)) := by
  unfold clockRaise
  exact (if_neg (fun hne => hne h)).trans (if_pos ⟨hh, hf⟩)

theorem clockRaise_of_not (h : tget 0 d.pwr.raiseDue cl = 0)
    (hno : headOfGroup d (cl, true) = false ∨ chargeFits d (cl / 24) (raiseCharge cl d) = false) : clockRaise cl d = d := by
  unfold clockRaise
  refine (if_neg (fun hne => hne h)).trans (if_neg fun ⟨hh, hf⟩ => ?_)
  rcases hno with hno | hno
  · exact Bool.false_ne_true (hno.symm.trans hh)
  · exact Bool.false_ne_true (hno.symm.trans hf)

/-- A charge made is what the group has been charged and itself. -/
theorem charged_charge (g x : Nat) (d : Dev) : charged (charge g x d) g = charged d g + x := by
  have hnew : beat d < beat d + 10000 := by omega
  have hc : (charge g x d).pwr.charges = d.pwr.charges.filter (fun c => decide (beat d < c.2.1 + 10000)) ++ [(g, beat d, x)] := rfl
  have hb : beat (charge g x d) = beat d := rfl
  rewrite [charged, hc, hb, List.filter_append, List.filter_filter]
  simp [charged, hnew]

/-! ### Capping (R591, R593) -/

/-- The charges of a release, and nothing else. -/
theorem release_eq (d : Dev) : ∃ c, release d = { d with pwr := { d.pwr with charges := c } } := by
  unfold release
  refine List.foldlRecOn (motive := fun x : Dev => ∃ c, x = { d with pwr := { d.pwr with charges := c } }) _ _ ⟨d.pwr.charges, rfl⟩ ?_
  rintro x ⟨c, rfl⟩ g -
  unfold when
  split
  · exact ⟨_, rfl⟩
  · exact ⟨c, rfl⟩

/-- Since when the estimate has been calm. -/
def calmSince (d : Dev) : Option Nat :=
  if decide (powerAvg d * 100 < 97 * limitW d) then (match d.pwr.calmFrom with | some b => some b | none => some (beat d)) else none

/-- The device with the start of its calm noted. -/
def calmed (d : Dev) : Dev := onPwr (fun p => { p with calmFrom := calmSince d }) d

/-- Whether it has been calm for 100 µs. -/
def longCalm (d : Dev) : Bool := match (calmed d).pwr.calmFrom with
  | some b => decide (b + 100000 ≤ beat d)
  | none => false

/-- Whether a duty may fall again. -/
def mayFall (d : Dev) (last : Nat) : Prop := last = 0 ∨ last + 3000 ≤ beat d

/-- The power duty one lower. -/
def lowered (d : Dev) : Dev := onPwr (fun p => { p with duty := p.duty - 1, lastDuty := beat d }) (calmed d)

/-- The power duty one higher. -/
def raised (d : Dev) : Dev := release (onPwr (fun p => { p with duty := p.duty + 1, lastDuty := beat d }) (calmed d))

theorem capStep_of_over (h : limitW d < powerAvg d) (h2 : 2 < d.pwr.duty) (hm : mayFall d d.pwr.lastDuty) : capStep d =
    if d.pwr.duty = 16 then onIsl (fun x => { x with capBeat := some (beat d) }) (lowered d) else lowered d := by
  unfold capStep
  exact (if_pos h).trans (if_pos ⟨h2, hm⟩)

theorem capStep_of_held (h : limitW d < powerAvg d) (hn : d.pwr.duty ≤ 2 ∨ ¬ mayFall d d.pwr.lastDuty) : capStep d = calmed d := by
  unfold capStep
  exact (if_pos h).trans (if_neg fun ⟨h2, hm⟩ => hn.elim (fun h => by omega) fun h => h hm)

/-- Whether the power duty rises. -/
def mayRise (d : Dev) : Prop :=
  d.pwr.duty < 16 ∧ longCalm d = true ∧ d.pwr.lastDuty + 10000 ≤ beat d ∧ releaseFits (calmed d) = true

theorem capStep_of_rise (h : ¬ limitW d < powerAvg d) (hr : mayRise d) : capStep d =
    if d.pwr.duty = 15 then onIsl (fun x => { x with capBeat := none, capLogged := false }) (raised d) else raised d := by
  unfold capStep
  exact (if_neg h).trans (if_pos hr)

theorem capStep_of_still (h : ¬ limitW d < powerAvg d) (hr : ¬ mayRise d) : capStep d = calmed d := by
  unfold capStep
  exact (if_neg h).trans (if_neg hr)

/-- What the capper leaves: all but the power's state and what the island knows of a cap. -/
structure Capped (d d' : Dev) : Prop where
  rest : d' = { d with pwr := d'.pwr, isl := { d.isl with capBeat := d'.isl.capBeat, capLogged := d'.isl.capLogged } }
  est : d'.pwr.est = d.pwr.est
  throt : d'.pwr.throtOn = d.pwr.throtOn
  therm : d'.pwr.thermDuty = d.pwr.thermDuty
  last : d'.pwr.lastTherm = d.pwr.lastTherm

theorem Capped.of_eq {d' : Dev} {p : Power} {b : Option Nat} {l : Bool}
    (h : d' = { d with pwr := p, isl := { d.isl with capBeat := b, capLogged := l } }) (he : p.est = d.pwr.est)
    (ho : p.throtOn = d.pwr.throtOn) (ht : p.thermDuty = d.pwr.thermDuty) (hl : p.lastTherm = d.pwr.lastTherm) : Capped d d' := by
  subst h
  exact ⟨rfl, he, ho, ht, hl⟩

theorem calmed_eq (d : Dev) : calmed d = { d with pwr := { d.pwr with calmFrom := calmSince d } } := rfl

theorem lowered_eq (d : Dev) : lowered d = { d with pwr := { d.pwr with
    calmFrom := calmSince d, duty := d.pwr.duty - 1, lastDuty := beat d } } := by
  rw [lowered, calmed_eq]
  rfl

theorem raised_eq (d : Dev) : ∃ c, raised d = { d with pwr := { d.pwr with
    calmFrom := calmSince d, duty := d.pwr.duty + 1, lastDuty := beat d, charges := c } } := by
  obtain ⟨c, hc⟩ := release_eq (onPwr (fun p => { p with duty := p.duty + 1, lastDuty := beat d }) (calmed d))
  refine ⟨c, ?_⟩
  rw [raised, hc, calmed_eq]
  rfl

/-- What a step of the capper comes to: the duty falls, rises, or stays. -/
theorem capStep_spec (d : Dev) : Capped d (capStep d) ∧
    (2 < d.pwr.duty ∧ (capStep d).pwr.duty = d.pwr.duty - 1 ∨ (capStep d).pwr.duty = d.pwr.duty ∨
      d.pwr.duty < 16 ∧ (capStep d).pwr.duty = d.pwr.duty + 1) := by
  by_cases hover : limitW d < powerAvg d
  · by_cases hfall : 2 < d.pwr.duty ∧ mayFall d d.pwr.lastDuty
    · rw [capStep_of_over hover hfall.1 hfall.2, lowered_eq]
      split
      · exact ⟨.of_eq rfl rfl rfl rfl rfl, .inl ⟨hfall.1, rfl⟩⟩
      · exact ⟨.of_eq rfl rfl rfl rfl rfl, .inl ⟨hfall.1, rfl⟩⟩
    · have hheld : d.pwr.duty ≤ 2 ∨ ¬ mayFall d d.pwr.lastDuty := by
        by_contra hc
        rw [not_or, not_not] at hc
        exact hfall ⟨by omega, hc.2⟩
      rw [capStep_of_held hover hheld, calmed_eq]
      exact ⟨.of_eq rfl rfl rfl rfl rfl, .inr (.inl rfl)⟩
  · by_cases hrise : mayRise d
    · obtain ⟨c, hc⟩ := raised_eq d
      rw [capStep_of_rise hover hrise, hc]
      split
      · exact ⟨.of_eq rfl rfl rfl rfl rfl, .inr (.inr ⟨hrise.1, rfl⟩)⟩
      · exact ⟨.of_eq rfl rfl rfl rfl rfl, .inr (.inr ⟨hrise.1, rfl⟩)⟩
    · rw [capStep_of_still hover hrise, calmed_eq]
      exact ⟨.of_eq rfl rfl rfl rfl rfl, .inr (.inl rfl)⟩

/-- Above the limit the duty falls by 1/16. -/
theorem duty_capStep_of_over (h : limitW d < powerAvg d) (h2 : 2 < d.pwr.duty) (hm : mayFall d d.pwr.lastDuty) :
    (capStep d).pwr.duty = d.pwr.duty - 1 ∧ (capStep d).pwr.lastDuty = beat d := by
  rw [capStep_of_over h h2 hm, lowered_eq]
  split
  · exact ⟨rfl, rfl⟩
  · exact ⟨rfl, rfl⟩

/-- Within 3 % below the limit it stays. -/
theorem duty_capStep_of_near (h : powerAvg d ≤ limitW d) (hn : 97 * limitW d ≤ powerAvg d * 100) :
    (capStep d).pwr.duty = d.pwr.duty ∧ (capStep d).pwr.calmFrom = none := by
  have hcalm : calmSince d = none := if_neg (by rw [decide_eq_true_eq]; omega)
  have hlong : longCalm d = false := by
    unfold longCalm
    rw [show (calmed d).pwr.calmFrom = none from hcalm]
  have hno : ¬ mayRise d := fun hr => Bool.false_ne_true (hlong.symm.trans hr.2.1)
  rw [capStep_of_still (by omega) hno]
  exact ⟨rfl, hcalm⟩

/-- What a step of the thermal duty comes to. -/
theorem thermStep_spec (d : Dev) : ∃ n b c, thermStep d = { d with pwr := { d.pwr with thermDuty := n, lastTherm := b, charges := c } } ∧
    (2 < d.pwr.thermDuty ∧ n = d.pwr.thermDuty - 1 ∨ n = d.pwr.thermDuty ∨ d.pwr.thermDuty < 16 ∧ n = d.pwr.thermDuty + 1) ∧
    (d.pwr.throtOn = true → 2 < d.pwr.thermDuty → mayFall d d.pwr.lastTherm → n = d.pwr.thermDuty - 1) := by
  unfold thermStep
  dsimp only
  by_cases hon : d.pwr.throtOn = true
  · rw [if_pos hon]
    by_cases hfall : 2 < d.pwr.thermDuty ∧ (d.pwr.lastTherm = 0 ∨ d.pwr.lastTherm + 3000 ≤ beat d)
    · rw [if_pos hfall]
      exact ⟨_, _, _, rfl, .inl ⟨hfall.1, rfl⟩, fun _ _ _ => rfl⟩
    · rw [if_neg hfall]
      exact ⟨_, _, _, rfl, .inr (.inl rfl), fun _ h2 hm => absurd ⟨h2, hm⟩ hfall⟩
  · rw [if_neg hon]
    by_cases hrise : d.pwr.thermDuty < 16 ∧ d.pwr.lastTherm + 10000 ≤ beat d ∧ releaseFits d = true
    · rw [if_pos hrise]
      obtain ⟨c, hc⟩ := release_eq (onPwr (fun p => { p with thermDuty := p.thermDuty + 1, lastTherm := beat d }) d)
      exact ⟨_, _, c, hc, .inr (.inr ⟨hrise.1, rfl⟩), fun h => absurd h hon⟩
    · rw [if_neg hrise]
      exact ⟨_, _, _, rfl, .inr (.inl rfl), fun h => absurd h hon⟩

/-- The device with the estimate of a microsecond taken in. -/
def estimated (w : Nat) (d : Dev) : Dev := onPwr (fun p => { p with est := (p.est ++ [w]).drop ((p.est.length + 1) - 8) }) d

theorem estimateUpdate_eq (w : Nat) (d : Dev) : estimateUpdate w d = thermStep (capStep (estimated w d)) := rfl

/-! ### The cap's log and limit (R531, R592, R599) -/

/-- The device with a cap logged. -/
def capLogged (d : Dev) : Dev :=
  setFld rPwrStatus 18 1 1 (islandLog 0x0109 0xFF 0xFF [] (onIsl (fun x => { x with capLogged := true }) d))

theorem powerCap_of_due {b : Nat} (hb : d.isl.capBeat = some b) (hd : d.pwr.duty < 16) (hl : d.isl.capLogged = false)
    (h : b + 1000000000 ≤ beat d) : powerCap d = capLogged d := by
  unfold powerCap
  rw [hb]
  exact if_pos ⟨hd, by simp [hl], h⟩

theorem powerCap_of_not (h : d.isl.capBeat = none ∨ d.pwr.duty = 16 ∨ d.isl.capLogged = true) : powerCap d = d := by
  unfold powerCap
  split
  · rename_i b hb
    refine if_neg fun ⟨hd, hl, _⟩ => ?_
    rcases h with h | h | h
    · exact nomatch h.symm.trans hb
    · omega
    · exact hl h
  · rfl

/-- What the log of a cap leaves. -/
theorem capLogged_spec (d : Dev) : bitOf (regVal (capLogged d) rPwrStatus) 18 = true ∧ (capLogged d).isl.capLogged = true ∧
    (capLogged d).isl.log.getLast?.map (fun e => e.code) = some 0x109 ∧ (capLogged d).pwr = d.pwr ∧ (capLogged d).comp = d.comp := by
  have hlog := Logs.Logged.islandLog 0x0109 0xFF 0xFF [] (onIsl (fun x => { x with capLogged := true }) d)
  unfold capLogged
  refine ⟨?_, ?_, ?_, ?_, ?_⟩
  · rw [Egress.bitOf_eq_bitsOf, ← regFld, Generation.regFld_setFld_same]
    rfl
  · rw [setFld_isl, show islandLog _ _ _ _ _ = _ from hlog]
    rfl
  · rw [setFld_isl]
    exact Logs.lastCode_islandLog
  · rw [setFld_pwr, show islandLog _ _ _ _ _ = _ from hlog]
    rfl
  · rw [setFld_comp, show islandLog _ _ _ _ _ = _ from hlog]
    rfl

/-- What a write of the limit leaves. -/
theorem powerLimitWrite_spec (val : Nat) (fw : Bool) (d : Dev) :
    let d' := powerLimitWrite val fw d
    regFld d' rPwrLimit 0 12 = max 1200 (min (val % 4096) (otpCfg d).powerW) ∧
    ctrVal d' .fwBound 3 0 = ctrVal d .fwBound 3 0 + (if fw && decide ((otpCfg d).powerW < val % 4096) then 1 else 0) ∧
    (∀ a, a ≠ rPwrLimit → regVal d' a = regVal d a) ∧ d'.pwr = d.pwr ∧ d'.comp = d.comp := by
  have hv : bitsOf val 0 12 = val % 4096 := by simp [bitsOf]
  unfold powerLimitWrite
  dsimp only
  rw [hv]
  refine ⟨?_, ?_, fun a ha => ?_, ?_, ?_⟩
  · rw [Generation.regFld_setFld_same]
    omega
  · rw [ctrVal_setFld, when]
    split
    · exact Mfio.ctrVal_fwBound 3 0 (by decide) d
    · rfl
  · rw [regVal_setFld, if_neg ha, when]
    split
    · rw [regVal, (fwBound_keeps 3 0 d).2.1, ← regVal]
    · rfl
  · rw [setFld_pwr, when]
    split
    · simp
    · rfl
  · rw [setFld_comp, when]
    split
    · simp
    · rfl

/-! ### Sensors (R534, R593) -/

/-- What a table made of a list reads. -/
theorem tget_foldl_zip {α : Type} [DecidableEq α] (v : α) (l : List α) (s k : Nat) (t : Tab α) :
    tget v ((l.zip (List.range' s l.length)).foldl (fun t e => tput v t e.2 e.1) t) k =
      if s ≤ k ∧ k < s + l.length then lget v l (k - s) else tget v t k := by
  induction l generalizing s t with
  | nil => rw [if_neg (by simp)]; rfl
  | cons x l ih =>
    rw [List.length_cons, List.range'_succ, List.zip_cons_cons, List.foldl_cons, ih]
    by_cases hk : k = s
    · subst hk
      rw [if_neg (by omega), if_pos (by omega), tget_tput_same, Nat.sub_self]
      rfl
    · rw [tget_tput_other _ _ _ hk]
      by_cases hin : s + 1 ≤ k ∧ k < s + 1 + l.length
      · rw [if_pos hin, if_pos (by omega), show k - s = (k - (s + 1)) + 1 by omega]
        rfl
      · rw [if_neg hin, if_neg (by omega)]

theorem tget_tabOf {α : Type} [DecidableEq α] (v : α) (l : List α) (k : Nat) : tget v (tabOf v l) k = lget v l k := by
  rw [tabOf, List.range_eq_range', tget_foldl_zip]
  split
  · rw [Nat.sub_zero]
  · rename_i h
    rw [lget, List.getElem?_eq_none (by omega)]
    rfl

/-- The thresholds as a reading leaves them. -/
def thresholds (d : Dev) : Dev :=
  let t := (hottest d).2
  let w : Int := 4 * tjWarn d
  let x : Int := 4 * tjThrottle d
  onPwr (fun p => { p with
    warnOn := if w ≤ t then true else if t < w - 12 then false else p.warnOn
    throtOn := if x ≤ t then true else if t < x - 12 then false else p.throtOn }) d

/-- The device with the warning shown and logged, where it begins. -/
def warned (d : Dev) : Dev :=
  when (decide ((4 * tjWarn d : Int) ≤ (hottest d).2) && !d.pwr.warnOn)
    (fun x => setFld rThermStatus 14 1 1 (islandLog 0x0118 (compSite ((hottest d).1 / 5)) 0xFF [] x)) (thresholds d)

/-- The sensors as they were read. -/
def sampled (temps : List Int) (volts : List Nat) (d : Dev) : Dev := onIsl (fun x => { x with temps := tabOf 0 temps, volts := tabOf 0 volts }) d

theorem recalCheck_eq (d : Dev) : ∃ e f, recalCheck d = { d with edge := e, fab := f } := ⟨_, _, rfl⟩

/-- What the warning leaves beside the log and its register. -/
theorem warned_keeps (d : Dev) : (warned d).pwr = (thresholds d).pwr ∧ (warned d).comp = d.comp ∧ (warned d).store = d.store ∧
    (warned d).isl.temps = d.isl.temps ∧ (warned d).isl.volts = d.isl.volts := by
  have hlog := Logs.Logged.islandLog 0x0118 (compSite ((hottest d).1 / 5)) 0xFF [] (thresholds d)
  unfold warned when
  split
  · rw [setFld_pwr, setFld_comp, setFld_store, setFld_isl, show islandLog _ _ _ _ _ = _ from hlog]
    exact ⟨rfl, rfl, rfl, rfl, rfl⟩
  · exact ⟨rfl, rfl, rfl, rfl, rfl⟩

/-- A warning that begins is shown and logged. -/
theorem warned_spec {d : Dev} (h : (4 * tjWarn d : Int) ≤ (hottest d).2) (hoff : d.pwr.warnOn = false) :
    bitOf (regVal (warned d) rThermStatus) 14 = true ∧ (warned d).isl.log.getLast?.map (fun e => e.code) = some 0x118 := by
  unfold warned when
  rw [hoff, decide_eq_true h]
  simp only [Bool.not_false, Bool.and_self, if_true]
  refine ⟨?_, ?_⟩
  · rw [Egress.bitOf_eq_bitsOf, ← regFld, Generation.regFld_setFld_same]
    rfl
  · rw [setFld_isl]
    exact Logs.lastCode_islandLog

/-- A sample is stored, and its thresholds are applied; ports and links may ask for a recalibration. -/
theorem sensorSample_eq (temps : List Int) (volts : List Nat) (d : Dev) : ∃ n b c e f, sensorSample temps volts d =
    { warned (sampled temps volts d) with
      pwr := { (thresholds (sampled temps volts d)).pwr with thermDuty := n, lastTherm := b, charges := c }, edge := e, fab := f } := by
  obtain ⟨n, b, c, ht, -⟩ := thermStep_spec (warned (sampled temps volts d))
  obtain ⟨e, f, hr⟩ := recalCheck_eq (thermStep (warned (sampled temps volts d)))
  refine ⟨n, b, c, e, f, ?_⟩
  have h : sensorSample temps volts d = recalCheck (thermStep (warned (sampled temps volts d))) := rfl
  rw [h, hr, ht, (warned_keeps _).1]

/-- What a sample leaves. -/
theorem sensorSample_spec (temps : List Int) (volts : List Nat) (d : Dev) :
    let d' := sensorSample temps volts d
    (∀ k, tempQ d' k = lget 0 temps k) ∧ (∀ k, tget 0 d'.isl.volts k = lget 0 volts k) ∧
    (let h := (hottest d').2
     (4 * (tjWarn d : Int) ≤ h → d'.pwr.warnOn = true) ∧ (h < 4 * (tjWarn d : Int) - 12 → d'.pwr.warnOn = false) ∧
     (4 * (tjThrottle d : Int) ≤ h → d'.pwr.throtOn = true) ∧ (h < 4 * (tjThrottle d : Int) - 12 → d'.pwr.throtOn = false) ∧
     (4 * (tjWarn d : Int) ≤ h → d.pwr.warnOn = false → bitOf (regVal d' rThermStatus) 14 = true ∧
       d'.isl.log.getLast?.map (fun e => e.code) = some 0x118)) ∧ d'.comp = d.comp ∧ d'.store = d.store := by
  intro d'
  obtain ⟨n, b, c, e, f, hd⟩ := sensorSample_eq temps volts d
  obtain ⟨-, hcomp, hstore, htemps, hvolts⟩ := warned_keeps (sampled temps volts d)
  have hisl : d'.isl = (warned (sampled temps volts d)).isl := by rw [show d' = _ from hd]
  have htemp (k : Nat) : tempQ d' k = tempQ (sampled temps volts d) k := by rw [tempQ, hisl, htemps, ← tempQ]
  have hhot : hottest d' = hottest (sampled temps volts d) := by simp only [hottest, htemp]
  have hpwr : d'.pwr = { (thresholds (sampled temps volts d)).pwr with thermDuty := n, lastTherm := b, charges := c } := by
    rw [show d' = _ from hd]
  refine ⟨fun k => (htemp k).trans (tget_tabOf ..), fun k => ?_, ?_, ?_, ?_⟩
  · rw [hisl, hvolts]
    exact tget_tabOf ..
  · dsimp only
    rw [hhot, hpwr]
    refine ⟨fun h => if_pos h, fun h => ?_, fun h => if_pos h, fun h => ?_, fun h hoff => ?_⟩
    · have h' : (hottest (sampled temps volts d)).2 < 4 * (tjWarn (sampled temps volts d) : Int) - 12 := h
      exact (if_neg (by omega)).trans (if_pos h')
    · have h' : (hottest (sampled temps volts d)).2 < 4 * (tjThrottle (sampled temps volts d) : Int) - 12 := h
      exact (if_neg (by omega)).trans (if_pos h')
    · have hregs : d'.regs = (warned (sampled temps volts d)).regs := by rw [show d' = _ from hd]
      rw [regVal, hregs, ← regVal, hisl]
      exact warned_spec h hoff
  · rw [show d' = _ from hd]
    exact hcomp
  · rw [show d' = _ from hd]
    exact hstore

/-! ### The statement -/

section

variable {val : Nat} {s : State}

theorem rClkCfg_cmp (hcl : cl < 96) : 0x3000000 ≤ rClkCfg cl ∧ rClkCfg cl < 0x4000000 := by
  simp only [rClkCfg, cmpBase]
  omega

theorem blockUp_clk (hcl : cl < 96) (d : Dev) : blockUp d (rClkCfg cl) = decide (d.boot.step = 6) := by
  have h := rClkCfg_cmp hcl
  unfold blockUp
  rw [if_neg (by omega), if_neg (by omega), if_pos h]

/-- A write of a cluster's clock before its die is up leaves it. -/
theorem regVal_accessFaultOf_clk (hcl : cl < 96) (kind : Nat) (d : Dev) :
    regVal (accessFaultOf 0 0 (rClkCfg cl) kind d) (rClkCfg cl) = regVal d (rClkCfg cl) := by
  have hne (a : Nat) (ha : a < 0x1000000) : rClkCfg cl ≠ a := by have := rClkCfg_cmp hcl; omega
  rw [HostRings.accessFaultOf_eq, (HostRings.SignalsOnly.raiseErr ..).regVal, regVal_setFld, if_neg (hne _ (by decide)), regVal_bump]
  unfold HostRings.faultRecorded
  dsimp only
  split
  · exact regVal_setReg_other _ _ (hne _ (by decide))
  · rw [regVal_setReg_other _ _ (hne _ (by decide)), regVal_setReg_other _ _ (hne _ (by decide))]

theorem pwr_targeted (cl val : Nat) (d : Dev) : (targeted cl val d).pwr = d.pwr := by rw [targeted, setFld_pwr]

theorem clusterPower_targeted (cl val : Nat) (d : Dev) : clusterPower (targeted cl val d) cl = clusterPower d cl := by
  rw [targeted, clusterPower, setFld_comp, ← clusterPower]

theorem isl_targeted (cl val : Nat) (d : Dev) : (targeted cl val d).isl = d.isl := by rw [targeted, setFld_isl]

theorem beat_targeted (cl val : Nat) (d : Dev) : beat (targeted cl val d) = beat d := by rw [targeted_eq]; rfl

theorem curStep_targeted (cl val y : Nat) (d : Dev) : curStep (targeted cl val d) y = curStep d y := by
  rw [curStep, pwr_targeted, ← curStep]

theorem groupVolt_targeted (cl val g : Nat) (d : Dev) : groupVolt (targeted cl val d) g = groupVolt d g := by
  rw [targeted_eq]
  rfl

/-- The target of a cluster's register alone. -/
theorem targetStep_of_regs {d' d : Dev} (h : d'.regs = d.regs) : targetStep d' cl = targetStep d cl := by
  rw [targetStep, regFld, regVal, h, ← regVal, ← regFld, ← targetStep]

/-- The step in force is what the table of steps gives. -/
theorem curStep_of_steps {d' : Dev} {t : Nat} (ht : t ≤ 50) (h : d'.pwr.steps = tput 0 d.pwr.steps cl (50 - t)) : curStep d' cl = t := by
  rw [curStep, h, tget_tput_same]
  omega

/-- A cluster's step set alone. -/
theorem Alone.of_steps {d' : Dev} {v : Nat} (hd : d' = { d with pwr := d'.pwr }) (h : d'.pwr.steps = tput 0 d.pwr.steps cl v) :
    Alone cl d d' := .of_eq hd fun y hy => by rw [h, tget_tput_other _ _ _ hy]

theorem lower_spec (hup : tget false d.isl.down (96 + cl / 6) = false) (h : targetStep d cl ≤ curStep d cl) :
    Alone cl d (clockTarget cl d) ∧ curStep (clockTarget cl d) cl = targetStep d cl := by
  have hle := targetStep_le d cl
  rw [clockTarget_of_lower hup h]
  generalize targetStep d cl = t at hle
  have hsteps : (unqueue (cl, true) (onPwr (fun p => { p with raiseDue := tdel p.raiseDue cl }) (setStep cl t d))).pwr.steps =
      tput 0 d.pwr.steps cl (50 - t) := rfl
  exact ⟨.of_steps rfl hsteps, curStep_of_steps hle hsteps⟩

theorem volt_spec (hup : tget false d.isl.down (96 + cl / 6) = false) (h : curStep d cl < targetStep d cl) (hp : clusterPower d cl ≤ 1)
    (hv : groupVolt d (cl / 24) < stepVolt (targetStep d cl)) :
    Alone cl d (clockTarget cl d) ∧ curStep (clockTarget cl d) cl = curStep d cl ∧
      tget 0 (clockTarget cl d).pwr.raiseDue cl = voltDue cl d + 1 := by
  rw [clockTarget_of_volt hup h hp hv]
  generalize voltDue cl d = b
  exact ⟨.of_eq rfl fun y _ => rfl, rfl, tget_tput_same 0 d.pwr.raiseDue cl (b + 1)⟩

theorem idle_spec (hup : tget false d.isl.down (96 + cl / 6) = false) (h : curStep d cl < targetStep d cl) (hp : clusterPower d cl = 1)
    (hv : stepVolt (targetStep d cl) ≤ groupVolt d (cl / 24)) :
    Alone cl d (clockTarget cl d) ∧ curStep (clockTarget cl d) cl = targetStep d cl := by
  rw [clockTarget_of_idle hup h hp hv]
  exact ⟨.of_steps rfl rfl, curStep_of_steps (targetStep_le ..) rfl⟩

/-- CLOCK_STEP_WRITE, by what its die's owner, the step in force and the voltage are (R589, R590). -/
theorem clockStepWrite_of_alone (h : wholeDie d (cl / 6) = false) : clockStepWrite cl val d = clockTarget cl (targeted cl val d) :=
  if_neg (by simp [h])

theorem clockStepWrite_of_whole (h : wholeDie d (cl / 6) = true) : clockStepWrite cl val d =
    (List.range 6).foldl (fun d k => clockTarget (6 * (cl / 6) + k) (targeted (6 * (cl / 6) + k) val d)) d := if_pos h

theorem settled_spec (h : tget 0 d.pwr.raiseDue cl ≠ 0) (hle : tget 0 d.pwr.raiseDue cl - 1 ≤ beat d) (hp : clusterPower d cl ≠ 0) :
    Alone cl d (clockRaise cl d) ∧ curStep (clockRaise cl d) cl = targetStep d cl ∧ tget 0 (clockRaise cl d).pwr.raiseDue cl = 0 := by
  rw [clockRaise_of_settled h hle hp]
  exact ⟨.of_steps rfl rfl, curStep_of_steps (targetStep_le ..) rfl, tget_tdel_same 0 d.pwr.raiseDue cl⟩

theorem fits_spec (h : tget 0 d.pwr.raiseDue cl = 0) (hh : headOfGroup d (cl, true) = true)
    (hf : chargeFits d (cl / 24) (raiseCharge cl d) = true) :
    Alone cl d (clockRaise cl d) ∧ curStep (clockRaise cl d) cl = targetStep d cl ∧
      (clockRaise cl d).pwr.queue = d.pwr.queue.erase (cl, true) ∧
      charged (clockRaise cl d) (cl / 24) = charged d (cl / 24) + raiseCharge cl d := by
  rw [clockRaise_of_fits h hh hf]
  refine ⟨.of_steps rfl rfl, curStep_of_steps (targetStep_le ..) rfl, rfl, ?_⟩
  · rw [charged_charge]
    rfl

theorem near_range {n m : Nat} (h : 2 < n ∧ m = n - 1 ∨ m = n ∨ n < 16 ∧ m = n + 1) (h2 : 2 ≤ n) (h16 : n ≤ 16) : 2 ≤ m ∧ m ≤ 16 := by omega

/-- What a new estimate leaves of the duties (R591, R593). -/
theorem estimateUpdate_spec (w : Nat) (d : Dev) :
    let d' := estimateUpdate w d
    let est := (d.pwr.est ++ [w]).drop (d.pwr.est.length + 1 - 8)
    let avg := est.sum / 8
    d'.pwr.est = est ∧
      (limitW d < avg → 2 < d.pwr.duty → mayFall d d.pwr.lastDuty → d'.pwr.duty = d.pwr.duty - 1 ∧ d'.pwr.lastDuty = beat d) ∧
      (limitW d < avg → (d.pwr.duty ≤ 2 ∨ ¬ mayFall d d.pwr.lastDuty) → d'.pwr.duty = d.pwr.duty) ∧
      (avg ≤ limitW d → 97 * limitW d ≤ avg * 100 → d'.pwr.duty = d.pwr.duty ∧ d'.pwr.calmFrom = none) ∧
      (d.pwr.throtOn = true → 2 < d.pwr.thermDuty → mayFall d d.pwr.lastTherm → d'.pwr.thermDuty = d.pwr.thermDuty - 1) ∧
      (2 ≤ d.pwr.duty → d.pwr.duty ≤ 16 → 2 ≤ d'.pwr.duty ∧ d'.pwr.duty ≤ 16) ∧
      (2 ≤ d.pwr.thermDuty → d.pwr.thermDuty ≤ 16 → 2 ≤ d'.pwr.thermDuty ∧ d'.pwr.thermDuty ≤ 16) ∧
      d'.isl.log = d.isl.log ∧ d'.comp = d.comp ∧ d'.regs = d.regs := by
  intro d' est avg
  obtain ⟨hkept, hduty⟩ := capStep_spec (estimated w d)
  obtain ⟨n, b, c, hd, hnear, hfall⟩ := thermStep_spec (capStep (estimated w d))
  have hd' : d' = _ := (estimateUpdate_eq w d).trans hd
  rw [hkept.throt, hkept.therm, hkept.last] at hfall
  rw [hkept.therm] at hnear
  have hbeat : beat (capStep (estimated w d)) = beat d := by rw [hkept.rest]; rfl
  refine ⟨?_, fun h h2 hm => ?_, fun h hn => ?_, fun h hn => ?_, fun hon h2 hm => ?_, fun h2 h16 => ?_, fun h2 h16 => ?_, ?_, ?_, ?_⟩
  · rw [hd']
    exact hkept.est
  · rw [hd']
    exact duty_capStep_of_over (d := estimated w d) h h2 hm
  · rw [hd']
    exact (congrArg (fun x : Dev => x.pwr.duty) (capStep_of_held (d := estimated w d) h hn) :)
  · rw [hd']
    exact duty_capStep_of_near (d := estimated w d) h hn
  · rw [hd']
    refine hfall hon h2 ?_
    rw [mayFall, hbeat]
    exact hm
  · rw [hd']
    exact near_range hduty h2 h16
  · rw [hd']
    exact near_range hnear h2 h16
  · rw [hd', hkept.rest]
    rfl
  · rw [hd', hkept.rest]
    rfl
  · rw [hd', hkept.rest]
    rfl

end

/-- Settles O35: each command by what the step, voltage, charge, estimate or reading it finds makes of it. -/
theorem clocksAndCapping : Obligations.ClocksAndCapping := by
  intro cl val w temps volts s hcl hval hw htemps
  have hwcl : within [(cl, 96)] = true := by simp [within, hcl]
  have hwval : within [(cl, 96), (val, 0x100000000)] = true := by simpa [within, hcl] using hval
  have hwlim : within [(val, 0x100000000)] = true := by simpa [within] using hval
  have hww : within [(w, 65536)] = true := by simpa [within] using hw
  have hwrite : Gives (.clockStepWrite cl val) s (gate 0 (rClkCfg cl) (clockStepWrite cl val) s.dev) :=
    Flows.gives_of_exec (exec_clockStepWrite cl val s) hwval
  have hup (h6 : s.dev.boot.step = 6) : gate 0 (rClkCfg cl) (clockStepWrite cl val) s.dev = clockStepWrite cl val s.dev :=
    if_pos ((blockUp_clk hcl _).trans (decide_eq_true h6))
  have hraise : Gives (.clockRaise cl) s (clockRaise cl s.dev) := Flows.gives_of_exec (exec_clockRaise cl s) hwcl
  have hest : Gives (.powerEstimateUpdate w) s (estimateUpdate w s.dev) := Flows.gives_of_exec (exec_powerEstimateUpdate w s) hww
  have hcap : Gives .powerCap s (powerCap s.dev) := Flows.gives_of_exec (exec_powerCap s) rfl
  have hlimit (fw : Bool) : Gives (.powerLimitWrite val fw) s (powerLimitWrite val fw s.dev) :=
    Flows.gives_of_exec (exec_powerLimitWrite val fw s) hwlim
  have hsample : Gives (.sensorSample temps volts) s (sensorSample temps volts s.dev) :=
    Flows.gives_of_exec (exec_sensorSample temps volts s) (by rw [wf_sensorSample, htemps]; rfl)
  have hvrm : Gives (.vrmTelemetry w) s (onIsl (fun x => { x with powerW := w }) s.dev) := Flows.gives_of_exec (exec_vrmTelemetry w s) hww
  have htarget := targetStep_targeted cl val s.dev
  have hkeep (d : Dev) : targetStep (clockTarget cl d) cl = targetStep d cl := targetStep_of_regs (regs_clockTarget ..)
  dsimp only
  refine ⟨fun h6 => ?_, fun h6 hown hdown => ?_, fun h6 hown => ?_, fun hdue hlt => ?_, fun hdue hle hp => ?_, fun hdue hh hf => ?_,
    fun hdue hno => ?_, ?_, fun b hb hd hl hlong => ?_, fun hno => ?_, fun fw => ?_, ?_, hvrm⟩
  · have hdown : gate 0 (rClkCfg cl) (clockStepWrite cl val) s.dev = accessFaultOf 0 0 (rClkCfg cl) 4 s.dev :=
      if_neg (by rw [blockUp_clk hcl, decide_eq_true_eq]; exact h6)
    rw [hdown] at hwrite
    exact ⟨_, hwrite, (Scope.accessFaultOf_keeps ..).2.2.2.1, regVal_accessFaultOf_clk hcl 4 s.dev⟩
  · rw [hup h6, clockStepWrite_of_alone hown] at hwrite
    have hdown' : tget false (targeted cl val s.dev).isl.down (96 + cl / 6) = false := by rwa [isl_targeted]
    refine ⟨fun hle => ?_, fun hlt hp hv => ?_, fun hlt hp hv => ?_⟩
    · rw [← htarget, ← curStep_targeted cl val] at hle
      obtain ⟨ha, hcur⟩ := lower_spec hdown' hle
      exact ⟨_, hwrite, ha.targeted.spec, (hkeep _).trans htarget, hcur.trans htarget⟩
    · rw [← htarget, ← curStep_targeted cl val] at hlt
      rw [← clusterPower_targeted cl val] at hp
      rw [← htarget, ← groupVolt_targeted cl val] at hv
      obtain ⟨ha, hcur, hdue⟩ := volt_spec hdown' hlt hp hv
      refine ⟨_, hwrite, ha.targeted.spec, (hkeep _).trans htarget, hcur.trans (curStep_targeted ..), hdue.trans ?_⟩
      rw [voltDue, htarget, beat_targeted, groupVolt_targeted]
    · rw [← htarget, ← curStep_targeted cl val] at hlt
      rw [← clusterPower_targeted cl val] at hp
      rw [← htarget, ← groupVolt_targeted cl val] at hv
      obtain ⟨ha, hcur⟩ := idle_spec hdown' hlt hp hv
      exact ⟨_, hwrite, ha.targeted.spec, (hkeep _).trans htarget, hcur.trans htarget⟩
  · rw [hup h6, clockStepWrite_of_whole hown] at hwrite
    exact ⟨_, hwrite, fun k hk => targetStep_foldl _ _ _ (fun _ => List.mem_range.mp) List.nodup_range _ _ (List.mem_range.mpr hk)⟩
  · rwa [clockRaise_of_early hdue hlt] at hraise
  · obtain ⟨ha, hcur, hq⟩ := settled_spec hdue hle hp
    exact ⟨_, hraise, ha.spec, hcur, hq⟩
  · obtain ⟨ha, hcur, hq, hc⟩ := fits_spec hdue hh hf
    exact ⟨_, hraise, ha.spec, hcur, hq, hc⟩
  · rwa [clockRaise_of_not hdue hno] at hraise
  · exact ⟨_, hest, estimateUpdate_spec w s.dev⟩
  · rw [powerCap_of_due hb hd hl hlong] at hcap
    exact ⟨_, hcap, capLogged_spec s.dev⟩
  · rwa [powerCap_of_not hno] at hcap
  · exact ⟨_, hlimit fw, powerLimitWrite_spec val fw s.dev⟩
  · obtain ⟨ht, hrest⟩ := sensorSample_spec temps volts s.dev
    exact ⟨_, hsample, fun k _ => ht k, hrest⟩

end Sys2Proof.Clocks

/-! ## The island's messages and firmware updates -/

namespace Sys2Proof.IslandMessages

open Sys2Proof.Machine Sys2Proof.Safety Sys2Proof.Laws

variable {m : Nat} {d : Dev}

theorem reply_nil (m st : Nat) (d : Dev) : reply m st [] d = { d with out := d.out ++ [.mgmt m (toLe 2 st)] } := by
  rw [reply, List.append_nil]
  rfl

theorem reply_eq (m st : Nat) (body : List Byte) (d : Dev) :
    reply m st body d = { d with out := d.out ++ [.mgmt m (toLe 2 st ++ body)] } := rfl

/-! ### The arbiter -/

theorem maintSubmit_of_blocked {r : MaintReq} (h : maintBlocked d d.maint r = true) : maintSubmit r d = maintAsk r d := by
  unfold maintSubmit
  rw [h]
  rfl

theorem maintSubmit_of_free {r : MaintReq} (h : maintBlocked d d.maint r = false) :
    maintSubmit r d = maintStart r (maintJoins d r) (maintAsk r d) := by
  unfold maintSubmit
  rw [h]
  rfl

/-- A request handed to the arbiter: of the device only what awaits it and the counters may differ. -/
theorem maintAsk_eq {r : MaintReq} {b : Bool} (h : maintBlocked d d.maint r = b) :
    maintAsk r d = { d with maint := d.maint ++ [{ r with granted := !b }], ctr := (maintAsk r d).ctr } := by
  unfold maintAsk when
  dsimp only
  rw [h]
  split
  · rfl
  · rfl

/-! ### Slots and updates (R540, R542) -/

/-- The slot that an update writes. -/
def inactive (d : Dev) : Nat := 1 - d.isl.active % 2

/-- The island after a change of its inactive slot. -/
theorem putSlot_spec (f : Tab Byte → Tab Byte) (d : Dev) :
    let d' := onIsl (putSlot f) d
    slotOf d' (inactive d) = f (slotOf d (inactive d)) ∧ slotOf d' (1 - inactive d) = slotOf d (1 - inactive d) := by
  intro d'
  by_cases h : d.isl.active % 2 = 0
  · have hd : d' = { d with isl := { d.isl with slotB := f d.isl.slotB } } := congrArg (fun x => { d with isl := x }) (if_pos h)
    rw [hd, inactive, h]
    exact ⟨rfl, rfl⟩
  · have hd : d' = { d with isl := { d.isl with slotA := f d.isl.slotA } } := congrArg (fun x => { d with isl := x }) (if_neg h)
    rw [hd, inactive, show d.isl.active % 2 = 1 by omega]
    exact ⟨rfl, rfl⟩

/-- Of the island only the slots may differ. -/
structure SlotsOnly (x x' : Island) : Prop where
  active : x'.active = x.active
  update : x'.update = x.update
  fwPending : x'.fwPending = x.fwPending

theorem putSlot_keeps (f : Tab Byte → Tab Byte) (x : Island) : SlotsOnly x (putSlot f x) := by
  unfold putSlot
  split
  · exact ⟨rfl, rfl, rfl⟩
  · exact ⟨rfl, rfl, rfl⟩

section

variable (h : islandServes d = true)
include h

theorem requestUpdate_of_busy (hu : d.isl.update.isSome = true) : requestUpdate m d = reply m 0x81 [] d :=
  (if_neg (fun hn => hn h)).trans (if_pos hu)

/-- The request of an update, as the arbiter sees it. -/
def updateReq (m : Nat) (d : Dev) : MaintReq :=
  { act := 7, obj := 0xFFFF, src := 4, limit := beat d + maintLimit 7, args := [0, 0, 0, m] }

/-- The device with an update asked for. -/
def asked (m : Nat) (d : Dev) : Dev := onIsl (fun x => { x with update := some { medium := m } }) d

theorem requestUpdate_of_none (hu : d.isl.update = none) :
    requestUpdate m d = maintSubmit (updateReq m d) (asked m d) :=
  (if_neg (fun hn => hn h)).trans (if_neg (by simp [hu]))

theorem firmwareData_of_mine {off : Nat} {bs : List Byte} (hu : updateBy d m = true) (hoff : off + bs.length ≤ 28 * 2 ^ 20) :
    firmwareData m off bs d =
      onIsl (fun x => putSlot (fun s => tputBytes s off bs) { x with update := x.update.map (fun u => { u with verified := false }) }) d :=
  if_pos ⟨h, hu, hoff⟩

theorem verifyComplete_of_mine (hu : updateBy d m = true) : verifyComplete m d = reply m (b2n (!bundleValid d (inactive d))) []
    (onIsl (fun x => { x with update := x.update.map (fun u => { u with verified := bundleValid d (inactive d) }) }) d) :=
  if_pos ⟨h, hu⟩

theorem activateFirmware_of_verified (hu : updateBy d m = true) (hv : d.isl.update.any (fun u => u.verified) = true) :
    activateFirmware m d = reply m 0 [] (onIsl (fun x => { x with fwPending := true, attempts := 3 }) (updateOver d)) :=
  (if_neg (fun hn => hn h)).trans ((if_neg (fun hn => hn hu)).trans (if_neg (fun hn => hn hv)))

theorem activateFirmware_of_unverified (hu : updateBy d m = true) (hv : d.isl.update.any (fun u => u.verified) = false) :
    activateFirmware m d = reply m 0x84 [] d :=
  (if_neg (fun hn => hn h)).trans ((if_neg (fun hn => hn hu)).trans (if_pos (by simp [hv])))

theorem activateFirmware_of_other (hu : updateBy d m = false) : activateFirmware m d = reply m 0x80 [] d :=
  (if_neg (fun hn => hn h)).trans (if_pos (by simp [hu]))

theorem cancelUpdate_of_mine (hu : updateBy d m = true) :
    cancelUpdate m d = reply m 0 [] (updateOver (onIsl (putSlot (fun _ => [])) d)) := by
  have hmine : d.isl.update.any (fun u => u.medium == m) = true := by
    unfold updateBy at hu
    cases hx : d.isl.update with
    | none => rw [hx] at hu; exact hu
    | some u => rw [hx] at hu; exact (Bool.and_eq_true_iff.mp hu).1
  unfold cancelUpdate
  rw [if_neg (fun hn => hn h), if_pos hmine, hu]
  rfl

theorem rollbackCommit_of_strange {sess : Nat} (ha : authed d m sess = false) :
    rollbackCommit m sess d = reply m Status.accessDenied.code [] d := (if_neg (fun hn => hn h)).trans (if_pos (by simp [ha]))

theorem rollbackCommit_of_pending {sess : Nat} (ha : authed d m sess = true) (hp : d.isl.fwPending = true) :
    rollbackCommit m sess d = reply m Status.invalidField.code [] d :=
  (if_neg (fun hn => hn h)).trans ((if_neg (fun hn => hn ha)).trans (if_pos (.inl hp)))

section

variable {sess : Nat} (ha : authed d m sess = true) (hp : d.isl.fwPending = false) (hr : d.isl.running = some (d.isl.active % 2))
include ha hp hr

theorem rollbackCommit_of_floor (hsv : d.isl.runSv ≤ floorOf d) : rollbackCommit m sess d = reply m 0 [] d :=
  (if_neg (fun hn => hn h)).trans ((if_neg (fun hn => hn ha)).trans ((if_neg (by simp [hp, hr])).trans (if_pos hsv)))

/-- The request of a rollback commit, as the arbiter sees it. -/
def rollbackReq (m : Nat) (d : Dev) : MaintReq :=
  { act := 8, obj := 0xFFFF, src := 4, limit := beat d + maintLimit 8, args := [1, 0, 0, m] }

theorem rollbackCommit_of_above (hsv : floorOf d < d.isl.runSv) : rollbackCommit m sess d = maintSubmit (rollbackReq m d) d :=
  (if_neg (fun hn => hn h)).trans ((if_neg (fun hn => hn ha)).trans ((if_neg (by simp [hp, hr])).trans (if_neg (by omega))))

end

end

/-! ### Outcomes -/

/-- A firmware update's data lies in the inactive slot. -/
theorem firmwareData_spec (off : Nat) (bs : List Byte) (d : Dev) :
    let d' := onIsl (fun x => putSlot (fun s => tputBytes s off bs) { x with update := x.update.map (fun u => { u with verified := false }) }) d
    (slotOf d' (1 - inactive d) = slotOf d (1 - inactive d) ∧ d'.isl.active = d.isl.active) ∧
    (∀ a, tget 0 (slotOf d' (inactive d)) a =
      if off ≤ a ∧ a < off + bs.length then (bs[a - off]?).getD 0 else tget 0 (slotOf d (inactive d)) a) ∧
    d'.isl.update.all (fun u => !u.verified) = true ∧ d' = { d with isl := d'.isl } ∧ d'.isl.fwPending = d.isl.fwPending := by
  intro d'
  obtain ⟨hin, hact⟩ := putSlot_spec (fun s => tputBytes s off bs)
    (onIsl (fun x => { x with update := x.update.map (fun u => { u with verified := false }) }) d)
  obtain ⟨hactive, hupdate, hpending⟩ := putSlot_keeps (fun s => tputBytes s off bs)
    { d.isl with update := d.isl.update.map (fun u => { u with verified := false }) }
  refine ⟨⟨hact, hactive⟩, fun a => ?_, ?_, rfl, hpending⟩
  · exact (congrArg (fun t => tget 0 t a) hin).trans (tget_tputBytes ..)
  · refine (congrArg (fun u : Option FwUpdate => u.all (fun u => !u.verified)) hupdate).trans ?_
    cases d.isl.update <;> rfl

/-- An update cancelled leaves the inactive slot empty. -/
theorem cancelUpdate_spec (d : Dev) :
    let d' := updateOver (onIsl (putSlot (fun _ => [])) d)
    slotOf d' (inactive d) = [] ∧ (slotOf d' (1 - inactive d) = slotOf d (1 - inactive d) ∧ d'.isl.active = d.isl.active) ∧
    d'.isl.update = none ∧ d'.maint.all (fun x => x.act != 7) = true := by
  intro d'
  obtain ⟨hin, hact⟩ := putSlot_spec (fun _ => []) d
  refine ⟨hin, ⟨hact, (putSlot_keeps _ d.isl).active⟩, rfl, ?_⟩
  rw [List.all_eq_true]
  exact fun x hx => (List.mem_filter.mp hx).2

/-! ### The statement -/

/-- Settles O40: each message by the island's state, the update under way and the session it comes in. -/
theorem firmwareUpdates : Obligations.FirmwareUpdates := by
  intro m off sess bytes s hm hlen hoff
  have hwm : within [(m, 16)] = true := by simp [within, hm]
  have hwd : within [(m, 16), (off, 0x100000000)] = true := by simpa [within, hm] using hoff
  have hreq : Gives (.requestUpdate m) s (requestUpdate m s.dev) := Flows.gives_of_exec (exec_requestUpdate m s) hwm
  have hdata : Gives (.firmwareData m off bytes) s (firmwareData m off bytes s.dev) :=
    Flows.gives_of_exec (exec_firmwareData m off bytes s) hwd
  have hver : Gives (.verifyComplete m) s (verifyComplete m s.dev) := Flows.gives_of_exec (exec_verifyComplete m s) hwm
  have hact : Gives (.activateFirmware m) s (activateFirmware m s.dev) := Flows.gives_of_exec (exec_activateFirmware m s) hwm
  have hcan : Gives (.cancelUpdate m) s (cancelUpdate m s.dev) := Flows.gives_of_exec (exec_cancelUpdate m s) hwm
  have hrol : Gives (.rollbackCommit m sess) s (rollbackCommit m sess s.dev) := Flows.gives_of_exec (exec_rollbackCommit m sess s) hwm
  dsimp only
  refine ⟨fun hno => ?_, fun h => ⟨fun hu => ?_, fun hu hb => ?_, fun hu hb => ?_, fun hu => ⟨?_, ?_, fun hv => ?_, fun hv => ?_, ?_⟩,
    fun hu => ⟨?_, ?_, ?_⟩, fun ha => ?_, fun ha hp => ?_, fun ha hp hr => ⟨fun hsv => ?_, fun hsv => ?_⟩⟩⟩
  · have hn : ¬ islandServes s.dev = true := by simp [hno]
    have hn' {p : Prop} : ¬ (islandServes s.dev = true ∧ p) := fun hp => hn hp.1
    rw [requestUpdate, if_pos hn] at hreq
    rw [firmwareData, if_neg hn'] at hdata
    rw [verifyComplete, if_neg hn'] at hver
    rw [activateFirmware, if_pos hn] at hact
    rw [cancelUpdate, if_pos hn] at hcan
    rw [rollbackCommit, if_pos hn] at hrol
    exact ⟨hreq, hdata, hver, hact, hcan, hrol⟩
  · rw [requestUpdate_of_busy h hu, reply_nil] at hreq
    exact ⟨_, hreq, rfl, rfl, rfl, rfl, rfl, rfl⟩
  · have hb' : maintBlocked (asked m s.dev) (asked m s.dev).maint (updateReq m s.dev) = true := hb
    rw [requestUpdate_of_none h hu, maintSubmit_of_blocked hb', maintAsk_eq hb'] at hreq
    exact ⟨_, hreq, rfl, rfl, ⟨rfl, rfl⟩, rfl⟩
  · have hb' : maintBlocked (asked m s.dev) (asked m s.dev).maint (updateReq m s.dev) = false := hb
    rw [requestUpdate_of_none h hu, maintSubmit_of_free hb', maintAsk_eq hb'] at hreq
    exact ⟨_, hreq, rfl, rfl, rfl, rfl, rfl, rfl, rfl, rfl, rfl⟩
  · rw [firmwareData_of_mine h hu hlen] at hdata
    exact ⟨_, hdata, firmwareData_spec off bytes s.dev⟩
  · rw [verifyComplete_of_mine h hu, reply_nil] at hver
    refine ⟨_, hver, ?_, rfl, rfl, rfl, rfl⟩
    cases hb : bundleValid s.dev (inactive s.dev) <;> simp [inactive] at hb <;> simp [hb] <;> rfl
  · rw [activateFirmware_of_verified h hu hv, reply_nil] at hact
    refine ⟨_, hact, rfl, rfl, rfl, rfl, rfl, ?_⟩
    rw [List.all_eq_true]
    exact fun x hx => (List.mem_filter.mp hx).2
  · rw [activateFirmware_of_unverified h hu hv, reply_nil] at hact
    exact ⟨_, hact, rfl, rfl, rfl, rfl, rfl⟩
  · rw [cancelUpdate_of_mine h hu, reply_nil] at hcan
    exact ⟨_, hcan, rfl, rfl, rfl, rfl, cancelUpdate_spec s.dev⟩
  · have hn {p q : Prop} : ¬ (p ∧ updateBy s.dev m = true ∧ q) := fun hp => by simp [hu] at hp
    rwa [firmwareData, if_neg hn] at hdata
  · have hn {p : Prop} : ¬ (p ∧ updateBy s.dev m = true) := fun hp => by simp [hu] at hp
    rwa [verifyComplete, if_neg hn] at hver
  · rw [activateFirmware_of_other h hu, reply_nil] at hact
    exact ⟨_, hact, rfl, rfl, rfl, rfl, rfl⟩
  · rw [rollbackCommit_of_strange h ha, reply_nil] at hrol
    exact ⟨_, hrol, rfl, rfl, rfl, rfl, rfl, rfl⟩
  · rw [rollbackCommit_of_pending h ha hp, reply_nil] at hrol
    exact ⟨_, hrol, rfl, rfl, rfl, rfl, rfl, rfl⟩
  · rw [rollbackCommit_of_floor h ha hp hr hsv, reply_nil] at hrol
    exact ⟨_, hrol, rfl, rfl, rfl, rfl, rfl, rfl⟩
  · rw [rollbackCommit_of_above h ha hp hr hsv] at hrol
    have hkept : maintSubmit (rollbackReq m s.dev) s.dev = maintAsk (rollbackReq m s.dev) s.dev := by
      cases hb : maintBlocked s.dev s.dev.maint (rollbackReq m s.dev)
      · exact maintSubmit_of_free hb
      · exact maintSubmit_of_blocked hb
    rw [hkept, maintAsk_eq rfl] at hrol
    exact ⟨_, hrol, rfl, rfl, _, rfl, rfl, rfl, rfl⟩

end Sys2Proof.IslandMessages

/-! ## What ports and parsers change -/

namespace Sys2Proof.Wires

open Sys2Proof.Machine Sys2Proof.Safety Sys2Proof.Laws

/-- Of the device only the edge dies, the counters, what was sent and the records that wait may differ. -/
def PortsOnly (d d' : Dev) : Prop := d' = { d with edge := d'.edge, ctr := d'.ctr, out := d'.out, recPend := d'.recPend }

namespace PortsOnly

theorem refl (d : Dev) : PortsOnly d d := rfl

theorem trans {a b c : Dev} (h : PortsOnly a b) (h' : PortsOnly b c) : PortsOnly a c := by
  unfold PortsOnly at h'
  rw [h] at h'
  exact h'

theorem ite {c : Prop} [Decidable c] {a b d : Dev} (ha : PortsOnly d a) (hb : PortsOnly d b) : PortsOnly d (if c then a else b) :=
  iteInduction (fun _ => ha) (fun _ => hb)

theorem forEach {α : Type} {f : α → Dev → Dev} (hf : ∀ x d, PortsOnly d (f x d)) (l : List α) (d : Dev) : PortsOnly d (forEach l f d) :=
  List.foldlRecOn (motive := PortsOnly d) l _ (refl d) fun d' h x _ => h.trans (hf x d')

theorem onEdge (f : Edge → Edge) (d : Dev) : PortsOnly d (onEdge f d) := rfl

theorem modFrame (fid : Nat) (f : Frame → Frame) (d : Dev) : PortsOnly d (modFrame fid f d) := rfl

theorem modBp (bp : Nat) (f : Bp → Bp) (d : Dev) : PortsOnly d (modBp bp f d) := rfl

theorem bump (c : Ctr) (i j : Nat) (d : Dev) : PortsOnly d (bump c i j d) := rfl

theorem of_queues {d d' : Dev} (h : Egress.QueuesOnly d d') : PortsOnly d d' := by
  have hrest : d' = _ := h.rest
  rw [hrest]
  rfl

/-! ### The slow path -/

theorem slowAdmit (die cls : Nat) (d : Dev) : PortsOnly d (slowAdmit die cls d).2 := by
  rw [Machine.slowAdmit, apply_ite Prod.snd]
  exact ite rfl rfl

theorem slowDeliver (f : Frame) (i : SlowItem) (d : Dev) : PortsOnly d (slowDeliver f i d) := by
  unfold Machine.slowDeliver
  exact ite rfl rfl

theorem deliverOrHold (fid : Nat) (i : SlowItem) (d : Dev) : PortsOnly d (deliverOrHold fid i d) :=
  ite (ite (refl d) (slowDeliver ..)) (modFrame ..)

theorem slowSend (fid cause : Nat) (verdict : List Byte) (outputs : List Nat) (trunc : Nat) (d : Dev) :
    PortsOnly d (slowSend fid cause verdict outputs trunc d) :=
  ite (bump ..) (ite ((slowAdmit ..).trans (deliverOrHold ..)) (slowAdmit ..))

theorem gcFrame (fid : Nat) (d : Dev) : PortsOnly d (gcFrame fid d) := of_queues (.gcFrame fid d)

theorem toSlowPath (fid cause : Nat) (verdict : List Byte) (outputs : List Nat) (d : Dev) :
    PortsOnly d (toSlowPath fid cause verdict outputs d) :=
  (((modBp ..).trans (slowSend ..)).trans (modFrame ..)).trans (gcFrame ..)

theorem dropFrame (fid : Nat) (d : Dev) : PortsOnly d (dropFrame fid d) := rfl

/-! ### Parsers -/

theorem endProgram (pa cause : Nat) (d : Dev) : PortsOnly d (endProgram pa cause d) := by
  unfold Machine.endProgram
  dsimp only
  split
  · exact refl d
  · exact (((onEdge ..).trans (modFrame ..)).trans (bump ..)).trans (ite (dropFrame ..) (toSlowPath ..))

theorem endDone (pa : Nat) (d : Dev) : PortsOnly d (endDone pa d) := by
  unfold Machine.endDone
  dsimp only
  split
  · exact refl d
  · exact (onEdge ..).trans (modFrame ..)

theorem claveApply (pa : Nat) (i : Instr) (r : CRes) (d : Dev) : PortsOnly d (claveApply pa i r d) := by
  cases r with
  | ok p cost => exact ite (onEdge ..) (endProgram ..)
  | ends cause cost => exact ite (endProgram ..) (endProgram ..)
  | done => exact ite (endDone ..) (endProgram ..)
  | stall => rfl

theorem claveResume (pa : Nat) (d : Dev) : PortsOnly d (claveResume pa d) := by
  unfold Machine.claveResume
  dsimp only
  split
  · split
    · exact ite (endProgram ..) (refl d)
    · exact (onEdge ..).trans (claveApply ..)
  · exact refl d

theorem resumeFrame (fid : Nat) (d : Dev) : PortsOnly d (resumeFrame fid d) := by
  unfold Machine.resumeFrame
  split
  · exact claveResume ..
  · exact refl d

/-! ### The flow cache -/

theorem flowSettle (k own : Nat) (l : List Nat) (d : Dev) : PortsOnly d (flowSettle k own l d) := by
  induction l generalizing d with
  | nil => exact refl d
  | cons fid l ih =>
    refine ite (.trans ?_ (ih _)) (refl d)
    exact ite ((onEdge ..).trans (modFrame ..)) (((onEdge ..).trans (modFrame ..)).trans (gcFrame ..))

theorem flowCommit (fid : Nat) (good : Bool) (d : Dev) : PortsOnly d (flowCommit fid good d) := by
  unfold Machine.flowCommit
  dsimp only
  split
  · split
    · exact (ite (modFrame ..) ((onEdge ..).trans (modFrame ..))).trans (flowSettle ..)
    · exact modFrame ..
  · exact refl d

/-! ### Frames that end, and links that go down -/

theorem pfcCheckBp (bp : Nat) (d : Dev) : PortsOnly d (pfcCheckBp bp d) := of_queues (.pfcCheckBp bp d)

theorem mapTx (fid : Nat) (f : EItem → EItem) (c : Nat → Dev → Dev) (hc : ∀ k d, PortsOnly d (c k d)) (d : Dev) :
    PortsOnly d (mapTx fid f c d) := (onEdge ..).trans (forEach hc ..)

theorem abandonDeep (f : Frame) (d : Dev) : PortsOnly d (abandonDeep f d) := by
  unfold Machine.abandonDeep
  split
  · exact refl d
  · exact (bump ..).trans (ite (onEdge ..) ((onEdge ..).trans (onEdge ..)))

/-- The queued copies of a frame that ends bad are dropped, or stomped where they are in transmission. -/
theorem dropQueued (fid bp : Nat) (g : EItem → EItem) (d : Dev) :
    PortsOnly d (Machine.pfcCheckBp bp (Machine.dropFrame fid (Machine.mapTx fid g (fun bp d => Machine.bump .txStomped bp 0 d)
      (mapItems fid (fun _ => none) d)))) :=
  (((onEdge ..).trans (mapTx _ _ _ (fun _ _ => bump ..) _)).trans (dropFrame ..)).trans (pfcCheckBp ..)

theorem endBad (fid : Nat) (d : Dev) : PortsOnly d (endBad fid d) := by
  have hended (f : Frame → Frame) (bp : Nat) (b : Bp → Bp) :
      PortsOnly d (Machine.flowCommit fid false (Machine.modBp bp b (Machine.modFrame fid f d))) :=
    ((modFrame ..).trans (modBp ..)).trans (flowCommit ..)
  unfold Machine.endBad
  dsimp only
  split
  · exact (hended ..).trans ((onEdge ..).trans (dropFrame ..))
  · exact (hended ..).trans (resumeFrame ..)
  · exact (hended ..).trans (((abandonDeep ..).trans (dropFrame ..)).trans (pfcCheckBp ..))
  · exact (hended ..).trans (dropQueued ..)
  · exact (hended ..).trans (dropQueued ..)
  · exact (hended ..).trans (dropFrame ..)

theorem stompTx (bp : Nat) (d : Dev) : PortsOnly d (stompTx bp d) := by
  have hsent (i : EItem) : PortsOnly d (Machine.onEdge (fun e => { e with txNow := tput none e.txNow bp none, txQueue := tput 0 e.txQueue bp 0 })
      (Machine.emit (.frame bp i.bytes true) (Machine.bump .txStomped bp 0 d))) := rfl
  unfold Machine.stompTx
  dsimp only
  split
  · exact refl d
  · split
    · exact (hsent _).trans ((gcFrame ..).trans (pfcCheckBp ..))
    · exact (hsent _).trans (pfcCheckBp ..)

theorem discardQueues (bp : Nat) (d : Dev) : PortsOnly d (discardQueues bp d) := by
  refine forEach (fun q d => (onEdge ..).trans (forEach (fun i d => ?_) _ _)) _ d
  dsimp only
  split
  · exact ((bump ..).trans (gcFrame ..)).trans (pfcCheckBp ..)
  · exact (bump ..).trans (pfcCheckBp ..)

theorem takeDown (bp : Nat) (d : Dev) : PortsOnly d (takeDown bp d) := by
  have hdown {a : Dev} (h : PortsOnly d a) (f : Bp → Bp) : PortsOnly d (applyHeld bp (Machine.stompTx bp (Machine.modBp bp f a))) :=
    h.trans (((modBp ..).trans (stompTx ..)).trans (modBp ..))
  unfold Machine.takeDown
  dsimp only
  refine ite (refl d) (ite ?_ (.trans ?_ ((discardQueues ..).trans (modBp ..))))
  · split
    · exact hdown (endBad ..) _
    · exact hdown (refl d) _
  · split
    · exact hdown (endBad ..) _
    · exact hdown (refl d) _

theorem startCal (p : Nat) (d : Dev) : PortsOnly d (startCal p d) :=
  (onEdge ..).trans (forEach (fun _ d => ite (modBp ..) (refl d)) ..)

theorem forcedRecal (p : Nat) (d : Dev) : PortsOnly d (forcedRecal p d) :=
  (forEach (fun _ d => ite ((modBp ..).trans (takeDown ..)) (refl d)) _ d).trans (startCal ..)

end PortsOnly

end Sys2Proof.Wires

/-! ## What the island reports, and what its sessions may ask for -/

namespace Sys2Proof.IslandMessages

open Sys2Proof.Machine Sys2Proof.Safety Sys2Proof.Laws

variable {m sess : Nat} {d : Dev}

/-- A table filtered by key reads as before where the key passes. -/
theorem tget_filter_key {α : Type} (v : α) (p : Nat → Bool) (t : Tab α) (k : Nat) :
    tget v (t.filter (fun e => p e.1)) k = if p k then tget v t k else v := by
  induction t with
  | nil => exact (ite_self v).symm
  | cons e t ih =>
    obtain ⟨j, w⟩ := e
    by_cases hj : j = k
    · subst hj
      cases hp : p j
      · rw [List.filter_cons_of_neg (by simp [hp]), ih, hp]
        rfl
      · rw [List.filter_cons_of_pos (by simp [hp]), if_pos rfl]
        exact (if_pos rfl).trans (if_pos rfl).symm
    · have htail : tget v ((j, w) :: t) k = tget v t k := if_neg hj
      rw [htail, ← ih]
      cases hp : p j
      · rw [List.filter_cons_of_neg (by simp [hp])]
      · rw [List.filter_cons_of_pos (by simp [hp])]
        exact if_neg hj

/-! ### Reports -/

theorem mctpControl_eq {cmd arg : Nat} (h : islandUp d = true) (harg : arg < 256) :
    let eid := if cmd = 1 ∧ bitOf d.pins.straps 5 = false then arg else d.isl.eid
    mctpControl m cmd arg d = { d with
      isl := { d.isl with eid := eid }
      out := d.out ++ [.mgmt m (toLe 1 cmd ++ [0] ++ toLe 1 (if bitOf d.pins.straps 5 then 0x20 + d.pins.straps % 8 else eid))] } := by
  unfold mctpControl
  dsimp only
  rw [if_neg (fun hn => hn h), Nat.mod_eq_of_lt harg]
  cases hs : bitOf d.pins.straps 5 <;> by_cases hc : cmd = 1 <;> simp [hc, hs, emit, onIsl, endpointId, ownPkg]

theorem length_statusBlock (d : Dev) : (statusBlock d).length = 16 := by
  simp [statusBlock, zeroBytes]

theorem length_logBytes {e : LogEntry} (h : e.payload.length = 14) : (logBytes e).length = 32 := by
  simp [logBytes, h]

/-- Where the island does not serve, it answers no monitoring and sets up no session. -/
theorem monitoring_of_silent (h : islandServes d = false) (kind arg : Nat) (auth : Bool) :
    pldmMonitor m kind arg d = d ∧ spdmMessage m kind arg auth d = d := by
  have hn : ¬ islandServes d = true := by simp [h]
  unfold pldmMonitor spdmMessage
  exact ⟨if_pos hn, if_pos hn⟩

section

variable (h : islandServes d = true) (arg : Nat)
include h

theorem pldmMonitor_reading : pldmMonitor m 0 arg d = emit (.mgmt m (toLe 1 0 ++ toLe 2 (sensorReading d arg))) d :=
  if_neg (fun hn => hn h)

theorem pldmMonitor_receiver (harg : arg < 256) :
    pldmMonitor m 3 arg d = emit (.mgmt m [0]) (onIsl (fun x => { x with receiver := some arg }) d) := by
  have hset : pldmMonitor m 3 arg d = emit (.mgmt m [0]) (onIsl (fun x => { x with receiver := some (arg % 256) }) d) :=
    if_neg (fun hn => hn h)
  rw [hset, Nat.mod_eq_of_lt harg]

theorem spdmMessage_opened (auth : Bool) : spdmMessage m 0 arg auth d = emit (.mgmt m [0])
    (onIsl (fun x => { x with sessions := x.sessions ++ [{ medium := m, auth := auth && !d.otp.ownerRoot.isEmpty }] }) d) :=
  if_neg (fun hn => hn h)

theorem spdmMessage_ended (auth : Bool) : spdmMessage m 1 arg auth d = emit (.mgmt m [0])
    (onIsl (fun x => { x with sessions := x.sessions.set arg { medium := 0 } }) d) :=
  if_neg (fun hn => hn h)

theorem spdmMessage_measured (auth : Bool) : spdmMessage m 2 arg auth d = emit (.mgmt m (toLe 1 0 ++ measurement d arg)) d :=
  if_neg (fun hn => hn h)

end

/-! ### TROUBLE_CLEAR (R538) -/

/-- The device with the masked counters cleared. -/
def troubleCleared (mask : Nat) (d : Dev) : Dev := onIsl (fun x => { x with
  trouble := x.trouble.filter (fun e => !bitOf mask e.1), troubleSince := some (x.troubleSince.getD (beat d)) }) d

theorem troubleClear_of_authed {mask : Nat} (h : islandServes d = true) (ha : authed d m sess = true) :
    troubleClear m sess mask d = reply m 0 [] (islandLog 0x0116 0xFF 0xFF (toLe 4 mask) (troubleCleared mask d)) :=
  (if_neg (fun hn => hn h)).trans (if_neg (fun hn => hn ha))

/-- An entry of the log changes the log, what awaits its NOR write, and a counter. -/
theorem logOnly_eq (code sev site unit : Nat) (payload : List Byte) (d : Dev) : ∃ c l q u,
    logOnly code sev site unit payload d = { d with ctr := c, isl := { d.isl with log := l, seq := q, unsaved := u } } := by
  have hentry (l : List LogEntry) (q : Island → Nat) (u : Island → List LogEntry) (d : Dev) : ∃ c l' q' u',
      bump .logEntries 0 0 (onIsl (fun x => { x with log := l, seq := q x, unsaved := u x }) d) =
        { d with ctr := c, isl := { d.isl with log := l', seq := q', unsaved := u' } } := ⟨_, _, _, _, rfl⟩
  exact hentry _ _ _ d

/-- An event of no trouble counter and no ALERT only enters the log. -/
theorem islandLog_quiet (code site unit : Nat) (payload : List Byte) (d : Dev) (h : (eventKind code).2 = (none, false)) :
    islandLog code site unit payload d = logOnly code (eventKind code).1 site unit payload d := by
  rw [Logs.islandLog_eq, h]
  rfl

theorem troubleClear_spec (mask : Nat) (d : Dev) :
    let d' := reply m 0 [] (islandLog 0x0116 0xFF 0xFF (toLe 4 mask) (troubleCleared mask d))
    (∀ k, k < 32 → tget 0 d'.isl.trouble k = if bitOf mask k then 0 else tget 0 d.isl.trouble k) ∧
    d'.isl.log.getLast?.map (fun e => e.code) = some 0x116 ∧ d'.out = d.out ++ [.mgmt m (toLe 2 0)] ∧
    d' = { d with isl := d'.isl, out := d'.out, ctr := d'.ctr } := by
  intro d'
  have hlast : (islandLog 0x0116 0xFF 0xFF (toLe 4 mask) (troubleCleared mask d)).isl.log.getLast?.map (fun e => e.code) = some 0x116 :=
    Logs.lastCode_islandLog
  obtain ⟨c, l, q, u, hlog⟩ := logOnly_eq 0x0116 0 0xFF 0xFF (toLe 4 mask) (troubleCleared mask d)
  have hquiet := (islandLog_quiet 0x0116 0xFF 0xFF (toLe 4 mask) (troubleCleared mask d) rfl).trans hlog
  rw [hquiet] at hlast
  have hd : d' = _ := (congrArg (reply m 0 []) hquiet).trans (reply_nil ..)
  rw [hd]
  refine ⟨fun k _ => ?_, hlast, rfl, rfl⟩
  refine (tget_filter_key 0 (fun k => !bitOf mask k) d.isl.trouble k).trans ?_
  cases bitOf mask k
  · rfl
  · rfl

/-! ### Sessions (R545) -/

/-- A session ended is authorised no more. -/
theorem authed_of_ended (m arg : Nat) {d' : Dev} (h : d'.isl.sessions = d.isl.sessions.set arg { medium := 0 }) :
    authed d' m arg = false := by
  rw [authed, h]
  by_cases hlt : arg < d.isl.sessions.length
  · rw [List.getElem?_set_self hlt]
    rfl
  · rw [List.getElem?_eq_none (by rw [List.length_set]; omega)]
    rfl

/-! ### MAINT (R546) -/

theorem act_of_maintBad {act obj : Nat} {args : List Nat} (h : maintBad d act obj args = false) : 1 ≤ act ∧ act ≤ 6 := by
  unfold maintBad at h
  split at h
  · omega
  · omega
  · omega
  · omega
  · omega
  · omega
  · exact nomatch h

/-- Whatever an activity on a port, link, cluster or stack starts, no request leaves the arbiter. -/
theorem maint_maintStart {r : MaintReq} (h1 : 1 ≤ r.act) (h6 : r.act ≤ 6) (joins : Bool) (d : Dev) : (maintStart r joins d).maint = d.maint := by
  have hport : (forcedRecal r.obj d).maint = d.maint := by rw [show forcedRecal _ _ = _ from Wires.PortsOnly.forcedRecal r.obj d]
  have hlink : (jodonRecal r.obj d).maint = d.maint := by
    unfold jodonRecal
    dsimp only
    split
    · exact JodonLinks.maint_linkLost ..
    · split
      · rfl
      · rfl
  unfold maintStart
  split
  · split
    · rfl
    · exact hport
  · split
    · rfl
    · exact hlink
  · simp [clusterShares]
  · simp
  · rfl
  · rfl
  · omega
  · rfl
  · rfl

/-- A request handed to the arbiter stands there, granted or not. -/
theorem mem_maintSubmit {r : MaintReq} (h1 : 1 ≤ r.act) (h6 : r.act ≤ 6) (d : Dev) : ∃ g, { r with granted := g } ∈ (maintSubmit r d).maint := by
  refine ⟨!maintBlocked d d.maint r, ?_⟩
  have hasked : { r with granted := !maintBlocked d d.maint r } ∈ (maintAsk r d).maint := by
    rw [maintAsk_eq rfl]
    exact List.mem_append_right _ (List.mem_singleton.mpr rfl)
  unfold maintSubmit
  dsimp only
  split
  · rwa [maint_maintStart h1 h6]
  · exact hasked

/-! ### The statement -/

/-- Settles O41: each message's answer by whether the island is up and serves, and by the session it comes in. -/
theorem managementMessages : Obligations.ManagementMessages := by
  intro m sess mask first n act obj pch bank row cmd arg kind auth s hm hmask hfirst hn hact hobj hpch hbank hrow hcmd harg hkind
  have hwm : within [(m, 16)] = true := by simp [within, hm]
  have hwpldm (k : Nat) (hk : k < 4) : within [(m, 16), (k, 4), (arg, 0x10000)] = true := by simp [within, hm, hk]; omega
  have hwspdm (k : Nat) (hk : k < 3) : within [(m, 16), (k, 3)] = true := by simp [within, hm, hk]
  have hwmaint : within [(m, 16), (act, 0x10000), (obj, 0x10000), (pch, 256), (bank, 256), (row, 0x10000)] = true := by
    simpa [within, hm, hpch, hbank] using ⟨hact, hobj, hrow⟩
  have hstatus : Gives (.statusMsg m) s (statusMsg m s.dev) := Flows.gives_of_exec (exec_statusMsg m s) hwm
  have hmctp : Gives (.mctpControl m cmd arg) s (mctpControl m cmd arg s.dev) :=
    Flows.gives_of_exec (exec_mctpControl m cmd arg s) (by simp [wf_mctpControl, within, hm, hcmd, harg])
  have hack (m : Nat) (hm : m < 16) : Gives (.alertAck m) s (alertAck m s.dev) :=
    Flows.gives_of_exec (exec_alertAck m s) (by simp [wf_alertAck, within, hm])
  have hlog : Gives (.logRead m first n) s (logRead m first n s.dev) :=
    Flows.gives_of_exec (exec_logRead m first n s) (by rw [wf_logRead]; simpa [within, hm] using ⟨hfirst, hn⟩)
  have htrouble : Gives (.troubleRead m) s (troubleRead m s.dev) := Flows.gives_of_exec (exec_troubleRead m s) hwm
  have hclear : Gives (.troubleClear m sess mask) s (troubleClear m sess mask s.dev) :=
    Flows.gives_of_exec (exec_troubleClear m sess mask s) (by rw [wf_troubleClear]; simpa [within, hm] using hmask)
  have hpldm (k : Nat) (hk : k < 4) : Gives (.pldmMonitoring m k arg) s (pldmMonitor m k arg s.dev) :=
    Flows.gives_of_exec (exec_pldmMonitoring m k arg s) (hwpldm k hk)
  have hspdm (k a : Nat) (hk : k < 3) : Gives (.spdmMessage m k a auth) s (spdmMessage m k a auth s.dev) :=
    Flows.gives_of_exec (exec_spdmMessage m k a auth s) (hwspdm k hk)
  have hmaint : Gives (.maint m sess act obj pch bank row) s (maintMsg m sess act obj pch bank row s.dev) :=
    Flows.gives_of_exec (exec_maint m sess act obj pch bank row s) hwmaint
  dsimp only
  refine ⟨fun h => ?_, fun h => ?_, length_statusBlock _, fun e he => length_logBytes he, hack 0 (by decide), fun h => ?_, fun h => ?_⟩
  · have hn : ¬ islandUp s.dev = true := by simp [h]
    rw [statusMsg, if_neg hn] at hstatus
    rw [mctpControl, if_pos hn] at hmctp
    exact ⟨hstatus, hmctp⟩
  · rw [statusMsg, if_pos h] at hstatus
    rw [mctpControl_eq h harg] at hmctp
    exact ⟨hstatus, hmctp⟩
  · have hn : ¬ islandServes s.dev = true := by simp [h]
    rw [logRead, if_neg hn] at hlog
    rw [troubleRead, if_neg hn] at htrouble
    rw [troubleClear, if_pos hn] at hclear
    rw [maintMsg, if_pos (.inl hn)] at hmaint
    refine ⟨hlog, htrouble, hclear, hmaint, ?_, ?_, fun h0 => ?_⟩
    · have hk := hpldm kind (by omega)
      rwa [(monitoring_of_silent h kind arg auth).1] at hk
    · have hk := hspdm kind arg hkind
      rwa [(monitoring_of_silent h kind arg auth).2] at hk
    · have hk := hack m hm
      rwa [alertAck, if_neg h0, if_neg hn] at hk
  · have hn : ¬ ¬ islandServes s.dev = true := fun hn => hn h
    rw [logRead, if_pos h] at hlog
    rw [troubleRead, if_pos h] at htrouble
    refine ⟨hlog, htrouble, fun h0 => ?_, ?_, ?_, ?_, ?_, ?_, fun ha => ?_, fun ha => ?_, fun hr => ?_, fun hr ha => ?_,
      fun hr ha hbad => ?_, fun hr ha hbad => ?_⟩
    · have hk := hack m hm
      rw [alertAck, if_neg h0, if_pos h, reply_nil] at hk
      exact hk
    · have hk := hpldm 0 (by decide)
      rwa [pldmMonitor_reading h] at hk
    · have hk := hpldm 3 (by decide)
      rwa [pldmMonitor_receiver h arg harg] at hk
    · have hk := hspdm 0 arg (by decide)
      rwa [spdmMessage_opened h] at hk
    · have hk := hspdm 2 4 (by decide)
      rw [spdmMessage_measured h, measurement, ← List.append_assoc] at hk
      exact hk
    · have hk := hspdm 1 arg (by decide)
      rw [spdmMessage_ended h] at hk
      exact ⟨_, hk, authed_of_ended m arg rfl⟩
    · rw [troubleClear, if_neg hn, if_pos (by simp [ha]), reply_nil] at hclear
      exact hclear
    · rw [troubleClear_of_authed h ha] at hclear
      exact ⟨_, hclear, troubleClear_spec mask s.dev⟩
    · rwa [maintMsg, if_pos (.inr hr)] at hmaint
    · rw [maintMsg, if_neg (by simp [h, hr]), if_pos (by simp [ha]), reply_nil] at hmaint
      exact hmaint
    · rw [maintMsg, if_neg (by simp [h, hr]), if_neg (by simp [ha]), if_pos hbad, reply_nil] at hmaint
      exact hmaint
    · rw [maintMsg, if_neg (by simp [h, hr]), if_neg (by simp [ha]), if_neg (by simp [hbad])] at hmaint
      obtain ⟨h1, h6⟩ := act_of_maintBad hbad
      obtain ⟨g, hg⟩ := mem_maintSubmit
        (r := { act, obj, src := 1, limit := beat s.dev + maintLimit act, args := [pch, bank, row, m] }) h1 h6 s.dev
      exact ⟨_, hmaint, _, hg, rfl, rfl, rfl, rfl, rfl⟩

end Sys2Proof.IslandMessages

/-! ## A cluster listed twice -/

namespace Sys2Proof.ControlCores

open Sys2Proof.Machine Sys2Proof.Safety Sys2Proof.Laws

/-- Cluster 0 is listed twice: first OFF with a version of context 0 to be reloaded, then in RUN. The table of clusters is not in
canonical form. Ticket 1 is a running TRAIN_STEP that prepares that version. -/
def clusterListedTwice : Dev :=
  { cmds := [(1, { bytes := [0x23], st := 1 })]
    ctxs := [(0, { clusters := [0], work := { vid := 1 } })]
    comp := { clusters := [(0, { reload := [1] }), (0, { power := 0 })] } }

theorem clusterPower_coreFailed_clusterListedTwice : clusterPower (coreFailed 0 0 clusterListedTwice) 0 = 1 := by decide +kernel

/-- Refutes O42: a cluster whose controller fails is claimed to come out of its reset in OFF where it was found in OFF, on every device,
also on one whose table of clusters lists a cluster twice. There the TRAIN_STEP that the reset aborts takes its version from the cluster's
first entry, which then equals the default and is dropped, and the reset finds the second, in RUN. -/
theorem not_controlCoresAndLogs : ¬ Obligations.ControlCoresAndLogs := by
  intro h
  obtain ⟨-, -, -, hcluster, -⟩ := h 0 0 0 0 (zeroBytes 60) { dev := clusterListedTwice } (by decide) (by decide) (by decide) (by decide) (by decide)
  obtain ⟨⟨d', hgives, hpower, -⟩, -⟩ := hcluster (by decide)
  have hfailed : Gives (.controlCoreTimeout 0 0) { dev := clusterListedTwice } (coreFailed 0 0 clusterListedTwice) :=
    Flows.gives_of_exec (exec_controlCoreTimeout 0 0 _) rfl
  have hsame : coreFailed 0 0 clusterListedTwice = d' := by
    have hnext := hfailed.symm.trans hgives
    simpa using hnext
  have hoff : clusterPower d' 0 = 3 := hpower
  rw [← hsame, clusterPower_coreFailed_clusterListedTwice] at hoff
  exact absurd hoff (by decide)

end Sys2Proof.ControlCores

/-! ## Partitions: how an operation ends, and how a reset begins -/

namespace Sys2Proof.Partitions

open Sys2Proof.Machine Sys2Proof.Safety Sys2Proof.Laws

variable {p : Nat} {d : Dev}

/-! ### The status of an operation (R472) -/

/-- A field below the one written keeps its value. -/
theorem bitsOf_setBits_below {lo lo' w' : Nat} (v w x : Nat) (h : lo' + w' ≤ lo) : bitsOf (setBits v lo w x) lo' w' = bitsOf v lo' w' := by
  obtain ⟨k, rfl⟩ := Nat.exists_eq_add_of_le h
  have hlow (c r : Nat) : (2 ^ (lo' + w' + k) * c + r) / 2 ^ lo' % 2 ^ w' = r / 2 ^ lo' % 2 ^ w' := by
    rw [Nat.pow_add, Nat.pow_add, Nat.mul_assoc, Nat.mul_assoc, Nat.mul_add_div (Nat.two_pow_pos lo'), Nat.mul_add_mod]
  have hv := hlow (v / 2 ^ (lo' + w' + k)) (v % 2 ^ (lo' + w' + k))
  rw [Nat.div_add_mod] at hv
  rw [bitsOf, bitsOf, Nat.shiftRight_eq_div_pow, Nat.shiftRight_eq_div_pow, Egress.setBits_eq, hlow, hv]

/-- HUB_PART_STATUS with a result, a partition and an operation. -/
def shown (v code part op : Nat) : Nat := setBits (setBits (setBits v 1 4 code) 5 6 part) 11 2 op

theorem shown_spec {code part op : Nat} (v : Nat) (hcode : code < 16) (hpart : part < 64) (hop : op < 4) :
    bitsOf (shown v code part op) 1 4 = code ∧ bitsOf (shown v code part op) 5 6 = part ∧ bitsOf (shown v code part op) 11 2 = op := by
  refine ⟨?_, ?_, ?_⟩
  · rw [shown, bitsOf_setBits_below _ _ _ (by decide), bitsOf_setBits_below _ _ _ (by decide), Egress.bitsOf_setBits_same]
    exact Nat.mod_eq_of_lt hcode
  · rw [shown, bitsOf_setBits_below _ _ _ (by decide), Egress.bitsOf_setBits_same]
    exact Nat.mod_eq_of_lt hpart
  · rw [shown, Egress.bitsOf_setBits_same]
    exact Nat.mod_eq_of_lt hop

/-- The device with an operation's result shown. -/
def opShown (code : Nat) (o : PartOp) (d : Dev) : Dev :=
  setReg rPartStatus (shown (regVal d rPartStatus) code o.part o.op) { d with partOp := none }

theorem finishOp_eq {o : PartOp} (h : d.partOp = some o) (code : Nat) :
    finishOp code d = when (code != 0) (bump .partOpRefused code 0) (opShown code o d) := by
  unfold finishOp
  rw [h]
  rfl

/-- What the end of an operation shows and leaves. -/
theorem finishOp_spec {o : PartOp} {code : Nat} (h : d.partOp = some o) (hcode : code < 16) (hpart : o.part < 64) (hop : o.op < 4) :
    let d' := finishOp code d
    (d'.partOp = none ∧ regFld d' rPartStatus 1 4 = code ∧ regFld d' rPartStatus 5 6 = o.part ∧ regFld d' rPartStatus 11 2 = o.op) ∧
    (code ≠ 0 → ctrVal d' .partOpRefused code 0 = ctrVal d .partOpRefused code 0 + 1) ∧
    d' = { d with partOp := none, regs := d'.regs, ctr := d'.ctr } := by
  intro d'
  have hd : d' = when (code != 0) (bump .partOpRefused code 0) (opShown code o d) := finishOp_eq h code
  have hreg : regVal d' rPartStatus = shown (regVal d rPartStatus) code o.part o.op := by
    rw [hd, when]
    split
    · rw [regVal_bump, opShown, regVal_setReg_same]
    · rw [opShown, regVal_setReg_same]
  obtain ⟨hc, hp, ho⟩ := shown_spec (regVal d rPartStatus) hcode hpart hop
  refine ⟨⟨?_, ?_, ?_, ?_⟩, fun hne => ?_, ?_⟩
  · rw [hd, when]
    split
    · rfl
    · rfl
  · rw [regFld, hreg, hc]
  · rw [regFld, hreg, hp]
  · rw [regFld, hreg, ho]
  · rw [hd, when, if_pos (bne_iff_ne.mpr hne), ctrVal_bump_same]
    rfl
  · rw [hd, when]
    split
    · rfl
    · rfl

/-! ### Resets of partitions (R478, R483) -/

/-- Whether a partition is being reset, or will be. -/
def resets (x : Part) : Prop := x.resetting = true ∨ x.resetAgain = true

/-- What the start of resets leaves: partitions exist as before with their functions, resets that had begun or were due and destructions
stay, and beside partitions only interrupts pending, dumps and rings' announcements may differ. -/
structure ResetsBegun (d d' : Dev) : Prop where
  exist : ∀ q, (partOf d' q).exist = (partOf d q).exist
  resets : ∀ q, resets (partOf d q) → resets (partOf d' q)
  destroying : ∀ q, (partOf d q).destroying = true → (partOf d' q).destroying = true
  rest : d' = { d with parts := d'.parts, msixPba := d'.msixPba, obs := d'.obs, pairs := d'.pairs, rrings := d'.rrings }

namespace ResetsBegun

theorem refl (d : Dev) : ResetsBegun d d := ⟨fun _ => rfl, fun _ h => h, fun _ h => h, rfl⟩

theorem trans {a b c : Dev} (h : ResetsBegun a b) (h' : ResetsBegun b c) : ResetsBegun a c where
  exist := fun q => (h'.exist q).trans (h.exist q)
  resets := fun q hq => h'.resets q (h.resets q hq)
  destroying := fun q hq => h'.destroying q (h.destroying q hq)
  rest := by
    have hc := h'.rest
    rw [h.rest] at hc
    exact hc

/-- One partition changed. -/
theorem modPart (p : Nat) (f : Part → Part) (he : ∀ x, (f x).exist = x.exist) (hr : ∀ x, Partitions.resets x → Partitions.resets (f x))
    (hd : ∀ x, x.destroying = true → (f x).destroying = true) (d : Dev) : ResetsBegun d (modPart p f d) := by
  have hat (q : Nat) : partOf (Machine.modPart p f d) q = if q = p then f (partOf d p) else partOf d q := partOf_modPart ..
  refine ⟨fun q => ?_, fun q hq => ?_, fun q hq => ?_, rfl⟩
  · rw [hat]
    split
    · rename_i h
      rw [he, h]
    · rfl
  · rw [hat]
    split
    · rename_i h
      exact hr _ (h ▸ hq)
    · exact hq
  · rw [hat]
    split
    · rename_i h
      exact hd _ (h ▸ hq)
    · exact hq

/-- A device with the partitions as they were. -/
theorem of_parts {d' : Dev} (hp : d'.parts = d.parts)
    (h : d' = { d with parts := d'.parts, msixPba := d'.msixPba, obs := d'.obs, pairs := d'.pairs, rrings := d'.rrings }) : ResetsBegun d d' := by
  have hat (q : Nat) : partOf d' q = partOf d q := congrArg (fun t => tget ({} : Part) t q) hp
  exact ⟨fun q => by rw [hat], fun q hq => by rwa [hat], fun q hq => by rwa [hat], h⟩

theorem foldl {α : Type} {f : Dev → α → Dev} (hf : ∀ d x, ResetsBegun d (f d x)) (l : List α) (d : Dev) : ResetsBegun d (l.foldl f d) :=
  List.foldlRecOn (motive := ResetsBegun d) l f (refl d) fun d' h x _ => h.trans (hf d' x)

end ResetsBegun

/-- The functions' announcements forgotten, as a reset of a partition begins. -/
def quieted (p : Nat) (d : Dev) : Dev :=
  { d with
    msixPba := d.msixPba.filter (fun e => e.1 / 4096 != (partOf d p).fn), obs := { d.obs with frozen := tdel d.obs.frozen p }
    pairs := tmap {} (fun q x => if q / 64 = (partOf d p).fn then { x with unann := 0 } else x) d.pairs
    rrings := tmap {} (fun k x => if k / 32 = (partOf d p).fn then { x with unann := 0 } else x) d.rrings }

/-- A reset that begins. -/
def resetBegun (p : Nat) (d : Dev) : Dev := quieted p (modPart p (fun x => { x with resetting := true }) d)

theorem startReset_of_not (h : (partOf d p).exist = false ∨ (partOf d p).resetting = true) : startReset p d = d := by
  unfold startReset
  exact if_pos (h.imp (by simp) id)

theorem startReset_of_waiting (he : (partOf d p).exist = true) (hr : (partOf d p).resetting = false)
    (ho : d.partOp.any (fun o => o.part == p && o.op != 2) = true) :
    startReset p d = modPart p (fun x => { x with resetAgain := true }) d := by
  unfold startReset
  rw [if_neg (by simp [he, hr]), if_pos ho]

theorem startReset_of_free (he : (partOf d p).exist = true) (hr : (partOf d p).resetting = false)
    (ho : d.partOp.any (fun o => o.part == p && o.op != 2) = false) : startReset p d = resetBegun p d := by
  have hfn : (partOf (modPart p (fun x => { x with resetting := true }) d) p).fn = (partOf d p).fn := by rw [partOf_modPart_at]
  unfold startReset
  rw [if_neg (by simp [he, hr]), if_neg (by simp [ho]), resetBegun, quieted, hfn]

/-- Whether a reset begins at once, waits, or has begun. -/
theorem startReset_cases (p : Nat) (d : Dev) : startReset p d = d ∧ ((partOf d p).exist = false ∨ (partOf d p).resetting = true) ∨
    startReset p d = modPart p (fun x => { x with resetAgain := true }) d ∨ startReset p d = resetBegun p d := by
  cases he : (partOf d p).exist
  · exact .inl ⟨startReset_of_not (.inl he), .inl rfl⟩
  · cases hr : (partOf d p).resetting
    · cases ho : d.partOp.any (fun o => o.part == p && o.op != 2)
      · exact .inr (.inr (startReset_of_free he hr ho))
      · exact .inr (.inl (startReset_of_waiting he hr ho))
    · exact .inl ⟨startReset_of_not (.inr hr), .inr rfl⟩

theorem resetsBegun_startReset (p : Nat) (d : Dev) : ResetsBegun d (startReset p d) := by
  rcases startReset_cases p d with ⟨h, -⟩ | h | h
  · rw [h]
    exact .refl d
  · rw [h]
    exact .modPart p (fun x => { x with resetAgain := true }) (fun _ => rfl) (fun _ _ => .inr rfl) (fun _ h => h) d
  · rw [h]
    exact .trans (.modPart p (fun x => { x with resetting := true }) (fun _ => rfl) (fun _ _ => .inl rfl) (fun _ h => h) d) (.of_parts rfl rfl)

/-- An existing partition asked to reset is reset or will be. -/
theorem resets_startReset (he : (partOf d p).exist = true) : resets (partOf (startReset p d) p) := by
  rcases startReset_cases p d with ⟨h, hnot⟩ | h | h
  · rw [h]
    rcases hnot with hno | hr
    · exact absurd (he.symm.trans hno) (by decide)
    · exact .inl hr
  · rw [h, partOf_modPart_at]
    exact .inr rfl
  · have hat : partOf (resetBegun p d) p = _ := partOf_modPart_at p (fun x => { x with resetting := true }) d
    rw [h, hat]
    exact .inl rfl

theorem partOf_startReset_other {q : Nat} (hq : q ≠ p) (d : Dev) : partOf (startReset p d) q = partOf d q := by
  rcases startReset_cases p d with ⟨h, -⟩ | h | h
  · rw [h]
  · rw [h, partOf_modPart_off _ _ hq]
  · rw [h]
    exact partOf_modPart_off (fun x => { x with resetting := true }) d hq

/-! ### Partitions destroyed (R474, R476) -/

/-- The device with a partition to be destroyed. -/
def doomed (p : Nat) : Dev → Dev := modPart p (fun x => { x with destroying := true })

theorem destroyPart_of_exist (he : (partOf d p).exist = true) : destroyPart p d = startReset p (doomed p d) := if_pos he

theorem destroyPart_of_not (he : (partOf d p).exist = false) : destroyPart p d = d := if_neg (by simp [he])

theorem resetsBegun_doomed (p : Nat) (d : Dev) : ResetsBegun d (doomed p d) :=
  .modPart p (fun x => { x with destroying := true }) (fun _ => rfl) (fun _ h => h) (fun _ _ => rfl) d

theorem resetsBegun_destroyPart (p : Nat) (d : Dev) : ResetsBegun d (destroyPart p d) := by
  cases he : (partOf d p).exist
  · rw [destroyPart_of_not he]
    exact .refl d
  · rw [destroyPart_of_exist he]
    exact (resetsBegun_doomed p d).trans (resetsBegun_startReset ..)

theorem destroyPart_spec (he : (partOf d p).exist = true) :
    (partOf (destroyPart p d) p).destroying = true ∧ resets (partOf (destroyPart p d) p) := by
  have hdoomed : partOf (doomed p d) p = { partOf d p with destroying := true } := partOf_modPart_at ..
  rw [destroyPart_of_exist he]
  exact ⟨(resetsBegun_startReset p (doomed p d)).destroying p (by rw [hdoomed]), resets_startReset (by rw [hdoomed]; exact he)⟩

theorem partOf_destroyPart_other {q : Nat} (hq : q ≠ p) (d : Dev) : partOf (destroyPart p d) q = partOf d q := by
  cases he : (partOf d p).exist
  · rw [destroyPart_of_not he]
  · rw [destroyPart_of_exist he, partOf_startReset_other hq]
    exact partOf_modPart_off _ _ hq

/-- A property that resets keep and that one step of a run of resets brings about holds after the run. -/
theorem of_foldl {α : Type} {f : Dev → α → Dev} (hf : ∀ d x, ResetsBegun d (f d x)) {P : Dev → Prop}
    (hkeep : ∀ a b, ResetsBegun a b → P a → P b) {x : α} (hP : ∀ a, ResetsBegun d a → P (f a x)) :
    ∀ l : List α, x ∈ l → P (l.foldl f d) := by
  suffices h : ∀ (l : List α) (a : Dev), ResetsBegun d a → x ∈ l → P (l.foldl f a) from fun l hl => h l d (.refl d) hl
  intro l
  induction l with
  | nil => exact fun a _ hl => nomatch hl
  | cons y l ih =>
    intro a ha hl
    rcases List.mem_cons.mp hl with rfl | hl
    · exact hkeep _ _ (.foldl hf l (f a x)) (hP a ha)
    · exact ih (f a y) (ha.trans (hf a y)) hl

/-- The entry that a table's value comes from. -/
theorem mem_of_exist (he : (partOf d p).exist = true) : (p, partOf d p) ∈ d.parts := by
  have hmem (t : Tab Part) (he : (tget {} t p).exist = true) : (p, tget {} t p) ∈ t := by
    induction t with
    | nil => exact absurd (show false = true from he) (by decide)
    | cons e t ih =>
      obtain ⟨j, v⟩ := e
      by_cases hj : j = p
      · subst hj
        rw [show tget {} ((j, v) :: t) j = v from if_pos rfl]
        exact List.mem_cons_self
      · have htail : tget {} ((j, v) :: t) p = tget {} t p := if_neg hj
        rw [htail] at he ⊢
        exact List.mem_cons_of_mem _ (ih he)
  exact hmem d.parts he

end Sys2Proof.Partitions

/-! ## Partition operations -/

namespace Sys2Proof.Partitions

open Sys2Proof.Machine Sys2Proof.Safety Sys2Proof.Laws

variable {port p op : Nat} {d : Dev}

/-! ### HUB_PART_CMD (R472) -/

/-- The address of the descriptor. -/
def descAddr (d : Dev) : Nat := regVal d rPartDescLo + regVal d rPartDescHi * 2 ^ 32

/-- The device with an operation started. -/
def begun (op port p : Nat) (d : Dev) : Dev := { d with partOp := some { part := p, op, port, addr := descAddr d } }

theorem partCmd_of_not (h : d.partOp.isSome = true ∨ d.boot.step ≠ 6) : partCmd op port p d = setFld rPartStatus 13 1 1 d := if_pos h

section

variable (hno : d.partOp = none) (h6 : d.boot.step = 6)
include hno h6

theorem partCmd_of_resetting (hop : op ≠ 0) (h3 : op ≠ 3) (he : (partOf d p).exist = true) (hr : (partOf d p).resetting = true) :
    partCmd op port p d = finishOp 1 (begun op port p d) := by
  unfold partCmd
  exact (if_neg (by simp [hno, h6])).trans ((if_neg h3).trans (if_pos ⟨hop, he, hr⟩))

theorem partCmd_of_absent (hop : op ≠ 0) (h3 : op ≠ 3) (he : (partOf d p).exist = false) :
    partCmd op port p d = finishOp 2 (begun op port p d) := by
  have hne : ¬ (partOf d p).exist = true := by simp [he]
  unfold partCmd
  exact (if_neg (by simp [hno, h6])).trans ((if_neg h3).trans ((if_neg fun h => hne h.2.1).trans (if_pos ⟨hop, hne⟩)))

theorem partCmd_of_exists (he : (partOf d p).exist = true) : partCmd 0 port p d = finishOp 3 (begun 0 port p d) := by
  unfold partCmd
  exact (if_neg (by simp [hno, h6])).trans ((if_neg (by decide)).trans
    ((if_neg fun h => h.1 rfl).trans ((if_neg fun h => h.1 rfl).trans (if_pos ⟨rfl, he⟩))))

theorem partCmd_of_destroyed (he : (partOf d p).exist = true) (hr : (partOf d p).resetting = false) :
    partCmd 2 port p d = destroyPart p (begun 2 port p d) := by
  have hnr : ¬ (partOf d p).resetting = true := by simp [hr]
  unfold partCmd
  exact (if_neg (by simp [hno, h6])).trans ((if_neg (by decide)).trans
    ((if_neg fun h => hnr h.2.2).trans ((if_neg fun h => h.2 he).trans ((if_neg fun h => absurd h.1 (by decide)).trans (if_pos rfl)))))

/-- A create of a partition that does not exist, or a resize of one that does, asks for its descriptor. -/
theorem partCmd_of_asked (h : op = 0 ∧ (partOf d p).exist = false ∨ op = 1 ∧ (partOf d p).exist = true ∧ (partOf d p).resetting = false) :
    partCmd op port p d = if dmaOk d (64 * port) (descAddr d) 256 false then begun op port p d else finishOp 4 (begun op port p d) := by
  unfold partCmd
  refine (if_neg (by simp [hno, h6])).trans ((if_neg (by omega)).trans ?_)
  rcases h with ⟨rfl, he⟩ | ⟨rfl, he, hr⟩
  · have hne : ¬ (partOf d p).exist = true := by simp [he]
    exact (if_neg fun h => h.1 rfl).trans ((if_neg fun h => h.1 rfl).trans ((if_neg fun h => hne h.2).trans (if_neg (by decide))))
  · have hnr : ¬ (partOf d p).resetting = true := by simp [hr]
    exact (if_neg fun h => hnr h.2.2).trans ((if_neg fun h => h.2 he).trans ((if_neg fun h => absurd h.1 (by decide)).trans (if_neg (by decide))))

end

/-- What a refused operation shows and leaves. -/
theorem refused_spec {code : Nat} (h0 : code ≠ 0) (hcode : code < 16) (hp : p < 64) (hop : op < 4) :
    let d' := finishOp code (begun op port p d)
    (d'.partOp = none ∧ regFld d' rPartStatus 1 4 = code ∧ regFld d' rPartStatus 5 6 = p ∧ regFld d' rPartStatus 11 2 = op) ∧
    ctrVal d' .partOpRefused code 0 = ctrVal d .partOpRefused code 0 + 1 ∧ d' = { d with partOp := none, regs := d'.regs, ctr := d'.ctr } := by
  obtain ⟨hshown, hctr, hrest⟩ := finishOp_spec (d := begun op port p d) rfl hcode hp hop
  exact ⟨hshown, hctr h0, hrest⟩

/-- A partition destroyed whose operation is its own destruction is reset at once. -/
theorem destroyed_spec (he : (partOf d p).exist = true) (hr : (partOf d p).resetting = false) :
    let d' := destroyPart p (begun 2 port p d)
    partOf d' p = { partOf d p with destroying := true, resetting := true } ∧ (∀ y, y ≠ p → partOf d' y = partOf d y) ∧
    d'.partOp = some { part := p, op := 2, port, addr := descAddr d } ∧ d'.cmds = d.cmds ∧ d'.comp = d.comp := by
  intro d'
  have hdoomed : partOf (doomed p (begun 2 port p d)) p = { partOf d p with destroying := true } := partOf_modPart_at ..
  have hd : d' = resetBegun p (doomed p (begun 2 port p d)) := by
    refine (destroyPart_of_exist (d := begun 2 port p d) he).trans (startReset_of_free ?_ ?_ ?_)
    · rw [hdoomed]
      exact he
    · rw [hdoomed]
      exact hr
    · simp [doomed, begun, modPart]
  have hat : partOf d' p = { partOf (doomed p (begun 2 port p d)) p with resetting := true } := by
    rw [hd]
    exact partOf_modPart_at p (fun x => { x with resetting := true }) _
  refine ⟨?_, fun y hy => partOf_destroyPart_other hy _, ?_, ?_, ?_⟩
  · rw [hat, hdoomed]
  · rw [hd]
    rfl
  · rw [hd]
    rfl
  · rw [hd]
    rfl

/-! ### Grants that apply (R470, R473) -/

/-- Of the device only counters, dumps, the compute dies, the global cache, registers and the power's state may differ. -/
def Granted (d d' : Dev) : Prop := d' = { d with
  ctr := d'.ctr, frozen := d'.frozen, obs := d'.obs, comp := d'.comp, store := { d.store with gcache := d'.store.gcache }, regs := d'.regs
  pwr := d'.pwr }

namespace Granted

theorem refl (d : Dev) : Granted d d := rfl

theorem trans {a b c : Dev} (h : Granted a b) (h' : Granted b c) : Granted a c := by
  unfold Granted at h'
  rw [h] at h'
  exact h'

theorem ite {c : Prop} [Decidable c] {a b d : Dev} (ha : Granted d a) (hb : Granted d b) : Granted d (if c then a else b) :=
  iteInduction (fun _ => ha) (fun _ => hb)

theorem foldl {α : Type} {f : Dev → α → Dev} (hf : ∀ d x, Granted d (f d x)) (l : List α) (d : Dev) : Granted d (l.foldl f d) :=
  List.foldlRecOn (motive := Granted d) l f (refl d) fun d' h x _ => h.trans (hf d' x)

theorem onPwr (f : Power → Power) (d : Dev) : Granted d (onPwr f d) := rfl

theorem setFld (a lo w v : Nat) (d : Dev) : Granted d (setFld a lo w v d) := rfl

theorem tryRaise (cl : Nat) (d : Dev) : Granted d (tryRaise cl d) :=
  ite (((onPwr _ d).trans (onPwr ..)).trans (onPwr ..)) (refl d)

theorem queueRaise (cl : Nat) (d : Dev) : Granted d (queueRaise cl d) := by
  refine ite (.trans (ite (refl d) (onPwr ..)) (tryRaise ..)) (onPwr ..)

/-- A clock target carried out changes the power's state alone. -/
theorem clockTarget (cl : Nat) (d : Dev) : Granted d (clockTarget cl d) := by
  refine ite (refl d) (ite (((onPwr _ d).trans (onPwr ..)).trans (onPwr ..)) (ite (onPwr ..) (ite (onPwr ..) ?_)))
  exact (onPwr ..).trans (queueRaise ..)

theorem shareSteps (n : Nat) (d : Dev) : Granted d (shareSteps n d) := foldl (fun _ _ => (setFld ..).trans (clockTarget ..)) _ d

theorem setClusters (x : Part) (d : Dev) : Granted d (setClusters x d) := by
  have hset (n : Nat) (d : Dev) : Granted d ((List.range 6).foldl (fun d k =>
      if bitOf x.clusters (6 * n + k) then
        Machine.setFld (rSpadCfg (6 * n + k)) 0 2 (x.hier + 2 * b2n ((List.range 6).all fun k => bitOf x.clusters (6 * n + k))) d
      else d) d) :=
    foldl (fun _ _ => ite (setFld ..) (refl _)) _ d
  exact foldl (fun d n => ite ((hset n d).trans (shareSteps ..)) (hset n d)) _ d

theorem bumpN (c : Ctr) (i j n : Nat) (d : Dev) : Granted d (bumpN c i j n d) := rfl

theorem zeroPages (l : List Nat) (d : Dev) : Granted d (zeroPages l d) :=
  .trans (b := onComp (fun g => { g with pool := g.pool.filter (fun e => !l.contains (e.1 / 2 ^ 20)) }) d) rfl
    (foldl (fun _ _ => bumpN ..) l _)

theorem gcache (f : Tab (Tab (List Byte)) → Tab (Tab (List Byte))) (d : Dev) :
    Granted d (onStore (fun s => { s with gcache := f s.gcache }) d) := rfl

theorem clearPartCtrs (p fn : Nat) (d : Dev) : Granted d (clearPartCtrs p fn d) := rfl

theorem clearCluster (cl : Nat) (d : Dev) : Granted d (clearCluster cl d) := rfl

end Granted

/-- The partition that a descriptor grants. -/
def granted (p : Nat) (bs : List Byte) (d : Dev) : Part :=
  { descPart bs with pages := newPages d p bs, resetAgain := (partOf d p).resetAgain, dueClear := (partOf d p).dueClear }

/-- The device with the pages, bursts and counters that a grant takes over cleared. -/
def vacated (p : Nat) (bs : List Byte) (d : Dev) : Dev :=
  let old := partOf d p
  let x := granted p bs d
  let gone := (List.range 576).filter (fun f => bitOf old.frames f && !bitOf x.frames f)
  (List.range 96).foldl (fun d c => if bitOf x.clusters c ∧ ¬ bitOf old.clusters c then clearCluster c d else d)
    (onStore (fun s => { s with gcache := tmap [] (fun _ t => t.filter (fun e => !gone.contains (e.1 / 2 ^ 30))) s.gcache })
      (zeroPages (old.pages.filter (fun g => !(newPages d p bs).contains g)) d))

theorem granted_vacated (p : Nat) (bs : List Byte) (d : Dev) : Granted d (vacated p bs d) :=
  ((Granted.zeroPages ..).trans (.gcache (tmap [] _) _)).trans (.foldl (fun _ _ => .ite (.clearCluster ..) (.refl _)) _ _)

theorem applyDesc_eq (p op : Nat) (bs : List Byte) (d : Dev) : applyDesc p op bs d =
    setClusters (granted p bs d) (when (op == 0) (clearPartCtrs p (granted p bs d).fn)
      { vacated p bs d with parts := tput {} (vacated p bs d).parts p (granted p bs d) }) := rfl

/-- A descriptor that applies changes its partition to what it grants, and no other. -/
theorem applyDesc_spec (p op : Nat) (bs : List Byte) (d : Dev) :
    Granted { d with parts := tput {} d.parts p (granted p bs d) } (applyDesc p op bs d) := by
  have hvac : vacated p bs d = _ := granted_vacated p bs d
  rw [applyDesc_eq]
  refine .trans (.trans ?_ (.ite (.clearPartCtrs ..) (.refl _))) (.setClusters ..)
  rw [hvac]
  rfl

/-! ### The descriptor's checks (Table 15.3) -/

/-- The first check of a descriptor that fails, 0 where none does. -/
def descCode (err : Bool) (held : Nat) (o : PartOp) (d : Dev) : Nat :=
  let bs := hostRead d o.port o.addr 256
  let y := descPart bs
  if err then 4 else if descInvalid d o.op o.part bs then 5 else if ¬ fnExists d y.fn then 6
    else if o.op = 0 ∧ (partOfFn d y.fn).isSome then 7 else if descTaken d o.part y then 8
    else if descOver d o.part y bs then 9 else if o.op = 1 ∧ descInUse d o.part y bs held then 10 else 0

/-- The frames that a descriptor newly grants. -/
def newFrames (o : PartOp) (d : Dev) : List Nat :=
  (List.range 576).filter (fun f => bitOf (descPart (hostRead d o.port o.addr 256)).frames f && !bitOf (partOf d o.part).frames f)

/-- What a descriptor that passes does: its grants apply, or the frames it newly grants are zeroed first. -/
def descPassed (o : PartOp) (d : Dev) : Dev :=
  let bs := hostRead d o.port o.addr 256
  if (newFrames o d).isEmpty then afterOp o.part (finishOp 0 (applyDesc o.part o.op bs d))
  else (newFrames o d).foldl (fun d f => queueZero (64 + o.part) f d) { d with partOp := some { o with desc := bs } }

theorem descPassed_of_held {o : PartOp} (h : newFrames o d = []) :
    descPassed o d = afterOp o.part (finishOp 0 (applyDesc o.part o.op (hostRead d o.port o.addr 256) d)) := by
  unfold descPassed
  rw [h]
  exact if_pos rfl

theorem descPassed_of_new {o : PartOp} (h : newFrames o d ≠ []) : descPassed o d = (newFrames o d).foldl
    (fun d f => queueZero (64 + o.part) f d) { d with partOp := some { o with desc := hostRead d o.port o.addr 256 } } := by
  unfold descPassed
  exact if_neg fun he => h (List.isEmpty_iff.mp he)

theorem descFetched_of_none (h : d.partOp = none) (err : Bool) (held : Nat) : descFetched err held d = d := by
  unfold descFetched
  rw [h]

/-- One more check before the others. -/
theorem ite_check {α : Type} (f : Nat → α) (g : α) (b : Prop) [Decidable b] (n c : Nat) (hn : n ≠ 0) :
    (if b then f n else if c = 0 then g else f c) = if (if b then n else c) = 0 then g else f (if b then n else c) := by
  by_cases h : b
  · rw [if_pos h, if_pos h, if_neg hn]
  · rw [if_neg h, if_neg h]

theorem descFetched_of_some {o : PartOp} (h : d.partOp = some o) (hop : o.op < 2) (hdesc : o.desc = []) (err : Bool) (held : Nat) :
    descFetched err held d =
      let d₁ := pcieRead (64 * o.port) 256 d
      if descCode err held o d₁ = 0 then descPassed o d₁ else afterOp o.part (finishOp (descCode err held o d₁) d₁) := by
  have hgo : ¬ (o.op = 2 ∨ ¬ o.desc.isEmpty = true) := by rw [hdesc]; simp; omega
  have hread : hostRead d o.port o.addr 256 = hostRead (pcieRead (64 * o.port) 256 d) o.port o.addr 256 := rfl
  unfold descFetched
  rw [h]
  dsimp only
  rw [if_neg hgo, hread]
  generalize pcieRead (64 * o.port) 256 d = d₁
  let f (n : Nat) : Dev := afterOp o.part (finishOp n d₁)
  unfold descCode
  dsimp only
  refine .trans ?_ (ite_check f _ _ 4 _ (by decide))
  refine ite_congr rfl (fun _ => rfl) fun _ => .trans ?_ (ite_check f _ _ 5 _ (by decide))
  refine ite_congr rfl (fun _ => rfl) fun _ => .trans ?_ (ite_check f _ _ 6 _ (by decide))
  refine ite_congr rfl (fun _ => rfl) fun _ => .trans ?_ (ite_check f _ _ 7 _ (by decide))
  refine ite_congr rfl (fun _ => rfl) fun _ => .trans ?_ (ite_check f _ _ 8 _ (by decide))
  refine ite_congr rfl (fun _ => rfl) fun _ => .trans ?_ (ite_check f _ _ 9 _ (by decide))
  refine ite_congr rfl (fun _ => rfl) fun _ => .trans ?_ (ite_check f _ _ 10 _ (by decide))
  exact ite_congr rfl (fun _ => rfl) fun _ => (if_pos rfl).symm

/-- The checks look at nothing that a count changes. -/
theorem descCode_pcieRead (err : Bool) (held : Nat) (o : PartOp) (fn n : Nat) (d : Dev) :
    descCode err held o (pcieRead fn n d) = descCode err held o d := rfl

/-- The code as a chain of truth values. -/
theorem descCode_eq (err : Bool) (held : Nat) (o : PartOp) (d : Dev) :
    let bs := hostRead d o.port o.addr 256
    let y := descPart bs
    descCode err held o d = if err then 4 else if descInvalid d o.op o.part bs then 5 else if !fnExists d y.fn then 6
      else if o.op == 0 && (partOfFn d y.fn).isSome then 7 else if descTaken d o.part y then 8
      else if descOver d o.part y bs then 9 else if o.op == 1 && descInUse d o.part y bs held then 10 else 0 := by
  simp [descCode]

theorem newFrames_eq_nil {o : PartOp} : newFrames o d = [] ↔
    ∀ f, f < 576 → bitOf (descPart (hostRead d o.port o.addr 256)).frames f = true → bitOf (partOf d o.part).frames f = true := by
  simp [newFrames, List.filter_eq_nil_iff]

theorem fnExists_of_descCode {err : Bool} {held : Nat} {o : PartOp} (h : descCode err held o d = 0) :
    fnExists d (descPart (hostRead d o.port o.addr 256)).fn = true := by
  by_contra hf
  unfold descCode at h
  dsimp only at h
  rw [if_pos hf] at h
  split at h
  · exact absurd h (by decide)
  · split at h
    · exact absurd h (by decide)
    · exact absurd h (by decide)

theorem descCode_lt (err : Bool) (held : Nat) (o : PartOp) (d : Dev) : descCode err held o d < 16 := by
  unfold descCode
  dsimp only
  repeat' split
  all_goals decide

/-- A partition of a function that exists, and that awaits no reset, is left alone after an operation. -/
theorem afterOp_of_quiet (hf : (partOf d p).exist = true → fnExists d (partOf d p).fn = true) (hr : (partOf d p).resetAgain = false) :
    afterOp p d = d := by
  unfold afterOp
  cases he : (partOf d p).exist
  · exact if_pos (by decide)
  · exact (if_neg (by decide)).trans ((if_neg fun hn => hn (hf he)).trans (if_neg (by simp [hr])))

/-! ### Grants with nothing to zero -/

/-- What a descriptor that grants no new frame leaves. -/
theorem grantApplied_spec {o : PartOp} (h : d.partOp = some o) (hp : o.part < 64) (hop : o.op < 2) (hr : (partOf d o.part).resetAgain = false)
    (hfn : fnExists d (descPart (hostRead d o.port o.addr 256)).fn = true) (hnew : newFrames o d = []) :
    let bs := hostRead d o.port o.addr 256
    let d' := descPassed o d
    (d'.partOp = none ∧ regFld d' rPartStatus 1 4 = 0 ∧ regFld d' rPartStatus 5 6 = o.part ∧ regFld d' rPartStatus 11 2 = o.op) ∧
    partOf d' o.part = { descPart bs with pages := newPages d o.part bs, dueClear := (partOf d o.part).dueClear } ∧
    (∀ z, z ≠ o.part → partOf d' z = partOf d z) ∧ d'.store.hbm = d.store.hbm ∧ d'.cmds = d.cmds := by
  intro bs d'
  have happ : applyDesc o.part o.op bs d = _ := applyDesc_spec o.part o.op bs d
  have hop' : (applyDesc o.part o.op bs d).partOp = some o := by
    rw [happ]
    exact h
  obtain ⟨hshown, -, hrest⟩ := finishOp_spec (code := 0) hop' (by decide) hp (by omega)
  have hat (q : Nat) : partOf (finishOp 0 (applyDesc o.part o.op bs d)) q =
      if q = o.part then granted o.part bs d else partOf d q := by
    rw [hrest, happ]
    exact tget_tput ({} : Part) d.parts q o.part (granted o.part bs d)
  have hself : partOf (finishOp 0 (applyDesc o.part o.op bs d)) o.part = granted o.part bs d := by rw [hat, if_pos rfl]
  have hd : d' = finishOp 0 (applyDesc o.part o.op bs d) := by
    refine (descPassed_of_held hnew).trans (afterOp_of_quiet (fun _ => ?_) ?_)
    · rw [hself, hrest, happ]
      exact hfn
    · rw [hself]
      exact hr
  refine ⟨?_, ?_, fun z hz => ?_, ?_, ?_⟩
  · rw [hd]
    exact hshown
  · rw [hd, hself, granted, hr]
    rfl
  · rw [hd, hat, if_neg hz]
  · rw [hd, hrest, happ]
  · rw [hd, hrest, happ]

/-! ### Frames zeroed first (R480) -/

theorem mem_tins {α : Type} (t : Tab α) (k : Nat) (v : α) : (k, v) ∈ tins t k v := by
  induction t with
  | nil => exact List.mem_singleton.mpr rfl
  | cons e t ih =>
    unfold tins
    split
    · exact List.mem_cons_self
    · split
      · exact List.mem_cons_self
      · exact List.mem_cons_of_mem _ ih

theorem mem_tput {α : Type} [DecidableEq α] {d v : α} (h : v ≠ d) (t : Tab α) (k : Nat) : (k, v) ∈ tput d t k v := by
  rw [tput, if_neg h]
  exact mem_tins t k v

/-- A piece put into the zeroing queue of a store die. -/
def pieceQueued (who f : Nat) (d : Dev) (x : Nat × Nat) : Dev :=
  onStore (fun s => { s with zeroQ := tmod [] s.zeroQ x.1 (· ++ [{ part := who, frame := f }]) }) d

theorem zeroLeft_pieceQueued (who f : Nat) (d : Dev) (x : Nat × Nat) : zeroLeft (pieceQueued who f d x) who = true := by
  have hmem : (x.1, tget [] d.store.zeroQ x.1 ++ [{ part := who, frame := f }]) ∈ (pieceQueued who f d x).store.zeroQ :=
    mem_tput (by simp) ..
  refine List.any_eq_true.mpr ⟨_, hmem, List.any_eq_true.mpr ⟨_, List.mem_append_right _ (List.mem_singleton.mpr rfl), ?_⟩⟩
  exact beq_self_eq_true who

theorem foldl_last {α : Type} {f : Dev → α → Dev} {P : Dev → Prop} (hP : ∀ d x, P (f d x)) {l : List α} (hl : l ≠ []) (d : Dev) :
    P (l.foldl f d) := by
  obtain ⟨l', x, rfl⟩ := (List.eq_nil_or_concat l).resolve_left hl
  rw [List.concat_eq_append, List.foldl_append]
  exact hP _ x

theorem frameDies_ne_nil (f : Nat) (d : Dev) : frameDies d f ≠ [] := by
  unfold frameDies
  split
  · simp
  · exact List.cons_ne_nil _ _

theorem zeroLeft_queueZero (who f : Nat) (d : Dev) : zeroLeft (queueZero who f d) who = true :=
  foldl_last (P := fun x => zeroLeft x who = true) (zeroLeft_pieceQueued who f) (frameDies_ne_nil f d) _

/-- Of the device only the store dies may differ. -/
def StoreOnly (d d' : Dev) : Prop := d' = { d with store := d'.store }

namespace StoreOnly

theorem refl (d : Dev) : StoreOnly d d := rfl

theorem trans {a b c : Dev} (h : StoreOnly a b) (h' : StoreOnly b c) : StoreOnly a c := by
  unfold StoreOnly at h'
  rw [h] at h'
  exact h'

theorem foldl {α : Type} {f : Dev → α → Dev} (hf : ∀ d x, StoreOnly d (f d x)) (l : List α) (d : Dev) : StoreOnly d (l.foldl f d) :=
  List.foldlRecOn (motive := StoreOnly d) l f (refl d) fun d' h x _ => h.trans (hf d' x)

theorem onStore (f : Store → Store) (d : Dev) : StoreOnly d (onStore f d) := rfl

theorem queueZero (who f : Nat) (d : Dev) : StoreOnly d (queueZero who f d) := (onStore ..).trans (foldl (fun _ _ => onStore ..) _ _)

end StoreOnly

/-- What a descriptor that grants new frames leaves. -/
theorem grantQueued_spec {o : PartOp} (hnew : newFrames o d ≠ []) :
    let d' := descPassed o d
    d'.partOp = some { o with desc := hostRead d o.port o.addr 256 } ∧ d'.parts = d.parts ∧ zeroLeft d' (64 + o.part) = true ∧
    d'.regs = d.regs ∧ d'.comp = d.comp := by
  intro d'
  have hd : d' = _ := descPassed_of_new hnew
  have hzero : zeroLeft d' (64 + o.part) = true := by
    rw [hd]
    exact foldl_last (P := fun x => zeroLeft x (64 + o.part) = true) (fun d f => zeroLeft_queueZero _ f d) hnew _
  have heq : d' = _ := hd.trans (StoreOnly.foldl (fun d f => .queueZero _ f d) (newFrames o d)
    { d with partOp := some { o with desc := hostRead d o.port o.addr 256 } })
  exact ⟨by rw [heq], by rw [heq], hzero, by rw [heq], by rw [heq]⟩


/-! ### Functions that go (R476) -/

/-- The partitions of the VFs of a port above number `n`. -/
def goneParts (port n : Nat) (d : Dev) : List Nat :=
  (d.parts.filter (fun e => e.2.exist && e.2.fn / 64 == port && decide (n < e.2.fn % 64))).map (·.1)

/-- The device with its number of VFs lowered. -/
def vfsLowered (port n : Nat) (d : Dev) : Dev := { d with numVfs := tput 0 d.numVfs port (min n (tget 0 d.numVfs port)) }

theorem partOf_foldl_destroyPart_other {q : Nat} {l : List Nat} (hq : q ∉ l) (d : Dev) :
    partOf (l.foldl (fun d p => destroyPart p d) d) q = partOf d q := by
  induction l generalizing d with
  | nil => rfl
  | cons p l ih =>
    rw [List.mem_cons, not_or] at hq
    rw [List.foldl_cons, ih hq.2, partOf_destroyPart_other hq.1]

theorem vfRemoval_spec (port n : Nat) (d : Dev) :
    let d' := vfRemoval port n d
    tget 0 d'.numVfs port = min n (tget 0 d.numVfs port) ∧
      (∀ p, (partOf d p).exist = true → (partOf d p).fn / 64 = port → n < (partOf d p).fn % 64 →
        (partOf d' p).destroying = true ∧ ((partOf d' p).resetting = true ∨ (partOf d' p).resetAgain = true)) ∧
      (∀ p, d.parts.all (fun e => !(e.1 == p && e.2.exist && e.2.fn / 64 == port && decide (n < e.2.fn % 64))) = true →
        partOf d' p = partOf d p) ∧
      d'.comp = d.comp ∧ d'.cmds = d.cmds := by
  intro d'
  have hbegun : ResetsBegun (vfsLowered port n d) d' := .foldl (fun d p => resetsBegun_destroyPart p d) (goneParts port n d) _
  refine ⟨?_, fun p he hport hn => ?_, fun p hall => ?_, ?_, ?_⟩
  · rw [hbegun.rest]
    exact tget_tput_same ..
  · have hmem : p ∈ goneParts port n d :=
      List.mem_map.mpr ⟨(p, partOf d p), List.mem_filter.mpr ⟨mem_of_exist he, by simp [he, hport, hn]⟩, rfl⟩
    exact of_foldl (d := vfsLowered port n d) (fun d p => resetsBegun_destroyPart p d)
      (P := fun x => (partOf x p).destroying = true ∧ resets (partOf x p))
      (fun a b hab ha => ⟨hab.destroying p ha.1, hab.resets p ha.2⟩) (fun a ha => destroyPart_spec ((ha.exist p).trans he)) _ hmem
  · refine partOf_foldl_destroyPart_other (fun hmem => ?_) (vfsLowered port n d)
    obtain ⟨e, he, hp⟩ := List.mem_map.mp hmem
    obtain ⟨hin, hpass⟩ := List.mem_filter.mp he
    have hnot := List.all_eq_true.mp hall e hin
    rw [hp, beq_self_eq_true, Bool.true_and, hpass] at hnot
    exact absurd hnot (by decide)
  · rw [hbegun.rest]
    rfl
  · rw [hbegun.rest]
    rfl

/-! ### The statement -/

/-- Settles O32: each operation by what it finds of its partition, and a descriptor by the first check that fails. -/
theorem partitionOperations : Obligations.PartitionOperations := by
  intro port p n err held s hport hp hn
  have hw : within [(port, 2), (p, 64)] = true := by simp [within, hport, hp]
  have hwn : within [(port, 2), (n, 64)] = true := by simp [within, hport, hn]
  have hcreate : Gives (.partCreate port p) s (partCmd 0 port p s.dev) := Flows.gives_of_exec (exec_partCreate port p s) hw
  have hresize : Gives (.partResize port p) s (partCmd 1 port p s.dev) := Flows.gives_of_exec (exec_partResize port p s) hw
  have hdestroy : Gives (.partDestroy port p) s (partCmd 2 port p s.dev) := Flows.gives_of_exec (exec_partDestroy port p s) hw
  have hfetch : Gives (.partDescFetchDone err held) s (descFetched err held s.dev) :=
    Flows.gives_of_exec (exec_partDescFetchDone err held s) rfl
  have henable : Gives (.vfEnable port n) s (vfEnable port n s.dev) := Flows.gives_of_exec (exec_vfEnable port n s) hwn
  have hremove : Gives (.vfRemoval port n) s (vfRemoval port n s.dev) := Flows.gives_of_exec (exec_vfRemoval port n s) hwn
  dsimp only
  refine ⟨fun h => ?_, fun hno h6 => ⟨fun he => ?_, fun he => ⟨⟨fun hdma => ?_, fun hdma => ?_⟩, ?_, ?_⟩, fun he hr => ⟨?_, ?_⟩,
    fun he hr => ⟨⟨fun hdma => ?_, fun hdma => ?_⟩, ?_⟩⟩, fun hno => ?_, fun o ho hpo hop hdesc hagain hexist => ?_, ?_,
    ⟨_, hremove, vfRemoval_spec port n s.dev⟩⟩
  · rw [partCmd_of_not h] at hcreate hresize hdestroy
    exact ⟨hcreate, hresize, hdestroy⟩
  · rw [partCmd_of_exists hno h6 he] at hcreate
    exact ⟨_, hcreate, refused_spec (by decide) (by decide) hp (by decide)⟩
  · have hdma' : dmaOk s.dev (64 * port) (descAddr s.dev) 256 false = true := hdma
    rw [partCmd_of_asked hno h6 (.inl ⟨rfl, he⟩), if_pos hdma'] at hcreate
    exact hcreate
  · have hdma' : dmaOk s.dev (64 * port) (descAddr s.dev) 256 false = false := hdma
    rw [partCmd_of_asked hno h6 (.inl ⟨rfl, he⟩), if_neg (Bool.eq_false_iff.mp hdma')] at hcreate
    exact ⟨_, hcreate, refused_spec (by decide) (by decide) hp (by decide)⟩
  · rw [partCmd_of_absent hno h6 (by decide) (by decide) he] at hresize
    exact ⟨_, hresize, refused_spec (by decide) (by decide) hp (by decide)⟩
  · rw [partCmd_of_absent hno h6 (by decide) (by decide) he] at hdestroy
    exact ⟨_, hdestroy, refused_spec (by decide) (by decide) hp (by decide)⟩
  · rw [partCmd_of_resetting hno h6 (by decide) (by decide) he hr] at hresize
    exact ⟨_, hresize, refused_spec (by decide) (by decide) hp (by decide)⟩
  · rw [partCmd_of_resetting hno h6 (by decide) (by decide) he hr] at hdestroy
    exact ⟨_, hdestroy, refused_spec (by decide) (by decide) hp (by decide)⟩
  · have hdma' : dmaOk s.dev (64 * port) (descAddr s.dev) 256 false = true := hdma
    rw [partCmd_of_asked hno h6 (.inr ⟨rfl, he, hr⟩), if_pos hdma'] at hresize
    exact hresize
  · have hdma' : dmaOk s.dev (64 * port) (descAddr s.dev) 256 false = false := hdma
    rw [partCmd_of_asked hno h6 (.inr ⟨rfl, he, hr⟩), if_neg (Bool.eq_false_iff.mp hdma')] at hresize
    exact ⟨_, hresize, refused_spec (by decide) (by decide) hp (by decide)⟩
  · rw [partCmd_of_destroyed hno h6 he hr] at hdestroy
    exact ⟨_, hdestroy, destroyed_spec he hr⟩
  · rwa [descFetched_of_none hno] at hfetch
  · have hcode := descCode_eq err held o s.dev
    rw [descFetched_of_some ho hop hdesc] at hfetch
    dsimp only at hcode hfetch
    rw [descCode_pcieRead] at hfetch
    rw [← hcode]
    have hlt : descCode err held o s.dev < 16 := descCode_lt ..
    refine ⟨fun hne => ?_, fun h0 hold => ?_, fun h0 ⟨f, hf, hnew, hold⟩ => ?_⟩
    · obtain ⟨hshown, -, hrest⟩ := finishOp_spec (d := pcieRead (64 * o.port) 256 s.dev) ho hlt hpo (by omega)
      have hat : partOf (finishOp (descCode err held o s.dev) (pcieRead (64 * o.port) 256 s.dev)) o.part = partOf s.dev o.part := by
        rw [hrest]
        rfl
      rw [if_neg hne, afterOp_of_quiet] at hfetch
      · exact ⟨_, hfetch, hshown, hrest⟩
      · rw [hat, hrest]
        exact hexist
      · rw [hat]
        exact hagain
    · have hheld : newFrames o (pcieRead (64 * o.port) 256 s.dev) = [] := newFrames_eq_nil.mpr hold
      rw [if_pos h0] at hfetch
      exact ⟨_, hfetch, grantApplied_spec (d := pcieRead (64 * o.port) 256 s.dev) ho hpo hop hagain (fnExists_of_descCode (d := s.dev) h0) hheld⟩
    · have hnew' : newFrames o (pcieRead (64 * o.port) 256 s.dev) ≠ [] := fun hnil =>
        Bool.false_ne_true (hold.symm.trans (newFrames_eq_nil.mp hnil f hf hnew))
      rw [if_pos h0] at hfetch
      exact ⟨_, hfetch, grantQueued_spec hnew'⟩
  · exact ⟨_, henable, tget_tput_same .., fun y hy => tget_tput_other _ _ _ hy, rfl⟩

end Sys2Proof.Partitions

/-! ## The boot -/

namespace Sys2Proof.Boots

open Sys2Proof.Machine Sys2Proof.Safety Sys2Proof.Laws

variable {d : Dev}

/-! ### What step 1 leaves (R609, R611, R623) -/

/-- What the choice of a slot and the start of the rails leave: of the island its log and what it knows of the bundle, of OTP all but the
owner's keys, of the boot its progress within its step. -/
structure BootRun (d d' : Dev) : Prop where
  rest : d' = { d with ctr := d'.ctr, out := d'.out, isl := d'.isl, otp := d'.otp, boot := d'.boot }
  isl : d'.isl = { d.isl with
    log := d'.isl.log, seq := d'.isl.seq, unsaved := d'.isl.unsaved, trouble := d'.isl.trouble, troubleSince := d'.isl.troubleSince
    alert := d'.isl.alert, boundAt := d'.isl.boundAt, fwPending := d'.isl.fwPending, attempts := d'.isl.attempts, running := d'.isl.running
    runSv := d'.isl.runSv, build := d'.isl.build }
  otp : d'.otp = { d.otp with ownerRoot := d'.otp.ownerRoot, gens := d'.otp.gens }
  boot : d'.boot = { d.boot with
    hold := d'.boot.hold, failed := d'.boot.failed, failCause := d'.boot.failCause, begun := d'.boot.begun, held := d'.boot.held
    rails := d'.boot.rails, railsGood := d'.boot.railsGood, wiping := d'.boot.wiping }

namespace BootRun

theorem refl (d : Dev) : BootRun d d := ⟨rfl, rfl, rfl, rfl⟩

theorem trans {a b c : Dev} (h : BootRun a b) (h' : BootRun b c) : BootRun a c where
  rest := by
    have hc := h'.rest
    rw [h.rest] at hc
    exact hc
  isl := by
    have hc := h'.isl
    rw [h.isl] at hc
    exact hc
  otp := by
    have hc := h'.otp
    rw [h.otp] at hc
    exact hc
  boot := by
    have hc := h'.boot
    rw [h.boot] at hc
    exact hc

theorem of_logged {d d' : Dev} (h : Logs.Logged d d') : BootRun d d' := by
  rw [show d' = _ from h]
  exact ⟨rfl, rfl, rfl, rfl⟩

theorem bootFail (cause : Nat) (d : Dev) : BootRun d (bootFail cause d) := ⟨rfl, rfl, rfl, rfl⟩

theorem wipeKeys (d : Dev) : BootRun d (onBoot (fun b => { b with wiping := true }) (wipeKeys d)) := ⟨rfl, rfl, rfl, rfl⟩

end BootRun

/-! ### The slot that boots (R541) -/

/-- The slot to try first, with what the attempt of a pending bundle leaves. -/
def firstSlot (d : Dev) : Nat × Dev :=
  if d.isl.fwPending then
    if d.isl.attempts = 0 then
      (d.isl.active % 2, islandLog 0x010D 0xFF 0xFF [] (onIsl (fun x => { x with fwPending := false }) d))
    else (1 - d.isl.active % 2, onIsl (fun x => { x with attempts := x.attempts - 1 }) d)
  else (d.isl.active % 2, d)

/-- The device with a slot's bundle logged as not valid. -/
def slotRefused (s : Nat) (d : Dev) : Dev := islandLog 0x010E 0xFF 0xFF (toLe 1 s) d

theorem chooseSlot_eq (d : Dev) : chooseSlot d =
    if bundleValid d (firstSlot d).1 then (some (firstSlot d).1, (firstSlot d).2)
    else if bundleValid d (1 - (firstSlot d).1) then (some (1 - (firstSlot d).1), slotRefused (firstSlot d).1 (firstSlot d).2)
    else (none, slotRefused (1 - (firstSlot d).1) (slotRefused (firstSlot d).1 (firstSlot d).2)) := rfl

/-- What the choice of a slot leaves of the boot. -/
structure SlotChosen (d d' : Dev) : Prop where
  run : BootRun d d'
  boot : d'.boot = d.boot

theorem SlotChosen.of_logged {d d' : Dev} (h : Logs.Logged d d') : SlotChosen d d' := by
  refine ⟨.of_logged h, ?_⟩
  rw [show d' = _ from h]

theorem SlotChosen.trans {a b c : Dev} (h : SlotChosen a b) (h' : SlotChosen b c) : SlotChosen a c :=
  ⟨h.run.trans h'.run, h'.boot.trans h.boot⟩

theorem slotChosen_firstSlot (d : Dev) : SlotChosen d (firstSlot d).2 := by
  unfold firstSlot
  split
  · split
    · dsimp only
      exact .trans (b := onIsl (fun x => { x with fwPending := false }) d) ⟨⟨rfl, rfl, rfl, rfl⟩, rfl⟩ (.of_logged (Logs.Logged.islandLog ..))
    · exact ⟨⟨rfl, rfl, rfl, rfl⟩, rfl⟩
  · exact ⟨.refl d, rfl⟩

theorem slotChosen_slotRefused (s : Nat) (d : Dev) : SlotChosen d (slotRefused s d) := .of_logged (Logs.Logged.islandLog ..)

/-- A slot chosen holds a valid bundle. -/
theorem chooseSlot_spec (d : Dev) : SlotChosen d (chooseSlot d).2 ∧ ∀ s, (chooseSlot d).1 = some s → bundleValid d s = true := by
  have hfirst := slotChosen_firstSlot d
  rw [chooseSlot_eq]
  split
  · rename_i hv
    exact ⟨hfirst, fun s hs => Option.some.inj hs ▸ hv⟩
  · split
    · rename_i hv
      exact ⟨hfirst.trans (slotChosen_slotRefused ..), fun s hs => Option.some.inj hs ▸ hv⟩
    · exact ⟨(hfirst.trans (slotChosen_slotRefused ..)).trans (slotChosen_slotRefused ..), fun s hs => nomatch hs⟩

/-- The boot goes on with a valid bundle's slot, or stops. -/
theorem bootSlot_spec (d : Dev) : BootRun d (bootSlot d) ∧
    ((bootSlot d).boot = { d.boot with failed := true, failCause := 1 } ∨
      (bootSlot d).boot = { d.boot with rails := 1, railsGood := 0 } ∧ ∃ x, (bootSlot d).isl.running = some x ∧ bundleValid d x = true) := by
  obtain ⟨hchosen, hvalid⟩ := chooseSlot_spec d
  unfold bootSlot
  split
  · rename_i d' h
    rw [h] at hchosen
    exact ⟨hchosen.run.trans (.bootFail ..), .inl (by rw [← hchosen.boot]; rfl)⟩
  · rename_i s d' h
    rw [h] at hchosen hvalid
    exact ⟨hchosen.run.trans ⟨rfl, rfl, rfl, rfl⟩, .inr ⟨by rw [← hchosen.boot]; rfl, s, rfl, hvalid s rfl⟩⟩

/-! ### Step 1 -/

/-- The device as step 1 begins. -/
def begun (d : Dev) : Dev := onBoot (fun b => { b with
  step := 1, begun := beat d, gen := nextGen d.otp, rails := 0, railsGood := 0, failed := false, failCause := 0 }) d

/-- The device with the owner's keys wiped, where a RETURN has not wiped them. -/
def wiped (d : Dev) : Dev :=
  if lcState d = 3 ∧ ¬ d.otp.wipeDone then onBoot (fun b => { b with wiping := true }) (wipeKeys d) else d

/-- Step 1 after the life cycle: the configuration, the sensors, the slot. -/
def goneOn (gen : Option Nat) (now : Nat) (d : Dev) : Dev :=
  if gen.isNone then bootFail 2 (islandLog 0x010E 0xFF 0xFF [0xFF] d)
  else if tooHot d then onBoot (fun b => { b with hold := true, held := now }) d
  else bootSlot d

theorem bootBegin_eq (d : Dev) : bootBegin d =
    if lcState (begun d) = 0 ∨ lcState (begun d) = 4 then begun d else goneOn (nextGen d.otp) (beat d) (wiped (begun d)) := rfl

theorem bootRun_wiped (d : Dev) : BootRun d (wiped d) := by
  unfold wiped
  split
  · exact .wipeKeys d
  · exact .refl d

theorem bootRun_goneOn (gen : Option Nat) (now : Nat) (d : Dev) : BootRun d (goneOn gen now d) := by
  unfold goneOn
  split
  · exact (BootRun.of_logged (Logs.Logged.islandLog ..)).trans (.bootFail ..)
  · split
    · exact ⟨rfl, rfl, rfl, rfl⟩
    · exact (bootSlot_spec d).1

theorem bootBegin_run (d : Dev) : BootRun (begun d) (bootBegin d) := by
  rw [bootBegin_eq]
  split
  · exact .refl _
  · exact (bootRun_wiped _).trans (bootRun_goneOn ..)

/-- What a boot that begins leaves. -/
theorem bootBegin_spec (d : Dev) :
    let d' := bootBegin d
    d'.boot.step = 1 ∧ d'.boot.gen = nextGen d.otp ∧ d'.boot = { d.boot with
      step := d'.boot.step, gen := d'.boot.gen, hold := d'.boot.hold, failed := d'.boot.failed, failCause := d'.boot.failCause
      begun := d'.boot.begun, held := d'.boot.held, rails := d'.boot.rails, railsGood := d'.boot.railsGood, wiping := d'.boot.wiping } := by
  intro d'
  have hboot : d'.boot = _ := (bootBegin_run d).boot
  refine ⟨?_, ?_, ?_⟩
  · rw [hboot]
    rfl
  · rw [hboot]
    rfl
  · rw [hboot]
    rfl

/-! ### Step 1's rails and sensors (R609, R610) -/

/-- Some reading of a list of a known length. -/
theorem any_range_lget (p : Int → Bool) (l : List Int) : (List.range l.length).any (fun k => p (lget 0 l k)) = l.any p := by
  have hl : l = (List.range l.length).map (lget 0 l) := by
    refine List.ext_getElem (by simp) fun i hi _ => ?_
    simp [lget, hi]
  conv_rhs => rw [hl, List.any_map]
  rfl

/-- The device with its thermal sensors read. -/
def sensed (temps : List Int) (d : Dev) : Dev := onIsl (fun x => { x with temps := tabOf 0 temps }) d

theorem tooHot_sensed {temps : List Int} (h : temps.length = 112) (d : Dev) :
    tooHot (sensed temps d) = temps.any (fun t => decide (420 ≤ t)) := by
  rw [← any_range_lget, h]
  unfold tooHot
  congr 1
  funext k
  rw [show tempQ (sensed temps d) k = lget 0 temps k from Clocks.tget_tabOf 0 temps k]

/-- The device that a hold lets go. -/
def released (temps : List Int) (d : Dev) : Dev :=
  onBoot (fun b => { b with hold := false, begun := b.begun + (beat d - b.held) }) (sensed temps d)

theorem holdCheck_of_hot {temps : List Int} (hlen : temps.length = 112) (hh : d.boot.hold = true)
    (hot : temps.any (fun t => decide (420 ≤ t)) = true) : holdCheck temps d = sensed temps d := by
  unfold holdCheck
  exact (if_neg fun hn => hn hh).trans (if_pos ((tooHot_sensed hlen d).trans hot))

theorem holdCheck_of_cool {temps : List Int} (hlen : temps.length = 112) (hh : d.boot.hold = true)
    (hot : temps.any (fun t => decide (420 ≤ t)) = false) : holdCheck temps d = bootSlot (released temps d) := by
  unfold holdCheck
  exact (if_neg fun hn => hn hh).trans (if_neg (Bool.eq_false_iff.mp ((tooHot_sensed hlen d).trans hot)))

theorem railFailed_eq (h : bootAt d 1 = true) (hlt : d.boot.railsGood < d.boot.rails) : railFailed d =
    bootFail 3 (islandLog 0x011A 0xFF d.boot.railsGood (toLe 1 d.boot.railsGood) (onBoot (fun b => { b with rails := d.boot.railsGood }) d)) :=
  if_pos ⟨h, hlt⟩

/-! ### Steps entered (R611) -/

/-- Of the device only the wakes that wait may differ, and none of them is lost. -/
structure WakesQueued (d d' : Dev) : Prop where
  rest : d' = { d with pwr := { d.pwr with wakes := d'.pwr.wakes } }
  kept : ∀ w, d.pwr.wakes.any (fun x => x.dom == w) = true → d'.pwr.wakes.any (fun x => x.dom == w) = true

theorem WakesQueued.refl (d : Dev) : WakesQueued d d := ⟨rfl, fun _ h => h⟩

theorem WakesQueued.trans {a b c : Dev} (h : WakesQueued a b) (h' : WakesQueued b c) : WakesQueued a c where
  rest := by
    have hc := h'.rest
    rw [h.rest] at hc
    exact hc
  kept := fun w hw => h'.kept w (h.kept w hw)

theorem wakesQueued_queueWake (w : Nat) (d : Dev) : WakesQueued d (queueWake w d) := by
  unfold queueWake
  split
  · exact .refl d
  · exact ⟨rfl, fun x hx => by rw [List.any_append, hx]; rfl⟩

theorem queued_queueWake (w : Nat) (d : Dev) : domainDead d w = true ∨ (queueWake w d).pwr.wakes.any (fun x => x.dom == w) = true := by
  unfold queueWake
  split
  · assumption
  · exact .inr (by simp)

theorem wakesQueued_foldl (l : List Nat) (d : Dev) : WakesQueued d (l.foldl (fun d w => queueWake w d) d) :=
  List.foldlRecOn (motive := WakesQueued d) l _ (.refl d) fun d' h w _ => h.trans (wakesQueued_queueWake w d')

/-- Every wake of a list queued stands, or its domain is dead. -/
theorem queued_foldl (l : List Nat) (d : Dev) (w : Nat) (hw : w ∈ l) :
    domainDead d w = true ∨ (l.foldl (fun d w => queueWake w d) d).pwr.wakes.any (fun x => x.dom == w) = true := by
  induction l generalizing d with
  | nil => exact nomatch hw
  | cons y l ih =>
    rcases List.mem_cons.mp hw with rfl | hw
    · exact (queued_queueWake w d).imp_right ((wakesQueued_foldl l (queueWake w d)).kept w)
    · have hdead : domainDead (queueWake y d) w = domainDead d w := by rw [(wakesQueued_queueWake y d).rest]; rfl
      exact hdead ▸ ih (queueWake y d) hw

/-- The device with a boot step begun. -/
def atStep (k : Nat) (d : Dev) : Dev := onBoot (fun b => { b with step := k }) d

theorem enterStep_spec (k : Nat) (d : Dev) :
    let d' := enterStep k d
    WakesQueued (atStep k d) d' ∧ ∀ w ∈ bootWakes d k, domainDead d' w = true ∨ d'.pwr.wakes.any (fun x => x.dom == w) = true := by
  intro d'
  have hqueued : WakesQueued (atStep k d) d' := wakesQueued_foldl ..
  have hwakes : bootWakes (atStep k d) k = bootWakes d k := rfl
  refine ⟨hqueued, fun w hw => ?_⟩
  have hdead : domainDead d' w = domainDead (atStep k d) w := by rw [hqueued.rest]; rfl
  rw [hdead]
  exact queued_foldl (bootWakes (atStep k d) k) (atStep k d) w (hwakes ▸ hw)

/-- A boot step entered changes no stack. -/
theorem stackOf_enterStep (k : Nat) (d : Dev) (m : Nat) : stackOf (enterStep k d) m = stackOf d m := by
  rw [(enterStep_spec k d).1.rest]
  rfl

/-! ### BOOT_STEP_DONE (R611, R614, R623) -/

/-- The device with stacks that failed training logged. -/
def stacksLogged (bad : Nat) (d : Dev) : Dev :=
  ((List.range 12).filter (fun m => bitOf bad m)).foldl (fun d m => islandLog 0x0103 (storeSite (m / 3)) (m % 3) (toLe 1 m) d) d

/-- The device with every stack trained. -/
def stacksTrained (d : Dev) : Dev := (List.range 12).foldl (fun d m => modStack m (fun s => { s with trained := true }) d) d

/-- The device with the links that train timed from now. -/
def linksTimed (d : Dev) : Dev :=
  (List.range 20).foldl (fun x n => if linkState x n = 1 then modLink n (fun l => { l with since := beat d }) x else x) d

section

variable {bad : Nat} {clean : Bool}

theorem bootStepDone_of_not (h : bootAt d d.boot.step = false) : bootStepDone bad clean d = d := by
  unfold bootStepDone
  exact if_pos (by simp [h])

section

variable (h : bootAt d d.boot.step = true)
include h

theorem bootStepDone_one (h1 : d.boot.step = 1) : bootStepDone bad clean d = if d.boot.railsGood = 11 then enterStep 2 d else d := by
  have hn : ¬ ¬ bootAt d 1 = true := fun hn => hn (h1 ▸ h)
  unfold bootStepDone
  dsimp only
  rw [h1]
  exact if_neg hn

theorem bootStepDone_two (h2 : d.boot.step = 2) : bootStepDone bad clean d = if d.pwr.wakes.isEmpty then enterStep 3 d else d := by
  have hn : ¬ ¬ bootAt d 2 = true := fun hn => hn (h2 ▸ h)
  unfold bootStepDone
  dsimp only
  rw [h2]
  exact if_neg hn

theorem bootStepDone_three (h3 : d.boot.step = 3) : bootStepDone bad clean d =
    if ¬ d.pwr.wakes.isEmpty then d
    else if bitsOf bad 0 12 ≠ 0 then onBoot (fun b => { b with stackDead := true }) (bootFail 4 (packageFault (stacksLogged bad d)))
    else if d.boot.wiping ∧ ¬ clean then bootFail 7 (islandLog 0x0111 0xFF 0xFF [] d)
    else enterStep 4 (stacksTrained d) := by
  have hn : ¬ ¬ bootAt d 3 = true := fun hn => hn (h3 ▸ h)
  unfold bootStepDone
  dsimp only
  rw [h3]
  exact if_neg hn

theorem bootStepDone_four (h4 : d.boot.step = 4) : bootStepDone bad clean d =
    if ¬ d.pwr.wakes.isEmpty then d else enterStep 5 (checkMaps (linksTimed d)) := by
  have hn : ¬ ¬ bootAt d 4 = true := fun hn => hn (h4 ▸ h)
  unfold bootStepDone
  dsimp only
  rw [h4]
  exact if_neg hn

theorem bootStepDone_five (h5 : d.boot.step = 5) : bootStepDone bad clean d = if d.pwr.wakes.isEmpty then bootReady d else d := by
  have hn : ¬ ¬ bootAt d 5 = true := fun hn => hn (h5 ▸ h)
  unfold bootStepDone
  dsimp only
  rw [h5]
  exact if_neg hn

theorem bootStepDone_late (h6 : 6 ≤ d.boot.step) : bootStepDone bad clean d = d := by
  have hn : ¬ ¬ bootAt d d.boot.step = true := fun hn => hn h
  unfold bootStepDone
  dsimp only
  rw [if_neg hn]
  split
  · omega
  · omega
  · omega
  · omega
  · omega
  · rfl

/-- Nothing goes on while wakes are left. -/
theorem bootStepDone_of_waking (h2 : 2 ≤ d.boot.step) (hw : d.pwr.wakes.isEmpty = false) : bootStepDone bad clean d = d := by
  have hno : ¬ d.pwr.wakes.isEmpty = true := by simp [hw]
  rcases (by omega : d.boot.step = 2 ∨ d.boot.step = 3 ∨ d.boot.step = 4 ∨ d.boot.step = 5 ∨ 6 ≤ d.boot.step) with hs | hs | hs | hs | hs
  · exact (bootStepDone_two h hs).trans (if_neg hno)
  · exact (bootStepDone_three h hs).trans (if_pos hno)
  · exact (bootStepDone_four h hs).trans (if_pos hno)
  · exact (bootStepDone_five h hs).trans (if_neg hno)
  · exact bootStepDone_late h hs

end

end

/-- The boot and the registers stay. -/
structure StepKept (d d' : Dev) : Prop where
  boot : d'.boot = d.boot
  regs : d'.regs = d.regs

namespace StepKept

theorem refl (d : Dev) : StepKept d d := ⟨rfl, rfl⟩

theorem trans {a b c : Dev} (h : StepKept a b) (h' : StepKept b c) : StepKept a c := ⟨h'.boot.trans h.boot, h'.regs.trans h.regs⟩

theorem foldl {α : Type} {f : Dev → α → Dev} (hf : ∀ d x, StepKept d (f d x)) (l : List α) (d : Dev) : StepKept d (l.foldl f d) :=
  List.foldlRecOn (motive := StepKept d) l f (refl d) fun d' h x _ => h.trans (hf d' x)

theorem islandLog (code site unit : Nat) (payload : List Byte) (d : Dev) : StepKept d (islandLog code site unit payload d) := by
  have hlog := Logs.Logged.islandLog code site unit payload d
  refine ⟨?_, ?_⟩
  · rw [show Machine.islandLog _ _ _ _ _ = _ from hlog]
  · rw [show Machine.islandLog _ _ _ _ _ = _ from hlog]

theorem stacksLogged (bad : Nat) (d : Dev) : StepKept d (stacksLogged bad d) := foldl (fun _ _ => islandLog ..) _ d

theorem linksTimed (d : Dev) : StepKept d (linksTimed d) := foldl (fun x _ => by split <;> exact ⟨rfl, rfl⟩) _ d

theorem checkMaps (d : Dev) : StepKept d (checkMaps d) :=
  foldl (fun d c => .trans (b := onPwr (fun p => { p with dead := tput false p.dead (c / 8) true }) d) ⟨rfl, rfl⟩ (islandLog ..)) _ d

end StepKept

theorem stacksTrained_eq (d : Dev) : stacksTrained d = { d with store := (stacksTrained d).store } :=
  Partitions.StoreOnly.foldl (fun _ _ => .onStore ..) _ d

theorem bootWakes_store (st : Store) (d : Dev) (k : Nat) : bootWakes { d with store := st } k = bootWakes d k := rfl

/-- Every stack of a list trained is trained. -/
theorem trained_foldl (l : List Nat) (d : Dev) (m : Nat) (h : m ∈ l ∨ (stackOf d m).trained = true) :
    (stackOf (l.foldl (fun d m => modStack m (fun s => { s with trained := true }) d) d) m).trained = true := by
  induction l generalizing d with
  | nil => exact h.resolve_left (fun hm => nomatch hm)
  | cons x l ih =>
    refine ih _ ?_
    by_cases hx : m = x
    · exact .inr (by rw [hx, stackOf_modStack_at])
    · rw [stackOf_modStack_off _ _ hx]
      exact h.imp_left fun hm => (List.mem_cons.mp hm).resolve_left hx

/-- The device at the end of a boot, before what waited for it. -/
def atReady (d : Dev) : Dev :=
  onBoot (fun b => { b with
    step := 6, ready := true, wiping := false, deferred := [], bootMs := min (2 ^ 24 - 1) ((beat d - b.begun) / 1000000) })
    (when d.boot.wiping (onOtp (fun o => { o with wipeDone := true })) d)

/-- The device with a pending bundle that runs made the active one. -/
def bundleKept (d : Dev) : Dev :=
  if d.isl.fwPending ∧ d.isl.running.any (fun s => s != d.isl.active % 2) then
    islandLog 0x0113 0xFF 0xFF [] (onIsl (fun x => { x with active := 1 - x.active % 2, fwPending := false }) d)
  else d

theorem bootReady_eq (d : Dev) : bootReady d = d.boot.deferred.foldl (fun d f => fnReset f d) (bundleKept (atReady d)) := rfl

theorem resetsBegun_fnReset (fn : Nat) (d : Dev) : Partitions.ResetsBegun d (fnReset fn d) := by
  unfold fnReset
  split
  · exact Partitions.resetsBegun_startReset ..
  · exact .refl d

theorem boot_bundleKept (d : Dev) : (bundleKept d).boot = d.boot ∧ (bundleKept d).otp = d.otp := by
  unfold bundleKept
  split
  · rw [show islandLog _ _ _ _ _ = _ from Logs.Logged.islandLog ..]
    exact ⟨rfl, rfl⟩
  · exact ⟨rfl, rfl⟩

theorem bootReady_spec (d : Dev) :
    let d' := bootReady d
    d'.boot.step = 6 ∧ d'.boot.ready = true ∧ d'.boot.wiping = false ∧ d'.boot.deferred = [] ∧
    (d.boot.wiping = true → d'.otp.wipeDone = true) ∧
    (d.isl.fwPending = true → d.isl.running = some (1 - d.isl.active % 2) →
      d'.isl.active = 1 - d.isl.active % 2 ∧ d'.isl.fwPending = false) := by
  intro d'
  have hbegun : Partitions.ResetsBegun (bundleKept (atReady d)) (bootReady d) := by
    rw [bootReady_eq]
    exact .foldl (fun d f => resetsBegun_fnReset f d) d.boot.deferred _
  obtain ⟨hboot, hotp⟩ := boot_bundleKept (atReady d)
  have hboot' : d'.boot = (atReady d).boot := (congrArg Dev.boot hbegun.rest).trans hboot
  have hotp' : d'.otp = (atReady d).otp := (congrArg Dev.otp hbegun.rest).trans hotp
  refine ⟨by rw [hboot']; rfl, by rw [hboot']; rfl, by rw [hboot']; rfl, by rw [hboot']; rfl, fun hw => ?_, fun hp hr => ?_⟩
  · rw [hotp', atReady, hw]
    rfl
  · have hisl : (atReady d).isl = d.isl := by
      unfold atReady when
      split
      · rfl
      · rfl
    have hkept : bundleKept (atReady d) = islandLog 0x0113 0xFF 0xFF []
        (onIsl (fun x => { x with active := 1 - x.active % 2, fwPending := false }) (atReady d)) :=
      if_pos (by rw [hisl, hr]; exact ⟨hp, by simp; omega⟩)
    rw [show d' = _ from hbegun.rest, hkept, show islandLog _ _ _ _ _ = _ from Logs.Logged.islandLog ..]
    exact ⟨congrArg (fun x : Island => 1 - x.active % 2) hisl, rfl⟩

/-! ### JTAG (R608, R618) -/

theorem jtagOk_of_void (h : lcState d = 4) (k : Nat) : jtagOk d k = false := by
  unfold jtagOk
  rw [h]
  rfl

theorem jtagOk_of_blank (h : lcState d = 0) {k : Nat} (hk : k < 8) : jtagOk d k = decide (6 ≤ k) := by
  have htest : jtagOk d k = (k == 6 || k == 7) := by
    unfold jtagOk
    rw [h]
    rfl
  rw [htest, Bool.eq_iff_iff]
  simp
  omega

/-! ### The statement -/

/-- The end of a step that enters the next. -/
theorem entered_spec {n : Nat} {x : Dev} (hboot : x.boot = d.boot) (hregs : x.regs = d.regs) (hedge : x.edge = d.edge)
    (hwakes : bootWakes x n = bootWakes d n) :
    let d' := enterStep n x
    d'.boot = { d.boot with step := n } ∧
    (∀ w ∈ bootWakes d n, domainDead d' w = true ∨ d'.pwr.wakes.any (fun x => x.dom == w) = true) ∧ d'.regs = d.regs ∧ d'.edge = d.edge := by
  intro d'
  obtain ⟨hqueued, hall⟩ := enterStep_spec n x
  have hd : d' = _ := hqueued.rest
  refine ⟨?_, fun w hw => hall w (hwakes ▸ hw), ?_, ?_⟩
  · rw [hd, ← hboot]
    rfl
  · rw [hd]
    exact hregs
  · rw [hd]
    exact hedge

/-- What the end of a step keeps where what came before it kept the boot and the registers. -/
theorem StepKept.enterStep {x : Dev} (h : StepKept d x) (n : Nat) :
    let d' := enterStep n x
    d'.boot = { d.boot with step := n } ∧ d'.regs = d.regs := by
  intro d'
  have hd : d' = _ := (enterStep_spec n x).1.rest
  refine ⟨?_, ?_⟩
  · rw [hd, ← h.boot]
    rfl
  · rw [hd]
    exact h.regs

/-- The boot that stops for a cause. -/
theorem StepKept.boot_bootFail {x : Dev} (h : StepKept d x) (cause : Nat) :
    (bootFail cause x).boot = { d.boot with failed := true, failCause := cause } := by
  rw [← h.boot]
  rfl

/-- The boot that stops at a stack that failed training. -/
theorem StepKept.boot_stacksFailed {x : Dev} (h : StepKept d x) :
    (onBoot (fun b => { b with stackDead := true }) (bootFail 4 (packageFault x))).boot =
      { d.boot with fault := true, ready := false, failed := true, failCause := 4, stackDead := true } := by
  simp only [onBoot, bootFail, packageFault, h.boot]

/-- Settles O37: each event by the step, rails and wakes it finds. -/
theorem bootSteps : Obligations.BootSteps := by
  intro bad k clean temps s hbad hk hlen
  have hhold : Gives (.thermalHoldCheck temps) s (holdCheck temps s.dev) :=
    Flows.gives_of_exec (exec_thermalHoldCheck temps s) (by rw [wf_thermalHoldCheck, hlen]; rfl)
  have hgood : Gives .railPowerGood s (railGood s.dev) := Flows.gives_of_exec (exec_railPowerGood s) rfl
  have hfail : Gives .railFailed s (railFailed s.dev) := Flows.gives_of_exec (exec_railFailed s) rfl
  have hdone : Gives (.bootStepDone bad clean) s (bootStepDone bad clean s.dev) :=
    Flows.gives_of_exec (exec_bootStepDone bad clean s) (by rw [wf_bootStepDone]; simpa [within] using hbad)
  have htrst : Gives .trstN s (trst s.dev) := Flows.gives_of_exec (exec_trstN s) rfl
  have hjtag (k : Nat) (hk : k < 8) : Gives (.jtagInstruction k) s (jtagInstr k s.dev) :=
    Flows.gives_of_exec (exec_jtagInstruction k s) (by rw [wf_jtagInstruction]; simpa [within] using hk)
  have hbits : bitsOf bad 0 12 = bad := by
    rw [bitsOf, Nat.shiftRight_zero]
    exact Nat.mod_eq_of_lt hbad
  dsimp only
  refine ⟨fun hh => ?_, fun hh hot => ?_, fun hh hot => ?_, fun h hlt => ⟨?_, ?_⟩, fun hno => ⟨?_, ?_⟩, fun hno => ?_, fun h => ⟨?_, ?_, ?_, ?_, ?_⟩,
    ?_, fun hno => ?_, fun hok h7 => ?_, fun hok => ?_, fun h4 => jtagOk_of_void h4 k, fun h0 => jtagOk_of_blank h0 hk⟩
  · rwa [holdCheck, if_pos (by simp [hh])] at hhold
  · rw [holdCheck_of_hot hlen hh hot] at hhold
    exact ⟨_, hhold, rfl, fun j _ => Clocks.tget_tabOf 0 temps j, rfl⟩
  · rw [holdCheck_of_cool hlen hh hot] at hhold
    refine ⟨_, hhold, ?_⟩
    obtain ⟨-, hboot | ⟨hboot, x, hrun, hvalid⟩⟩ := bootSlot_spec (released temps s.dev)
    · rw [hboot]
      exact ⟨rfl, rfl, .inl ⟨rfl, rfl⟩⟩
    · rw [hboot]
      exact ⟨rfl, rfl, .inr ⟨rfl, rfl, x, hrun, hvalid⟩⟩
  · rwa [railGood, if_pos ⟨h, hlt⟩] at hgood
  · rw [railFailed_eq h hlt] at hfail
    refine ⟨_, hfail, ?_, Logs.lastCode_islandLog, ?_⟩
    · exact (StepKept.islandLog ..).boot_bootFail 3
    · rw [bootFail, show islandLog _ _ _ _ _ = _ from Logs.Logged.islandLog ..]
      rfl
  · have hn : ¬ (bootAt s.dev 1 = true ∧ s.dev.boot.railsGood < s.dev.boot.rails) := fun hn =>
      hno.elim (fun h => by simp [h] at hn) fun h => by omega
    rwa [railGood, if_neg hn] at hgood
  · have hn : ¬ (bootAt s.dev 1 = true ∧ s.dev.boot.railsGood < s.dev.boot.rails) := fun hn =>
      hno.elim (fun h => by simp [h] at hn) fun h => by omega
    rwa [railFailed, if_neg hn] at hfail
  · cases h : bootAt s.dev s.dev.boot.step
    · rwa [bootStepDone_of_not h] at hdone
    · rcases hno with hno | ⟨h1, hr⟩ | ⟨h2, hw⟩
      · exact absurd (h.symm.trans hno) (by decide)
      · rwa [bootStepDone_one h h1, if_neg hr] at hdone
      · rwa [bootStepDone_of_waking h h2 hw] at hdone
  · intro h1 hr
    rw [bootStepDone_one h h1, if_pos hr] at hdone
    exact ⟨_, hdone, entered_spec rfl rfl rfl rfl⟩
  · intro h2 hw
    rw [bootStepDone_two h h2, if_pos hw] at hdone
    exact ⟨_, hdone, entered_spec rfl rfl rfl rfl⟩
  · intro h3 hw
    rw [bootStepDone_three h h3, if_neg (fun hn => hn hw), hbits] at hdone
    refine ⟨fun hb => ?_, fun hb hwip hc => ?_, fun hb hw => ?_⟩
    · rw [if_pos hb] at hdone
      exact ⟨_, hdone, (StepKept.stacksLogged bad s.dev).boot_stacksFailed⟩
    · rw [if_neg (fun hn => hn hb), if_pos ⟨hwip, by simp [hc]⟩] at hdone
      exact ⟨_, hdone, (StepKept.islandLog ..).boot_bootFail 7⟩
    · have hn : ¬ (s.dev.boot.wiping = true ∧ ¬ clean = true) := fun ⟨h, h'⟩ => hw.elim (fun hw => by simp [hw] at h) h'
      rw [if_neg (fun hn => hn hb), if_neg hn] at hdone
      have hst := stacksTrained_eq s.dev
      refine ⟨⟨_, hdone, ?_⟩, _, hdone, fun m hm => ?_⟩
      · refine entered_spec ?_ ?_ ?_ ?_
        · rw [hst]
        · rw [hst]
        · rw [hst]
        · rw [hst]
          exact bootWakes_store ..
      · rw [stackOf_enterStep]
        exact trained_foldl (List.range 12) s.dev m (.inl (List.mem_range.mpr hm))
  · intro h4 hw
    rw [bootStepDone_four h h4, if_neg (fun hn => hn hw)] at hdone
    exact ⟨_, hdone, ((StepKept.linksTimed s.dev).trans (.checkMaps _)).enterStep 5⟩
  · intro h5 hw
    rw [bootStepDone_five h h5, if_pos hw] at hdone
    exact ⟨_, hdone, bootReady_spec s.dev⟩
  · exact htrst
  · have hg := hjtag k hk
    rwa [jtagInstr, if_neg (by simp [hno])] at hg
  · have hg := hjtag k hk
    rw [jtagInstr, if_pos hok, when, if_neg (by simpa using h7)] at hg
    exact hg
  · have hg := hjtag 7 (by decide)
    rw [jtagInstr, if_pos hok] at hg
    exact ⟨_, hg, rfl, rfl, rfl⟩

end Sys2Proof.Boots

/-! ## Resets -/

namespace Sys2Proof.Resets

open Sys2Proof.Machine Sys2Proof.Safety Sys2Proof.Laws

variable {d : Dev}

/-! ### What a warm reset leaves (R603, Table 20.2) -/

/-- Beside registers, counters, what was sent, the island and the boot, the device is as a warm reset leaves it. -/
def FromWarm (d d' : Dev) : Prop :=
  d' = { warmWipe d with regs := d'.regs, ctr := d'.ctr, out := d'.out, isl := d'.isl, boot := d'.boot }

/-- The parts that no reset leaves as they were are as after power-on, and OTP and the host's memory stay. -/
def Cleared (d d' : Dev) : Prop :=
  d'.edge = {} ∧ d'.comp = {} ∧ d'.store = {} ∧ d'.fab = {} ∧ d'.pwr = {} ∧ d'.ep = {} ∧ d'.obs = {} ∧
  d'.cmds = [] ∧ d'.parts = State.reset.dev.parts ∧ d'.ctxs = [] ∧ d'.tabVers = [] ∧ d'.keyed = [] ∧ d'.pairs = [] ∧ d'.rrings = [] ∧
  d'.otp = d.otp ∧ d'.hostMem = d.hostMem

theorem FromWarm.cleared {d' : Dev} (h : FromWarm d d') : Cleared d d' := by
  rw [show d' = _ from h]
  exact ⟨rfl, rfl, rfl, rfl, rfl, rfl, rfl, rfl, rfl, rfl, rfl, rfl, rfl, rfl, rfl, rfl⟩

/-- An event logged after a warm reset. -/
theorem FromWarm.of_logged {x d' : Dev} (h : FromWarm d x) (hlog : Logs.Logged x d') : FromWarm d d' := by
  unfold FromWarm
  rw [show d' = _ from hlog, show x = _ from h]

theorem FromWarm.packageFault {x : Dev} (h : FromWarm d x) : FromWarm d (packageFault x) := by
  unfold FromWarm
  rw [show x = _ from h]
  rfl

/-- Whether only a cold reset restores a register. -/
def coldOnly (a : Nat) : Bool := match regSpec a with | some sp => sp.level == 0 | none => false

theorem regs_warmWipe (d : Dev) : (warmWipe d).regs = d.regs.filter (fun e => coldOnly e.1) := rfl

/-- A warm reset restores every register but those that only a cold reset restores. -/
theorem regVal_warmWipe {a : Nat} {sp : RegSpec} (hsp : regSpec a = some sp) :
    regVal (warmWipe d) a = if sp.level = 0 then regVal d a else sp.reset := by
  have hreset : regResetOf a = sp.reset := by rw [regResetOf, hsp]
  have hcold : coldOnly a = (sp.level == 0) := by rw [coldOnly, hsp]
  rw [regVal, regs_warmWipe, IslandMessages.tget_filter_key, hcold, regVal, hreset]
  simp

theorem regVal_loadLimits {a : Nat} (ha : a ≠ rPwrLimit) (d : Dev) : regVal (loadLimits d) a = regVal d a := by
  rw [loadLimits, regVal_setFld, if_neg ha]

/-- What a warm reset leaves of the registers, wherever the device's are those it leaves. -/
def RegsWarm (d d' : Dev) : Prop :=
  ∀ a sp, regSpec a = some sp → a ≠ rPwrLimit → regVal d' a = if sp.level = 0 then regVal d a else sp.reset

theorem regsWarm_of_wiped {d' : Dev} (h : d'.regs = (warmWipe d).regs) : RegsWarm d d' := fun a _ hsp _ =>
  (congrArg (fun t => tget (regResetOf a) t a) h).trans (regVal_warmWipe hsp)

theorem regsWarm_of_limited {d' : Dev} (h : d'.regs = (loadLimits (warmWipe d)).regs) : RegsWarm d d' := fun a _ hsp ha =>
  ((congrArg (fun t => tget (regResetOf a) t a) h).trans (regVal_loadLimits ha _)).trans (regVal_warmWipe hsp)

/-! ### Cold resets (R600, R602) -/

/-- The device after a cold reset, before its limits are loaded. -/
def coldBase (straps : Nat) (temps : List Int) (d : Dev) : Dev := {
  hostMem := d.hostMem, out := d.out, free := d.free, otp := d.otp
  pins := { straps := straps % 64 }
  isl := {
    nor := d.isl.nor, seq := (match d.isl.nor.getLast? with | some e => (e.seq + 1) % 2 ^ 32 | none => 0)
    trouble := d.isl.troubleNor, troubleNor := d.isl.troubleNor, slotA := d.isl.slotA, slotB := d.isl.slotB
    active := d.isl.active, fwPending := d.isl.fwPending, attempts := d.isl.attempts, temps := tabOf 0 temps }
  boot := { afterTrip := d.boot.tripped, gen := nextGen d.otp } }

theorem coldWipe_eq (straps : Nat) (temps : List Int) (d : Dev) : coldWipe straps temps d = loadLimits (coldBase straps temps d) := rfl

/-- A cold reset ends in a boot. -/
theorem coldReset_eq (straps : Nat) (temps : List Int) (d : Dev) : coldReset straps temps d = bootBegin (coldWipe straps temps d) := by
  have hboot : (coldWipe straps temps d).boot = (coldBase straps temps d).boot := rfl
  rw [coldReset, startBoot, hboot]
  exact (if_neg (by simp [coldBase])).trans (if_neg (by simp [coldBase]))

/-- Nothing but what reads OTP, NOR, the straps and the host's memory outlives a cold reset. -/
def Empty (d' : Dev) : Prop :=
  d'.edge = {} ∧ d'.comp = {} ∧ d'.store = {} ∧ d'.fab = {} ∧ d'.pwr = {} ∧ d'.ep = {} ∧ d'.obs = {} ∧
  d'.cmds = [] ∧ d'.parts = State.reset.dev.parts ∧ d'.ctxs = [] ∧ d'.tabVers = [] ∧ d'.keyed = [] ∧ d'.pairs = [] ∧ d'.rrings = [] ∧ d'.ctr = []

theorem empty_aonLoss (d : Dev) : Empty (aonLoss d) := ⟨rfl, rfl, rfl, rfl, rfl, rfl, rfl, rfl, rfl, rfl, rfl, rfl, rfl, rfl, rfl⟩

/-- What the boot after a cold reset leaves of it. -/
structure ColdBooted (straps : Nat) (temps : List Int) (d d' : Dev) : Prop where
  rest : d' = { coldBase straps temps d with
    regs := (loadLimits (coldBase straps temps d)).regs, ctr := d'.ctr, out := d'.out, isl := d'.isl, otp := d'.otp, boot := d'.boot }
  nor : d'.isl.nor = d.isl.nor
  slots : d'.isl.slotA = d.isl.slotA ∧ d'.isl.slotB = d.isl.slotB
  temps : d'.isl.temps = tabOf 0 temps
  otp : d'.otp.life = d.otp.life ∧ d'.otp.fuses = d.otp.fuses
  boot : d'.boot.step = 1 ∧ d'.boot.ready = false ∧ d'.boot.tripped = false ∧ d'.boot.cause = 0

theorem ColdBooted.empty {straps : Nat} {temps : List Int} {d' : Dev} (h : ColdBooted straps temps d d') : Empty { d' with ctr := [] } := by
  rw [h.rest]
  exact ⟨rfl, rfl, rfl, rfl, rfl, rfl, rfl, rfl, rfl, rfl, rfl, rfl, rfl, rfl, rfl⟩

theorem coldBooted_coldReset (straps : Nat) (temps : List Int) (d : Dev) : ColdBooted straps temps d (coldReset straps temps d) := by
  rw [coldReset_eq, coldWipe_eq]
  have hrun := Boots.bootBegin_run (loadLimits (coldBase straps temps d))
  have hisl := hrun.isl
  have hotp := hrun.otp
  obtain ⟨hstep, -, hboot⟩ := Boots.bootBegin_spec (loadLimits (coldBase straps temps d))
  refine ⟨hrun.rest, ?_, ⟨?_, ?_⟩, ?_, ⟨?_, ?_⟩, hstep, ?_, ?_, ?_⟩
  · rw [hisl]
    rfl
  · rw [hisl]
    rfl
  · rw [hisl]
    rfl
  · rw [hisl]
    rfl
  · rw [hotp]
    rfl
  · rw [hotp]
    rfl
  · rw [hboot]
    rfl
  · rw [hboot]
    rfl
  · rw [hboot]
    rfl

/-! ### SYS_RST_N (R603, R604) -/

theorem sysRstAssert_of_held (h : d.boot.inReset = true ∨ d.boot.aonLost = true) : sysRstAssert d = d := if_pos h

theorem sysRstAssert_of_free (hr : d.boot.inReset = false) (ha : d.boot.aonLost = false) : sysRstAssert d =
    onIsl (fun x => { x with holdFrom := some (beat d), heldLogged := false })
      (onBoot (fun b => { b with inReset := true }) (warmReset 1 d)) := if_neg (by simp [hr, ha])

/-- The device with the reset released. -/
def unheld (d : Dev) : Dev := onIsl (fun x => { x with holdFrom := none }) (onBoot (fun b => { b with inReset := false }) d)

theorem sysRstRelease_of_free (h : d.boot.inReset = false) : sysRstRelease d = d := if_neg (by simp [h])

theorem sysRstRelease_of_held (h : d.boot.inReset = true) : sysRstRelease d = startBoot (unheld d) := if_pos h

theorem startBoot_of_tripped (h : d.boot.tripped = true) : startBoot d = d := if_pos (.inl h)

theorem startBoot_of_well (ht : d.boot.tripped = false) (ha : d.boot.aonLost = false) (hs : d.boot.stackDead = false) :
    startBoot d = bootBegin d := (if_neg (by simp [ht, ha])).trans (if_neg (by simp [hs]))

/-- What the boot after a warm reset leaves. -/
theorem bootBegin_unheld (d : Dev) :
    let d' := bootBegin (unheld d)
    d'.boot.inReset = false ∧ d'.boot.step = 1 ∧ d'.isl.holdFrom = none ∧ d'.boot.gen = nextGen d.otp ∧ d'.parts = d.parts ∧ d'.regs = d.regs := by
  intro d'
  have hrun := Boots.bootBegin_run (unheld d)
  have hd : d' = _ := hrun.rest
  have hisl : d'.isl = _ := hrun.isl
  obtain ⟨hstep, hgen, hboot⟩ := Boots.bootBegin_spec (unheld d)
  refine ⟨?_, hstep, ?_, hgen, ?_, ?_⟩
  · rw [show d'.boot = _ from hboot]
    rfl
  · rw [hisl]
    rfl
  · rw [hd]
    rfl
  · rw [hd]
    rfl

theorem resetHeld_of_not (h : d.isl.holdFrom = none ∨ d.boot.inReset = false ∨ d.isl.heldLogged = true) : resetHeld d = d := by
  unfold resetHeld
  split
  · rename_i b hb
    exact if_neg fun ⟨hr, hl, _⟩ => by
      rcases h with h | h | h
      · exact absurd (h.symm.trans hb) (by simp)
      · exact absurd (h.symm.trans hr) (by decide)
      · exact hl h
  · rfl

/-- The device with an assertion of 5 s logged. -/
def heldLogged (d : Dev) : Dev := islandLog 0x0101 0xFF 0xFF [] (onIsl (fun x => { x with heldLogged := true }) d)

theorem resetHeld_of_due {b : Nat} (hb : d.isl.holdFrom = some b) (hr : d.boot.inReset = true) (hl : d.isl.heldLogged = false)
    (ht : b + 5000000000 ≤ beat d) : resetHeld d = setFld rResetCause 2 1 1 (heldLogged d) := by
  unfold resetHeld
  rw [hb]
  exact if_pos ⟨hr, by simp [hl], ht⟩

theorem heldLogged_logged (d : Dev) : Logs.Logged (onIsl (fun x => { x with heldLogged := true }) d) (heldLogged d) := .islandLog ..

/-! ### Thermal trips, failed rails and VDD_AON (R594, R650) -/

/-- The device with a thermal trip, before it is logged. -/
def tripped (d : Dev) : Dev := onBoot (fun b => { b with tripped := true, fault := true }) (warmWipe d)

theorem thermalTrip_of_not (sensor : Nat) (h : d.boot.tripped = false) :
    thermalTrip sensor d = islandLog 0x0108 0xFF 0xFF (toLe 1 sensor) (tripped d) := if_neg (by simp [h])

/-- An event that brings ALERT asserts it. -/
theorem alert_islandLog {code : Nat} (h : (eventKind code).2.2 = true) (site unit : Nat) (payload : List Byte) (d : Dev) :
    (islandLog code site unit payload d).isl.alert = true := by
  have halert (d : Dev) : (alertOn code d).isl.alert = true := by
    unfold alertOn
    dsimp only
    split
    · rfl
    · rfl
  rw [Logs.islandLog_eq, Logs.signalled, if_pos h]
  exact halert _

theorem thermalTrip_spec (sensor : Nat) (d : Dev) :
    let d' := islandLog 0x0108 0xFF 0xFF (toLe 1 sensor) (tripped d)
    Cleared d d' ∧ RegsWarm d d' ∧ d'.boot = (tripped d).boot := by
  intro d'
  have hlog : Logs.Logged (tripped d) d' := .islandLog ..
  have hd : d' = _ := hlog
  have hwarm : FromWarm d (tripped d) := rfl
  refine ⟨(hwarm.of_logged hlog).cleared, regsWarm_of_wiped ?_, ?_⟩
  · rw [hd]
    rfl
  · rw [hd]

theorem railFault_spec (rail : Nat) (d : Dev) :
    let d' := railFault rail d
    Cleared d d' ∧ RegsWarm d d' ∧ d'.boot.fault = true ∧ d'.boot.ready = false ∧ d'.boot.step = 0 := by
  intro d'
  have hlog : Logs.Logged (loadLimits (warmWipe d)) (islandLog 0x011A 0xFF 0xFF (toLe 1 rail) (loadLimits (warmWipe d))) := .islandLog ..
  have hwarm : FromWarm d (loadLimits (warmWipe d)) := rfl
  have hd : d' = packageFault (islandLog 0x011A 0xFF 0xFF (toLe 1 rail) (loadLimits (warmWipe d))) := rfl
  refine ⟨FromWarm.cleared (hd ▸ (hwarm.of_logged hlog).packageFault), regsWarm_of_limited ?_, rfl, rfl, ?_⟩
  · rw [hd, show islandLog _ _ _ _ _ = _ from hlog]
    rfl
  · rw [hd, show islandLog _ _ _ _ _ = _ from hlog]
    rfl

/-! ### PORT_RESET and PCIe start-up (R601, R613) -/

/-- The device with a port's link and VFs taken down. -/
def portDown (port : Nat) (perst : Bool) (d : Dev) : Dev :=
  { modPcie port (fun p => { perst := p.perst || perst }) d with numVfs := tdel d.numVfs port }

/-- The device with registers' bit 0 cleared. -/
def lowered (as : List Nat) (d : Dev) : Dev := as.foldl (fun d a => setFld a 0 1 0 d) d

theorem lowered_rest (as : List Nat) (d : Dev) : lowered as d = { d with regs := (lowered as d).regs } :=
  List.foldlRecOn (motive := fun x : Dev => x = { d with regs := x.regs }) as (fun d a => setFld a 0 1 0 d) rfl fun x h a _ => by
    rw [h]
    rfl

/-- The DMA window entries that name a port. -/
def portWindows (port : Nat) (d : Dev) : List Nat :=
  (d.regs.filter (fun e => decide (0x4000 ≤ e.1 ∧ e.1 < 0x6000 ∧ e.1 % 16 = 12) && bitsOf e.2 3 1 == port)).map (·.1)

/-- The device with a port down and its DMA window entries void. -/
def portCut (port : Nat) (perst : Bool) (d : Dev) : Dev := lowered (portWindows port d) (portDown port perst d)

theorem portCut_rest (port : Nat) (perst : Bool) (d : Dev) :
    portCut port perst d = { portDown port perst d with regs := (portCut port perst d).regs } := lowered_rest ..

theorem parts_portCut (port : Nat) (perst : Bool) (d : Dev) : (portCut port perst d).parts = d.parts :=
  (congrArg Dev.parts (portCut_rest port perst d)).trans rfl

/-- The partitions of a port's functions, with their functions. -/
def portParts (port : Nat) (d : Dev) : List (Nat × Nat) :=
  (d.parts.filter (fun e => e.2.exist && e.2.fn / 64 == port)).map (fun e => (e.1, e.2.fn))

/-- What a port's reset does to a partition: a VF's is destroyed, the PF's reset. -/
def portPart (d : Dev) (e : Nat × Nat) : Dev := if e.2 % 64 = 0 then startReset e.1 d else destroyPart e.1 d

theorem portReset_eq (port : Nat) (perst : Bool) (d : Dev) : portReset port perst d =
    if d.boot.step ≠ 6 then portCut port perst d else (portParts port d).foldl portPart (portCut port perst d) := by
  have hcut := portCut_rest port perst d
  have hboot : (portCut port perst d).boot = d.boot := (congrArg Dev.boot hcut).trans rfl
  rw [portParts, ← parts_portCut port perst d, ← hboot]
  rfl

theorem resetsBegun_portPart (d : Dev) (e : Nat × Nat) : Partitions.ResetsBegun d (portPart d e) := by
  unfold portPart
  split
  · exact Partitions.resetsBegun_startReset ..
  · exact Partitions.resetsBegun_destroyPart ..

theorem portPart_spec {e : Nat × Nat} (he : (partOf d e.1).exist = true) :
    Partitions.resets (partOf (portPart d e) e.1) ∧ (e.2 % 64 ≠ 0 → (partOf (portPart d e) e.1).destroying = true) := by
  unfold portPart
  split
  · rename_i h
    exact ⟨Partitions.resets_startReset he, fun hn => absurd h hn⟩
  · obtain ⟨hdestroying, hresets⟩ := Partitions.destroyPart_spec he
    exact ⟨hresets, fun _ => hdestroying⟩

/-- After device-ready every partition of the port's functions is reset or will be, and a VF's destroyed. -/
theorem portParts_reset {port p : Nat} {x : Dev} (hparts : x.parts = d.parts) (he : (partOf d p).exist = true)
    (hport : (partOf d p).fn / 64 = port) :
    let d' := (portParts port d).foldl portPart x
    Partitions.resets (partOf d' p) ∧ ((partOf d p).fn % 64 ≠ 0 → (partOf d' p).destroying = true) := by
  have hmem : (p, (partOf d p).fn) ∈ portParts port d :=
    List.mem_map.mpr ⟨(p, partOf d p), List.mem_filter.mpr ⟨Partitions.mem_of_exist he, by simp [he, hport]⟩, rfl⟩
  have hex : (partOf x p).exist = true := by rwa [partOf, hparts]
  exact Partitions.of_foldl (d := x) resetsBegun_portPart
    (P := fun y => Partitions.resets (partOf y p) ∧ ((partOf d p).fn % 64 ≠ 0 → (partOf y p).destroying = true))
    (fun a b hab ha => ⟨hab.resets p ha.1, fun hn => hab.destroying p (ha.2 hn)⟩)
    (fun a ha => portPart_spec ((ha.exist p).trans hex)) _ hmem

/-- What a port's reset leaves of the port, the others, and the rest. -/
theorem portReset_rest (port : Nat) (perst : Bool) (d : Dev) :
    let d' := portReset port perst d
    d'.pcie = tmod {} d.pcie port (fun p => { perst := p.perst || perst }) ∧ d'.numVfs = tdel d.numVfs port ∧ d'.comp = d.comp ∧
    d'.cmds = d.cmds := by
  intro d'
  have hcut := portCut_rest port perst d
  have hd : d' = _ := portReset_eq port perst d
  by_cases h : d.boot.step ≠ 6
  · rw [hd, if_pos h, hcut]
    exact ⟨rfl, rfl, rfl, rfl⟩
  · rw [hd, if_neg h, (Partitions.ResetsBegun.foldl resetsBegun_portPart (portParts port d) (portCut port perst d)).rest, hcut]
    exact ⟨rfl, rfl, rfl, rfl⟩

/-- One port changed. -/
theorem modPcie_spec (port : Nat) (f : PciePort → PciePort) (d : Dev) :
    let d' := modPcie port f d
    pcieOf d' port = f (pcieOf d port) ∧ (∀ y, y ≠ port → pcieOf d' y = pcieOf d y) ∧ d' = { d with pcie := d'.pcie } :=
  ⟨tget_tmod_same .., fun _ hy => tget_tmod_other _ _ _ hy, rfl⟩

theorem pcieLinkUp_of {port : Nat} (h : (pcieEnabled d port && !(pcieOf d port).perst && decide (3 ≤ d.boot.step)) = true) :
    pcieLinkUp port d = modPcie port (fun p => { p with linkUp := true }) d := by
  simp only [Bool.and_eq_true, Bool.not_eq_true', decide_eq_true_eq] at h
  obtain ⟨⟨hon, hperst⟩, hstep⟩ := h
  exact if_pos ⟨hon, by simp [hperst], hstep⟩

theorem pcieLinkUp_of_not {port : Nat} (h : ¬ (pcieEnabled d port && !(pcieOf d port).perst && decide (3 ≤ d.boot.step)) = true) :
    pcieLinkUp port d = d :=
  if_neg fun ⟨hon, hperst, hstep⟩ => h (by simp [hon, hperst, hstep])

/-! ### The statement -/

/-- Settles O36: each reset by what it wipes, the boot it starts, and the event it logs. -/
theorem deviceResets : Obligations.DeviceResets := by
  intro straps sensor rail port temps perst s hstraps hsensor hrail hport hlen
  have hcold : Gives (.coldReset straps temps) s (coldReset straps temps s.dev) :=
    Flows.gives_of_exec (exec_coldReset straps temps s) (by rw [wf_coldReset, hlen]; simpa [within] using hstraps)
  have hassert : Gives .sysRstNAssert s (sysRstAssert s.dev) := Flows.gives_of_exec (exec_sysRstNAssert s) rfl
  have hrelease : Gives .sysRstNRelease s (sysRstRelease s.dev) := Flows.gives_of_exec (exec_sysRstNRelease s) rfl
  have hheld : Gives .resetHeld s (resetHeld s.dev) := Flows.gives_of_exec (exec_resetHeld s) rfl
  have htrip : Gives (.thermalTrip sensor) s (thermalTrip sensor s.dev) :=
    Flows.gives_of_exec (exec_thermalTrip sensor s) (by rw [wf_thermalTrip]; simpa [within] using hsensor)
  have hrailg : Gives (.railFault rail) s (railFault rail s.dev) :=
    Flows.gives_of_exec (exec_railFault rail s) (by rw [wf_railFault]; simpa [within] using hrail)
  have haon : Gives .vddAonLoss s (aonLoss s.dev) := Flows.gives_of_exec (exec_vddAonLoss s) rfl
  have hreset : Gives (.portReset port perst) s (portReset port perst s.dev) :=
    Flows.gives_of_exec (exec_portReset port perst s) (by rw [wf_portReset]; simpa [within] using hport)
  have hperst : Gives (.perstDeassert port) s (perstDeassert port s.dev) :=
    Flows.gives_of_exec (exec_perstDeassert port s) (by rw [wf_perstDeassert]; simpa [within] using hport)
  have hlink : Gives (.pcieLinkUp port) s (pcieLinkUp port s.dev) :=
    Flows.gives_of_exec (exec_pcieLinkUp port s) (by rw [wf_pcieLinkUp]; simpa [within] using hport)
  have hready : Gives (.pcieConfigReady port) s (pcieReady port s.dev) :=
    Flows.gives_of_exec (exec_pcieConfigReady port s) (by rw [wf_pcieConfigReady]; simpa [within] using hport)
  dsimp only
  refine ⟨?_, fun hr ha => ?_, fun h => ?_, fun h => ?_, fun hr ht => ?_, fun hr ht ha hs => ?_, fun b hb hr hl ht => ?_, fun h => ?_, fun h => ?_,
    fun h => ?_, ?_, ?_, ?_, ?_, ?_, ?_⟩
  · obtain ⟨hrest, hnor, ⟨hA, hB⟩, htemps, ⟨hlife, hfuses⟩, hstep, hnready, hntrip, hcause⟩ := coldBooted_coldReset straps temps s.dev
    refine ⟨_, hcold, ?_, ?_, fun k _ => ?_, ?_, hnor, hA, hB, hlife, hfuses, ?_, hstep, hnready, hntrip, hcause, fun a ha => ?_⟩
    · exact (coldBooted_coldReset straps temps s.dev).empty
    · rw [hrest]
      exact congrArg (fun n => ({ straps := n } : Pins)) (Nat.mod_eq_of_lt hstraps)
    · rw [tempQ, htemps]
      exact Clocks.tget_tabOf 0 temps k
    · rw [hrest]
      rfl
    · rw [hrest]
      rfl
    · have hregs : (coldReset straps temps s.dev).regs = (loadLimits (coldBase straps temps s.dev)).regs := by rw [hrest]
      exact (congrArg (fun t => tget (regResetOf a) t a) hregs).trans (regVal_loadLimits ha _)
  · rw [sysRstAssert_of_free hr ha] at hassert
    exact ⟨_, hassert, FromWarm.cleared rfl, regsWarm_of_limited rfl, rfl, rfl, rfl, rfl, rfl, rfl, rfl, rfl, rfl⟩
  · rwa [sysRstAssert_of_held h] at hassert
  · rwa [sysRstRelease_of_free h] at hrelease
  · rw [sysRstRelease_of_held hr, startBoot_of_tripped (d := unheld s.dev) ht] at hrelease
    exact hrelease
  · rw [sysRstRelease_of_held hr, startBoot_of_well (d := unheld s.dev) ht ha hs] at hrelease
    exact ⟨_, hrelease, bootBegin_unheld s.dev⟩
  · rw [resetHeld_of_due hb hr hl ht] at hheld
    have hlog := heldLogged_logged s.dev
    refine ⟨_, hheld, ?_, ?_, ?_, ?_, ?_⟩
    · rw [Egress.bitOf_eq_bitsOf]
      exact beq_iff_eq.mpr (Generation.regFld_setFld_same rResetCause 2 1 1 _)
    · exact Logs.lastCode_islandLog
    · rw [setFld_isl, show heldLogged s.dev = _ from hlog]
      rfl
    · rw [setFld_boot, show heldLogged s.dev = _ from hlog]
      rfl
    · rw [setFld_otp, show heldLogged s.dev = _ from hlog]
      rfl
  · rwa [resetHeld_of_not h] at hheld
  · rwa [thermalTrip, if_pos h] at htrip
  · rw [thermalTrip_of_not sensor h] at htrip
    obtain ⟨hcleared, hregs, hboot⟩ := thermalTrip_spec sensor s.dev
    exact ⟨_, htrip, hcleared, hregs, congrArg Boot.tripped hboot, congrArg Boot.fault hboot, congrArg Boot.step hboot, congrArg Boot.ready hboot,
      Logs.lastCode_islandLog, alert_islandLog rfl ..⟩
  · obtain ⟨hcleared, hregs, hfault, hnready, hstep⟩ := railFault_spec rail s.dev
    exact ⟨_, hrailg, hcleared, hregs, hfault, hnready, hstep, Logs.lastCode_islandLog⟩
  · exact ⟨_, haon, empty_aonLoss s.dev, rfl, rfl, rfl, rfl, rfl⟩
  · obtain ⟨hpcie, hvfs, hcomp, hcmds⟩ := portReset_rest port perst s.dev
    refine ⟨_, hreset, ?_, fun y hy => ?_, ?_, fun y hy => ?_, hcomp, hcmds, fun h => ?_, fun h p he hp => ?_⟩
    · rw [pcieOf, hpcie]
      exact tget_tmod_same ..
    · rw [pcieOf, hpcie]
      exact tget_tmod_other _ _ _ hy
    · rw [hvfs]
      exact tget_tdel_same ..
    · rw [hvfs]
      exact tget_tdel_other _ _ hy
    · rw [portReset_eq, if_pos h, portCut_rest]
      rfl
    · rw [portReset_eq, if_neg (fun hn => hn h)]
      exact portParts_reset (parts_portCut port perst s.dev) he hp
  · exact ⟨_, hperst, modPcie_spec ..⟩
  · split
    · rename_i h
      rw [pcieLinkUp_of h] at hlink
      obtain ⟨hat, -, hrest⟩ := modPcie_spec port (fun p => { p with linkUp := true }) s.dev
      exact ⟨_, hlink, hat, hrest⟩
    · rename_i h
      rwa [pcieLinkUp_of_not h] at hlink
  · split
    · rename_i h
      rw [pcieReady, if_pos h] at hready
      obtain ⟨hat, -, hrest⟩ := modPcie_spec port (fun p => { p with built := true }) s.dev
      exact ⟨_, hready, hat, hrest⟩
    · rename_i h
      rwa [pcieReady, if_neg h] at hready

end Sys2Proof.Resets
